-- ==== Sys2Proof/Word.lean ====
section
/-!
DEFINITION. The word types of the model. Registers, addresses held in registers and encoded fields are bit vectors;
everything that only counts or numbers is a plain number. A `Tbl` is a sparse table: a list of (key, value) pairs
whose operations are in Sys2Proof/Machine/Table.lean.
-/

namespace Sys2Proof

/-- One byte. -/
abbrev Byte := BitVec 8

/-- One 64-bit register (R578), or one gallery core general register (R302). -/
abbrev Word := BitVec 64

/-- A string of bytes in address order, the first at the lowest address. -/
abbrev Bytes := List Byte

/-- A sparse table from numbers to values. -/
abbrev Tbl (α : Type) := List (Nat × α)

end Sys2Proof
end

