-- ==== Sys2Proof/Syntax.lean ====
section
/-!
DEFINITION. The commands the XD-384 takes: one constructor of `Instr` for each row of spec/opcode_table.json. Units are
numbered as R21 numbers them (physical galleries 0 to 135, logical galleries 0 to 127, host ports 0 to 3, pseudo-channels 0
to 511 followed by annex channels as 512 to 519); encoded fields are bit vectors of the field's width. A happening outside
the digital block (a pin, a sensor, a partner, the outcome of an analogue test) carries what was observed as an operand
(log entry 3).
-/

namespace Sys2Proof

/-- Who sends a register write or a request (R65, R163, R472, R512, R533): the physical function of a port, a virtual
function that presents an instance, the Registrar, the Conservator, or the management interfaces (MCTP, UART). -/
inductive Source where
  | pf (port : Fin 4)
  | vf (inst : BitVec 8)
  | registrar
  | conservator
  | management
deriving DecidableEq, Repr

/-- A fetched host command, by instance, pair and command identifier (R393). -/
structure CmdRef where
  inst : BitVec 8
  pair : Fin 64
  cid : BitVec 16
deriving DecidableEq, Repr

/-- A PCIe configuration request (R53, R385): what it reads or writes. MSI-X Enable, Function Mask, ATS Enable and the
number of virtual functions are the fields the device acts on. -/
inductive ConfigReq where
  | read (reg : BitVec 12)
  | write (reg : BitVec 12) (v : BitVec 32)
  | msix (enable mask : Bool)
  | ats (enable : Bool)
  | numVfs (n : Fin 65)
deriving DecidableEq, Repr

/-- What a task did that only its gallery knows (R117, R131, R239): rows written to the lowest RESULT buffer, failing operator, and the
bytes it wrote to each RESULT buffer, in its write order (log entry 40). -/
structure TaskResult where
  rows : Nat
  op : BitVec 16
  written : List (BitVec 8 × Bytes)
deriving DecidableEq, Repr

/-- The reason an error response carries (R360): none, UNMAPPED, LOST, HOST. -/
inductive BusReason where
  | none | unmapped | lost | host
deriving DecidableEq, Repr

/-- Integer operations of the integer ALU classes (R317). The `U` forms are unsigned. -/
inductive IntOp where
  | add | addU | sub | subU | and | or | xor | sll | sllU | srl | sra
  | eq | ne | lt | ltU | le | leU | min | minU | max | maxU | lui
deriving DecidableEq, Repr

/-- The second operand of an integer operation: register B (R format) or IMM15 (I format). -/
inductive RegImm where
  | reg (b : BitVec 5)
  | imm (v : BitVec 15)
deriving DecidableEq, Repr

/-- Operations of the multiply and divide classes (R317). -/
inductive MulOp where
  | mul | mulU | div | divU | rem | remU | mulWide | mulWideU
deriving DecidableEq, Repr

/-- Operations of the bit-manipulation classes (R317). -/
inductive BitOp where
  | andn | orn | xnor | rotl | rotr | clz | ctz | pop | bswap | bset | bclr | binv | btest
  | crc32c (bytes : Fin 4)
deriving DecidableEq, Repr

/-- Data sizes of loads and stores (R316): 1, 2, 4 and 8 bytes. -/
inductive MemSize where
  | b1 | b2 | b4 | b8
deriving DecidableEq, Repr

/-- The offset of a memory operand: OFF12 (M format), or g[G] << SHIFT (X format). -/
inductive MemOff where
  | imm (off : BitVec 12)
  | idx (g : BitVec 5) (shift : BitVec 2)
deriving DecidableEq, Repr

/-- Atomic operations on local store (R311, R317). Compare-and-swap compares with g[D]. -/
inductive AtomicOp where
  | swap | add | cas
deriving DecidableEq, Repr

/-- What capability inspection reads (R317). -/
inductive CapField where
  | base | length | perms | otype | inst | tag | space
deriving DecidableEq, Repr

/-- Branch conditions. -/
inductive Cond where
  | eq | ne | lt | ltU | ge | geU
deriving DecidableEq, Repr

/-- Element-wise integer operations of the long-vector unit (R341: classes 0x51 to 0x57). -/
inductive VecOp where
  | add | sub | and | or | xor | sll | srl | sra | min | max | select | mul
deriving DecidableEq, Repr

/-- Comparisons of vector elements. -/
inductive CmpOp where
  | eq | ne | lt | le | gt | ge
deriving DecidableEq, Repr

/-- Logic on masks (class 0x5B). -/
inductive LogicOp where
  | and | or | xor | andn
deriving DecidableEq, Repr

/-- The compare class: a compare of elements, or mask logic. -/
inductive MaskOp where
  | cmp (op : CmpOp) (u : Bool)
  | logic (op : LogicOp)
deriving DecidableEq, Repr

/-- Reductions (R343). -/
inductive RedOp where
  | add | min | max
deriving DecidableEq, Repr

/-- Slides by g[B] elements, and the register-indexed permute. -/
inductive PermOp where
  | slideUp | slideDown | permute
deriving DecidableEq, Repr

/-- Moves between v, s and g registers, and broadcasts (class 0x66). -/
inductive VMove where
  | copy | bcastG (zx : Bool) | bcastV | toG (zx : Bool) | toS | fromS
deriving DecidableEq, Repr

/-- Integer operations of the short-vector unit (classes 0x40 to 0x43). -/
inductive SvOp where
  | add | sub | and | or | xor | sll | srl | sra | min | max
deriving DecidableEq, Repr

/-- Short compare into a g-register bitmask, select, byte shuffle (class 0x45). -/
inductive SvCmp where
  | cmp (op : CmpOp) (u : Bool)
  | select
  | shuffle
deriving DecidableEq, Repr

/-- Short load and store, and moves between s, g and v registers (class 0x47). -/
inductive SvMem where
  | load | store | gToS (lane : Fin 4) | sToG (lane : Fin 4) | vToS | sToV
deriving DecidableEq, Repr

/-- A pending event, by source, by directed source and gallery, or by host vector. -/
inductive EvtRef where
  | routed (n : BitVec 13)
  | directed (n : BitVec 13) (g : Fin 128)
  | vector (inst : BitVec 8) (v : BitVec 6)
deriving DecidableEq, Repr

/-- What is wrong with a DRAM access (R373, R375): the wrong bits of the code word that was read, by position (the block's data and check bits,
in the order in which they leave the DRAM), or a command or address error. -/
inductive MemErrKind where
  | bits (wrong : List Nat)
  | parity
deriving DecidableEq, Repr

/-- A TLB (R504): of a physical gallery, or of the engine with that SOURCE code of R506 and unit number. -/
inductive TlbUnit where
  | gallery (p : Fin 136)
  | engine (source : BitVec 4) (unit : BitVec 8)
deriving DecidableEq, Repr

/-- A unit, by BLOCK index of R577 (255: a die-to-die link) and number. -/
structure UnitRef where
  block : BitVec 8
  unit : BitVec 16
deriving DecidableEq, Repr

/-- What the ROM pass found (R33, R45, R46): the unit of a block the device cannot run without that has a fault repair
cannot cover;
galleries, Catalogue banks and Atrium store banks that fail; die-to-die lanes that fail in training, by link and group (R29); soft repairs made, as (BLOCK, unit, row); percentages of spare rows
left (SAF_RESERVE). -/
structure RomReport where
  fatal : Option UnitRef
  galleries : List (Fin 136)
  catBanks : List (Fin 128)
  atriumBanks : List (Fin 64)
  lanes : List (Fin 15 × BitVec 8)
  repairs : List (Nat × Nat × Nat)
  sramPct : BitVec 8
  dramPct : BitVec 8
deriving DecidableEq, Repr

/-- The faults of R523's table, the corrected errors of R276 and R526 (BLOCK, unit and row), and a 64-bit word of a local store that ECC
can no longer correct (R311), by its address / 8. `mechanism` is R517's code; a Catalogue
report tells the failing unit of its bank and whether it was read in a gap (R277). -/
inductive FaultReport where
  | gallery (p : Fin 136) (mechanism : BitVec 8)
  | sflLane (s : Fin 8)
  | folVerify (e : Fin 16)
  | prvLane (l : Fin 8)
  | prvCompare (failed : Bool)
  | catBank (b : Fin 128) (unit : BitVec 18) (inGap : Bool)
  | channel (ch : Fin 520)
  | atriumBank (b : Fin 64) (off : BitVec 20)
  | dmaParity (ch : Fin 64)
  | switchParity
  | control (block : BitVec 8)
  | volumeMismatch
  | accLogOne
  | accLogBoth
  | registrarLockstep
  | conservatorLockstep
  | portParity (port : Fin 4)
  | voltage (unit : UnitRef)
  | sramCorrected (unit : UnitRef) (row : BitVec 16)
  | localWord (p : Fin 136) (word : BitVec 18)
deriving DecidableEq, Repr

/-- What the canary sensors of an island tell (R528): the unit, the voltage they need at the current frequency in mV, and the highest
frequency in MHz at which they pass at 0.95 V or less; none where they fail even at the lowest. -/
structure CanaryReport where
  unit : UnitRef
  mv : BitVec 16
  permits : Option (BitVec 16)
deriving DecidableEq, Repr

/-- What the temperature sensors read at an evaluation (R547), in units of 1/16 °C: the highest of each of the 19 groups, and the island
sensor of each physical gallery, in order. -/
structure ThermalReport where
  groups : List (BitVec 16)
  galleries : List (BitVec 16)
deriving DecidableEq, Repr

/-- An hourly ageing report (R527): the mean junction temperature of the hour, and LIFE_PCT and MARGIN_MV as computed from the temperature
history with it. -/
structure AgeReport where
  mean : BitVec 8
  lifePct : BitVec 10
  marginMv : BitVec 16
deriving DecidableEq, Repr

/-- What Identify and SMART tell of an SSD (R418): capacity in 4 KiB blocks, percentage used, serial number, whether NSID 1 is in a
4 KiB format. -/
structure SsdInfo where
  capacity : BitVec 40
  pct : BitVec 8
  serial : Bytes
  fourK : Bool
deriving DecidableEq, Repr

/-- Where a Provenance request comes from (R488, R491): a DIGEST_SUBMIT command, or a write of a gallery's SUBMIT port. -/
inductive DigestFrom where
  | host (ref : CmdRef)
  | port (p : Fin 136) (v : BitVec 64)
deriving DecidableEq, Repr

/-- Kinds of DIMM (R382); a 3DS RDIMM is an RDIMM of stacked dies. -/
inductive DimmKind where
  | rdimm | udimm | lrdimm | nvdimm
deriving DecidableEq, Repr

/-- A DIMM as its SPD tells it (R382, R383): kind, device width in bits, capacity in GiB, package ranks, dies in a stack, and the highest speed bin
it supports in MT/s. -/
structure Dimm where
  kind : DimmKind
  width : BitVec 8
  gib : BitVec 9
  ranks : BitVec 4
  dies : BitVec 4
  mts : BitVec 16
deriving DecidableEq, Repr

/-- What the two slots of an annex channel hold: slot 2n and slot 2n + 1. -/
structure DimmReport where
  first : Option Dimm
  second : Option Dimm
deriving DecidableEq, Repr

/-- The DIMM population that CONFIGURE reads (R51), one report for each annex channel. -/
structure ConfigReport where
  annex : List DimmReport
deriving DecidableEq, Repr

/-- What training found (R51): archive stacks and annex channels that are absent or fail. -/
structure PartnerReport where
  stackSet : List (Fin 8)
  annex : List (Fin 8)
deriving DecidableEq, Repr

/-- The binding that a management message comes over (R571). -/
inductive MgmtBus where
  | smbus | i3c
deriving DecidableEq, Repr

/-- The numeric sensors, state sensors, numeric effecters and state effecters of R572. -/
inductive NumSensor where
  | power
  | railMillivolts (n : Fin 4)
  | railDeciamps (n : Fin 4)
  | temperature (k : Fin 19)
deriving DecidableEq, Repr
inductive StateSensor where
  | mode | degraded | faultN
deriving DecidableEq, Repr
inductive NumEffecter where
  | capWatts | throttleC | hotC
deriving DecidableEq, Repr
inductive StateEffecter where
  | coldReset | fwConfirm | returnPrepare | enterRecovery
deriving DecidableEq, Repr

/-- Where an SPDM request comes from (R573): the DOE mailbox of a port's physical function, or MCTP. -/
inductive SpdmPath where
  | doe (port : Fin 4)
  | mctp (bus : MgmtBus)
deriving DecidableEq, Repr

/-- The commands of the XD-384, one for each row of spec/opcode_table.json, in its order. -/
inductive Instr where
  /-- PWRGOOD_RISE (R33). -/
  | pwrgoodRise (gpio0Low : Bool)
  /-- PWRGOOD_FALL (R33). -/
  | pwrgoodFall
  /-- PFAIL_N_FALL (R56). -/
  | pfailNFall
  /-- DUMP_COMPLETE (R57). -/
  | dumpComplete (us : BitVec 16) (metaBytes : BitVec 19)
  /-- PFAIL_N_RISE (R60). -/
  | pfailNRise
  /-- DUMP_INVALIDATE (R60). -/
  | dumpInvalidate
  /-- DUMP_REPLAY (R61). -/
  | dumpReplay
  /-- DUMP_ACTION_REPLAY (R62). -/
  | dumpActionReplay (src : Source)
  /-- DUMP_ACTION_DISCARD (R62). -/
  | dumpActionDiscard (src : Source)
  /-- ROM_PASS_DONE (R48). -/
  | romPassDone (r : RomReport)
  /-- CONFIGURE_RECORDS_DONE (R50). -/
  | configureRecordsDone (r : ConfigReport)
  /-- CONFIGURE_COMPLETE (R55). -/
  | configureComplete (r : PartnerReport)
  /-- DEV_RESET_COLD (R43). -/
  | devResetCold (src : Source) (key : BitVec 16)
  /-- DEV_RESET_WARM (R43). -/
  | devResetWarm (src : Source) (key : BitVec 16)
  /-- DEV_RESET_REGISTRAR (R43). -/
  | devResetRegistrar (src : Source) (key : BitVec 16)
  /-- QUIESCE (R36). -/
  | quiesce (src : Source)
  /-- RESUME (R36). -/
  | resume (src : Source)
  /-- ENTER_RECOVERY (R33). -/
  | enterRecovery (src : Source)
  /-- DRAIN_COMPLETE (R35). -/
  | drainComplete
  /-- DRAIN_TIMEOUT (R35). -/
  | drainTimeout
  /-- HOLD_TIMEOUT (R36). -/
  | holdTimeout
  /-- MAINTENANCE_COMPLETE (R433). -/
  | maintenanceComplete
  /-- HOST_PORT_RESET (R43). -/
  | hostPortReset (port : Fin 4) (perst : Bool)
  /-- HOST_LINK_UP (R498). -/
  | hostLinkUp (port : Fin 4) (speed : BitVec 4) (width : BitVec 8) (flit : Bool)
  /-- FUNCTION_RESET (R411). -/
  | functionReset (port : Fin 4) (fn : Fin 65)
  /-- PCIE_CONFIG_REQUEST (R53). -/
  | pcieConfigRequest (port : Fin 4) (fn : Fin 65) (req : ConfigReq)
  /-- ATS_INVALIDATION (R502). -/
  | atsInvalidation (port : Fin 4) (fn : Fin 65)
  /-- THERMAL_TRIP (R550). -/
  | thermalTrip (sensor : Fin 19)
  /-- SYSREF_LOST (R542). -/
  | sysrefLost
  /-- SQ_DOORBELL (R390). -/
  | sqDoorbell (inst : BitVec 8) (q : Fin 64) (v : BitVec 64)
  /-- CQ_DOORBELL (R390). -/
  | cqDoorbell (inst : BitVec 8) (q : Fin 64) (v : BitVec 64)
  /-- XQ_ENABLE (R389). -/
  | xqEnable (inst : BitVec 8)
  /-- XQ_READY (R389). -/
  | xqReady (inst : BitVec 8)
  /-- CONTROLLER_RESET (R411). -/
  | controllerReset (inst : BitVec 8)
  /-- FETCH_TURN (R392). -/
  | fetchTurn (port : Fin 4)
  /-- ENTRY_FETCHED (R392). -/
  | entryFetched (port : Fin 4)
  /-- ADMIN_BUSY_TIMEOUT (R397). -/
  | adminBusyTimeout (ref : CmdRef) (waitMs : BitVec 16)
  /-- READ (R398). -/
  | read (ref : CmdRef)
  /-- WRITE (R398). -/
  | write (ref : CmdRef)
  /-- FLUSH (R410). -/
  | flush (ref : CmdRef)
  /-- DEALLOCATE (R400). -/
  | deallocate (ref : CmdRef)
  /-- OU_ADMIT (R405). -/
  | ouAdmit (ref : CmdRef)
  /-- WRITE_INSERT (R406). -/
  | writeInsert (ref : CmdRef)
  /-- READ_DATA_TAKEN (R407). -/
  | readDataTaken (ref : CmdRef) (bad : List (Fin 16 × Nat))
  /-- DRAIN_STEP (R429). -/
  | drainStep (bad : List (Fin 16 × Nat))
  /-- CREATE_QUEUE (R401). -/
  | createQueue (ref : CmdRef)
  /-- DELETE_QUEUE (R402). -/
  | deleteQueue (ref : CmdRef)
  /-- IDENTIFY (R403). -/
  | identify (ref : CmdRef)
  /-- LOG_READ (R404). -/
  | logRead (ref : CmdRef)
  /-- COUNTER_READ (R404). -/
  | counterRead (ref : CmdRef)
  /-- TRACE_CONFIG (R404). -/
  | traceConfig (ref : CmdRef)
  /-- PIPELINE_LOAD (R124). -/
  | pipelineLoad (ref : CmdRef)
  /-- PIPELINE_RUN (R125). -/
  | pipelineRun (ref : CmdRef)
  /-- PIPELINE_CANCEL (R129). -/
  | pipelineCancel (ref : CmdRef)
  /-- RESULT_READ (R130). -/
  | resultRead (ref : CmdRef)
  /-- DOCENT_DECISION (R138). -/
  | docentDecision
  /-- DOC_TCANCEL (R151). -/
  | docTcancel (src : Source) (v : BitVec 64)
  /-- TASKDONE (R330). -/
  | taskdone (p : Fin 136) (v : BitVec 64) (r : TaskResult)
  /-- CANCEL_TIMEOUT (R129). -/
  | cancelTimeout (g : Fin 128)
  /-- SHARE_EPOCH (R149). -/
  | shareEpoch
  /-- LEDGER_VERDICT (R240). -/
  | ledgerVerdict (run : Fin 1024) (task : BitVec 21)
  /-- TASK_CANCEL (R153). -/
  | taskCancel (p : Fin 136)
  /-- TAKE_EVENT (R331). -/
  | takeEvent (p : Fin 136)
  /-- DISPATCH_MESSAGE (R329). -/
  | dispatchMessage (p : Fin 136)
  /-- GALLERY_WAKE_DONE (R333). -/
  | galleryWakeDone (p : Fin 136)
  /-- GALLERY_PARK (R544). -/
  | galleryPark (p : Fin 136)
  /-- POSTED_WRITE_ERROR (R321). -/
  | postedWriteError (p : Fin 136) (addr : BitVec 64) (reason : BusReason)
  /-- INTEGER_ALU (R318). -/
  | integerAlu (p : Fin 136) (op : IntOp) (trap : Bool) (d a : BitVec 5) (b : RegImm)
  /-- MULTIPLY_DIVIDE (R318). -/
  | multiplyDivide (p : Fin 136) (op : MulOp) (trap : Bool) (d a b : BitVec 5)
  /-- BIT_MANIPULATION (R317). -/
  | bitManipulation (p : Fin 136) (op : BitOp) (d a b : BitVec 5)
  /-- INTEGER_LOAD (R306). -/
  | integerLoad (p : Fin 136) (d : BitVec 5) (c : BitVec 4) (size : MemSize) (sx : Bool) (off : MemOff)
  /-- INTEGER_STORE (R308). -/
  | integerStore (p : Fin 136) (d : BitVec 5) (c : BitVec 4) (size : MemSize) (off : MemOff)
  /-- LDC (R308). -/
  | ldc (p : Fin 136) (d c : BitVec 4) (off : MemOff)
  /-- STC (R308). -/
  | stc (p : Fin 136) (d c : BitVec 4) (off : MemOff)
  /-- ATOMIC (R311). -/
  | atomic (p : Fin 136) (op : AtomicOp) (d : BitVec 5) (c : BitVec 4) (b : BitVec 5)
  /-- CWINDOW (R306). -/
  | cwindow (p : Fin 136) (d c : BitVec 4) (b : BitVec 5)
  /-- CKEEP (R306). -/
  | ckeep (p : Fin 136) (d c : BitVec 4) (b : BitVec 5)
  /-- CCOPY (R306). -/
  | ccopy (p : Fin 136) (d c : BitVec 4)
  /-- CSTRIP (R306). -/
  | cstrip (p : Fin 136) (d c : BitVec 4)
  /-- CINST (R306). -/
  | cinst (p : Fin 136) (d c : BitVec 4) (b : BitVec 5) (auth : BitVec 4)
  /-- CBIND (R307). -/
  | cbind (p : Fin 136) (d c : BitVec 4) (b : BitVec 5) (auth : BitVec 4)
  /-- CUNBIND (R307). -/
  | cunbind (p : Fin 136) (d c : BitVec 4) (b : BitVec 5) (auth : BitVec 4)
  /-- CAP_INSPECT (R317). -/
  | capInspect (p : Fin 136) (f : CapField) (d : BitVec 5) (c : BitVec 4)
  /-- BRANCH (R319). -/
  | branch (p : Fin 136) (cond : Cond) (a b : BitVec 5) (off : BitVec 15)
  /-- JUMP (R319). -/
  | jump (p : Fin 136) (link : Bool) (off : BitVec 25)
  /-- JC (R319). -/
  | jc (p : Fin 136) (c : BitVec 4) (a : BitVec 5)
  /-- JCL (R319). -/
  | jcl (p : Fin 136) (d : BitVec 4) (gd : BitVec 5) (c : BitVec 4) (a : BitVec 5)
  /-- CCRR (R334). -/
  | ccrr (p : Fin 136) (d : BitVec 5) (auth : BitVec 4) (num : BitVec 12)
  /-- CCRW (R334). -/
  | ccrw (p : Fin 136) (d : BitVec 5) (auth : BitVec 4) (num : BitVec 12)
  /-- CCRRC (R334). -/
  | ccrrc (p : Fin 136) (d : BitVec 4) (auth : BitVec 4) (num : BitVec 12)
  /-- CCRWC (R334). -/
  | ccrwc (p : Fin 136) (d : BitVec 4) (auth : BitVec 4) (num : BitVec 12)
  /-- ERET (R324). -/
  | eret (p : Fin 136)
  /-- FENCE (R27). -/
  | fence (p : Fin 136)
  /-- WFE (R332). -/
  | wfe (p : Fin 136)
  /-- SLEEP (R333). -/
  | sleep (p : Fin 136) (auth : BitVec 4)
  /-- TRAP (R327). -/
  | trap (p : Fin 136) (n : BitVec 5)
  /-- BRK (R320). -/
  | brk (p : Fin 136)
  /-- SETVL (R337). -/
  | setvl (p : Fin 136) (gd ga : BitVec 5) (sew : BitVec 3)
  /-- VSETSC (R341). -/
  | vsetsc (p : Fin 136) (gs : BitVec 5)
  /-- VRDSTATE (R341). -/
  | vrdstate (p : Fin 136) (gd : BitVec 5) (n : BitVec 2)
  /-- VWAKE (R355). -/
  | vwake (p : Fin 136)
  /-- VECTOR_ALU (R342). -/
  | vectorAlu (p : Fin 136) (op : VecOp) (trap u : Bool) (vd va vb : BitVec 5) (vm : Bool)
  /-- VECTOR_WIDEN_MULTIPLY (R342). -/
  | vectorWidenMultiply (p : Fin 136) (src : BitVec 2) (u : Bool) (vd va vb : BitVec 5) (vm : Bool)
  /-- VDOT4B (R342). -/
  | vdot4b (p : Fin 136) (trap u : Bool) (vd va vb : BitVec 5) (vm : Bool)
  /-- VDOT2H (R342). -/
  | vdot2h (p : Fin 136) (trap u : Bool) (vd va vb : BitVec 5) (vm : Bool)
  /-- VDOT2W (R342). -/
  | vdot2w (p : Fin 136) (trap u : Bool) (vd va vb : BitVec 5) (vm : Bool)
  /-- VECTOR_COMPARE (R343). -/
  | vectorCompare (p : Fin 136) (op : MaskOp) (vd va vb : BitVec 5) (vm : Bool)
  /-- VECTOR_REDUCTION (R343). -/
  | vectorReduction (p : Fin 136) (op : RedOp) (trap u : Bool) (vd va : BitVec 5) (vm : Bool)
  /-- VCPOP (R343). -/
  | vcpop (p : Fin 136) (gd : BitVec 5) (vm : Bool)
  /-- VCOMPRESS (R343). -/
  | vcompress (p : Fin 136) (vd va : BitVec 5) (vm : Bool)
  /-- VEXPAND (R343). -/
  | vexpand (p : Fin 136) (vd va : BitVec 5) (vm : Bool)
  /-- VECTOR_PERMUTE (R341). -/
  | vectorPermute (p : Fin 136) (op : PermOp) (vd va vb : BitVec 5) (vm : Bool)
  /-- VCX (R343). -/
  | vcx (p : Fin 136) (vd vb : BitVec 5) (j k : BitVec 4) (u vm : Bool)
  /-- VHCRC (R344). -/
  | vhcrc (p : Fin 136) (n : BitVec 2) (vd va : BitVec 5) (vm : Bool)
  /-- VHMUL (R344). -/
  | vhmul (p : Fin 136) (vd va : BitVec 5) (vm : Bool)
  /-- VECTOR_MOVE (R341). -/
  | vectorMove (p : Fin 136) (op : VMove) (d a : BitVec 5) (vm : Bool)
  /-- VDADD (R345). -/
  | vdadd (p : Fin 136) (vd va vb : BitVec 5) (vm : Bool)
  /-- VDSUB (R345). -/
  | vdsub (p : Fin 136) (vd va vb : BitVec 5) (vm : Bool)
  /-- VDMUL (R345). -/
  | vdmul (p : Fin 136) (vd va vb : BitVec 5) (vm : Bool)
  /-- VDDIV (R345). -/
  | vddiv (p : Fin 136) (vd va vb : BitVec 5) (vm : Bool)
  /-- VDRESCALE (R345). -/
  | vdrescale (p : Fin 136) (vd va : BitVec 5) (vm : Bool)
  /-- VDMIN (R345). -/
  | vdmin (p : Fin 136) (vd va vb : BitVec 5) (vm : Bool)
  /-- VDMAX (R345). -/
  | vdmax (p : Fin 136) (vd va vb : BitVec 5) (vm : Bool)
  /-- VDCMP (R345). -/
  | vdcmp (p : Fin 136) (op : CmpOp) (vd va vb : BitVec 5) (vm : Bool)
  /-- VDFROMI (R345). -/
  | vdfromi (p : Fin 136) (vd va : BitVec 5) (vm : Bool)
  /-- VLACC (R346). -/
  | vlacc (p : Fin 136) (vd va : BitVec 5) (vm : Bool)
  /-- VLACCI (R346). -/
  | vlacci (p : Fin 136) (vd va : BitVec 5) (vm : Bool)
  /-- VLADD (R346). -/
  | vladd (p : Fin 136) (vd va vb : BitVec 5) (vm : Bool)
  /-- VLNARROW (R346). -/
  | vlnarrow (p : Fin 136) (vd va : BitVec 5) (vm : Bool)
  /-- VLRED (R346). -/
  | vlred (p : Fin 136) (vd va : BitVec 5) (vm : Bool)
  /-- VLD (R347). -/
  | vld (p : Fin 136) (vd : BitVec 5) (c : BitVec 4) (gb : BitVec 5) (vm : Bool) (shift : BitVec 2)
  /-- VST (R347). -/
  | vst (p : Fin 136) (vd : BitVec 5) (c : BitVec 4) (gb : BitVec 5) (vm : Bool) (shift : BitVec 2)
  /-- VGATH (R348). -/
  | vgath (p : Fin 136) (vd : BitVec 5) (c : BitVec 4) (vb : BitVec 5) (vm : Bool) (shift : BitVec 2) (wide : Bool)
  /-- VSCAT (R348). -/
  | vscat (p : Fin 136) (vd : BitVec 5) (c : BitVec 4) (vb : BitVec 5) (vm : Bool) (shift : BitVec 2) (wide : Bool)
  /-- SV_ALU (R353). -/
  | svAlu (p : Fin 136) (op : SvOp) (esw : BitVec 2) (trap u : Bool) (sd sa sb : BitVec 4)
  /-- SV_MULTIPLY (R353). -/
  | svMultiply (p : Fin 136) (wide high : Bool) (esw : BitVec 2) (trap u : Bool) (sd sa sb : BitVec 4)
  /-- SV_COMPARE (R353). -/
  | svCompare (p : Fin 136) (op : SvCmp) (esw : BitVec 2) (sd sa sb : BitVec 4)
  /-- SV_HASH (R344). -/
  | svHash (p : Fin 136) (crc : Option (BitVec 2)) (esw : BitVec 2) (sd sa : BitVec 4)
  /-- SV_LOAD_STORE (R353). -/
  | svLoadStore (p : Fin 136) (op : SvMem) (sd : BitVec 4) (a b : BitVec 5)
  /-- LVU_POWER_OFF (R354). -/
  | lvuPowerOff (p : Fin 136)
  /-- LVU_WAKE_DONE (R355). -/
  | lvuWakeDone (p : Fin 136)
  /-- SFL_SUBMIT (R180). -/
  | sflSubmit (f : Fin 8) (p : Fin 136) (v : BitVec 64)
  /-- SFL_GET (R179). -/
  | sflGet (f : Fin 8) (p : Fin 136) (v : BitVec 64)
  /-- SFL_ABORT (R190). -/
  | sflAbort (f : Fin 8) (p : Fin 136) (v : BitVec 64)
  /-- SFL_DESCRIPTOR_START (R181). -/
  | sflDescriptorStart (f : Fin 8)
  /-- SFL_ROWGROUP_EVAL (R184). -/
  | sflRowgroupEval (f : Fin 8)
  /-- SFL_WRITE_ERROR (R191). -/
  | sflWriteError (f : Fin 8) (p : Fin 136) (tag : BitVec 16)
  /-- EXC_SEND (R201). -/
  | excSend (p : Fin 136) (stride : Fin 7)
  /-- EXC_SEND_RESUME (R203). -/
  | excSendResume (p : Fin 136) (stride : Fin 7)
  /-- EXC_ALLOC_TIMEOUT (R203). -/
  | excAllocTimeout (p : Fin 136)
  /-- EXC_NEXT (R209). -/
  | excNext (p : Fin 136) (v : BitVec 64)
  /-- EXC_PUBLISH (R206). -/
  | excPublish
  /-- EXC_VOID (R207). -/
  | excVoid
  /-- EXC_RELEASE (R213). -/
  | excRelease
  /-- EXC_RUN_END (R214). -/
  | excRunEnd
  /-- CAT_SEARCH_PORT (R269). -/
  | catSearchPort (p : Fin 136) (req : BitVec 128)
  /-- CAT_BATCH_CLOSE (R256). -/
  | catBatchClose (owner : BitVec 8) (set : Fin 64)
  /-- CAT_PASS_SLOT (R257). -/
  | catPassSlot
  /-- CATALOGUE_BATCH (R270). -/
  | catalogueBatch (ref : CmdRef)
  /-- SEARCH_FIRST (R253). -/
  | searchFirst (ref : CmdRef)
  /-- SEARCH_ALL (R253). -/
  | searchAll (ref : CmdRef)
  /-- APPEND (R260). -/
  | append (ref : CmdRef)
  /-- INSERT (R261). -/
  | insert (ref : CmdRef)
  /-- CAT_WRITE (R260). -/
  | catWrite (ref : CmdRef)
  /-- DELETE (R262). -/
  | delete (ref : CmdRef)
  /-- CAT_READ (R260). -/
  | catRead (ref : CmdRef)
  /-- CLEAR (R260). -/
  | clear (ref : CmdRef)
  /-- CAT_GROUP_ENABLE (R254). -/
  | catGroupEnable (src : Source) (n : BitVec 7) (v : BitVec 63)
  /-- CAT_GROUP_DISABLE (R264). -/
  | catGroupDisable (src : Source) (n : BitVec 7) (v : BitVec 63)
  /-- CAT_DISABLE_EFFECT (R264). -/
  | catDisableEffect (n : BitVec 7)
  /-- CAT_REFILL_DONE (R264). -/
  | catRefillDone (n : BitVec 7)
  /-- FOL_SUBMIT (R291). -/
  | folSubmit (p : Fin 136) (v : BitVec 64)
  /-- FOL_APPEND (R292). -/
  | folAppend (p : Fin 136) (v : BitVec 64)
  /-- FOL_ABORT (R298). -/
  | folAbort (p : Fin 136) (v : BitVec 64)
  /-- FOL_DESCRIPTOR_START (R293). -/
  | folDescriptorStart (e : Fin 16)
  /-- FOL_STRIP (R288). -/
  | folStrip (e : Fin 16)
  /-- FOL_TASK_NOTICE (R299). -/
  | folTaskNotice
  /-- FOL_WRITE_ERROR (R299). -/
  | folWriteError (e : Fin 16) (p : Fin 136) (tag : BitVec 16)
  /-- FOL_ROLE_WRITE (R279). -/
  | folRoleWrite (src : Source) (e : Fin 16) (role : BitVec 2)
  /-- DMA_SUBMIT (R444). -/
  | dmaSubmit (p : Fin 136) (v : BitVec 64)
  /-- DMA_APPEND (R445). -/
  | dmaAppend (p : Fin 136) (v : BitVec 64)
  /-- DMA_ABORT (R450). -/
  | dmaAbort (p : Fin 136) (v : BitVec 64)
  /-- CQ_CFG (R443). -/
  | cqCfg (p : Fin 136) (v : BitVec 64)
  /-- CQ_HEAD (R446). -/
  | cqHead (p : Fin 136) (v : BitVec 64)
  /-- DMA_DESCRIPTOR_START (R441). -/
  | dmaDescriptorStart (ch : Fin 64)
  /-- DMA_TRANSFER (R444). -/
  | dmaTransfer (ch : Fin 64)
  /-- DMA_RECORD_POST (R448). -/
  | dmaRecordPost (ch : Fin 64)
  /-- DMA_HOST_ERROR (R449). -/
  | dmaHostError (ch : Fin 64) (p : Fin 136) (tag : BitVec 16)
  /-- DMA_TASK_NOTICE (R451). -/
  | dmaTaskNotice
  /-- DMA_WRITE_ERROR (R451). -/
  | dmaWriteError (p : Fin 136)
  /-- EVT_RAISE_PORT (R461). -/
  | evtRaisePort (p : Fin 136) (v : BitVec 64)
  /-- EVT_CLAIM (R466). -/
  | evtClaim (p : Fin 136) (v : BitVec 64)
  /-- EVT_RAISE (R472). -/
  | evtRaise (src : Source) (v : BitVec 64)
  /-- EVT_ROUTE_WRITE (R464). -/
  | evtRouteWrite (src : Source) (n : BitVec 13) (v : BitVec 64)
  /-- EVT_PEND_WITHDRAW (R459). -/
  | evtPendWithdraw (src : Source) (n : BitVec 7) (v : BitVec 64)
  /-- EVT_COAL_WRITE (R467). -/
  | evtCoalWrite (src : Source) (k : BitVec 4) (v : BitVec 64)
  /-- EVT_HOLD_WRITE (R462). -/
  | evtHoldWrite (src : Source) (v : BitVec 64)
  /-- MSIX_TABLE_WRITE (R468). -/
  | msixTableWrite (inst : BitVec 8) (off : BitVec 10) (wide : Bool) (v : BitVec 64)
  /-- EVENT_RAISE (R459). -/
  | eventRaise (n : BitVec 13) (g : Fin 128)
  /-- EVT_ARBITER_CYCLE (R463). -/
  | evtArbiterCycle
  /-- EVT_COAL_TIMEOUT (R467). -/
  | evtCoalTimeout (slot : EvtRef)
  /-- EVT_TASK_NOTICE (R470). -/
  | evtTaskNotice (g : Fin 128)
  /-- EVT_FENCE_NOTICE (R471). -/
  | evtFenceNotice (g : Fin 128)
  /-- DIGEST_OPEN (R475). -/
  | digestOpen (src : DigestFrom)
  /-- DIGEST_UPDATE (R480). -/
  | digestUpdate (src : DigestFrom)
  /-- DIGEST_SAVE (R486). -/
  | digestSave (src : DigestFrom)
  /-- DIGEST_RESTORE (R487). -/
  | digestRestore (src : DigestFrom)
  /-- DIGEST_CLOSE (R489). -/
  | digestClose (src : DigestFrom)
  /-- PRV_LANE_BLOCK (R477). -/
  | prvLaneBlock (l : Fin 8)
  /-- PRV_COMPARE_DONE (R484). -/
  | prvCompareDone (k : BitVec 8) (agree : Bool)
  /-- PRV_OPEN_RESUME (R491). -/
  | prvOpenResume
  /-- PRV_TASK_NOTICE (R491). -/
  | prvTaskNotice
  /-- MEM_REQUEST_ISSUE (R367). -/
  | memRequestIssue (ch : Fin 520)
  /-- MEM_READ_RETURN (R373). -/
  | memReadReturn (ch : Fin 520) (block : Nat) (err : MemErrKind)
  /-- MEM_CHANNEL_RELEASE (R377). -/
  | memChannelRelease (ch : Fin 520)
  /-- MEM_RELEASE_TIMEOUT (R377). -/
  | memReleaseTimeout (ch : Fin 520)
  /-- MEM_AGE_PROMOTE (R367). -/
  | memAgePromote (ch : Fin 520) (order : Nat)
  /-- MEM_REFRESH_DUE (R369). -/
  | memRefreshDue (ch : Fin 520)
  /-- MEM_TEMP_SAMPLE (R370). -/
  | memTempSample (ch : Fin 520) (celsius : Nat) (mr4 : Fin 3)
  /-- MEM_RH_WINDOW (R372). -/
  | memRhWindow (ch : Fin 520)
  /-- PATROL_SCRUB (R374). -/
  | patrolScrub (ch : Fin 520) (block : Nat) (err : MemErrKind)
  /-- SPPR (R381). -/
  | sppr (ch : Fin 520) (row : Nat) (left : Option (BitVec 8))
  /-- MEM_SET_MAP_WRITE (R363). -/
  | memSetMapWrite (src : Source) (n : Fin 16) (v : BitVec 64)
  /-- SSD_LINK_UP (R418). -/
  | ssdLinkUp (n : Fin 16) (width : BitVec 4) (speed : BitVec 4)
  /-- SSD_IDENTIFY_DONE (R418). -/
  | ssdIdentifyDone (n : Fin 16) (info : SsdInfo)
  /-- SSD_REMOVAL (R420). -/
  | ssdRemoval (n : Fin 16)
  /-- NVME_COMPLETION (R419). -/
  | nvmeCompletion (n : Fin 16) (id : Nat) (ok : Bool)
  /-- NVME_TIMEOUT (R419). -/
  | nvmeTimeout (n : Fin 16) (id : Nat)
  /-- NVME_ABORT_TIMEOUT (R419). -/
  | nvmeAbortTimeout (n : Fin 16) (id : Nat)
  /-- SSD_READY_TIMEOUT (R419). -/
  | ssdReadyTimeout (n : Fin 16)
  /-- ASSEMBLE_TIMEOUT (R423). -/
  | assembleTimeout
  /-- REBUILD_STRIPE (R430). -/
  | rebuildStripe (v : Fin 64) (bad : List (Fin 16 × Nat))
  /-- ROLE_REQ_SPARE (R418). -/
  | roleReqSpare (src : Source) (n : Fin 16)
  /-- ROLE_REQ_FREE (R418). -/
  | roleReqFree (src : Source) (n : Fin 16)
  /-- WIPE_LABEL (R418). -/
  | wipeLabel (src : Source) (n : Fin 16)
  /-- VOLUME_CREATE (R431). -/
  | volumeCreate (ref : CmdRef)
  /-- VOLUME_DELETE (R432). -/
  | volumeDelete (ref : CmdRef)
  /-- FORMAT_VOLUME (R433). -/
  | formatVolume (ref : CmdRef)
  /-- SANITISE (R433). -/
  | sanitise (ref : CmdRef)
  /-- MAINTENANCE_STEP (R434). -/
  | maintenanceStep (v : BitVec 16) (n : Fin 16)
  /-- INSTANCE_CREATE (R496). -/
  | instanceCreate (ref : CmdRef)
  /-- INSTANCE_SHARE (R501). -/
  | instanceShare (ref : CmdRef)
  /-- INSTANCE_FREEZE (R507). -/
  | instanceFreeze (ref : CmdRef)
  /-- FREEZE_DRAIN_DONE (R507). -/
  | freezeDrainDone (inst : BitVec 8)
  /-- FREEZE_TIMEOUT (R507). -/
  | freezeTimeout (inst : BitVec 8)
  /-- INSTANCE_EXPORT (R508). -/
  | instanceExport (ref : CmdRef)
  /-- INSTANCE_IMPORT (R510). -/
  | instanceImport (ref : CmdRef)
  /-- INSTANCE_DESTROY (R497). -/
  | instanceDestroy (ref : CmdRef)
  /-- MAP (R503). -/
  | map (src : Source) (ctrl : BitVec 64)
  /-- UNMAP (R504). -/
  | unmap (src : Source) (ctrl : BitVec 64)
  /-- SET_PASID (R503). -/
  | setPasid (src : Source) (ctrl : BitVec 64)
  /-- TLB_INVAL_ACK (R504). -/
  | tlbInvalAck (unit : TlbUnit)
  /-- FAULT_REPORT (R523). -/
  | faultReport (f : FaultReport)
  /-- RESERVE_SWAP (R19). -/
  | reserveSwap (p : Fin 136)
  /-- CHECKER_INJECT (R519). -/
  | checkerInject (unit : UnitRef)
  /-- INJECT_TIMEOUT (R519). -/
  | injectTimeout (unit : UnitRef)
  /-- TEST_CLAIM (R520). -/
  | testClaim (p : Fin 136)
  /-- TEST_LATE (R520). -/
  | testLate (p : Fin 136)
  /-- STRUCTURAL_TEST_DONE (R521). -/
  | structuralTestDone (p : Fin 136) (pass : Bool) (left : Option (BitVec 8))
  /-- UNIT_RETEST (R523). -/
  | unitRetest (unit : UnitRef) (pass : Bool)
  /-- REGISTRAR_HEARTBEAT (R529). -/
  | registrarHeartbeat
  /-- HEARTBEAT_TIMEOUT (R529). -/
  | heartbeatTimeout
  /-- WATCHDOG_KICK (R530). -/
  | watchdogKick
  /-- WATCHDOG_TIMEOUT (R530). -/
  | watchdogTimeout
  /-- LANE_FAIL (R29). -/
  | laneFail (link : Fin 15) (group : BitVec 8)
  /-- FLIT_PARITY_ERROR (R28). -/
  | flitParityError (link : Fin 15) (group : BitVec 8)
  /-- RETURN_PREPARE (R532). -/
  | returnPrepare (src : Source) (v : BitVec 64)
  /-- CANARY_LOOP (R528). -/
  | canaryLoop (r : CanaryReport)
  /-- RAIL_SAMPLE (R545). -/
  | railSample (rail : Fin 4) (mv deciamps : BitVec 16)
  /-- POWER_EVALUATION (R545). -/
  | powerEvaluation (r : ThermalReport)
  /-- PWR_CAP_WRITE (R545). -/
  | pwrCapWrite (src : Source) (v : BitVec 64)
  /-- FW_PIECE (R563). -/
  | fwPiece (ref : CmdRef)
  /-- FW_COMMIT (R565). -/
  | fwCommit (ref : CmdRef)
  /-- FW_ACTIVATE (R566). -/
  | fwActivate (ref : CmdRef)
  /-- FW_CONFIRM (R567). -/
  | fwConfirm (ref : CmdRef)
  /-- SETTINGS_SAVE (R559). -/
  | settingsSave (src : Source)
  /-- SETTINGS_CLEAR (R559). -/
  | settingsClear (src : Source)
  /-- RECOVERY_GO (R568). -/
  | recoveryGo (port : Fin 4) (slot : Bool) (block : BitVec 12)
  /-- RECOVERY_FINISH (R570). -/
  | recoveryFinish (port : Fin 4) (slot : Bool)
  /-- UART_DATA (R569). -/
  | uartData (frame : Bytes)
  /-- UART_FINISH (R570). -/
  | uartFinish (frame : Bytes)
  /-- UART_SPEED (R569). -/
  | uartSpeed (frame : Bytes)
  /-- I3C_DYNAMIC_ADDRESS (R571). -/
  | i3cDynamicAddress (addr : BitVec 7)
  /-- SET_ENDPOINT_ID (R571). -/
  | setEndpointId (bus : MgmtBus) (op : BitVec 2) (eid : BitVec 8)
  /-- GET_ENDPOINT_ID (R571). -/
  | getEndpointId (bus : MgmtBus)
  /-- GET_MCTP_VERSION_SUPPORT (R571). -/
  | getMctpVersionSupport (bus : MgmtBus)
  /-- GET_MESSAGE_TYPE_SUPPORT (R571). -/
  | getMessageTypeSupport (bus : MgmtBus)
  /-- GET_ENDPOINT_UUID (R571). -/
  | getEndpointUuid (bus : MgmtBus)
  /-- GETTID (R572). -/
  | gettid (bus : MgmtBus)
  /-- SETTID (R572). -/
  | settid (bus : MgmtBus) (tid : BitVec 8)
  /-- GETPLDMVERSION (R572). -/
  | getpldmversion (bus : MgmtBus) (type : BitVec 6)
  /-- GETPLDMTYPES (R572). -/
  | getpldmtypes (bus : MgmtBus)
  /-- GETPLDMCOMMANDS (R572). -/
  | getpldmcommands (bus : MgmtBus) (type : BitVec 6)
  /-- GETPDR (R572). -/
  | getpdr (bus : MgmtBus) (handle : BitVec 32)
  /-- GETSENSORREADING (R572). -/
  | getsensorreading (bus : MgmtBus) (sensor : NumSensor)
  /-- GETSTATESENSORREADINGS (R572). -/
  | getstatesensorreadings (bus : MgmtBus) (sensor : StateSensor)
  /-- SETNUMERICEFFECTERVALUE (R572). -/
  | setnumericeffectervalue (bus : MgmtBus) (effecter : NumEffecter) (v : BitVec 16)
  /-- SETSTATEEFFECTERSTATES (R572). -/
  | setstateeffecterstates (bus : MgmtBus) (effecter : StateEffecter)
  /-- QUERYDEVICEIDENTIFIERS (R572). -/
  | querydeviceidentifiers (bus : MgmtBus)
  /-- GETFIRMWAREPARAMETERS (R572). -/
  | getfirmwareparameters (bus : MgmtBus)
  /-- REQUESTUPDATE (R572). -/
  | requestupdate (bus : MgmtBus) (version : Bytes) (imageBytes : BitVec 32)
  /-- PASSCOMPONENTTABLE (R572). -/
  | passcomponenttable (bus : MgmtBus)
  /-- UPDATECOMPONENT (R572). -/
  | updatecomponent (bus : MgmtBus)
  /-- REQUESTFIRMWAREDATA (R572). -/
  | requestfirmwaredata (bus : MgmtBus) (data : Bytes)
  /-- TRANSFERCOMPLETE (R572). -/
  | transfercomplete (bus : MgmtBus)
  /-- VERIFYCOMPLETE (R572). -/
  | verifycomplete (bus : MgmtBus)
  /-- APPLYCOMPLETE (R572). -/
  | applycomplete (bus : MgmtBus)
  /-- ACTIVATEFIRMWARE (R572). -/
  | activatefirmware (bus : MgmtBus) (selfContained : Bool)
  /-- GETSTATUS (R572). -/
  | getstatus (bus : MgmtBus)
  /-- CANCELUPDATECOMPONENT (R572). -/
  | cancelupdatecomponent (bus : MgmtBus)
  /-- CANCELUPDATE (R572). -/
  | cancelupdate (bus : MgmtBus)
  /-- SPDM_REQUEST (R573). -/
  | spdmRequest (path : SpdmPath) (msg : Bytes)
  /-- MANAGER_CLAIM (R498). -/
  | managerClaim (port : Fin 4) (keyHash : List (BitVec 8))
  /-- MIGKEY_INSTALL (R574). -/
  | migkeyInstall (keyHash key keyId : List (BitVec 8))
  /-- COUNTER_WRITE (R582). -/
  | counterWrite (src : Source) (off : BitVec 26) (v : BitVec 64)
  /-- REGISTER_WRITE (R578). -/
  | registerWrite (src : Source) (off : BitVec 26) (size : Nat) (v : BitVec 64)
  /-- PERST_N_DEASSERT (R51). -/
  | perstNDeassert (port : Fin 4)
  /-- REGISTRAR_RESTART_DONE (R529). -/
  | registrarRestartDone
  /-- LINK_RETRAIN_DONE (R29). -/
  | linkRetrainDone (link : Fin 15)
  /-- UART_SPEED_CHANGE (R569). -/
  | uartSpeedChange
  /-- SAF_AGE_UPDATE (R527). -/
  | safAgeUpdate (r : AgeReport)
  /-- UNASSIGNED_INSTRUCTION (R317). -/
  | unassignedInstruction (p : Fin 136)
deriving DecidableEq, Repr

end Sys2Proof
end

