-- ==== Sys2Proof/Decode.lean ====
section
/-!
DEFINITION. The decoder of the opcode table's words. Commands of this block are register accesses, bus operations, entries of
host queues and happenings on pins; spec/opcode_table.json gives no row any bits, so no word spells a command.
-/

namespace Sys2Proof

/-- The rows of spec/opcode_table.json that give bits: mask, value and command. There are none. -/
def tableRows : List (Nat × Nat × Instr) := []

/-- The command that a word of `nbits` bits spells by the table's bits. -/
def decodeTableWord (nbits w : Nat) : Option Instr :=
  (tableRows.find? (fun r => (w % 2 ^ nbits) &&& r.1 == r.2.1)).map (fun r => r.2.2)

end Sys2Proof
end

