-- ==== Sys2Proof/Config.lean ====
section
/-!
DEFINITION. What an implementation of the XD-384 fixes and the spec leaves open (free values: constants without a body, so
no proof can see a value of one), and the sizes that the spec gives.
-/

namespace Sys2Proof.Config

/-! ### Free values -/

/-- The n-th value drawn where the spec gives no value (undefined buffer contents, a random source, an unstated result).
`Dev.fresh` counts the draws (log entry 1). -/
opaque freeWord : Nat → BitVec 64

/-- Division corners of the integer divider (R317 names the operations and no result): operation code, dividend, divisor. -/
opaque divCorner : Nat → BitVec 64 → BitVec 64 → BitVec 64

/-- The bank and the row of a DRAM block of a channel (R367 speaks of row hits, R371 of activated rows; no rule maps blocks to
rows). -/
opaque dramBank : Nat → Nat → Nat
opaque dramRow : Nat → Nat → Nat

/-- The blocks of a channel's row, in the order in which a repair copies them (R381). -/
opaque rowBlocks : Nat → Nat → List Nat

/-- The refresh postponement limit that JESD79-5 sets for an annex channel's refresh mode, by refresh rate (R369). -/
opaque annexPostpone : Nat → Nat

/-- What the field of a null slot holds in a staged row, a run record or a partial row, by its width, where R199 and R229 give no bytes
(log entry 118). -/
opaque nullField : Nat → Nat

/-- The type of the slot of a SUM, MIN or MAX (by FUNC) that has seen no input row, so no source type (R225; log entry 118). -/
opaque unseenTy : Nat → Nat

/-- Does an instruction word whose MAJOR is assigned have an assigned MINOR or FUNCT, and zero in the bits that a field naming a capability
leaves (R316, R317, R340: no rule lists the codes of the classes; log entry 98)? -/
opaque minorAssigned : Nat → Bool

/-- STRIDE of a spilled row with a slot that has no staged form, by its slots (R219 gives spill chains no layout; log entry 141). -/
opaque spillStride : Nat → Nat

/-- The rank, by draw and number, of a row that leaves a HASH_PROBE: R215 leaves the order of those rows open (log entry 141). -/
opaque probeRank : Nat → Nat → Nat

/-- Which of the page sizes that fit it a carried leaf had, by VA and entry: a MAPPINGS record has no place for the size (R509; log entry 43). -/
opaque leafSize : Nat → Nat → Nat

/-- The silicon default of a register of PCIe configuration space, by function number of its port and offset (R53: no rule lists them). -/
opaque configSpace : Nat → Nat → BitVec 32

/-- The offset in BAR0 at which the bytes of a frozen log (by LOG code) begin in SAFE-STOP (R40 makes them readable there; no rule gives the
place; log entry 125). -/
opaque frozenLogBase : Nat → Nat

/-! ### Secrets, and signature checks over keys fused at manufacture -/

/-- A key that the device derives from its fused secret (R425, R486, R574) or from a migration domain key (R509): purpose, domain
key (empty for the fused secret). 32 bytes are taken. -/
opaque deriveKey : Nat → Bytes → Bytes

/-- The SHA-384 hashes of the two image-signing keys, and of the attestation public key (R47, R421, R486): fused. -/
opaque fusedEcdsa : Bytes
opaque fusedLms : Bytes
opaque attestation : Bytes

/-- Verification of an ECDSA P-384 and of an LMS signature: public key, signed bytes, signature (R47). -/
opaque ecdsaOk : Bytes → Bytes → Bytes → Bool
opaque lmsOk : Bytes → Bytes → Bytes → Bool

/-- The response of the SPDM responder (R573: DSP0274) to a request, by a fresh number and the measurements of the running code. -/
opaque spdmResponse : Nat → List Bytes → Bytes → Bytes

/-- The code of the ROM (R573, index 1): fixed at manufacture. -/
opaque romCode : Bytes

/-- What the management endpoint returns where only a named standard fixes the content (R571, R572: version lists, PDRs, identifiers):
topic and index. -/
opaque mgmtText : Nat → Nat → Bytes

/-- The serial number and UUID of a part (R403, R571): fixed at manufacture. -/
opaque serial : Bytes
opaque uuid : Bytes

/-! ### Sizes the spec gives -/

/-- Physical galleries (R11), and logical galleries (R17). -/
def galleries : Nat := 136
def logical : Nat := 128
/-- Bytes of the write buffer and the most its metadata takes in a dump (R57), and of a block (R398). -/
def writeBuffer : Nat := 25165824
def dumpMetadata : Nat := 262144
def blockBytes : Nat := 4096
/-- Entries of a Docent ready list (R140), of the completion intake (R143), contexts of the share quotas and in reserve (R134),
run-table entries (R134), runs of one instance (R125). -/
def levelEntries : Nat := 65536
def intakeEntries : Nat := 256
def shareContexts : Nat := 2031616
def reserveContexts : Nat := 65536
def runEntries : Nat := 1024

/-- A handle that no run has. -/
def noRun : Nat := 2 ^ 64
def instRuns : Nat := 16
/-- Local store of a gallery (R11); its firmware area begins here, and the mailbox lies there (R311, R329). -/
def localBytes : Nat := 0x200000
def firmwareBase : Nat := 0x180000
def mailbox : Nat := 0x1FFFC0

end Sys2Proof.Config
end

