-- ==== Sys2Proof/Machine/Memory.lean ====
section
/-!
DEFINITION. The memory of the model: ONE list of (key, byte) cells in canonical form, keys strictly rising and no cell
holding zero. A byte that is not listed reads as zero (log entry 2). The keys of every store of the device are laid out in
Sys2Proof/Machine/AddressMap.lean; this file knows only numbers.
-/

namespace Sys2Proof.Machine

/-- Cells in rising order of key, none holding zero. -/
abbrev Memory := List Host.Cell

/-- Every cell of the list lies above `k`, the keys rise strictly and no cell holds zero. -/
def Memory.above (k : Nat) : Memory → Bool
  | [] => true
  | c :: m => decide (k < c.1) && (c.2 != 0) && Memory.above c.1 m

/-- The canonical form. -/
def Memory.wf : Memory → Bool
  | [] => true
  | c :: m => (c.2 != 0) && Memory.above c.1 m

/-- Read one byte. -/
def Memory.get (m : Memory) (a : Nat) : Byte :=
  match m with
  | [] => 0
  | c :: m => if c.1 = a then c.2 else if a < c.1 then 0 else Memory.get m a

/-- Write one byte, keeping the canonical form: writing zero removes the cell. -/
def Memory.set (m : Memory) (a : Nat) (b : Byte) : Memory :=
  match m with
  | [] => if b = 0 then [] else [(a, b)]
  | c :: m =>
    if c.1 = a then (if b = 0 then m else (a, b) :: m)
    else if a < c.1 then (if b = 0 then c :: m else (a, b) :: c :: m)
    else c :: Memory.set m a b

/-- Read `n` bytes from key `a` on. -/
def Memory.getN (m : Memory) (a : Nat) : Nat → Bytes
  | 0 => []
  | n + 1 => m.get a :: m.getN (a + 1) n

/-- Write a string of bytes from key `a` on. -/
def Memory.setN (m : Memory) (a : Nat) : Bytes → Memory
  | [] => m
  | b :: bs => Memory.setN (m.set a b) (a + 1) bs

/-- Clear every key from `lo` up to, not including, `hi`. -/
def Memory.clear (m : Memory) (lo hi : Nat) : Memory :=
  m.filter (fun c => !(decide (lo ≤ c.1) && decide (c.1 < hi)))

end Sys2Proof.Machine
end

