-- ==== Sys2Proof/Machine/AddressMap.lean ====
section
/-!
DEFINITION. Where each byte store lies in the one memory of the model: keys of the Atrium store, of the local stores (by
PHYSICAL gallery, R18), of the DRAM channels (by member address, R362), of host memory (by port and address space), and of
the SSDs' media and the configuration flash. Only the first two ranges and the interleave windows are device physical
addresses (R359); the rest are the model's own numbering (log entry 6).
-/

namespace Sys2Proof.Machine.Key

/-- The Atrium store: its device physical address. -/
def atrium (a : Nat) : Nat := a
/-- Local store of physical gallery `p`. -/
def localStore (p a : Nat) : Nat := 0x10000000 + 0x200000 * p + a
/-- Member address `a` of channel `ch` (0 to 511 pseudo-channels, 512 to 519 annex channels). -/
def dram (ch a : Nat) : Nat := 2 ^ 64 + 2 ^ 48 * ch + a
/-- Host memory behind `port`: space 0 is untranslated, space 1 + PASID the address space of that PASID. -/
def host (port space a : Nat) : Nat := 2 ^ 96 + 2 ^ 90 * port + 2 ^ 64 * space + a
/-- Byte `a` of the media of the SSD on port `n`. -/
def ssd (n a : Nat) : Nat := 2 ^ 100 + 2 ^ 64 * n + a
/-- Byte `a` of the configuration flash. -/
def flash (a : Nat) : Nat := 2 ^ 110 + a
/-- The first key beyond the device's DRAM, and the last of SRAM and DRAM: what a reset that clears SRAM and does not retain
DRAM loses (R43). -/
def deviceEnd : Nat := 2 ^ 96

end Sys2Proof.Machine.Key
end

