-- ==== Sys2Proof/Machine/Bits.lean ====
section
/-!
DEFINITION. Bit fields, byte order and sign: every multi-byte value of the device is little-endian
(spec/00_scope.md), decided once here.
-/

namespace Sys2Proof.Machine

/-- Bits `hi` down to `lo` of a number. -/
def bits (v hi lo : Nat) : Nat := (v >>> lo) % 2 ^ (hi + 1 - lo)

/-- One bit of a number. -/
def bit (v n : Nat) : Bool := (v >>> n) % 2 == 1

/-- `v` with bits `hi` down to `lo` replaced by `x`. -/
def setBits (v hi lo x : Nat) : Nat :=
  v - (bits v hi lo) <<< lo + (x % 2 ^ (hi + 1 - lo)) <<< lo

/-- A Boolean as a bit. -/
def b2n (b : Bool) : Nat := if b then 1 else 0

/-- Field of a register. -/
def fld (v : Word) (hi lo : Nat) : Nat := bits v.toNat hi lo

/-- A register with one field replaced. -/
def setFld (v : Word) (hi lo x : Nat) : Word := BitVec.ofNat 64 (setBits v.toNat hi lo x)

/-- `n` bytes of a number, the least significant first. -/
def toLE : Nat → Nat → Bytes
  | 0, _ => []
  | n + 1, v => BitVec.ofNat 8 v :: toLE n (v / 256)

/-- The number a string of bytes spells, the least significant first. -/
def ofLE : Bytes → Nat
  | [] => 0
  | b :: bs => b.toNat + 256 * ofLE bs

/-- The number that `n` bytes at offset `o` of a record spell; bytes beyond the record read zero. -/
def le (bs : Bytes) (o n : Nat) : Nat := ofLE ((bs.drop o).take n)

/-- `n` bytes at offset `o` of a record. -/
def slice (bs : Bytes) (o n : Nat) : Bytes := (bs.drop o).take n

/-- A record padded with zeros to `n` bytes, or cut there. -/
def padTo (n : Nat) (bs : Bytes) : Bytes := bs.take n ++ List.replicate (n - bs.length) 0

/-- The record with the bytes from offset `o` on replaced by `new`. -/
def patch (bs : Bytes) (o : Nat) (new : Bytes) : Bytes :=
  bs.take o ++ new ++ bs.drop (o + new.length)

/-- `n` bytes of a number, the most significant first (the digest standards' order). -/
def toBE (n v : Nat) : Bytes := (toLE n v).reverse

/-- The number that bytes spell, the most significant first. -/
def ofBE (bs : Bytes) : Nat := ofLE bs.reverse

/-- All bytes zero. -/
def allZero (bs : Bytes) : Bool := bs.all (· == 0)

/-- A `w`-bit number read as two's complement. -/
def toSigned (w v : Nat) : Int := if v % 2 ^ w < 2 ^ (w - 1) then (v % 2 ^ w : Nat) else (v % 2 ^ w : Nat) - (2 ^ w : Nat)

/-- The low `w` bits of an integer. -/
def ofSigned (w : Nat) (i : Int) : Nat := (i % (2 ^ w : Nat)).toNat

/-- Sign-extend a `w`-bit number to 64 bits. -/
def sext (w v : Nat) : Word := BitVec.ofInt 64 (toSigned w v)

/-- The numbers of the bits that are 1 among the low `n` bits. -/
def setBitsOf (n v : Nat) : List Nat := (List.range n).filter (fun i => bit v i)

end Sys2Proof.Machine
end

