-- ==== Sys2Proof/Machine/RegTable.lean ====
section
/-!
DEFINITION. The register map of the manager view (R577, R578 and the register tables of each chapter of spec/):
one row for each register or register array, its offset, its length, the distance between its elements, and its
fields as the chapter's own table gives them (bits, access code of R1 to R6, value at reset).
A register window that belongs to one instance (R387, R414) is filed under offsets from 0x0400_0000 on, one window of
0x4_0000 bytes for each instance (log entry 12). Bits no field covers are reserved (R5): they read zero and take no write.
-/

namespace Sys2Proof.Machine

/-- The access codes of a register field (spec/00_scope.md, R1 to R5). -/
inductive Access where
  | rw | ro | wo | w1c
deriving DecidableEq, Repr

/-- One field: its highest and lowest bit, its access, its value at reset, and whether every reset keeps it (R43). -/
structure RField where
  hi : Nat
  lo : Nat
  acc : Access
  reset : Nat
  kept : Bool := false
deriving DecidableEq, Repr

/-- One register (`count` 1) or one array of registers, `stride` bytes apart. -/
structure RegDef where
  base : Nat
  count : Nat
  stride : Nat
  fields : List RField
deriving DecidableEq, Repr

/-! ### Offsets by name -/
namespace R

def devId : Nat := 0x0
def devTime : Nat := 0x8
def devMode : Nat := 0x10
def devModeReq : Nat := 0x18
def devStatus : Nat := 0x20
def devReset : Nat := 0x28
def devResetCause : Nat := 0x30
def devBoot : Nat := 0x38
def devPfail : Nat := 0x40
def docCtrl : Nat := 0x200000
def docStatus : Nat := 0x200008
def docContexts : Nat := 0x200010
def docReserve : Nat := 0x200018
def docTcancel : Nat := 0x200020
def docCntSat : Nat := 0x200028
def docHot (k : Nat) : Nat := 0x200030 + 8 * k
def docTest (k : Nat) : Nat := 0x200040 + 8 * k
def docTraceBase : Nat := 0x200050
def docTraceCtrl : Nat := 0x200058
def docTraceHead : Nat := 0x200060
def docTraceOvf : Nat := 0x200068
def docTraceDrop : Nat := 0x200070
def docCntDispatch : Nat := 0x200080
def docCntComplete : Nat := 0x200088
def docCntCancel : Nat := 0x200090
def docCntRestart : Nat := 0x200098
def docCntHold : Nat := 0x2000a0
def docCntHotskip : Nat := 0x2000a8
def docLevel (k : Nat) : Nat := 0x200100 + 8 * k
def docGal (k : Nat) : Nat := 0x200200 + 8 * k
def docInst (k : Nat) : Nat := 0x201000 + 8 * k
def sflCtrl (s : Nat) : Nat := 0x1300000 + 0x1000 * s + 0x0
def sflStatus (s : Nat) : Nat := 0x1300000 + 0x1000 * s + 0x8
def sflFault (s : Nat) : Nat := 0x1300000 + 0x1000 * s + 0x10
def sflCntSat (s : Nat) : Nat := 0x1300000 + 0x1000 * s + 0x18
def sflCntDesc (s : Nat) : Nat := 0x1300000 + 0x1000 * s + 0x20
def sflCntRg (s : Nat) : Nat := 0x1300000 + 0x1000 * s + 0x28
def sflCntSkip (s : Nat) : Nat := 0x1300000 + 0x1000 * s + 0x30
def sflCntRedirect (s : Nat) : Nat := 0x1300000 + 0x1000 * s + 0x38
def sflCntRead (s : Nat) : Nat := 0x1300000 + 0x1000 * s + 0x40
def sflCntShip (s : Nat) : Nat := 0x1300000 + 0x1000 * s + 0x48
def sflCntBusy (s : Nat) : Nat := 0x1300000 + 0x1000 * s + 0x50
def excCtrl : Nat := 0x1200000
def excStatus : Nat := 0x1200008
def excPoolBase (k : Nat) : Nat := 0x1200010 + 8 * k
def excPoolSize (k : Nat) : Nat := 0x1200020 + 8 * k
def excPoolFree (k : Nat) : Nat := 0x1200030 + 8 * k
def excSkew : Nat := 0x1200040
def excSkewMean : Nat := 0x1200048
def excFault : Nat := 0x1200050
def excCntSat : Nat := 0x1200058
def excCntSend : Nat := 0x1200060
def excCntRows : Nat := 0x1200068
def excCntPages : Nat := 0x1200070
def excCntVoid : Nat := 0x1200078
def excCntGrant : Nat := 0x1200080
def excCntAllocfail : Nat := 0x1200088
def excInst (k : Nat) : Nat := 0x1201000 + 8 * k
def catCtrl : Nat := 0x600000
def catStatus : Nat := 0x600008
def catFault : Nat := 0x600010
def catCntSat : Nat := 0x600018
def catCntSearch : Nat := 0x600020
def catCntBatch : Nat := 0x600028
def catCntUpdate : Nat := 0x600030
def catCntMove : Nat := 0x600038
def catCntResend : Nat := 0x600040
def catGroup (k : Nat) : Nat := 0x601000 + 8 * k
def catGroupState (k : Nat) : Nat := 0x602000 + 8 * k
def catBank (k : Nat) : Nat := 0x603000 + 8 * k
def folCtrl : Nat := 0x400000
def folStatus : Nat := 0x400008
def folFault : Nat := 0x400010
def folCntSat : Nat := 0x400018
def folCntDesc : Nat := 0x400020
def folCntIn : Nat := 0x400028
def folCntOut : Nat := 0x400030
def folCntVfail : Nat := 0x400038
def folCntCheck : Nat := 0x400040
def folCntBusy : Nat := 0x400048
def folEng (k : Nat) : Nat := 0x401000 + 8 * k
def galMap (p : Nat) : Nat := (if p < 128 then 0x800000 + 0x4000 * p else 0x7E0000 + 0x4000 * (p - 128)) + 0x0
def galFreq (p : Nat) : Nat := (if p < 128 then 0x800000 + 0x4000 * p else 0x7E0000 + 0x4000 * (p - 128)) + 0x8
def galDfault (p : Nat) : Nat := (if p < 128 then 0x800000 + 0x4000 * p else 0x7E0000 + 0x4000 * (p - 128)) + 0x10
def galCntSat (p : Nat) : Nat := (if p < 128 then 0x800000 + 0x4000 * p else 0x7E0000 + 0x4000 * (p - 128)) + 0x18
def galCntExc (p : Nat) : Nat := (if p < 128 then 0x800000 + 0x4000 * p else 0x7E0000 + 0x4000 * (p - 128)) + 0x20
def galCntDfault (p : Nat) : Nat := (if p < 128 then 0x800000 + 0x4000 * p else 0x7E0000 + 0x4000 * (p - 128)) + 0x28
def galCntSleep (p : Nat) : Nat := (if p < 128 then 0x800000 + 0x4000 * p else 0x7E0000 + 0x4000 * (p - 128)) + 0x30
def galVcntSat (p : Nat) : Nat := (if p < 128 then 0x800000 + 0x4000 * p else 0x7E0000 + 0x4000 * (p - 128)) + 0x100
def galVcntLinst (p : Nat) : Nat := (if p < 128 then 0x800000 + 0x4000 * p else 0x7E0000 + 0x4000 * (p - 128)) + 0x108
def galVcntSinst (p : Nat) : Nat := (if p < 128 then 0x800000 + 0x4000 * p else 0x7E0000 + 0x4000 * (p - 128)) + 0x110
def galVcntBytes (p : Nat) : Nat := (if p < 128 then 0x800000 + 0x4000 * p else 0x7E0000 + 0x4000 * (p - 128)) + 0x118
def galVcntWake (p : Nat) : Nat := (if p < 128 then 0x800000 + 0x4000 * p else 0x7E0000 + 0x4000 * (p - 128)) + 0x120
def galVcntWakecyc (p : Nat) : Nat := (if p < 128 then 0x800000 + 0x4000 * p else 0x7E0000 + 0x4000 * (p - 128)) + 0x128
def galVcntGselem (p : Nat) : Nat := (if p < 128 then 0x800000 + 0x4000 * p else 0x7E0000 + 0x4000 * (p - 128)) + 0x130
def galVcntPartial (p : Nat) : Nat := (if p < 128 then 0x800000 + 0x4000 * p else 0x7E0000 + 0x4000 * (p - 128)) + 0x138
def galVcntOnUs (p : Nat) : Nat := (if p < 128 then 0x800000 + 0x4000 * p else 0x7E0000 + 0x4000 * (p - 128)) + 0x140
def memCtrl : Nat := 0xa00000
def memStatus : Nat := 0xa00008
def memAge : Nat := 0xa00010
def memRh : Nat := 0xa00018
def memFreeze : Nat := 0xa00020
def memCntSat : Nat := 0xa00028
def memCntCe : Nat := 0xa00030
def memCntUe : Nat := 0xa00038
def memCntFreeze : Nat := 0xa00040
def memCntNref : Nat := 0xa00048
def memCntPromote : Nat := 0xa00050
def memCntSppr : Nat := 0xa00058
def memSetBase (k : Nat) : Nat := 0xa00100 + 8 * k
def memSetSize (k : Nat) : Nat := 0xa00180 + 8 * k
def memSetMap (k : Nat) : Nat := 0xa00200 + 8 * k
def memPc (k : Nat) : Nat := 0xa01000 + 8 * k
def memAnx (k : Nat) : Nat := 0xa02000 + 8 * k
def memAnxCfg (k : Nat) : Nat := 0xa02040 + 8 * k
def xqWId (i : Nat) : Nat := 0x4000000 + 0x40000 * i + 0x0
def xqWMode (i : Nat) : Nat := 0x4000000 + 0x40000 * i + 0x8
def xqWStatus (i : Nat) : Nat := 0x4000000 + 0x40000 * i + 0x10
def xqWCc (i : Nat) : Nat := 0x4000000 + 0x40000 * i + 0x18
def xqWCsts (i : Nat) : Nat := 0x4000000 + 0x40000 * i + 0x20
def xqWAqa (i : Nat) : Nat := 0x4000000 + 0x40000 * i + 0x28
def xqWAsq (i : Nat) : Nat := 0x4000000 + 0x40000 * i + 0x30
def xqWAcq (i : Nat) : Nat := 0x4000000 + 0x40000 * i + 0x38
def xqWSqdb (i q : Nat) : Nat := 0x4000000 + 0x40000 * i + 0x1000 + 16 * q
def xqWCqdb (i q : Nat) : Nat := 0x4000000 + 0x40000 * i + 0x1008 + 16 * q
def xqCtrl : Nat := 0xc00000
def xqStatus : Nat := 0xc00008
def xqWbuf : Nat := 0xc00010
def xqCntSat : Nat := 0xc00018
def xqCntFetch : Nat := 0xc00020
def xqCntCompl : Nat := 0xc00028
def xqCntOuwait : Nat := 0xc00030
def xqCntAdmbusy : Nat := 0xc00038
def xqCntDberr : Nat := 0xc00040
def xqCntRstabort : Nat := 0xc00048
def xqPort (k : Nat) : Nat := 0xc00100 + 8 * k
def xqInst (k : Nat) : Nat := 0xc01000 + 8 * k
def volCtrl : Nat := 0xd00000
def volStatus : Nat := 0xd00008
def volMaint : Nat := 0xd00010
def volCntSat : Nat := 0xd00018
def volCntRdblk : Nat := 0xd00020
def volCntWrblk : Nat := 0xd00028
def volCntRecon : Nat := 0xd00030
def volCntRepair : Nat := 0xd00038
def volCntCrc : Nat := 0xd00040
def volCntNvmerr : Nat := 0xd00048
def volCntLost : Nat := 0xd00050
def volSsd (k : Nat) : Nat := 0xd00100 + 8 * k
def volVol (k : Nat) : Nat := 0xd01000 + 8 * k
def dmaCtrl : Nat := 0x300000
def dmaStatus : Nat := 0x300008
def dmaFault : Nat := 0x300010
def dmaCntSat : Nat := 0x300018
def dmaCntDesc : Nat := 0x300020
def dmaCntBytes : Nat := 0x300028
def dmaCntAbort : Nat := 0x300030
def dmaCntLate : Nat := 0x300038
def dmaCntMove : Nat := 0x300040
def dmaCntReject : Nat := 0x300048
def dmaCntBusy : Nat := 0x300050
def dmaCh (k : Nat) : Nat := 0x301000 + 8 * k
def evtCtrl : Nat := 0x100000
def evtStatus : Nat := 0x100008
def evtRaise : Nat := 0x100010
def evtCntSat : Nat := 0x100018
def evtCntRaise : Nat := 0x100020
def evtCntMerge : Nat := 0x100028
def evtCntDeliver : Nat := 0x100030
def evtCntMsix : Nat := 0x100038
def evtCntSpurious : Nat := 0x100040
def evtCntWithdraw : Nat := 0x100048
def evtCntRaiserej : Nat := 0x100050
def evtCoal (k : Nat) : Nat := 0x100100 + 8 * k
def evtPend (k : Nat) : Nat := 0x101000 + 8 * k
def evtGal (k : Nat) : Nat := 0x102000 + 8 * k
def evtInst (k : Nat) : Nat := 0x103000 + 8 * k
def evtRoute (k : Nat) : Nat := 0x110000 + 8 * k
def prvCtrl : Nat := 0x500000
def prvStatus : Nat := 0x500008
def prvFault : Nat := 0x500010
def prvCntSat : Nat := 0x500018
def prvCntBytes : Nat := 0x500020
def prvCntBlocks : Nat := 0x500028
def prvCntFinish : Nat := 0x500030
def prvCntBusy : Nat := 0x500038
def prvCntTrunc : Nat := 0x500040
def prvCntAuthfail : Nat := 0x500048
def prvCtx (k : Nat) : Nat := 0x501000 + 8 * k
def insCtrl : Nat := 0xe00000
def insStatus : Nat := 0xe00008
def insMapVa : Nat := 0xe00010
def insMapPa : Nat := 0xe00018
def insMapCtrl : Nat := 0xe00020
def insMapStatus : Nat := 0xe00028
def insTt : Nat := 0xe00030
def insMigkeyId (k : Nat) : Nat := 0xe00038 + 8 * k
def insDviol : Nat := 0xe00048
def insCntSat : Nat := 0xe00050
def insCntWalk : Nat := 0xe00058
def insCntViol : Nat := 0xe00060
def insCntInval : Nat := 0xe00068
def insInst (k : Nat) : Nat := 0xe01000 + 8 * k
def insViol (k : Nat) : Nat := 0xe02000 + 8 * k
def safCtrl : Nat := 0xf00000
def safStatus : Nat := 0xf00008
def safRepair : Nat := 0xf00010
def safReserve : Nat := 0xf00018
def safAge : Nat := 0xf00020
def safFault : Nat := 0xf00028
def safLog : Nat := 0xf00030
def safReturn : Nat := 0xf00038
def safCntSat : Nat := 0xf00040
def safCntFault : Nat := 0xf00048
def safCntFence : Nat := 0xf00050
def safCntInject : Nat := 0xf00058
def safCntInjfail : Nat := 0xf00060
def safCntTest : Nat := 0xf00068
def safCntTestfail : Nat := 0xf00070
def safCntTestlate : Nat := 0xf00078
def safCntRepair : Nat := 0xf00080
def safCntRegrst : Nat := 0xf00088
def safGal (k : Nat) : Nat := 0xf01000 + 8 * k
def pwrCtrl : Nat := 0x1000000
def pwrStatus : Nat := 0x1000008
def pwrCap : Nat := 0x1000010
def pwrTherm : Nat := 0x1000018
def pwrPower : Nat := 0x1000020
def pwrCntSat : Nat := 0x1000028
def pwrCntCapstep : Nat := 0x1000030
def pwrCntThrottle : Nat := 0x1000038
def pwrCntHot : Nat := 0x1000040
def pwrCntRailwarn : Nat := 0x1000048
def pwrRail (k : Nat) : Nat := 0x1000100 + 8 * k
def pwrCeil (k : Nat) : Nat := 0x1000200 + 8 * k
def pwrTemp (k : Nat) : Nat := 0x1000300 + 8 * k
def fwuCtrl : Nat := 0x1100000
def fwuStatus : Nat := 0x1100008
def fwuUpdateId : Nat := 0x1100010
def fwuProgress : Nat := 0x1100018
def fwuRcvCmd : Nat := 0x1100020
def fwuRcvStatus : Nat := 0x1100028
def fwuCntSat : Nat := 0x1100030
def fwuCntPiece : Nat := 0x1100038
def fwuCntActivate : Nat := 0x1100040
def fwuCntResume : Nat := 0x1100048
end R

/-- The DEV registers (spec/02_modes_and_startup.md). -/
def regsDev : List RegDef := [
  /- DEV_ID -/ ⟨0x0, 1, 0x8, [⟨31, 16, .ro, 0x384, false⟩, ⟨15, 8, .ro, 0xa0, false⟩, ⟨7, 0, .ro, 1, false⟩]⟩,
  /- DEV_TIME -/ ⟨0x8, 1, 0x8, [⟨63, 0, .ro, 0, false⟩]⟩,
  /- DEV_MODE -/ ⟨0x10, 1, 0x8, [⟨10, 8, .ro, 0, false⟩, ⟨2, 0, .ro, 1, false⟩]⟩,
  /- DEV_MODE_REQ -/ ⟨0x18, 1, 0x8, [⟨3, 0, .wo, 0, false⟩]⟩,
  /- DEV_STATUS -/ ⟨0x20, 1, 0x8, [⟨11, 11, .w1c, 0, false⟩, ⟨10, 10, .w1c, 0, false⟩, ⟨9, 9, .ro, 0, false⟩, ⟨8, 8, .ro, 0, false⟩, ⟨7, 7, .ro, 0, false⟩, ⟨6, 6, .ro, 0, false⟩, ⟨5, 5, .ro, 0, false⟩, ⟨4, 4, .ro, 0, false⟩, ⟨3, 3, .ro, 0, false⟩, ⟨1, 1, .ro, 0, false⟩, ⟨0, 0, .ro, 0, false⟩]⟩,
  /- DEV_RESET -/ ⟨0x28, 1, 0x8, [⟨31, 16, .wo, 0, false⟩, ⟨2, 2, .wo, 0, false⟩, ⟨1, 1, .wo, 0, false⟩, ⟨0, 0, .wo, 0, false⟩]⟩,
  /- DEV_RESET_CAUSE -/ ⟨0x30, 1, 0x8, [⟨48, 48, .w1c, 0, true⟩, ⟨47, 32, .rw, 0, true⟩, ⟨10, 8, .ro, 0, true⟩, ⟨7, 4, .ro, 0, true⟩, ⟨2, 0, .ro, 0, true⟩]⟩,
  /- DEV_BOOT -/ ⟨0x38, 1, 0x8, [⟨47, 32, .rw, 0x3e8, true⟩, ⟨31, 24, .rw, 0x64, true⟩, ⟨19, 16, .rw, 3, true⟩, ⟨11, 8, .ro, 0, true⟩, ⟨2, 2, .ro, 0, true⟩, ⟨1, 1, .ro, 0, true⟩, ⟨0, 0, .ro, 0, true⟩]⟩,
  /- DEV_PFAIL -/ ⟨0x40, 1, 0x8, [⟨63, 48, .ro, 0, true⟩, ⟨45, 45, .ro, 0, true⟩, ⟨44, 44, .ro, 0, true⟩, ⟨31, 0, .ro, 0, true⟩]⟩]

/-- The DOC registers (spec/05_docent.md). -/
def regsDoc : List RegDef := [
  /- DOC_CTRL -/ ⟨0x200000, 1, 0x8, [⟨15, 12, .rw, 2, false⟩, ⟨2, 2, .rw, 0, false⟩, ⟨1, 1, .rw, 0, false⟩]⟩,
  /- DOC_STATUS -/ ⟨0x200008, 1, 0x8, [⟨16, 16, .ro, 0, false⟩, ⟨15, 8, .ro, 0, false⟩, ⟨2, 2, .w1c, 0, false⟩, ⟨1, 1, .ro, 0, false⟩, ⟨0, 0, .ro, 0, false⟩]⟩,
  /- DOC_CONTEXTS -/ ⟨0x200010, 1, 0x8, [⟨53, 32, .ro, 0, false⟩, ⟨16, 0, .ro, 0x10000, false⟩]⟩,
  /- DOC_RESERVE -/ ⟨0x200018, 1, 0x8, [⟨15, 0, .rw, 0x2000, false⟩]⟩,
  /- DOC_TCANCEL -/ ⟨0x200020, 1, 0x8, [⟨63, 56, .wo, 0, false⟩, ⟨55, 40, .wo, 0, false⟩, ⟨20, 0, .wo, 0, false⟩]⟩,
  /- DOC_CNT_SAT -/ ⟨0x200028, 1, 0x8, [⟨7, 0, .ro, 0, false⟩]⟩,
  /- DOC_HOT -/ ⟨0x200030, 2, 0x8, [⟨63, 0, .ro, 0, false⟩]⟩,
  /- DOC_TEST -/ ⟨0x200040, 2, 0x8, [⟨63, 0, .ro, 0, false⟩]⟩,
  /- DOC_TRACE_BASE -/ ⟨0x200050, 1, 0x8, [⟨63, 12, .rw, 0, false⟩]⟩,
  /- DOC_TRACE_CTRL -/ ⟨0x200058, 1, 0x8, [⟨58, 48, .rw, 0x7ff, false⟩, ⟨47, 40, .rw, 0, false⟩, ⟨39, 39, .rw, 0, false⟩, ⟨36, 32, .rw, 0x10, false⟩, ⟨0, 0, .rw, 0, false⟩]⟩,
  /- DOC_TRACE_HEAD -/ ⟨0x200060, 1, 0x8, [⟨31, 0, .ro, 0, false⟩]⟩,
  /- DOC_TRACE_OVF -/ ⟨0x200068, 1, 0x8, [⟨63, 0, .rw, 0, false⟩]⟩,
  /- DOC_TRACE_DROP -/ ⟨0x200070, 1, 0x8, [⟨63, 0, .rw, 0, false⟩]⟩,
  /- DOC_CNT_DISPATCH -/ ⟨0x200080, 1, 0x8, [⟨63, 0, .rw, 0, false⟩]⟩,
  /- DOC_CNT_COMPLETE -/ ⟨0x200088, 1, 0x8, [⟨63, 0, .rw, 0, false⟩]⟩,
  /- DOC_CNT_CANCEL -/ ⟨0x200090, 1, 0x8, [⟨63, 0, .rw, 0, false⟩]⟩,
  /- DOC_CNT_RESTART -/ ⟨0x200098, 1, 0x8, [⟨63, 0, .rw, 0, false⟩]⟩,
  /- DOC_CNT_HOLD -/ ⟨0x2000a0, 1, 0x8, [⟨63, 0, .rw, 0, false⟩]⟩,
  /- DOC_CNT_HOTSKIP -/ ⟨0x2000a8, 1, 0x8, [⟨63, 0, .rw, 0, false⟩]⟩,
  /- DOC_LEVEL -/ ⟨0x200100, 8, 0x8, [⟨48, 48, .ro, 0, false⟩, ⟨47, 26, .ro, 0, false⟩, ⟨16, 0, .ro, 0, false⟩]⟩,
  /- DOC_GAL -/ ⟨0x200200, 128, 0x8, [⟨63, 61, .ro, 0, false⟩, ⟨60, 60, .ro, 0, false⟩, ⟨59, 58, .ro, 0, false⟩, ⟨57, 55, .ro, 0, false⟩, ⟨52, 45, .ro, 0, false⟩, ⟨44, 29, .ro, 0, false⟩, ⟨20, 0, .ro, 0, false⟩]⟩,
  /- DOC_INST -/ ⟨0x201000, 256, 0x8, [⟨33, 33, .ro, 0, false⟩, ⟨32, 32, .ro, 0, false⟩, ⟨29, 8, .ro, 0, false⟩, ⟨7, 0, .ro, 0, false⟩]⟩]

/-- The SFL registers (spec/06_scans_and_stack_filters.md). -/
def regsSfl : List RegDef := [
  /- SFL_CTRL -/ ⟨0x1300000, 8, 0x1000, [⟨12, 8, .rw, 0x10, false⟩, ⟨2, 2, .rw, 0, false⟩, ⟨1, 1, .rw, 0, false⟩]⟩,
  /- SFL_STATUS -/ ⟨0x1300008, 8, 0x1000, [⟨20, 16, .ro, 0, false⟩, ⟨14, 8, .ro, 0, false⟩, ⟨2, 2, .w1c, 0, false⟩, ⟨1, 1, .ro, 0, false⟩, ⟨0, 0, .ro, 0, false⟩]⟩,
  /- SFL_FAULT -/ ⟨0x1300010, 8, 0x1000, [⟨63, 48, .ro, 0, false⟩, ⟨47, 40, .ro, 0, false⟩, ⟨39, 32, .ro, 0, false⟩, ⟨31, 0, .ro, 0, false⟩]⟩,
  /- SFL_CNT_SAT -/ ⟨0x1300018, 8, 0x1000, [⟨6, 0, .ro, 0, false⟩]⟩,
  /- SFL_CNT_DESC -/ ⟨0x1300020, 8, 0x1000, [⟨63, 0, .rw, 0, false⟩]⟩,
  /- SFL_CNT_RG -/ ⟨0x1300028, 8, 0x1000, [⟨63, 0, .rw, 0, false⟩]⟩,
  /- SFL_CNT_SKIP -/ ⟨0x1300030, 8, 0x1000, [⟨63, 0, .rw, 0, false⟩]⟩,
  /- SFL_CNT_REDIRECT -/ ⟨0x1300038, 8, 0x1000, [⟨63, 0, .rw, 0, false⟩]⟩,
  /- SFL_CNT_READ -/ ⟨0x1300040, 8, 0x1000, [⟨63, 0, .rw, 0, false⟩]⟩,
  /- SFL_CNT_SHIP -/ ⟨0x1300048, 8, 0x1000, [⟨63, 0, .rw, 0, false⟩]⟩,
  /- SFL_CNT_BUSY -/ ⟨0x1300050, 8, 0x1000, [⟨63, 0, .rw, 0, false⟩]⟩]

/-- The EXC registers (spec/07_exchange_and_joins.md). -/
def regsExc : List RegDef := [
  /- EXC_CTRL -/ ⟨0x1200000, 1, 0x8, [⟨31, 16, .rw, 0x64, false⟩, ⟨2, 2, .rw, 0, false⟩]⟩,
  /- EXC_STATUS -/ ⟨0x1200008, 1, 0x8, [⟨2, 2, .w1c, 0, false⟩, ⟨1, 1, .w1c, 0, false⟩, ⟨0, 0, .ro, 0, false⟩]⟩,
  /- EXC_POOL_BASE -/ ⟨0x1200010, 2, 0x8, [⟨63, 12, .rw, 0, false⟩]⟩,
  /- EXC_POOL_SIZE -/ ⟨0x1200020, 2, 0x8, [⟨31, 0, .rw, 0, false⟩]⟩,
  /- EXC_POOL_FREE -/ ⟨0x1200030, 2, 0x8, [⟨31, 0, .ro, 0, false⟩]⟩,
  /- EXC_SKEW -/ ⟨0x1200040, 1, 0x8, [⟨63, 56, .ro, 0, false⟩, ⟨55, 40, .ro, 0, false⟩, ⟨39, 28, .ro, 0, false⟩, ⟨27, 26, .ro, 0, false⟩, ⟨25, 0, .ro, 0, false⟩]⟩,
  /- EXC_SKEW_MEAN -/ ⟨0x1200048, 1, 0x8, [⟨25, 0, .ro, 0, false⟩]⟩,
  /- EXC_FAULT -/ ⟨0x1200050, 1, 0x8, [⟨63, 48, .ro, 0, false⟩, ⟨47, 40, .ro, 0, false⟩, ⟨39, 24, .ro, 0, false⟩, ⟨23, 16, .ro, 0, false⟩, ⟨0, 0, .ro, 0, false⟩]⟩,
  /- EXC_CNT_SAT -/ ⟨0x1200058, 1, 0x8, [⟨5, 0, .ro, 0, false⟩]⟩,
  /- EXC_CNT_SEND -/ ⟨0x1200060, 1, 0x8, [⟨63, 0, .rw, 0, false⟩]⟩,
  /- EXC_CNT_ROWS -/ ⟨0x1200068, 1, 0x8, [⟨63, 0, .rw, 0, false⟩]⟩,
  /- EXC_CNT_PAGES -/ ⟨0x1200070, 1, 0x8, [⟨63, 0, .rw, 0, false⟩]⟩,
  /- EXC_CNT_VOID -/ ⟨0x1200078, 1, 0x8, [⟨63, 0, .rw, 0, false⟩]⟩,
  /- EXC_CNT_GRANT -/ ⟨0x1200080, 1, 0x8, [⟨63, 0, .rw, 0, false⟩]⟩,
  /- EXC_CNT_ALLOCFAIL -/ ⟨0x1200088, 1, 0x8, [⟨63, 0, .rw, 0, false⟩]⟩,
  /- EXC_INST -/ ⟨0x1201000, 256, 0x8, [⟨31, 0, .ro, 0, false⟩]⟩]

/-- The CAT registers (spec/09_catalogue.md). -/
def regsCat : List RegDef := [
  /- CAT_CTRL -/ ⟨0x600000, 1, 0x8, [⟨31, 16, .rw, 0xc8, false⟩, ⟨2, 2, .rw, 0, false⟩]⟩,
  /- CAT_STATUS -/ ⟨0x600008, 1, 0x8, [⟨2, 2, .w1c, 0, false⟩, ⟨1, 1, .ro, 0, false⟩, ⟨0, 0, .ro, 0, false⟩]⟩,
  /- CAT_FAULT -/ ⟨0x600010, 1, 0x8, [⟨63, 48, .ro, 0, false⟩, ⟨47, 40, .ro, 0, false⟩, ⟨39, 39, .ro, 0, false⟩, ⟨38, 32, .ro, 0, false⟩, ⟨30, 24, .ro, 0, false⟩, ⟨17, 0, .ro, 0, false⟩]⟩,
  /- CAT_CNT_SAT -/ ⟨0x600018, 1, 0x8, [⟨4, 0, .ro, 0, false⟩]⟩,
  /- CAT_CNT_SEARCH -/ ⟨0x600020, 1, 0x8, [⟨63, 0, .rw, 0, false⟩]⟩,
  /- CAT_CNT_BATCH -/ ⟨0x600028, 1, 0x8, [⟨63, 0, .rw, 0, false⟩]⟩,
  /- CAT_CNT_UPDATE -/ ⟨0x600030, 1, 0x8, [⟨63, 0, .rw, 0, false⟩]⟩,
  /- CAT_CNT_MOVE -/ ⟨0x600038, 1, 0x8, [⟨63, 0, .rw, 0, false⟩]⟩,
  /- CAT_CNT_RESEND -/ ⟨0x600040, 1, 0x8, [⟨63, 0, .rw, 0, false⟩]⟩,
  /- CAT_GROUP -/ ⟨0x601000, 128, 0x8, [⟨63, 63, .rw, 0, false⟩, ⟨55, 48, .rw, 0, false⟩, ⟨41, 36, .rw, 0, false⟩, ⟨33, 32, .rw, 0, false⟩, ⟨15, 8, .rw, 0, false⟩, ⟨6, 0, .rw, 0, false⟩]⟩,
  /- CAT_GROUP_STATE -/ ⟨0x602000, 128, 0x8, [⟨63, 61, .ro, 0, false⟩, ⟨52, 48, .ro, 0, false⟩, ⟨25, 0, .ro, 0, false⟩]⟩,
  /- CAT_BANK -/ ⟨0x603000, 128, 0x8, [⟨63, 63, .ro, 0, false⟩, ⟨62, 62, .ro, 0, false⟩, ⟨54, 48, .ro, 0, false⟩, ⟨32, 32, .ro, 0, false⟩, ⟨31, 0, .rw, 0, false⟩]⟩]

/-- The FOL registers (spec/10_folio.md). -/
def regsFol : List RegDef := [
  /- FOL_CTRL -/ ⟨0x400000, 1, 0x8, [⟨2, 2, .rw, 0, false⟩]⟩,
  /- FOL_STATUS -/ ⟨0x400008, 1, 0x8, [⟨31, 16, .ro, 0, false⟩, ⟨2, 2, .w1c, 0, false⟩, ⟨1, 1, .w1c, 0, false⟩, ⟨0, 0, .ro, 0, false⟩]⟩,
  /- FOL_FAULT -/ ⟨0x400010, 1, 0x8, [⟨63, 48, .ro, 0, false⟩, ⟨47, 40, .ro, 0, false⟩, ⟨39, 32, .ro, 0, false⟩, ⟨31, 28, .ro, 0, false⟩, ⟨27, 20, .ro, 0, false⟩]⟩,
  /- FOL_CNT_SAT -/ ⟨0x400018, 1, 0x8, [⟨5, 0, .ro, 0, false⟩]⟩,
  /- FOL_CNT_DESC -/ ⟨0x400020, 1, 0x8, [⟨63, 0, .rw, 0, false⟩]⟩,
  /- FOL_CNT_IN -/ ⟨0x400028, 1, 0x8, [⟨63, 0, .rw, 0, false⟩]⟩,
  /- FOL_CNT_OUT -/ ⟨0x400030, 1, 0x8, [⟨63, 0, .rw, 0, false⟩]⟩,
  /- FOL_CNT_VFAIL -/ ⟨0x400038, 1, 0x8, [⟨63, 0, .rw, 0, false⟩]⟩,
  /- FOL_CNT_CHECK -/ ⟨0x400040, 1, 0x8, [⟨63, 0, .rw, 0, false⟩]⟩,
  /- FOL_CNT_BUSY -/ ⟨0x400048, 1, 0x8, [⟨63, 0, .rw, 0, false⟩]⟩,
  /- FOL_ENG -/ ⟨0x401000, 16, 0x8, [⟨63, 62, .rw, 1, false⟩, ⟨61, 61, .ro, 0, false⟩, ⟨60, 60, .ro, 0, false⟩, ⟨53, 48, .ro, 0, false⟩]⟩]

/-- The GAL registers (spec/11_gallery_core.md). -/
def regsGal : List RegDef := [
  /- GAL_MAP -/ ⟨0x800000, 128, 0x4000, [⟨18, 16, .ro, 0, false⟩, ⟨7, 0, .ro, 0, false⟩]⟩,
  /- GAL_MAP -/ ⟨0x7e0000, 8, 0x4000, [⟨18, 16, .ro, 0, false⟩, ⟨7, 0, .ro, 0, false⟩]⟩,
  /- GAL_FREQ -/ ⟨0x800008, 128, 0x4000, [⟨31, 16, .ro, 0, false⟩, ⟨15, 0, .ro, 0, false⟩]⟩,
  /- GAL_FREQ -/ ⟨0x7e0008, 8, 0x4000, [⟨31, 16, .ro, 0, false⟩, ⟨15, 0, .ro, 0, false⟩]⟩,
  /- GAL_DFAULT -/ ⟨0x800010, 128, 0x4000, [⟨63, 16, .ro, 0, false⟩, ⟨13, 8, .ro, 0, false⟩, ⟨5, 0, .ro, 0, false⟩]⟩,
  /- GAL_DFAULT -/ ⟨0x7e0010, 8, 0x4000, [⟨63, 16, .ro, 0, false⟩, ⟨13, 8, .ro, 0, false⟩, ⟨5, 0, .ro, 0, false⟩]⟩,
  /- GAL_CNT_SAT -/ ⟨0x800018, 128, 0x4000, [⟨8, 8, .rw, 0, false⟩, ⟨2, 0, .ro, 0, false⟩]⟩,
  /- GAL_CNT_SAT -/ ⟨0x7e0018, 8, 0x4000, [⟨8, 8, .rw, 0, false⟩, ⟨2, 0, .ro, 0, false⟩]⟩,
  /- GAL_CNT_EXC -/ ⟨0x800020, 128, 0x4000, [⟨63, 0, .rw, 0, false⟩]⟩,
  /- GAL_CNT_EXC -/ ⟨0x7e0020, 8, 0x4000, [⟨63, 0, .rw, 0, false⟩]⟩,
  /- GAL_CNT_DFAULT -/ ⟨0x800028, 128, 0x4000, [⟨63, 0, .rw, 0, false⟩]⟩,
  /- GAL_CNT_DFAULT -/ ⟨0x7e0028, 8, 0x4000, [⟨63, 0, .rw, 0, false⟩]⟩,
  /- GAL_CNT_SLEEP -/ ⟨0x800030, 128, 0x4000, [⟨63, 0, .rw, 0, false⟩]⟩,
  /- GAL_CNT_SLEEP -/ ⟨0x7e0030, 8, 0x4000, [⟨63, 0, .rw, 0, false⟩]⟩]

/-- The GAL vector counter registers (spec/12_vector_units.md). -/
def regsGalv : List RegDef := [
  /- GAL_VCNT_SAT -/ ⟨0x800100, 128, 0x4000, [⟨7, 0, .ro, 0, false⟩]⟩,
  /- GAL_VCNT_SAT -/ ⟨0x7e0100, 8, 0x4000, [⟨7, 0, .ro, 0, false⟩]⟩,
  /- GAL_VCNT_LINST -/ ⟨0x800108, 128, 0x4000, [⟨63, 0, .rw, 0, false⟩]⟩,
  /- GAL_VCNT_LINST -/ ⟨0x7e0108, 8, 0x4000, [⟨63, 0, .rw, 0, false⟩]⟩,
  /- GAL_VCNT_SINST -/ ⟨0x800110, 128, 0x4000, [⟨63, 0, .rw, 0, false⟩]⟩,
  /- GAL_VCNT_SINST -/ ⟨0x7e0110, 8, 0x4000, [⟨63, 0, .rw, 0, false⟩]⟩,
  /- GAL_VCNT_BYTES -/ ⟨0x800118, 128, 0x4000, [⟨63, 0, .rw, 0, false⟩]⟩,
  /- GAL_VCNT_BYTES -/ ⟨0x7e0118, 8, 0x4000, [⟨63, 0, .rw, 0, false⟩]⟩,
  /- GAL_VCNT_WAKE -/ ⟨0x800120, 128, 0x4000, [⟨63, 0, .rw, 0, false⟩]⟩,
  /- GAL_VCNT_WAKE -/ ⟨0x7e0120, 8, 0x4000, [⟨63, 0, .rw, 0, false⟩]⟩,
  /- GAL_VCNT_WAKECYC -/ ⟨0x800128, 128, 0x4000, [⟨63, 0, .rw, 0, false⟩]⟩,
  /- GAL_VCNT_WAKECYC -/ ⟨0x7e0128, 8, 0x4000, [⟨63, 0, .rw, 0, false⟩]⟩,
  /- GAL_VCNT_GSELEM -/ ⟨0x800130, 128, 0x4000, [⟨63, 0, .rw, 0, false⟩]⟩,
  /- GAL_VCNT_GSELEM -/ ⟨0x7e0130, 8, 0x4000, [⟨63, 0, .rw, 0, false⟩]⟩,
  /- GAL_VCNT_PARTIAL -/ ⟨0x800138, 128, 0x4000, [⟨63, 0, .rw, 0, false⟩]⟩,
  /- GAL_VCNT_PARTIAL -/ ⟨0x7e0138, 8, 0x4000, [⟨63, 0, .rw, 0, false⟩]⟩,
  /- GAL_VCNT_ON_US -/ ⟨0x800140, 128, 0x4000, [⟨63, 0, .rw, 0, false⟩]⟩,
  /- GAL_VCNT_ON_US -/ ⟨0x7e0140, 8, 0x4000, [⟨63, 0, .rw, 0, false⟩]⟩]

/-- The MEM registers (spec/13_memory_system.md). -/
def regsMem : List RegDef := [
  /- MEM_CTRL -/ ⟨0xa00000, 1, 0x8, [⟨2, 2, .rw, 0, false⟩, ⟨0, 0, .rw, 1, false⟩]⟩,
  /- MEM_STATUS -/ ⟨0xa00008, 1, 0x8, [⟨3, 3, .ro, 0, false⟩, ⟨2, 2, .ro, 0, false⟩, ⟨1, 1, .w1c, 0, false⟩, ⟨0, 0, .ro, 0, false⟩]⟩,
  /- MEM_AGE -/ ⟨0xa00010, 1, 0x8, [⟨47, 32, .rw, 0x64, false⟩, ⟨31, 16, .rw, 0xa, false⟩, ⟨15, 0, .rw, 2, false⟩]⟩,
  /- MEM_RH -/ ⟨0xa00018, 1, 0x8, [⟨47, 32, .rw, 0x200, false⟩, ⟨20, 16, .rw, 0xb, false⟩, ⟨12, 8, .rw, 8, false⟩, ⟨0, 0, .rw, 1, false⟩]⟩,
  /- MEM_FREEZE -/ ⟨0xa00020, 1, 0x8, [⟨63, 62, .ro, 0, false⟩, ⟨61, 61, .ro, 0, false⟩, ⟨60, 52, .ro, 0, false⟩, ⟨47, 0, .ro, 0, false⟩]⟩,
  /- MEM_CNT_SAT -/ ⟨0xa00028, 1, 0x8, [⟨5, 0, .ro, 0, false⟩]⟩,
  /- MEM_CNT_CE -/ ⟨0xa00030, 1, 0x8, [⟨63, 0, .rw, 0, false⟩]⟩,
  /- MEM_CNT_UE -/ ⟨0xa00038, 1, 0x8, [⟨63, 0, .rw, 0, false⟩]⟩,
  /- MEM_CNT_FREEZE -/ ⟨0xa00040, 1, 0x8, [⟨63, 0, .rw, 0, false⟩]⟩,
  /- MEM_CNT_NREF -/ ⟨0xa00048, 1, 0x8, [⟨63, 0, .rw, 0, false⟩]⟩,
  /- MEM_CNT_PROMOTE -/ ⟨0xa00050, 1, 0x8, [⟨63, 0, .rw, 0, false⟩]⟩,
  /- MEM_CNT_SPPR -/ ⟨0xa00058, 1, 0x8, [⟨63, 0, .rw, 0, false⟩]⟩,
  /- MEM_SET_BASE -/ ⟨0xa00100, 16, 0x8, [⟨47, 30, .rw, 0, false⟩]⟩,
  /- MEM_SET_SIZE -/ ⟨0xa00180, 16, 0x8, [⟨31, 0, .rw, 0, false⟩]⟩,
  /- MEM_SET_MAP -/ ⟨0xa00200, 16, 0x8, [⟨63, 63, .rw, 0, false⟩, ⟨62, 61, .rw, 0, false⟩, ⟨60, 60, .rw, 0, false⟩, ⟨59, 59, .rw, 0, false⟩, ⟨57, 53, .rw, 0, false⟩, ⟨52, 52, .rw, 0, false⟩, ⟨51, 48, .rw, 0, false⟩, ⟨47, 38, .rw, 0, false⟩, ⟨37, 29, .rw, 0, false⟩, ⟨19, 0, .rw, 0, false⟩]⟩,
  /- MEM_PC -/ ⟨0xa01000, 512, 0x8, [⟨63, 61, .ro, 0, false⟩, ⟨60, 56, .ro, 0xb, false⟩, ⟨55, 54, .ro, 0, false⟩, ⟨53, 50, .ro, 0, false⟩, ⟨49, 43, .ro, 0, false⟩, ⟨32, 32, .ro, 0, false⟩, ⟨31, 0, .rw, 0, false⟩]⟩,
  /- MEM_ANX -/ ⟨0xa02000, 8, 0x8, [⟨63, 61, .ro, 0, false⟩, ⟨60, 56, .ro, 0xb, false⟩, ⟨55, 54, .ro, 0, false⟩, ⟨53, 50, .ro, 0, false⟩, ⟨49, 43, .ro, 0, false⟩, ⟨32, 32, .ro, 0, false⟩, ⟨31, 0, .rw, 0, false⟩]⟩,
  /- MEM_ANX_CFG -/ ⟨0xa02040, 8, 0x8, [⟨63, 48, .ro, 0, false⟩, ⟨40, 32, .ro, 0, false⟩, ⟨31, 28, .ro, 0, false⟩, ⟨25, 24, .ro, 0, false⟩, ⟨16, 16, .ro, 0, false⟩, ⟨7, 0, .ro, 0, false⟩]⟩]

/-- The XQ instance window registers (spec/14_host_queues.md). -/
def regsXqw : List RegDef := [
  /- XQ_W_ID -/ ⟨0x4000000, 256, 0x40000, [⟨31, 31, .ro, 0, false⟩, ⟨23, 16, .ro, 0, false⟩, ⟨15, 8, .ro, 0, false⟩, ⟨1, 0, .ro, 0, false⟩]⟩,
  /- XQ_W_MODE -/ ⟨0x4000008, 256, 0x40000, [⟨63, 0, .ro, 0, false⟩]⟩,
  /- XQ_W_STATUS -/ ⟨0x4000010, 256, 0x40000, [⟨63, 0, .ro, 0, false⟩]⟩,
  /- XQ_W_CC -/ ⟨0x4000018, 256, 0x40000, [⟨0, 0, .rw, 0, false⟩]⟩,
  /- XQ_W_CSTS -/ ⟨0x4000020, 256, 0x40000, [⟨3, 3, .w1c, 0, false⟩, ⟨2, 2, .ro, 0, false⟩, ⟨1, 1, .ro, 0, false⟩, ⟨0, 0, .ro, 0, false⟩]⟩,
  /- XQ_W_AQA -/ ⟨0x4000028, 256, 0x40000, [⟨12, 0, .rw, 0, false⟩]⟩,
  /- XQ_W_ASQ -/ ⟨0x4000030, 256, 0x40000, [⟨63, 12, .rw, 0, false⟩]⟩,
  /- XQ_W_ACQ -/ ⟨0x4000038, 256, 0x40000, [⟨63, 12, .rw, 0, false⟩]⟩,
  /- XQ_W_SQDB and XQ_W_CQDB of every pair: written only, nothing stored -/ ⟨0x4001000, 1, 8, [⟨15, 0, .wo, 0, false⟩]⟩]

/-- The XQ registers (spec/14_host_queues.md). -/
def regsXq : List RegDef := [
  /- XQ_CTRL -/ ⟨0xc00000, 1, 0x8, [⟨2, 2, .rw, 0, false⟩]⟩,
  /- XQ_STATUS -/ ⟨0xc00008, 1, 0x8, [⟨2, 2, .ro, 0, false⟩, ⟨1, 1, .ro, 0, false⟩, ⟨0, 0, .ro, 0, false⟩]⟩,
  /- XQ_WBUF -/ ⟨0xc00010, 1, 0x8, [⟨24, 0, .ro, 0, false⟩]⟩,
  /- XQ_CNT_SAT -/ ⟨0xc00018, 1, 0x8, [⟨5, 0, .ro, 0, false⟩]⟩,
  /- XQ_CNT_FETCH -/ ⟨0xc00020, 1, 0x8, [⟨63, 0, .rw, 0, false⟩]⟩,
  /- XQ_CNT_COMPL -/ ⟨0xc00028, 1, 0x8, [⟨63, 0, .rw, 0, false⟩]⟩,
  /- XQ_CNT_OUWAIT -/ ⟨0xc00030, 1, 0x8, [⟨63, 0, .rw, 0, false⟩]⟩,
  /- XQ_CNT_ADMBUSY -/ ⟨0xc00038, 1, 0x8, [⟨63, 0, .rw, 0, false⟩]⟩,
  /- XQ_CNT_DBERR -/ ⟨0xc00040, 1, 0x8, [⟨63, 0, .rw, 0, false⟩]⟩,
  /- XQ_CNT_RSTABORT -/ ⟨0xc00048, 1, 0x8, [⟨63, 0, .rw, 0, false⟩]⟩,
  /- XQ_PORT -/ ⟨0xc00100, 4, 0x8, [⟨46, 40, .ro, 0, false⟩, ⟨32, 32, .ro, 0, false⟩, ⟨19, 16, .ro, 0, false⟩, ⟨15, 8, .ro, 0, false⟩, ⟨1, 1, .ro, 0, false⟩, ⟨0, 0, .ro, 0, false⟩]⟩,
  /- XQ_INST -/ ⟨0xc01000, 256, 0x8, [⟨63, 63, .ro, 0, false⟩, ⟨62, 62, .ro, 0, false⟩, ⟨61, 61, .ro, 0, false⟩, ⟨60, 60, .ro, 0, false⟩, ⟨46, 40, .ro, 0, false⟩, ⟨20, 0, .ro, 0, false⟩]⟩]

/-- The VOL registers (spec/15_storage_volumes.md). -/
def regsVol : List RegDef := [
  /- VOL_CTRL -/ ⟨0xd00000, 1, 0x8, [⟨47, 32, .rw, 0x2710, false⟩, ⟨31, 24, .rw, 0x19, false⟩, ⟨23, 16, .rw, 0x14, false⟩, ⟨3, 2, .wo, 0, false⟩, ⟨1, 1, .rw, 0, false⟩]⟩,
  /- VOL_STATUS -/ ⟨0xd00008, 1, 0x8, [⟨3, 3, .w1c, 0, false⟩, ⟨2, 2, .ro, 0, false⟩, ⟨1, 1, .ro, 0, false⟩, ⟨0, 0, .ro, 0, false⟩]⟩,
  /- VOL_MAINT -/ ⟨0xd00010, 1, 0x8, [⟨63, 48, .ro, 0, false⟩, ⟨47, 32, .ro, 0, false⟩, ⟨31, 28, .ro, 0, false⟩, ⟨27, 26, .ro, 0, false⟩, ⟨25, 25, .ro, 0, false⟩, ⟨15, 0, .ro, 0, false⟩]⟩,
  /- VOL_CNT_SAT -/ ⟨0xd00018, 1, 0x8, [⟨6, 0, .ro, 0, false⟩]⟩,
  /- VOL_CNT_RDBLK -/ ⟨0xd00020, 1, 0x8, [⟨63, 0, .rw, 0, false⟩]⟩,
  /- VOL_CNT_WRBLK -/ ⟨0xd00028, 1, 0x8, [⟨63, 0, .rw, 0, false⟩]⟩,
  /- VOL_CNT_RECON -/ ⟨0xd00030, 1, 0x8, [⟨63, 0, .rw, 0, false⟩]⟩,
  /- VOL_CNT_REPAIR -/ ⟨0xd00038, 1, 0x8, [⟨63, 0, .rw, 0, false⟩]⟩,
  /- VOL_CNT_CRC -/ ⟨0xd00040, 1, 0x8, [⟨63, 0, .rw, 0, false⟩]⟩,
  /- VOL_CNT_NVMERR -/ ⟨0xd00048, 1, 0x8, [⟨63, 0, .rw, 0, false⟩]⟩,
  /- VOL_CNT_LOST -/ ⟨0xd00050, 1, 0x8, [⟨63, 0, .rw, 0, false⟩]⟩,
  /- VOL_SSD -/ ⟨0xd00100, 16, 0x8, [⟨63, 61, .ro, 0, false⟩, ⟨60, 59, .wo, 0, false⟩, ⟨55, 52, .ro, 0, false⟩, ⟨51, 48, .ro, 0, false⟩, ⟨47, 40, .ro, 0, false⟩, ⟨39, 0, .ro, 0, false⟩]⟩,
  /- VOL_VOL -/ ⟨0xd01000, 64, 0x8, [⟨63, 61, .ro, 0, false⟩, ⟨60, 59, .ro, 0, false⟩, ⟨58, 58, .rw, 0, false⟩, ⟨55, 48, .ro, 0, false⟩, ⟨47, 32, .ro, 0, false⟩, ⟨31, 0, .ro, 0, false⟩]⟩]

/-- The DMA registers (spec/16_dma.md). -/
def regsDma : List RegDef := [
  /- DMA_CTRL -/ ⟨0x300000, 1, 0x8, [⟨2, 2, .rw, 0, false⟩]⟩,
  /- DMA_STATUS -/ ⟨0x300008, 1, 0x8, [⟨2, 2, .w1c, 0, false⟩, ⟨1, 1, .ro, 0, false⟩, ⟨0, 0, .ro, 0, false⟩]⟩,
  /- DMA_FAULT -/ ⟨0x300010, 1, 0x8, [⟨63, 48, .ro, 0, false⟩, ⟨47, 40, .ro, 0, false⟩, ⟨39, 32, .ro, 0, false⟩, ⟨31, 26, .ro, 0, false⟩, ⟨15, 0, .ro, 0, false⟩]⟩,
  /- DMA_CNT_SAT -/ ⟨0x300018, 1, 0x8, [⟨6, 0, .ro, 0, false⟩]⟩,
  /- DMA_CNT_DESC -/ ⟨0x300020, 1, 0x8, [⟨63, 0, .rw, 0, false⟩]⟩,
  /- DMA_CNT_BYTES -/ ⟨0x300028, 1, 0x8, [⟨63, 0, .rw, 0, false⟩]⟩,
  /- DMA_CNT_ABORT -/ ⟨0x300030, 1, 0x8, [⟨63, 0, .rw, 0, false⟩]⟩,
  /- DMA_CNT_LATE -/ ⟨0x300038, 1, 0x8, [⟨63, 0, .rw, 0, false⟩]⟩,
  /- DMA_CNT_MOVE -/ ⟨0x300040, 1, 0x8, [⟨63, 0, .rw, 0, false⟩]⟩,
  /- DMA_CNT_REJECT -/ ⟨0x300048, 1, 0x8, [⟨63, 0, .rw, 0, false⟩]⟩,
  /- DMA_CNT_BUSY -/ ⟨0x300050, 1, 0x8, [⟨63, 0, .rw, 0, false⟩]⟩,
  /- DMA_CH -/ ⟨0x301000, 64, 0x8, [⟨63, 61, .ro, 0, false⟩, ⟨60, 60, .ro, 0, false⟩, ⟨59, 52, .ro, 0, false⟩, ⟨51, 47, .ro, 0, false⟩, ⟨39, 32, .ro, 0, false⟩, ⟨31, 16, .ro, 0, false⟩]⟩]

/-- The EVT registers (spec/17_event_controller.md). -/
def regsEvt : List RegDef := [
  /- EVT_CTRL -/ ⟨0x100000, 1, 0x8, [⟨2, 2, .rw, 0, false⟩, ⟨0, 0, .rw, 0, false⟩]⟩,
  /- EVT_STATUS -/ ⟨0x100008, 1, 0x8, [⟨2, 2, .w1c, 0, false⟩, ⟨1, 1, .w1c, 0, false⟩, ⟨0, 0, .ro, 0, false⟩]⟩,
  /- EVT_RAISE -/ ⟨0x100010, 1, 0x8, [⟨12, 0, .wo, 0, false⟩]⟩,
  /- EVT_CNT_SAT -/ ⟨0x100018, 1, 0x8, [⟨6, 0, .ro, 0, false⟩]⟩,
  /- EVT_CNT_RAISE -/ ⟨0x100020, 1, 0x8, [⟨63, 0, .rw, 0, false⟩]⟩,
  /- EVT_CNT_MERGE -/ ⟨0x100028, 1, 0x8, [⟨63, 0, .rw, 0, false⟩]⟩,
  /- EVT_CNT_DELIVER -/ ⟨0x100030, 1, 0x8, [⟨63, 0, .rw, 0, false⟩]⟩,
  /- EVT_CNT_MSIX -/ ⟨0x100038, 1, 0x8, [⟨63, 0, .rw, 0, false⟩]⟩,
  /- EVT_CNT_SPURIOUS -/ ⟨0x100040, 1, 0x8, [⟨63, 0, .rw, 0, false⟩]⟩,
  /- EVT_CNT_WITHDRAW -/ ⟨0x100048, 1, 0x8, [⟨63, 0, .rw, 0, false⟩]⟩,
  /- EVT_CNT_RAISEREJ -/ ⟨0x100050, 1, 0x8, [⟨63, 0, .rw, 0, false⟩]⟩,
  /- EVT_COAL -/ ⟨0x100100, 16, 0x8, [⟨31, 16, .rw, 0, false⟩, ⟨7, 0, .rw, 1, false⟩]⟩,
  /- EVT_PEND -/ ⟨0x101000, 128, 0x8, [⟨63, 0, .w1c, 0, false⟩]⟩,
  /- EVT_GAL -/ ⟨0x102000, 128, 0x8, [⟨63, 62, .ro, 0, false⟩, ⟨47, 32, .ro, 0, false⟩, ⟨15, 0, .ro, 0xffff, false⟩]⟩,
  /- EVT_INST -/ ⟨0x103000, 256, 0x8, [⟨63, 63, .ro, 0, false⟩, ⟨62, 62, .ro, 0, false⟩, ⟨59, 56, .rw, 0, false⟩, ⟨6, 0, .ro, 0, false⟩]⟩,
  /- EVT_ROUTE -/ ⟨0x110000, 8192, 0x8, [⟨63, 63, .rw, 0, false⟩, ⟨62, 62, .rw, 0, false⟩, ⟨61, 60, .rw, 0, false⟩, ⟨59, 57, .rw, 0, false⟩, ⟨56, 53, .rw, 0, false⟩, ⟨52, 52, .ro, 0, false⟩, ⟨47, 40, .rw, 0, false⟩, ⟨31, 24, .rw, 0, false⟩, ⟨21, 16, .rw, 0, false⟩, ⟨6, 0, .rw, 0, false⟩]⟩]

/-- The PRV registers (spec/18_provenance.md). -/
def regsPrv : List RegDef := [
  /- PRV_CTRL -/ ⟨0x500000, 1, 0x8, [⟨2, 2, .rw, 0, false⟩]⟩,
  /- PRV_STATUS -/ ⟨0x500008, 1, 0x8, [⟨39, 32, .ro, 0, false⟩, ⟨24, 16, .ro, 0x100, false⟩, ⟨2, 2, .w1c, 0, false⟩, ⟨1, 1, .w1c, 0, false⟩, ⟨0, 0, .ro, 0, false⟩]⟩,
  /- PRV_FAULT -/ ⟨0x500010, 1, 0x8, [⟨63, 48, .ro, 0, false⟩, ⟨47, 40, .ro, 0, false⟩, ⟨39, 32, .ro, 0, false⟩, ⟨31, 29, .ro, 0, false⟩, ⟨28, 28, .ro, 0, false⟩]⟩,
  /- PRV_CNT_SAT -/ ⟨0x500018, 1, 0x8, [⟨5, 0, .ro, 0, false⟩]⟩,
  /- PRV_CNT_BYTES -/ ⟨0x500020, 1, 0x8, [⟨63, 0, .rw, 0, false⟩]⟩,
  /- PRV_CNT_BLOCKS -/ ⟨0x500028, 1, 0x8, [⟨63, 0, .rw, 0, false⟩]⟩,
  /- PRV_CNT_FINISH -/ ⟨0x500030, 1, 0x8, [⟨63, 0, .rw, 0, false⟩]⟩,
  /- PRV_CNT_BUSY -/ ⟨0x500038, 1, 0x8, [⟨63, 0, .rw, 0, false⟩]⟩,
  /- PRV_CNT_TRUNC -/ ⟨0x500040, 1, 0x8, [⟨63, 0, .rw, 0, false⟩]⟩,
  /- PRV_CNT_AUTHFAIL -/ ⟨0x500048, 1, 0x8, [⟨63, 0, .rw, 0, false⟩]⟩,
  /- PRV_CTX -/ ⟨0x501000, 256, 0x8, [⟨63, 62, .ro, 0, false⟩, ⟨61, 57, .ro, 0, false⟩, ⟨56, 56, .ro, 0, false⟩, ⟨55, 55, .ro, 0, false⟩, ⟨54, 54, .ro, 0, false⟩, ⟨47, 40, .ro, 0, false⟩, ⟨39, 36, .ro, 0, false⟩, ⟨35, 0, .ro, 0, false⟩]⟩]

/-- The INS registers (spec/19_instances.md). -/
def regsIns : List RegDef := [
  /- INS_CTRL -/ ⟨0xe00000, 1, 0x8, [⟨31, 16, .rw, 0xc8, false⟩, ⟨2, 2, .rw, 0, false⟩]⟩,
  /- INS_STATUS -/ ⟨0xe00008, 1, 0x8, [⟨5, 4, .ro, 0, false⟩, ⟨3, 3, .ro, 0, false⟩, ⟨2, 2, .ro, 0, false⟩, ⟨1, 1, .w1c, 0, false⟩, ⟨0, 0, .ro, 0, false⟩]⟩,
  /- INS_MAP_VA -/ ⟨0xe00010, 1, 0x8, [⟨63, 0, .rw, 0, false⟩]⟩,
  /- INS_MAP_PA -/ ⟨0xe00018, 1, 0x8, [⟨63, 0, .rw, 0, false⟩]⟩,
  /- INS_MAP_CTRL -/ ⟨0xe00020, 1, 0x8, [⟨63, 63, .wo, 0, false⟩, ⟨62, 61, .rw, 0, false⟩, ⟨60, 59, .rw, 0, false⟩, ⟨58, 58, .rw, 0, false⟩, ⟨57, 57, .rw, 0, false⟩, ⟨56, 56, .rw, 0, false⟩, ⟨55, 55, .rw, 0, false⟩, ⟨54, 54, .rw, 0, false⟩, ⟨53, 50, .rw, 0, false⟩, ⟨49, 30, .rw, 0, false⟩, ⟨19, 8, .rw, 0, false⟩, ⟨7, 0, .rw, 0, false⟩]⟩,
  /- INS_MAP_STATUS -/ ⟨0xe00028, 1, 0x8, [⟨63, 63, .ro, 0, false⟩, ⟨62, 62, .w1c, 0, false⟩, ⟨47, 32, .ro, 0, false⟩]⟩,
  /- INS_TT -/ ⟨0xe00030, 1, 0x8, [⟨63, 12, .ro, 0, false⟩]⟩,
  /- INS_MIGKEY_ID -/ ⟨0xe00038, 2, 0x8, [⟨63, 0, .ro, 0, false⟩]⟩,
  /- INS_DVIOL -/ ⟨0xe00048, 1, 0x8, [⟨47, 40, .ro, 0, false⟩, ⟨32, 32, .ro, 0, false⟩, ⟨31, 0, .rw, 0, false⟩]⟩,
  /- INS_CNT_SAT -/ ⟨0xe00050, 1, 0x8, [⟨2, 0, .ro, 0, false⟩]⟩,
  /- INS_CNT_WALK -/ ⟨0xe00058, 1, 0x8, [⟨63, 0, .rw, 0, false⟩]⟩,
  /- INS_CNT_VIOL -/ ⟨0xe00060, 1, 0x8, [⟨63, 0, .rw, 0, false⟩]⟩,
  /- INS_CNT_INVAL -/ ⟨0xe00068, 1, 0x8, [⟨63, 0, .rw, 0, false⟩]⟩,
  /- INS_INST -/ ⟨0xe01000, 256, 0x8, [⟨63, 61, .ro, 0, false⟩, ⟨60, 60, .ro, 0, false⟩, ⟨59, 58, .ro, 0, false⟩, ⟨57, 51, .ro, 0, false⟩, ⟨50, 45, .ro, 0, false⟩, ⟨44, 37, .ro, 0, false⟩, ⟨31, 0, .ro, 0, false⟩]⟩,
  /- INS_VIOL -/ ⟨0xe02000, 256, 0x8, [⟨47, 40, .ro, 0, false⟩, ⟨32, 32, .ro, 0, false⟩, ⟨31, 0, .rw, 0, false⟩]⟩]

/-- The SAF registers (spec/20_safety_and_repair.md). -/
def regsSaf : List RegDef := [
  /- SAF_CTRL -/ ⟨0xf00000, 1, 0x8, [⟨31, 16, .rw, 0x1f4, false⟩, ⟨2, 2, .rw, 0, false⟩]⟩,
  /- SAF_STATUS -/ ⟨0xf00008, 1, 0x8, [⟨7, 7, .ro, 1, false⟩, ⟨6, 6, .w1c, 0, false⟩, ⟨5, 5, .ro, 0, true⟩, ⟨4, 4, .ro, 0, false⟩, ⟨3, 3, .w1c, 0, false⟩, ⟨2, 2, .w1c, 0, false⟩, ⟨1, 1, .ro, 0, false⟩, ⟨0, 0, .ro, 0, false⟩]⟩,
  /- SAF_REPAIR -/ ⟨0xf00010, 1, 0x8, [⟨23, 16, .rw, 4, false⟩, ⟨15, 8, .rw, 8, false⟩, ⟨3, 0, .rw, 2, false⟩]⟩,
  /- SAF_RESERVE -/ ⟨0xf00018, 1, 0x8, [⟨63, 56, .ro, 0, false⟩, ⟨55, 48, .ro, 0, false⟩, ⟨47, 40, .ro, 0, false⟩, ⟨7, 0, .ro, 0, false⟩]⟩,
  /- SAF_AGE -/ ⟨0xf00020, 1, 0x8, [⟨31, 16, .ro, 0, true⟩, ⟨9, 0, .ro, 0, true⟩]⟩,
  /- SAF_FAULT -/ ⟨0xf00028, 1, 0x8, [⟨63, 48, .ro, 0, false⟩, ⟨47, 40, .ro, 0, false⟩, ⟨39, 32, .ro, 0, false⟩, ⟨31, 24, .ro, 0, false⟩, ⟨15, 0, .ro, 0, false⟩]⟩,
  /- SAF_LOG -/ ⟨0xf00030, 1, 0x8, [⟨46, 33, .ro, 0, true⟩, ⟨32, 32, .ro, 0, true⟩, ⟨31, 0, .rw, 0, true⟩]⟩,
  /- SAF_RETURN -/ ⟨0xf00038, 1, 0x8, [⟨63, 48, .wo, 0, false⟩, ⟨0, 0, .wo, 0, false⟩]⟩,
  /- SAF_CNT_SAT -/ ⟨0xf00040, 1, 0x8, [⟨8, 0, .ro, 0, false⟩]⟩,
  /- SAF_CNT_FAULT -/ ⟨0xf00048, 1, 0x8, [⟨63, 0, .rw, 0, false⟩]⟩,
  /- SAF_CNT_FENCE -/ ⟨0xf00050, 1, 0x8, [⟨63, 0, .rw, 0, false⟩]⟩,
  /- SAF_CNT_INJECT -/ ⟨0xf00058, 1, 0x8, [⟨63, 0, .rw, 0, false⟩]⟩,
  /- SAF_CNT_INJFAIL -/ ⟨0xf00060, 1, 0x8, [⟨63, 0, .rw, 0, false⟩]⟩,
  /- SAF_CNT_TEST -/ ⟨0xf00068, 1, 0x8, [⟨63, 0, .rw, 0, false⟩]⟩,
  /- SAF_CNT_TESTFAIL -/ ⟨0xf00070, 1, 0x8, [⟨63, 0, .rw, 0, false⟩]⟩,
  /- SAF_CNT_TESTLATE -/ ⟨0xf00078, 1, 0x8, [⟨63, 0, .rw, 0, false⟩]⟩,
  /- SAF_CNT_REPAIR -/ ⟨0xf00080, 1, 0x8, [⟨63, 0, .rw, 0, false⟩]⟩,
  /- SAF_CNT_REGRST -/ ⟨0xf00088, 1, 0x8, [⟨63, 0, .rw, 0, false⟩]⟩,
  /- SAF_GAL -/ ⟨0xf01000, 136, 0x8, [⟨63, 60, .ro, 0, false⟩, ⟨47, 32, .ro, 0, false⟩, ⟨31, 0, .ro, 0, false⟩]⟩]

/-- The PWR registers (spec/21_power_clocks_package.md). -/
def regsPwr : List RegDef := [
  /- PWR_CTRL -/ ⟨0x1000000, 1, 0x8, [⟨63, 48, .rw, 0xc8, false⟩, ⟨12, 8, .rw, 0x1f, false⟩, ⟨2, 2, .rw, 0, false⟩]⟩,
  /- PWR_STATUS -/ ⟨0x1000008, 1, 0x8, [⟨8, 8, .ro, 0, false⟩, ⟨7, 7, .ro, 0, false⟩, ⟨6, 6, .ro, 0, false⟩, ⟨5, 5, .ro, 0, false⟩, ⟨4, 4, .ro, 0, false⟩, ⟨3, 3, .ro, 0, false⟩, ⟨2, 2, .ro, 0, false⟩, ⟨1, 1, .ro, 0, false⟩, ⟨0, 0, .ro, 0, false⟩]⟩,
  /- PWR_CAP -/ ⟨0x1000010, 1, 0x8, [⟨15, 0, .rw, 0x2ee, false⟩]⟩,
  /- PWR_THERM -/ ⟨0x1000018, 1, 0x8, [⟨23, 16, .ro, 0x73, false⟩, ⟨15, 8, .rw, 0x64, false⟩, ⟨7, 0, .rw, 0x5f, false⟩]⟩,
  /- PWR_POWER -/ ⟨0x1000020, 1, 0x8, [⟨31, 16, .rw, 0, false⟩, ⟨15, 0, .ro, 0, false⟩]⟩,
  /- PWR_CNT_SAT -/ ⟨0x1000028, 1, 0x8, [⟨3, 0, .ro, 0, false⟩]⟩,
  /- PWR_CNT_CAPSTEP -/ ⟨0x1000030, 1, 0x8, [⟨63, 0, .rw, 0, false⟩]⟩,
  /- PWR_CNT_THROTTLE -/ ⟨0x1000038, 1, 0x8, [⟨63, 0, .rw, 0, false⟩]⟩,
  /- PWR_CNT_HOT -/ ⟨0x1000040, 1, 0x8, [⟨63, 0, .rw, 0, false⟩]⟩,
  /- PWR_CNT_RAILWARN -/ ⟨0x1000048, 1, 0x8, [⟨63, 0, .rw, 0, false⟩]⟩,
  /- PWR_RAIL -/ ⟨0x1000100, 4, 0x8, [⟨63, 48, .ro, 0, false⟩, ⟨47, 32, .ro, 0, false⟩, ⟨31, 16, .rw, 0, false⟩, ⟨0, 0, .ro, 0, false⟩]⟩,
  /- PWR_CEIL -/ ⟨0x1000200, 4, 0x8, [⟨31, 16, .ro, 0x960, false⟩, ⟨15, 0, .ro, 0x960, false⟩]⟩,
  /- PWR_TEMP -/ ⟨0x1000300, 19, 0x8, [⟨31, 16, .rw, 0, false⟩, ⟨15, 0, .ro, 0, false⟩]⟩]

/-- The FWU registers (spec/22_firmware_and_management.md). -/
def regsFwu : List RegDef := [
  /- FWU_CTRL -/ ⟨0x1100000, 1, 0x8, [⟨2, 2, .rw, 0, false⟩, ⟨1, 1, .wo, 0, false⟩, ⟨0, 0, .wo, 0, false⟩]⟩,
  /- FWU_STATUS -/ ⟨0x1100008, 1, 0x8, [⟨7, 7, .w1c, 0, false⟩, ⟨6, 6, .ro, 0, false⟩, ⟨5, 5, .ro, 0, false⟩, ⟨4, 4, .ro, 0, true⟩, ⟨3, 2, .ro, 0, true⟩, ⟨1, 1, .ro, 0, true⟩, ⟨0, 0, .ro, 0, false⟩]⟩,
  /- FWU_UPDATE_ID -/ ⟨0x1100010, 1, 0x8, [⟨63, 0, .ro, 0, true⟩]⟩,
  /- FWU_PROGRESS -/ ⟨0x1100018, 1, 0x8, [⟨46, 32, .ro, 0, true⟩, ⟨14, 0, .ro, 0, true⟩]⟩,
  /- FWU_RCV_CMD -/ ⟨0x1100020, 1, 0x8, [⟨63, 63, .wo, 0, false⟩, ⟨62, 62, .wo, 0, false⟩, ⟨61, 61, .wo, 0, false⟩, ⟨27, 16, .wo, 0, false⟩]⟩,
  /- FWU_RCV_STATUS -/ ⟨0x1100028, 1, 0x8, [⟨63, 48, .ro, 0, false⟩, ⟨47, 47, .ro, 0, false⟩, ⟨46, 46, .w1c, 0, false⟩, ⟨45, 44, .ro, 0, false⟩, ⟨43, 42, .ro, 0, false⟩]⟩,
  /- FWU_CNT_SAT -/ ⟨0x1100030, 1, 0x8, [⟨2, 0, .ro, 0, false⟩]⟩,
  /- FWU_CNT_PIECE -/ ⟨0x1100038, 1, 0x8, [⟨63, 0, .rw, 0, false⟩]⟩,
  /- FWU_CNT_ACTIVATE -/ ⟨0x1100040, 1, 0x8, [⟨63, 0, .rw, 0, false⟩]⟩,
  /- FWU_CNT_RESUME -/ ⟨0x1100048, 1, 0x8, [⟨63, 0, .rw, 0, false⟩]⟩]

/-- Every register the spec gives an offset. -/
def regDefs : List RegDef :=
  regsDev ++ regsDoc ++ regsSfl ++ regsExc ++ regsCat ++ regsFol ++ regsGal ++ regsGalv ++ regsMem ++ regsXqw ++ regsXq ++ regsVol ++ regsDma ++ regsEvt ++ regsPrv ++ regsIns ++ regsSaf ++ regsPwr ++ regsFwu

/-- Counters that share one SAT register: `first` is the first counter, its SAT bit is `bit`, and `count` counters follow
each other 8 bytes apart; `evOff`, `evBit` give the SAT_EVENT bit of the block (R582). `units` windows, `step` apart. -/
structure CntDef where
  first : Nat
  count : Nat
  bit : Nat
  sat : Nat
  evOff : Nat
  evBit : Nat
  units : Nat
  step : Nat
deriving DecidableEq, Repr

/-- The counters of every block (R582 and each block's CNT_SAT table). -/
def cntDefs : List CntDef := [
  ⟨0x100020, 7, 0, 0x100018, 0x100000, 2, 1, 0x8⟩,
  ⟨0x200080, 6, 0, 0x200028, 0x200000, 2, 1, 0x8⟩,
  ⟨0x200068, 2, 6, 0x200028, 0x200000, 2, 1, 0x8⟩,
  ⟨0x300020, 7, 0, 0x300018, 0x300000, 2, 1, 0x8⟩,
  ⟨0x400020, 6, 0, 0x400018, 0x400000, 2, 1, 0x8⟩,
  ⟨0x500020, 6, 0, 0x500018, 0x500000, 2, 1, 0x8⟩,
  ⟨0x600020, 5, 0, 0x600018, 0x600000, 2, 1, 0x8⟩,
  ⟨0x800020, 3, 0, 0x800018, 0x800018, 8, 128, 0x4000⟩,
  ⟨0x800108, 8, 0, 0x800100, 0x800018, 8, 128, 0x4000⟩,
  ⟨0x7e0020, 3, 0, 0x7e0018, 0x7e0018, 8, 8, 0x4000⟩,
  ⟨0x7e0108, 8, 0, 0x7e0100, 0x7e0018, 8, 8, 0x4000⟩,
  ⟨0xa00030, 6, 0, 0xa00028, 0xa00000, 2, 1, 0x8⟩,
  ⟨0xc00020, 6, 0, 0xc00018, 0xc00000, 2, 1, 0x8⟩,
  ⟨0xd00020, 7, 0, 0xd00018, 0xd00000, 1, 1, 0x8⟩,
  ⟨0xe00058, 3, 0, 0xe00050, 0xe00000, 2, 1, 0x8⟩,
  ⟨0xf00048, 9, 0, 0xf00040, 0xf00000, 2, 1, 0x8⟩,
  ⟨0x1000030, 4, 0, 0x1000028, 0x1000000, 2, 1, 0x8⟩,
  ⟨0x1100038, 3, 0, 0x1100030, 0x1100000, 2, 1, 0x8⟩,
  ⟨0x1200060, 6, 0, 0x1200058, 0x1200000, 2, 1, 0x8⟩,
  ⟨0x1300020, 7, 0, 0x1300018, 0x1300000, 2, 8, 0x1000⟩]

end Sys2Proof.Machine
end

