-- ==== Sys2Proof/Machine/State.lean ====
section
/-!
DEFINITION. The state of the XD-384 (plain data): the mode arbiter (`CoreSt`), every block of the device (`Dev`), and the
queue of commands that wait. Tables are sparse (`Tbl`): a unit that a table does not list stands at the defaults its
structure gives, which are the values at reset. Registers that the spec gives as registers of the manager view stand in
`Dev.regs` under their offsets (Sys2Proof/Machine/RegTable.lean gives each its fields and reset values); state that an
engine keeps besides its registers stands in that engine's structure, and a register that only reports it is computed from
it (Sys2Proof/Machine/Regs.lean).
-/

namespace Sys2Proof.Machine

/-- Why a step stops with a fault. -/
inductive Fault where
  /-- PWRGOOD fell while the write-buffer dump ran, before the 5 ms that R58 asks of the platform: R58 refers it to R10,
  which guarantees nothing. Raised by PWRGOOD_FALL only. Safe: nothing is claimed of what follows. -/
  | integratorBreach
deriving DecidableEq, Repr

/-- Why a step refuses a command. -/
inductive Refusal where
  /-- No meaning yet: raised by no arm of exec in the finished model. Safe. -/
  | notModelled (mnemonic : String)
deriving DecidableEq, Repr

/-! ### Modes and the mode arbiter (spec/02_modes_and_startup.md) -/

/-- The operating mode, as R30 encodes it: 0 to 7 in this order. -/
inductive Mode where
  | off | rom | configure | service | quiesced | maintenance | recovery | safeStop
deriving DecidableEq, Repr

/-- Why the device is in QUIESCED (R35, R36): the manager asked; a firmware activation; or a whole-device maintenance
command. The last two carry the command that waits (instance, pair, command identifier). -/
inductive QuiesceFor where
  | hold
  | activate (cmd : Option (Nat × Nat × Nat)) (pldm : Bool)
  | maintenance (cmd : Nat × Nat × Nat) (sanitise : Bool) (method : Nat)
deriving DecidableEq, Repr

/-- What the mode arbiter and its pins hold. Only commands that act on the mode, on resets or on a pin write it. -/
structure CoreSt where
  mode : Mode := .rom
  prev : Mode := .off
  /-- DEV_TIME (R15). -/
  time : Word := 0
  /-- SERVICE was entered since the last power-on, cold or warm reset (R53). -/
  served : Bool := false
  /-- The slots that have failed this boot (R49): slot A, slot B. -/
  failedA : Bool := false
  failedB : Bool := false
  /-- The reset in progress was requested with ENTER_RECOVERY (R33). -/
  toRecovery : Bool := false
  quiesceFor : Option QuiesceFor := none
  /-- The drain of R35 has finished. -/
  drained : Bool := false
  /-- PWRGOOD as qualified, PFAIL_N low, and GPIO0 low when PWRGOOD rose. -/
  pwrgood : Bool := true
  pfailLow : Bool := false
  gpio0Low : Bool := false
  /-- A dump is being written (R56), and PFAIL_N rose again while one was (R60). -/
  dumping : Bool := false
  /-- The write buffer accepts no insertion and no port fetches, from the dump point on (R56, R60). -/
  dumpHold : Bool := false
  /-- The dump of this dump point has begun (R60, R63). -/
  dumpTaken : Bool := false
  /-- PFAIL_N was low when PWRGOOD rose, and has not been high for 1 ms since; the ROM has completed its pass and waits for that (R538). -/
  lowAtRise : Bool := false
  passDone : Bool := false
  /-- DEV_TIME when QUIESCED was last entered (R38). -/
  quiescedAt : Nat := 0
deriving DecidableEq, Repr

/-! ### Rings and logs (R586 to R588, R506, R531) -/

/-- A ring of fixed entries: next slot, entries ever written, overwritten, stuck, frozen, and the slots written. -/
structure Ring where
  head : Nat := 0
  seq : Nat := 0
  ovf : Nat := 0
  sat : Bool := false
  frozen : Bool := false
  slots : Tbl Bytes := []
deriving DecidableEq, Repr

/-! ### The event controller (spec/17_event_controller.md) -/

/-- The pending state of one routed source, of one directed source at one gallery, or of one host vector: pending;
raises accepted since the last delivery; the COUNT that lets it be eligible and the TIME that makes it so (both of the profile in
force at the raise, R467); whether that TIME has passed; and the logical gallery that holds it delivered and unclaimed. -/
structure EvtSlot where
  pend : Bool := false
  count : Nat := 0
  need : Nat := 1
  limit : Nat := 0
  ripe : Bool := false
  deliv : Option Nat := none
deriving DecidableEq, Repr

/-- Whether a logical gallery is able to take events (R463, R465, R471). -/
inductive EvtGalSt where
  | active | asleep | withdrawn
deriving DecidableEq, Repr

/-- One MSI-X table entry (R468). -/
structure MsixEntry where
  addr : Nat := 0
  data : Nat := 0
  mask : Bool := true
deriving DecidableEq, Repr

/-- The event controller: routed sources by number; directed sources by number x 128 + logical gallery; host vectors by
instance x 64 + vector; gallery states; MSI-X tables by instance x 64 + vector; the rotation across targets (R463). -/
structure EvtSt where
  routed : Tbl EvtSlot := []
  directed : Tbl EvtSlot := []
  vectors : Tbl EvtSlot := []
  gal : Tbl EvtGalSt := []
  lastClaim : Tbl Nat := []
  msix : Tbl MsixEntry := []
  rot : Nat := 0
  /-- Messages sent: (port, address, data), the newest first. -/
  sent : List (Nat × Nat × Nat) := []
deriving DecidableEq, Repr

/-! ### Instances and translation (spec/19_instances.md) -/

/-- INS_INST[i].STATE (R495). -/
inductive InstSt where
  | free | active | freezing | frozen
deriving DecidableEq, Repr

/-- A share record (R499). -/
structure Share where
  galMin : Nat := 0
  galMax : Nat := 1
  localKib : Nat := 0
  atriumKib : Nat := 0
  contexts : Nat := 0
  stackMib : Nat := 0
  annexMib : Nat := 0
  queueEntries : Nat := 1
  catBanks : Nat := 0
  dmaChannels : Nat := 0
  digests : Nat := 0
  volumes : Nat := 0
  weight : Nat := 1
deriving DecidableEq, Repr

/-- One instance: its state; the port and function that present it; its share, and the share that takes effect at the next
multiple of 100,000 ns (R501); its table root (R502), none until a mapping is made; its PASID slots (none where empty);
its violation ring (R506); the admin command that froze it, while it drains, and
the one that destroys it, while that goes on. -/
structure Inst where
  st : InstSt := .free
  bound : Option (Nat × Nat) := none
  share : Share := {}
  nextShare : Option Share := none
  root : Option Nat := none
  pasids : Tbl Nat := []
  leaves : Nat := 0
  viol : Ring := {}
  freezeCmd : Option (Nat × Nat × Nat) := none
  /-- DEV_TIME when the freeze began (R507). -/
  freezeAt : Nat := 0
  destroyCmd : Option (Nat × Nat × Nat) := none
deriving DecidableEq, Repr

/-- A leaf the page walkers found: page base, size in bytes, page address, host, write, read, carry, PASID slot. -/
structure Leaf where
  va : Nat
  size : Nat
  addr : Nat
  host : Bool
  write : Bool
  read : Bool
  carry : Bool
  pasidSlot : Nat
deriving DecidableEq, Repr

/-- An invalidation that is out (R504), of an UNMAP or of a destroyed instance (R497): the instance, the leaves removed, and the
TLBs still to acknowledge. A TLB is named by its SOURCE code (R506) x 256 + unit. -/
structure Inval where
  inst : Nat
  leaves : List Leaf
  waiting : List Nat
  request : Bool
deriving DecidableEq, Repr

/-- Who holds the manager role, the port the configuration image names and the key hashes of its MANAGER record (R498, R558), the
table region (R502), the request that is out (R503), invalidations in progress (R504), the migration domain key and its identifier
(R574), and the device violation ring (R506). -/
structure InsSt where
  inst : Tbl Inst := []
  holder : Option Nat := none
  /-- A MANAGER_CLAIM has been accepted since SERVICE was first entered (R498). -/
  claimed : Bool := false
  named : Option Nat := none
  managers : List Bytes := []
  /-- Table pages taken so far, those given back, and the pages of the region. -/
  tablePages : Nat := 0
  freeTables : List Nat := []
  tableLimit : Nat := 0
  inval : List Inval := []
  migKey : Option (Bytes × Bytes) := none
  dviol : Ring := {}
deriving DecidableEq, Repr

/-! ### Memory (spec/13_memory_system.md) -/

/-- MEM_PC[c].STATE and MEM_ANX[n].STATE. -/
inductive ChanSt where
  | active | frozen | fenced | absent
deriving DecidableEq, Repr

/-- Who makes an access: SOURCE and UNIT of R506, the task it serves, which of the unit's jobs it belongs to, and the address by which the
source names the place. -/
structure Who where
  source : Nat
  unit : Nat
  run : Nat := 0
  task : Nat := 0
  job : Nat := 0
  va : Nat := 0
deriving DecidableEq, Repr

/-- A request in a controller's queue (R367, R368): write or read, its class, whether age has promoted it, its 64-byte block, its number in
order of acceptance, and when it was accepted. -/
structure MemReq where
  write : Bool
  cls : Nat
  promoted : Bool := false
  block : Nat
  order : Nat
  since : Nat := 0
deriving DecidableEq, Repr

/-- A write held in the ingress queue of a FROZEN channel (R376): member address, bytes, whose response waits for it, and the channel of the
other copy, where the set is mirrored. -/
structure HeldWrite where
  addr : Nat
  bytes : Bytes
  who : Who
  other : Option Nat := none
deriving DecidableEq, Repr

/-- One command of a controller's capture (R380). -/
structure MemCmd where
  time : Nat
  cmd : Nat
  cls : Nat
  bank : Nat
  row : Nat
  column : Nat
deriving DecidableEq, Repr

/-- One pseudo-channel (0 to 511) or annex channel (512 to 519). `poison` is the poison list (R378) of 64-byte blocks; `held` the writes held
while FROZEN (R376); `freezes` the times of its freezes (R379); `queue` the requests accepted, `ingress` those that wait for a place there,
in order of arrival; `draining` whether a burst of writes goes on (R368). -/
structure Chan where
  st : ChanSt := .active
  k : Nat := 11
  rate : Nat := 0
  postponed : Nat := 0
  poison : List Nat := []
  held : List HeldWrite := []
  queue : List MemReq := []
  ingress : List MemReq := []
  draining : Bool := false
  accepted : Nat := 0
  openRows : Tbl Nat := []
  acts : Tbl Nat := []
  quiet : Nat := 0
  freezes : List Nat := []
  last : List MemCmd := []
  /-- Captures that the Registrar has not copied yet, oldest first: time, MEM_FREEZE, commands (R375, R377). -/
  capture : List (Nat × Word × List MemCmd) := []
  /-- Blocks that a held write replaces whole (R378). -/
  heals : List Nat := []
  /-- Corrected errors per row: (row, time); rows whose soft repair the Conservator has asked for (R381, R526). -/
  rowCe : List (Nat × Nat) := []
  due : List Nat := []
  /-- The refresh rate that MR4 requests of an annex channel (R370). -/
  mr4 : Nat := 0
  /-- Capacity in bytes: 768 MiB for a pseudo-channel; what its DIMMs hold for an annex channel (R362). -/
  bytes : Nat := 805306368
deriving DecidableEq, Repr

/-- The memory controllers: the channels, and the error responses that engines' held writes have received and their engines not yet acted on, with
the bytes that they were for (R379). -/
structure MemSt where
  chan : Tbl Chan := []
  lost : List (Who × Nat) := []
deriving DecidableEq, Repr

/-! ### Safety (spec/20_safety_and_repair.md) -/

/-- A test claim on a physical gallery (R520, R150): when it was made, whether TEST_LATE was set, and whether a vote made it (R522). -/
structure TestClaim where
  gallery : Nat
  since : Nat
  late : Bool := false
  outvote : Bool := false
deriving DecidableEq, Repr

/-- The Conservator and the safety log. `fences` lists every fenced or absent resource as (BLOCK of R577, unit): DEGRADED is
set while it is not empty (R32). `counts` counts the fences of a unit since reset (R523). -/
structure SafSt where
  fences : List (Nat × Nat) := []
  counts : List (Nat × Nat) := []
  log : Ring := {}
  claims : List TestClaim := []
  /-- Outvotes of each physical gallery: times (R522). -/
  outvotes : Tbl (List Nat) := []
  /-- The last structural test of a physical gallery passed (R521). -/
  passed : List Nat := []
  /-- Errors of each Atrium store bank: times (R523). -/
  bankErr : Tbl (List Nat) := []
  /-- Comparator disagreements: times (R523). -/
  cmpErr : List Nat := []
  /-- Errors of a die-to-die lane group: times, and lanes replaced, by link x 256 + group (R29, R523). -/
  linkErr : Tbl (List Nat) := []
  laneUsed : Tbl Nat := []
  retraining : List Nat := []
  /-- Corrected errors in SRAM rows: (block, unit, row, time); gallery rows to be repaired at the gallery's next test (gallery, row);
  the repair log: (block, unit, row) (R526). -/
  sramCe : List (Nat × Nat × Nat × Nat) := []
  sramDue : List (Nat × Nat) := []
  repairLog : List (Nat × Nat × Nat) := []
  /-- DRAM rows repaired permanently: (channel, row) (R381). -/
  permanent : List (Nat × Nat) := []
  /-- The Registrar: restarting, halted, times of its restarts (R529). -/
  regRestart : Bool := false
  regHalted : Bool := false
  regTimes : List Nat := []
  heartbeat : Nat := 0
  kick : Nat := 0
  /-- A checker with an injection out (R519): block, unit. -/
  injected : List (Nat × Nat) := []
  /-- Temperature history for SAF_AGE (R527), the newest first: (mean junction temperature in degrees, hours). -/
  history : List (Nat × Nat) := []
  /-- The device of a return record (R532). -/
  returnRecord : Bool := false
  /-- Units to be injected and tested once, 1 s after their first fence (R523). -/
  retest : List (Nat × Nat) := []
deriving DecidableEq, Repr

/-! ### Host ports and queues (spec/14_host_queues.md) -/

/-- A queue pair (R388): entries, queue addresses, vector, interrupts, PASID; submission head and recorded tail; completion
tail, the host's head, and PHASE of the next entry (R391); stopped by DELETE_QUEUE or a controller reset. -/
structure Pair where
  size : Nat
  sq : Nat
  cq : Nat
  vector : Nat := 0
  ien : Bool := false
  pasid : Option Nat := none
  sqHead : Nat := 0
  sqTail : Nat := 0
  cqTail : Nat := 0
  cqHead : Nat := 0
  /-- Entries posted and not yet released by the host (R391). -/
  posted : Nat := 0
  phase : Bool := true
  stopped : Bool := false
  deleter : Option Nat := none
deriving DecidableEq, Repr

/-- A fetched and uncompleted command (R391 to R396): its instance, pair and CID; OPCODE, FLAGS and command area; the
submission head after its fetch; started (R411). -/
structure Cmd where
  inst : Nat
  pair : Nat
  cid : Nat
  op : Nat
  flags : Nat := 0
  area : Bytes := []
  sqHead : Nat := 0
  started : Bool := false
  /-- Started before a controller or queue deletion that waits for it, or its queues are gone and it posts nothing (R411). -/
  silent : Bool := false
deriving DecidableEq, Repr

/-- A host port (R385): link, width, speed, flit mode, PERST_N asserted, virtual functions enabled; the read of submission
entries that is out (instance, pair, entries); the fetch rotation (R392). -/
structure Port where
  /-- Lanes that the port record of the configuration image selects: 16 or 8 (R385). -/
  lanes : Nat := 16
  linkUp : Bool := false
  width : Nat := 0
  speed : Nat := 0
  flit : Bool := false
  perstLow : Bool := true
  vfs : Nat := 0
  turn : Option (Nat × Nat × Nat) := none
  rrInst : Nat := 0
  credit : Nat := 0
  rrPair : Tbl Nat := []
deriving DecidableEq, Repr

/-- A function's PCIe configuration that the device acts on: MSI-X Enable, Function Mask, ATS enabled. -/
structure Func where
  msixEnable : Bool := false
  funcMask : Bool := false
  ats : Bool := false
  /-- Configuration registers the host wrote, by offset. -/
  config : Tbl Nat := []
deriving DecidableEq, Repr

/-- A storage command in the ordering unit (R405 to R410), in admission order. `checked`: the checks of R398 passed; `data`: a
WRITE's bytes, once they have arrived. -/
structure OuCmd where
  inst : Nat
  pair : Nat
  cid : Nat
  op : Nat
  fua : Bool := false
  volume : Nat := 0
  lba : Nat := 0
  blocks : Nat := 0
  checked : Bool := false
  truncated : Bool := false
  segs : List (Nat × Nat) := []
  data : Option Bytes := none
  /-- A WRITE or DEALLOCATE: inserted as the buffer entries from this order number up to the second (R406, R409). -/
  inserted : Option (Nat × Nat) := none
  /-- A FLUSH: buffer entries with a lower order number must have drained; the NVMe Flush commands out (SSD, id). -/
  needs : Nat := 0
  flushed : Option (List (Nat × Nat)) := none
deriving DecidableEq, Repr

/-- An entry of the write buffer, in order of insertion: `count` blocks of a volume from `first` on, with their data (one block of
4,096 bytes) or a deallocation (R400); `order` numbers the insertions. -/
structure BufBlock where
  volume : Nat
  first : Nat
  count : Nat := 1
  data : Option Bytes
  order : Nat
deriving DecidableEq, Repr

/-- The host queues, the ordering unit and the write buffer. -/
structure OwedEntry where
  inst : Nat
  pair : Nat
  cid : Nat
  result : Nat
  status : Nat
deriving DecidableEq, Repr

/-- The host port island and its queues. -/
structure XqSt where
  ports : Tbl Port := []
  funcs : Tbl Func := []
  /-- Answers to PCIe configuration reads (R53): port, function, register, value, the newest first. -/
  answers : List (Nat × Nat × Nat × Nat) := []
  pairs : Tbl Pair := []
  cmds : List Cmd := []
  ou : List OuCmd := []
  buffer : List BufBlock := []
  inserted : Nat := 0
  /-- Instances in a controller reset (R411). -/
  resetting : List Nat := []
  /-- Completions that wait for the response of a held write of their command (R26, R376), and commands (`cmdJob`) of which one received an error
  response (R379). -/
  owed : List OwedEntry := []
  lost : List Nat := []
deriving DecidableEq, Repr

/-! ### Programs, runs and the Docent (spec/04_pipeline_programs.md, spec/05_docent.md) -/

/-- A program in a slot: where its image lies in the Atrium store, and its length. -/
structure Program where
  addr : Nat
  bytes : Nat
deriving DecidableEq, Repr

/-- Context states (R136), in order of their codes. -/
inductive TaskSt where
  | free | waiting | ready | released | running | comparing | done | cancelled
deriving DecidableEq, Repr

/-- A task context (R135). `key` is its task number; a third ledger run has its own entry under 2^21 + the number of copy 0. -/
structure Task where
  st : TaskSt := .waiting
  counter : Nat := 0
  restartable : Bool := false
  cascade : Bool := false
  ledger : Bool := false
  copy : Nat := 0
  template : Nat := 0
  logical : Nat := 0
  attempt : Nat := 0
  prio : Nat := 0
  /-- Logical gallery that runs or ran it. -/
  gal : Option Nat := none
  status : Nat := 0
  abortLate : Bool := false
  cancelReq : Bool := false
  rows : Nat := 0
  op : Nat := 0
  check : Bytes := []
deriving DecidableEq, Repr

/-- A 64 KiB extent of a RESULT buffer (R117): buffer, device physical address, writing task key, bytes written. -/
structure Extent where
  buffer : Nat
  addr : Nat
  task : Nat
  bytes : Nat := 0
deriving DecidableEq, Repr

/-- Type and scale of a slot (R71, R105). -/
structure SlotTy where
  ty : Nat
  scale : Nat := 0
deriving DecidableEq, Repr

/-- Types and scales of what the tasks of a run have produced: the staged slots of a STREAM edge, by rank (R199); the staged slots of a
buffer of run records; the key and source types of a buffer of partial rows. The producing operator fixes them (R105). -/
structure Typing where
  streams : Tbl (Tbl SlotTy) := []
  runs : Tbl (Tbl SlotTy) := []
  partials : Tbl (List SlotTy × List (Option SlotTy)) := []
deriving DecidableEq, Repr

/-- A run-table entry (R134), kept on for retained results. -/
structure Run where
  inst : Nat
  runId : Nat
  slot : Nat
  prio : Nat
  cmd : Option (Nat × Nat) := none
  truncated : Bool := false
  params : Bytes := []
  first : Nat := 0
  contexts : Nat := 0
  tasks : Tbl Task := []
  expanded : Nat := 0
  paused : Bool := false
  /-- Accepted in this order (R142). -/
  order : Nat := 0
  failure : Option (Nat × Nat × Nat) := none
  cancelled : Bool := false
  taskCancelled : Bool := false
  abortLate : Bool := false
  ended : Bool := false
  /-- SCRATCH and RESULT buffers: (buffer, device physical address, bytes); RESULT extents in the order they were taken. -/
  scratch : List (Nat × Nat × Nat) := []
  results : List (Nat × Nat × Nat) := []
  extents : List Extent := []
  typing : Typing := {}
  /-- The run's queues are gone, so its end posts nothing (R133). -/
  silent : Bool := false
deriving DecidableEq, Repr

/-- What DOC_GAL[g].STATE tells of a logical gallery. -/
inductive GalSt where
  | idle | running | testPending | test | fenced | absent | held
deriving DecidableEq, Repr

/-- A completion in the intake (R143): logical gallery, run handle, task key, status, rows, failing operator, check record. -/
structure Completion where
  gal : Nat
  run : Nat
  task : Nat
  status : Nat
  rows : Nat := 0
  op : Nat := 0
  check : Bytes := []
deriving DecidableEq, Repr

/-- A cancel that waits for its decision (R138): a whole run, or one task (R151). -/
structure CancelReq where
  run : Nat
  task : Option Nat := none
  /-- The PIPELINE_CANCEL command that asked (instance, pair, CID). -/
  cmd : Option (Nat × Nat × Nat) := none
deriving DecidableEq, Repr

/-- A verdict on a ledger logical task (R240 to R242): accept a copy, fail with a status, or hold a vote with a third run. -/
inductive Verdict where
  | accept (copy : Nat)
  | fail (status : Nat)
  | vote
deriving DecidableEq, Repr

/-- A notice of the Conservator that waits for its decision. -/
inductive DocNotice where
  | fence (gal : Nat)
  | test (gal : Nat)
  | returned (gal : Nat)
  | absent (gal : Nat)
  | coreReset (gal : Nat)
deriving DecidableEq, Repr

/-- The Docent. -/
structure DocSt where
  programs : Tbl Program := []
  runs : Tbl Run := []
  accepted : Nat := 0
  decision : Nat := 0
  /-- Ready lists by level: (run handle, task key), first to dispatch first; overflow chains the same. -/
  ready : Tbl (List (Nat × Nat)) := []
  chain : Tbl (List (Nat × Nat)) := []
  gal : Tbl GalSt := []
  /-- The task each logical gallery runs: run handle, task key. -/
  task : Tbl (Nat × Nat) := []
  idle : List Nat := []
  intake : List Completion := []
  held : List Completion := []
  notices : List DocNotice := []
  cancels : List CancelReq := []
  /-- Logical galleries to which a TASK_CANCEL is on its way (R153). -/
  tcancels : List Nat := []
  /-- Verdicts of the comparator, in arrival order: run handle, task number of copy 0. -/
  verdicts : List (Nat × Nat × Verdict) := []
  /-- Logical galleries marked hot (DOC_HOT). -/
  hot : List Nat := []
  /-- Dispatches of each logical gallery (R329). -/
  seq : Tbl Nat := []
  /-- Dispatch messages on their way to a gallery (R329), by logical gallery. -/
  msgs : Tbl Bytes := []
  /-- Counter decrements still to apply, in order: run handle, task number (R137). -/
  releases : List (Nat × Nat) := []
  /-- Logical galleries whose task-end notice the event controller has not acknowledged (R470). -/
  notes : List Nat := []
  /-- The trace ring (R162): base taken at the enable, records written since. -/
  traceBase : Nat := 0
  traced : Nat := 0
  /-- Instances with HOLD set (R142). -/
  holds : List Nat := []
  expandTurn : Nat := 0
deriving DecidableEq, Repr

/-! ### Galleries (spec/11_gallery_core.md, spec/12_vector_units.md) -/

/-- A capability (R304) with its tag. `rsv` is bit 127, kept as it was stored. -/
structure Cap where
  tag : Bool := false
  rsv : Bool := false
  space : Nat := 0
  otype : Nat := 0
  perms : Nat := 0
  inst : Nat := 0
  len : Nat := 0
  base : Nat := 0
deriving DecidableEq, Repr

/-- What a core is doing: executing; waiting in WFE (R332); in deep sleep (R333) or waking from it; waiting at its TASKDONE
write (R330, R143); stopped by a double fault (R326) or by a fence (R156), or waiting for firmware (R303). -/
inductive CoreRun where
  | run | wfe | asleep | waking | done | stopped
deriving DecidableEq, Repr

/-- The long-vector datapath (R354, R355): off, waking, on. -/
inductive LvuSt where
  | off | waking | on
deriving DecidableEq, Repr

/-- One physical gallery: the core's two register banks, capability registers, PCC, PC, core control registers, vector state,
local-store tags by 16-byte granule, and what it is doing. -/
structure Gallery where
  g : Tbl Word := []
  sg : Tbl Word := []
  c : Tbl Cap := []
  sc : Tbl Cap := []
  pcc : Cap := {}
  pc : Nat := 0x180000
  shadow : Bool := false
  eie : Bool := false
  evtPending : Bool := false
  cancelPending : Bool := false
  ecause : Word := 0x3F00
  epc : Nat := 0
  eaddr : Word := 0
  epcc : Cap := {}
  vbcc : Cap := {}
  task : Word := 0
  st : CoreRun := .run
  /-- The first failed posted write since the last report (R321): address and REASON, and whether later ones failed. -/
  postErr : Option (Nat × Nat) := none
  /-- The value of the TASKDONE write the core waits at (R330). -/
  doneWrite : Option Word := none
  tags : List Nat := []
  /-- The 64-bit words of local store that hold an error ECC cannot correct (R311), by address / 8. -/
  badWords : List Nat := []
  v : Tbl (BitVec 8192) := []
  sv : Tbl (BitVec 256) := []
  vl : Nat := 0
  vtype : Nat := 0
  vstart : Nat := 0
  vscale : Word := 0
  vpwr : Nat := 20
  lvu : LvuSt := .off
  /-- When the datapath came on, and whether an instruction has stalled on its wake (R355, R358). -/
  lvuSince : Nat := 0
  /-- Nanoseconds on that GAL_VCNT_ON_US does not count yet. -/
  onRest : Nat := 0
  stalled : Bool := false
  /-- When the core began to wait in WFE (R544). -/
  wfeAt : Nat := 0
  /-- Operating point (GAL_FREQ): MHz and mV; the highest frequency that the canary loop permits (R528, R546). -/
  mhz : Nat := 0
  mv : Nat := 0
  limit : Nat := 2400
  /-- Exchange pages granted to the running task in its staging window (R209): page number, device address. -/
  staging : List (Nat × Nat) := []
deriving DecidableEq, Repr

/-- The galleries: cores by physical number; physical number of each logical gallery that repair has moved (R18, R19). -/
structure GalsSt where
  core : Tbl Gallery := []
  map : Tbl Nat := []
  /-- Physical galleries retired (R19, R20), and logical galleries marked absent. -/
  retired : List Nat := []
  absent : List Nat := []
  /-- The Registrar has loaded gallery firmware and released the cores (R55, R303). -/
  released : Bool := false
deriving DecidableEq, Repr

/-! ### SSDs, volumes and what the accession log keeps (spec/15_storage_volumes.md, R43, R56) -/

/-- States of an SSD port (R418), in order of their codes. -/
inductive SsdSt where
  | absent | init | foreign | needsFormat | free | member | spare | failed
deriving DecidableEq, Repr

/-- An NVMe command outstanding on an SSD (R417, R419): a write of sectors, or a flush. `abort`: an Abort is out; `again`: it has been
reissued after a controller reset. -/
structure NvmeCmd where
  id : Nat
  lba : Nat
  data : Option Bytes
  fua : Bool
  abort : Bool := false
  again : Bool := false
deriving DecidableEq, Repr

/-- An SSD port: state, link, what Identify and SMART told, serial number, outstanding commands, a controller reset in progress. -/
structure Ssd where
  st : SsdSt := .absent
  width : Nat := 0
  speed : Nat := 0
  pct : Nat := 0
  capacity : Nat := 0
  serial : Bytes := []
  cmds : List NvmeCmd := []
  resetting : Bool := false
deriving DecidableEq, Repr

/-- A volume (R421 to R428): what its labels say; its members by position, none where one is missing; has come online since the
last reset; held offline by a dump (R61, R62); in maintenance (R433); the rebuild in progress: position and SSD. -/
structure Vol where
  owner : Nat
  level : Nat
  elem : Nat
  blocks : Nat
  start : Nat
  gen : Nat
  key1 : Bytes
  key2 : Bytes
  members : List (Option Nat)
  online : Bool := false
  held : Bool := false
  maint : Bool := false
  rebuild : Option (Nat × Nat) := none
  watermark : Nat := 0
deriving DecidableEq, Repr

/-- A drain step whose writes are out (R429): volume, chunk, the newest buffer entry it took, whether it writes with FUA, and the
writes still to complete (SSD, id). -/
structure Drain where
  volume : Nat
  chunk : Nat
  upTo : Nat
  fua : Bool
  wait : List (Nat × Nat)
deriving DecidableEq, Repr

/-- The volume island. -/
structure VolSt where
  ssd : Tbl Ssd := []
  vols : Tbl Vol := []
  drains : List Drain := []
  nextId : Nat := 0
  /-- ASSEMBLE_MS has passed since SERVICE entry (R423). -/
  assembled : Bool := false
deriving DecidableEq, Repr

/-- A write-buffer dump in the accession log (R56 to R62): complete and valid; flagged SAFE-STOP; ordered by the manager (R62); the
buffer entries, and the volumes not yet replayed. -/
structure Dump where
  valid : Bool := false
  flagged : Bool := false
  ordered : Bool := false
  blocks : List BufBlock := []
  left : List Nat := []
  /-- CONFIGURE found it after a reset (R61). -/
  found : Bool := false
  /-- Volumes replayed whose flush is out: the NVMe Flush commands still to complete (SSD, id). -/
  flushing : Tbl (List (Nat × Nat)) := []
deriving DecidableEq, Repr

/-- A maintenance operation in the accession log (R434): its fields; per SSD port 1 issued, 2 done; overwrite pass; serial numbers
of SSDs absent at its start. -/
structure Maint where
  sanitise : Bool
  volume : Nat
  method : Nat
  passes : Nat := 1
  pattern : Nat := 0
  invert : Bool := false
  ports : Tbl Nat := []
  pass : Nat := 0
  absent : List Bytes := []
deriving DecidableEq, Repr

/-- The firmware update in the accession log (R562 to R565): image bytes, units done, sectors IN_PROGRESS, DEV_TIME of the last
piece; the settings have been written in two formats for the pending image (R561). -/
structure FwUpdate where
  imageBytes : Nat := 0
  units : List Nat := []
  inProgress : List Nat := []
  last : Nat := 0
  dual : Bool := false
deriving DecidableEq, Repr

/-- What the accession log keeps besides the logs and the registers held there (R43). -/
structure AccLog where
  dump : Option Dump := none
  /-- A valid dump whose replay had not finished when a newer one began (R61). -/
  older : Option Dump := none
  maint : List Maint := []
  /-- Finished whole-device operations whose action an absent SSD still has to take when it arrives (R434). -/
  owed : List Maint := []
  /-- Rebuild watermarks by volume: position, SSD, next stripe (R430). -/
  rebuild : Tbl (Nat × Nat × Nat) := []
  fw : FwUpdate := {}
deriving DecidableEq, Repr

/-! ### Management (spec/22_firmware_and_management.md) -/

/-- What the management endpoint answers (R571 to R574). The encodings are those of the named standards; the model tells the content. -/
inductive MgmtReply where
  | done
  | invalidData
  | invalidState
  | alreadyInUpdate
  | notInUpdate
  | unableToInitiate
  | busy
  | failed (status : Nat)
  | eid (v : Nat)
  | uuid (bs : Bytes)
  | kinds (ts : List Nat)
  | commands (ts : List Nat)
  | tid (v : Nat)
  | text (bs : Bytes)
  | reading (v : Nat)
  | state_ (v : Nat)
  | device (v : Nat)
  | versions (running pending : Nat)
  | request (offset length : Nat)
  | progress (state : Nat) (percent : Nat)
  | vendor (op status : Nat)
  | unexpectedRequest
deriving DecidableEq, Repr

/-- Where a PLDM update stands (R572), in order of DSP0267's state codes. -/
inductive PldmSt where
  | idle | learn | readyXfer | download | verify | apply | activate
deriving DecidableEq, Repr

/-- A FW_PIECE in progress (R563): its command (instance, pair, CID), the next byte of its image range, the end of the range, the
excess was cut, and its sector is marked IN_PROGRESS. -/
structure PieceTurn where
  cmd : Nat × Nat × Nat
  next : Nat
  stop : Nat
  cut : Bool
  marked : Bool := false
deriving DecidableEq, Repr

/-- The management endpoint and what the ROM keeps in RECOVERY: PLDM PlatformEventMessages sent (R572: event source number and value)
and answers, the newest first; bus choice, endpoint and terminus identifiers; settings of the MANAGEMENT record; the PLDM update; the
piece in progress; the UART: its speed code, the speed that a SPEED frame asked for, the SEQ expected next, frames sent; the recovery
write window by 8-byte word; and the sectors erased in this RECOVERY pass (slot, sector). -/
structure MgmtSt where
  notified : List (Nat × Nat) := []
  replies : List MgmtReply := []
  i3c : Option Nat := none
  smbusAddr : Nat := 0x4A
  uartMax : Nat := 3
  eidStatic : Nat := 0
  eid : Nat := 0
  tid : Nat := 0
  pldm : PldmSt := .idle
  piece : Option PieceTurn := none
  uartSpeed : Nat := 0
  uartNext : Option Nat := none
  uartSeq : Option Nat := none
  uartOut : List Bytes := []
  window : Tbl Word := []
  erased : List (Nat × Nat) := []
deriving DecidableEq, Repr

/-! ### Stack filters (spec/06_scans_and_stack_filters.md) -/

/-- A filter descriptor held (R178, R180): who submitted it (physical gallery, instance, run, task), its 128 bytes; once started, the
row groups finished, skipped and redirected, bytes written to the ring and consumed, records waiting for room, bytes read and
shipped, the status so far, and the status it has ended with while its completion record is still to come. -/
structure SflDesc where
  gal : Nat
  inst : Nat
  run : Nat := 0
  task : Nat := 0
  bytes : Bytes
  /-- Its FILTER and GATHER blocks as fetched at the start (R181). -/
  filter : Option Bytes := none
  gather : Option Bytes := none
  next : Nat := 0
  skipped : Nat := 0
  redirect : Nat := 0
  put : Nat := 0
  consumed : Nat := 0
  out : List Bytes := []
  read : Nat := 0
  shipped : Nat := 0
  status : Nat := 0
  ended : Option Nat := none
  /-- The row group whose records are being written: 0 evaluated, 1 skipped, 2 redirected; and the header read for it. -/
  cur : Option Nat := none
  head : Bytes := []
  /-- The total that PUT_ADDR holds. -/
  shown : Nat := 0
  /-- Every row group left is redirected (R192). -/
  off : Bool := false
  /-- The completion record is written and waits for its response. -/
  recorded : Bool := false
deriving DecidableEq, Repr

/-- A stack filter: descriptors in flight, the next to serve first, and those that wait, in arrival order. -/
structure Sfl where
  flight : List SflDesc := []
  waiting : List SflDesc := []
deriving DecidableEq, Repr


/-! ### The Exchange (spec/07_exchange_and_joins.md) -/

/-- A staging page in use (R205): device physical address; pool, page number in it and instance charged; STRIDE, partition, producer
(run handle, task, attempt) and its physical gallery; rows so far; closed, its header written. -/
structure ExcPage where
  addr : Nat
  pool : Nat
  inst : Nat
  stride : Nat
  part : Nat
  run : Nat
  task : Nat
  attempt : Nat
  gal : Nat
  rows : Nat := 0
  closed : Bool := false
deriving DecidableEq, Repr

/-- A SEND write in a gallery's ingress queue (R201, R203): partition, the bytes its mask covers, offset in its 64 bytes, the CORE_TASK it
carries; when it began to wait for a page, and the writes that carry its rows. -/
structure ExcSend where
  gal : Nat
  part : Nat
  start : Nat
  bytes : Bytes
  task : Word
  since : Option Nat := none
  span : Nat := 1
deriving DecidableEq, Repr

/-- A NEXT request (R209): gallery, input port, local-store address of the grant slot, the CORE_TASK it carries. -/
structure ExcNext where
  gal : Nat
  port : Nat
  slot : Nat
  task : Word
deriving DecidableEq, Repr

/-- What the Docent tells the Exchange (R206, R207, R213): run handle with task and attempt, or with consumer template and logical
index. -/
inductive ExcNotice where
  | void (run task attempt : Nat)
  | runEnd (run : Nat)
  | publish (run task attempt : Nat)
  | release (run template logical : Nat)
deriving DecidableEq, Repr

/-- The Exchange: ingress queues, NEXT requests that wait, open chains' pages in the order they were taken, published lists by
(run x 4 + rank of the STREAM edge) x 4,096 + partition, the pages of list heads (run, edge, pool, instance, page address), cursors by
physical gallery x 4 + port (CORE_TASK, pages granted), and the Docent's notices in arrival order. By physical gallery: the status that its
task must fail with, and since when the task waits for pages (with its CORE_TASK each); and the pages of spill chains and group tables of
running tasks (gallery, pool, instance, page address). -/
structure ExcSt where
  ingress : List ExcSend := []
  /-- NEXT requests outstanding, at most 16 an input port, and those that wait at the arbiter behind them (R209). -/
  next : List ExcNext := []
  late : List ExcNext := []
  fail : Tbl (Word × Nat) := []
  stall : Tbl (Word × Nat) := []
  spill : List (Nat × Nat × Nat × Nat) := []
  chains : List ExcPage := []
  lists : Tbl (List ExcPage) := []
  heads : List (Nat × Nat × Nat × Nat × Nat) := []
  cursor : Tbl (Word × Nat) := []
  notices : List ExcNotice := []
  /-- The Atrium banks of its own state, nine from SERVICE entry on: eight whole, the first 256 KiB of the ninth (R208, R589). -/
  banks : List Nat := []
deriving DecidableEq, Repr


/-! ### Folio engines (spec/10_folio.md) -/

/-- A descriptor that runs (R289, R293): output buffers in order; strips done; bytes read so far (the input, or the frame); bytes made so
far (the strip records, or the decoded output); cycles; SRC_BYTES beyond the frame; frame bytes; OUT_BYTES of a COMPRESS and the frame
bytes it has written; the flags of its record; the status it has ended with, its record still to come; the chain ends behind it. -/
structure FolRun where
  bufs : List (Nat × Nat) := []
  strips : Nat := 0
  read : Bytes := []
  made : Bytes := []
  cycles : Nat := 0
  truncated : Bool := false
  frame : Nat := 0
  outBytes : Nat := 0
  wrote : Nat := 0
  flags : Nat := 0
  ended : Option Nat := none
  last : Bool := false
deriving DecidableEq, Repr

/-- Where a chain stands: its descriptor has not started, runs, or is the completed tail (R292). -/
inductive ChainSt (α : Type) where
  | ready
  | running (r : α)
  | parked
deriving DecidableEq, Repr

/-- A Folio chain: who submitted it, the CORE_TASK of the submission, TAG of its first descriptor, local-store address and bytes of its
current descriptor, an APPEND held (R292), and its number in order of submission. -/
structure FolChain where
  gal : Nat
  task : Word
  tag : Nat
  addr : Nat
  bytes : Bytes := []
  st : ChainSt FolRun := .ready
  append : Bool := false
  order : Nat := 0
deriving DecidableEq, Repr

/-- What ends a gallery's work with its task (R299, R451, R485): physical gallery and CORE_TASK. -/
structure TaskNote where
  gal : Nat
  task : Word
deriving DecidableEq, Repr

/-- The Folio island: chains of each engine, the next to serve first; submissions counted; Docent notices. -/
structure FolSt where
  eng : Tbl (List FolChain) := []
  submitted : Nat := 0
  notices : List TaskNote := []
deriving DecidableEq, Repr


/-! ### DMA channels (spec/16_dma.md) -/

/-- A descriptor that runs (R438 to R442): source and destination segments, cut to D bytes; descending; bytes moved; the excess of a
list ignored; a host error; the status it has ended with, its record still to come; the chain ends behind it. -/
structure DmaRun where
  src : List (Nat × Nat) := []
  dst : List (Nat × Nat) := []
  down : Bool := false
  done : Nat := 0
  truncated : Bool := false
  hostErr : Bool := false
  ended : Option Nat := none
  last : Bool := false
deriving DecidableEq, Repr

/-- A DMA chain: as a Folio chain. -/
structure DmaChain where
  gal : Nat
  task : Word
  tag : Nat
  addr : Nat
  bytes : Bytes := []
  st : ChainSt DmaRun := .ready
  append : Bool := false
deriving DecidableEq, Repr

/-- A gallery's DMA completion queue (R446): base, entries, tail, head, records posted and not released, PHASE of the next record. -/
structure DmaCq where
  base : Nat
  size : Nat
  tail : Nat := 0
  head : Nat := 0
  posted : Nat := 0
  phase : Bool := true
deriving DecidableEq, Repr

/-- The DMA island: chains of each channel, the next to serve first; completion queues by physical gallery; the instance that owns
each instance channel, and the channels withdrawn that still hold chains (R452); Docent notices. -/
structure DmaSt where
  chan : Tbl (List DmaChain) := []
  cq : Tbl DmaCq := []
  owner : Tbl Nat := []
  withdrawn : List Nat := []
  notices : List TaskNote := []
deriving DecidableEq, Repr


/-! ### The Provenance engine (spec/18_provenance.md) -/

/-- A request (R488, R491): the host command that carries it (instance, pair, CID), or the physical gallery whose port it came through, with
the CORE_TASK of the write; its instance; its 128 bytes. -/
structure PrvReq where
  host : Option (Nat × Nat × Nat) := none
  gal : Nat := 0
  task : Word := 0
  inst : Nat
  bytes : Bytes
deriving DecidableEq, Repr

/-- How far a context's first request has come: not started; its blocks are computed, its last status so far; the outer hash of an
HMAC runs; the comparison runs, with the result (R483). -/
inductive PrvStep where
  | idle
  | absorb (status : Nat) (pad : Bool)
  | outer (status : Nat)
  | compare (status : Nat) (result : Bytes)
deriving DecidableEq, Repr

/-- A context (R475): owner; the algorithm's code; HMAC; chaining value; the HMAC outer state; bytes counted, and those buffered for the
lanes; declared total; TRUNCATED; the status of a FAILED context; opened through a port, by which gallery and task; its requests, the first being performed; and where that one stands. -/
structure PrvCtx where
  owner : Nat
  alg : Nat
  hmac : Bool := false
  chain : List Nat
  outer : List Nat := []
  count : Nat := 0
  buf : Bytes := []
  total : Option Nat := none
  trunc : Bool := false
  failed : Option Nat := none
  port : Bool := false
  gal : Nat := 0
  task : Word := 0
  queue : List PrvReq := []
  step : PrvStep := .idle
  /-- The lane that computed its last block (R493). -/
  lane : Nat := 0
deriving DecidableEq, Repr

/-- The Provenance island: contexts, OPENs that wait, the context a lane took last, disagreements of the comparators (times), Docent
notices. -/
structure PrvSt where
  ctx : Tbl PrvCtx := []
  waiting : List PrvReq := []
  last : Nat := 255
  notices : List TaskNote := []
  /-- Gallery requests whose record waits for the response of a held write (R26, R376): context, TRUNC, verdict, status. -/
  owed : List (PrvReq × Option Nat × Bool × Nat × Nat) := []
deriving DecidableEq, Repr


/-! ### The Catalogue (spec/09_catalogue.md) -/

/-- An entry (R249, R250): VALID, key, care mask, associated data as a number. -/
structure CatEntry where
  valid : Bool
  key : Nat
  care : Nat
  data : Nat
deriving DecidableEq, Repr

/-- Whose key or operation it is: key `idx` of gallery request `id` (R269), or record `idx` of a CATALOGUE_BATCH (instance, pair, CID). -/
inductive CatSrc where
  | gal (id idx : Nat)
  | job (inst pair cid idx : Nat)
deriving DecidableEq, Repr

/-- A search key in the intake or in a batch: whose, the key, ALL mode, when it arrived. -/
structure CatKey where
  src : CatSrc
  key : Nat
  all : Bool
  time : Nat
deriving DecidableEq, Repr

/-- An update operation accepted by the update arbiter (R260): OP of R271, rank, entry. -/
structure CatUpd where
  src : CatSrc
  op : Nat
  rank : Nat
  entry : CatEntry
deriving DecidableEq, Repr

/-- How far the first update of a set has come, in gaps (R260 to R262): not begun; the first n APPENDs are written, VALID clear; a shift up
with its hole; a shift down with its hole and last rank; VALID cleared; written, VALID clear. -/
inductive CatProg where
  | idle
  | append (n : Nat)
  | up (hole : Nat)
  | down (hole last : Nat)
  | cleared
  | written
deriving DecidableEq, Repr

/-- A set (R255): entries by rank, COUNT, units of an entry, banks of a group, updates in acceptance order. -/
structure CatSet where
  entries : Tbl CatEntry := []
  count : Nat := 0
  width : Nat
  banks : Nat
  upd : List CatUpd := []
  prog : CatProg := .idle
deriving DecidableEq, Repr

/-- States of a group: READY (UPDATING while an update of its set is in progress), REFILL with the gaps it has run, FAILED. -/
inductive CatGrpSt where
  | ready
  | refill (gaps : Nat)
  | failed
deriving DecidableEq, Repr

/-- A group that is enabled, or whose disable has not taken effect (R254, R264): its definition, state and queued batches. -/
structure CatGrp where
  owner : Nat
  set : Nat
  first : Nat
  banks : Nat
  st : CatGrpSt := .ready
  disabling : Bool := false
  queue : List (List CatKey) := []
deriving DecidableEq, Repr

/-- A gallery's SEARCH request that is outstanding (R269): where its records and done word go, and the records still to come. -/
structure CatReq where
  id : Nat
  gal : Nat
  result : Nat
  done : Nat
  tag : Nat
  left : Nat
deriving DecidableEq, Repr

/-- A CATALOGUE_BATCH in progress (R270 to R275): its fields; the next record; operations out (record, set, search); operations
performed; the first failing record with its status; a result was clipped. -/
structure CatJob where
  inst : Nat
  pair : Nat
  cid : Nat
  ops : Nat
  results : Nat
  count : Nat
  stride : Nat
  stop : Bool
  excess : Bool
  next : Nat := 0
  out : List (Nat × Nat × Bool) := []
  performed : Nat := 0
  failed : Option (Nat × Nat) := none
  clipped : Bool := false
deriving DecidableEq, Repr

/-- The Catalogue: groups by number; sets and intakes by owner x 64 + set; gallery requests out, requests numbered; SEARCH writes whose
response waits (gallery, request, R269); jobs. -/
structure CatSt where
  grp : Tbl CatGrp := []
  sets : Tbl CatSet := []
  intake : Tbl (List CatKey) := []
  reqs : List CatReq := []
  nextReq : Nat := 0
  held : List (Nat × Nat) := []
  jobs : List CatJob := []
  /-- Batches of a set that wait to be sent again (R277). -/
  resend : Tbl (List (List CatKey)) := []
deriving DecidableEq, Repr


/-! ### Power (spec/21_power_clocks_package.md) -/

/-- The power arbiter: the last ten samples of each rail (mV and tenths of an ampere), the newest first; the mode of the cap: when the
ceiling last rose, and evaluations in a row above the cap at the lowest ceiling (R545); island voltages in mV by BLOCK x 65,536 + unit
(R528); THERMTRIP_N is latched low (R550). -/
structure PwrSt where
  samples : Tbl (List (Nat × Nat)) := []
  lastRise : Option Nat := none
  overrun : Nat := 0
  volts : Tbl Nat := []
  trip : Bool := false
deriving DecidableEq, Repr

/-! ### The whole state -/

/-- Every block of the device. -/
structure Dev where
  /-- Registers by manager-view offset; an offset not listed holds its reset value. -/
  regs : Tbl Word := []
  /-- Every byte store of the device and of its hosts (Sys2Proof/Machine/AddressMap.lean lays out the keys). -/
  mem : Memory := []
  evLog : Ring := {}
  freezeLog : Ring := {}
  evt : EvtSt := {}
  ins : InsSt := {}
  dram : MemSt := {}
  saf : SafSt := {}
  xq : XqSt := {}
  doc : DocSt := {}
  gals : GalsSt := {}
  sfl : Tbl Sfl := []
  exc : ExcSt := {}
  fol : FolSt := {}
  dma : DmaSt := {}
  prv : PrvSt := {}
  cat : CatSt := {}
  vol : VolSt := {}
  acc : AccLog := {}
  pwr : PwrSt := {}
  /-- The configuration records in force: TYPE, FORMAT, body (R50, R560). -/
  cfg : List (Nat × Nat × Bytes) := []
  /-- The image stream of the running slot, as CONFIGURE read it: later contents of the flash have no effect (R50). -/
  firmware : Bytes := []
  /-- Component 5 as the last CONFIGURE loaded it: a live activation leaves it running (R566). -/
  phy : Bytes := []
  mgmt : MgmtSt := {}
  /-- How many free values have been drawn (Sys2Proof/Config.lean): the model's own field, not the spec's. -/
  fresh : Nat := 0
deriving DecidableEq, Repr

/-- The machine: mode arbiter, blocks, and the commands that wait, first in first out. -/
structure State where
  core : CoreSt
  dev : Dev
  pending : List Instr
deriving DecidableEq, Repr

/-- The machine right after a power-on reset: mode ROM (R33), DEV_TIME zero (R15), nothing waiting. -/
def State.reset : State := { core := {}, dev := {}, pending := [] }

end Sys2Proof.Machine
end

