-- ==== Sys2Proof/Machine/Table.lean ====
section
/-!
DEFINITION. Sparse tables (`Tbl`): read with a default, write, delete. A write replaces the entry of its key, so a table
never lists a key twice. Also the small list functions that several chapters share.
-/

namespace Sys2Proof.Machine

/-- The value under key `k`, or `d` where the table lists none. -/
def look {α : Type} (t : Tbl α) (k : Nat) (d : α) : α :=
  match t.find? (fun e => e.1 == k) with
  | some e => e.2
  | none => d

/-- The value under key `k`, where the table lists one. -/
def find {α : Type} (t : Tbl α) (k : Nat) : Option α :=
  (t.find? (fun e => e.1 == k)).map (·.2)

/-- The table without key `k`. -/
def del {α : Type} (t : Tbl α) (k : Nat) : Tbl α :=
  t.filter (fun e => e.1 != k)

/-- The table with `v` under key `k`. -/
def put {α : Type} (t : Tbl α) (k : Nat) (v : α) : Tbl α :=
  (k, v) :: del t k

/-- The table with the value under `k` (or `d` where none is listed) changed by `f`. -/
def upd {α : Type} (t : Tbl α) (k : Nat) (d : α) (f : α → α) : Tbl α :=
  put t k (f (look t k d))

/-- The keys a table lists. -/
def keys {α : Type} (t : Tbl α) : List Nat := t.map (·.1)

/-- The smallest number of a list, where it has one. -/
def least : List Nat → Option Nat
  | [] => none
  | x :: xs => match least xs with
    | none => some x
    | some y => some (min x y)

/-- The element of a list that `better` puts before all others, the earliest of equals. -/
def best {α : Type} (better : α → α → Bool) : List α → Option α
  | [] => none
  | x :: xs => match best better xs with
    | none => some x
    | some y => if better y x then some y else some x

/-- `xs` with element `n` changed by `f`. -/
def modAt {α : Type} (f : α → α) : Nat → List α → List α
  | _, [] => []
  | 0, x :: xs => f x :: xs
  | n + 1, x :: xs => x :: modAt f n xs

/-- The sum of a list of numbers. -/
def total (xs : List Nat) : Nat := xs.foldl (· + ·) 0

/-- A mask of the numbers below 64 that satisfy `p`. -/
def maskOf (p : Nat → Bool) : Nat := total ((List.range 64).map (fun k => if p k then 2 ^ k else 0))

/-- Round `n` up to a multiple of `m` (`m` not 0). -/
def roundUp (n m : Nat) : Nat := ((n + m - 1) / m) * m

/-- `n / m`, rounded up. -/
def ceilDiv (n m : Nat) : Nat := (n + m - 1) / m

/-- Put an element into a list that `before` orders, after its equals. -/
def insertBy {α : Type} (before : α → α → Bool) (x : α) : List α → List α
  | [] => [x]
  | y :: ys => if before x y then x :: y :: ys else y :: insertBy before x ys

/-- Sort a list, keeping the order of equals. -/
def sortBy {α : Type} (before : α → α → Bool) (xs : List α) : List α :=
  xs.foldl (fun acc x => insertBy before x acc) []

/-- Sort numbers, the smallest first. -/
def sortNat (xs : List Nat) : List Nat := sortBy (fun a b => decide (a < b)) xs

/-- Give `f` each element in turn. -/
def each {α σ : Type} (xs : List α) (f : α → σ → σ) (s : σ) : σ := xs.foldl (fun s x => f x s) s

/-- The first `n` bytes of a list of segments, zero lengths skipped (R399). -/
def takeSegs : Nat → List (Nat × Nat) → List (Nat × Nat)
  | _, [] => []
  | n, (a, l) :: rest => if n = 0 then [] else if l = 0 then takeSegs n rest else (a, min n l) :: takeSegs (n - min n l) rest

end Sys2Proof.Machine
end

