-- ==== Sys2Proof/Machine/Regs.lean ====
section
/-!
DEFINITION. The register file: what a register holds at reset, reading and writing one and its fields, the write rule of each
access code (R1 to R5), and the counter rule (R582 to R584) but for the event it raises, which Ops.lean adds.
-/

namespace Sys2Proof.Machine

/-! BLOCK codes of the safety log and of the fences: the index of R577, 0xFF for a die-to-die link; 17 stands for the Atrium
store, which has no register block (log entry 9). -/
namespace Blk
def dev : Nat := 0
def evt : Nat := 1
def doc : Nat := 2
def dma : Nat := 3
def fol : Nat := 4
def prv : Nat := 5
def cat : Nat := 6
def gal : Nat := 7
def mem : Nat := 8
def xq : Nat := 9
def vol : Nat := 10
def ins : Nat := 11
def saf : Nat := 12
def pwr : Nat := 13
def fwu : Nat := 14
def exc : Nat := 15
def sfl : Nat := 16
def atrium : Nat := 17
def link : Nat := 255
end Blk

/-- The row of the register map that an offset falls under. -/
def regRow (off : Nat) : Option RegDef :=
  regDefs.find? (fun r => decide (r.base ≤ off) && (off - r.base) % r.stride == 0 && decide ((off - r.base) / r.stride < r.count))

/-- EVT_ROUTE[n] at reset: R457 for sources 0 to 63; the owner by R456; DIRECTED by R455. The spec states no ENABLE for a
directed source; the model enables it (log entry 20). -/
def routeReset (n : Nat) : Nat :=
  if n < 64 then 1 <<< 63 + 1 <<< 60
  else if n < 320 then (n - 64) <<< 40
  else if n < 576 then (n - 320) <<< 40
  else if n < 832 then (n - 576) <<< 40
  else if n < 1024 then 0
  else if n < 1112 ∨ (1280 ≤ n ∧ n < 1536) then 1 <<< 63 + 1 <<< 52
  else 0

/-- What a register holds at reset. -/
def regReset (off : Nat) : Word :=
  if 0x110000 ≤ off ∧ off < 0x120000 then BitVec.ofNat 64 (routeReset ((off - 0x110000) / 8))
  else if 0x401040 ≤ off ∧ off < 0x401080 then BitVec.ofNat 64 (2 <<< 62)
  else match regRow off with
    | none => 0
    | some r => BitVec.ofNat 64 (total (r.fields.map (fun f => f.reset <<< f.lo)))

/-- What a register holds. -/
def Dev.reg (d : Dev) (off : Nat) : Word := (find d.regs off).getD (regReset off)

/-- Set a whole register, as the device does. -/
def Dev.setReg (d : Dev) (off : Nat) (v : Word) : Dev := { d with regs := put d.regs off v }

/-- A field of a register. -/
def Dev.getF (d : Dev) (off hi lo : Nat) : Nat := fld (d.reg off) hi lo

/-- One bit of a register. -/
def Dev.flag (d : Dev) (off n : Nat) : Bool := d.getF off n n == 1

/-- Set a field of a register, as the device does. -/
def Dev.setF (d : Dev) (off hi lo x : Nat) : Dev := d.setReg off (setFld (d.reg off) hi lo x)

/-- Set one bit of a register, as the device does. -/
def Dev.setFlag (d : Dev) (off n : Nat) (b : Bool) : Dev := d.setF off n n (b2n b)

/-- The register value that a write of `v` leaves over `old`, field by field (R1 to R5): RW takes the bits written, W1C clears
where 1 is written, RO and WO keep what they hold. -/
def writeFields (fs : List RField) (old v : Word) : Word :=
  fs.foldl (fun acc f =>
    match f.acc with
    | .rw => setFld acc f.hi f.lo (fld v f.hi f.lo)
    | .w1c => setFld acc f.hi f.lo (fld old f.hi f.lo &&& (2 ^ 64 - 1 - fld v f.hi f.lo))
    | .ro => acc
    | .wo => acc) old

/-- The generic effect of an 8-byte write to a register (R578): nothing where no register stands. -/
def Dev.writeReg (d : Dev) (off : Nat) (v : Word) : Dev :=
  match regRow off with
  | none => d
  | some r => d.setReg off (writeFields r.fields (d.reg off) v)

/-- The bits of a register that every reset keeps (R43). -/
def keptMask (off : Nat) : Nat :=
  match regRow off with
  | none => 0
  | some r => total ((r.fields.filter (·.kept)).map (fun f => (2 ^ (f.hi + 1 - f.lo) - 1) <<< f.lo))

/-- The register file after a power-on, cold or warm reset: kept bits as they were, every other bit at its reset value. -/
def resetRegs (t : Tbl Word) : Tbl Word :=
  t.filterMap (fun e =>
    let k := keptMask e.1
    if k = 0 then none
    else some (e.1, BitVec.ofNat 64 ((e.2.toNat &&& k) ||| ((regReset e.1).toNat &&& (2 ^ 64 - 1 - k)))))

/-- Where a counter's SAT bit and its block's SAT_EVENT bit stand: SAT register, bit, SAT_EVENT register, bit (R582). -/
def cntSat (off : Nat) : Option (Nat × Nat × Nat × Nat) :=
  cntDefs.findSome? (fun c =>
    let u := (off - c.first) / c.step
    let o := if c.units = 1 then off - c.first else (off - c.first) % c.step
    let u := if c.units = 1 then 0 else u
    if decide (c.first ≤ off) && decide (u < c.units) && o % 8 == 0 && decide (o / 8 < c.count) then
      some (c.sat + c.step * u, c.bit + o / 8, c.evOff + c.step * u, c.evBit)
    else none)

/-- Add `k` to a 64-bit counter, sticking at all-ones, and set its SAT bit when it sticks (R582). -/
def Dev.bump0 (d : Dev) (off k : Nat) : Dev :=
  let v := (d.reg off).toNat
  if v + k < 2 ^ 64 then d.setReg off (BitVec.ofNat 64 (v + k))
  else
    let d := d.setReg off (BitVec.ofNat 64 (2 ^ 64 - 1))
    match cntSat off with
    | some (s, b, _, _) => d.setFlag s b true
    | none => d

/-- Does adding `k` make the counter stick now, with SAT_EVENT of its block at 1 (R582)? -/
def Dev.sticks (d : Dev) (off k : Nat) : Bool :=
  decide (2 ^ 64 ≤ (d.reg off).toNat + k) &&
    match cntSat off with
    | some (s, b, e, eb) => !d.flag s b && d.flag e eb
    | none => false

/-- Clear a counter and its SAT bit (a write of zero, R582). -/
def Dev.clearCounter (d : Dev) (off : Nat) : Dev :=
  let d := d.setReg off 0
  match cntSat off with
  | some (s, b, _, _) => d.setFlag s b false
  | none => d

/-- Add `k` to a counter field of a register that sticks at all-ones (R584): bits `hi` to `lo`, stuck indicator `sat`. -/
def Dev.bumpField (d : Dev) (off hi lo : Nat) (sat : Option Nat) (k : Nat) : Dev :=
  let top := 2 ^ (hi + 1 - lo) - 1
  let v := d.getF off hi lo + k
  if v ≤ top then d.setF off hi lo v
  else
    let d := d.setF off hi lo top
    match sat with
    | some b => d.setFlag off b true
    | none => d

/-- Does adding 1 to the 32-bit corrected-error counter of a per-unit register make it stick now, with SAT_EVENT of the block's control register
`ctrl` at 1 (R278, R384)? -/
def Dev.ceSticks (d : Dev) (off ctrl : Nat) : Bool := d.getF off 31 0 == 2 ^ 32 - 1 && !d.flag off 32 && d.flag ctrl 2

end Sys2Proof.Machine
end

