-- ==== Sys2Proof/Machine/Ops.lean ====
section
/-!
DEFINITION. The operations every chapter uses: free values, raising events (spec/17_event_controller.md), counters with
their COUNTER_SAT event (R582), rings and logs (R586 to R588, R531), fences and DEGRADED (R32), device physical memory
(spec/13_memory_system.md), violations (R505, R506), translation (R502) and accesses to instance addresses.
-/

namespace Sys2Proof.Machine

/-- Run an effect on the device's blocks: the outcome of every command that neither moves the mode nor the time. In OFF nothing has
power, so nothing happens (R30, R33). -/
def State.onDev (s : State) (f : CoreSt → Dev → Dev) : Host.Outcome State Fault Refusal :=
  .next (if s.core.mode = .off then s else { s with dev := f s.core s.dev })

/-- Run an effect on the mode arbiter and the blocks. -/
def State.onAll (s : State) (f : CoreSt × Dev → CoreSt × Dev) : Host.Outcome State Fault Refusal :=
  .next (if s.core.mode = .off then s else { s with core := (f (s.core, s.dev)).1, dev := (f (s.core, s.dev)).2 })

/-- A change of a pin, which the device sees or remembers in every mode. -/
def State.onPin (s : State) (f : CoreSt × Dev → CoreSt × Dev) : Host.Outcome State Fault Refusal :=
  .next { s with core := (f (s.core, s.dev)).1, dev := (f (s.core, s.dev)).2 }

/-- Is the Registrar running (R529)? -/
def Dev.registrarUp (d : Dev) : Bool := !d.saf.regRestart && !d.saf.regHalted

/-- Draw a free value (log entry 1). -/
def Dev.draw (d : Dev) : Word × Dev := (Config.freeWord d.fresh, { d with fresh := d.fresh + 1 })

/-- Draw `n` free bytes. -/
def Dev.drawBytes (d : Dev) : Nat → Bytes × Dev
  | 0 => ([], d)
  | n + 1 =>
    let (v, d) := d.draw
    let (bs, d) := d.drawBytes n
    (BitVec.ofNat 8 v.toNat :: bs, d)

/-- Change, or with `f` none take off, the first element of a list that `p` picks. -/
def updFirst {α : Type} (p : α → Bool) (f : α → Option α) : List α → List α
  | [] => []
  | x :: xs => if p x then (f x).toList ++ xs else x :: updFirst p f xs

/-! ### Events -/

/-- COUNT and TIME of a coalescing profile; profile 0 is fixed at COUNT 1 and TIME 0 (R467). -/
def Dev.coal (d : Dev) (k : Nat) : Nat × Nat :=
  if k = 0 then (1, 0) else (max 1 (d.getF (R.evtCoal k) 7 0), d.getF (R.evtCoal k) 31 16)

/-- Is the source directed (R455)? -/
def isDirected (n : Nat) : Bool := (decide (1024 ≤ n) && decide (n < 1112)) || (decide (1280 ≤ n) && decide (n < 1536))

/-- A raise at one pending bit (R459): merged into a pending and undelivered raise, else a new pending raise (held while a
delivery is unclaimed). `prof` is the profile in force at this raise: its COUNT and its TIME (R467). -/
def EvtSlot.raise (prof : Nat × Nat) (s : EvtSlot) : EvtSlot :=
  if s.pend then { s with count := s.count + 1, need := prof.1, limit := prof.2 }
  else { s with pend := true, count := 1, need := prof.1, limit := prof.2, ripe := false }

/-- Set the pending bit of a routed source, counting nothing. -/
def Dev.pendRouted (d : Dev) (n : Nat) : Dev :=
  let prof := d.coal (d.getF (R.evtRoute n) 56 53)
  { d with evt := { d.evt with routed := upd d.evt.routed n {} (EvtSlot.raise prof) } }

/-- Count in an EVT counter; when it sticks, COUNTER_SAT becomes pending (R582). -/
def Dev.countEvt (d : Dev) (off : Nat) : Dev :=
  let s := d.sticks off 1
  let d := d.bump0 off 1
  if s then d.pendRouted 2 else d

/-- Raise a routed source (R455, R459). -/
def Dev.raiseEvent (d : Dev) (n : Nat) : Dev :=
  let merged := (look d.evt.routed n {}).pend
  let d := (d.pendRouted n).countEvt R.evtCntRaise
  if merged then d.countEvt R.evtCntMerge else d

/-- Raise a directed source for logical gallery `g` (R459). -/
def Dev.raiseDirected (d : Dev) (n g : Nat) : Dev :=
  let key := n * 128 + g
  let prof := d.coal (d.getF (R.evtRoute n) 56 53)
  let merged := (look d.evt.directed key {}).pend
  let d := { d with evt := { d.evt with directed := upd d.evt.directed key {} (EvtSlot.raise prof) } }
  let d := d.countEvt R.evtCntRaise
  if merged then d.countEvt R.evtCntMerge else d

/-- The host vector (instance x 64 + vector) that a routed source reaches by its route (R457, R463): none while ENABLE is 0. -/
def Dev.hostVector (d : Dev) (n : Nat) : Option Nat :=
  if d.flag (R.evtRoute n) 63 && d.getF (R.evtRoute n) 61 60 == 1 && !isDirected n then
    some (d.getF (R.evtRoute n) 31 24 * 64 + d.getF (R.evtRoute n) 21 16)
  else none

/-- The host vectors pending and undelivered (R468): by a completion raise, or by a routed source; `p` picks among the pending. -/
def Dev.vectorsWith (d : Dev) (p : EvtSlot → Bool) : List Nat :=
  (d.evt.vectors.filterMap (fun e => if p e.2 then some e.1 else none) ++
   d.evt.routed.filterMap (fun e => if p e.2 then d.hostVector e.1 else none)).eraseDups

/-- Is the raise pending and undelivered? -/
def EvtSlot.waits (s : EvtSlot) : Bool := s.pend && s.deliv.isNone

/-- Host vectors that a reset clears (R469): every raise pending on them goes, and their table entries are masked. -/
def Dev.clearVectors (d : Dev) (hit : Nat → Bool) : Dev :=
  { d with evt := { d.evt with
    vectors := d.evt.vectors.filter (fun e => !hit e.1)
    routed := d.evt.routed.filter (fun e => !(e.2.waits && ((d.hostVector e.1).map hit).getD false))
    msix := d.evt.msix.map (fun (e : Nat × MsixEntry) => if hit e.1 then (e.1, { e.2 with mask := true }) else e) } }

/-- Raise host vector `v` of instance `i` for a completion entry (R468). -/
def Dev.raiseVector (d : Dev) (i v : Nat) : Dev :=
  let key := i * 64 + v
  let prof := d.coal (d.getF (R.evtInst i) 59 56)
  let merged := (look d.evt.vectors key {}).pend
  let d := { d with evt := { d.evt with vectors := upd d.evt.vectors key {} (EvtSlot.raise prof) } }
  let d := d.countEvt R.evtCntRaise
  if merged then d.countEvt R.evtCntMerge else d

/-- Count `k` in a counter, with COUNTER_SAT where its block enables it (R582). -/
def Dev.count (d : Dev) (off : Nat) (k : Nat := 1) : Dev :=
  let s := d.sticks off k
  let d := d.bump0 off k
  if s then d.raiseEvent 2 else d

/-- Count a corrected error in the CE field of a per-unit register, with COUNTER_SAT where its block enables it. -/
def Dev.countCe (d : Dev) (off ctrl : Nat) : Dev :=
  let s := d.ceSticks off ctrl
  let d := d.bumpField off 31 0 (some 32) 1
  if s then d.raiseEvent 2 else d

/-! ### Rings and logs -/

/-- Write one slot of a ring of `cap` slots and advance the head (R586). -/
def Ring.write (cap : Nat) (bs : Bytes) (r : Ring) : Ring :=
  let overrun := (find r.slots r.head).isSome
  { r with
    slots := put r.slots r.head bs
    head := (r.head + 1) % cap
    ovf := if overrun then min (r.ovf + 1) (2 ^ 32 - 1) else r.ovf
    sat := r.sat || (overrun && decide (r.ovf = 2 ^ 32 - 1)) }

/-- Write an entry of one slot, counting it in SEQ; `mk` makes the entry from its SEQ. A frozen ring takes nothing. -/
def Ring.push (cap : Nat) (mk : Nat → Bytes) (r : Ring) : Ring :=
  if r.frozen then r else ({ r with seq := r.seq + 1 }).write cap (mk (r.seq + 1))

/-- A slot of the device event log (R588): the header slot with the first 40 bytes of detail. -/
def evSlot (time seq kind inst cont status : Nat) (detail : Bytes) : Bytes :=
  toLE 8 time ++ toLE 8 seq ++ toLE 2 kind ++ toLE 1 inst ++ toLE 1 cont ++ toLE 2 status ++ toLE 2 0 ++ padTo 40 detail

/-- Continuation slots of an entry (R588): part `k` on. -/
def evCont (time seq : Nat) : Nat → Nat → Bytes → List Bytes
  | 0, _, _ => []
  | fuel + 1, k, rest =>
    if rest.isEmpty then []
    else (toLE 8 time ++ toLE 8 seq ++ toLE 2 0xFFFF ++ toLE 1 k ++ List.replicate 5 0 ++ padTo 40 (rest.take 40))
      :: evCont time seq fuel (k + 1) (rest.drop 40)

/-- Write a device event log entry (R588), its continuation slots together with it. -/
def Dev.logEvent (d : Dev) (time : Word) (kind inst status : Nat) (detail : Bytes) : Dev :=
  if d.evLog.frozen then d
  else
    let seq := d.evLog.seq + 1
    let cont := evCont time.toNat seq 7 1 (detail.drop 40)
    let r := { d.evLog with seq := seq }
    let r := (evSlot time.toNat seq kind inst cont.length status detail :: cont).foldl (fun r bs => r.write 4096 bs) r
    { d with evLog := r }

/-- A safety log entry (R531). -/
structure SafEntry where
  action : Nat
  mech : Nat
  block : Nat
  unit : Nat
  status : Nat := 0
  addr : Nat := 0
  detail : Bytes := []

/-- Write a safety log entry (R524, R531). -/
def Dev.safetyLog (d : Dev) (time : Word) (e : SafEntry) : Dev :=
  { d with saf := { d.saf with log := d.saf.log.push 16384 (fun seq =>
      toLE 8 time.toNat ++ toLE 8 seq ++ toLE 1 e.action ++ toLE 1 e.mech ++ toLE 1 e.block ++ toLE 1 0 ++
      toLE 2 e.unit ++ toLE 2 e.status ++ toLE 8 e.addr ++ padTo 32 e.detail) } }

/-! ### Fences and DEGRADED -/

/-- A PlatformEventMessage of the management endpoint (R572). -/
def Dev.notify (d : Dev) (source value : Nat) : Dev :=
  { d with mgmt := { d.mgmt with notified := (source, value) :: d.mgmt.notified } }

/-- Is a unit fenced or absent? -/
def Dev.isFenced (d : Dev) (block unit : Nat) : Bool := d.saf.fences.contains (block, unit)

/-- How often a unit has been fenced since reset (R523). -/
def Dev.fenceCount (d : Dev) (block unit : Nat) : Nat := d.saf.counts.countP (· == (block, unit))

/-- A change of DEV_STATUS.DEGRADED: logged with the resource that made it, and raised (R32). -/
def Dev.setDegraded (d : Dev) (time : Word) (want : Bool) (block unit : Nat) : Dev :=
  (((d.setFlag R.devStatus 1 want).logEvent time 2 0 0 (toLE 1 (b2n want) ++ toLE 1 block ++ toLE 2 unit)).raiseEvent 1).notify 1 (b2n want)

/-- Bring DEV_STATUS.DEGRADED to what the fences say (R32). What the ROM finds waits for CONFIGURE's own findings (R51) or for the first
entry to SERVICE (R46). -/
def Dev.degraded (d : Dev) (c : CoreSt) (block unit : Nat) : Dev :=
  let want := !d.saf.fences.isEmpty
  if c.mode != .rom && d.flag R.devStatus 1 != want then d.setDegraded c.time want block unit else d

/-- Fence a unit: it stays in the list until it is returned or a reset clears it. -/
def Dev.fence (d : Dev) (c : CoreSt) (block unit : Nat) : Dev :=
  if d.isFenced block unit then d
  else
    ({ d with saf := { d.saf with fences := (block, unit) :: d.saf.fences, counts := (block, unit) :: d.saf.counts } }).degraded
      c block unit

/-- Return a unit to service. -/
def Dev.unfence (d : Dev) (c : CoreSt) (block unit : Nat) : Dev :=
  ({ d with saf := { d.saf with fences := d.saf.fences.filter (· != (block, unit)) } }).degraded c block unit

/-! ### Galleries by number -/

/-- The physical gallery that carries logical number `g` (R18, R19). -/
def Dev.phys (d : Dev) (g : Nat) : Nat := look d.gals.map g (34 * (g / 32) + g % 32)

/-- The logical number that physical gallery `p` carries, where it carries one. -/
def Dev.logicalOf (d : Dev) (p : Nat) : Option Nat :=
  (List.range 128).find? (fun g => d.phys g == p && !d.gals.absent.contains g)

/-- Root capabilities (R303). -/
def rootCaps : Tbl Cap :=
  [(1, { tag := true, space := 0, perms := 0xFF, len := 0x200000 }),
   (2, { tag := true, space := 1, perms := 0x1B, len := 2 ^ 48 }),
   (3, { tag := true, space := 2, perms := 0x03, len := 0x140000 }),
   (4, { tag := true, space := 3, perms := 0x01, len := 2 ^ 48 }),
   (5, { tag := true, space := 0, perms := 0xE0, len := 4096 })]

/-- A core right after gallery reset (R303). -/
def Gallery.reset : Gallery := { c := rootCaps, pcc := { tag := true, space := 0, perms := 0xFF, len := 0x200000 } }

/-- The core of physical gallery `p`. -/
def Dev.core (d : Dev) (p : Nat) : Gallery := look d.gals.core p Gallery.reset

/-- Set the core of physical gallery `p`. -/
def Dev.setCore (d : Dev) (p : Nat) (g : Gallery) : Dev := { d with gals := { d.gals with core := put d.gals.core p g } }

/-- Nanoseconds for which the long-vector datapath has been on that GAL_VCNT_ON_US does not hold yet (R358). -/
def Gallery.onNs (k : Gallery) (now : Nat) : Nat := k.onRest + (if k.lvu = .on then now - k.lvuSince else 0)

/-- The frequency at which a gallery runs: the lowest of what its canary loop permits, the cap ceiling, and the thermal ceiling of its
die (R546). -/
def Dev.speedOf (d : Dev) (p : Nat) : Nat := min (d.core p).limit (min (d.getF (R.pwrCeil (p / 34)) 15 0) (d.getF (R.pwrCeil (p / 34)) 31 16))

/-! ### Device physical memory -/

/-- What a device physical address reaches (R156, R359, R362, R589): SRAM by key; a fenced Atrium store bank or interleave set; the closed
endpoint of a fenced gallery; a DRAM member address and the mirror copy's, where the set is mirrored; nothing. -/
inductive PLoc where
  | sram (key : Nat)
  | bankLost
  | closed
  | dram (ch addr : Nat) (mirror : Option (Nat × Nat))
  | unmapped
deriving DecidableEq, Repr

/-- One interleave-set descriptor, read from its three registers (R361). -/
structure MemSet where
  base : Nat
  size : Nat
  enable : Bool
  role : Nat
  annex : Bool
  ledger : Bool
  grain : Nat
  mirrored : Bool
  mirrorSet : Nat
  count : Nat
  first : Nat
  offset : Nat
deriving DecidableEq, Repr

/-- The fields that three descriptor registers give. -/
def memSetOf (base size map : Word) : MemSet :=
  { base := fld base 47 30 <<< 30, size := fld size 31 0 <<< 20, enable := fld map 63 63 == 1, role := fld map 62 61,
    annex := fld map 60 60 == 1, ledger := fld map 59 59 == 1, grain := fld map 57 53, mirrored := fld map 52 52 == 1,
    mirrorSet := fld map 51 48, count := fld map 47 38, first := fld map 37 29, offset := fld map 19 0 <<< 20 }

/-- Descriptor `n`. -/
def Dev.memSet (d : Dev) (n : Nat) : MemSet :=
  memSetOf (d.reg (R.memSetBase n)) (d.reg (R.memSetSize n)) (d.reg (R.memSetMap n))

/-- Member and member address of byte `off` of a set (R362); channels are numbered with the annex from 512 on. -/
def MemSet.member (s : MemSet) (off : Nat) : Nat × Nat :=
  let chunk := off >>> s.grain
  let m := s.first + chunk % max 1 s.count
  ((if s.annex then 512 + m else m), s.offset + (chunk / max 1 s.count) <<< s.grain + off % 2 ^ s.grain)

/-- What a device physical address reaches. -/
def Dev.locate (d : Dev) (pa : Nat) : PLoc :=
  if pa < 0x4000000 then
    if d.isFenced Blk.atrium (pa / 0x100000) then .bankLost else .sram (Key.atrium pa)
  else if 0x10000000 ≤ pa ∧ pa < 0x20000000 then
    let p := d.phys ((pa - 0x10000000) / 0x200000)
    if d.isFenced Blk.gal p then .closed else .sram (Key.localStore p ((pa - 0x10000000) % 0x200000))
  else
    match (List.range 16).find? (fun n =>
        let s := d.memSet n
        s.enable && s.role == 0 && decide (s.base ≤ pa) && decide (pa < s.base + s.size)) with
    | none => .unmapped
    | some n =>
      let s := d.memSet n
      let off := pa - s.base
      let m := s.member off
      -- an unmirrored set of a stack that CONFIGURE found failing (R51) is fenced whole
      if !s.mirrored && d.isFenced Blk.mem (0x1000 + n) then .bankLost
      else .dram m.1 m.2 (if s.mirrored then some ((d.memSet s.mirrorSet).member off) else none)

/-- A channel. -/
def Dev.chan (d : Dev) (ch : Nat) : Chan := look d.dram.chan ch {}

/-- Set a channel. -/
def Dev.setChan (d : Dev) (ch : Nat) (x : Chan) : Dev := { d with dram := { d.dram with chan := put d.dram.chan ch x } }

/-- Can a channel serve a read of the block at a member address (R376, R378, R379)? -/
def Dev.usable (d : Dev) (ch addr : Nat) : Bool :=
  let x := d.chan ch
  x.st == .active && !x.poison.contains (addr / 64)

/-- REASON codes of ECAUSE (R334). -/
def busCode : BusReason → Nat
  | .none => 0
  | .unmapped => 1
  | .lost => 2
  | .host => 3

/-- What a read returns: the bytes; poisoned data; an error response with its reason. -/
inductive Rd where
  | ok (bs : Bytes)
  | poison
  | err (r : BusReason)
deriving DecidableEq, Repr

/-- Do `n` bytes at address `a` of the local store of physical gallery `p` meet an uncorrectable word (R311)? -/
def Dev.localBad (d : Dev) (p a n : Nat) : Bool :=
  (d.core p).badWords.any (fun w => decide (a < 8 * w + 8) && decide (8 * w < a + n))

/-- One byte at a device physical address, as a reader receives it. -/
def Dev.peek (d : Dev) (pa : Nat) : Rd :=
  match d.locate pa with
  | .sram k =>
    if 0x10000000 ≤ k ∧ d.localBad ((k - 0x10000000) / 0x200000) ((k - 0x10000000) % 0x200000) 1 then .poison else .ok [d.mem.get k]
  | .bankLost => .poison
  | .closed => .err .none
  | .unmapped => .err .unmapped
  | .dram ch a mir =>
    if d.usable ch a then .ok [d.mem.get (Key.dram ch a)]
    else match mir with
      | some (ch2, a2) => if d.usable ch2 a2 then .ok [d.mem.get (Key.dram ch2 a2)] else .poison
      | none => .poison

/-- Join what two reads return: an error wins over poison, and poison over data. -/
def Rd.join : Rd → Rd → Rd
  | .ok a, .ok b => .ok (a ++ b)
  | .err r, _ => .err r
  | _, .err r => .err r
  | _, _ => .poison

/-- `n` bytes from a device physical address. -/
def Dev.readPA (d : Dev) (pa : Nat) : Nat → Rd
  | 0 => .ok []
  | n + 1 => (d.peek pa).join (d.readPA (pa + 1) n)

/-- The bytes of a read, zeros where it failed. -/
def Rd.bytes (n : Nat) : Rd → Bytes
  | .ok bs => bs
  | _ => List.replicate n 0

/-- The places of a controller's read queue, and of its write queue (R368). -/
def queuePlaces (ch : Nat) : Nat := if ch < 512 then 64 else 256

/-- Accept the requests that wait at a channel's ingress, in their order, as far as its queues have places (R368; log entry 7). -/
def Chan.fillQueue (x : Chan) (ch : Nat) : List MemReq → Chan
  | [] => { x with ingress := [] }
  | r :: rest =>
    if x.queue.countP (fun q => q.write == r.write) < queuePlaces ch then
      ({ x with queue := x.queue ++ [{ r with order := x.accepted }], accepted := x.accepted + 1 }).fillQueue ch rest
    else { x with ingress := r :: rest }

/-- A request of block `a / 64` comes to an ACTIVE channel. -/
def Dev.enqueue (d : Dev) (c : CoreSt) (write : Bool) (cls ch a : Nat) : Dev :=
  let x := d.chan ch
  if x.st ≠ .active then d
  else d.setChan ch (x.fillQueue ch (x.ingress ++ [{ write := write, cls := cls, block := a / 64, order := 0, since := c.time.toNat }]))

/-- Send a request to the channels that serve it: a write to both copies (R364), a read to the primary, or at class 0 to the mirror where the
primary cannot serve it (R364, R366). A write that a FROZEN channel holds is accepted at the release. -/
def Dev.accept (d : Dev) (c : CoreSt) (write : Bool) (cls pa : Nat) : Dev :=
  match d.locate pa with
  | .dram ch a mir =>
    if write then
      let d := d.enqueue c true cls ch a
      match mir with
      | some (ch2, a2) => d.enqueue c true cls ch2 a2
      | none => d
    else if d.usable ch a then d.enqueue c false cls ch a
    else match mir with
      | some (ch2, a2) => if d.usable ch2 a2 then d.enqueue c false 0 ch2 a2 else d
      | none => d
  | _ => d

/-- The nine Atrium banks that the Exchange takes at SERVICE entry: the lowest that are not fenced (R208, R589). -/
def Dev.excBanks (d : Dev) : List Nat := ((List.range 64).filter (fun b => !d.saf.fences.contains (Blk.atrium, b))).take 9

/-- The Exchange's own 8,650,752 bytes of the Atrium store (R208): (address, bytes). -/
def Dev.excOwn (d : Dev) : List (Nat × Nat) :=
  (List.range d.exc.banks.length).map (fun k => (0x100000 * d.exc.banks.getD k 0, if k < 8 then 0x100000 else 0x40000))

/-- Does an address of the Atrium store lie in the Exchange's own state? -/
def Dev.inExcOwn (d : Dev) (a : Nat) : Bool := d.excOwn.any (fun r => decide (r.1 ≤ a) && decide (a < r.1 + r.2))

/-- Send the requests of `n` bytes from a device physical address on, one for each 64-byte block. -/
def Dev.acceptRange (d : Dev) (c : CoreSt) (write : Bool) (cls pa n : Nat) : Dev :=
  each (List.range ((pa + n + 63) / 64 - pa / 64)) (fun k d => d.accept c write cls (pa / 64 * 64 + 64 * k)) d

/-- Clear the capability tags of every granule that a write of `n` bytes at key `k` touches, where the key lies in a local store
(R308); a word that it writes whole holds no uncorrectable error any more (R311). -/
def Dev.clearTags (d : Dev) (k n : Nat) : Dev :=
  if 0x10000000 ≤ k ∧ k < 0x10000000 + 0x200000 * 136 then
    let p := (k - 0x10000000) / 0x200000
    let a := (k - 0x10000000) % 0x200000
    let g := d.core p
    if g.tags.isEmpty && g.badWords.isEmpty then d
    else d.setCore p { g with
      tags := g.tags.filter (fun t => !(decide (a / 16 ≤ t) && decide (t ≤ (a + n - 1) / 16)))
      badWords := g.badWords.filter (fun w => !(decide (a ≤ 8 * w) && decide (8 * w + 8 ≤ a + n))) }
  else d

/-- One copy of a byte written to DRAM: written, or held while the channel is FROZEN (R376); `other` is the channel of the other copy. -/
def Dev.pokeCopy (d : Dev) (w : Who) (b : Byte) (other : Option Nat) (ch a : Nat) : Dev :=
  let x := d.chan ch
  match x.st with
  | .active => { d with mem := d.mem.set (Key.dram ch a) b }
  | .frozen => d.setChan ch { x with held := x.held ++ [{ addr := a, bytes := [b], who := w, other := other }] }
  | _ => d

/-- Does a channel take a write, at once or held? -/
def Dev.takesWrite (d : Dev) (ch : Nat) : Bool := (d.chan ch).st == .active || (d.chan ch).st == .frozen

/-- Write one byte at a device physical address: the reason of the error response, where it receives one at once (R360, R379, R589). -/
def Dev.poke (d : Dev) (w : Who) (pa : Nat) (b : Byte) : Dev × Option BusReason :=
  match d.locate pa with
  | .sram k => ({ d with mem := d.mem.set k b }.clearTags k 1, none)
  | .bankLost => (d, some .lost)
  | .closed => (d, some .none)
  | .unmapped => (d, some .unmapped)
  | .dram ch a none => (d.pokeCopy w b none ch a, if d.takesWrite ch then none else some .lost)
  | .dram ch a (some (ch2, a2)) =>
    ((d.pokeCopy w b (some ch2) ch a).pokeCopy w b (some ch) ch2 a2, if d.takesWrite ch || d.takesWrite ch2 then none else some .lost)

/-- The job number of a command (instance, pair, identifier): its writes carry it, whichever engine makes them. -/
def cmdJob (i q cid : Nat) : Nat := 2 ^ 40 + (i * 64 + q) * 65536 + cid

/-- Is it the same job of the same unit? -/
def Who.same (w v : Who) : Bool := w.source == v.source && w.unit == v.unit && w.job == v.job

/-- Has a unit's job, or a gallery, a write whose response has not come (R26, R27, R376)? -/
def Dev.awaits (d : Dev) (w : Who) : Bool := d.dram.chan.any (fun e => e.2.held.any (fun (h : HeldWrite) => h.who.same w))

/-- The bytes of a job's held writes that received error responses (R379), and acting on them. -/
def Dev.lostBytes (d : Dev) (w : Who) : Nat := total ((d.dram.lost.filter (fun e => e.1.same w)).map (fun e => e.2))
def Dev.ackLost (d : Dev) (w : Who) : Dev := { d with dram := { d.dram with lost := d.dram.lost.filter (fun e => !e.1.same w) } }

/-- Take a whole block that is written off the poison lists of its copies (R378); while a channel is FROZEN, at its release. -/
def Dev.healBlock (d : Dev) (pa : Nat) : Dev :=
  match d.locate pa with
  | .dram ch a mir =>
    let heal (d : Dev) (ch a : Nat) : Dev :=
      let x := d.chan ch
      if !x.poison.contains (a / 64) then d
      else if x.st == .active then d.setChan ch { x with poison := x.poison.filter (· != a / 64) }
      else if x.st == .frozen then d.setChan ch { x with heals := a / 64 :: x.heals } else d
    let d := heal d ch a
    match mir with
    | some (ch2, a2) => heal d ch2 a2
    | none => d
  | _ => d

/-- Write bytes from a device physical address on, one by one; the first error response's reason. -/
def Dev.pokes (d : Dev) (w : Who) (pa : Nat) : Bytes → Dev × Option BusReason
  | [] => (d, none)
  | b :: bs =>
    let (d, e) := d.poke w pa b
    let (d, e2) := d.pokes w (pa + 1) bs
    (d, e.orElse (fun _ => e2))

/-- Write bytes at a device physical address. -/
def Dev.writePA (d : Dev) (w : Who) (pa : Nat) (bs : Bytes) : Dev × Option BusReason :=
  let blocks := (List.range (bs.length / 64 + 1)).map (fun k => roundUp pa 64 + 64 * k)
  let whole := blocks.filter (fun a => decide (a + 64 ≤ pa + bs.length))
  let d := whole.foldl (fun d a => d.healBlock a) d
  d.pokes w pa bs

/-! ### Violations -/

/-- A violation entry (R506). -/
def violEntry (time : Word) (addr inst acc reason : Nat) (w : Who) (seq : Nat) : Bytes :=
  toLE 8 time.toNat ++ toLE 8 addr ++ toLE 1 inst ++ toLE 1 w.source ++ toLE 1 w.unit ++ toLE 1 acc ++ toLE 1 reason ++
  List.replicate 3 0 ++ toLE 2 w.run ++ List.replicate 2 0 ++ toLE 4 (w.task % 2 ^ 21) ++ toLE 8 seq ++ List.replicate 24 0

/-- An instance. -/
def Dev.inst (d : Dev) (i : Nat) : Inst := look d.ins.inst i (if i = 0 then { st := .active } else {})

/-- Set an instance. -/
def Dev.setInst (d : Dev) (i : Nat) (x : Inst) : Dev := { d with ins := { d.ins with inst := put d.ins.inst i x } }

/-- Enter an access in the ring of instance `i` and raise VIOLATION[i] (R505). -/
def Dev.violation (d : Dev) (c : CoreSt) (w : Who) (i addr acc reason : Nat) : Dev :=
  let x := d.inst i
  let d := d.setInst i { x with viol := x.viol.push 64 (violEntry c.time addr i acc reason w) }
  (d.count R.insCntViol).raiseEvent (576 + i)

/-- Enter an unmapped device physical address in the device ring and raise VIOLATION (R360, R505). -/
def Dev.devViolation (d : Dev) (c : CoreSt) (w : Who) (i addr acc : Nat) : Dev :=
  let d := { d with ins := { d.ins with dviol := d.ins.dviol.push 256 (violEntry c.time addr i acc 3 w) } }
  (d.count R.insCntViol).raiseEvent 9

/-! ### Translation -/

/-- The device channel that carries a transfer to host memory (R436), under a run or none: which of the eight it is, is open. -/
def Dev.deviceChannel (d : Dev) (run : Nat) : Who × Dev :=
  let (v, d) := d.draw
  ({ source := 3, unit := v.toNat % 8, run := run }, d)

/-- What a translation finds: a device physical address; a host address (port, space, address); a host leaf without a link
behind it (R502); a violation with its REASON (R506). -/
inductive Xlat where
  | dev (pa : Nat)
  | host (port space addr : Nat)
  | hostDown
  | viol (reason : Nat) (host : Bool)
deriving DecidableEq, Repr

/-- A table entry of R502. -/
def leafOf (va size e : Nat) : Leaf :=
  { va := va - va % size, size := size, addr := bits e 51 12 <<< 12, host := bit e 5, write := bit e 4, read := bit e 3,
    carry := bit e 6, pasidSlot := bits e 55 52 }

/-- The bytes a level's entry covers: 512 GiB, 1 GiB, 2 MiB, 4 KiB for levels 1 to 4. -/
def levelSize (level : Nat) : Nat := 2 ^ (48 - 9 * level)

/-- Walk the tables from the table at `table` on, `fuel` levels left: the leaf, or the REASON of R506. A leaf at level 1 and an
entry of level 4 without LEAF are reserved values. -/
def Dev.walk (d : Dev) (va table level : Nat) : Nat → Except Nat Leaf
  | 0 => .error 2
  | fuel + 1 =>
    let e := ofLE ((d.readPA (table + 8 * ((va / levelSize level) % 512)) 8).bytes 8)
    if !bit e 0 then .error 0
    else if bit e 2 then
      if level = 1 then .error 2 else .ok (leafOf va (levelSize level) e)
    else if level = 4 then .error 2
    else d.walk va (bits e 51 12 <<< 12) (level + 1) fuel

/-- The table entries that a walk reads, from the table at `table` on. -/
def Dev.walkReads (d : Dev) (va table level : Nat) : Nat → List Nat
  | 0 => []
  | fuel + 1 =>
    let a := table + 8 * ((va / levelSize level) % 512)
    let e := ofLE ((d.readPA a 8).bytes 8)
    a :: (if bit e 0 && !bit e 2 && level != 4 then d.walkReads va (bits e 51 12 <<< 12) (level + 1) fuel else [])

/-- The leaf that the TLB of `tlb` uses for an address of instance `i`: while an invalidation has not been applied there, the
removed leaf still serves (R504, log entry 8). -/
def Dev.leaf (d : Dev) (i va tlb : Nat) : Except Nat Leaf :=
  let old := d.ins.inval.findSome? (fun v =>
    if v.inst == i && v.waiting.contains tlb then v.leaves.find? (fun l => decide (l.va ≤ va) && decide (va < l.va + l.size)) else none)
  match old with
  | some l => .ok l
  | none =>
    if 2 ^ 48 ≤ va then .error 0
    else match (d.inst i).root with
      | none => .error 0
      | some t => d.walk va t 1 4

/-- A port. -/
def Dev.port (d : Dev) (p : Nat) : Port := look d.xq.ports p {}

/-- Set a port. -/
def Dev.setPort (d : Dev) (p : Nat) (x : Port) : Dev := { d with xq := { d.xq with ports := put d.xq.ports p x } }

/-- The function that presents an instance (R386, R494, R496): for instance 0 the physical function that holds the manager role;
for another the virtual function bound to it, once the host has enabled that virtual function. -/
def Dev.presenter (d : Dev) (i : Nat) : Option (Nat × Nat) :=
  if i = 0 then d.ins.holder.map (fun p => (p, 0))
  else (d.inst i).bound.filter (fun b => decide (b.2 ≤ (d.port b.1).vfs))

/-- Translate one address of instance `i` for a load or a store (R502, R505). -/
def Dev.translate (d : Dev) (i va tlb : Nat) (write : Bool) : Xlat :=
  match d.leaf i va tlb with
  | .error r => .viol r false
  | .ok l =>
    if (if write then l.write else l.read) then
      let a := l.addr - l.addr % l.size + (va - l.va)
      if l.host then
        match d.presenter i with
        | some (p, _) =>
          if (d.port p).linkUp then
            .host p (match find (d.inst i).pasids l.pasidSlot with | some x => 1 + x | none => 0) a
          else .hostDown
        | none => .hostDown
      else .dev a
    else .viol 1 l.host

/-- The pieces of a range that no 4 KiB boundary cuts. -/
def pieces (va : Nat) : Nat → Nat → List (Nat × Nat)
  | 0, _ => []
  | fuel + 1, n =>
    if n = 0 then []
    else
      let k := min n (4096 - va % 4096)
      (va, k) :: pieces (va + k) fuel (n - k)

/-- The pieces of `n` bytes at `va`. -/
def pagesOf (va n : Nat) : List (Nat × Nat) := pieces va (n / 4096 + 2) n

/-- Why an access to an instance address failed: a violation (at that address), or an error response with its reason. -/
inductive AccFail where
  | viol (addr reason : Nat) (host : Bool)
  | bus (addr : Nat) (r : BusReason)
deriving DecidableEq, Repr

/-- The TLB that an engine or gallery uses (log entry 8). -/
def Who.tlb (w : Who) : Nat := w.source * 256 + w.unit

/-- The first failing piece of a range, before anything is moved (R505). -/
def Dev.checkInst (d : Dev) (w : Who) (i va n : Nat) (write : Bool) : Option AccFail :=
  (pagesOf va n).findSome? (fun pc =>
    match d.translate i pc.1 w.tlb write with
    | .viol r h => some (.viol pc.1 r h)
    | .hostDown => some (.bus pc.1 .host)
    | .dev pa => (match d.locate pa with | .unmapped => some (.bus pa .unmapped) | _ => none)
    | .host _ _ _ => none)

/-- Record a failed access: a violation in the instance's ring, an unmapped address in the device ring (R505, R360). -/
def Dev.recordFail (d : Dev) (c : CoreSt) (w : Who) (i : Nat) (write : Bool) : AccFail → Dev
  | .viol a r h => d.violation c w i a (b2n write + 2 * b2n h) r
  | .bus a .unmapped => d.devViolation c w i a (b2n write)
  | .bus _ _ => d

/-- The status an engine ends its descriptor or command with after a failed access (R502, R360, R379). -/
def AccFail.status : AccFail → Nat
  | .viol _ _ _ => 0x0302
  | .bus _ .unmapped => 0x0302
  | .bus _ .lost => 0x0401
  | .bus _ .host => 0x0100
  | .bus _ .none => 0x0304

/-- Has an access met the closed endpoint of a fenced gallery (R156)? -/
def AccFail.closed : AccFail → Bool
  | .bus _ .none => true
  | _ => false

/-- The service class of an access by its SOURCE (R366): galleries and page walkers 0, engines that stream 1; the model takes 1 for
the engines that the table does not list (log entry 29). -/
def Who.cls (w : Who) : Nat := if w.source = 0 then 0 else 1

/-- The requests of the page walk for an address of instance `i`, at class 0 (R366, R502): each access walks (log entry 8). -/
def Dev.walkRequests (d : Dev) (c : CoreSt) (i va : Nat) : Dev :=
  match (d.inst i).root with
  | none => d
  | some t => (each (d.walkReads va t 1 4) (fun a d => d.accept c false 0 a) d).count R.insCntWalk

/-- Enter the memory requests of an access to instance addresses that `checkInst` has passed. -/
def Dev.requests (d : Dev) (c : CoreSt) (w : Who) (i va n : Nat) (write : Bool) : Dev :=
  each (pagesOf va n) (fun (pc : Nat × Nat) d =>
    match d.translate i pc.1 w.tlb write with
    | .dev pa => (d.walkRequests c i pc.1).acceptRange c write w.cls pa pc.2
    | _ => d) d

/-- Read a range of instance addresses: its bytes, whether any of them were poisoned, or the failed access. -/
def Dev.readInst (d : Dev) (w : Who) (i va n : Nat) : Except AccFail (Bytes × Bool) :=
  match d.checkInst w i va n false with
  | some f => .error f
  | none =>
    (pagesOf va n).foldl (fun acc pc =>
      match acc with
      | .error f => .error f
      | .ok (bs, p) =>
        match d.translate i pc.1 w.tlb false with
        | .dev pa =>
          match d.readPA pa pc.2 with
          | .ok b => .ok (bs ++ b, p)
          | .poison => .ok (bs ++ List.replicate pc.2 0, true)
          | .err r => .error (.bus pa r)
        | .host p' sp a => .ok (bs ++ d.mem.getN (Key.host p' sp a) pc.2, p)
        | _ => .error (.bus pc.1 .host)) (.ok ([], false))

/-- Write a range of instance addresses that `checkInst` has passed; the first error response. -/
def Dev.writeInst (d : Dev) (c : CoreSt) (w : Who) (i va : Nat) (bs : Bytes) : Dev × Option AccFail :=
  match d.checkInst w i va bs.length true with
  | some f => (d, some f)
  | none =>
    (pagesOf va bs.length).foldl (fun acc pc =>
      let (d, e) := acc
      let b := slice bs (pc.1 - va) pc.2
      match d.translate i pc.1 w.tlb true with
      | .dev pa =>
        let (d, r) := ((d.walkRequests c i pc.1).acceptRange c true w.cls pa b.length).writePA { w with va := va } pa b
        (d, e.orElse (fun _ => r.map (AccFail.bus pa)))
      | .host p sp a => ({ d with mem := d.mem.setN (Key.host p sp a) b }, e)
      | _ => (d, e)) (d, none)

/-- A read by an engine or a gallery, with its requests in the controllers' queues. -/
def Dev.load (d : Dev) (c : CoreSt) (w : Who) (i va n : Nat) : Dev × Except AccFail (Bytes × Bool) :=
  match d.readInst w i va n with
  | .error f => (d, .error f)
  | .ok r => (d.requests c w i va n false, .ok r)

/-! ### The manager -/

/-- Writes of the DEV block come from the physical function that holds the manager role right now (R65, R498), and from the
Registrar. -/
def Dev.holdsRole (d : Dev) : Source → Bool
  | .pf p => d.ins.holder == some p.val
  | .registrar => true
  | .vf _ => false
  | .conservator => false
  | .management => false

/-- Writes elsewhere in the manager view (R163, R472, R512): the same, and from the physical function only once SERVICE has been entered
(R53). -/
def Dev.isManager (d : Dev) (c : CoreSt) (src : Source) : Bool := d.holdsRole src && (c.served || src == .registrar)

/-- Those that the management interfaces make too (SAF_RETURN, R533; PWR_CAP and PWR_THERM, R554). -/
def Dev.isManagerOrMgmt (d : Dev) (c : CoreSt) (src : Source) : Bool := src == .management || d.isManager c src

end Sys2Proof.Machine
end

