-- ==== Sys2Proof/Machine/Queues.lean ====
section
/-!
DEFINITION. Host queues: a command's completion entry (R391, R394, R395), the end of a queue deletion and of a controller
reset (R402, R411), and the checks by which an engine takes a fetched command (R22, R396).
-/

namespace Sys2Proof.Machine

/-- A queue pair of an instance, where it exists. -/
def Dev.pair (d : Dev) (i q : Nat) : Option Pair := find d.xq.pairs (i * 64 + q)

/-- Set a queue pair. -/
def Dev.setPair (d : Dev) (i q : Nat) (p : Pair) : Dev := { d with xq := { d.xq with pairs := put d.xq.pairs (i * 64 + q) p } }

/-- Remove a queue pair. -/
def Dev.dropPair (d : Dev) (i q : Nat) : Dev := { d with xq := { d.xq with pairs := del d.xq.pairs (i * 64 + q) } }

/-- The pairs of an instance. -/
def Dev.pairsOf (d : Dev) (i : Nat) : List (Nat × Pair) :=
  (d.xq.pairs.filter (fun e => e.1 / 64 == i)).map (fun e => (e.1 % 64, e.2))

/-- The key of a byte of a queue: a host address of the function that presents the instance, under the pair's PASID (R388). -/
def Dev.queueKey (d : Dev) (i : Nat) (p : Pair) (a : Nat) : Nat :=
  Key.host ((d.presenter i).map (·.1) |>.getD 0) (match p.pasid with | some x => 1 + x | none => 0) a

/-- The 16 bytes of a completion entry (R394). -/
def completionEntry (result sqHead q cid status : Nat) (phase : Bool) : Bytes :=
  toLE 4 result ++ toLE 2 sqHead ++ toLE 1 q ++ toLE 1 0 ++ toLE 2 cid ++ toLE 2 status ++ toLE 4 (b2n phase)

/-- Write a completion entry on pair `q` of instance `i` and raise the pair's vector (R391, R394, R395). -/
def Dev.postEntry (d : Dev) (i q sqHead cid result status : Nat) : Dev :=
  match d.pair i q with
  | none => d
  | some p =>
    let d := { d with mem := d.mem.setN (d.queueKey i p (p.cq + 16 * p.cqTail)) (completionEntry result sqHead q cid status p.phase) }
    let wrap := decide (p.cqTail + 1 = p.size)
    let d := d.setPair i q { p with
      cqTail := if wrap then 0 else p.cqTail + 1
      posted := p.posted + 1
      phase := if wrap then !p.phase else p.phase }
    let d := d.count R.xqCntCompl
    if p.ien then d.raiseVector i p.vector else d

/-- Is this the command with that instance, pair and identifier? -/
def Cmd.is (i q cid : Nat) (x : Cmd) : Bool := x.inst == i && x.pair == q && x.cid == cid

/-- A fetched and uncompleted command. -/
def Dev.cmd (d : Dev) (i q cid : Nat) : Option Cmd := d.xq.cmds.find? (Cmd.is i q cid)

/-- Take a command off the list. -/
def Dev.dropCmd (d : Dev) (i q cid : Nat) : Dev := { d with xq := { d.xq with cmds := d.xq.cmds.eraseP (Cmd.is i q cid) } }

/-- Mark a command started (R411). -/
def Dev.startCmd (d : Dev) (i q cid : Nat) : Dev :=
  { d with xq := { d.xq with cmds := d.xq.cmds.map (fun x => if x.is i q cid then { x with started := true } else x) } }

/-- A queue pair whose deletion waits is freed, and its DELETE_QUEUE completed, once no command of it is left (R402); in SAFE-STOP without an
entry (R40). -/
def Dev.settleDelete (d : Dev) (c : CoreSt) (i q : Nat) : Dev :=
  match d.pair i q with
  | none => d
  | some p =>
    match p.deleter with
    | none => d
    | some cid =>
      if d.xq.cmds.any (fun x => x.inst == i && x.pair == q) then d
      else
        let head := (d.cmd i 0 cid).map (·.sqHead) |>.getD 0
        let d := (d.dropPair i q).dropCmd i 0 cid
        if c.mode == .safeStop then d else d.postEntry i 0 head cid 0 0

/-- The admin pair that ENABLE starts; CFS where its registers break R388 (R389). The pair's interrupts are enabled on vector 0 (log entry
26). -/
def Dev.startQueues (d : Dev) (i : Nat) : Dev :=
  let size := d.getF (R.xqWAqa i) 12 0
  if size < 2 ∨ 4096 < size then d.setFlag (R.xqWCsts i) 2 true
  else d.setPair i 0 { size := size, sq := (d.reg (R.xqWAsq i)).toNat, cq := (d.reg (R.xqWAcq i)).toNat, ien := true }

/-- A controller reset deletes every pair once no command of the instance is left: RESETTING and READY become 0 (R411). An ENABLE set
meanwhile starts the queues now (R389). -/
def Dev.settleReset (d : Dev) (i : Nat) : Dev :=
  if d.xq.resetting.contains i && !(d.xq.cmds.any (fun x => x.inst == i)) then
    let d := { d with xq := { d.xq with
      pairs := d.xq.pairs.filter (fun e => e.1 / 64 != i), resetting := d.xq.resetting.filter (· != i) } }
    let d := d.setF (R.xqWCsts i) 1 0 0
    if d.flag (R.xqWCc i) 0 then d.startQueues i else d
  else d

/-- Has a command a write whose response has not come? -/
def Dev.jobHeld (d : Dev) (job : Nat) : Bool := d.dram.chan.any (fun e => e.2.held.any (fun (h : HeldWrite) => h.who.job == job))

/-- Complete a command: its entry is written unless its queues are gone or the device is in SAFE-STOP (R40, R395), and whatever waited for it
ends. A result has 32 bits. A command whose write is held completes once it has its response (R26, R376), with 0x0401 where that is an error
(R379). -/
def Dev.complete (d : Dev) (c : CoreSt) (i q cid result status : Nat) : Dev :=
  match d.cmd i q cid with
  | none => d
  | some x =>
    let job := cmdJob i q cid
    if d.jobHeld job then
      { d with xq := { d.xq with owed := d.xq.owed ++ [{ inst := i, pair := q, cid := cid, result := result, status := status }] } }
    else
    let status := if d.xq.lost.contains job ∧ status < 0x100 then 0x0401 else status
    let d := { d with xq := { d.xq with lost := d.xq.lost.filter (· != job) } }
    let d := d.dropCmd i q cid
    let d := if x.silent || c.mode == .safeStop then d else d.postEntry i q x.sqHead cid (result % 2 ^ 32) status
    (d.settleDelete c i q).settleReset i

/-- The fetched command a reference names, where it has that opcode, has not started, and no earlier command of its queue with
an opcode of the same engine is still unstarted (R22, R392). -/
def Dev.take (d : Dev) (ref : CmdRef) (op : Nat) (engine : Nat → Bool) : Option Cmd :=
  match d.xq.cmds.find? (fun x => x.inst == ref.inst.toNat && x.pair == ref.pair.val && !x.started && engine x.op) with
  | some x => if x.cid == ref.cid.toNat && x.op == op then some x else none
  | none => none

/-- Opcodes of the ordering unit; of the Docent; of the Registrar and the host port island (R396). -/
def isStorageOp (op : Nat) : Bool := decide (1 ≤ op) && decide (op ≤ 4)
def isDocentOp (op : Nat) : Bool := decide (0x10 ≤ op) && decide (op ≤ 0x13)
def isAdminOp (op : Nat) : Bool := decide (0x80 ≤ op)

/-- Run an admin command: with nothing where no such command waits. `f` gives the outcome's state from the command; the
Registrar takes no command while it restarts or is halted (R529). -/
def Dev.admin (d : Dev) (c : CoreSt) (ref : CmdRef) (op : Nat) (f : Cmd → Dev → Dev) : Dev :=
  match d.take ref op isAdminOp with
  | none => d
  | some x =>
    if (d.saf.regRestart || d.saf.regHalted) && decide (0x90 ≤ op) then
      (d.count R.xqCntAdmbusy).complete c x.inst x.pair x.cid (if d.saf.regHalted then 1000 else 250) 0x0500
    else f x (d.startCmd x.inst x.pair x.cid)

/-- Complete the command `x`. -/
def Dev.finish (d : Dev) (c : CoreSt) (x : Cmd) (result status : Nat) : Dev := d.complete c x.inst x.pair x.cid result status

/-- The job of the command `x`. -/
def Cmd.job (x : Cmd) : Nat := cmdJob x.inst x.pair x.cid

/-- Read a structure that an admin command names at an instance 0 address (SOURCE 10, Registrar): its bytes, or the state after
the command has completed with the status of the failed access (R496, R506). -/
def Dev.adminRead (d : Dev) (c : CoreSt) (x : Cmd) (va n : Nat) : Except Dev Bytes :=
  let w : Who := { source := 10, unit := 0xFF }
  match d.readInst w x.inst va n with
  | .ok (bs, false) => .ok bs
  | .ok (_, true) => .error (d.finish c x 0 0x0401)
  | .error f => .error ((d.recordFail c w x.inst false f).finish c x 0 f.status)

end Sys2Proof.Machine
end

