-- ==== Sys2Proof/Machine/Events.lean ====
section
/-!
DEFINITION. The event controller's commands (spec/17_event_controller.md): the RAISE and CLAIM ports, register writes,
raises, the event arbiter's delivery selection, coalescing timeouts, task-end and fence notices, and the MSI-X tables.
-/

namespace Sys2Proof.Machine

/-! ### What a target runs -/

/-- The instance whose task logical gallery `g` runs (R458). -/
def Dev.taskInst (d : Dev) (g : Nat) : Option Nat :=
  match find d.doc.task g with
  | none => none
  | some (r, _) => (find d.doc.runs r).map (·.inst)

/-- The owner of a source (R456). -/
def Dev.owner (d : Dev) (n : Nat) : Nat := d.getF (R.evtRoute n) 47 40

/-- Is the number in R455's table? -/
def isSource (n : Nat) : Bool :=
  decide (n < 10) || (decide (64 ≤ n) && decide (n < 832)) || isDirected n || (decide (2048 ≤ n) && decide (n < 4096))

/-- What a gallery target can take (R463, R465): an event with WAKE set may reach a sleeping gallery. -/
def Dev.galleryTakes (d : Dev) (g : Nat) (wake : Bool) : Bool :=
  match look d.evt.gal g .active with
  | .active => true
  | .asleep => wake
  | .withdrawn => false

/-- Is a raise eligible by its coalescing profile (R467)? -/
def EvtSlot.mature (s : EvtSlot) : Bool := s.waits && (decide (s.need ≤ s.count) || s.ripe)

/-- Is the routed source `n`, with this pending state, eligible for its gallery (R458, R463)? -/
def Dev.routedEligible (d : Dev) (n : Nat) (s : EvtSlot) : Option Nat :=
  let g := d.getF (R.evtRoute n) 6 0
  if s.mature && d.flag (R.evtRoute n) 63 && d.getF (R.evtRoute n) 61 60 == 0 && d.galleryTakes g (d.flag (R.evtRoute n) 62)
      && d.taskInst g == some (d.owner n) then some g else none

/-- Is the directed source under `key`, with this pending state, eligible (R463)? -/
def Dev.directedEligible (d : Dev) (key : Nat) (s : EvtSlot) : Option Nat :=
  let n := key / 128
  let g := key % 128
  if s.mature && d.flag (R.evtRoute n) 63 && d.galleryTakes g (d.flag (R.evtRoute n) 62) then some g else none

/-- The events eligible for galleries: (gallery, priority, number). -/
def Dev.galleryEvents (d : Dev) : List (Nat × Nat × Nat) :=
  d.evt.routed.filterMap (fun e => (d.routedEligible e.1 e.2).map (fun g => (g, d.getF (R.evtRoute e.1) 59 57, e.1))) ++
  d.evt.directed.filterMap (fun e => (d.directedEligible e.1 e.2).map (fun g => (g, d.getF (R.evtRoute (e.1 / 128)) 59 57, e.1 / 128)))

/-- The host vectors (instance x 64 + vector) with an eligible raise pending (R468): a completion raise, or a routed source. -/
def Dev.vectorEvents (d : Dev) : List Nat := d.vectorsWith EvtSlot.mature

/-- A function's configuration. -/
def Dev.func (d : Dev) (port fn : Nat) : Func := look d.xq.funcs (port * 65 + fn) {}

/-- Is a host vector able to take an event (R468)? -/
def Dev.vectorTakes (d : Dev) (c : CoreSt) (key : Nat) : Bool :=
  match d.presenter (key / 64) with
  | none => false
  | some (p, f) =>
    let x := d.func p f
    x.msixEnable && !x.funcMask && !(look d.evt.msix key {}).mask && (d.port p).linkUp &&
      (d.inst (key / 64)).st != .frozen && c.mode != .safeStop

/-! ### Delivery -/

/-- The state of one pending bit right after its delivery point; `g` holds it until it is claimed. -/
def EvtSlot.delivered (g : Option Nat) : EvtSlot := { deliv := g }

/-- Deliver source `n` to logical gallery `g` (R463, R465, R331, R332): the core's EVT_PENDING is set, a wait in WFE ends, a
sleeping island wakes. -/
def Dev.deliverGallery (d : Dev) (g n : Nat) : Dev :=
  let e := d.evt
  let d := { d with evt := if isDirected n then { e with directed := put e.directed (n * 128 + g) (EvtSlot.delivered (some g)) }
    else { e with routed := put e.routed n (EvtSlot.delivered (some g)) } }
  let p := d.phys g
  let k := d.core p
  let st := match k.st with | .wfe => CoreRun.run | .asleep => .waking | s => s
  let d := d.setCore p { k with evtPending := true, st := st }
  d.count R.evtCntDeliver

/-- Deliver a host vector (R468): one message for every raise pending on it, all of whose pending state clears. -/
def Dev.deliverVector (d : Dev) (key : Nat) : Dev :=
  let port := (d.presenter (key / 64)).map (·.1) |>.getD 0
  let m := look d.evt.msix key {}
  let e := d.evt
  let routed := e.routed.map (fun x => if x.2.deliv.isNone && d.hostVector x.1 == some key then (x.1, EvtSlot.delivered none) else x)
  let d := { d with evt := { e with routed := routed, vectors := del e.vectors key, sent := (port, m.addr, m.data) :: e.sent } }
  d.count R.evtCntMsix

/-- One target's delivery: galleries are targets 0 to 127, host vectors follow. For a gallery the highest PRIORITY, then the
lowest number, is delivered (R463). -/
def Dev.deliverTarget (d : Dev) (t : Nat) : Dev :=
  if t < 128 then
    match best (fun (a b : Nat × Nat × Nat) => decide (b.2.1 < a.2.1) || (a.2.1 == b.2.1 && decide (a.2.2 < b.2.2)))
        (d.galleryEvents.filter (·.1 == t)) with
    | some (_, _, n) => d.deliverGallery t n
    | none => d
  else d.deliverVector (t - 128)

/-- The targets with something to take, in rotation from `rot` on (R463). -/
def Dev.readyTargets (d : Dev) (c : CoreSt) : List Nat :=
  let gs : List Nat := d.galleryEvents.map (fun (e : Nat × Nat × Nat) => e.1)
  let vs : List Nat := (d.vectorEvents.filter (d.vectorTakes c)).map (fun k => k + 128)
  let all : List Nat := (gs ++ vs).eraseDups
  let sorted := sortNat all
  sorted.filter (fun t => decide (d.evt.rot ≤ t)) ++ sorted.filter (fun t => decide (t < d.evt.rot))

/-- One cycle of the event arbiter's delivery selection: nothing while HOLD is 1, else up to four targets (R463). -/
def Dev.arbiterCycle (d : Dev) (c : CoreSt) : Dev :=
  if d.flag R.evtCtrl 0 then d
  else
    let ts := (d.readyTargets c).take 4
    let d := ts.foldl Dev.deliverTarget d
    match ts.getLast? with
    | some t => { d with evt := { d.evt with rot := t + 1 } }
    | none => d

/-! ### Claims -/

/-- The events delivered to a gallery and unclaimed: their numbers. -/
def Dev.deliveredTo (d : Dev) (g : Nat) : List Nat :=
  d.evt.routed.filterMap (fun e => if e.2.deliv == some g then some e.1 else none) ++
  d.evt.directed.filterMap (fun e => if e.1 % 128 == g && e.2.deliv == some g then some (e.1 / 128) else none)

/-- The event a claim names: the number itself where it is delivered, or for 0xFFFF the one of highest priority, lowest number
(R466). -/
def Dev.claimed (d : Dev) (g number : Nat) : Option Nat :=
  let xs := d.deliveredTo g
  if number = 0xFFFF then
    best (fun a b => decide (d.getF (R.evtRoute b) 59 57 < d.getF (R.evtRoute a) 59 57) ||
      (d.getF (R.evtRoute a) 59 57 == d.getF (R.evtRoute b) 59 57 && decide (a < b))) xs
  else if xs.contains number then some number else none

/-- The claim word (R466). -/
def Dev.claimWord (d : Dev) (n : Option Nat) (remaining : Nat) : Nat :=
  match n with
  | none => remaining <<< 32 + 0xFFFF
  | some n =>
    remaining <<< 32 + (if isDirected n then 0 else d.owner n) <<< 24 + (b2n (isDirected n)) <<< 19 +
      (d.getF (R.evtRoute n) 59 57) <<< 16 + n

/-- A write to the CLAIM port by physical gallery `p` (R460, R466); an unaligned RESULT or a nonzero reserved field gives an
error response. -/
def Dev.evtClaim (d : Dev) (p v : Nat) : Dev × Bool :=
  let result := bits v 20 0
  if result % 8 ≠ 0 ∨ bits v 47 21 ≠ 0 then (d, true)
  else match d.logicalOf p with
    | none => (d, true)
    | some g =>
      let n := d.claimed g (bits v 63 48)
      let clear (s : EvtSlot) : EvtSlot := { s with deliv := none }
      let d := match n with
        | some n =>
          if isDirected n then { d with evt := { d.evt with directed := upd d.evt.directed (n * 128 + g) {} clear } }
          else { d with evt := { d.evt with routed := upd d.evt.routed n {} clear } }
        | none => d.count R.evtCntSpurious
      let remaining := (d.deliveredTo g).length
      let word := toLE 8 (d.claimWord n remaining)
      let key := Key.localStore p result
      let d := { d with mem := d.mem.setN key word, evt := { d.evt with lastClaim := put d.evt.lastClaim g (n.getD 0xFFFF) } }
      let d := d.clearTags key 8
      let k := d.core p
      (d.setCore p { k with evtPending := decide (0 < remaining) }, false)

/-- A write to the RAISE port by physical gallery `p`, whose CORE_TASK travels with it (R461). -/
def Dev.evtRaisePort (d : Dev) (p v : Nat) : Dev :=
  let n := 2048 + bits v 10 0
  if d.owner n = fld (d.core p).task 63 56 then d.raiseEvent n
  else (d.count R.evtCntRaiserej).setFlag R.evtStatus 2 true

/-! ### Register writes -/

/-- A write of EVT_ROUTE[n] (R457, R472): a host target must be of the source's owner; a reserved KIND is ignored. -/
def Dev.writeRoute (d : Dev) (n : Nat) (v : Word) : Dev :=
  let old := d.reg (R.evtRoute n)
  let soft := decide (2048 ≤ n) && decide (n < 4096)
  let owner := if soft then fld v 47 40 else fld old 47 40
  let kind := fld v 61 60
  if isDirected n then
    d.setReg (R.evtRoute n) (setFld (setFld (writeFields ((regRow (R.evtRoute n)).map (·.fields) |>.getD []) old v) 47 40 0) 61 60 0)
  else if 2 ≤ kind then d
  else if kind = 1 ∧ fld v 31 24 ≠ owner then d.setFlag R.evtStatus 1 true
  else d.setReg (R.evtRoute n) (setFld (writeFields ((regRow (R.evtRoute n)).map (·.fields) |>.getD []) old v) 47 40 owner)

/-- Withdraw every undelivered raise of one source (EVT_PEND, R472): a delivered event stays. -/
def EvtSlot.withdraw (s : EvtSlot) : EvtSlot := { s with pend := false, count := 0, ripe := false }

/-- A write of EVT_PEND[k]: each bit that is 1 withdraws source 64k + bit at every target. -/
def Dev.writePend (d : Dev) (k : Nat) (v : Word) : Dev :=
  let hit (n : Nat) : Bool := n / 64 == k && bit v.toNat (n % 64)
  { d with evt := { d.evt with
    routed := d.evt.routed.map (fun e => if hit e.1 then (e.1, e.2.withdraw) else e)
    directed := d.evt.directed.map (fun e => if hit (e.1 / 128) then (e.1, e.2.withdraw) else e) } }

/-- A write of EVT_COAL[k]: profile 0 is fixed, a COUNT of 0 stores 1 (R467, R472). -/
def Dev.writeCoal (d : Dev) (k : Nat) (v : Word) : Dev :=
  if k = 0 then d else d.writeReg (R.evtCoal k) (if fld v 7 0 = 0 then setFld v 7 0 1 else v)

/-- A write of EVT_RAISE: raises a SOFT source, and any other number sets RAISE_REJECT (R472). -/
def Dev.writeRaise (d : Dev) (v : Word) : Dev :=
  let n := fld v 12 0
  if 2048 ≤ n ∧ n < 4096 then d.raiseEvent n else d.setFlag R.evtStatus 2 true

/-- One aligned 4-byte part of an MSI-X table entry (R468): address low and high, data, vector control (bit 0 Mask). -/
def MsixEntry.write (m : MsixEntry) (part v : Nat) : MsixEntry :=
  match part with
  | 0 => { m with addr := setBits m.addr 31 0 v }
  | 1 => { m with addr := setBits m.addr 63 32 v }
  | 2 => { m with data := v % 2 ^ 32 }
  | _ => { m with mask := bit v 0 }

/-- A write to the MSI-X table of an instance (R387, R468): 4 or 8 bytes, aligned. -/
def Dev.writeMsix (d : Dev) (i off : Nat) (wide : Bool) (v : Word) : Dev :=
  if off % (if wide then 8 else 4) ≠ 0 then d
  else
    let key := i * 64 + off / 16
    let part := off % 16 / 4
    let f (m : MsixEntry) : MsixEntry :=
      let m := m.write part (bits v.toNat 31 0)
      if wide then m.write (part + 1) (bits v.toNat 63 32) else m
    { d with evt := { d.evt with msix := upd d.evt.msix key {} f } }

/-! ### Notices -/

/-- What a task-end or fence notice does at one pending bit of a routed source that gallery `g` holds: it returns to pending
(R470). -/
def EvtSlot.giveBack (g : Nat) (s : EvtSlot) : EvtSlot :=
  if s.deliv == some g then { s with deliv := none, pend := true, ripe := true, count := max 1 s.count } else s

/-- R470 for logical gallery `g`: its directed events are withdrawn and counted, its routed ones return to pending. -/
def Dev.taskNotice (d : Dev) (g : Nat) : Dev :=
  let gone := total ((d.evt.directed.filter (fun e => e.1 % 128 == g)).map (fun e => b2n e.2.pend + b2n e.2.deliv.isSome))
  let d := { d with evt := { d.evt with
    routed := d.evt.routed.map (fun e => (e.1, e.2.giveBack g))
    directed := d.evt.directed.filter (fun e => e.1 % 128 != g) } }
  if gone = 0 then d else d.count R.evtCntWithdraw gone

/-- R471: a fence notice also marks the gallery WITHDRAWN. -/
def Dev.fenceNotice (d : Dev) (g : Nat) : Dev :=
  let d := d.taskNotice g
  { d with evt := { d.evt with gal := put d.evt.gal g .withdrawn } }

/-! ### The commands -/

/-- Hold a posted write's error response for the next FENCE or TASKDONE (R321): the first is reported, later ones counted. -/
def Dev.postError (d : Dev) (p addr reason : Nat) : Dev :=
  let k := d.core p
  match k.postErr with
  | none => d.setCore p { k with postErr := some (addr, reason) }
  | some _ => d.count (R.galCntExc p)

/-- EVT_RAISE_PORT: an 8-byte write to the RAISE port (R461). -/
def execEvtRaisePort (p : Fin 136) (v : BitVec 64) (s : State) : Host.Outcome State Fault Refusal :=
  s.onDev (fun _ d => d.evtRaisePort p.val v.toNat)

/-- EVT_CLAIM: an 8-byte write to the CLAIM port (R466); an error response is held as a posted one (R313, R321). -/
def execEvtClaim (p : Fin 136) (v : BitVec 64) (s : State) : Host.Outcome State Fault Refusal :=
  s.onDev (fun _ d =>
    let (d, e) := d.evtClaim p.val v.toNat
    if e then d.postError p.val 0x50008 0 else d)

/-- EVT_RAISE: a register write that raises a SOFT source (R472). -/
def execEvtRaise (src : Source) (v : BitVec 64) (s : State) : Host.Outcome State Fault Refusal :=
  s.onDev (fun c d => if d.isManager c src then d.writeRaise v else d)

/-- EVT_ROUTE_WRITE (R457, R464). -/
def execEvtRouteWrite (src : Source) (n : BitVec 13) (v : BitVec 64) (s : State) : Host.Outcome State Fault Refusal :=
  s.onDev (fun c d => if d.isManager c src then d.writeRoute n.toNat v else d)

/-- EVT_PEND_WITHDRAW (R459, R472). -/
def execEvtPendWithdraw (src : Source) (n : BitVec 7) (v : BitVec 64) (s : State) : Host.Outcome State Fault Refusal :=
  s.onDev (fun c d => if d.isManager c src then d.writePend n.toNat v else d)

/-- EVT_COAL_WRITE (R467). -/
def execEvtCoalWrite (src : Source) (k : BitVec 4) (v : BitVec 64) (s : State) : Host.Outcome State Fault Refusal :=
  s.onDev (fun c d => if d.isManager c src then d.writeCoal k.toNat v else d)

/-- EVT_HOLD_WRITE: EVT_CTRL (R462, R472). -/
def execEvtHoldWrite (src : Source) (v : BitVec 64) (s : State) : Host.Outcome State Fault Refusal :=
  s.onDev (fun c d => if d.isManager c src then d.writeReg R.evtCtrl v else d)

/-- MSIX_TABLE_WRITE (R468): from the function that presents the instance, once SERVICE has been entered (R53, R579). -/
def execMsixTableWrite (inst : BitVec 8) (off : BitVec 10) (wide : Bool) (v : BitVec 64) (s : State) :
    Host.Outcome State Fault Refusal :=
  s.onDev (fun c d => if c.served && (d.presenter inst.toNat).isSome then d.writeMsix inst.toNat off.toNat wide v else d)

/-- EVENT_RAISE: a device monitor or an engine raises a source (R459); a number that R455 does not list is never raised. -/
def execEventRaise (n : BitVec 13) (g : Fin 128) (s : State) : Host.Outcome State Fault Refusal :=
  s.onDev (fun _ d =>
    if isDirected n.toNat then d.raiseDirected n.toNat g.val else if isSource n.toNat then d.raiseEvent n.toNat else d)

/-- EVT_ARBITER_CYCLE (R463). -/
def execEvtArbiterCycle (s : State) : Host.Outcome State Fault Refusal :=
  s.onDev (fun c d => d.arbiterCycle c)

/-- A pending raise whose profile set a time limit has waited that long (R467). -/
def EvtSlot.ripen (s : EvtSlot) : EvtSlot := if s.pend && s.limit != 0 then { s with ripe := true } else s

/-- EVT_COAL_TIMEOUT: the TIME of a pending raise's profile has passed since its first raise (R467); a TIME of 0 sets no limit. -/
def execEvtCoalTimeout (slot : EvtRef) (s : State) : Host.Outcome State Fault Refusal :=
  s.onDev (fun _ d =>
    let e := d.evt
    match slot with
    | .routed n => { d with evt := { e with routed := upd e.routed n.toNat {} EvtSlot.ripen } }
    | .directed n g => { d with evt := { e with directed := upd e.directed (n.toNat * 128 + g.val) {} EvtSlot.ripen } }
    | .vector i v => { d with evt := { e with vectors := upd e.vectors (i.toNat * 64 + v.toNat) {} EvtSlot.ripen } })

/-- EVT_TASK_NOTICE (R470): the controller applies a notice that the Docent has sent, and acknowledges it. -/
def execEvtTaskNotice (g : Fin 128) (s : State) : Host.Outcome State Fault Refusal :=
  s.onDev (fun _ d =>
    if !d.doc.notes.contains g.val then d else
    let d := d.taskNotice g.val
    { d with doc := { d.doc with notes := d.doc.notes.filter (· != g.val) } })

/-- EVT_FENCE_NOTICE (R156, R471): of a gallery that the Conservator has fenced. -/
def execEvtFenceNotice (g : Fin 128) (s : State) : Host.Outcome State Fault Refusal :=
  s.onDev (fun _ d => if d.isFenced Blk.gal (d.phys g.val) then d.fenceNotice g.val else d)

end Sys2Proof.Machine
end

