-- ==== Sys2Proof/Machine/Faults.lean ====
section
/-!
DEFINITION. The Conservator's answer to a fault (R523, R524): the fault register and safety log, and the fence of a gallery in
the order of R156.
-/

namespace Sys2Proof.Machine

/-- Record a fault report: SAF_FAULT, one safety log entry, SAF_CNT_FAULT (R524, R533). -/
def Dev.faultReport (d : Dev) (c : CoreSt) (e : SafEntry) : Dev :=
  let v := e.status <<< 48 + e.mech <<< 40 + e.action <<< 32 + e.block <<< 24 + e.unit % 2 ^ 16
  ((d.setReg R.safFault (BitVec.ofNat 64 v)).safetyLog c.time e).count R.safCntFault

/-- Fence a unit by fence-and-continue: the report, SAF_CNT_FENCE, the fence, and the retest 1 s later of a unit of R523's
exception on its first fence. -/
def Dev.fenceUnit (d : Dev) (c : CoreSt) (mech block unit status : Nat) : Dev :=
  let d := d.faultReport c { action := 1, mech := mech, block := block, unit := unit, status := status }
  let first := d.fenceCount block unit == 0
  let d := (d.count R.safCntFence).fence c block unit
  if first && (block == Blk.sfl || block == Blk.fol || block == Blk.prv || block == Blk.dma) then
    { d with saf := { d.saf with retest := (block, unit) :: d.saf.retest } }
  else d

/-- A state in which a gallery's core does nothing further. -/
def Dev.stopCore (d : Dev) (p : Nat) : Dev := d.setCore p { d.core p with st := .stopped }

/-- Fence physical gallery `p` (R156): its core stops and its endpoint closes, the event controller withdraws the logical
gallery, the Catalogue drops its searches (R269), and the notice goes to the Docent. -/
def Dev.galleryFault (d : Dev) (c : CoreSt) (p mech : Nat) : Dev :=
  let d := (d.fenceUnit c mech Blk.gal p 0).stopCore p
  let d := { d with cat := { d.cat with
    reqs := d.cat.reqs.filter (fun (r : CatReq) => r.gal != p), held := d.cat.held.filter (fun (h : Nat × Nat) => h.1 != p) } }
  match d.logicalOf p with
  | none => d
  | some g =>
    let d := d.fenceNotice g
    { d with doc := { d.doc with notices := d.doc.notices ++ [.fence g] } }

/-- 24 hours of DEV_TIME, in nanoseconds; did a happening at `t` fall within the last `span`? -/
def dayNs : Nat := 86400000000000
def within (now span t : Nat) : Bool := decide (now < t + span)

/-! ### Retirement and test claims (R19, R521, R522) -/

/-- Retire physical gallery `p`: its logical number is fenced until a reserve takes it over; a reserve that carries no number is only
taken out of use (R32). -/
def Dev.retire (d : Dev) (c : CoreSt) (p mech : Nat) : Dev :=
  if d.gals.retired.contains p then d
  else
    let used := (d.logicalOf p).isSome
    let d := if used && !d.isFenced Blk.gal p then d.galleryFault c p mech else d
    let d := if used then d else (d.unfence c Blk.gal p).stopCore p
    let d := d.safetyLog c.time { action := 2, mech := mech, block := Blk.gal, unit := p }
    { d with
      gals := { d.gals with retired := p :: d.gals.retired }
      saf := { d.saf with passed := d.saf.passed.filter (· != p), claims := d.saf.claims.filter (fun (x : TestClaim) => x.gallery != p) } }

/-- A test claim on physical gallery `p` (R150, R520): its island wakes (R333), and the Docent is told where the gallery carries a
number. -/
def Dev.claimTest (d : Dev) (c : CoreSt) (p : Nat) (outvote : Bool) : Dev :=
  if d.gals.retired.contains p ∨ d.isFenced Blk.gal p = true ∨ (d.saf.claims.any (fun (x : TestClaim) => x.gallery == p)) = true then d
  else
    let x : TestClaim := { gallery := p, since := c.time.toNat, outvote := outvote }
    let d : Dev := { d with saf := { d.saf with claims := d.saf.claims ++ [x] } }
    let k := d.core p
    let d := if k.st = .asleep then d.setCore p { k with st := .waking } else d
    match d.logicalOf p with
    | some g => { d with doc := { d.doc with notices := d.doc.notices ++ [DocNotice.test g] } }
    | none => d

/-- Outvotes of a gallery within the last 24 hours. -/
def Dev.outvotesOf (d : Dev) (c : CoreSt) (p : Nat) : Nat := (look d.saf.outvotes p []).countP (within c.time.toNat dayNs)

/-- A gallery's record was outvoted (R245, R522): logged; claimed for a test, or retired at once where it was outvoted before. -/
def Dev.outvote (d : Dev) (c : CoreSt) (p : Nat) : Dev :=
  let d := d.safetyLog c.time { action := 0, mech := 9, block := Blk.gal, unit := p }
  if max 1 (d.getF R.safRepair 3 0) ≤ d.outvotesOf c p + 1 then d.retire c p 9
  else if d.saf.claims.any (fun (x : TestClaim) => x.gallery == p) then
    { d with saf := { d.saf with claims := d.saf.claims.map (fun (x : TestClaim) => if x.gallery = p then { x with outvote := true } else x) } }
  else d.claimTest c p true

end Sys2Proof.Machine
end

