-- ==== Sys2Proof/Machine/Flags.lean ====
section
/-!
DEFINITION. What the gallery core computes on 64-bit integers (R317, R318): the result of each operation, whether it leaves the
range of its destination, and the conditions of branches. Results are computed exactly as integers and then narrowed.
-/

namespace Sys2Proof.Machine

/-- An exact result narrowed to 64 bits, and whether it left the range of the signed or unsigned destination. -/
def narrow (signed : Bool) (i : Int) : Word × Bool :=
  (BitVec.ofInt 64 i,
   if signed then decide (i < -(2 ^ 63)) || decide (2 ^ 63 ≤ i) else decide (i < 0) || decide (2 ^ 64 ≤ i))

/-- A shift takes the low six bits of its count (log entry 21). -/
def shiftCount (b : Word) : Nat := b.toNat % 64

/-- The CRC-32C remainder after one more byte: reflected polynomial 0x82F63B78. -/
def crc32cBits : Nat → Nat → Nat
  | 0, r => r
  | n + 1, r => crc32cBits n (if r % 2 = 1 then (r / 2) ^^^ 0x82F63B78 else r / 2)

/-- One byte into a CRC-32C register. -/
def crc32cByte (r : Nat) (b : Byte) : Nat := crc32cBits 8 (r ^^^ b.toNat)

/-- CRC-32C of a string: initial value and final exclusive-or all-ones (the Castagnoli CRC that R67 and R102 name). -/
def crc32c (bs : Bytes) : Nat := (bs.foldl crc32cByte 0xFFFFFFFF) ^^^ 0xFFFFFFFF

/-- The result of an integer ALU operation, and whether it overflowed (R318: add, subtract and left shift may). -/
def intOp (op : IntOp) (a b : Word) : Word × Bool :=
  match op with
  | .add => narrow true (a.toInt + b.toInt)
  | .addU => narrow false (a.toNat + b.toNat)
  | .sub => narrow true (a.toInt - b.toInt)
  | .subU => narrow false ((a.toNat : Int) - b.toNat)
  | .and => (a &&& b, false)
  | .or => (a ||| b, false)
  | .xor => (a ^^^ b, false)
  | .sll => narrow true (a.toInt * 2 ^ shiftCount b)
  | .sllU => narrow false (a.toNat * 2 ^ shiftCount b)
  | .srl => (a >>> shiftCount b, false)
  | .sra => (a.sshiftRight (shiftCount b), false)
  | .eq => (BitVec.ofNat 64 (b2n (a == b)), false)
  | .ne => (BitVec.ofNat 64 (b2n (a != b)), false)
  | .lt => (BitVec.ofNat 64 (b2n (decide (a.toInt < b.toInt))), false)
  | .ltU => (BitVec.ofNat 64 (b2n (decide (a.toNat < b.toNat))), false)
  | .le => (BitVec.ofNat 64 (b2n (decide (a.toInt ≤ b.toInt))), false)
  | .leU => (BitVec.ofNat 64 (b2n (decide (a.toNat ≤ b.toNat))), false)
  | .min => (if a.toInt ≤ b.toInt then a else b, false)
  | .minU => (if a.toNat ≤ b.toNat then a else b, false)
  | .max => (if a.toInt ≤ b.toInt then b else a, false)
  | .maxU => (if a.toNat ≤ b.toNat then b else a, false)
  | .lui => (b <<< 15, false)

/-- Quotient and remainder, rounding toward zero; none where the spec states no result: a zero divisor, or the most negative
number divided by minus one. -/
def divide (signed : Bool) (a b : Word) : Option (Word × Word) :=
  if b = 0 then none
  else if signed then
    if a.toInt = -(2 ^ 63) ∧ b.toInt = -1 then none
    else some (BitVec.ofInt 64 (a.toInt.tdiv b.toInt), BitVec.ofInt 64 (a.toInt.tmod b.toInt))
  else some (BitVec.ofNat 64 (a.toNat / b.toNat), BitVec.ofNat 64 (a.toNat % b.toNat))

/-- The population count. -/
def popCount (n v : Nat) : Nat := (setBitsOf n v).length

/-- Leading zeros of a 64-bit value. -/
def leadingZeros (v : Nat) : Nat := 64 - (if v = 0 then 0 else Nat.log2 v + 1)

/-- Trailing zeros of a 64-bit value. -/
def trailingZeros (v : Nat) : Nat := ((List.range 64).find? (fun i => bit v i)).getD 64

/-- The result of a bit-manipulation operation. -/
def bitOp (op : BitOp) (a b : Word) : Word :=
  let one : Word := 1
  match op with
  | .andn => a &&& ~~~b
  | .orn => a ||| ~~~b
  | .xnor => ~~~(a ^^^ b)
  | .rotl => a.rotateLeft (shiftCount b)
  | .rotr => a.rotateRight (shiftCount b)
  | .clz => BitVec.ofNat 64 (leadingZeros a.toNat)
  | .ctz => BitVec.ofNat 64 (trailingZeros a.toNat)
  | .pop => BitVec.ofNat 64 (popCount 64 a.toNat)
  | .bswap => BitVec.ofNat 64 (ofLE (toLE 8 a.toNat).reverse)
  | .bset => a ||| one <<< shiftCount b
  | .bclr => a &&& ~~~(one <<< shiftCount b)
  | .binv => a ^^^ one <<< shiftCount b
  | .btest => (a >>> shiftCount b) &&& 1
  | .crc32c n => BitVec.ofNat 64 ((toLE (2 ^ n.val) b.toNat).foldl crc32cByte (a.toNat % 2 ^ 32))

/-- Does a branch condition hold? -/
def condHolds (cond : Cond) (a b : Word) : Bool :=
  match cond with
  | .eq => a == b
  | .ne => a != b
  | .lt => decide (a.toInt < b.toInt)
  | .ltU => decide (a.toNat < b.toNat)
  | .ge => decide (b.toInt ≤ a.toInt)
  | .geU => decide (b.toNat ≤ a.toNat)

end Sys2Proof.Machine
end

