-- ==== Sys2Proof/Machine/Operands.lean ====
section
/-!
DEFINITION. The gallery core's operands (spec/11_gallery_core.md): its two register banks (R302), capabilities as bits (R304),
the capability checks of an access in their order (R306), the offset forms of memory operands (R316), local store with
its tags (R308), and the data accesses of the four address spaces (R310 to R313).
-/

namespace Sys2Proof.Machine

/-! ### Registers -/

/-- General register `n` of the bank in use; g0 reads zero (R302). -/
def Gallery.getG (k : Gallery) (n : Nat) : Word := if n = 0 then 0 else look (if k.shadow then k.sg else k.g) n 0

/-- Write general register `n` of the bank in use; a write to g0 is ignored (R302). -/
def Gallery.setG (k : Gallery) (n : Nat) (v : Word) : Gallery :=
  if n = 0 then k else if k.shadow then { k with sg := put k.sg n v } else { k with g := put k.g n v }

/-- Capability register `n` of the bank in use. -/
def Gallery.getC (k : Gallery) (n : Nat) : Cap := look (if k.shadow then k.sc else k.c) n {}

/-- Write capability register `n` of the bank in use. -/
def Gallery.setC (k : Gallery) (n : Nat) (v : Cap) : Gallery :=
  if k.shadow then { k with sc := put k.sc n v } else { k with c := put k.c n v }

/-- A register of the bank not in use (the OTHER registers of R334). -/
def Gallery.otherG (k : Gallery) (n : Nat) : Word := if n = 0 then 0 else look (if k.shadow then k.g else k.sg) n 0
def Gallery.setOtherG (k : Gallery) (n : Nat) (v : Word) : Gallery :=
  if n = 0 then k else if k.shadow then { k with g := put k.g n v } else { k with sg := put k.sg n v }
def Gallery.otherC (k : Gallery) (n : Nat) : Cap := look (if k.shadow then k.c else k.sc) n {}
def Gallery.setOtherC (k : Gallery) (n : Nat) (v : Cap) : Gallery :=
  if k.shadow then { k with c := put k.c n v } else { k with sc := put k.sc n v }

/-- The second operand: a register, or the sign-extended IMM15. -/
def Gallery.regImm (k : Gallery) : RegImm → Word
  | .reg b => k.getG b.toNat
  | .imm v => sext 15 v.toNat

/-! ### Capabilities -/

/-- The 128 bits of a capability (R304). -/
def Cap.toBits (x : Cap) : Nat :=
  (b2n x.rsv) <<< 127 + (x.space % 4) <<< 125 + (x.otype % 4096) <<< 113 + (x.perms % 256) <<< 105 + (x.inst % 256) <<< 97 +
    (x.len % 2 ^ 49) <<< 48 + x.base % 2 ^ 48

/-- The capability that 128 bits and a tag spell. -/
def Cap.ofBits (tag : Bool) (v : Nat) : Cap :=
  { tag := tag, rsv := bit v 127, space := bits v 126 125, otype := bits v 124 113, perms := bits v 112 105,
    inst := bits v 104 97, len := bits v 96 48, base := bits v 47 0 }

/-! Permission bits (R305). -/
namespace Perm
def load : Nat := 0
def store : Nat := 1
def exec : Nat := 2
def loadCap : Nat := 3
def storeCap : Nat := 4
def sealing : Nat := 5
def unsealing : Nat := 6
def system : Nat := 7
end Perm

/-- An exception about to be taken (R320, R322): cause, whether EPC names the next instruction, EADDR, and the fields of
ECAUSE. -/
structure Exc where
  cause : Nat
  next : Bool := false
  eaddr : Nat := 0
  capreg : Nat := 0x3F
  reason : Nat := 0
  perm : Nat := 0
  async : Bool := false
  vector : Bool := false
deriving DecidableEq, Repr

/-! Causes (R320). -/
namespace Cause
def event : Nat := 0x01
def capTag : Nat := 0x02
def capBounds : Nat := 0x03
def capPerm : Nat := 0x04
def capSealed : Nat := 0x05
def translation : Nat := 0x06
def misaligned : Nat := 0x07
def illegal : Nat := 0x08
def overflow : Nat := 0x09
def busError : Nat := 0x0A
def poison : Nat := 0x0B
def brk : Nat := 0x0C
def taskCancel : Nat := 0x0D
def returnUntagged : Nat := 0x0E
def trap (n : Nat) : Nat := 0x20 + n
end Cause

/-- Checks 1 to 5 of R306 for an access of `n` bytes at offset `o` through capability `x`, which stands in register `reg`
(0x3F for PCC), with the permissions in mask `need`. -/
def capCheck (x : Cap) (reg need o n align : Nat) : Option Exc :=
  let a := x.base + o
  if !x.tag then some { cause := Cause.capTag, eaddr := a, capreg := reg }
  else if x.otype ≠ 0 then some { cause := Cause.capSealed, eaddr := a, capreg := reg }
  else if x.perms &&& need ≠ need then
    some { cause := Cause.capPerm, eaddr := a, capreg := reg, perm := need &&& (255 - x.perms % 256) }
  else if x.len < o + n then some { cause := Cause.capBounds, eaddr := a, capreg := reg }
  else if a % align ≠ 0 then some { cause := Cause.misaligned, eaddr := a, capreg := reg }
  else none

/-- The check of an authority capability (R306, R307, R334): tagged, unsealed, and holding the permission. It names no offset, so EADDR is
BASE, and 0 where it is untagged (R320). -/
def authCheck (x : Cap) (reg perm : Nat) : Option Exc :=
  if !x.tag then some { cause := Cause.capTag, capreg := reg }
  else if x.otype ≠ 0 then some { cause := Cause.capSealed, eaddr := x.base, capreg := reg }
  else if !bit x.perms perm then some { cause := Cause.capPerm, eaddr := x.base, capreg := reg, perm := 2 ^ perm }
  else none

/-! ### Memory operands -/

/-- Bytes of a data size (R316). -/
def sizeBytes : MemSize → Nat
  | .b1 => 1
  | .b2 => 2
  | .b4 => 4
  | .b8 => 8

/-- The offset of a memory operand (R316). -/
def Gallery.offset (k : Gallery) : MemOff → Nat
  | .imm o => o.toNat
  | .idx g s => ((k.getG g.toNat) <<< s.toNat).toNat

/-- Local store of physical gallery `p`. -/
def Dev.localRead (d : Dev) (p a n : Nat) : Bytes := d.mem.getN (Key.localStore p a) n

/-- Write local store of physical gallery `p` as data: the granules' tags clear (R308), and so do the errors of the words written whole. -/
def Dev.localWrite (d : Dev) (p a : Nat) (bs : Bytes) : Dev :=
  ({ d with mem := d.mem.setN (Key.localStore p a) bs }).clearTags (Key.localStore p a) bs.length

/-- A write by an engine to the local store of a gallery: the endpoint of a fenced gallery is closed, so nothing is written there (R156). -/
def Dev.engineWrite (d : Dev) (p a : Nat) (bs : Bytes) : Dev := if d.isFenced Blk.gal p then d else d.localWrite p a bs

/-- A port write with an address that is no aligned place of local store gets an error response (log entry 32). -/
def localOk (v align n : Nat) : Bool := v % align == 0 && decide (v + n ≤ Config.localBytes)

/-- Who a gallery's access is made for (R506): logical gallery, RUN_ID and task number from CORE_TASK. -/
def Dev.galleryWho (d : Dev) (p : Nat) : Who :=
  let t := (d.core p).task
  { source := 0, unit := (d.logicalOf p).getD 0xFF, run := ((find d.doc.runs (fld t 50 41)).map (·.runId)).getD 0, task := fld t 20 0 }

/-- The address a staging-window offset reaches (R209, R310): the granted page that holds it. -/
def Gallery.stagingAddr (k : Gallery) (a : Nat) : Option Nat :=
  (k.staging.find? (fun e => decide (e.1 * 4096 ≤ a) && decide (a < e.1 * 4096 + 4096))).map (fun e => e.2 + a % 4096)

/-- A load of `n` bytes at address `a` of the space of capability `x`: the bytes, or the exception; a violation is recorded
(R306 check 6, R311 to R315, R320). -/
def Dev.coreLoad (d : Dev) (c : CoreSt) (p : Nat) (x : Cap) (reg a n : Nat) : Dev × Except Exc Bytes :=
  let bus (r : BusReason) : Exc := { cause := Cause.busError, eaddr := a, capreg := reg, reason := busCode r }
  let poison : Exc := { cause := Cause.poison, eaddr := a, capreg := reg }
  match x.space with
  | 0 =>
    if Config.localBytes < a + n then (d, .error (bus .none))
    else if d.localBad p a n then (d, .error poison)
    else (d, .ok (d.localRead p a n))
  | 1 =>
    match d.load c (d.galleryWho p) x.inst a n with
    | (d, .ok (bs, false)) => (d, .ok bs)
    | (d, .ok (_, true)) => (d, .error poison)
    | (d, .error f) =>
      (d.recordFail c (d.galleryWho p) x.inst false f,
        .error (match f with
          | .viol _ _ _ => { cause := Cause.translation, eaddr := a, capreg := reg }
          | .bus _ r => bus r))
  | 2 => (d, .error (bus .none))
  | _ =>
    match (d.core p).stagingAddr a with
    | none => (d, .error (bus .none))
    | some pa =>
      match d.readPA pa n with
      | .ok bs => (d.acceptRange c false 1 pa n, .ok bs)
      | .poison => (d.acceptRange c false 1 pa n, .error poison)
      | .err r => (d.recordFail c (d.galleryWho p) x.inst false (.bus pa r), .error (bus r))

/-- A posted store to instance space (R312, R313): an untranslatable address raises TRANSLATION; an error response to the write is
held (R321). -/
def Dev.coreStoreInst (d : Dev) (c : CoreSt) (p : Nat) (x : Cap) (reg a : Nat) (bs : Bytes) : Dev × Option Exc :=
  let w := d.galleryWho p
  match d.checkInst w x.inst a bs.length true with
  | some (.viol a' r h) =>
    (d.violation c w x.inst a' (1 + 2 * b2n h) r, some { cause := Cause.translation, eaddr := a, capreg := reg })
  | _ =>
    match d.writeInst c w x.inst a bs with
    | (d, none) => (d, none)
    | (d, some f) =>
      let d := d.recordFail c w x.inst true f
      (d.postError p a (match f with | .bus _ r => busCode r | .viol _ _ _ => 0), none)

end Sys2Proof.Machine
end

