-- ==== Sys2Proof/Machine/Programs.lean ====
section
/-!
DEFINITION. The program image (spec/04_pipeline_programs.md): its header, operators, edges, templates and buffers as records
read out of the bytes, and the checks of R124 but for the parameter blocks (Sys2Proof/Machine/ParamBlocks.lean).
-/

namespace Sys2Proof.Machine

/-- An image is its bytes; the header fields (R100). -/
abbrev Image := Bytes
namespace Image
def imageBytes (i : Image) : Nat := le i 0x08 4
def flags (i : Image) : Nat := le i 0x0C 4
def opCount (i : Image) : Nat := le i 0x10 2
def edgeCount (i : Image) : Nat := le i 0x12 2
def templateCount (i : Image) : Nat := le i 0x14 2
def bufferCount (i : Image) : Nat := le i 0x16 2
def constBytes (i : Image) : Nat := le i 0x18 4
def codeBytes (i : Image) : Nat := le i 0x1C 4
def tag (i : Image) : Nat := le i 0x20 8
def opsOff (i : Image) : Nat := le i 0x28 4
def edgesOff (i : Image) : Nat := le i 0x2C 4
def templatesOff (i : Image) : Nat := le i 0x30 4
def buffersOff (i : Image) : Nat := le i 0x34 4
def constOff (i : Image) : Nat := le i 0x38 4
def codeOff (i : Image) : Nat := le i 0x3C 4
def paramBytes (i : Image) : Nat := le i 0x40 2
def defaultPriority (i : Image) : Nat := le i 0x42 1
def crc (i : Image) : Nat := le i 0x7C 4
end Image

/-- Operator kinds (R104), in the order of their codes. -/
inductive OpKind where
  | filter | gather | compute | partition | hashBuild | hashProbe | catLookup | aggregate | mergeAgg | sortRun | merge | topN
  | writeRows | writeSegments | digest | custom
deriving DecidableEq, Repr

/-- The kind a code names; every other code is reserved. -/
def opKind (code : Nat) : Option OpKind :=
  match code with
  | 0x01 => some .filter
  | 0x02 => some .gather
  | 0x03 => some .compute
  | 0x08 => some .partition
  | 0x10 => some .hashBuild
  | 0x11 => some .hashProbe
  | 0x18 => some .catLookup
  | 0x20 => some .aggregate
  | 0x21 => some .mergeAgg
  | 0x28 => some .sortRun
  | 0x29 => some .merge
  | 0x2A => some .topN
  | 0x30 => some .writeRows
  | 0x31 => some .writeSegments
  | 0x38 => some .digest
  | 0x3F => some .custom
  | _ => none

/-- May the kind carry LEDGER (R104)? -/
def OpKind.ledgerOk : OpKind → Bool
  | .filter | .gather | .partition | .digest | .custom => false
  | _ => true

/-- An operator descriptor (R103). -/
structure Operator where
  kindCode : Nat
  flags : Nat
  round : Nat
  accScale : Nat
  template : Nat
  inCount : Nat
  outCount : Nat
  inBuf : List Nat
  outBuf : List Nat
  paramOff : Nat
  paramBytes : Nat
deriving DecidableEq, Repr

/-- Operator `n`. -/
def Image.op (i : Image) (n : Nat) : Operator :=
  let b := slice i (i.opsOff + 128 * n) 128
  { kindCode := le b 0 1, flags := le b 1 1, round := le b 2 1, accScale := le b 3 1, template := le b 4 2,
    inCount := le b 6 1, outCount := le b 7 1,
    inBuf := (List.range 4).map (fun k => le b (8 + 2 * k) 2), outBuf := (List.range 4).map (fun k => le b (0x10 + 2 * k) 2),
    paramOff := le b 0x18 4, paramBytes := le b 0x1C 4 }

/-- All operators, in index order. -/
def Image.ops (i : Image) : List Operator := (List.range i.opCount).map i.op

/-- LEDGER and OVF_TRAP (R103). -/
def Operator.ledger (o : Operator) : Bool := bit o.flags 0
def Operator.ovfTrap (o : Operator) : Bool := bit o.flags 1

/-- An edge (R111): FAN 0 FUSED, 1 STREAM, 2 ALL, 3 ONE_TO_ONE. -/
structure Edge where
  src : Nat
  dst : Nat
  srcPort : Nat
  dstPort : Nat
  fan : Nat
deriving DecidableEq, Repr

/-- Edge `n`, and all edges. -/
def Image.edge (i : Image) (n : Nat) : Edge :=
  let b := slice i (i.edgesOff + 8 * n) 8
  { src := le b 0 2, dst := le b 2 2, srcPort := le b 4 1, dstPort := le b 5 1, fan := le b 6 1 }
def Image.edges (i : Image) : List Edge := (List.range i.edgeCount).map i.edge

/-- A task template (R119). -/
structure Template where
  split : Nat
  priority : Nat
  flags : Nat
  grain : Nat
  driver : Nat
  localBytes : Nat
  atriumBytes : Nat
  codeEntry : Nat
deriving DecidableEq, Repr

/-- Template `n`, and all templates. -/
def Image.template (i : Image) (n : Nat) : Template :=
  let b := slice i (i.templatesOff + 32 * n) 32
  { split := le b 0 1, priority := le b 1 1, flags := le b 2 2, grain := le b 4 4, driver := le b 8 2,
    localBytes := le b 0xC 4, atriumBytes := le b 0x10 4, codeEntry := le b 0x14 4 }
def Image.templates (i : Image) : List Template := (List.range i.templateCount).map i.template

/-- A buffer (R114): KIND 0 TABLE, 1 DICTIONARY, 2 SCRATCH, 3 RESULT, 4 HOST, 5 CONSTANT. -/
structure Buffer where
  kind : Nat
  place : Nat
  access : Nat
  bind : Nat
  slot : Nat
  columns : Nat
  address : Nat
  length : Nat
  rowGroups : Nat
  dictId : Nat
deriving DecidableEq, Repr

/-- Buffer `n`, and all buffers. -/
def Image.buffer (i : Image) (n : Nat) : Buffer :=
  let b := slice i (i.buffersOff + 32 * n) 32
  { kind := le b 0 1, place := le b 1 1, access := le b 2 1, bind := le b 3 1, slot := le b 4 1, columns := le b 5 1,
    address := le b 8 8, length := le b 0x10 8, rowGroups := le b 0x18 4, dictId := le b 0x1C 4 }
def Image.buffers (i : Image) : List Buffer := (List.range i.bufferCount).map i.buffer

/-- Address and length of a buffer under a run's parameter block (R114). -/
def Buffer.bound (b : Buffer) (params : Bytes) : Nat × Nat :=
  if b.bind = 1 then (le params (16 * b.slot) 8, le params (16 * b.slot + 8) 8) else (b.address, b.length)

/-! ### The checks of R124, in table order -/

/-- MAGIC, VERSION, HEADER_BYTES and the range of IMAGE_BYTES (R100). -/
def Image.headerOk (i : Image) : Bool :=
  le i 0 4 == 0x47525058 && le i 4 2 == 1 && le i 6 2 == 128 && decide (128 ≤ i.imageBytes) && decide (i.imageBytes ≤ 16777216)

/-- IMAGE_CRC (R102). -/
def Image.crcOk (i : Image) : Bool := crc32c (patch (i.take i.imageBytes) 0x7C [0, 0, 0, 0]) == i.crc

/-- The present and absent sections: offset and size (R101). -/
def Image.sections (i : Image) : List (Nat × Nat) :=
  [(i.opsOff, 128 * i.opCount), (i.edgesOff, 8 * i.edgeCount), (i.templatesOff, 32 * i.templateCount),
   (i.buffersOff, 32 * i.bufferCount), (i.constOff, i.constBytes), (i.codeOff, i.codeBytes)]

/-- Do two present sections overlap? -/
def overlap (a b : Nat × Nat) : Bool := decide (a.1 < b.1 + b.2) && decide (b.1 < a.1 + a.2)

/-- No element of a list stands in a relation with a later one. -/
def noPair {α : Type} (r : α → α → Bool) : List α → Bool
  | [] => true
  | x :: xs => xs.all (fun y => !r x y) && noPair r xs

/-- Counts, ranges and section placement (R100, R101). -/
def Image.layoutOk (i : Image) : Bool :=
  decide (1 ≤ i.opCount) && decide (i.opCount ≤ 1024) && decide (i.edgeCount ≤ 4096) && decide (1 ≤ i.templateCount) &&
  decide (i.templateCount ≤ 1024) && decide (1 ≤ i.bufferCount) && decide (i.bufferCount ≤ 256) &&
  decide (i.paramBytes ≤ 4096) && i.paramBytes % 16 == 0 && decide (i.defaultPriority ≤ 7) &&
  i.sections.all (fun s => if s.2 = 0 then s.1 == 0
    else s.1 % 16 == 0 && decide (128 ≤ s.1) && decide (s.1 + s.2 ≤ i.imageBytes)) &&
  noPair overlap (i.sections.filter (fun s => s.2 != 0))

/-- Does a FUSED or STREAM edge feed input port `k` of operator `n`? -/
def Image.fedBy (i : Image) (n k : Nat) : List Edge :=
  i.edges.filter (fun e => e.dst == n && e.dstPort == k && decide (e.fan ≤ 1))

/-- One operator (R103, R104, R110); ROUND takes the modes 0 to 2 of R91. -/
def Image.opOk (i : Image) (n : Nat) : Bool :=
  let o := i.op n
  match opKind o.kindCode with
  | none => false
  | some k =>
    decide (o.round ≤ 2) &&
    (if k == .aggregate || k == .mergeAgg then decide (o.accScale ≤ 38) else o.accScale == 0) &&
    decide (o.template < i.templateCount) && decide (o.inCount ≤ 4) && decide (o.outCount ≤ 4) &&
    (List.range o.inCount).all (fun p =>
      let b := o.inBuf.getD p 0xFFFF
      if (i.fedBy n p).isEmpty then b == 0xFFFF || decide (b < i.bufferCount) else b == 0xFFFF) &&
    (List.range o.outCount).all (fun p => let b := o.outBuf.getD p 0xFFFF; b == 0xFFFF || decide (b < i.bufferCount)) &&
    (!o.ledger || k.ledgerOk)

/-- Every operator, and HAS_LEDGER. -/
def Image.opsOk (i : Image) : Bool :=
  (List.range i.opCount).all i.opOk && bit i.flags 0 == i.ops.any Operator.ledger

/-- One edge (R111, R112). -/
def Image.edgeOk (i : Image) (e : Edge) : Bool :=
  let a := i.op e.src
  let b := i.op e.dst
  decide (e.src < e.dst) && decide (e.dst < i.opCount) && decide (e.fan ≤ 3) &&
  (if e.fan ≤ 1 then decide (e.srcPort < a.outCount) && decide (e.dstPort < b.inCount) else true) &&
  (match e.fan with
   | 0 => a.template == b.template
   | 1 => opKind a.kindCode == some .partition && a.template != b.template
   | _ => a.template != b.template)

/-- The operators reached from `seen` over FUSED edges, either way. -/
def Image.fusedReach (i : Image) : Nat → List Nat → List Nat
  | 0, seen => seen
  | fuel + 1, seen =>
    let new := i.edges.filterMap (fun e =>
      if e.fan ≠ 0 then none
      else if seen.contains e.src && !seen.contains e.dst then some e.dst
      else if seen.contains e.dst && !seen.contains e.src then some e.src else none)
    match new with
    | [] => seen
    | x :: _ => i.fusedReach fuel (x :: seen)

/-- The operators of a template, in index order. -/
def Image.group (i : Image) (t : Nat) : List Nat := (List.range i.opCount).filter (fun n => (i.op n).template == t)

/-- A fused group (R113). -/
def Image.groupOk (i : Image) (t : Nat) : Bool :=
  match i.group t with
  | [] => true
  | n :: rest =>
    let seen := i.fusedReach i.opCount [n]
    rest.all (fun m => seen.contains m && (i.op m).ledger == (i.op n).ledger)

/-- Remove templates without a predecessor until none is left that has one: an acyclic graph empties (R592). -/
def Image.acyclicFrom (i : Image) : Nat → List Nat → Bool
  | 0, ts => ts.isEmpty
  | fuel + 1, ts =>
    let ready := ts.filter (fun t => !i.edges.any (fun e =>
      e.fan != 0 && (i.op e.dst).template == t && ts.contains (i.op e.src).template))
    if ready.isEmpty then ts.isEmpty else i.acyclicFrom fuel (ts.filter (fun t => !ready.contains t))

/-- Edges by R111 to R113 and R592. -/
def Image.edgesOk (i : Image) : Bool :=
  i.edges.all i.edgeOk &&
  (List.range i.opCount).all (fun n => (List.range 4).all (fun p => decide ((i.fedBy n p).length ≤ 1))) &&
  (List.range i.templateCount).all i.groupOk && i.acyclicFrom i.templateCount (List.range i.templateCount)

/-- One template (R119). -/
def Image.templateOk (i : Image) (t : Nat) : Bool :=
  let x := i.template t
  let custom := (i.group t).any (fun n => opKind (i.op n).kindCode == some .custom)
  decide (x.split ≤ 3) && (decide (x.priority ≤ 7) || x.priority == 0xFF) &&
  (if x.split = 0 then x.grain == 0 else decide (1 ≤ x.grain)) &&
  (x.split != 1 || (decide (x.driver < i.bufferCount) && (i.buffer x.driver).kind == 0)) &&
  decide (x.localBytes ≤ 1572864) &&
  (if custom then decide (x.codeEntry < i.codeBytes) else x.codeEntry == 0xFFFFFFFF)

/-- One buffer (R114, R115). ACCESS 1 is LOAD, 2 STORE, 3 both. The range of a CONSTANT with BIND 1 is known at its run. -/
def Image.bufferOk (i : Image) (n : Nat) : Bool :=
  let b := i.buffer n
  let acc := b.access % 4
  decide (b.place ≤ 4) && decide (b.bind ≤ 1) &&
  (b.bind != 1 || b.kind == 2 || b.kind == 3 || decide (b.slot < i.paramBytes / 16)) &&
  (if b.kind = 0 then decide (1 ≤ b.columns) && decide (b.columns ≤ 64) else b.columns == 0 && b.rowGroups == 0) &&
  (if b.kind = 1 then decide (1 ≤ b.dictId) else b.dictId == 0) &&
  (match b.kind with
   | 0 | 1 => decide (b.place ≤ 2) && acc == 1
   | 2 => decide (b.place ≤ 3) && acc == 3
   | 3 => decide (b.place ≤ 2) && acc == 3
   | 4 => b.place == 4 && acc != 0
   | 5 => acc == 1 && (b.bind == 1 || decide (b.address + b.length ≤ i.constBytes))
   | _ => false)

/-- Templates by R119, buffers by R114 to R116, and the access their ports need. -/
def Image.tablesOk (i : Image) : Bool :=
  (List.range i.templateCount).all i.templateOk && (List.range i.bufferCount).all i.bufferOk &&
  noPair (fun (a b : Buffer) => a.kind == 1 && b.kind == 1 && a.dictId == b.dictId) i.buffers &&
  i.ops.all (fun o =>
    (o.inBuf.take o.inCount).all (fun b => b == 0xFFFF || bit (i.buffer b).access 0) &&
    (o.outBuf.take o.outCount).all (fun b => b == 0xFFFF || bit (i.buffer b).access 1))

/-! ### Expansion (R120 to R122) -/

/-- Is the group of template `t` a LEDGER group? -/
def Image.ledgerGroup (i : Image) (t : Nat) : Bool := (i.group t).any (fun n => (i.op n).ledger)

/-- Logical tasks of a template (R120). -/
def Image.logicalTasks (i : Image) (t : Nat) : Nat :=
  let x := i.template t
  match x.split with
  | 0 => 1
  | 1 => ceilDiv (i.buffer x.driver).rowGroups x.grain
  | _ => x.grain

/-- Contexts of a template: two for each logical task of a LEDGER group. -/
def Image.templateContexts (i : Image) (t : Nat) : Nat := i.logicalTasks t * (if i.ledgerGroup t then 2 else 1)

/-- The number of the first task of template `t` (R121), and the contexts of a whole run. -/
def Image.firstTask (i : Image) (t : Nat) : Nat := total ((List.range t).map i.templateContexts)
def Image.contexts (i : Image) : Nat := i.firstTask i.templateCount

/-- The template and the position in it of task number `n`. -/
def Image.taskPlace (i : Image) (n : Nat) : Nat × Nat :=
  let t := ((List.range i.templateCount).filter (fun t => decide (i.firstTask t ≤ n) && decide (0 < i.templateContexts t))).getLast?.getD 0
  (t, n - i.firstTask t)

/-- The dependence counter a task starts with (R122). -/
def Image.startCounter (i : Image) (t : Nat) : Nat :=
  total (i.edges.map (fun e =>
    if (i.op e.dst).template ≠ t then 0
    else if e.fan = 2 then i.logicalTasks (i.op e.src).template
    else if e.fan = 3 then 1 else 0))

/-- The task numbers that one completion of logical task `l` of template `t` decrements, once for each edge, in template order and
task-number order (R137): R121 numbers the templates' tasks in template order. -/
def Image.successors (i : Image) (t l : Nat) : List Nat :=
  sortNat (i.edges.flatMap (fun e =>
    let u := (i.op e.dst).template
    let k := if i.ledgerGroup u then 2 else 1
    if (i.op e.src).template ≠ t then []
    else if e.fan = 2 then (List.range (i.templateContexts u)).map (· + i.firstTask u)
    else if e.fan = 3 then (List.range k).map (fun c => i.firstTask u + k * l + c) else []))

/-- Templates that produce rows on a STREAM edge for template `t` (R147). -/
def Image.streamProducers (i : Image) (t : Nat) : List Nat :=
  i.edges.filterMap (fun e => if e.fan = 1 ∧ (i.op e.dst).template = t then some (i.op e.src).template else none)

/-- The RESULT buffers of a program, and its SCRATCH buffers that are not in local store (R115). -/
def Image.results (i : Image) : List Nat := (List.range i.bufferCount).filter (fun b => (i.buffer b).kind == 3)
def Image.scratches (i : Image) : List Nat :=
  (List.range i.bufferCount).filter (fun b => (i.buffer b).kind == 2 && (i.buffer b).place != 3)

end Sys2Proof.Machine
end

