-- ==== Sys2Proof/Machine/Runs.lean ====
section
/-!
DEFINITION. What several engines ask about a run: its program image in the Atrium store (R126), the operators and STREAM edges of
a task's group, the states of its tasks, and what an instance holds of its share (R499).
-/

namespace Sys2Proof.Machine

/-- The parameter block of an operator (R103). -/
def Image.param (i : Image) (o : Operator) : Bytes := slice i (i.constOff + o.paramOff) o.paramBytes

/-- The program of an instance's slot. -/
def Dev.program (d : Dev) (inst slot : Nat) : Option Program := find d.doc.programs (64 * inst + slot)

/-- An image as it stands in the Atrium store. -/
def Dev.image (d : Dev) (inst slot : Nat) : Option Image := (d.program inst slot).map (fun p => d.mem.getN (Key.atrium p.addr) p.bytes)

/-- A run by its handle. -/
def Dev.run (d : Dev) (h : Nat) : Option Run := find d.doc.runs h
def Dev.setRun (d : Dev) (h : Nat) (r : Run) : Dev := { d with doc := { d.doc with runs := put d.doc.runs h r } }

/-- A run's image. -/
def Dev.runImage (d : Dev) (h : Nat) : Option Image := (d.run h).bind (fun r => d.image r.inst r.slot)

/-- The STREAM edges of a program, in edge order: the rank of one is its place here. -/
def Image.streams (i : Image) : List Edge := i.edges.filter (fun e => e.fan == 1)

/-- The PARTITION operator of a template's group, and the STREAM edge it feeds, with its rank (R200). -/
def Image.partition (i : Image) (t : Nat) : Option (Operator × Nat) :=
  match (i.group t).find? (fun n => opKind (i.op n).kindCode == some .partition) with
  | none => none
  | some n => ((List.range i.streams.length).find? (fun k => (i.streams[k]?.map (fun e => e.src)) == some n)).map (fun k => (i.op n, k))

/-- The STREAM edge, by rank, that feeds an input port of a template's group; the first in edge order (log entry 35). -/
def Image.streamInto (i : Image) (t port : Nat) : Option Nat :=
  (List.range i.streams.length).find? (fun k => match i.streams[k]? with
    | some e => (i.op e.dst).template == t && e.dstPort == port
    | none => false)

/-- The task numbers of a template. -/
def Image.templateTasks (i : Image) (t : Nat) : List Nat := (List.range (i.templateContexts t)).map (· + i.firstTask t)

/-- The task numbers of one logical task. -/
def Image.copies (i : Image) (t l : Nat) : List Nat :=
  let k := if i.ledgerGroup t then 2 else 1
  (List.range k).map (fun c => i.firstTask t + k * l + c)

/-- Fields of CORE_TASK (R334). -/
def ctInst (w : Word) : Nat := fld w 63 56
def ctAttempt (w : Word) : Nat := fld w 55 53
def ctCopy (w : Word) : Nat := fld w 52 51
def ctRun (w : Word) : Nat := fld w 50 41
def ctNum (w : Word) : Nat := fld w 20 0

/-- The template of the task that a CORE_TASK names, its run's image, and its logical index. -/
def Dev.taskOf (d : Dev) (w : Word) : Option (Image × Nat × Nat) :=
  (d.runImage (ctRun w)).map (fun i =>
    let (t, k) := i.taskPlace (ctNum w)
    (i, t, if i.ledgerGroup t then k / 2 else k))

/-- Does a device physical address lie in an annex set? -/
def Dev.inAnnex (d : Dev) (pa : Nat) : Bool :=
  (List.range 16).any (fun n =>
    let s := d.memSet n
    s.enable && s.role == 0 && s.annex && decide (s.base ≤ pa) && decide (pa < s.base + s.size))

/-- Pages of a staging pool in use: pool, device address, instance (R204). -/
def Dev.poolPages (d : Dev) : List (Nat × Nat × Nat) :=
  let p (x : ExcPage) : Nat × Nat × Nat := (x.pool, x.addr, x.inst)
  d.exc.chains.map p ++ d.exc.lists.flatMap (fun (e : Nat × List ExcPage) => e.2.map p) ++
    d.exc.spill.map (fun (s : Nat × Nat × Nat × Nat) => (s.2.1, s.2.2.2, s.2.2.1)) ++
    d.exc.heads.map (fun (h : Nat × Nat × Nat × Nat × Nat) => (h.2.2.1, h.2.2.2.2, h.2.2.2.1))

/-- The device-allocated buffers: device address, bytes, instance (R115, R132). -/
def Dev.heldBuffers (d : Dev) : List (Nat × Nat × Nat) :=
  d.doc.runs.flatMap (fun (e : Nat × Run) => (e.2.scratch ++ e.2.results).map (fun (b : Nat × Nat × Nat) => (b.2.1, b.2.2, e.2.inst)))

/-- Bytes an instance holds of its archive (or annex) memory share: SCRATCH, RESULT, staging pages (R499). -/
def Dev.memUsed (d : Dev) (inst : Nat) (annex : Bool) : Nat :=
  total ((d.heldBuffers.filter (fun (a : Nat × Nat × Nat) => a.2.2 == inst && decide (0x4000000 ≤ a.1) && d.inAnnex a.1 == annex)).map
    (fun a => a.2.1)) +
    4096 * (d.poolPages.filter (fun (p : Nat × Nat × Nat) => p.2.2 == inst && (p.1 == 1) == annex)).length

/-- The share's limit in bytes. -/
def Dev.memQuota (d : Dev) (inst : Nat) (annex : Bool) : Nat :=
  let s := (d.inst inst).share
  1048576 * (if annex then s.annexMib else s.stackMib)

/-- The tasks an instance runs: logical gallery, run handle, task key (R145). -/
def Dev.running (d : Dev) (inst : Nat) : List (Nat × Nat × Nat) :=
  (d.doc.task.filter (fun (t : Nat × Nat × Nat) => match d.run t.2.1 with | some r => r.inst == inst | none => false))

/-- The template of a task that runs. -/
def Dev.templateOf (d : Dev) (h key : Nat) : Option Template :=
  match d.run h, d.runImage h with
  | some r, some i => (find r.tasks key).map (fun t => i.template t.template)
  | _, _ => none

/-- Local-store bytes of an instance's running tasks (R499). -/
def Dev.localUsed (d : Dev) (inst : Nat) : Nat :=
  total ((d.running inst).map (fun (t : Nat × Nat × Nat) => match d.templateOf t.2.1 t.2.2 with | some x => x.localBytes | none => 0))

/-- Atrium store bytes an instance holds: program images, ATRIUM_BYTES of running tasks, and buffers placed there (R499). -/
def Dev.atriumUsed (d : Dev) (inst : Nat) : Nat :=
  total ((d.doc.programs.filter (fun (p : Nat × Program) => p.1 / 64 == inst)).map (fun p => p.2.bytes)) +
  total ((d.running inst).map (fun (t : Nat × Nat × Nat) => match d.templateOf t.2.1 t.2.2 with | some x => x.atriumBytes | none => 0)) +
  total ((d.heldBuffers.filter (fun (a : Nat × Nat × Nat) => a.2.2 == inst && decide (a.1 < 0x4000000))).map (fun a => a.2.1))

/-- Drop the retained results of an instance (R132, R133). -/
def Dev.dropRetained (d : Dev) (inst : Nat) : Dev :=
  { d with doc := { d.doc with runs := d.doc.runs.filter (fun (e : Nat × Run) => !(e.2.ended && e.2.inst == inst)) } }

end Sys2Proof.Machine
end

