-- ==== Sys2Proof/Machine/Catalogue.lean ====
section
/-!
DEFINITION. The Catalogue (spec/09_catalogue.md): search groups and sets, the intake and its batches, passes and gaps, the update
operations gap by gap, refills and disables, gallery searches and CATALOGUE_BATCH.
-/

namespace Sys2Proof.Machine

/-! ### Groups and sets (R252, R254, R255) -/

/-- The key of a set. -/
def catKey (owner set : Nat) : Nat := owner * 64 + set

/-- Units of a WIDTH code; entries of a bank; entries moved in one gap. -/
def catUnits (code : Nat) : Nat := 2 ^ code
def bankEntries (w : Nat) : Nat := 262144 / w
def gapEntries (w : Nat) : Nat := 64 / w

/-- A set, where it exists, and setting one. -/
def Dev.catSet (d : Dev) (k : Nat) : Option CatSet := find d.cat.sets k
def Dev.setCatSet (d : Dev) (k : Nat) (s : CatSet) : Dev := { d with cat := { d.cat with sets := put d.cat.sets k s } }
/-- Entries that a group of the set holds. -/
def CatSet.capacity (s : CatSet) : Nat := s.banks * bankEntries s.width

/-- The enabled groups of a set, by number; those READY. -/
def Dev.catGroups (d : Dev) (k : Nat) : List Nat :=
  sortNat (keys (d.cat.grp.filter (fun (e : Nat × CatGrp) => catKey e.2.owner e.2.set == k)))
def Dev.catReady (d : Dev) (k : Nat) : List Nat :=
  (d.catGroups k).filter (fun n => (find d.cat.grp n).map (fun (g : CatGrp) => g.st) == some .ready)

/-- Is a refill of a set in progress? -/
def Dev.catRefilling (d : Dev) (k : Nat) : Bool :=
  (d.catGroups k).any (fun n => match find d.cat.grp n with
    | some g => (match g.st with | .refill _ => true | _ => false)
    | none => false)

/-- Set a group. -/
def Dev.setGrp (d : Dev) (n : Nat) (g : CatGrp) : Dev := { d with cat := { d.cat with grp := put d.cat.grp n g } }

/-- Banks that an owner's groups hold. -/
def Dev.catBanksOf (d : Dev) (owner : Nat) : Nat :=
  total ((d.cat.grp.filter (fun (e : Nat × CatGrp) => e.2.owner == owner)).map (fun e => e.2.banks))

/-- Why R254 refuses a definition: owner, set, WIDTH code, banks and first bank of group `n`. -/
def Dev.catRefused (d : Dev) (n owner set code banks first : Nat) : Bool :=
  let k := catKey owner set
  code == 3 || banks == 0 || decide (128 < first + banks) || (find d.cat.grp n).isSome ||
  d.cat.grp.any (fun (e : Nat × CatGrp) => overlap (e.2.first, e.2.banks) (first, banks)) ||
  (List.range banks).any (fun b => d.isFenced Blk.cat (first + b)) ||
  decide ((d.inst owner).share.catBanks < d.catBanksOf owner + banks) ||
  (match d.catSet k with
   | some s => s.width != catUnits code || s.banks != banks || (decide (0 < s.count) && (d.catReady k).isEmpty)
   | none => false)

/-- A write of CAT_GROUP[n] that sets ENABLE. -/
def Dev.catEnable (d : Dev) (n : Nat) (v : Word) : Dev :=
  if d.flag (R.catGroup n) 63 then d
  else
    let owner := fld v 55 48
    let set := fld v 41 36
    let code := fld v 33 32
    let banks := fld v 15 8
    let first := fld v 6 0
    let k := catKey owner set
    if d.catRefused n owner set code banks first then d.setFlag R.catStatus 2 true
    else
      let d := d.writeReg (R.catGroup n) v
      let fill := match d.catSet k with | some s => (decide (0 < s.count) || !s.upd.isEmpty) && !(d.catReady k).isEmpty | none => false
      let d := if (d.catSet k).isSome then d else d.setCatSet k { width := catUnits code, banks := banks }
      d.setGrp n { owner := owner, set := set, first := first, banks := banks, st := if fill then .refill 0 else .ready }

/-- A write of CAT_GROUP[n] with ENABLE 0: it asks for a disable, or, where the group is not enabled, stores the fields. -/
def Dev.catDisable (d : Dev) (n : Nat) (v : Word) : Dev :=
  match find d.cat.grp n with
  | none => d.writeReg (R.catGroup n) v
  | some g => (d.setFlag (R.catGroup n) 63 false).setGrp n { g with disabling := true }

/-- CAT_GROUP_ENABLE and CAT_GROUP_DISABLE: register writes with ENABLE 1 or 0. -/
def execCatGroupEnable (src : Source) (n : BitVec 7) (v : BitVec 63) (s : State) : Host.Outcome State Fault Refusal :=
  s.onDev (fun c d => if d.isManager c src then d.catEnable n.toNat (BitVec.ofNat 64 (2 ^ 63 + v.toNat)) else d)
def execCatGroupDisable (src : Source) (n : BitVec 7) (v : BitVec 63) (s : State) : Host.Outcome State Fault Refusal :=
  s.onDev (fun c d => if d.isManager c src then d.catDisable n.toNat (BitVec.ofNat 64 v.toNat) else d)

/-- Take a group away; with the last group of its set the set no longer exists (R277). -/
def Dev.dropGrp (d : Dev) (n : Nat) (g : CatGrp) : Dev :=
  let k := catKey g.owner g.set
  let d := { d with cat := { d.cat with grp := del d.cat.grp n } }
  if (d.catGroups k).isEmpty then { d with cat := { d.cat with sets := del d.cat.sets k } } else d

/-- CAT_REFILL_DONE: the gap that ends a refill makes the group READY: every unit its banks need has been copied, 64 a gap. -/
def execCatRefillDone (n : BitVec 7) (s : State) : Host.Outcome State Fault Refusal :=
  s.onDev (fun _ d =>
    match find d.cat.grp n.toNat with
    | none => d
    | some g =>
      match g.st, d.catSet (catKey g.owner g.set) with
      | .refill gaps, some x =>
        if ceilDiv (min x.count (bankEntries x.width) * x.width) 64 ≤ gaps && !(d.catReady (catKey g.owner g.set)).isEmpty then
          (d.setGrp n.toNat { g with st := .ready }).count R.catCntMove (x.count * x.width)
        else d
      | _, _ => d)

/-! ### Matching (R251 to R253) -/

/-- Does an entry match a key? -/
def CatEntry.hits (e : CatEntry) (key : Nat) : Bool := e.valid && (key ^^^ e.key) &&& e.care == 0

/-- The ranks of the entries that match, rising. -/
def CatSet.matches (s : CatSet) (key : Nat) : List Nat :=
  sortNat (keys (s.entries.filter (fun (e : Nat × CatEntry) => e.2.hits key)))

/-- A result head: STATUS, FLAGS, RANK, COUNT. -/
def catHead (status flags rank count : Nat) : Bytes := toLE 2 status ++ toLE 1 flags ++ toLE 1 0 ++ toLE 4 rank ++ toLE 4 count ++ toLE 4 0

/-- FIRST payload bytes of a width. -/
def firstBytes (w : Nat) : Nat := if w = 4 then 32 else 16

/-- A search record. -/
def CatSet.record (s : CatSet) (key : Nat) (all : Bool) : Bytes :=
  let ms := s.matches key
  let rank := ms.headD 0xFFFFFFFF
  let payload := if all then ((ms.take 64) ++ List.replicate (64 - ms.length) 0xFFFFFFFF).flatMap (toLE 4)
    else toLE (firstBytes s.width) (match ms.head?.bind (find s.entries) with | some e => e.data | none => 0)
  catHead 0 (b2n (1 ≤ ms.length) + 2 * b2n (2 ≤ ms.length)) rank ms.length ++ payload

/-- The record of a search that no READY group could serve (R277): STATUS 0x0401 and FLAGS 0; the rest as with no match. -/
def lostRecord (w : Nat) (all : Bool) : Bytes :=
  catHead 0x0401 0 0xFFFFFFFF 0 ++ List.replicate (if all then 256 else firstBytes w) (if all then 0xFF else 0)

/-! ### Results (R269, R272, R273, R275) -/

/-- The Catalogue's accesses to an instance's memory (R506: SOURCE 5). -/
def catWho : Who := { source := 5, unit := 0xFF }

/-- Bytes of a result slot. -/
def strideBytes (code : Nat) : Nat := [16, 64, 128, 320].getD code 16

/-- A job. -/
def Dev.catJob (d : Dev) (i q cid : Nat) : Option CatJob := d.cat.jobs.find? (fun (j : CatJob) => j.inst == i && j.pair == q && j.cid == cid)
def Dev.setJob (d : Dev) (j : CatJob) : Dev :=
  { d with cat := { d.cat with jobs := d.cat.jobs.map (fun (x : CatJob) =>
      if x.inst == j.inst && x.pair == j.pair && x.cid == j.cid then j else x) } }

/-- A failing record: the first in record order counts. -/
def CatJob.fail (j : CatJob) (idx st : Nat) : CatJob :=
  match j.failed with
  | some (i, _) => if i ≤ idx then j else { j with failed := some (idx, st) }
  | none => { j with failed := some (idx, st) }

/-- Complete a job whose records are all done, or which stopped at a failure. -/
def Dev.catSettle (d : Dev) (c : CoreSt) (j : CatJob) : Dev :=
  if j.out.isEmpty && (decide (j.count ≤ j.next) || (j.stop && j.failed.isSome)) then
    let st := match j.failed with
      | some (_, st) => st
      | none => if j.excess || j.clipped then 1 else 0
    let d := { d with cat := { d.cat with jobs := d.cat.jobs.erase j } }
    d.complete c j.inst j.pair j.cid j.performed st
  else d.setJob j

/-- Operation `idx` of a job is done: its result is written, cut at the stride. -/
def Dev.catResult (d : Dev) (c : CoreSt) (i q cid idx status : Nat) (bs : Bytes) : Dev :=
  match d.catJob i q cid with
  | none => d
  | some j =>
    let n := strideBytes j.stride
    let clip := decide (n < bs.length)
    let bs := if clip then patch (bs.take n) 2 (toLE 1 (le bs 2 1 ||| 4)) else bs
    let (d, f) := d.writeInst c { catWho with job := cmdJob i q cid } i (j.results + idx * n) bs
    let d := match f with | some f => d.recordFail c catWho i true f | none => d
    let j := { j with out := j.out.filter (fun (o : Nat × Nat × Bool) => o.1 != idx), performed := j.performed + 1, clipped := j.clipped || clip }
    d.catSettle c (if 0x100 ≤ status then j.fail idx status else j)

/-- Record sizes in a gallery's result area. -/
def recordBytes (w : Nat) (all : Bool) : Nat := if all then 272 else 16 + firstBytes w

/-- Deliver the record of a key: to a gallery, with the done word after its last record; or to a job. -/
def Dev.catDeliver (d : Dev) (c : CoreSt) (k : CatKey) (status : Nat) (bs : Bytes) : Dev :=
  match k.src with
  | .job i q cid idx => d.catResult c i q cid idx status bs
  | .gal id idx =>
    match d.cat.reqs.find? (fun (r : CatReq) => r.id == id) with
    | none => d
    | some r =>
      let d := d.engineWrite r.gal (r.result + idx * bs.length) bs
      if r.left ≤ 1 then
        let d := { d with cat := { d.cat with reqs := d.cat.reqs.filter (fun (x : CatReq) => x.id != id) } }
        d.engineWrite r.gal r.done (toLE 2 0 ++ toLE 1 r.tag ++ toLE 1 1 ++ toLE 4 0)
      else { d with cat := { d.cat with reqs := d.cat.reqs.map (fun (x : CatReq) => if x.id == id then { x with left := x.left - 1 } else x) } }

/-- Deliver keys that no READY group can serve. -/
def Dev.catLost (d : Dev) (c : CoreSt) (w : Nat) (ks : List CatKey) : Dev :=
  each ks (fun (k : CatKey) (d : Dev) => d.catDeliver c k 0x0401 (lostRecord w k.all)) d

/-! ### The intake (R256, R269) -/

/-- Put keys into a set's intake; a set without a READY group answers 0x0401 at once (R277). -/
def Dev.catIntake (d : Dev) (c : CoreSt) (k : Nat) (ks : List CatKey) : Dev :=
  if (d.catReady k).isEmpty then d.catLost c ((d.catSet k).map (fun (s : CatSet) => s.width) |>.getD 1) ks
  else { d with cat := { d.cat with intake := upd d.cat.intake k [] (fun xs => xs ++ ks) } }

/-- The done word of a request that is turned away. -/
def Dev.catRefuse (d : Dev) (p done tag status : Nat) : Dev :=
  if done + 8 ≤ Config.localBytes then d.engineWrite p done (toLE 2 status ++ toLE 1 tag ++ toLE 1 1 ++ toLE 4 0) else d

/-- Take in a SEARCH request of gallery `p`; an address that is not aligned as R269 says is refused as a reserved value (log entry
32). -/
def Dev.catSearch (d : Dev) (c : CoreSt) (p req : Nat) : Dev :=
  let b := toLE 16 req
  let keyA := le b 0 4
  let resA := le b 4 4
  let done := le b 8 4
  let n := le b 0xC 1
  let set := le b 0xD 1
  let mode := le b 0xE 1
  let tag := le b 0xF 1
  let k := catKey (ctInst (d.core p).task) set
  match (if decide (set < 64) then d.catSet k else none) with
  | none => d.catRefuse p done tag 0x0201
  | some s =>
    if n = 0 ∨ 64 < n ∨ 2 ≤ mode ∨ keyA % 16 ≠ 0 ∨ resA % 16 ≠ 0 ∨ done % 8 ≠ 0 then d.catRefuse p done tag 0x0201
    else if Config.localBytes < keyA + 8 * s.width * n ∨ Config.localBytes < resA + recordBytes s.width (mode == 1) * n ∨
        Config.localBytes < done + 8 then d.catRefuse p done tag 0x0302
    else
      let id := d.cat.nextReq
      let r : CatReq := { id := id, gal := p, result := resA, done := done, tag := tag, left := n }
      let d := { d with cat := { d.cat with reqs := d.cat.reqs ++ [r], nextReq := id + 1 } }
      d.catIntake c k ((List.range n).map (fun j =>
        { src := .gal id j, key := ofLE (d.localRead p (keyA + 8 * s.width * j) (8 * s.width)), all := mode == 1, time := c.time.toNat }))

/-- A SEARCH write: with 16 requests outstanding its response waits until one finishes. -/
def Dev.catPort (d : Dev) (c : CoreSt) (p req : Nat) : Dev :=
  if 16 ≤ (d.cat.reqs.filter (fun (r : CatReq) => r.gal == p)).length ∨ d.cat.held.any (fun (h : Nat × Nat) => h.1 == p) then
    { d with cat := { d.cat with held := d.cat.held ++ [(p, req)] } }
  else d.catSearch c p req

/-- Take in the SEARCH writes that waited and now have a place. -/
def Dev.catUnhold (d : Dev) (c : CoreSt) : Dev :=
  let hs := d.cat.held
  each hs (fun (h : Nat × Nat) (d : Dev) => d.catPort c h.1 h.2) { d with cat := { d.cat with held := [] } }

/-- CAT_SEARCH_PORT: a gallery's 16-byte write. -/
def execCatSearchPort (p : Fin 136) (req : BitVec 128) (s : State) : Host.Outcome State Fault Refusal :=
  s.onDev (fun c d => d.catPort c p.val req.toNat)

/-- The READY group of a set with the fewest queued batches, where one has room. -/
def Dev.catPick (d : Dev) (k : Nat) : Option Nat :=
  let load (n : Nat) : Nat := match find d.cat.grp n with | some g => g.queue.length | none => 16
  best (fun a b => decide (load a < load b)) ((d.catReady k).filter (fun n => decide (load n < 16)))

/-- Queue a batch to group `n`. -/
def Dev.catEnqueue (d : Dev) (n : Nat) (ks : List CatKey) : Dev :=
  match find d.cat.grp n with
  | some g => d.setGrp n { g with queue := g.queue ++ [ks] }
  | none => d

/-- Send batches of a set again, as far as a READY group has room (R277); with none READY their records carry 0x0401. -/
def Dev.catResend (d : Dev) (c : CoreSt) (k : Nat) : List (List CatKey) → Dev
  | [] => { d with cat := { d.cat with resend := del d.cat.resend k } }
  | ks :: rest =>
    if (d.catReady k).isEmpty then (d.catLost c ((d.catSet k).map (fun (s : CatSet) => s.width) |>.getD 1) ks).catResend c k rest
    else match d.catPick k with
      | some n => ((d.count R.catCntResend).catEnqueue n ks).catResend c k rest
      | none => { d with cat := { d.cat with resend := put d.cat.resend k (ks :: rest) } }

/-- CAT_BATCH_CLOSE: the set's first keys become a batch: 64 of them, or all once the oldest has waited BATCH_WAIT_NS. -/
def execCatBatchClose (owner : BitVec 8) (set : Fin 64) (s : State) : Host.Outcome State Fault Refusal :=
  s.onDev (fun c d =>
    let k := catKey owner.toNat set.val
    let ks := look d.cat.intake k []
    match ks, d.catPick k with
    | x :: _, some n =>
      if 64 ≤ ks.length ∨ x.time + d.getF R.catCtrl 31 16 ≤ c.time.toNat then
        ({ d with cat := { d.cat with intake := put d.cat.intake k (ks.drop 64) } }).catEnqueue n (ks.take 64)
      else d
    | _, _ => d)

/-! ### Updates, gap by gap (R260 to R262) -/

/-- The head that ends an update (R253, R272): RANK and COUNT, and FLAGS as COUNT gives them. The RANK of an update that writes and removes none, and
the COUNT of one whose set has none, are free (log entry 1). -/
def Dev.updHead (d : Dev) (status : Nat) (rank : Option Nat) (count : Option Nat) : Dev × Bytes :=
  let (f, d) := d.draw
  let (g, d) := d.draw
  let n := count.getD (fld g 31 0)
  (d, catHead status (b2n (1 ≤ n) + 2 * b2n (2 ≤ n)) (rank.getD (fld f 63 32)) n)

/-- An update is done or has failed: its result is written. -/
def Dev.updDone (d : Dev) (c : CoreSt) (u : CatUpd) (status : Nat) (rank count : Option Nat) : Dev :=
  let (d, bs) := d.updHead status rank count
  let d := if status = 0 then d.count R.catCntUpdate else d
  match u.src with
  | .job i q cid idx => d.catResult c i q cid idx status bs
  | .gal _ _ => d

/-- Why the first update of a set cannot be performed (R260): the rank is checked first. -/
def CatSet.refuses (s : CatSet) (u : CatUpd) : Option Nat :=
  match u.op with
  | 0x10 => if s.count < s.capacity then none else some 0x0501
  | 0x11 => if s.count < u.rank then some 0x0201 else if s.count < s.capacity then none else some 0x0501
  | 0x15 => none
  | _ => if u.rank < s.count then none else some 0x0201

/-- How many APPENDs at the front of the queue share a gap. -/
def appendRun (c : Nat) : List CatUpd → Nat
  | [] => 0
  | u :: us => if c = 0 ∨ u.op ≠ 0x10 then 0 else 1 + appendRun (c - 1) us

/-- Put an entry, VALID clear, or make it valid, or clear VALID alone. -/
def CatSet.write (s : CatSet) (r : Nat) (e : CatEntry) : CatSet := { s with entries := put s.entries r { e with valid := false } }
def CatSet.validate (s : CatSet) (r : Nat) : CatSet :=
  match find s.entries r with
  | some e => { s with entries := put s.entries r { e with valid := true } }
  | none => s
def CatSet.clear (s : CatSet) (r : Nat) : CatSet :=
  match find s.entries r with
  | some e => { s with entries := put s.entries r { e with valid := false } }
  | none => s

/-- Copy the entry at rank `a` to rank `b`, VALID included. -/
def CatSet.copy (s : CatSet) (a b : Nat) : CatSet :=
  match find s.entries a with
  | some e => { s with entries := put s.entries b e }
  | none => s.clear b

/-- One gap of a shift up: the up to c entries below the hole, not below rank `r`, move one rank up. -/
def CatSet.shiftUp (s : CatSet) (hole r : Nat) : CatSet × Nat :=
  let n := min (gapEntries s.width) (hole - r)
  let s := each (List.range n) (fun j (s : CatSet) => s.copy (hole - 1 - j) (hole - j)) s
  (s.clear (hole - n), n)

/-- One gap of a shift down. -/
def CatSet.shiftDown (s : CatSet) (hole last : Nat) : CatSet × Nat :=
  let n := min (gapEntries s.width) (last - hole)
  let s := each (List.range n) (fun j (s : CatSet) => s.copy (hole + 1 + j) (hole + j)) s
  (s.clear (hole + n), n)

/-- What one gap does to a set: the set, the updates done with the rank each names, and entries moved. -/
structure GapRes where
  set : CatSet
  done : List (CatUpd × Nat) := []
  moved : Nat := 0

/-- Write the run of APPENDs at the front of the queue, VALID clear. -/
def CatSet.writeAppends (s : CatSet) : CatSet :=
  let n := min (appendRun (gapEntries s.width) s.upd) (s.capacity - s.count)
  let s := each (List.range n) (fun j (s : CatSet) => match s.upd[j]? with
    | some u => s.write (s.count + j) u.entry
    | none => s) s
  { s with prog := if n = 0 then .idle else .append n }

/-- The front update is done. -/
def CatSet.finish (s : CatSet) : CatSet := { s with upd := s.upd.drop 1, prog := .idle }

/-- The next step of the front update `u`, which R260 allows or which has begun. -/
def CatSet.step (s : CatSet) (u : CatUpd) : GapRes :=
  let r := u.rank
  match s.prog with
  | .append n =>
    let s2 := each (List.range n) (fun j (t : CatSet) => t.validate (s.count + j)) s
    let done := (List.range n).filterMap (fun j => (s.upd[j]?).map (fun u => (u, s.count + j)))
    { set := { s2 with count := s.count + n, upd := s.upd.drop n, prog := .idle }.writeAppends, done := done }
  | .up hole =>
    if hole = r then { set := { s.write r u.entry with prog := .written } }
    else let (t, n) := s.shiftUp hole r; { set := { t with prog := .up (hole - n) }, moved := n }
  | .down hole last =>
    let (t, n) := s.shiftDown hole last
    if hole + n = last then { set := t.finish, done := [(u, r)], moved := n } else { set := { t with prog := .down (hole + n) last }, moved := n }
  | .cleared => { set := { s.write r u.entry with prog := .written } }
  | .written =>
    let t := s.validate r
    { set := { t with count := if u.op = 0x11 then t.count + 1 else t.count }.finish, done := [(u, r)] }
  | .idle =>
    match u.op with
    | 0x10 => { set := s.writeAppends }
    | 0x11 =>
      if s.count = r then { set := { s.write r u.entry with prog := .written } }
      else let (t, n) := s.shiftUp s.count r; { set := { t with prog := .up (s.count - n) }, moved := n }
    | 0x12 => { set := { s.clear r with prog := .cleared } }
    | 0x13 =>
      let t := { s.clear r with count := s.count - 1 }
      if r + 1 = s.count then { set := t.finish, done := [(u, r)] } else { set := { t with prog := .down r (s.count - 1) } }
    | _ => { set := { s with entries := [], count := 0 }.finish, done := [(u, 0)] }

/-- The gap of one set: updates that R260 refuses end at once; the first that it allows takes one step. During a refill the set's
updates are held; without a READY group they fail (R264, R277). -/
def Dev.catGap (d : Dev) (c : CoreSt) (k : Nat) : Nat → Dev
  | 0 => d
  | fuel + 1 =>
    match d.catSet k with
    | none => d
    | some s =>
      match s.upd with
      | [] => d
      | u :: _ =>
        if (d.catReady k).isEmpty then
          ((d.setCatSet k { s with upd := s.upd.drop 1, prog := .idle }).updDone c u 0x0401 none none).catGap c k fuel
        else if d.catRefilling k then d
        else
          match (if s.prog = .idle then s.refuses u else none) with
          | some st => ((d.setCatSet k s.finish).updDone c u st none (some s.count)).catGap c k fuel
          | none =>
            let g := s.step u
            let d := (d.setCatSet k g.set).count R.catCntMove (g.moved * s.width * (d.catReady k).length)
            each g.done (fun (e : CatUpd × Nat) (d : Dev) =>
              d.updDone c e.1 0 (if e.1.op = 0x15 then none else some e.2) (some g.set.count)) d

/-! ### Passes (R257, R258) -/

/-- Run the first batch of group `n` on the set as it stood at the last gap. -/
def Dev.catPass (d : Dev) (c : CoreSt) (n : Nat) : Dev :=
  match find d.cat.grp n with
  | none => d
  | some g =>
    match g.st, g.queue, d.catSet (catKey g.owner g.set) with
    | .ready, ks :: rest, some s =>
      let d := ((d.setGrp n { g with queue := rest }).count R.catCntBatch).count R.catCntSearch ks.length
      each ks (fun (k : CatKey) (d : Dev) => d.catDeliver c k 0 (s.record k.key k.all)) d
    | _, _, _ => d

/-- The record that a job performs next, where it may perform one and the record and its slot can be reached; a violation, of a read or a write. -/
def Dev.catRecord (d : Dev) (j : CatJob) : Option (Except (AccFail × Bool) Bytes) :=
  if j.count ≤ j.next ∨ (j.stop ∧ (j.failed.isSome ∨ !j.out.isEmpty)) then none
  else
    let n := strideBytes j.stride
    match d.readInst catWho j.inst (j.ops + 128 * j.next) 128, d.checkInst catWho j.inst (j.results + n * j.next) n true with
    | .error f, _ => some (.error (f, false))
    | _, some f => some (.error (f, true))
    | .ok (bs, _), none => some (.ok bs)

/-- Operation codes of R271. -/
def catOpOk (op : Nat) : Bool := op == 1 || op == 2 || (decide (0x10 ≤ op) && decide (op ≤ 0x15))

/-- Records that cannot be performed fail by themselves: outside the mappings, or with an unassigned OP. -/
def Dev.catSkip (d : Dev) (c : CoreSt) (i q cid : Nat) : Nat → Dev
  | 0 => d
  | fuel + 1 =>
    match d.catJob i q cid with
    | none => d
    | some j =>
      match d.catRecord j with
      | none => d.catSettle c j
      | some (.error (f, write)) =>
        let d := d.recordFail c catWho i write f
        (d.catSettle c ({ j with next := j.next + 1 }.fail j.next f.status)).catSkip c i q cid fuel
      | some (.ok bs) =>
        if catOpOk (le bs 0 1) then d
        else
          let (d, head) := d.updHead 0x0203 none none
          let j := { j with next := j.next + 1, out := j.out ++ [(j.next, 256, false)] }
          ((d.setJob j).catResult c i q cid (j.next - 1) 0x0203 head).catSkip c i q cid fuel

/-- CAT_PASS_SLOT: in one slot every READY group runs one queued batch, then every set has its gap, and every refill copies on. -/
def execCatPassSlot (s : State) : Host.Outcome State Fault Refusal :=
  s.onDev (fun c d =>
    let d := each (sortNat (keys d.cat.grp)) (fun n (d : Dev) => d.catPass c n) d
    let refilling := keys (d.cat.grp.filter (fun (e : Nat × CatGrp) => match e.2.st with | .refill _ => true | _ => false))
    let d := each (sortNat (keys d.cat.sets)) (fun k (d : Dev) => d.catGap c k (1 + ((d.catSet k).map (fun (s : CatSet) => s.upd.length)).getD 0)) d
    let d := each (keys d.cat.resend) (fun k (d : Dev) => d.catResend c k (look d.cat.resend k [])) d
    let d := each refilling (fun n (d : Dev) => match find d.cat.grp n with
      | some g => (match g.st with | .refill m => d.setGrp n { g with st := .refill (m + 1) } | _ => d)
      | none => d) d
    let d := each d.cat.jobs (fun (j : CatJob) (d : Dev) => d.catSkip c j.inst j.pair j.cid (j.count + 1)) d
    d.catUnhold c)

/-! ### CATALOGUE_BATCH (R270 to R275) -/

/-- CATALOGUE_BATCH's opcode. -/
def isCatOp (op : Nat) : Bool := op == 0x20

/-- CATALOGUE_BATCH: its checks; its records are performed by the operations that follow. -/
def execCatalogueBatch (ref : CmdRef) (s : State) : Host.Outcome State Fault Refusal :=
  s.onDev (fun c d =>
    match d.take ref 0x20 isCatOp with
    | none => d
    | some x =>
      let d := d.startCmd x.inst x.pair x.cid
      let n := le x.area 0x10 4
      let bytes := le x.area 0x14 4
      if n = 0 ∨ 65536 < n ∨ 3 < le x.area 0x18 1 then d.finish c x 0 0x0201
      else if bytes < 128 * n then d.finish c x 0 0x0200
      else
        let j : CatJob :=
          { inst := x.inst
            pair := x.pair
            cid := x.cid
            ops := le x.area 0 8
            results := le x.area 8 8
            count := n
            stride := le x.area 0x18 1
            stop := bit (le x.area 0x19 1) 0
            excess := decide (128 * n < bytes) }
        ({ d with cat := { d.cat with jobs := d.cat.jobs ++ [j] } }).catSkip c x.inst x.pair x.cid (n + 1))

/-- READ (R260, R272): the entry as it stands at the last gap. -/
def Dev.catRead (d : Dev) (c : CoreSt) (j : CatJob) (k : Nat) (s : CatSet) (idx rank : Nat) : Dev :=
  if (d.catReady k).isEmpty then
    let (d, bs) := d.updHead 0x0401 none none
    d.catResult c j.inst j.pair j.cid idx 0x0401 bs
  else if s.count ≤ rank then
    let (d, bs) := d.updHead 0x0201 none (some s.count)
    d.catResult c j.inst j.pair j.cid idx 0x0201 bs
  else
    let (d, bs) := d.updHead 0 (some rank) (some s.count)
    let e := look s.entries rank { valid := false, key := 0, care := 0, data := 0 }
    (d.count R.catCntUpdate).catResult c j.inst j.pair j.cid idx 0 (bs ++ toLE 32 e.key ++ toLE 32 e.care ++ toLE 32 e.data)

/-- Perform the next record of a job, where its OP is `op` and R274 lets it start: updates wait for the job's earlier searches of that
set, searches and READs for its earlier updates. -/
def catOp (ref : CmdRef) (op : Nat) (s : State) : Host.Outcome State Fault Refusal :=
  s.onDev (fun c d =>
    match d.catJob ref.inst.toNat ref.pair.val ref.cid.toNat with
    | none => d
    | some j =>
      match d.catRecord j with
      | some (.ok bs) =>
        let set := le bs 1 1
        let search := op == 1 || op == 2 || op == 0x14
        if le bs 0 1 ≠ op ∨ j.out.any (fun (o : Nat × Nat × Bool) => o.2.1 == set && o.2.2 != search) then d
        else
          let idx := j.next
          let j := { j with next := idx + 1, out := j.out ++ [(idx, set, search)] }
          let d := d.setJob j
          let k := catKey j.inst set
          let d := match (if set < 64 then d.catSet k else none) with
            | none =>
              let (d, head) := d.updHead 0x0201 none none
              d.catResult c j.inst j.pair j.cid idx 0x0201 head
            | some x =>
              let w := x.width
              let src : CatSrc := .job j.inst j.pair j.cid idx
              if op = 1 ∨ op = 2 then
                d.catIntake c k [{ src := src, key := le bs 0x10 (8 * w), all := op == 2, time := c.time.toNat }]
              else if op = 0x14 then d.catRead c j k x idx (le bs 4 4)
              else
                let e : CatEntry := { valid := true, key := le bs 0x10 (8 * w), care := le bs 0x30 (8 * w), data := le bs 0x50 (8 * w - 1) }
                let u : CatUpd := { src := src, op := op, rank := le bs 4 4, entry := e }
                if (d.catReady k).isEmpty then d.updDone c u 0x0401 none none
                else d.setCatSet k { x with upd := x.upd ++ [u] }
          d.catSkip c j.inst j.pair j.cid (j.count + 1)
      | _ => d)

/-- SEARCH_FIRST (R253). -/
def execSearchFirst (ref : CmdRef) (s : State) : Host.Outcome State Fault Refusal := catOp ref 0x01 s
/-- SEARCH_ALL (R253). -/
def execSearchAll (ref : CmdRef) (s : State) : Host.Outcome State Fault Refusal := catOp ref 0x02 s
/-- APPEND (R260). -/
def execAppend (ref : CmdRef) (s : State) : Host.Outcome State Fault Refusal := catOp ref 0x10 s
/-- INSERT (R261). -/
def execInsert (ref : CmdRef) (s : State) : Host.Outcome State Fault Refusal := catOp ref 0x11 s
/-- WRITE (R260). -/
def execCatWrite (ref : CmdRef) (s : State) : Host.Outcome State Fault Refusal := catOp ref 0x12 s
/-- DELETE (R262). -/
def execDelete (ref : CmdRef) (s : State) : Host.Outcome State Fault Refusal := catOp ref 0x13 s
/-- READ (R260). -/
def execCatRead (ref : CmdRef) (s : State) : Host.Outcome State Fault Refusal := catOp ref 0x14 s
/-- CLEAR (R260). -/
def execClear (ref : CmdRef) (s : State) : Host.Outcome State Fault Refusal := catOp ref 0x15 s

/-! ### Faults (R277) -/

/-- What waits at a set without a READY group ends with 0x0401: keys of the intake, batches to be sent again, and updates (R277). -/
def Dev.catStrand (d : Dev) (c : CoreSt) (k : Nat) : Dev :=
  if (d.catReady k).isEmpty then
    let w := (d.catSet k).map (fun (s : CatSet) => s.width) |>.getD 1
    let ks := look d.cat.intake k []
    let d := ({ d with cat := { d.cat with intake := del d.cat.intake k } }).catLost c w ks
    let d := d.catResend c k (look d.cat.resend k [])
    d.catGap c k (((d.catSet k).map (fun (s : CatSet) => s.upd.length)).getD 0 + 1)
  else d

/-- An uncorrectable error in a unit of bank `b`: its group fails; its batches go to other READY groups, or answer 0x0401. With none READY left what
waits fails, and a failure in a gap loses the set's contents. The report and the fence are the Conservator's. -/
def Dev.catBankFail (d : Dev) (c : CoreSt) (b unit : Nat) (inGap : Bool) : Dev :=
  match d.cat.grp.find? (fun (e : Nat × CatGrp) => decide (e.2.first ≤ b) && decide (b < e.2.first + e.2.banks)) with
  | none => d
  | some (n, g) =>
    let v := 0x0401 <<< 48 + g.owner <<< 40 + (b2n inGap) <<< 39 + b <<< 32 + n <<< 24 + unit
    let d := (d.setReg R.catFault (BitVec.ofNat 64 v)).setGrp n { g with st := .failed, queue := [] }
    let k := catKey g.owner g.set
    let d := d.catResend c k (g.queue ++ look d.cat.resend k [])
    let d := if inGap && (d.catReady k).isEmpty then
        match d.catSet k with
        | some s => d.setCatSet k { s with entries := [], count := 0 }
        | none => d
      else d
    d.catStrand c k

/-! ### Disabling (R264) -/

/-- CAT_DISABLE_EFFECT: a pending disable takes effect once the group's queue is empty and no update of its set is in progress. What waits at a set
that then has no READY group fails (log entry 65). -/
def execCatDisableEffect (n : BitVec 7) (s : State) : Host.Outcome State Fault Refusal :=
  s.onDev (fun c d =>
    match find d.cat.grp n.toNat with
    | none => d
    | some g =>
      let k := catKey g.owner g.set
      let busy := match d.catSet k with | some x => x.prog != .idle | none => false
      if g.disabling && g.queue.isEmpty && !busy then
        ({ d with cat := { d.cat with grp := del d.cat.grp n.toNat } }.catStrand c k).dropGrp n.toNat g
      else d)

end Sys2Proof.Machine
end

