-- ==== Sys2Proof/Machine/Dma.lean ====
section
/-!
DEFINITION. The DMA channels (spec/16_dma.md): the five ports, chains, the checks before a descriptor's first write, overlap and move
semantics, transfers, completion records, aborts, task notices, and the allotment of channels.
-/

namespace Sys2Proof.Machine

/-! ### A descriptor's fields (R438) -/

namespace DmaChain
def fill (x : DmaChain) : Bool := le x.bytes 0 1 == 2
def flags (x : DmaChain) : Nat := le x.bytes 1 1
def event (x : DmaChain) : Bool := bit x.flags 0
def linkValid (x : DmaChain) : Bool := bit x.flags 1
def srcCirc (x : DmaChain) : Bool := bit x.flags 3 && !x.fill
def dstCirc (x : DmaChain) : Bool := bit x.flags 4
def srcSpace (x : DmaChain) : Nat := bits (le x.bytes 2 1) 1 0
def dstSpace (x : DmaChain) : Nat := bits (le x.bytes 2 1) 3 2
def descTag (x : DmaChain) : Nat := le x.bytes 4 2
def srcAddr (x : DmaChain) : Nat := le x.bytes 8 8
def dstAddr (x : DmaChain) : Nat := le x.bytes 0x10 8
def length (x : DmaChain) : Nat := le x.bytes 0x18 8
def srcCount (x : DmaChain) : Nat := if x.fill then 0 else le x.bytes 0x20 2
def dstCount (x : DmaChain) : Nat := le x.bytes 0x22 2
def srcRing (x : DmaChain) : Nat := le x.bytes 0x24 1
def dstRing (x : DmaChain) : Nat := le x.bytes 0x25 1
def next (x : DmaChain) : Nat := le x.bytes 0x30 8
def inst (x : DmaChain) : Nat := ctInst x.task
/-- Who its accesses are made for (R506: SOURCE 3). -/
def who (ch : Nat) (d : Dev) (x : DmaChain) : Who :=
  { source := 3, unit := ch, run := ((d.run (ctRun x.task)).map (fun r => r.runId)).getD 0, task := ctNum x.task, job := x.gal * 65536 + x.tag }
def isReady (x : DmaChain) : Bool := x.st == .ready
def isMoving (x : DmaChain) : Bool := match x.st with | .running r => r.ended.isNone | _ => false
def isEnded (x : DmaChain) : Bool := match x.st with | .running r => r.ended.isSome | _ => false
end DmaChain

/-- The chains of a channel. -/
def Dev.dmaChains (d : Dev) (ch : Nat) : List DmaChain := look d.dma.chan ch []

/-! ### Allotment (R436, R452) -/

/-- The instance channels an instance owns and has not been withdrawn from. -/
def Dev.dmaOwned (d : Dev) (i : Nat) : List Nat :=
  (sortNat (keys d.dma.owner)).filter (fun ch => find d.dma.owner ch == some i && !d.dma.withdrawn.contains ch)

/-- A withdrawn channel that holds no chain has no owner any more. -/
def Dev.dmaFreeEmpty (d : Dev) : Dev :=
  let gone := d.dma.withdrawn.filter (fun ch => (d.dmaChains ch).isEmpty)
  { d with dma := { d.dma with
    owner := d.dma.owner.filter (fun (e : Nat × Nat) => !gone.contains e.1)
    withdrawn := d.dma.withdrawn.filter (fun ch => !gone.contains ch) } }

/-- Bring every instance to the channels its share allots: the highest it owns are withdrawn, the lowest without an owner are taken
(log entry 36). -/
def Dev.dmaBalance (d : Dev) : Dev :=
  let overrun := (List.range 256).flatMap (fun i => (d.dmaOwned i).drop (d.inst i).share.dmaChannels)
  let d := ({ d with dma := { d.dma with withdrawn := d.dma.withdrawn ++ overrun } }).dmaFreeEmpty
  each (List.range 256) (fun i (d : Dev) =>
    let want := (d.inst i).share.dmaChannels - (d.dmaOwned i).length
    let free := ((List.range 56).map (· + 8)).filter (fun ch => (find d.dma.owner ch).isNone)
    { d with dma := { d.dma with owner := d.dma.owner ++ (free.take want).map (fun ch => (ch, i)) } }) d

/-- Set a channel's chains; a withdrawn channel that became empty passes on. -/
def Dev.setDma (d : Dev) (ch : Nat) (xs : List DmaChain) : Dev :=
  let d := { d with dma := { d.dma with chan := put d.dma.chan ch xs } }
  if xs.isEmpty && d.dma.withdrawn.contains ch then d.dmaFreeEmpty.dmaBalance else d

/-! ### The completion queue (R446, R447) -/

/-- The record of a descriptor. -/
def dmaRecord (status flags tag ch bytes residue time : Nat) : Bytes :=
  toLE 2 status ++ toLE 2 flags ++ toLE 2 tag ++ toLE 1 ch ++ toLE 1 0 ++ toLE 8 bytes ++ toLE 8 residue ++ toLE 8 time

/-- May a record be posted to a gallery's queue? -/
def Dev.cqFree (d : Dev) (p : Nat) : Bool :=
  match find d.dma.cq p with
  | some q => decide (q.posted + 1 < q.size)
  | none => false

/-- Post a record at the tail of a gallery's queue; `mk` makes it from PHASE. -/
def Dev.cqPost (d : Dev) (p : Nat) (mk : Nat → Bytes) : Dev :=
  match find d.dma.cq p with
  | none => d
  | some q =>
    let d := d.engineWrite p (q.base + 32 * q.tail) (mk (b2n q.phase))
    let wrap := decide (q.size ≤ q.tail + 1)
    let q := { q with tail := if wrap then 0 else q.tail + 1, posted := q.posted + 1, phase := if wrap then !q.phase else q.phase }
    { d with dma := { d.dma with cq := put d.dma.cq p q } }

/-- CQ_CFG; true: an error response. -/
def Dev.cqCfg (d : Dev) (p v : Nat) : Dev × Bool :=
  let n := 2 ^ bits v 27 24
  let base := bits v 20 0
  let busy := d.dma.chan.any (fun (e : Nat × List DmaChain) => e.2.any (fun (x : DmaChain) => x.gal == p))
  if busy || !(decide (4 ≤ bits v 27 24) && decide (bits v 27 24 ≤ 10)) || base % (32 * n) != 0 then (d, true)
  else ({ d with dma := { d.dma with cq := put d.dma.cq p { base := base, size := n } } }, false)

/-- CQ_HEAD. -/
def Dev.cqHead (d : Dev) (p v : Nat) : Dev :=
  match find d.dma.cq p with
  | none => d.setFlag R.dmaStatus 2 true
  | some q =>
    let h := bits v 15 0
    let n := (h + q.size - q.head) % q.size
    if q.size ≤ h ∨ q.posted < n then d.setFlag R.dmaStatus 2 true
    else { d with dma := { d.dma with cq := put d.dma.cq p { q with head := h, posted := q.posted - n } } }

/-! ### The ports (R443 to R445, R450) -/

/-- SUBMIT; true: an error response. -/
def Dev.dmaSubmit (d : Dev) (c : CoreSt) (p v : Nat) : Dev × Bool :=
  if !localOk v 64 64 || (find d.dma.cq p).isNone then (d, true)
  else
    let bs := d.localRead p v 64
    let task := (d.core p).task
    let owned := (d.dmaOwned (ctInst task)).filter (fun ch => !d.isFenced Blk.dma ch)
    let x : DmaChain := { gal := p, task := task, tag := le bs 4 2, addr := v }
    match best (fun a b => decide ((d.dmaChains a).length < (d.dmaChains b).length))
        (owned.filter (fun ch => decide ((d.dmaChains ch).length < 16))) with
    | some ch => (d.setDma ch (d.dmaChains ch ++ [x]), false)
    | none =>
      let d := d.count R.dmaCntBusy
      if d.cqFree p then
        let (f, d) := d.draw
        let st := if owned.isEmpty then 0x0501 else 0x0500
        (d.cqPost p (fun ph => dmaRecord st ph (le bs 4 2) (f.toNat % 64) 0 0 c.time.toNat), false)
      else (d, true)

/-- The channel and chain that a gallery's TAG names. -/
def Dev.dmaFind (d : Dev) (p tag : Nat) : Option (Nat × DmaChain) :=
  (List.range 64).findSome? (fun ch => ((d.dmaChains ch).find? (fun (x : DmaChain) => x.gal == p && x.tag == tag)).map (fun x => (ch, x)))

/-- Replace the chain of a gallery and TAG on a channel, or take it off. -/
def Dev.dmaUpdate (d : Dev) (ch p tag : Nat) (y : Option DmaChain) : Dev :=
  d.setDma ch (updFirst (fun (x : DmaChain) => x.gal == p && x.tag == tag) (fun _ => y) (d.dmaChains ch))

/-- The chain at its next descriptor; none where it names no place in local store (log entry 32). -/
def DmaChain.goTo (x : DmaChain) (n : Nat) : Option DmaChain :=
  if localOk n 64 64 then some { x with addr := n, st := .ready, bytes := [], append := false } else none

/-- APPEND. -/
def Dev.dmaAppend (d : Dev) (p v : Nat) : Dev :=
  match d.dmaFind p (bits v 15 0) with
  | none => d
  | some (ch, x) =>
    let tail := d.localRead p x.addr 64
    d.dmaUpdate ch p x.tag
      (if x.st == .parked then (if bit (le tail 1 1) 1 then x.goTo (le tail 0x30 8) else some x) else some { x with append := true })

/-- ABORT: the record that still has to be posted carries the outcome, and the chain ends with it. -/
def Dev.dmaAbort (d : Dev) (p v : Nat) : Dev :=
  match d.dmaFind p (bits v 15 0) with
  | none => d
  | some (ch, x) =>
    match x.st with
    | .running r =>
      let st := match r.ended with
        | some st => if 0x100 ≤ st then st else if d.awaits (x.who ch d) then 0x0100 else 0x0002
        | none => 0x0100
      d.dmaUpdate ch p x.tag (some { x with st := .running { r with ended := some st, last := true } })
    | _ => d.dmaUpdate ch p x.tag none

/-- DMA_SUBMIT, DMA_APPEND, DMA_ABORT, CQ_CFG, CQ_HEAD: a gallery's port writes. -/
def execDmaSubmit (p : Fin 136) (v : BitVec 64) (s : State) : Host.Outcome State Fault Refusal :=
  s.onDev (fun c d =>
    match d.dmaSubmit c p.val v.toNat with
    | (d, true) => d.postError p.val 0x70000 0
    | (d, false) => d)
def execDmaAppend (p : Fin 136) (v : BitVec 64) (s : State) : Host.Outcome State Fault Refusal :=
  s.onDev (fun _ d => d.dmaAppend p.val v.toNat)
def execDmaAbort (p : Fin 136) (v : BitVec 64) (s : State) : Host.Outcome State Fault Refusal :=
  s.onDev (fun _ d => d.dmaAbort p.val v.toNat)
def execCqCfg (p : Fin 136) (v : BitVec 64) (s : State) : Host.Outcome State Fault Refusal :=
  s.onDev (fun _ d =>
    match d.cqCfg p.val v.toNat with
    | (d, true) => d.postError p.val 0x70018 0
    | (d, false) => d)
def execCqHead (p : Fin 136) (v : BitVec 64) (s : State) : Host.Outcome State Fault Refusal :=
  s.onDev (fun _ d => d.cqHead p.val v.toNat)

/-! ### The start of a descriptor (R439 to R442) -/

/-- Read bytes of an end's space. -/
def Dev.dmaRead (d : Dev) (c : CoreSt) (w : Who) (inst p space a n : Nat) : Dev × Except AccFail (Bytes × Bool) :=
  match space with
  | 0 => d.load c w inst a n
  | 1 => (d, if a + n ≤ Config.localBytes then .ok (d.localRead p a n, d.localBad p a n) else .error (.viol a 0 false))
  | _ =>
    match d.readPA a n with
    | .ok bs => (d.acceptRange c false 1 a n, .ok (bs, false))
    | .poison => (d.acceptRange c false 1 a n, .ok (List.replicate n 0, true))
    | .err r => (d, .error (.bus a r))

/-- Write bytes of an end's space; the endpoint of a fenced gallery is closed (R156). -/
def Dev.dmaWrite (d : Dev) (c : CoreSt) (w : Who) (inst p space a : Nat) (bs : Bytes) : Dev × Option AccFail :=
  match space with
  | 0 => d.writeInst c w inst a bs
  | 1 =>
    if d.isFenced Blk.gal p then (d, some (.bus a .none))
    else if a + bs.length ≤ Config.localBytes then (d.localWrite p a bs, none) else (d, some (.viol a 0 false))
  | _ =>
    let (d, r) := (d.acceptRange c true 1 a bs.length).writePA { w with va := a } a bs
    (d, r.map (AccFail.bus a))

/-- The two ranges of a ring (R439). -/
def ringSegs (addr log n : Nat) : List (Nat × Nat) :=
  let base := addr - addr % 2 ^ log
  takeSegs n [(addr, 2 ^ log - addr % 2 ^ log), (base, 2 ^ log)]

/-- Does a list entry lie in its end's space (R437, R440)? -/
def inSpace (space : Nat) (g : Nat × Nat) : Bool :=
  match space with
  | 0 => decide (g.1 + g.2 ≤ 2 ^ 48)
  | 1 => decide (g.1 + g.2 ≤ Config.localBytes)
  | _ => true

/-- The segments of an end that name its D bytes, and whether a list held more. An address of the list outside its space comes before a total
below D (R441, log entry 149). -/
def Dev.dmaEnd (d : Dev) (c : CoreSt) (w : Who) (inst p space addr count n : Nat) (ring : Option Nat) :
    Dev × Except (Nat × Option AccFail) (List (Nat × Nat) × Bool) :=
  match ring with
  | some log => (d, .ok (ringSegs addr log n, false))
  | none =>
    if count = 0 then (d, .ok ([(addr, n)], false))
    else match d.dmaRead c w inst p space addr (16 * count) with
      | (d, .error f) => (d, .error (f.status, some f))
      | (d, .ok (_, true)) => (d, .error (0x0401, none))
      | (d, .ok (bs, false)) =>
        let es := (List.range count).map (fun k => (le bs (16 * k) 8, le bs (16 * k + 8) 8))
        let sum := total (es.map (fun e => e.2))
        let segs := takeSegs n es
        (d, match segs.find? (fun g => !inSpace space g) with
          | some g => .error (0x0302, some (.viol g.1 0 false))
          | none => if sum < n then .error (0x0200, none) else .ok (segs, decide (n < sum)))

/-- The place of a list end's failure in R441's table: a list address outside its space, poison, a total below D. -/
def endRank (st : Nat) : Nat := if st = 0x0200 then 2 else if st = 0x0401 then 1 else 0

/-- Both ends of a descriptor, or the failure that stands first in R441's table, the source's before the destination's in one row. -/
def bothEnds {α : Type} (src dst : Except (Nat × Option AccFail) α) : Except (Nat × Option AccFail) (α × α) :=
  match src, dst with
  | .ok a, .ok b => .ok (a, b)
  | .error e, .ok _ => .error e
  | .ok _, .error f => .error f
  | .error e, .error f => .error (if endRank f.1 < endRank e.1 then f else e)

/-- The checks of R441 in their order. -/
def Dev.dmaCheck (d : Dev) (c : CoreSt) (ch : Nat) (x : DmaChain) : Dev × Except (Nat × Option AccFail) DmaRun :=
  let w := x.who ch d
  let n := x.length
  let ringOk (circ : Bool) (log count : Nat) : Bool :=
    if circ then decide (12 ≤ log) && decide (log ≤ 30) && decide (n ≤ 2 ^ log) && count == 0 else log == 0
  let spaceOk (sp : Nat) : Bool := sp == 0 || sp == 1 || (sp == 2 && decide (ch < 8))
  if !((le x.bytes 0 1 == 1 || x.fill) && decide (1 ≤ n) && decide (n ≤ 268435456) &&
      (x.fill || (spaceOk x.srcSpace && ringOk x.srcCirc x.srcRing x.srcCount && decide (x.srcCount ≤ 256))) &&
      spaceOk x.dstSpace && ringOk x.dstCirc x.dstRing x.dstCount && decide (x.dstCount ≤ 256)) then (d, .error (0x0201, none))
  else
    let (d, from_) := if x.fill then (d, .ok ([], false))
      else d.dmaEnd c w x.inst x.gal x.srcSpace x.srcAddr x.srcCount n (if x.srcCirc then some x.srcRing else none)
    let (d, to_) := d.dmaEnd c w x.inst x.gal x.dstSpace x.dstAddr x.dstCount n (if x.dstCirc then some x.dstRing else none)
    match bothEnds from_ to_ with
      | .error e => (d, .error e)
      | .ok ((src, t1), (dst, t2)) =>
        let lists := x.srcCount != 0 || x.dstCount != 0
        let meets := !x.fill && !lists && x.srcSpace == x.dstSpace &&
          src.any (fun (a : Nat × Nat) => dst.any (fun (b : Nat × Nat) => overlap a b))
        if meets && (x.srcCirc || x.dstCirc) then (d, .error (0x0202, none))
        else (d, .ok { src := src, dst := dst, down := meets && decide (x.srcAddr < x.dstAddr), truncated := t1 || t2 })

/-- Take the first chain of a channel that `pick` names off its list. -/
def Dev.dmaTake (d : Dev) (ch : Nat) (pick : DmaChain → Bool) : Option (DmaChain × Dev) :=
  ((d.dmaChains ch).find? pick).map (fun (x : DmaChain) =>
    (x, { d with dma := { d.dma with chan := put d.dma.chan ch ((d.dmaChains ch).erase x) } }))

/-- DMA_DESCRIPTOR_START: the channel fetches the descriptor of its first chain that waits to start one. -/
def execDmaDescriptorStart (ch : Fin 64) (s : State) : Host.Outcome State Fault Refusal :=
  s.onDev (fun c d =>
    match d.dmaTake ch.val DmaChain.isReady with
    | none => d
    | some (x, d) =>
      let x := { x with bytes := d.localRead x.gal x.addr 64 }
      let back (d : Dev) (r : DmaRun) : Dev := d.setDma ch.val (d.dmaChains ch.val ++ [{ x with st := .running r }])
      match d.dmaCheck c ch.val x with
      | (d, .ok r) => back (if r.down then d.count R.dmaCntMove else d) r
      | (d, .error (st, f)) =>
        let d := match f with
          | some f => d.recordFail c (x.who ch.val d) x.inst false f
          | none => d
        back (if st = 0x0202 then d.count R.dmaCntReject else d) { ended := some st })

/-! ### Transfers (R442, R444, R449) -/

/-- The place of byte `k` of a segment list: its address and the bytes left in its segment. -/
def placeOf : Nat → List (Nat × Nat) → Nat × Nat
  | _, [] => (0, 0)
  | k, (a, n) :: rest => if k < n then (a + k, n - k) else placeOf (k - n) rest

/-- The bytes of one turn: source and destination address and count, at most 4 KiB and within one page and one segment of each
end; upward or downward. -/
def DmaRun.turn (r : DmaRun) (fill : Bool) (n : Nat) : Nat × Nat × Nat :=
  if r.down then
    let top := n - r.done
    let s := (placeOf (top - 1) r.src).1
    let t := (placeOf (top - 1) r.dst).1
    let k := min top (min (s % 4096 + 1) (t % 4096 + 1))
    (s + 1 - k, t + 1 - k, k)
  else
    let (s, ls) := placeOf r.done r.src
    let (t, lt) := placeOf r.done r.dst
    let k := min (n - r.done) (min lt (4096 - t % 4096))
    (s, t, if fill then k else min k (min ls (4096 - s % 4096)))

/-- Byte b of a FILL is byte b mod 8 of the pattern. -/
def fillBytes (pattern first n : Nat) : Bytes :=
  let bs := toLE 8 pattern
  (List.range n).map (fun k => bs.getD ((first + k) % 8) 0)

/-- A descriptor that met an error ends; the chain ends with it (R449). -/
def DmaRun.fail (r : DmaRun) (f : AccFail) : DmaRun :=
  { r with ended := some f.status, last := true, hostErr := (match f with | .bus _ .host => true | _ => false) }

/-- A descriptor learns of the error responses that its held writes received (R379): it ends early, and BYTES leaves their bytes out. -/
def Dev.dmaLost (d : Dev) (ch : Nat) (x : DmaChain) (r : DmaRun) : Dev × DmaRun :=
  let w := x.who ch d
  let n := d.lostBytes w
  if n = 0 then (d, r)
  else
    let st := match r.ended with
      | some st => if st < 0x100 then 0x0401 else st
      | none => 0x0401
    (d.ackLost w, { r with ended := some st, done := r.done - n, last := true })

/-- One turn of a running descriptor; none where a write met a closed endpoint, so that the chain ends at once (R451). -/
def Dev.dmaTurn (d : Dev) (c : CoreSt) (ch : Nat) (x : DmaChain) (r : DmaRun) : Dev × Option DmaRun :=
  let w := x.who ch d
  let (s, t, n) := r.turn x.fill x.length
  let (d, data) := if x.fill then (d, .ok (fillBytes x.srcAddr r.done n, false)) else d.dmaRead c w x.inst x.gal x.srcSpace s n
  match data with
  | .error f => (d.recordFail c w x.inst false f, some (r.fail f))
  | .ok (_, true) => (d, some { r with ended := some 0x0401, last := true })
  | .ok (bs, false) =>
    match d.dmaWrite c w x.inst x.gal x.dstSpace t bs with
    | (d, some f) => (d.recordFail c w x.inst true f, if f.closed then none else some (r.fail f))
    | (d, none) =>
      let r := { r with done := r.done + n }
      (d.count R.dmaCntBytes n, some (if x.length ≤ r.done then { r with ended := some (b2n r.truncated) } else r))

/-- DMA_TRANSFER: up to 4 KiB of the channel's next running chain. -/
def execDmaTransfer (ch : Fin 64) (s : State) : Host.Outcome State Fault Refusal :=
  s.onDev (fun c d =>
    match d.dmaTake ch.val DmaChain.isMoving with
    | none => d
    | some (x, d) =>
      match x.st with
      | .running r =>
        let (d, r) := d.dmaLost ch.val x r
        let (d, r) := if r.ended.isSome then (d, some r) else d.dmaTurn c ch.val x r
        d.setDma ch.val (d.dmaChains ch.val ++ (r.map (fun r => { x with st := .running r })).toList)
      | _ => d)

/-- DMA_HOST_ERROR: a failed host read or write of the running descriptor of a gallery's chain. -/
def execDmaHostError (ch : Fin 64) (p : Fin 136) (tag : BitVec 16) (s : State) : Host.Outcome State Fault Refusal :=
  s.onDev (fun _ d =>
    match (d.dmaChains ch.val).find? (fun (x : DmaChain) => x.gal == p.val && x.tag == tag.toNat) with
    | some x =>
      match x.st with
      | .running r =>
        if r.ended.isSome then d
        else d.dmaUpdate ch.val p.val tag.toNat (some { x with st := .running (r.fail (.bus 0 .host)) })
      | _ => d
    | none => d)

/-- Take chains off every channel. -/
def Dev.dmaDrop (d : Dev) (gone : DmaChain → Bool) : Dev :=
  ({ d with dma := { d.dma with
    chan := d.dma.chan.map (fun (e : Nat × List DmaChain) => (e.1, e.2.filter (fun x => !gone x))) } }).dmaFreeEmpty.dmaBalance

/-! ### Records (R446 to R448) -/

/-- DMA_RECORD_POST: the first chain whose descriptor has ended, has the response of every write (R448) and whose gallery's queue has room posts its
record, then signals DMA_DONE; the chain goes on, parks or ends. So a descriptor starts only once every earlier request of its chain has
its response, with FENCE or without. Where the gallery's endpoint is closed its chains end at once (R451). -/
def execDmaRecordPost (ch : Fin 64) (s : State) : Host.Outcome State Fault Refusal :=
  s.onDev (fun c d =>
    match d.dmaTake ch.val (fun x => x.isEnded && d.cqFree x.gal && !d.awaits (x.who ch.val d)) with
    | none => d
    | some (x, d) =>
      if d.isFenced Blk.gal x.gal then (d.setDma ch.val (d.dmaChains ch.val)).dmaDrop (fun (y : DmaChain) => y.gal == x.gal)
      else match x.st with
      | .running r =>
        let (d, r) := d.dmaLost ch.val x r
        let st := r.ended.getD 0
        let residue := if st < 0x100 then 0 else x.length - r.done
        let d := d.cqPost x.gal (fun ph =>
          dmaRecord st (ph + 2 * b2n r.down + 4 * b2n r.hostErr) x.descTag ch.val r.done residue c.time.toNat)
        let g := (d.logicalOf x.gal).getD 0
        let d := if x.event then d.raiseDirected (1024 + ch.val) g else d
        let d := if 0x100 ≤ st then
            d.setReg R.dmaFault (BitVec.ofNat 64 (st <<< 48 + x.inst <<< 40 + g <<< 32 + ch.val <<< 26 + x.descTag))
          else d
        let d := d.count R.dmaCntDesc
        let d := if st = 0x0100 then d.count R.dmaCntAbort else if st = 0x0002 then d.count R.dmaCntLate else d
        let tail := d.localRead x.gal x.addr 64
        let y : Option DmaChain :=
          if r.last then none
          else if x.linkValid then x.goTo x.next
          else if x.append && bit (le tail 1 1) 1 then x.goTo (le tail 0x30 8)
          else some { x with st := .parked, append := false }
        d.setDma ch.val (d.dmaChains ch.val ++ y.toList)
      | _ => d)

/-! ### Notices and write errors (R451) -/

/-- DMA_TASK_NOTICE: every chain that the task's gallery submitted during the task ends, with no record. -/
def execDmaTaskNotice (s : State) : Host.Outcome State Fault Refusal :=
  s.onDev (fun _ d =>
    match d.dma.notices with
    | [] => d
    | n :: rest =>
      ({ d with dma := { d.dma with notices := rest } }).dmaDrop (fun x => x.gal == n.gal && x.task == n.task))

/-- DMA_WRITE_ERROR: the gallery's chains on the channel end at once. -/
def execDmaWriteError (p : Fin 136) (s : State) : Host.Outcome State Fault Refusal :=
  s.onDev (fun _ d => d.dmaDrop (fun x => x.gal == p.val))

/-- A parity fault in a channel (R523): its running descriptors end as R449 states, with ABORTED. -/
def Dev.dmaParity (d : Dev) (ch : Nat) : Dev :=
  d.setDma ch ((d.dmaChains ch).filterMap (fun (x : DmaChain) => match x.st with
    | .running r => some { x with st := .running { r with ended := some (r.ended.getD 0x0100), last := true } }
    | _ => none))

end Sys2Proof.Machine
end

