-- ==== Sys2Proof/Machine/Aes.lean ====
section
/-!
DEFINITION. AES-256 (FIPS 197), its XTS mode over whole blocks (IEEE 1619) and the AES key wrap (SP 800-38F), which R425 names.
The algorithms themselves are those standards' (log entry 25).
-/

namespace Sys2Proof.Machine

/-- Multiplication in GF(2^8) modulo `poly`, `fuel` bits of `b` to go. -/
def gfMulN (poly : Nat) : Nat → Nat → Nat → Nat
  | 0, _, _ => 0
  | n + 1, a, b =>
    let a2 := if 128 ≤ a then (2 * a) ^^^ poly else 2 * a
    (if b % 2 = 1 then a else 0) ^^^ gfMulN poly n a2 (b / 2)

/-- Multiplication in the field of AES. -/
def gmul (a b : Nat) : Nat := gfMulN 0x11B 8 a b

/-- The inverse in the field of AES: the power 254. -/
def ginv (a : Nat) : Nat :=
  let a2 := gmul a a
  let a4 := gmul a2 a2
  let a8 := gmul a4 a4
  let a16 := gmul a8 a8
  let a32 := gmul a16 a16
  let a64 := gmul a32 a32
  let a128 := gmul a64 a64
  gmul (gmul (gmul a128 a64) (gmul a32 a16)) (gmul (gmul a8 a4) a2)

/-- Rotate a byte left. -/
def rotl8 (v n : Nat) : Nat := (v * 2 ^ n) % 256 + v / 2 ^ (8 - n)

/-- The S-box. -/
def sbox (v : Nat) : Nat :=
  let b := ginv v
  b ^^^ rotl8 b 1 ^^^ rotl8 b 2 ^^^ rotl8 b 3 ^^^ rotl8 b 4 ^^^ 0x63

/-- The inverse S-box. -/
def invSbox (v : Nat) : Nat := ginv (rotl8 v 1 ^^^ rotl8 v 3 ^^^ rotl8 v 6 ^^^ 0x05)

/-- Round constant `i`. -/
def rcon : Nat → Nat
  | 0 => 1
  | n + 1 => gmul 2 (rcon n)

/-- Exclusive or, byte by byte. -/
def xorList (a b : List Nat) : List Nat := List.zipWith (· ^^^ ·) a b

/-- The expanded key, four bytes a word, `n` words to go after `ws` (held in order). -/
def expandKey : Nat → Nat → List (List Nat) → List (List Nat)
  | 0, _, ws => ws
  | n + 1, i, ws =>
    let t := ws.getD (i - 1) []
    let t := if i % 8 = 0 then xorList ((t.drop 1 ++ t.take 1).map sbox) [rcon (i / 8 - 1), 0, 0, 0]
      else if i % 8 = 4 then t.map sbox else t
    expandKey n (i + 1) (ws ++ [xorList (ws.getD (i - 8) []) t])

/-- The fifteen round keys of a 32-byte key. -/
def roundKeys (key : List Nat) : List (List Nat) :=
  let ws := expandKey 52 8 ((List.range 8).map (fun i => (key.drop (4 * i)).take 4))
  (List.range 15).map (fun r => ((ws.drop (4 * r)).take 4).flatten)

/-- Byte `i` of a block after ShiftRows, and after its inverse. -/
def shiftRows (s : List Nat) : List Nat := (List.range 16).map (fun i => s.getD ((i + 4 * (i % 4)) % 16) 0)
def invShiftRows (s : List Nat) : List Nat := (List.range 16).map (fun i => s.getD ((i + 16 - 4 * (i % 4)) % 16) 0)

/-- Multiply every column by a circulant matrix whose first row is `m`. -/
def mixWith (m : List Nat) (s : List Nat) : List Nat :=
  (List.range 16).map (fun i =>
    (List.range 4).foldl (fun acc j => acc ^^^ gmul (m.getD ((j + 4 - i % 4) % 4) 0) (s.getD (4 * (i / 4) + j) 0)) 0)

/-- Encrypt one block under expanded round keys. -/
def aesEncryptBlock (ks : List (List Nat)) (b : List Nat) : List Nat :=
  let s := xorList b (ks.getD 0 [])
  let s := (List.range 13).foldl (fun s r => xorList (mixWith [2, 3, 1, 1] (shiftRows (s.map sbox))) (ks.getD (r + 1) [])) s
  xorList (shiftRows (s.map sbox)) (ks.getD 14 [])

/-- Decrypt one block. -/
def aesDecryptBlock (ks : List (List Nat)) (b : List Nat) : List Nat :=
  let s := xorList b (ks.getD 14 [])
  let s := (List.range 13).foldl (fun s r =>
    mixWith [14, 11, 13, 9] (xorList ((invShiftRows s).map invSbox) (ks.getD (13 - r) []))) s
  xorList ((invShiftRows s).map invSbox) (ks.getD 0 [])

/-- Bytes as numbers, and back. -/
def nats (bs : Bytes) : List Nat := bs.map (·.toNat)
def bytesOf (ns : List Nat) : Bytes := ns.map (BitVec.ofNat 8)

/-- The tweak times alpha (IEEE 1619): a 128-bit number, low byte first. -/
def xtsDouble (t : Nat) : Nat := if 2 ^ 127 ≤ t then (2 * t - 2 ^ 128) ^^^ 0x87 else 2 * t

/-- XTS over `n` whole blocks, `f` being the block cipher and `t` the tweak of the first block. -/
def xtsBlocks (f : List Nat → List Nat) : Nat → Nat → Bytes → Bytes
  | 0, _, _ => []
  | n + 1, t, bs =>
    let tw := nats (toLE 16 t)
    bytesOf (xorList (f (xorList (nats (bs.take 16)) tw)) tw) ++ xtsBlocks f n (xtsDouble t) (bs.drop 16)

/-- The first tweak of a data unit. -/
def xtsTweak (key2 : Bytes) (unit : Nat) : Nat :=
  ofLE (bytesOf (aesEncryptBlock (roundKeys (nats key2)) (nats (toLE 16 unit))))

/-- Tweak number `n` of a data unit. -/
def xtsTweakAt (t : Nat) : Nat → Nat
  | 0 => t
  | n + 1 => xtsTweakAt (xtsDouble t) n

/-- AES-256-XTS of one data unit of 16 bytes or more (R425, R486, R509); a last short block steals from the one before it. -/
def xtsEncrypt (key1 key2 : Bytes) (unit : Nat) (bs : Bytes) : Bytes :=
  let f := aesEncryptBlock (roundKeys (nats key1))
  let t := xtsTweak key2 unit
  let n := bs.length / 16
  let b := bs.length % 16
  let body := xtsBlocks f n t bs
  if b = 0 then body
  else
    let cc := body.drop (16 * (n - 1))
    body.take (16 * (n - 1)) ++ xtsBlocks f 1 (xtsTweakAt t n) (bs.drop (16 * n) ++ cc.drop b) ++ cc.take b

/-- And back. -/
def xtsDecrypt (key1 key2 : Bytes) (unit : Nat) (bs : Bytes) : Bytes :=
  let f := aesDecryptBlock (roundKeys (nats key1))
  let t := xtsTweak key2 unit
  let n := bs.length / 16
  let b := bs.length % 16
  if b = 0 then xtsBlocks f n t bs
  else
    let pp := xtsBlocks f 1 (xtsTweakAt t n) (bs.drop (16 * (n - 1)))
    xtsBlocks f (n - 1) t bs ++
      xtsBlocks f 1 (xtsTweakAt t (n - 1)) (bs.drop (16 * n) ++ pp.drop b) ++ pp.take b

/-- The inner steps of key wrap: A and the semiblocks, step `t` on. -/
def wrapSteps (ks : List (List Nat)) : Nat → Nat → Bytes → List Bytes → Bytes × List Bytes
  | 0, _, a, rs => (a, rs)
  | n + 1, t, a, rs =>
    match rs with
    | [] => (a, rs)
    | r :: rest =>
      let b := bytesOf (aesEncryptBlock ks (nats (a ++ r)))
      wrapSteps ks n (t + 1) (toBE 8 (ofBE (b.take 8) ^^^ t)) (rest ++ [b.drop 8])

/-- AES key wrap (SP 800-38F, KW) of a whole number of 8-byte semiblocks. -/
def keyWrap (kek plain : Bytes) : Bytes :=
  let n := plain.length / 8
  let (a, rs) := wrapSteps (roundKeys (nats kek)) (6 * n) 1 (List.replicate 8 0xA6) ((List.range n).map (fun i => slice plain (8 * i) 8))
  a ++ rs.flatten

/-- The inner steps of unwrapping, step `t` down. -/
def unwrapSteps (ks : List (List Nat)) : Nat → Bytes → List Bytes → Bytes × List Bytes
  | 0, a, rs => (a, rs)
  | t + 1, a, rs =>
    match rs.getLast? with
    | none => (a, rs)
    | some r =>
      let b := bytesOf (aesDecryptBlock ks (nats (toBE 8 (ofBE a ^^^ (t + 1)) ++ r)))
      unwrapSteps ks t (b.take 8) (b.drop 8 :: rs.dropLast)

/-- AES key unwrap: none where the check value does not match. -/
def keyUnwrap (kek wrapped : Bytes) : Option Bytes :=
  let n := wrapped.length / 8 - 1
  let (a, rs) := unwrapSteps (roundKeys (nats kek)) (6 * n) (wrapped.take 8) ((List.range n).map (fun i => slice wrapped (8 * i + 8) 8))
  if a == List.replicate 8 0xA6 then some rs.flatten else none

end Sys2Proof.Machine
end

