-- ==== Sys2Proof/Machine/Frame.lean ====
section
/-!
DEFINITION. The Folio frame (spec/10_folio.md, R280 to R288): bit packing (R75), the encoder with its effort levels, and the
decoder with its checks. A frame depends only on the input bytes, the element width and the level (R287).
-/

namespace Sys2Proof.Machine

/-- Values of `w` bits packed with the lowest bit first (R75), padded to whole bytes. -/
def packBits (w : Nat) (vs : List Nat) : Bytes :=
  toLE (ceilDiv (w * vs.length) 8) (vs.foldr (fun v acc => v % 2 ^ w + acc <<< w) 0)

/-- `n` values of `w` bits from the low bits of a number (R75). -/
def unpackNat (w : Nat) : Nat → Nat → List Nat
  | 0, _ => []
  | n + 1, v => v % 2 ^ w :: unpackNat w n (v >>> w)

/-- `n` values of `w` bits from a region (R75). -/
def unpackBits (w n : Nat) (bs : Bytes) : List Nat := unpackNat w n (ofLE bs)

/-- Bytes padded with zeros to a multiple of 8. -/
def pad8 (bs : Bytes) : Bytes := padTo (roundUp bs.length 8) bs

/-- The elements of a string of bytes, `w` bytes each. -/
def elements (w : Nat) (bs : Bytes) : List Nat := (List.range (bs.length / max 1 w)).map (fun i => le bs (w * i) w)

/-- How many bits a number needs. -/
def bitLen (v : Nat) : Nat := if v = 0 then 0 else Nat.log2 v + 1

/-- zigzag of R283 on `b`-bit values, and its inverse. -/
def zigzag (b r : Nat) : Nat := if 2 ^ (b - 1) ≤ r then 2 * (2 ^ b - r) - 1 else 2 * r
def unzigzag (b z : Nat) : Nat := if z % 2 = 1 then 2 ^ b - (z + 1) / 2 else z / 2

/-- Predictors (R282, R283), by their PRED codes. -/
inductive Pred where
  | stored | base | delta | delta2 | xor
deriving DecidableEq, Repr

/-- PRED code of a predictor, and back. -/
def Pred.code : Pred → Nat
  | .stored => 0
  | .base => 1
  | .delta => 2
  | .delta2 => 3
  | .xor => 4
def predOf (n : Nat) : Option Pred :=
  match n with
  | 0 => some .stored
  | 1 => some .base
  | 2 => some .delta
  | 3 => some .delta2
  | 4 => some .xor
  | _ => none

/-- Element `i - d` of the frame, zero before its start. -/
def back (xs : List Nat) (i d : Nat) : Nat := if i < d then 0 else xs.getD (i - d) 0

/-- The stored residue of element `i` (R283), in `b` bits. -/
def Pred.residue (p : Pred) (b base d : Nat) (xs : List Nat) (i : Nat) : Nat :=
  let m := 2 ^ b
  let x := xs.getD i 0
  match p with
  | .stored => 0
  | .base => (x + m - base) % m
  | .delta => zigzag b ((x + m - back xs i d) % m)
  | .delta2 => zigzag b ((x + 2 * m - 2 * back xs i d + back xs i (2 * d)) % m)
  | .xor => x ^^^ back xs i d

/-- The element that a stored residue gives, `xs` being the elements before it (R284). -/
def Pred.element (p : Pred) (b base d : Nat) (xs : List Nat) (z : Nat) : Nat :=
  let m := 2 ^ b
  let i := xs.length
  match p with
  | .stored => 0
  | .base => (z + base) % m
  | .delta => (unzigzag b z + back xs i d) % m
  | .delta2 => (unzigzag b z + 2 * back xs i d + m - back xs i (2 * d)) % m
  | .xor => z ^^^ back xs i d

/-- Candidate `k` of the effort levels: predictor and distance. -/
def candidate (k : Nat) : Pred × Nat :=
  if k = 0 then (.base, 0)
  else ((match (k - 1) % 3 with | 0 => .delta | 1 => .xor | _ => .delta2), (k - 1) / 3 + 1)

/-- Depth of a level (R288). -/
def levelDepth (level : Nat) : Nat := [1, 2, 4, 6, 8, 12, 16, 24, 32, 48].getD level 48

/-- Compress cycles of one strip at a level (R288). -/
def stripCycles (level : Nat) : Nat := 128 * ceilDiv (levelDepth level) 2 + (if level = 0 then 4 else 36)

/-- The residue width a candidate takes at a level (R286), for residues `rs` of `b` bits. -/
def chooseWidth (level b : Nat) (rs : List Nat) : Nat :=
  let most := rs.foldl (fun m r => max m (bitLen r)) 0
  if level = 0 then most
  else
    let exc (w : Nat) : Nat := rs.countP (fun r => decide (w < bitLen r))
    let cost (w : Nat) : Nat := rs.length * w + exc w * (16 + b)
    (best (fun u v => decide (cost u < cost v) || (cost u == cost v && decide (u < v)))
      ((List.range (b + 1)).filter (fun w => decide (exc w ≤ 255)))).getD most

/-- A strip record (R282). -/
def stripRecord (pred d width elems : Nat) (base : Option (Nat × Nat)) (rs : List Nat) (w : Nat) : Bytes :=
  let excs := (List.range rs.length).filter (fun i => decide (width < bitLen (rs.getD i 0)))
  let parts := (match base with | some (v, n) => pad8 (toLE n v) | none => []) ++
    (if width = 0 then [] else pad8 (packBits width (rs.map (fun r => if width < bitLen r then 0 else r)))) ++
    pad8 (excs.flatMap (fun i => toLE 2 i ++ toLE w (rs.getD i 0)))
  toLE 1 pred ++ toLE 1 d ++ toLE 1 width ++ toLE 1 excs.length ++ toLE 2 elems ++ toLE 2 (8 + parts.length) ++ parts

/-- The STORED record of a strip. -/
def storedStrip (w : Nat) (raw : Bytes) : Bytes :=
  [0, 0, 0, 0] ++ toLE 2 (raw.length / w) ++ toLE 2 (8 + (pad8 raw).length) ++ pad8 raw

/-- Encode the strip that starts at element `first` of `xs` and has `raw` as its bytes (R286). -/
def encodeStrip (w level : Nat) (xs : List Nat) (first : Nat) (raw : Bytes) : Bytes :=
  let b := 8 * w
  let n := raw.length / w
  let idx := (List.range n).map (· + first)
  let least := (best (fun u v => decide (toSigned b u < toSigned b v)) (idx.map (fun i => xs.getD i 0))).getD 0
  let record (k : Nat) : Bytes :=
    let (p, d) := candidate k
    let rs := idx.map (p.residue b least d xs)
    stripRecord p.code d (chooseWidth level b rs) n (if p = .base then some (least, w) else none) rs w
  let stored := storedStrip w raw
  match best (fun (u v : Bytes) => decide (u.length < v.length)) ((List.range (levelDepth level)).map record) with
  | some r => if r.length < stored.length then r else stored
  | none => stored

/-- The header (R280), the body and the trailer (R281). -/
def frameOf (elem level : Nat) (stored : Bool) (strips : Nat) (input body : Bytes) : Bytes :=
  let n := 40 + body.length
  let head := toLE 4 0x4C4F4658 ++ toLE 1 1 ++ toLE 1 elem ++ toLE 1 level ++ toLE 1 (b2n stored) ++ toLE 4 input.length ++
    toLE 4 n ++ toLE 4 strips ++ List.replicate 12 0
  let f := head ++ body ++ toLE 4 (crc32c input)
  f ++ toLE 4 (crc32c f)

/-- The stored frame of an input (R281). -/
def storedFrame (elem level : Nat) (input : Bytes) : Bytes := frameOf elem level true 0 input (pad8 input)

/-- MAX_FRAME of R281. -/
def maxFrame (n : Nat) : Nat := 40 + roundUp n 8

/-- The frame of an input (R286, R287). -/
def encodeFrame (elem level : Nat) (input : Bytes) : Bytes :=
  let w := 2 ^ elem
  let xs := elements w input
  let strips := ceilDiv input.length 2048
  let body := (List.range strips).flatMap (fun s => encodeStrip w level xs (s * (2048 / w)) (slice input (2048 * s) 2048))
  if body.length < (pad8 input).length then frameOf elem level false strips input body else storedFrame elem level input

/-! ### Decoding -/

/-- Header fields. -/
def frameElem (f : Bytes) : Nat := le f 5 1
def frameStored (f : Bytes) : Bool := bit (le f 7 1) 0
def frameIn (f : Bytes) : Nat := le f 8 4
def frameBytes (f : Bytes) : Nat := le f 12 4

/-- Does the header satisfy R280 and R281? -/
def frameHeaderOk (f : Bytes) : Bool :=
  let w := 2 ^ frameElem f
  le f 0 4 == 0x4C4F4658 && le f 4 1 == 1 && decide (frameElem f ≤ 4) && decide (1 ≤ frameIn f) &&
  decide (frameIn f ≤ 268435456) && frameIn f % w == 0 && frameBytes f % 8 == 0 && decide (40 ≤ frameBytes f) &&
  decide (frameBytes f ≤ maxFrame (frameIn f)) &&
  (if frameStored f then le f 16 4 == 0 && frameBytes f == maxFrame (frameIn f) else le f 16 4 == ceilDiv (frameIn f) 2048)

/-- Exception entries of a strip: (index, residue). -/
def stripExcs (w : Nat) (bs : Bytes) (n : Nat) : List (Nat × Nat) :=
  (List.range n).map (fun k => (le bs ((2 + w) * k) 2, le bs ((2 + w) * k + 2) w))

/-- Do the indices rise strictly, all below `n`? -/
def rising (n : Nat) : List Nat → Bool
  | [] => true
  | [a] => decide (a < n)
  | a :: b :: r => decide (a < b) && rising n (b :: r)

/-- A strip's header: predictor, distance, residue width, exceptions and record length. -/
structure StripHead where
  pred : Pred
  dist : Nat
  width : Nat
  excs : Nat
  size : Nat

/-- Where the residues and the exceptions of a strip of `n` elements of `w` bytes begin. -/
def StripHead.residueAt (h : StripHead) (w : Nat) : Nat := 8 + (if h.pred = .base then roundUp w 8 else 0)
def StripHead.excAt (h : StripHead) (w n : Nat) : Nat :=
  h.residueAt w + (if h.pred = .stored then roundUp (n * w) 8 else roundUp (ceilDiv (n * h.width) 8) 8)

/-- The header at the front of `bs` of a strip that must have `n` elements and has `room` bytes up to the trailer; none where R285 finds
it inconsistent: every check but that of the exceptions' indices. -/
def stripHead (w n room : Nat) (bs : Bytes) : Option StripHead :=
  match predOf (le bs 0 1) with
  | none => none
  | some p =>
    let h : StripHead := { pred := p, dist := le bs 1 1, width := le bs 2 1, excs := le bs 3 1, size := le bs 6 2 }
    let distOk := match p with | .delta | .delta2 | .xor => decide (1 ≤ h.dist) | _ => h.dist == 0
    if distOk && decide (h.width ≤ 8 * w) && (p != .stored || (h.width == 0 && h.excs == 0)) && le bs 4 2 == n &&
        h.size == h.excAt w n + roundUp (h.excs * (2 + w)) 8 && decide (h.size ≤ room) then some h
    else none

/-- The exceptions of a record, as many as its first bytes `bs` hold whole. -/
def StripHead.entries (h : StripHead) (w n : Nat) (bs : Bytes) : List (Nat × Nat) :=
  stripExcs w (bs.drop (h.excAt w n)) (min h.excs ((bs.length - h.excAt w n) / (2 + w)))

/-- Are the exceptions' indices in order, as far as they have been read (R285)? -/
def StripHead.indicesOk (h : StripHead) (w n : Nat) (bs : Bytes) : Bool := rising n ((h.entries w n bs).map (·.1))

/-- The elements of a strip's record `bs`, behind those decoded before (R284). -/
def StripHead.decode (h : StripHead) (w n : Nat) (bs : Bytes) (xs : List Nat) : List Nat :=
  if h.pred = .stored then xs ++ elements w (slice bs 8 (n * w))
  else
    let packed := if h.width = 0 then List.replicate n 0 else unpackBits h.width n (bs.drop (h.residueAt w))
    let excs := h.entries w n bs
    let zs := (List.range n).map (fun i => match excs.find? (·.1 == i) with | some e => e.2 | none => packed.getD i 0)
    zs.foldl (fun xs z => xs ++ [h.pred.element (8 * w) (le bs 8 w) h.dist xs z]) xs

/-- Decode one strip record at the front of `bs` (`room` bytes up to the trailer), `xs` being the elements decoded so far and
`n` the elements the strip must have: the elements with the strip's, and the record's length; none where R285 finds it
inconsistent. -/
def decodeStrip (w n room : Nat) (bs : Bytes) (xs : List Nat) : Option (List Nat × Nat) :=
  match stripHead w n room bs with
  | none => none
  | some h => if h.indicesOk w n (bs.take h.size) then some (h.decode w n (bs.take h.size) xs, h.size) else none

/-- Decode the strip records of a body from offset `o` on, `left` input bytes remaining: the elements, where the records end, and whether
the body is consistent (R285). -/
def decodeStrips (w : Nat) (f : Bytes) : Nat → Nat → Nat → List Nat → List Nat × Nat × Bool
  | 0, o, left, xs => (xs, o, left == 0 && o + 8 == frameBytes f)
  | fuel + 1, o, left, xs =>
    if left = 0 then (xs, o, o + 8 == frameBytes f)
    else
      let n := min left 2048 / w
      match decodeStrip w n (frameBytes f - 8 - o) (f.drop o) xs with
      | none => (xs, o, false)
      | some (xs, size) => decodeStrips w f fuel (o + size) (left - min left 2048) xs

/-- Decode a whole frame whose header is sound: the bytes made, how much of the frame was read for them, and whether every check of R296
passes. -/
def decodeFrameTo (f : Bytes) : Bytes × Nat × Bool :=
  let w := 2 ^ frameElem f
  let n := frameIn f
  let (out, o, ok) := if frameStored f then (slice f 32 n, frameBytes f, true)
    else (let (xs, o, ok) := decodeStrips w f (le f 16 4) 32 n []; (xs.flatMap (toLE w), o, ok))
  if ok then
    (out, frameBytes f, crc32c (f.take (frameBytes f - 4)) == le f (frameBytes f - 4) 4 && crc32c out == le f (frameBytes f - 8) 4)
  else (out, o, false)

/-- Decode a whole frame whose header is sound: its bytes, or none where a check of R296 fails. -/
def decodeFrame (f : Bytes) : Option Bytes :=
  let r := decodeFrameTo f
  if r.2.2 then some r.1 else none

end Sys2Proof.Machine
end

