-- ==== Sys2Proof/Machine/Folio.lean ====
section
/-!
DEFINITION. The Folio engines (spec/10_folio.md): the three ports, chains, the checks before a descriptor starts, strip by strip
encoding and decoding, completion records, aborts, task notices, the fence of an engine and its roles.
-/

namespace Sys2Proof.Machine

/-! ### A descriptor's fields (R289) -/

namespace FolChain
def opcode (x : FolChain) : Nat := le x.bytes 0 1
def level (x : FolChain) : Nat := le x.bytes 1 1
def elem (x : FolChain) : Nat := le x.bytes 2 1
def event (x : FolChain) : Bool := bit (le x.bytes 3 1) 0
def fallback (x : FolChain) : Bool := bit (le x.bytes 3 1) 1
def linkValid (x : FolChain) : Bool := bit (le x.bytes 3 1) 2
def descTag (x : FolChain) : Nat := le x.bytes 4 2
def extCount (x : FolChain) : Nat := le x.bytes 6 2
def srcAddr (x : FolChain) : Nat := le x.bytes 8 8
def srcBytes (x : FolChain) : Nat := le x.bytes 0x10 4
def dstBytes (x : FolChain) : Nat := le x.bytes 0x14 4
def dstAddr (x : FolChain) : Nat := le x.bytes 0x18 8
def extAddr (x : FolChain) : Nat := le x.bytes 0x20 8
def complAddr (x : FolChain) : Nat := le x.bytes 0x28 8
def next (x : FolChain) : Nat := le x.bytes 0x30 8
def inst (x : FolChain) : Nat := ctInst x.task
def compress (x : FolChain) : Bool := x.opcode == 1
def verify (x : FolChain) : Bool := x.opcode == 3
/-- Who its accesses are made for (R506: SOURCE 2); its writes are told apart by the chain's number. -/
def who (e : Nat) (d : Dev) (x : FolChain) : Who :=
  { source := 2, unit := e, run := ((d.run (ctRun x.task)).map (fun r => r.runId)).getD 0, task := ctNum x.task, job := x.order }
def isRunning (x : FolChain) : Bool := match x.st with | .running _ => true | _ => false
def isReady (x : FolChain) : Bool := x.st == .ready
end FolChain

/-- The chains of an engine. -/
def Dev.folChains (d : Dev) (e : Nat) : List FolChain := look d.fol.eng e []
def Dev.setFol (d : Dev) (e : Nat) (xs : List FolChain) : Dev := { d with fol := { d.fol with eng := put d.fol.eng e xs } }

/-! ### Engines and roles (R279) -/

/-- Does an engine serve its role's work: role `r`, not fenced? -/
def Dev.folHas (d : Dev) (r e : Nat) : Bool := d.getF (R.folEng e) 63 62 == r && !d.isFenced Blk.fol e

/-- The engines that serve work of a role: 2 SHARED (gallery submissions), 1 VOLUME. -/
def Dev.folServing (d : Dev) (r : Nat) : List Nat :=
  let own := (List.range 16).filter (d.folHas r)
  if own.isEmpty then (List.range 16).filter (d.folHas (3 - r)) else own

/-- The serving engine that holds the fewest chains, where one has a place (R291). -/
def Dev.folPlace (d : Dev) : Option Nat :=
  best (fun a b => decide ((d.folChains a).length < (d.folChains b).length))
    ((d.folServing 2).filter (fun e => decide ((d.folChains e).length < 32)))

/-- A write to FOL_ENG[e].ROLE. -/
def Dev.folRole (d : Dev) (e role : Nat) : Dev :=
  if role = 3 then d
  else if (d.folChains e).isEmpty then d.setF (R.folEng e) 63 62 role
  else d.setFlag R.folStatus 1 true

/-! ### Completion (R297) -/

/-- A completion record; `inB` and `outB` are its byte counts, `crc` and `residue` as named. -/
def folRecord (status flags tag engine inB outB crc residue cycles : Nat) : Bytes :=
  toLE 2 status ++ toLE 2 (1 + flags) ++ toLE 2 tag ++ toLE 1 engine ++ toLE 1 0 ++ toLE 4 inB ++ toLE 4 outB ++ toLE 4 crc ++
    toLE 4 residue ++ toLE 8 cycles

/-- Uncompressed bytes of a running descriptor so far, and frame bytes read or written. -/
def FolChain.inOut (x : FolChain) (r : FolRun) : Nat × Nat :=
  if x.compress then (r.read.length, r.wrote) else (r.made.length, r.read.length)

/-- The registers of a descriptor that has ended (R301): FOL_FAULT for a failure, and the counters; `g` is the submitting logical gallery,
0xFF for the volume island. -/
def Dev.folCount (d : Dev) (e inst g opcode status inB frames : Nat) : Dev :=
  let d := if 0x100 ≤ status then
      d.setReg R.folFault (BitVec.ofNat 64 (status <<< 48 + inst <<< 40 + g <<< 32 + e <<< 28 + opcode <<< 20))
    else d
  let d := ((d.count R.folCntDesc).count R.folCntIn inB).count R.folCntOut frames
  if status = 0x0402 then d.count R.folCntCheck else d

/-- Write a descriptor's record, then signal FOL_DONE; FOL_FAULT for a failure; the counters. False: the endpoint of a fenced gallery has
answered the record, so that the chain ends at once (R299). -/
def Dev.folRecordPost (d : Dev) (c : CoreSt) (e : Nat) (x : FolChain) (r : FolRun) (status residue : Nat) : Dev × Bool :=
  let w := x.who e d
  let (inB, frames) := x.inOut r
  let outB := if x.compress then r.outBytes else if x.verify then 0 else r.made.length
  let crc := crc32c (if x.compress then r.read else r.made)
  let g := (d.logicalOf x.gal).getD 0
  let done (d : Dev) : Dev := d.folCount e x.inst g x.opcode status inB frames
  match d.writeInst c w x.inst x.complAddr (folRecord status r.flags x.descTag e inB outB crc residue r.cycles) with
  | (d, none) => (done (if x.event then d.raiseDirected (1088 + e) g else d), true)
  | (d, some f) => (done (d.recordFail c w x.inst true f), !f.closed)

/-- The chain after its descriptor completed: the next descriptor, or parked; an APPEND held makes the tail be read again first
(R292). None: it names a next descriptor that is no place in local store (log entry 32). -/
def Dev.folNext (d : Dev) (x : FolChain) : Option FolChain :=
  let tail := d.localRead x.gal x.addr 64
  let go (bs : Bytes) : Option FolChain :=
    let n := le bs 0x30 8
    if localOk n 64 64 then some { x with addr := n, st := .ready, bytes := [], append := false } else none
  if x.linkValid then go x.bytes
  else if x.append && bit (le tail 3 1) 2 then go tail
  else some { x with st := .parked, append := false }

/-- Give a chain that has left an engine the serving engine with the fewest chains; where none serves, its next descriptor completes with
BUSY_RETRY and it ends (R295). -/
def Dev.folRehome (d : Dev) (c : CoreSt) (e : Nat) (x : FolChain) : Dev :=
  match best (fun a b => decide ((d.folChains a).length < (d.folChains b).length)) (d.folServing 2) with
  | some t => d.setFol t (d.folChains t ++ [x])
  | none =>
    if x.st == .parked then d
    else
      let x := { x with bytes := d.localRead x.gal x.addr 64 }
      (d.folRecordPost c e x {} 0x0500 x.srcBytes).1

/-- The chain of a completed descriptor goes on behind the engine's others, or, from a fenced engine, to another one. -/
def Dev.folBehind (d : Dev) (c : CoreSt) (e : Nat) (x : Option FolChain) : Dev :=
  match x with
  | none => d
  | some x => if d.isFenced Blk.fol e then d.folRehome c e x else d.setFol e (d.folChains e ++ [x])

/-- Input bytes that a running descriptor has not processed. -/
def FolChain.residue (x : FolChain) (r : FolRun) : Nat := x.srcBytes - r.read.length

/-- The bytes of a descriptor's held writes that received error responses are no output, and it fails (R379). -/
def Dev.folLost (d : Dev) (e : Nat) (x : FolChain) (r : FolRun) (status : Nat) : Dev × FolRun × Nat :=
  let w := x.who e d
  let n := d.lostBytes w
  if n = 0 then (d, r, status)
  else (d.ackLost w, { r with outBytes := r.outBytes - n, wrote := r.wrote - n }, if status < 0x100 then 0x0401 else status)

/-- Complete the descriptor of chain `x`, which has been taken off engine `e` and has the response of every write (R297). -/
def Dev.folComplete (d : Dev) (c : CoreSt) (e : Nat) (x : FolChain) (r : FolRun) (status : Nat) : Dev :=
  let (d, r, status) := d.folLost e x r status
  let (d, open_) := d.folRecordPost c e x r status (if status < 0x100 then 0 else x.residue r)
  if open_ && !r.last then d.folBehind c e (d.folNext x) else d

/-! ### The ports (R291, R292, R298) -/

/-- The CORE_TASK a gallery's port write carries. -/
def Dev.carried (d : Dev) (p : Nat) : Word := (d.core p).task

/-- The engine and chain that a gallery's TAG names. -/
def Dev.folFind (d : Dev) (p tag : Nat) : Option (Nat × FolChain) :=
  (List.range 16).findSome? (fun e => ((d.folChains e).find? (fun (x : FolChain) => x.gal == p && x.tag == tag)).map (fun x => (e, x)))

/-- Replace the first chain of a gallery and TAG on an engine, or take it off. -/
def Dev.folUpdate (d : Dev) (e p tag : Nat) (y : Option FolChain) : Dev :=
  d.setFol e (updFirst (fun (x : FolChain) => x.gal == p && x.tag == tag) (fun _ => y) (d.folChains e))

/-- SUBMIT; true: an error response. -/
def Dev.folSubmit (d : Dev) (c : CoreSt) (p v : Nat) : Dev × Bool :=
  if !localOk v 64 64 then (d, true)
  else
    let bs := d.localRead p v 64
    let x : FolChain := { gal := p, task := d.carried p, tag := le bs 4 2, addr := v, order := d.fol.submitted }
    let d := { d with fol := { d.fol with submitted := d.fol.submitted + 1 } }
    match d.folPlace with
    | some e => (d.setFol e (d.folChains e ++ [x]), false)
    | none =>
      let (f, d) := d.draw
      let e := f.toNat % 16
      let x := { x with bytes := bs }
      let w := x.who e d
      let d := match d.writeInst c w x.inst x.complAddr (folRecord 0x0500 0 x.descTag e 0 0 0 x.srcBytes 0) with
        | (d, none) => d
        | (d, some f) => d.recordFail c w x.inst true f
      (d.count R.folCntBusy, false)

/-- APPEND. -/
def Dev.folAppend (d : Dev) (p v : Nat) : Dev :=
  match d.folFind p (bits v 15 0) with
  | none => d
  | some (e, x) =>
    let tail := d.localRead p x.addr 64
    let y : Option FolChain :=
      if x.st == .parked then
        if !bit (le tail 3 1) 2 then some x
        else if localOk (le tail 0x30 8) 64 64 then some { x with addr := le tail 0x30 8, st := .ready, bytes := [] } else none
      else some { x with append := true }
    d.folUpdate e p x.tag y

/-- The status an ABORT leaves a running descriptor with (R298): after the final write response, OK_ABORT_LATE; before it, ABORTED; one
that has failed keeps its status. -/
def FolRun.aborted (r : FolRun) (awaits : Bool) : Nat :=
  match r.ended with
  | some st => if 0x100 ≤ st then st else if awaits then 0x0100 else 0x0002
  | none => 0x0100

/-- ABORT: the record that the running descriptor still has to write carries the outcome, and the chain ends with it. -/
def Dev.folAbort (d : Dev) (p v : Nat) : Dev :=
  match d.folFind p (bits v 15 0) with
  | none => d
  | some (e, x) =>
    d.folUpdate e p x.tag (match x.st with
      | .running r => some { x with st := .running { r with ended := some (r.aborted (d.awaits (x.who e d))), last := true } }
      | _ => none)

/-- FOL_SUBMIT, FOL_APPEND, FOL_ABORT: a gallery's port writes. -/
def execFolSubmit (p : Fin 136) (v : BitVec 64) (s : State) : Host.Outcome State Fault Refusal :=
  s.onDev (fun c d =>
    match d.folSubmit c p.val v.toNat with
    | (d, true) => d.postError p.val 0x20000 0
    | (d, false) => d)
def execFolAppend (p : Fin 136) (v : BitVec 64) (s : State) : Host.Outcome State Fault Refusal :=
  s.onDev (fun _ d => d.folAppend p.val v.toNat)
def execFolAbort (p : Fin 136) (v : BitVec 64) (s : State) : Host.Outcome State Fault Refusal :=
  s.onDev (fun _ d => d.folAbort p.val v.toNat)

/-! ### The start of a descriptor (R293) -/

/-- A failed check or access of a descriptor: its status, and the access with whether it was a write. -/
abbrev FolFail := Nat × Option (AccFail × Bool)

/-- A read that the descriptor's status depends on. -/
def Dev.folRead (d : Dev) (w : Who) (i a n : Nat) : Except FolFail Bytes :=
  match d.readInst w i a n with
  | .error f => .error (f.status, some (f, false))
  | .ok (_, true) => .error (0x0401, none)
  | .ok (bs, false) => .ok bs

/-- The output buffers of a descriptor: DST, then the extents in list order. -/
def Dev.folBufs (d : Dev) (w : Who) (x : FolChain) : Except FolFail (List (Nat × Nat)) :=
  if x.verify then .ok []
  else if x.extCount = 0 then .ok [(x.dstAddr, x.dstBytes)]
  else (d.folRead w x.inst x.extAddr (16 * x.extCount)).map (fun bs =>
    (x.dstAddr, x.dstBytes) :: (List.range x.extCount).map (fun k => (le bs (16 * k) 8, le bs (16 * k + 8) 8)))

/-- Bytes the buffers hold. -/
def capacity (bufs : List (Nat × Nat)) : Nat := total (bufs.map (fun b => b.2))

/-- The first failing access of a descriptor that would read `SRC` and write `bufs` and its record. -/
def Dev.folReach (d : Dev) (w : Who) (x : FolChain) (bufs : List (Nat × Nat)) : Option (AccFail × Bool) :=
  ((x.srcAddr, x.srcBytes, false) :: (x.complAddr, 32, true) :: bufs.map (fun (b : Nat × Nat) => (b.1, b.2, true))).findSome?
    (fun (a : Nat × Nat × Bool) => (d.checkInst w x.inst a.1 a.2.1 a.2.2).map (fun f => (f, a.2.2)))

/-- The checks in their order: the run state, or the status with the failed access to record. -/
def Dev.folCheck (d : Dev) (e : Nat) (x : FolChain) : Except FolFail FolRun :=
  let w := x.who e d
  let unit := 2 ^ x.elem
  if !(decide (1 ≤ x.opcode) && decide (x.opcode ≤ 3) &&
      (if x.compress then decide (x.level ≤ 9) && decide (x.elem ≤ 4) else x.level == 0 && x.elem == 0) &&
      decide (x.extCount ≤ 15) && x.srcBytes != 0) then .error (0x0201, none)
  else if x.compress && (decide (268435456 < x.srcBytes) || x.srcBytes % unit != 0) then .error (0x0201, none)
  else match d.folBufs w x with
    | .error f => .error f
    | .ok bufs =>
      match d.folReach w x bufs with
      | some f => .error (f.1.status, some f)
      | none =>
        if bufs.any (fun (b : Nat × Nat) => b.2 != 0 && overlap b (x.srcAddr, x.srcBytes)) then .error (0x0202, none)
        else if x.compress then .ok { bufs := bufs }
        else if x.srcBytes < 32 then .error (0x0200, none)
        else match d.folRead w x.inst x.srcAddr 32 with
          | .error f => .error f
          | .ok h =>
            if !frameHeaderOk h then .error (0x0201, none)
            else if x.srcBytes < frameBytes h then .error (0x0200, none)
            else if !x.verify && decide (capacity bufs < frameIn h) then .error (0x0200, none)
            else .ok { bufs := bufs, read := h, frame := frameBytes h, truncated := decide (frameBytes h < x.srcBytes) }

/-- The memory requests of the checks: the extent list, and, where they came so far, the frame's header. -/
def Dev.folCheckReads (d : Dev) (c : CoreSt) (e : Nat) (x : FolChain) : Dev :=
  let w := x.who e d
  let d := if x.verify || x.extCount = 0 || 15 < x.extCount then d else d.requests c w x.inst x.extAddr (16 * x.extCount) false
  if x.compress || x.srcBytes < 32 then d else d.requests c w x.inst x.srcAddr 32 false

/-- Take the first chain of an engine that `pick` names off its list. -/
def Dev.folTake (d : Dev) (e : Nat) (pick : FolChain → Bool) : Option (FolChain × Dev) :=
  ((d.folChains e).find? pick).map (fun (x : FolChain) => (x, d.setFol e ((d.folChains e).erase x)))

/-- Record the failed access of a descriptor. -/
def Dev.folAccess (d : Dev) (c : CoreSt) (e : Nat) (x : FolChain) : Option (AccFail × Bool) → Dev
  | some f => d.recordFail c (x.who e d) x.inst f.2 f.1
  | none => d

/-- FOL_DESCRIPTOR_START: the engine fetches the descriptor of its first chain that waits to start one. -/
def execFolDescriptorStart (e : Fin 16) (s : State) : Host.Outcome State Fault Refusal :=
  s.onDev (fun c d =>
    match d.folTake e.val FolChain.isReady with
    | none => d
    | some (x, d) =>
      let x := { x with bytes := d.localRead x.gal x.addr 64 }
      let res := d.folCheck e.val x
      let d := d.folCheckReads c e.val x
      match res with
      | .ok r => d.setFol e.val (d.folChains e.val ++ [{ x with st := .running r }])
      | .error (st, f) => (d.folAccess c e.val x f).folComplete c e.val x {} st)

/-! ### Strips (R283 to R288, R294 to R296) -/

/-- Write bytes at offset `o` of the concatenation of buffers (R290). -/
def Dev.scatter (d : Dev) (c : CoreSt) (w : Who) (inst : Nat) : List (Nat × Nat) → Nat → Bytes → Dev × Option AccFail
  | [], _, _ => (d, none)
  | (a, n) :: rest, o, bs =>
    if n ≤ o then d.scatter c w inst rest (o - n) bs
    else
      let here := bs.take (n - o)
      let (d, e) := if here.isEmpty then (d, none) else d.writeInst c w inst (a + o) here
      match e with
      | some f => (d, some f)
      | none => if bs.length ≤ n - o then (d, none) else d.scatter c w inst rest 0 (bs.drop (n - o))

/-- What a strip makes of a running descriptor: it goes on; it has ended with a status; an access met an error response. -/
inductive StripRes where
  | go (r : FolRun)
  | ended (r : FolRun) (st : Nat)
  | failed (r : FolRun) (f : AccFail) (write : Bool)

/-- Cycles of a strip: those of R288 for a full one; for a short one the spec gives none, so they are free (log entry 1). -/
def Dev.stripCost (d : Dev) (n full : Nat) : Dev × Nat :=
  if n = 2048 then (d, full) else let (f, d) := d.draw; (d, f.toNat % 4096)

/-- The end of a COMPRESS: the frame is closed, as strips or, where those are no smaller, stored; or it does not fit (R294). -/
def Dev.folClose (d : Dev) (c : CoreSt) (e : Nat) (x : FolChain) (r : FolRun) : Dev × StripRes :=
  let stored := decide ((pad8 r.read).length ≤ r.made.length)
  let f := if stored then storedFrame x.elem x.level r.read else frameOf x.elem x.level false r.strips r.read r.made
  if capacity r.bufs < f.length then (d, .ended { r with outBytes := f.length } 0x0200)
  else match d.scatter c (x.who e d) x.inst r.bufs 0 f with
    | (d, some f) => (d, .failed r f true)
    | (d, none) => (d, .ended { r with outBytes := f.length, wrote := f.length, flags := 4 * b2n stored } 0x0000)

/-- One strip of a COMPRESS: it is read, encoded and, while the frame fits, written; with the last strip the frame is closed. -/
def Dev.folEncode (d : Dev) (c : CoreSt) (e : Nat) (x : FolChain) (r : FolRun) : Dev × StripRes :=
  let w := x.who e d
  let n := min 2048 (x.srcBytes - r.read.length)
  match d.load c w x.inst (x.srcAddr + r.read.length) n with
  | (d, .error f) => (d, .failed r f false)
  | (d, .ok (_, true)) => (d, .ended r 0x0401)
  | (d, .ok (bs, false)) =>
    let el := 2 ^ x.elem
    let input := r.read ++ bs
    let (d, cyc) := d.stripCost n (stripCycles x.level)
    let rec_ := encodeStrip el x.level (elements el input) (r.read.length / el) bs
    let fits := decide (32 + r.made.length + rec_.length ≤ capacity r.bufs)
    let (d, e1) := if fits then d.scatter c w x.inst r.bufs (32 + r.made.length) rec_ else (d, none)
    let r := { r with read := input, made := r.made ++ rec_, cycles := r.cycles + cyc, strips := r.strips + 1 }
    match e1 with
    | some f => (d, .failed r f true)
    | none =>
      let r := if fits then { r with outBytes := r.made.length, wrote := r.made.length } else r
      if input.length < x.srcBytes then (d, .go r) else d.folClose c e x r

/-- The end of a decoded frame: FRAME_CRC, then OUT_CRC. -/
def FolRun.checkFrame (r : FolRun) : Nat :=
  let n := frameBytes r.read
  if crc32c (r.read.take (n - 4)) != le r.read (n - 4) 4 || crc32c r.made != le r.read (n - 8) 4 then 0x0402
  else if r.truncated then 1 else 0

/-- The bytes of a range that come before its first poisoned block. -/
def Dev.cleanBytes (d : Dev) (w : Who) (i a n : Nat) : Bytes :=
  let cuts := (List.range (n / 64 + 2)).map (fun k => (a / 64 + k) * 64)
  ((cuts.map (fun b => (max a b, min (a + n) (b + 64)))).filter (fun p => decide (p.1 < p.2))).foldr (fun p rest =>
    match d.readInst w i p.1 (p.2 - p.1) with
    | .ok (bs, false) => bs ++ rest
    | _ => []) []

/-- Read up to `n` bytes of the frame behind what has been read. -/
def Dev.folMore (d : Dev) (c : CoreSt) (w : Who) (x : FolChain) (r : FolRun) (n : Nat) : Dev × Except StripRes FolRun :=
  let a := x.srcAddr + r.read.length
  match d.load c w x.inst a n with
  | (d, .error f) => (d, .error (.failed r f false))
  | (d, .ok (_, true)) => (d, .error (.ended { r with read := r.read ++ d.cleanBytes w x.inst a n } 0x0401))
  | (d, .ok (bs, false)) => (d, .ok { r with read := r.read ++ bs })

/-- The trailer, read once the body has been decoded. -/
def Dev.folTrailer (d : Dev) (c : CoreSt) (w : Who) (x : FolChain) (r : FolRun) : Dev × StripRes :=
  match d.folMore c w x r (r.frame - r.read.length) with
  | (d, .error e) => (d, e)
  | (d, .ok r) => (d, .ended r r.checkFrame)

/-- Put out the bytes `bs` that a strip was decoded to. -/
def Dev.folEmit (d : Dev) (c : CoreSt) (w : Who) (x : FolChain) (r : FolRun) (bs : Bytes) (cyc : Nat) : Dev × StripRes :=
  match (if x.verify then (d, none) else d.scatter c w x.inst r.bufs r.made.length bs) with
  | (d, some f) => (d, .failed { r with cycles := r.cycles + cyc, strips := r.strips + 1 } f true)
  | (d, none) =>
    let r := { r with made := r.made ++ bs, cycles := r.cycles + cyc, strips := r.strips + 1 }
    if r.made.length < frameIn r.read then (d, .go r) else d.folTrailer c w x r

/-- One strip record of a DECOMPRESS or VERIFY, `n` bytes long once decoded: its header is checked when it has been read, its exceptions
as they are read, so that the first failure in frame order ends the descriptor (R296). -/
def Dev.folRecordDecode (d : Dev) (c : CoreSt) (w : Who) (x : FolChain) (r : FolRun) (n : Nat) : Dev × StripRes :=
  let el := 2 ^ frameElem r.read
  let o := r.read.length
  let room := r.frame - 8 - o
  if room < 8 then (d, .ended r 0x0402)
  else match d.folMore c w x r 8 with
    | (d, .error e) => (d, e)
    | (d, .ok r1) =>
      match stripHead el (n / el) room (r1.read.drop o) with
      | none => (d, .ended r1 0x0402)
      | some h =>
        match d.folMore c w x r1 (h.size - 8) with
        | (d, .error (.ended r2 st)) => (d, .ended r2 (if h.indicesOk el (n / el) (r2.read.drop o) then st else 0x0402))
        | (d, .error e) => (d, e)
        | (d, .ok r2) =>
          let bs := r2.read.drop o
          if !h.indicesOk el (n / el) bs || (r.made.length + n == frameIn r.read && r2.read.length + 8 != r.frame) then (d, .ended r2 0x0402)
          else
            let (d, cyc) := d.stripCost n (102 + (h.excs - 38))
            d.folEmit c w x r2 (((h.decode el (n / el) bs (elements el r.made)).flatMap (toLE el)).drop r.made.length) cyc

/-- One strip of a DECOMPRESS or VERIFY. -/
def Dev.folDecode (d : Dev) (c : CoreSt) (e : Nat) (x : FolChain) (r : FolRun) : Dev × StripRes :=
  let w := x.who e d
  let n := min 2048 (frameIn r.read - r.made.length)
  if frameStored r.read then
    let o := r.read.length
    match d.folMore c w x r n with
    | (d, .error e) => (d, e)
    | (d, .ok r2) =>
      let (f, d) := d.draw
      d.folEmit c w x r2 (r2.read.drop o) (f.toNat % 4096)
  else d.folRecordDecode c w x r n

/-- What becomes of a running chain after a strip: none where a write met the endpoint of a fenced gallery, so that the chain ends at once
(R299). -/
def Dev.folAfter (d : Dev) (c : CoreSt) (e : Nat) (x : FolChain) : StripRes → Dev × Option FolChain
  | .go r => (d, some { x with st := .running r })
  | .ended r st => (d, some { x with st := .running { r with ended := some st } })
  | .failed r f wr =>
    (d.recordFail c (x.who e d) x.inst wr f,
      if wr && f.closed then none else some { x with st := .running { r with ended := some f.status } })

/-- Is it a chain's turn: its running descriptor has strips left, or has ended and has every write response? -/
def Dev.folDue (d : Dev) (e : Nat) (x : FolChain) : Bool :=
  match x.st with
  | .running r => if r.ended.isSome then !d.awaits (x.who e d) else !d.isFenced Blk.fol e
  | _ => false

/-- FOL_STRIP: the engine's next running chain gets one strip, or, where its last strip is done, its record. -/
def execFolStrip (e : Fin 16) (s : State) : Host.Outcome State Fault Refusal :=
  s.onDev (fun c d =>
    match d.folTake e.val (d.folDue e.val) with
    | none => d
    | some (x, d) =>
      match x.st with
      | .running r =>
        match r.ended with
        | some st => d.folComplete c e.val x r st
        | none =>
          let (d, res) := if x.compress then d.folEncode c e.val x r else d.folDecode c e.val x r
          let (d, y) := d.folAfter c e.val x res
          d.setFol e.val (d.folChains e.val ++ y.toList)
      | _ => d)

/-! ### Notices, write errors, the fence (R295, R299) -/

/-- FOL_TASK_NOTICE: every chain that the task's gallery submitted during the task ends, with no record. -/
def execFolTaskNotice (s : State) : Host.Outcome State Fault Refusal :=
  s.onDev (fun _ d =>
    match d.fol.notices with
    | [] => d
    | n :: rest =>
      { d with fol := { d.fol with
        notices := rest
        eng := d.fol.eng.map (fun (e : Nat × List FolChain) => (e.1, e.2.filter (fun (x : FolChain) => !(x.gal == n.gal && x.task == n.task)))) } })

/-- FOL_WRITE_ERROR: the chain ends at once. -/
def execFolWriteError (e : Fin 16) (p : Fin 136) (tag : BitVec 16) (s : State) : Host.Outcome State Fault Refusal :=
  s.onDev (fun _ d => d.folUpdate e.val p.val tag.toNat none)

/-- FOL_ROLE_WRITE. -/
def execFolRoleWrite (src : Source) (e : Fin 16) (role : BitVec 2) (s : State) : Host.Outcome State Fault Refusal :=
  s.onDev (fun c d => if d.isManager c src then d.folRole e.val role.toNat else d)

/-- One chain leaves a fenced engine (R295). A descriptor that runs has started, so it ends here, with its record once its write responses
are there, and the chain resumes behind it; R295 gives no status for it, so that one is free (log entry 138). -/
def Dev.folLeave (d : Dev) (c : CoreSt) (e : Nat) (x : FolChain) : Dev :=
  match x.st with
  | .running r =>
    let (f, d) := d.draw
    let st := r.ended.getD (f.toNat % 65536)
    if d.awaits (x.who e d) then d.setFol e (d.folChains e ++ [{ x with st := .running { r with ended := some st } }])
    else d.folComplete c e x r st
  | _ => d.folRehome c e x

/-- The chains of a fenced engine leave it, in order of submission. -/
def Dev.folMoveAll (d : Dev) (c : CoreSt) (e : Nat) : Dev :=
  each (sortBy (fun (a b : FolChain) => decide (a.order < b.order)) (d.folChains e)) (fun (x : FolChain) (d : Dev) => d.folLeave c e x)
    (d.setFol e [])

/-- What a verify mismatch makes of a running COMPRESS (R295): VERIFY_FAIL, or the output written again as a STORED frame, whose CRC-32C
the copy path checks against the intake's. -/
def Dev.folFallback (d : Dev) (c : CoreSt) (e : Nat) (x : FolChain) (r : FolRun) : Dev × StripRes :=
  let w := x.who e d
  if x.fallback && decide (maxFrame x.srcBytes ≤ capacity r.bufs) then
    match d.load c w x.inst x.srcAddr x.srcBytes with
    | (d, .error f) => (d, .failed r f false)
    | (d, .ok (_, true)) => (d, .ended r 0x0401)
    | (d, .ok (input, false)) =>
      let f := storedFrame x.elem x.level input
      match d.scatter c w x.inst r.bufs 0 f with
      | (d, some f) => (d, .failed r f true)
      | (d, none) =>
        if crc32c (input.take r.read.length) != crc32c r.read then (d, .ended r 0x0404)
        else (d, .ended { r with read := input, outBytes := f.length, wrote := f.length, flags := 6 } 0)
  else (d, .ended r 0x0404)

/-- A COMPRESS that may still meet a verify mismatch: it has not failed. -/
def FolChain.verifies (x : FolChain) : Bool :=
  x.compress && (match x.st with | .running r => (r.ended.getD 0) == 0 | _ => false)

/-- A verify mismatch at engine `e`: the COMPRESS that runs there ends; where none runs, the frame was one of the volume island, whose
FALLBACK writes it again (log entry 139). The report and the fence are the Conservator's. -/
def Dev.folVerifyFail (d : Dev) (c : CoreSt) (e : Nat) : Dev :=
  let d := (d.setFlag R.folStatus 2 true).count R.folCntVfail
  match d.folTake e FolChain.verifies with
  | none => d
  | some (x, d) =>
    match x.st with
    | .running r =>
      let (d, res) := d.folFallback c e x r
      let (d, y) := d.folAfter c e x res
      d.setFol e (d.folChains e ++ y.toList)
    | _ => d

end Sys2Proof.Machine
end

