-- ==== Sys2Proof/Machine/Modes.lean ====
section
/-!
DEFINITION. The mode arbiter's operations (spec/02_modes_and_startup.md): a change of mode (R31), entry to SAFE-STOP (R40), the
write-buffer dump (R56, R57), device resets (R43), and partner arrivals and departures (R52).
-/

namespace Sys2Proof.Machine

/-- The code of a mode (R30). -/
def Mode.code : Mode → Nat
  | .off => 0
  | .rom => 1
  | .configure => 2
  | .service => 3
  | .quiesced => 4
  | .maintenance => 5
  | .recovery => 6
  | .safeStop => 7

/-- The transitions of R33; `rom` may also be reached from every powered mode by a reset, and `off` from any. -/
def Mode.permits : Mode → Mode → Bool
  | _, .off => true
  | .off, .rom => true
  | .off, _ => false
  | _, .rom => true
  | .rom, .configure => true
  | .rom, .recovery => true
  | .rom, .safeStop => true
  | .configure, .service => true
  | .configure, .maintenance => true
  | .configure, .safeStop => true
  | .service, .quiesced => true
  | .service, .safeStop => true
  | .quiesced, .service => true
  | .quiesced, .maintenance => true
  | .quiesced, .safeStop => true
  | .maintenance, .service => true
  | .maintenance, .safeStop => true
  | _, _ => false

/-- A change of mode other than entry to SAFE-STOP (R31): the log entry, MODE_CHANGE, READY in SERVICE (R55). A transition that R33
does not list is not made. -/
def changeMode (m : Mode) (x : CoreSt × Dev) : CoreSt × Dev :=
  let (c, d) := x
  if c.mode.permits m then
    let d := d.setFlag R.devStatus 0 (m == .service)
    let d := (d.logEvent c.time 1 0 0 (toLE 1 c.mode.code ++ toLE 1 m.code)).raiseEvent 0
    ({ c with mode := m, prev := c.mode, quiescedAt := if m = .quiesced then c.time.toNat else c.quiescedAt }, d.notify 0 m.code)
  else (c, d)

/-! ### The dump -/

/-- Bytes of write data in the buffer (XQ_WBUF.USED). -/
def bufferUsed (bs : List BufBlock) : Nat := total (bs.map (fun b => match b.data with | some x => x.length | none => 0))

/-- The dump point (R56): the buffer takes no insertion and no port fetches from here on; the copy begins. With SAFE-STOP set it
carries the flag (R62). A valid dump whose replay has not finished is kept beside it. -/
def startDump (flagged : Bool) (x : CoreSt × Dev) : CoreSt × Dev :=
  let (c, d) := x
  let vols := (d.xq.buffer.map (·.volume)).eraseDups
  let older := match d.acc.dump with
    | some u => if u.valid then some u else d.acc.older
    | none => d.acc.older
  ({ c with dumping := true, dumpHold := true, dumpTaken := true },
    { d with acc := { d.acc with dump := some { flagged := flagged, blocks := d.xq.buffer, left := vols }, older := older } })

/-! ### SAFE-STOP -/

/-- Is an uncontained fault acted on in this mode (R33)? -/
def Mode.canStop : Mode → Bool
  | .configure => true
  | .service => true
  | .quiesced => true
  | .maintenance => true
  | _ => false

/-- Entry to SAFE-STOP (R40): the SAFE_STOP log entry, then the logs freeze; the event controller's deliveries stop (R462); a dump
with the SAFE-STOP flag starts, unless one runs or the buffer never held anything yet (R63). -/
def enterSafeStop (mech block unit : Nat) (x : CoreSt × Dev) : CoreSt × Dev :=
  let (c, d) := x
  let d := d.logEvent c.time 15 0 0 (toLE 1 mech ++ toLE 1 block ++ toLE 2 unit)
  let d := { d with evLog := { d.evLog with frozen := true }, saf := { d.saf with log := { d.saf.log with frozen := true } } }
  let d := ((d.setFlag R.devStatus 0 false).setFlag R.evtCtrl 0 true).setFlag R.safStatus 1 true
  let y : CoreSt × Dev := ({ c with mode := .safeStop, prev := c.mode, quiesceFor := none, drained := false }, d)
  if c.served && !c.dumping && !c.dumpHold then startDump true y else y

/-- An uncontained fault (R33, R34): SAFE-STOP from the modes that R33 lists, else nothing. -/
def uncontained (mech block unit : Nat) (x : CoreSt × Dev) : CoreSt × Dev :=
  if x.1.mode.canStop then enterSafeStop mech block unit x else x

/-! ### Device resets -/

/-- The kinds of device reset, with the KIND codes of DEV_RESET_CAUSE. -/
inductive ResetKind where
  | powerOn | cold | warm | warmAsCold
deriving DecidableEq, Repr

/-- KIND. -/
def ResetKind.code : ResetKind → Nat
  | .powerOn => 0
  | .cold => 1
  | .warm => 2
  | .warmAsCold => 3

/-- DEV_RESET_CAUSE after a reset. -/
def Dev.resetCause (d : Dev) (kind source prev : Nat) : Dev :=
  let d := d.bumpField R.devResetCause 47 32 (some 48) 1
  ((d.setF R.devResetCause 10 8 prev).setF R.devResetCause 7 4 source).setF R.devResetCause 2 0 kind

/-- The dump that the next CONFIGURE finds: the newest if it is complete, with what an older one still had to replay. -/
def AccLog.mergeDumps (a : AccLog) : AccLog :=
  let done := a.dump.filter (fun (u : Dump) => u.valid)
  let dump := match a.older, done with
    | some o, some u => some { u with
        flagged := u.flagged || (o.flagged && !o.ordered)
        ordered := false
        blocks := o.blocks.filter (fun (b : BufBlock) => o.left.contains b.volume) ++ u.blocks
        left := (o.left ++ u.left).eraseDups }
    | some o, none => some o
    | none, u => u
  { a with dump := dump.map (fun (u : Dump) => { u with found := true, flushing := [] }), older := none, fw := { a.fw with last := 0 } }

/-- What a reset leaves of the blocks (R43): SRAM, registers and DRAM cleared; the accession log, flash, SSD contents and hosts'
memory kept, the logs no longer frozen. The host ports' pins stand as they are, their links down; SSD ports start over. -/
def Dev.cleared (d : Dev) : Dev :=
  { regs := resetRegs d.regs
    mem := d.mem.clear 0 Key.deviceEnd
    evLog := { d.evLog with frozen := false }
    freezeLog := d.freezeLog
    saf := { log := { d.saf.log with frozen := false }, repairLog := d.saf.repairLog, permanent := d.saf.permanent, history := d.saf.history,
             returnRecord := d.saf.returnRecord }
    ins := { migKey := d.ins.migKey }
    xq := { ports := d.xq.ports.map (fun e => (e.1, { perstLow := e.2.perstLow })) }
    acc := d.acc.mergeDumps
    pwr := { trip := d.pwr.trip }
    mgmt := { notified := d.mgmt.notified, replies := d.mgmt.replies, uartOut := d.mgmt.uartOut }
    fresh := d.fresh }

/-- Release of a device reset: everything cleared, DEV_TIME at zero, mode ROM (R33, R43). DEGRADED, where it was set, is cleared with a
log entry and an event of its own (R32). A warm reset keeps the list of failed slots (R49). DEV_MODE.PREV tells the mode before the
reset (log entry 121). -/
def deviceReset (kind : ResetKind) (source : Nat) (toRecovery : Bool) (x : CoreSt × Dev) : CoreSt × Dev :=
  let (c, d) := x
  let old := c.mode
  let keep := kind == ResetKind.warm
  let wasDegraded := d.flag R.devStatus 1
  let cause := d.saf.fences.headD (0, 0)
  let d := d.cleared.resetCause kind.code source old.code
  let d := ((d.setFlag R.devStatus 8 (match d.acc.dump with | some u => u.valid | none => false)).setFlag R.devStatus 9
    (match d.acc.dump with | some u => u.valid && u.flagged && !u.ordered | none => false)).setFlag R.devStatus 7 c.pfailLow
  let d := match d.ins.migKey with
    | some (_, id) => ((d.setFlag R.insStatus 2 true).setReg (R.insMigkeyId 0) (BitVec.ofNat 64 (le id 0 8))).setReg (R.insMigkeyId 1)
        (BitVec.ofNat 64 (le id 8 8))
    | none => d
  let d := (d.setFlag R.devStatus 3 (d.acc.maint.any (·.volume == 0xFFFF))).setFlag R.pwrStatus 2 d.pwr.trip
  let c := { c with
    time := 0
    served := false
    failedA := keep && c.failedA
    failedB := keep && c.failedB
    toRecovery := toRecovery
    quiesceFor := none
    drained := false
    dumping := false
    dumpHold := c.pfailLow
    dumpTaken := false
    lowAtRise := kind == ResetKind.powerOn && c.pfailLow
    passDone := false
    gpio0Low := kind == ResetKind.powerOn && c.gpio0Low
    quiescedAt := 0 }
  let d := if wasDegraded then d.setDegraded 0 false cause.1 cause.2 else d
  let d := ((d.logEvent 0 1 0 0 (toLE 1 old.code ++ toLE 1 Mode.rom.code)).raiseEvent 0).notify 0 Mode.rom.code
  ({ c with mode := .rom, prev := old }, d)

/-- A slot retry (R49): a warm reset, SOURCE 4, after the booted slot has failed. -/
def slotRetry (x : CoreSt × Dev) : CoreSt × Dev :=
  let c := x.1
  let c := if x.2.flag R.devStatus 4 then { c with failedB := true } else { c with failedA := true }
  deviceReset .warm 4 false (c, x.2)

/-! ### Partners -/

/-- Kinds of partner in the PARTNER log entries (R588). -/
inductive Partner where
  | hostPort | ssd | dimm | stack
deriving DecidableEq, Repr

/-- Their codes. -/
def Partner.code : Partner → Nat
  | .hostPort => 0
  | .ssd => 1
  | .dimm => 2
  | .stack => 3

/-- A partner arrives or departs (R52): logged and raised from the moment SERVICE is first entered. -/
def Dev.partner (d : Dev) (c : CoreSt) (arrive : Bool) (k : Partner) (n : Nat) : Dev :=
  if c.served then
    let src := if arrive then 3 else 4
    ((d.logEvent c.time src 0 0 (toLE 1 k.code ++ toLE 1 n)).raiseEvent src).notify src (k.code * 256 + n)
  else d

/-- The manager role changes hands (R498): logged; INS_STATUS and the ports' MANAGER bits. -/
def Dev.setHolder (d : Dev) (c : CoreSt) (h : Option Nat) : Dev :=
  if d.ins.holder = h then d
  else
    let d := { d with ins := { d.ins with holder := h } }
    let d := (List.range 4).foldl (fun d p => d.setFlag (R.xqPort p) 32 (h == some p)) d
    let d := (d.setF R.insStatus 5 4 (h.getD 0)).setFlag R.insStatus 3 h.isSome
    d.logEvent c.time 11 0 0 (toLE 1 (h.getD 0xFF))

end Sys2Proof.Machine
end

