-- ==== Sys2Proof/Machine/Sha.lean ====
section
/-!
DEFINITION. The digests that spec/18_provenance.md names: SHA-256, SHA-384 and SHA-512 (FIPS 180-4), SHA3-256 and SHA3-512 (FIPS
202), and HMAC (FIPS 198-1), each as a chaining value and a function of one block, so that a context can hold a message
half absorbed. The constants are those standards', computed as the standards describe them (log entry 25).
-/

namespace Sys2Proof.Machine

/-- The largest `r < a + 2 ^ n` with `r ^ k ≤ v`, for an `a` that has it: the bits from `n - 1` down. -/
def rootFrom (k v : Nat) : Nat → Nat → Nat
  | 0, a => a
  | n + 1, a => rootFrom k v n (if (a + 2 ^ n) ^ k ≤ v then a + 2 ^ n else a)

/-- The first 64 bits of the fractional part of the `k`-th root of `p`, for a `p` below 512. -/
def rootFraction (k p : Nat) : Nat := rootFrom k (p <<< (64 * k)) 69 0 % 2 ^ 64

/-- The primes below 410: eighty of them. -/
def shaPrimes : List Nat := (List.range 410).filter (fun p => decide (2 ≤ p) && (List.range p).all (fun q => q < 2 || p % q != 0))

/-- The SHA-512 round constants, by FIPS 180-4's own description of them: what follows the point in the cube roots of the first
eighty primes. The SHA-256 constants are the upper halves of the first 64. -/
def sha512K : List Nat := shaPrimes.map (rootFraction 3)

/-- The same of the square roots of the first sixteen primes: SHA-512 starts from the first eight, SHA-256 from their upper
halves, SHA-384 from the last eight. -/
def shaRoots : List Nat := (shaPrimes.take 16).map (rootFraction 2)

/-- Rotate a `w`-bit word right. -/
def rotrW (w v n : Nat) : Nat := v >>> n + (v % 2 ^ n) <<< (w - n)

/-- What differs between the 32-bit and the 64-bit functions: word bits, rounds, and rotation amounts. -/
structure ShaSpec where
  w : Nat
  rounds : Nat
  big0 : Nat × Nat × Nat
  big1 : Nat × Nat × Nat
  small0 : Nat × Nat × Nat
  small1 : Nat × Nat × Nat

/-- SHA-256, and SHA-512 with SHA-384. -/
def sha32 : ShaSpec :=
  { w := 32, rounds := 64, big0 := (2, 13, 22), big1 := (6, 11, 25), small0 := (7, 18, 3), small1 := (17, 19, 10) }
def sha64 : ShaSpec :=
  { w := 64, rounds := 80, big0 := (28, 34, 39), big1 := (14, 18, 41), small0 := (1, 8, 7), small1 := (19, 61, 6) }

/-- Round constant `t`. -/
def ShaSpec.k (s : ShaSpec) (t : Nat) : Nat := sha512K.getD t 0 >>> (64 - s.w)

/-- Three rotations, or two rotations and a shift, joined by exclusive or. -/
def ShaSpec.big (s : ShaSpec) (r : Nat × Nat × Nat) (v : Nat) : Nat :=
  rotrW s.w v r.1 ^^^ rotrW s.w v r.2.1 ^^^ rotrW s.w v r.2.2
def ShaSpec.small (s : ShaSpec) (r : Nat × Nat × Nat) (v : Nat) : Nat :=
  rotrW s.w v r.1 ^^^ rotrW s.w v r.2.1 ^^^ (v >>> r.2.2)

/-- The message schedule, `n` words to go, the newest word first. -/
def ShaSpec.schedule (s : ShaSpec) : Nat → List Nat → List Nat
  | 0, ws => ws
  | n + 1, ws =>
    let x := (s.small s.small1 (ws.getD 1 0) + ws.getD 6 0 + s.small s.small0 (ws.getD 14 0) + ws.getD 15 0) % 2 ^ s.w
    s.schedule n (x :: ws)

/-- One round on the eight working words. -/
def ShaSpec.round (s : ShaSpec) (h : List Nat) (t w : Nat) : List Nat :=
  let m := 2 ^ s.w
  let x (i : Nat) : Nat := h.getD i 0
  let ch := (x 4 &&& x 5) ^^^ ((m - 1 - x 4) &&& x 6)
  let maj := (x 0 &&& x 1) ^^^ (x 0 &&& x 2) ^^^ (x 1 &&& x 2)
  let t1 := x 7 + s.big s.big1 (x 4) + ch + s.k t + w
  let t2 := s.big s.big0 (x 0) + maj
  [(t1 + t2) % m, x 0, x 1, x 2, (x 3 + t1) % m, x 4, x 5, x 6]

/-- Absorb one block into a chaining value of eight words. -/
def ShaSpec.block (s : ShaSpec) (h : List Nat) (b : Bytes) : List Nat :=
  let n := s.w / 8
  let ws := (s.schedule (s.rounds - 16) ((List.range 16).map (fun i => ofBE (slice b (n * i) n))).reverse).reverse
  let out := (List.range s.rounds).foldl (fun h t => s.round h t (ws.getD t 0)) h
  List.zipWith (fun a c => (a + c) % 2 ^ s.w) h out

/-- The end of a message of `n` bytes (FIPS 180-4): a one bit, zeros, the length in bits. -/
def ShaSpec.pad (s : ShaSpec) (n : Nat) : Bytes :=
  let b := s.w * 2
  let f := s.w / 4
  (0x80 : Byte) :: List.replicate ((2 * b - 1 - f - n % b) % b) 0 ++ toBE f (8 * n)

/-! ### Keccak -/

/-- Lane `x + 5 y`. -/
def lane (st : List Nat) (x y : Nat) : Nat := st.getD (x % 5 + 5 * (y % 5)) 0

/-- Rotate a 64-bit lane left. -/
def rotl64 (v n : Nat) : Nat := rotrW 64 v ((64 - n % 64) % 64)

/-- The lane that the walk of FIPS 202 reaches after `t` moves from (1, 0), each from (x, y) to (y, 2 x + 3 y). -/
def keccakPlace : Nat → Nat
  | 0 => 1
  | t + 1 =>
    let p := keccakPlace t
    p / 5 + 5 * ((2 * (p % 5) + 3 * (p / 5)) % 5)

/-- The rotation offset of lane `i`: the triangular number of its place in the walk, zero for lane (0, 0). -/
def keccakRot (i : Nat) : Nat :=
  match (List.range 24).find? (fun t => keccakPlace t == i) with
  | some t => (t + 1) * (t + 2) / 2 % 64
  | none => 0

/-- The linear feedback register that gives the round constants, `n` steps on. -/
def keccakLfsr : Nat → Nat → Nat
  | 0, r => r
  | n + 1, r => keccakLfsr n (if 128 ≤ r then (2 * r) ^^^ 0x171 else 2 * r)

/-- Round constant `t`. -/
def keccakRc (t : Nat) : Nat :=
  total ((List.range 7).map (fun j => (keccakLfsr (j + 7 * t) 1 % 2) <<< (2 ^ j - 1)))

/-- One round of Keccak-f[1600]. -/
def keccakRound (st : List Nat) (t : Nat) : List Nat :=
  let c (x : Nat) : Nat := lane st x 0 ^^^ lane st x 1 ^^^ lane st x 2 ^^^ lane st x 3 ^^^ lane st x 4
  let cs := (List.range 5).map c
  let d (x : Nat) : Nat := cs.getD ((x + 4) % 5) 0 ^^^ rotl64 (cs.getD ((x + 1) % 5) 0) 1
  let th := (List.range 25).map (fun i => st.getD i 0 ^^^ d (i % 5))
  let pi := (List.range 25).map (fun i =>
    let x := i % 5
    let y := i / 5
    let j := (x + 3 * y) % 5 + 5 * x
    rotl64 (th.getD j 0) (keccakRot j))
  let chi := (List.range 25).map (fun i =>
    let x := i % 5
    let y := i / 5
    lane pi x y ^^^ ((2 ^ 64 - 1 - lane pi (x + 1) y) &&& lane pi (x + 2) y))
  modAt (fun v => v ^^^ keccakRc t) 0 chi

/-- Keccak-f[1600]. -/
def keccakF (st : List Nat) : List Nat := (List.range 24).foldl keccakRound st

/-- Absorb one block of the rate into a state of 25 lanes. -/
def sha3Block (st : List Nat) (b : Bytes) : List Nat :=
  keccakF ((List.range 25).map (fun i => st.getD i 0 ^^^ le b (8 * i) 8))

/-! ### The five algorithms -/

/-- Digest algorithms, with the ALG codes of R473. -/
inductive DigestAlg where
  | sha256 | sha384 | sha512 | sha3_256 | sha3_512
deriving DecidableEq, Repr

/-- The algorithm an ALG code names. -/
def digestAlg (code : Nat) : Option DigestAlg :=
  match code with
  | 0x01 => some .sha256
  | 0x02 => some .sha384
  | 0x03 => some .sha512
  | 0x11 => some .sha3_256
  | 0x12 => some .sha3_512
  | _ => none

/-- ALG code, digest bytes and block bytes (R473). -/
def DigestAlg.code : DigestAlg → Nat
  | .sha256 => 0x01
  | .sha384 => 0x02
  | .sha512 => 0x03
  | .sha3_256 => 0x11
  | .sha3_512 => 0x12
def DigestAlg.outBytes : DigestAlg → Nat
  | .sha256 => 32
  | .sha384 => 48
  | .sha512 => 64
  | .sha3_256 => 32
  | .sha3_512 => 64
def DigestAlg.blockBytes : DigestAlg → Nat
  | .sha256 => 64
  | .sha384 => 128
  | .sha512 => 128
  | .sha3_256 => 136
  | .sha3_512 => 72

/-- The chaining value before any block. -/
def DigestAlg.init : DigestAlg → List Nat
  | .sha256 => (shaRoots.take 8).map (· >>> 32)
  | .sha384 => shaRoots.drop 8
  | .sha512 => shaRoots.take 8
  | .sha3_256 => List.replicate 25 0
  | .sha3_512 => List.replicate 25 0

/-- Absorb one whole block. -/
def DigestAlg.absorb (a : DigestAlg) (st : List Nat) (b : Bytes) : List Nat :=
  match a with
  | .sha256 => sha32.block st b
  | .sha384 => sha64.block st b
  | .sha512 => sha64.block st b
  | .sha3_256 => sha3Block st b
  | .sha3_512 => sha3Block st b

/-- What follows the last byte of a message of `n` bytes. -/
def DigestAlg.pad (a : DigestAlg) (n : Nat) : Bytes :=
  match a with
  | .sha256 => sha32.pad n
  | .sha384 => sha64.pad n
  | .sha512 => sha64.pad n
  | _ =>
    let k := a.blockBytes - n % a.blockBytes
    if k = 1 then [0x86] else (0x06 : Byte) :: List.replicate (k - 2) 0 ++ [0x80]

/-- The digest of a final state. -/
def DigestAlg.output (a : DigestAlg) (st : List Nat) : Bytes :=
  match a with
  | .sha256 => (st.flatMap (toBE 4)).take 32
  | .sha384 => (st.flatMap (toBE 8)).take 48
  | .sha512 => (st.flatMap (toBE 8)).take 64
  | _ => (st.flatMap (toLE 8)).take a.outBytes

/-- Absorb whole blocks, `n` of them. -/
def DigestAlg.absorbAll (a : DigestAlg) : Nat → List Nat → Bytes → List Nat
  | 0, st, _ => st
  | n + 1, st, bs => a.absorbAll n (a.absorb st (bs.take a.blockBytes)) (bs.drop a.blockBytes)

/-- The digest of a whole message. -/
def DigestAlg.hash (a : DigestAlg) (bs : Bytes) : Bytes :=
  let m := bs ++ a.pad bs.length
  a.output (a.absorbAll (m.length / a.blockBytes) a.init m)

/-- An HMAC key as one block (FIPS 198-1), exclusive-or'd with a pad byte. -/
def DigestAlg.hmacKey (a : DigestAlg) (key : Bytes) (pad : Byte) : Bytes :=
  let k := if a.blockBytes < key.length then a.hash key else key
  (padTo a.blockBytes k).map (· ^^^ pad)

/-- HMAC (FIPS 198-1). -/
def DigestAlg.hmac (a : DigestAlg) (key bs : Bytes) : Bytes :=
  a.hash (a.hmacKey key 0x5C ++ a.hash (a.hmacKey key 0x36 ++ bs))

/-- SHA-384. -/
def sha384 (bs : Bytes) : Bytes := DigestAlg.sha384.hash bs

end Sys2Proof.Machine
end

