-- ==== Sys2Proof/Machine/VolOps.lean ====
section
/-!
DEFINITION. Volumes (spec/15_storage_volumes.md): labels (R421 to R423), the geometry of stripes and their P and Q units (R427), a
chunk read and written through its frame and its encryption (R424 to R426), members lost, and the state of a volume (R428).
-/

namespace Sys2Proof.Machine

/-! ### SSDs -/

/-- An SSD port. -/
def Dev.ssd (d : Dev) (n : Nat) : Ssd := look d.vol.ssd n {}

/-- STATE code of an SSD (R418). -/
def SsdSt.code : SsdSt → Nat
  | .absent => 0
  | .init => 1
  | .foreign => 2
  | .needsFormat => 3
  | .free => 4
  | .member => 5
  | .spare => 6
  | .failed => 7

/-- Set an SSD port, and VOL_SSD[n] with it. -/
def Dev.setSsd (d : Dev) (n : Nat) (x : Ssd) : Dev :=
  let v := x.st.code <<< 61 + (x.width % 16) <<< 52 + (x.speed % 16) <<< 48 + (x.pct % 256) <<< 40 + x.capacity % 2 ^ 40
  { d with vol := { d.vol with ssd := put d.vol.ssd n x } }.setReg (R.volSsd n) (BitVec.ofNat 64 v)

/-- Bytes of the media of SSD `n` from a sector on. -/
def Dev.sectors (d : Dev) (n lba count : Nat) : Bytes := d.mem.getN (Key.ssd n (4096 * lba)) (4096 * count)

/-- Write sectors of SSD `n`. Zero sectors are deallocated ones (R417, R426). -/
def Dev.setSectors (d : Dev) (n lba : Nat) (bs : Bytes) : Dev := { d with mem := d.mem.setN (Key.ssd n (4096 * lba)) bs }

/-- Deallocate sectors of SSD `n`. -/
def Dev.trim (d : Dev) (n lba count : Nat) : Dev :=
  { d with mem := d.mem.clear (Key.ssd n (4096 * lba)) (Key.ssd n (4096 * (lba + count))) }

/-- Clear the whole media of SSD `n`. -/
def Dev.trimAll (d : Dev) (n : Nat) : Dev := { d with mem := d.mem.clear (Key.ssd n 0) (Key.ssd n (2 ^ 64)) }

/-! ### Volumes -/

/-- A volume. -/
def Dev.volume (d : Dev) (v : Nat) : Option Vol := find d.vol.vols v

/-- Set a volume. -/
def Dev.setVol (d : Dev) (v : Nat) (x : Vol) : Dev := { d with vol := { d.vol with vols := put d.vol.vols v x } }

/-- Members of a volume, and data units of a stripe. -/
def Vol.n (x : Vol) : Nat := x.members.length
def Vol.data (x : Vol) : Nat := x.n - 2

/-- Stripes of a volume, and the sectors of a member's region (R427). -/
def Vol.stripes (x : Vol) : Nat := ceilDiv x.blocks (16 * x.data)
def regionSectors (blocks n : Nat) : Nat := 17 * ceilDiv blocks (16 * (n - 2))

/-- Geometry (R427): stripe and data position of a chunk; members that hold P, Q and data position `j` of stripe `s`. -/
def Vol.stripe (x : Vol) (c : Nat) : Nat := c / x.data
def Vol.position (x : Vol) (c : Nat) : Nat := c % x.data
def Vol.pMember (x : Vol) (s : Nat) : Nat := x.n - 1 - s % x.n
def Vol.qMember (x : Vol) (s : Nat) : Nat := (x.pMember s + 1) % x.n
def Vol.dataMember (x : Vol) (s j : Nat) : Nat := (x.qMember s + 1 + j) % x.n

/-- Members missing. -/
def Vol.missing (x : Vol) : Nat := x.members.countP (·.isNone)

/-- STATE of a volume (VOL_VOL). -/
def Vol.state (x : Vol) : Nat :=
  if x.maint then 6
  else if !x.online || x.held then 5
  else if 3 ≤ x.missing then 4
  else if x.rebuild.isSome then 3
  else if 1 ≤ x.missing then 2
  else 1

/-! ### Labels (R421) -/

/-- One volume entry of a label. -/
structure LabelEntry where
  volume : Nat
  owner : Nat
  n : Nat
  position : Nat
  level : Nat
  elem : Nat
  blocks : Nat
  start : Nat
  gen : Nat
  wrapped : Bytes

/-- A label as it was read. -/
structure Label where
  role : Nat
  generation : Nat
  device : Bytes
  entries : List LabelEntry

/-- The first 16 bytes of the attestation hash: DEVICE. -/
def deviceId : Bytes := padTo 16 Config.attestation

/-- The volume key-encryption key (R425). -/
def volumeKek : Bytes := padTo 32 (Config.deriveKey 1 [])

/-- One entry of a label. -/
def labelEntryOf (bs : Bytes) (e : Nat) : LabelEntry :=
  let b := slice bs (0x100 + 128 * e) 128
  { volume := le b 0 2, owner := le b 2 1, n := le b 3 1, position := le b 4 1, level := le b 5 1, elem := le b 6 1,
    blocks := le b 8 8, start := le b 0x10 8, gen := le b 0x18 8, wrapped := slice b 0x20 72 }

/-- The label in one copy, where it is valid. -/
def labelOf (bs : Bytes) : Option Label :=
  if le bs 0 4 = 0x4C4F5658 ∧ le bs 4 2 = 1 ∧ le bs 0xFFC 4 = crc32c (bs.take 0xFFC) ∧ le bs 6 1 ≤ 16 then
    some { role := le bs 7 1, generation := le bs 8 8, device := slice bs 0x10 16,
           entries := (List.range (le bs 6 1)).map (labelEntryOf bs) }
  else none

/-- The label of SSD `n`: of two valid copies the one with the higher GENERATION. -/
def Dev.label (d : Dev) (n : Nat) : Option Label :=
  match labelOf (d.sectors n 0 1), labelOf (d.sectors n 128 1) with
  | some a, some b => if a.generation < b.generation then some b else some a
  | some a, none => some a
  | none, b => b

/-- Is the label blank: never written? -/
def Dev.blankMedia (d : Dev) (n : Nat) : Bool := allZero (d.sectors n 0 1) && allZero (d.sectors n 128 1)

/-- The volume entries that SSD `n` carries: the volumes it is a member of, and those it is being rebuilt into. -/
def Dev.entriesOf (d : Dev) (n : Nat) : List (Nat × Vol × Nat) :=
  d.vol.vols.flatMap (fun (e : Nat × Vol) =>
    ((List.range e.2.n).filter (fun p => e.2.members.getD p none == some n || e.2.rebuild == some (p, n))).map (fun p => (e.1, e.2, p)))

/-- One label entry as bytes. -/
def entryBytes (v : Nat) (x : Vol) (pos : Nat) : Bytes :=
  padTo 128 (toLE 2 v ++ toLE 1 x.owner ++ toLE 1 x.n ++ toLE 1 pos ++ toLE 1 x.level ++ toLE 1 x.elem ++ toLE 1 0 ++
    toLE 8 x.blocks ++ toLE 8 x.start ++ toLE 8 x.gen ++ keyWrap volumeKek (x.key1 ++ x.key2))

/-- ROLE of a label, by the SSD's state. -/
def SsdSt.role : SsdSt → Nat
  | .member => 1
  | .spare => 2
  | _ => 0

/-- Write the label of SSD `n` as it now stands: the copy at LBA 0, then the copy at LBA 128, GENERATION raised by one. -/
def Dev.writeLabel (d : Dev) (n : Nat) : Dev :=
  let gen := (match d.label n with | some l => l.generation | none => 0) + 1
  let es := d.entriesOf n
  let body := padTo 0xFFC (toLE 4 0x4C4F5658 ++ toLE 2 1 ++ toLE 1 es.length ++ toLE 1 (d.ssd n).st.role ++ toLE 8 gen ++ deviceId ++
    List.replicate 224 0 ++ es.flatMap (fun e => entryBytes e.1 e.2.1 e.2.2))
  let l := body ++ toLE 4 (crc32c body)
  (d.setSectors n 0 l).setSectors n 128 l

/-- Write the labels of every present member of a volume, and of an SSD being rebuilt into. -/
def Dev.writeLabels (d : Dev) (v : Nat) : Dev :=
  match d.volume v with
  | none => d
  | some x =>
    let ns := x.members.filterMap id ++ (match x.rebuild with | some (_, n) => [n] | none => [])
    ns.foldl Dev.writeLabel d

/-! ### Parity -/

/-- Multiplication in GF(2^8) with polynomial 0x11D (R427), powers of the generator 2, and inverses. -/
def rsMul (a b : Nat) : Nat := gfMulN 0x11D 8 a b
def rsPow : Nat → Nat
  | 0 => 1
  | n + 1 => rsMul 2 (rsPow n)
def rsInv (a : Nat) : Nat :=
  let a2 := rsMul a a
  let a4 := rsMul a2 a2
  let a8 := rsMul a4 a4
  let a16 := rsMul a8 a8
  let a32 := rsMul a16 a16
  let a64 := rsMul a32 a32
  rsMul (rsMul (rsMul (rsMul a64 a64) a64) (rsMul a32 a16)) (rsMul (rsMul a8 a4) a2)

/-- Exclusive or of two units; a unit times a coefficient. -/
def xorBytes (a b : Bytes) : Bytes := List.zipWith (· ^^^ ·) a b
def scaleBytes (k : Nat) (a : Bytes) : Bytes := a.map (fun b => BitVec.ofNat 8 (rsMul k b.toNat))

/-- Bytes of a unit: 17 sectors. -/
def unitBytes : Nat := 69632

/-- The P and Q sums over the data units present, the others taken as zero. -/
def sumP (ds : List (Option Bytes)) : Bytes :=
  ds.foldl (fun acc u => match u with | some b => xorBytes acc b | none => acc) (List.replicate unitBytes 0)
def sumQ (ds : List (Option Bytes)) : Bytes :=
  (List.range ds.length).foldl (fun acc j =>
    match ds.getD j none with
    | some b => xorBytes acc (scaleBytes (rsPow j) b)
    | none => acc) (List.replicate unitBytes 0)

/-- The positions of the data units that are missing. -/
def lostData (ds : List (Option Bytes)) : List Nat := (List.range ds.length).filter (fun j => (ds.getD j none).isNone)

/-- Every data unit of a stripe from the units at hand, where they suffice (R427). -/
def recoverData (ds : List (Option Bytes)) (p q : Option Bytes) : Option (List Bytes) :=
  let fill (us : List (Nat × Bytes)) : List Bytes :=
    (List.range ds.length).map (fun j => (ds.getD j none).getD ((find us j).getD []))
  match lostData ds, p, q with
  | [], _, _ => some (fill [])
  | [i], some p, _ => some (fill [(i, xorBytes p (sumP ds))])
  | [i], none, some q => some (fill [(i, scaleBytes (rsInv (rsPow i)) (xorBytes q (sumQ ds)))])
  | [i, j], some p, some q =>
    -- a + b = P', 2^i a + 2^j b = Q'
    let pp := xorBytes p (sumP ds)
    let qq := xorBytes q (sumQ ds)
    let k := rsInv (rsPow i ^^^ rsPow j)
    let a := scaleBytes k (xorBytes qq (scaleBytes (rsPow j) pp))
    some (fill [(i, a), (j, xorBytes pp a)])
  | _, _, _ => none

/-! ### Reading a chunk -/

/-- Sectors whose reads an SSD ends with an error status: (SSD, LBA), as observed. -/
abbrev BadReads := List (Nat × Nat)

/-- The unit that a member holds of stripe `s`, where that member is present and reads clean. -/
def Dev.unitOf (d : Dev) (x : Vol) (m s : Nat) (bad : BadReads) : Option Bytes :=
  match x.members.getD m none with
  | none => none
  | some n =>
    let lba := x.start + 17 * s
    if bad.any (fun b => b.1 == n && decide (lba ≤ b.2) && decide (b.2 < lba + 17)) then none else some (d.sectors n lba 17)

/-- The data units, P and Q of stripe `s` as they can be read. -/
def Dev.stripeUnits (d : Dev) (x : Vol) (s : Nat) (bad : BadReads) : List (Option Bytes) × Option Bytes × Option Bytes :=
  ((List.range x.data).map (fun j => d.unitOf x (x.dataMember s j) s bad), d.unitOf x (x.pMember s) s bad,
    d.unitOf x (x.qMember s) s bad)

/-- A descriptor that the volume island gives an engine (R279): OPCODE, uncompressed bytes, frame bytes and status. -/
structure VolJob where
  opcode : Nat
  inB : Nat
  frames : Nat
  status : Nat

/-- The engine that the volume island's next descriptor goes to: of those that serve VOLUME work, the one with the fewest chains. -/
def Dev.volEngine (d : Dev) : Option Nat :=
  best (fun a b => decide ((d.folChains a).length < (d.folChains b).length)) (d.folServing 1)

/-- What the engines did for a volume, in its registers (R301); none where no engine serves VOLUME work, so that the work waits. -/
def Dev.volJobs (d : Dev) (x : Vol) (js : List VolJob) : Option Dev :=
  match js, d.volEngine with
  | [], _ => some d
  | _, none => none
  | js, some e => some (each js (fun (j : VolJob) (d : Dev) => d.folCount e x.owner 0xFF j.opcode j.status j.inB j.frames) d)

/-- The 65,536 bytes that a slot's sectors decode to (R426), where the frame passes its checks, and the DECOMPRESS that decoded them. An
empty slot needs none. -/
def slotContent (x : Vol) (c : Nat) (unit : Bytes) : List VolJob × Option Bytes :=
  if allZero (unit.take 4096) then ([], some (List.replicate 65536 0))
  else
    let sec (k : Nat) : Bytes := xtsDecrypt x.key1 x.key2 (17 * c + k) (slice unit (4096 * k) 4096)
    let head := sec 0
    let job (inB frames st : Nat) : List VolJob := [{ opcode := 2, inB := inB, frames := frames, status := st }]
    if !frameHeaderOk head || frameIn head != 65536 then (job 0 32 0x0201, none)
    else if unitBytes < frameBytes head then (job 0 32 0x0200, none)
    else
      let r := decodeFrameTo (((List.range (ceilDiv (frameBytes head) 4096)).flatMap sec).take (frameBytes head))
      if r.2.2 then (job 65536 (frameBytes head) 0, some r.1) else (job r.1.length r.2.1 0x0402, none)

/-- The first of several reconstructions of a unit that decodes (R427): the jobs run, and the bytes with the unit. -/
def firstValid (x : Vol) (c : Nat) : List Bytes → List VolJob × Option (Bytes × Bytes)
  | [] => ([], none)
  | u :: us =>
    match slotContent x c u with
    | (js, some b) => (js, some (b, u))
    | (js, none) => (js ++ (firstValid x c us).1, (firstValid x c us).2)

/-- What a chunk reads as: its bytes with the unit to rewrite (SSD, LBA, bytes) and the sectors of it that failed, whether it was reconstructed, and whether
its frame failed on first read; or the status of a failure (R427). -/
structure ChunkRead where
  bytes : Bytes
  rewrite : Option (Nat × Nat × Bytes) := none
  sectors : Nat := 17
  recon : Bool := false
  crc : Bool := false

/-- Read chunk `c`, and the engines' work for it. -/
def Dev.readChunk (d : Dev) (x : Vol) (c : Nat) (bad : BadReads) : List VolJob × Except Nat ChunkRead :=
  let s := x.stripe c
  let j := x.position c
  let m := x.dataMember s j
  let home (u : Bytes) : Option (Nat × Nat × Bytes) := (x.members.getD m none).map (fun n => (n, x.start + 17 * s, u))
  let (ds, p, q) := d.stripeUnits x s bad
  match ds.getD j none with
  | some u =>
    match slotContent x c u with
    | (js, some b) => (js, .ok { bytes := b })
    | (js, none) =>
      let without := ds.set j none
      let tries := [recoverData without p none, recoverData without none q, recoverData without p q].filterMap id
      match firstValid x c (tries.map (fun us => us.getD j [])) with
      | (ks, some (b, u)) => (js ++ ks, .ok { bytes := b, rewrite := home u, recon := true, crc := true })
      | (ks, none) => (js ++ ks, .error 0x0402)
  | none =>
    match recoverData ds p q with
    | none => ([], .error 0x0400)
    | some us =>
      match slotContent x c (us.getD j []) with
      | (js, some b) =>
        let failed := bad.eraseDups.countP (fun b => some b.1 == x.members.getD m none && decide (x.start + 17 * s ≤ b.2) &&
          decide (b.2 < x.start + 17 * s + 17))
        (js, .ok { bytes := b, rewrite := home (us.getD j []), sectors := failed, recon := true })
      | (js, none) => (js, .error 0x0402)

/-- Apply what reading a chunk rewrote, and count (R427). -/
def Dev.afterRead (d : Dev) (r : ChunkRead) : Dev :=
  let d := if r.recon then d.count R.volCntRecon else d
  let d := if r.crc then d.count R.volCntCrc else d
  match r.rewrite with
  | some (n, lba, u) => (d.setSectors n lba u).count R.volCntRepair r.sectors
  | none => d

/-- Count a chunk whose frame failed and which no reconstruction mends (R427). -/
def Dev.readFailed (d : Dev) (st : Nat) : Dev := if st = 0x0402 then d.count R.volCntCrc else d

/-! ### Writing a chunk -/

/-- The unit that a chunk's 65,536 bytes make (R424, R425): the frame, zero-padded to a sector, encrypted sector by sector, the rest
deallocated; `empty` makes an empty slot, with no work for an engine. -/
def slotUnit (x : Vol) (c : Nat) (empty : Bool) (bs : Bytes) : List VolJob × Bytes :=
  if empty then ([], List.replicate unitBytes 0)
  else
    let f := encodeFrame x.elem x.level bs
    let n := ceilDiv f.length 4096
    let sectors := padTo (4096 * n) f
    ([{ opcode := 1, inB := bs.length, frames := f.length, status := 0 }],
      padTo unitBytes ((List.range n).flatMap (fun k => xtsEncrypt x.key1 x.key2 (17 * c + k) (slice sectors (4096 * k) 4096))))

/-- Whom writes of member `m` of stripe `s` go to: the member, or the SSD rebuilt in its place where the stripe lies below the
watermark (R430). -/
def Vol.target (x : Vol) (m s : Nat) : Option Nat :=
  match x.members.getD m none with
  | some n => some n
  | none =>
    match x.rebuild with
    | some (p, n) => if p = m ∧ s < x.watermark then some n else none
    | none => none

/-- The writes that put `unit` into chunk `c`'s slot, with P and Q by read-modify-write (R429): (SSD, LBA, bytes). None where the
stripe cannot be read. -/
def Dev.chunkWrites (d : Dev) (x : Vol) (c : Nat) (unit : Bytes) (bad : BadReads) : Option (List (Nat × Nat × Bytes)) :=
  let s := x.stripe c
  let j := x.position c
  let (ds, p, q) := d.stripeUnits x s bad
  match recoverData ds p q with
  | none => none
  | some us =>
    let old := us.getD j []
    let all := us.map some
    let diff := xorBytes old unit
    let p2 := xorBytes (p.getD (sumP all)) diff
    let q2 := xorBytes (q.getD (sumQ all)) (scaleBytes (rsPow j) diff)
    let lba := x.start + 17 * s
    some ([(x.dataMember s j, unit), (x.pMember s, p2), (x.qMember s, q2)].filterMap (fun w =>
      (x.target w.1 s).map (fun n => (n, lba, w.2))))

/-! ### The state of a volume -/

/-- Discard every buffered block of a FAILED volume: counted and logged (R428). -/
def Dev.discardBlocks (d : Dev) (c : CoreSt) (v : Nat) : Dev :=
  let gone := d.xq.buffer.filter (·.volume == v)
  if gone.isEmpty then d
  else
    let n := total (gone.map (·.count))
    let d := { d with xq := { d.xq with buffer := d.xq.buffer.filter (·.volume != v) },
                      vol := { d.vol with drains := d.vol.drains.filter (·.volume != v) } }
    (d.count R.volCntLost n).logEvent c.time 9 (match d.volume v with | some x => x.owner | none => 0) 0 (toLE 2 v ++ toLE 8 n)

/-- Is some volume not ONLINE; is one being rebuilt? -/
def Dev.volDegraded (d : Dev) : Bool := d.vol.vols.any (fun e => e.2.state != 1)

/-- Bring VOL_VOL[v], VOL_STATUS and DEGRADED to what the volume now is; a change of its state is logged and raised to the owner and
to the manager instance, and a FAILED volume loses its buffered blocks (R428). -/
def Dev.settleVol (d : Dev) (c : CoreSt) (v : Nat) : Dev :=
  let off := R.volVol v
  let old := d.getF off 63 61
  match d.volume v with
  | none =>
    let d := if old = 0 then d else (d.setReg off 0).unfence c Blk.vol v
    d.setFlag R.volStatus 1 d.volDegraded
  | some x =>
    let new := x.state
    let bitsOf := total (x.members.map (fun m => match m with | some n => 2 ^ n | none => 0))
    let d := d.setF off 63 61 new
    let d := ((d.setF off 60 59 (min 3 x.missing)).setF off 55 48 x.owner).setF off 47 32 bitsOf
    let d := d.setF off 31 0 x.watermark
    let d := (d.setFlag R.volStatus 1 d.volDegraded).setFlag R.volStatus 2 (d.vol.vols.any (fun e => e.2.rebuild.isSome))
    if old = new then d
    else
      let d := ((d.logEvent c.time 8 x.owner 0 (toLE 2 v ++ toLE 1 old ++ toLE 1 new)).raiseEvent 7).raiseEvent (320 + x.owner)
      let d := if new = 1 then d.unfence c Blk.vol v else d.fence c Blk.vol v
      if new = 4 then d.discardBlocks c v else d

/-- A change of a volume's membership (R422): VOLUME_GEN rises and the labels of every present member are written. -/
def Dev.raiseGen (d : Dev) (v : Nat) : Dev :=
  match d.volume v with
  | none => d
  | some x => (d.setVol v { x with gen := x.gen + 1 }).writeLabels v

/-- Room for a region on SSD `n` (R430, R431): inside its capacity, and over no other region. -/
def Dev.regionFits (d : Dev) (n start blocks members : Nat) : Bool :=
  let len := regionSectors blocks members
  decide (start + len ≤ (d.ssd n).capacity) &&
  (d.entriesOf n).all (fun e =>
    let l2 := regionSectors e.2.1.blocks e.2.1.n
    decide (e.2.1.start + l2 ≤ start) || decide (start + len ≤ e.2.1.start))

/-- Start a rebuild of volume `v` where R430 allows one: the lowest-numbered SPARE with room, else the lowest-numbered FREE SSD. -/
def Dev.startRebuild (d : Dev) (c : CoreSt) (v : Nat) : Dev :=
  match d.volume v with
  | none => d
  | some x =>
    if x.state != 2 || !d.flag (R.volVol v) 58 then d
    else
      let fit (s : SsdSt) : List Nat := (List.range 16).filter (fun n => (d.ssd n).st == s && d.regionFits n x.start x.blocks x.n)
      match fit .spare ++ fit .free, (List.range x.n).find? (fun p => (x.members.getD p none).isNone) with
      | n :: _, some p =>
        let from_ := match find d.acc.rebuild v with
          | some (p', n', s) => if p' = p ∧ n' = n then s else 0
          | none => 0
        let d := d.setSsd n { d.ssd n with st := .member }
        let d := d.setVol v { x with rebuild := some (p, n), watermark := from_ }
        let d := { d with acc := { d.acc with rebuild := put d.acc.rebuild v (p, n, from_) } }
        (d.raiseGen v).settleVol c v
      | _, _ => d

/-- The members that SSD `n` was are lost (R420, R428): its outstanding commands count as failed, and every volume with a region on
it loses that member. -/
def Dev.loseSsd (d : Dev) (c : CoreSt) (n : Nat) : Dev :=
  let d := d.setSsd n { d.ssd n with cmds := [], resetting := false }
  let hit := d.vol.vols.filter (fun e => e.2.members.contains (some n) || (match e.2.rebuild with | some (_, m) => m == n | none => false))
  hit.foldl (fun d e =>
    match d.volume e.1 with
    | none => d
    | some x =>
      let lost := x.members.contains (some n)
      let x := { x with
        members := x.members.map (fun m => if m == some n then none else m)
        rebuild := match x.rebuild with | some (p, m) => if m = n then none else some (p, m) | none => none }
      let d := d.setVol e.1 x
      let d := if lost && x.online then d.raiseGen e.1 else d
      (d.settleVol c e.1).startRebuild c e.1) d

end Sys2Proof.Machine
end

