-- ==== Sys2Proof/Machine/HostQueues.lean ====
section
/-!
DEFINITION. Host command queues (spec/14_host_queues.md): doorbells, the enabling and the resets of an instance's queues, the
fetch arbiter, the arrival of entries, and the queue commands.
-/

namespace Sys2Proof.Machine

/-! ### Doorbells (R390, R414) -/

/-- A doorbell write that is ignored: DB_ERR and XQ_CNT_DBERR. -/
def Dev.dbErr (d : Dev) (i : Nat) : Dev := (d.setFlag (R.xqWCsts i) 3 true).count R.xqCntDberr

/-- A submission tail doorbell. -/
def Dev.sqDoorbell (d : Dev) (i q v : Nat) : Dev :=
  match d.pair i q with
  | none => d.dbErr i
  | some p =>
    if p.stopped then d
    else if p.size ≤ v then d.dbErr i
    else d.setPair i q { p with sqTail := v }

/-- A completion head doorbell: the head must lie among the entries posted and not yet released. -/
def Dev.cqDoorbell (d : Dev) (i q v : Nat) : Dev :=
  match d.pair i q with
  | none => d.dbErr i
  | some p =>
    if p.stopped then d
    else
      let rel := (v + p.size - p.cqHead) % p.size
      if p.size ≤ v ∨ p.posted < rel then d.dbErr i
      else d.setPair i q { p with cqHead := v, posted := p.posted - rel }

/-- May an instance window be written: SERVICE has been entered since the last reset (R53, R579), and a function presents the
instance (R386)? -/
def Dev.windowOpen (d : Dev) (c : CoreSt) (i : Nat) : Bool := c.served && (d.presenter i).isSome

/-- SQ_DOORBELL (R390). -/
def execSqDoorbell (inst : BitVec 8) (q : Fin 64) (v : BitVec 64) (s : State) : Host.Outcome State Fault Refusal :=
  s.onDev (fun c d => if d.windowOpen c inst.toNat then d.sqDoorbell inst.toNat q.val (fld v 15 0) else d)

/-- CQ_DOORBELL (R390). -/
def execCqDoorbell (inst : BitVec 8) (q : Fin 64) (v : BitVec 64) (s : State) : Host.Outcome State Fault Refusal :=
  s.onDev (fun c d => if d.windowOpen c inst.toNat then d.cqDoorbell inst.toNat q.val (fld v 15 0) else d)

/-! ### Enable and controller reset -/

/-- Setting XQ_W_CC.ENABLE (R389): while a controller reset goes on, the queues start at its end. -/
def Dev.enableQueues (d : Dev) (i : Nat) : Dev :=
  if d.flag (R.xqWCc i) 0 then d
  else
    let d := d.setFlag (R.xqWCc i) 0 true
    if d.xq.resetting.contains i then d else d.startQueues i

/-- XQ_ENABLE (R389). -/
def execXqEnable (inst : BitVec 8) (s : State) : Host.Outcome State Fault Refusal :=
  s.onDev (fun c d => if d.windowOpen c inst.toNat then d.enableQueues inst.toNat else d)

/-- XQ_READY (R389): READY becomes 1 in SERVICE or MAINTENANCE. -/
def execXqReady (inst : BitVec 8) (s : State) : Host.Outcome State Fault Refusal :=
  s.onDev (fun c d =>
    let i := inst.toNat
    if (c.mode == .service || c.mode == .maintenance) && d.flag (R.xqWCc i) 0 && !d.flag (R.xqWCsts i) 2 &&
        !d.xq.resetting.contains i && (d.pair i 0).isSome then
      (d.setFlag (R.xqWCsts i) 0 true).setFlag (R.xqInst i) 63 true
    else d)

/-- Ask the Docent to cancel the runs that a test picks, and none of them twice (R129, R133). -/
def Dev.cancelRuns (d : Dev) (silent : Bool) (pick : Run → Bool) : Dev :=
  let hit := d.doc.runs.filter (fun e => pick e.2 && !e.2.ended)
  { d with doc := { d.doc with
    runs := d.doc.runs.map (fun (e : Nat × Run) => if pick e.2 && !e.2.ended then (e.1, { e.2 with silent := e.2.silent || silent }) else e)
    cancels := d.doc.cancels ++ hit.map (fun e => { run := e.1 }) } }

/-- Complete with 0x0101 the fetched commands that have not started and that a test picks (R402, R411). -/
def Dev.abortUnstarted (d : Dev) (c : CoreSt) (pick : Cmd → Bool) : Dev :=
  (d.xq.cmds.filter (fun x => pick x && !x.started)).foldl
    (fun d x => (d.count R.xqCntRstabort).complete c x.inst x.pair x.cid 0 0x0101) d

/-- A controller reset (R411): unstarted commands end with 0x0101, runs are cancelled, started commands finish, then every pair
goes. -/
def Dev.controllerReset (d : Dev) (c : CoreSt) (i : Nat) : Dev :=
  if !d.flag (R.xqWCc i) 0 then d
  else
    let d := ((d.setFlag (R.xqWCc i) 0 false).setFlag (R.xqWCsts i) 2 false).setFlag (R.xqWCsts i) 1 true
    let d := { d with xq := { d.xq with
      resetting := i :: d.xq.resetting.filter (· != i)
      pairs := d.xq.pairs.map (fun (e : Nat × Pair) => if e.1 / 64 == i then (e.1, { e.2 with stopped := true }) else e) } }
    let d := d.abortUnstarted c (fun x => x.inst == i)
    (d.cancelRuns false (fun r => r.inst == i && r.cmd.isSome)).settleReset i

/-- CONTROLLER_RESET: XQ_W_CC.ENABLE written from 1 to 0. -/
def execControllerReset (inst : BitVec 8) (s : State) : Host.Outcome State Fault Refusal :=
  s.onDev (fun c d => if d.windowOpen c inst.toNat then d.controllerReset c inst.toNat else d)

/-- What a function reset or the loss of the port does to an instance's queues (R411, R133): unstarted commands and WRITEs without all
their data are discarded, everything else finishes without a completion, the pairs go at once. -/
def Dev.functionReset (d : Dev) (i : Nat) : Dev :=
  let dropWrite (o : OuCmd) : Bool := o.inst == i && o.op == 2 && o.data.isNone
  let gone (x : Cmd) : Bool := x.inst == i &&
    (!x.started || x.op == 0x28 || d.xq.ou.any (fun o => dropWrite o && o.pair == x.pair && o.cid == x.cid))
  -- Digest contexts opened by DIGEST_SUBMIT close (R490).
  let d := { d with prv := { d.prv with ctx := d.prv.ctx.filter (fun (e : Nat × PrvCtx) => !(e.2.owner == i && !e.2.port)) } }
  let d := { d with xq := { d.xq with
    cmds := (d.xq.cmds.filter (fun x => !gone x)).map (fun (x : Cmd) => if x.inst == i then { x with silent := true } else x)
    ou := d.xq.ou.filter (fun o => !dropWrite o)
    pairs := d.xq.pairs.filter (fun e => e.1 / 64 != i)
    resetting := d.xq.resetting.filter (· != i)
    ports := d.xq.ports.map (fun (e : Nat × Port) => match e.2.turn with
      | some (j, _, _) => if j = i then (e.1, { e.2 with turn := none }) else e
      | none => e) } }
  let d := (d.cancelRuns true (fun r => r.inst == i)).dropRetained i
  let d := d.clearVectors (fun v => v / 64 == i)
  (((((d.setReg (R.xqWCc i) 0).setReg (R.xqWCsts i) 0).setReg (R.xqWAqa i) 0).setReg (R.xqWAsq i) 0).setReg (R.xqWAcq i) 0).setReg
    (R.xqInst i) 0

/-! ### Fetch (R391, R392) -/

/-- Commands of an instance in flight on pairs 1 to 63 (R413). -/
def Dev.inFlight (d : Dev) (i : Nat) : Nat := d.xq.cmds.countP (fun x => x.inst == i && x.pair != 0)

/-- Entries that a turn may take from pair `q` of instance `i` (R391, R392): up to 8 consecutive entries with free completion
slots, and on pairs 1 to 63 within the quota. -/
def Dev.fetchable (d : Dev) (i q : Nat) : Nat :=
  match d.pair i q with
  | none => 0
  | some p =>
    let taken := p.posted + d.xq.cmds.countP (fun x => x.inst == i && x.pair == q)
    let avail := (p.sqTail + p.size - p.sqHead) % p.size
    let n := min (min 8 avail) (min (p.size - p.sqHead) (p.size - taken))
    if p.stopped then 0
    else if q = 0 then n
    else if d.doc.holds.contains i then 0
    else min n ((d.inst i).share.queueEntries - d.inFlight i)

/-- Does port `p` present instance `i`? -/
def Dev.onPort (d : Dev) (p i : Nat) : Bool :=
  match d.presenter i with
  | some (k, _) => k == p
  | none => false

/-- May a port fetch from an instance at all (R392)? -/
def Dev.instanceFetches (d : Dev) (i : Nat) : Bool :=
  d.flag (R.xqWCsts i) 0 && ((d.inst i).st == .active)

/-- The pairs with something to fetch, pair 0 first, the others from the one after the last served on (R392). -/
def Dev.pairOrder (d : Dev) (port i : Nat) : List Nat :=
  let last := look (d.port port).rrPair i 0
  let others := (List.range 63).map (fun k => (last + k) % 63 + 1)
  (0 :: others).filter (fun q => decide (0 < d.fetchable i q))

/-- The instance a port's arbiter turns to: the one it serves while its weight lasts, else the next in rotation (R392). -/
def Dev.nextInstance (d : Dev) (port : Nat) : Option Nat :=
  let x := d.port port
  let ready (i : Nat) : Bool := d.onPort port i && d.instanceFetches i && !(d.pairOrder port i).isEmpty
  if 0 < x.credit ∧ ready x.rrInst then some x.rrInst
  else ((List.range 256).map (fun k => (x.rrInst + 1 + k) % 256)).find? ready

/-- Does the device fetch at all: SERVICE, or MAINTENANCE, and the dump point not passed (R35, R56, R392)? -/
def fetchOpen (c : CoreSt) : Bool := (c.mode == .service || c.mode == .maintenance) && !c.dumpHold

/-- FETCH_TURN (R392): the arbiter of a port starts one read. -/
def execFetchTurn (port : Fin 4) (s : State) : Host.Outcome State Fault Refusal :=
  s.onDev (fun c d =>
    let x := d.port port.val
    if !fetchOpen c || x.turn.isSome || !x.linkUp then d
    else match d.nextInstance port.val with
      | none => d
      | some i =>
        match d.pairOrder port.val i with
        | [] => d
        | q :: _ =>
          let credit := if i = x.rrInst ∧ 0 < x.credit then x.credit - 1 else (d.inst i).share.weight - 1
          d.setPort port.val { x with
            turn := some (i, q, d.fetchable i q)
            rrInst := i
            credit := credit
            rrPair := if q = 0 then x.rrPair else put x.rrPair i q })

/-! ### Arrival of entries -/

/-- Is the opcode assigned (R396)? -/
def isOpcode (op : Nat) : Bool :=
  [0x01, 0x02, 0x03, 0x04, 0x10, 0x11, 0x12, 0x13, 0x20, 0x28, 0x80, 0x81, 0x88, 0x90, 0x91, 0x92, 0x93, 0x94, 0x95, 0xA0, 0xA1,
    0xA2, 0xA3, 0xB0, 0xB1, 0xB2, 0xB3, 0xC0, 0xC1, 0xC2].contains op

/-- Manager-only opcodes (R396). -/
def isManagerOp (op : Nat) : Bool := (decide (0x90 ≤ op) && decide (op < 0xC0)) || op == 0xC1 || op == 0xC2

/-- The status an entry completes with at once: not in this mode (R37), or a bad opcode (R8, R396). -/
def entryStatus (c : CoreSt) (i q op : Nat) : Option Nat :=
  let bad := !isOpcode op || (q == 0 && !isAdminOp op) || (q != 0 && isAdminOp op) || (i != 0 && isManagerOp op)
  if c.mode = .maintenance then
    if q = 0 ∧ (op = 0x88 ∨ (i = 0 ∧ (op = 0xC0 ∨ op = 0xC1))) then none else some 0x0600
  else if bad then some 0x0203
  else none

/-- One entry arrives (R391 to R394); a pair that is being deleted or reset takes none (R402, R411). -/
def Dev.entryArrives (c : CoreSt) (i q : Nat) (d : Dev) : Dev :=
  match d.pair i q with
  | none => d
  | some p =>
    if p.stopped then d
    else
    let e := d.mem.getN (d.queueKey i p (p.sq + 64 * p.sqHead)) 64
    let head := if p.sqHead + 1 = p.size then 0 else p.sqHead + 1
    let x : Cmd := { inst := i, pair := q, cid := le e 2 2, op := le e 0 1, flags := le e 1 1, area := slice e 16 48, sqHead := head }
    let d := (d.setPair i q { p with sqHead := head }).count R.xqCntFetch
    let d := { d with xq := { d.xq with cmds := d.xq.cmds ++ [x] } }
    match entryStatus c i q x.op with
    | some st => d.complete c i q x.cid 0 st
    | none => d

/-- ENTRY_FETCHED (R392): the read data of a port's turn arrives. -/
def execEntryFetched (port : Fin 4) (s : State) : Host.Outcome State Fault Refusal :=
  s.onDev (fun c d =>
    match (d.port port.val).turn with
    | none => d
    | some (i, q, n) =>
      let d := d.setPort port.val { d.port port.val with turn := none }
      (List.range n).foldl (fun d _ => d.entryArrives c i q) d)

/-- ADMIN_BUSY_TIMEOUT (R397): the Registrar has not accepted the command within 10 ms; RESULT gives the wait, 1 to 1,000 ms. -/
def execAdminBusyTimeout (ref : CmdRef) (waitMs : BitVec 16) (s : State) : Host.Outcome State Fault Refusal :=
  s.onDev (fun c d =>
    match d.cmd ref.inst.toNat ref.pair.val ref.cid.toNat with
    | some x =>
      if !x.started && decide (0x90 ≤ x.op) then
        (d.count R.xqCntAdmbusy).finish c x (max 1 (min 1000 waitMs.toNat)) 0x0500
      else d
    | none => d)

/-! ### Queue commands -/

/-- CREATE_QUEUE (R401). -/
def Dev.createQueue (d : Dev) (c : CoreSt) (x : Cmd) : Dev :=
  let a := x.area
  let size := le a 0x10 4
  let qid := le a 0x14 1
  let vec := le a 0x15 1
  let fl := le a 0x16 1
  if qid = 0 ∨ 63 < qid ∨ (d.pair x.inst qid).isSome ∨ size < 2 ∨ 65536 < size ∨ le a 0 8 % 4096 ≠ 0 ∨ le a 8 8 % 4096 ≠ 0 ∨ 63 < vec then
    d.finish c x 0 0x0201
  else
    let p : Pair := { size := size, sq := le a 0 8, cq := le a 8 8, vector := vec, ien := bit fl 0,
                      pasid := if bit fl 1 then some (le a 0x18 4 % 2 ^ 20) else none }
    (d.setPair x.inst qid p).finish c x 0 0

/-- CREATE_QUEUE, from the admin pair. -/
def execCreateQueue (ref : CmdRef) (s : State) : Host.Outcome State Fault Refusal :=
  s.onDev (fun c d => d.admin c ref 0x80 (fun x d => d.createQueue c x))

/-- DELETE_QUEUE (R402): fetch stops, unstarted commands end with 0x0101, the pair's runs are cancelled; the pair is freed once its
started commands have completed. -/
def Dev.deleteQueue (d : Dev) (c : CoreSt) (x : Cmd) : Dev :=
  let qid := le x.area 0 1
  match d.pair x.inst qid with
  | none => d.finish c x 0 0x0201
  | some p =>
    if qid = 0 ∨ p.deleter.isSome then d.finish c x 0 0x0201
    else
      let d := d.setPair x.inst qid { p with stopped := true, deleter := some x.cid }
      let d := d.abortUnstarted c (fun y => y.inst == x.inst && y.pair == qid)
      let d := d.cancelRuns false (fun r => r.inst == x.inst && (match r.cmd with | some (q, _) => q == qid | none => false))
      d.settleDelete c x.inst qid

/-- DELETE_QUEUE, from the admin pair. -/
def execDeleteQueue (ref : CmdRef) (s : State) : Host.Outcome State Fault Refusal :=
  s.onDev (fun c d => d.admin c ref 0x81 (fun x d => d.deleteQueue c x))

end Sys2Proof.Machine
end

