-- ==== Sys2Proof/Machine/Storage.lean ====
section
/-!
DEFINITION. The ordering unit and the write buffer (R398 to R410, R428, R429): admission, the waits of R406, READ, WRITE, FLUSH and
DEALLOCATE, insertion, the data of a read, the drain, and the completion of NVMe commands (R419).
-/

namespace Sys2Proof.Machine

/-! ### The ordering unit -/

/-- A storage command in the ordering unit. -/
def Dev.ouCmd (d : Dev) (i q cid : Nat) : Option OuCmd := d.xq.ou.find? (fun o => o.inst == i && o.pair == q && o.cid == cid)

/-- Replace a storage command. -/
def Dev.setOu (d : Dev) (o : OuCmd) : Dev :=
  { d with xq := { d.xq with ou := d.xq.ou.map (fun p => if p.inst == o.inst && p.pair == o.pair && p.cid == o.cid then o else p) } }

/-- Does a storage command write its range? -/
def OuCmd.writes (o : OuCmd) : Bool := o.op == 2 || o.op == 4

/-- Do two commands overlap (R405)? A FLUSH names no block. -/
def OuCmd.overlaps (a b : OuCmd) : Bool :=
  a.op != 3 && b.op != 3 && a.volume == b.volume && decide (a.lba < b.lba + b.blocks) && decide (b.lba < a.lba + a.blocks)

/-- The commands admitted before `o`. -/
def Dev.earlier (d : Dev) (o : OuCmd) : List OuCmd :=
  d.xq.ou.takeWhile (fun p => !(p.inst == o.inst && p.pair == o.pair && p.cid == o.cid))

/-- The waits of R406: for a write of its range not yet inserted; for a read that has not yet taken its data. -/
def Dev.waitsWrite (d : Dev) (o : OuCmd) : Bool := (d.earlier o).any (fun p => p.writes && p.inserted.isNone && p.overlaps o)
def Dev.waitsRead (d : Dev) (o : OuCmd) : Bool := (d.earlier o).any (fun p => p.op == 1 && p.overlaps o)

/-- Does a command wait under R406? -/
def Dev.ouWaits (d : Dev) (o : OuCmd) : Bool :=
  (o.op == 1 && d.waitsWrite o) || (o.writes && o.inserted.isNone && (d.waitsRead o || d.waitsWrite o))

/-- XQ_STATUS.OU_WAIT and BUF_FULL, and XQ_WBUF, as they now stand. -/
def Dev.ouFlags (d : Dev) : Dev :=
  let used := bufferUsed d.xq.buffer
  let full := d.xq.ou.any (fun o => o.op == 2 && o.inserted.isNone && o.data.isSome && decide (Config.writeBuffer < used + 4096 * o.blocks))
  ((d.setFlag R.xqStatus 1 (d.xq.ou.any d.ouWaits)).setFlag R.xqStatus 2 full).setF R.xqWbuf 24 0 used

/-- Complete a storage command and take it out of the ordering unit. -/
def Dev.endOu (d : Dev) (c : CoreSt) (o : OuCmd) (status : Nat) : Dev :=
  let d := { d with xq := { d.xq with ou := d.xq.ou.eraseP (fun p => p.inst == o.inst && p.pair == o.pair && p.cid == o.cid) } }
  (d.complete c o.inst o.pair o.cid 0 status).ouFlags

/-- The storage command that a fetched command is: its range, and for a FLUSH the insertions before it. -/
def Dev.ouOf (d : Dev) (x : Cmd) : OuCmd :=
  let o : OuCmd := { inst := x.inst, pair := x.pair, cid := x.cid, op := x.op, fua := x.op == 2 && bit x.flags 0, needs := d.xq.inserted }
  if x.op = 3 then { o with volume := le x.area 0 2 }
  else if x.op = 4 then { o with lba := le x.area 0 8, blocks := le x.area 8 4, volume := le x.area 12 2 }
  else { o with lba := le x.area 8 8, blocks := le x.area 0x10 4, volume := le x.area 0x14 2 }

/-- OU_ADMIT (R405): admitted in queue order; a command that must wait is counted. -/
def execOuAdmit (ref : CmdRef) (s : State) : Host.Outcome State Fault Refusal :=
  s.onDev (fun _ d =>
    match d.xq.cmds.find? (fun x => x.inst == ref.inst.toNat && x.pair == ref.pair.val && !x.started && isStorageOp x.op) with
    | none => d
    | some x =>
      if x.cid = ref.cid.toNat then
        let d := d.startCmd x.inst x.pair x.cid
        let o := d.ouOf x
        let d := { d with xq := { d.xq with ou := d.xq.ou ++ [o] } }
        (if d.ouWaits o then d.count R.xqCntOuwait else d).ouFlags
      else d)

/-! ### Checks (R398 to R400) -/

/-- Status of a command that names a volume it may not use, or one that is offline; blocks `lba` to `lba + n`. -/
def Dev.volumeCheck (d : Dev) (i v lba n : Nat) : Option Nat :=
  match d.volume v with
  | none => some 0x0201
  | some x =>
    if x.owner ≠ i ∨ x.blocks < lba + n then some 0x0201
    else if x.state = 5 ∨ x.state = 6 then some 0x0500
    else none

/-- Status of a command on a FAILED volume (R428). -/
def Dev.failedVolume (d : Dev) (v : Nat) : Bool :=
  match d.volume v with
  | some x => x.state == 4
  | none => true

/-- The volume island as an accessor (R506). -/
def xqWho : Who := { source := 8, unit := 0 }

/-- The data segments a READ or WRITE names: an error status with the failed access, or the segments and whether the list was
longer than needed. -/
def Dev.dataSegs (d : Dev) (x : Cmd) (need : Nat) : Except (Nat × Option AccFail) (List (Nat × Nat) × Bool) :=
  let a := le x.area 0 8
  if bit x.flags 1 then
    match d.readInst xqWho x.inst a (16 * le x.area 0x16 2) with
    | .error f => .error (f.status, some f)
    | .ok (_, true) => .error (0x0401, none)
    | .ok (bs, false) =>
      let es := (List.range (le x.area 0x16 2)).map (fun k => (le bs (16 * k) 8, le bs (16 * k + 8) 8))
      let sum := total (es.map (·.2))
      .ok (takeSegs need es, decide (need < sum))
  else .ok ([(a, need)], false)

/-- Check a READ or WRITE (R398): its status with the failed access, or its segments. -/
def Dev.checkRw (d : Dev) (x : Cmd) (o : OuCmd) (store : Bool) : Except (Nat × Option AccFail) (List (Nat × Nat) × Bool) :=
  let sgl := le x.area 0x16 2
  if o.blocks = 0 ∨ 256 < o.blocks ∨ (if bit x.flags 1 then sgl = 0 ∨ 256 < sgl else sgl ≠ 0) then .error (0x0201, none)
  else match d.volumeCheck x.inst o.volume o.lba o.blocks with
    | some st => .error (st, none)
    | none =>
      match d.dataSegs x (4096 * o.blocks) with
      | .error e => .error e
      | .ok (segs, trunc) =>
        match segs.findSome? (fun g => d.checkInst xqWho x.inst g.1 g.2 store) with
        | some f => .error (f.status, some f)
        | none =>
          if total (segs.map (·.2)) < 4096 * o.blocks then .error (0x0200, none)
          else if d.failedVolume o.volume then .error (0x0400, none)
          else .ok (segs, trunc)

/-- A checked command, or the end of one whose check failed. -/
def Dev.afterCheck (d : Dev) (c : CoreSt) (x : Cmd) (o : OuCmd) (store : Bool) : Dev × Option OuCmd :=
  match d.checkRw x o store with
  | .error (st, f) =>
    let d := match f with | some f => d.recordFail c xqWho x.inst store f | none => d
    (d.endOu c o st, none)
  | .ok (segs, trunc) =>
    let o := { o with checked := true, segs := segs, truncated := trunc }
    (d.setOu o, some o)

/-- READ (R398): an admitted READ is checked. -/
def execRead (ref : CmdRef) (s : State) : Host.Outcome State Fault Refusal :=
  s.onDev (fun c d =>
    match d.cmd ref.inst.toNat ref.pair.val ref.cid.toNat, d.ouCmd ref.inst.toNat ref.pair.val ref.cid.toNat with
    | some x, some o => if o.op == 1 && !o.checked then (d.afterCheck c x o true).1 else d
    | _, _ => d)

/-- Whose the accesses of a command of the ordering unit are. -/
def OuCmd.who (o : OuCmd) : Who := { xqWho with job := cmdJob o.inst o.pair o.cid }

/-- Read the bytes of a list of segments. -/
def Dev.readSegs (d : Dev) (c : CoreSt) (w : Who) (i : Nat) : List (Nat × Nat) → Dev × Except AccFail (Bytes × Bool)
  | [] => (d, .ok ([], false))
  | (a, n) :: rest =>
    match d.load c w i a n with
    | (d, .error f) => (d, .error f)
    | (d, .ok (b, p)) =>
      match d.readSegs c w i rest with
      | (d, .ok (bs, q)) => (d, .ok (b ++ bs, p || q))
      | (d, .error f) => (d, .error f)

/-- Write bytes over a list of segments; the first failed access. -/
def Dev.writeSegs (d : Dev) (c : CoreSt) (w : Who) (i : Nat) (bs : Bytes) : List (Nat × Nat) → Dev × Option AccFail
  | [] => (d, none)
  | (a, n) :: rest =>
    let (d, e) := d.writeInst c w i a (bs.take n)
    let (d, e2) := d.writeSegs c w i (bs.drop n) rest
    (d, e.orElse (fun _ => e2))

/-- WRITE (R398, R406): checked when first run; its data is fetched once no earlier overlapping read is still to take its own. -/
def execWrite (ref : CmdRef) (s : State) : Host.Outcome State Fault Refusal :=
  s.onDev (fun c d =>
    match d.cmd ref.inst.toNat ref.pair.val ref.cid.toNat, d.ouCmd ref.inst.toNat ref.pair.val ref.cid.toNat with
    | some x, some o =>
      if o.op != 2 || o.data.isSome then d
      else
        let (d, o?) := if o.checked then (d, some o) else d.afterCheck c x o false
        match o? with
        | none => d
        | some o =>
          if d.waitsRead o then d.ouFlags
          else match d.readSegs c o.who o.inst o.segs with
            | (d, .ok (bs, false)) => (d.setOu { o with data := some bs }).ouFlags
            | (d, .ok (_, true)) => d.endOu c o 0x0401
            | (d, .error f) => (d.recordFail c o.who o.inst false f).endOu c o f.status
    | _, _ => d)

/-- DEALLOCATE (R400): the checks of R398 but those on data. -/
def execDeallocate (ref : CmdRef) (s : State) : Host.Outcome State Fault Refusal :=
  s.onDev (fun c d =>
    match d.ouCmd ref.inst.toNat ref.pair.val ref.cid.toNat with
    | some o =>
      if o.op == 4 && !o.checked then
        if o.blocks = 0 then d.endOu c o 0x0201
        else match d.volumeCheck o.inst o.volume o.lba o.blocks with
          | some st => d.endOu c o st
          | none => if d.failedVolume o.volume then d.endOu c o 0x0400 else d.setOu { o with checked := true, data := some [] }
      else d
    | none => d)

/-! ### NVMe commands and the drain -/

/-- Issue an NVMe command to SSD `n`; its identifier. -/
def Dev.nvme (d : Dev) (n lba : Nat) (data : Option Bytes) (fua : Bool) : Dev × (Nat × Nat) :=
  let id := d.vol.nextId
  let x := d.ssd n
  let d := { d with vol := { d.vol with nextId := id + 1 } }
  (d.setSsd n { x with cmds := x.cmds ++ [{ id := id, lba := lba, data := data, fua := fua }] }, (n, id))

/-- Issue one write for each of a list (SSD, LBA, bytes). -/
def Dev.nvmeWrites (d : Dev) (fua : Bool) : List (Nat × Nat × Bytes) → Dev × List (Nat × Nat)
  | [] => (d, [])
  | (n, lba, bs) :: rest =>
    let (d, w) := d.nvme n lba (some bs) fua
    let (d, ws) := d.nvmeWrites fua rest
    (d, w :: ws)

/-- Does a buffer entry cover a block? -/
def BufBlock.covers (e : BufBlock) (v b : Nat) : Bool := e.volume == v && decide (e.first ≤ b) && decide (b < e.first + e.count)

/-- The 65,536 bytes of a chunk with buffer entries laid over them, in order of insertion. -/
def overlay (v c : Nat) (base : Bytes) (es : List BufBlock) : Bytes :=
  es.foldl (fun bs e =>
    (List.range 16).foldl (fun bs k =>
      if e.covers v (16 * c + k) then patch bs (4096 * k) (match e.data with | some x => x | none => List.replicate 4096 0) else bs) bs) base

/-- The entries of a chunk in the buffer. -/
def Dev.chunkEntries (d : Dev) (v c : Nat) : List BufBlock :=
  d.xq.buffer.filter (fun e => (List.range 16).any (fun k => e.covers v (16 * c + k)))

/-- Is the whole chunk deallocated by the last entry of each of its blocks (R426)? -/
def allDealloc (v c : Nat) (es : List BufBlock) : Bool :=
  (List.range 16).all (fun k => match (es.filter (fun e => e.covers v (16 * c + k))).getLast? with
    | some e => e.data.isNone
    | none => false)

/-- Do entries cover every block of a chunk? -/
def allCovered (v c : Nat) (es : List BufBlock) : Bool := (List.range 16).all (fun k => es.any (fun e => e.covers v (16 * c + k)))

/-- The writes that bring a chunk to its stripe with buffer entries laid over it (R429), and the state after what reading it rewrote and
the engines did; none where it cannot be read, or no engine serves. -/
def Dev.composeChunk (d : Dev) (v c : Nat) (es : List BufBlock) (bad : BadReads) : Option (Dev × List (Nat × Nat × Bytes)) :=
  match d.volume v with
  | none => none
  | some x =>
    if allCovered v c es then
      let (js, unit) := slotUnit x c (allDealloc v c es) (overlay v c (List.replicate 65536 0) es)
      (d.volJobs x js).bind (fun d => (d.chunkWrites x c unit bad).map (fun ws => (d, ws)))
    else match d.readChunk x c bad with
      | (_, .error _) => none
      | (js, .ok r) =>
        let (ks, unit) := slotUnit x c false (overlay v c r.bytes es)
        ((d.afterRead r).volJobs x (js ++ ks)).bind (fun d => (d.chunkWrites x c unit bad).map (fun ws => (d, ws)))

/-- Is the stripe of a chunk free for a parity update: no drain of it is out, and the rebuild is not at it (R429, R430)? -/
def Dev.stripeFree (d : Dev) (v : Nat) (x : Vol) (s : Nat) : Bool :=
  !(d.vol.drains.any (fun r => r.volume == v && x.stripe r.chunk == s)) && !(x.rebuild.isSome && x.watermark == s)

/-- What remains of a buffer entry once the blocks `lo` to `hi` have left. -/
def BufBlock.without (e : BufBlock) (lo hi : Nat) : List BufBlock :=
  let a : List BufBlock := if e.first < lo then [{ e with count := min e.count (lo - e.first) }] else []
  let b : List BufBlock := if hi < e.first + e.count then
    [{ e with first := max e.first hi, count := e.first + e.count - max e.first hi }] else []
  a ++ b

/-- The blocks of a finished drain leave the buffer (R429). -/
def Dev.leaveBuffer (d : Dev) (r : Drain) : Dev :=
  { d with
    xq := { d.xq with buffer := d.xq.buffer.flatMap (fun (e : BufBlock) =>
      if e.volume == r.volume && decide (e.order ≤ r.upTo) then e.without (16 * r.chunk) (16 * r.chunk + 16) else [e]) }
    vol := { d.vol with drains := d.vol.drains.filter (· != r) } }

/-- Drain one chunk, where its stripe is free and it can be read (R429). FUA, where a waiting FUA write has a block in it (R409). -/
def Dev.drainChunk (d : Dev) (v ch : Nat) (bad : BadReads) : Dev :=
  match d.volume v with
  | none => d
  | some x =>
    let es := d.chunkEntries v ch
    if !d.stripeFree v x (x.stripe ch) || es.isEmpty || x.state == 4 || x.state == 5 || x.state == 6 then d
    else match d.composeChunk v ch es bad with
      | none => d
      | some (d, ws) =>
        let fua := d.xq.ou.any (fun o => o.fua && (match o.inserted with
          | some (a, b) => es.any (fun e => decide (a ≤ e.order) && decide (e.order < b))
          | none => false))
        let (d, ids) := d.nvmeWrites fua ws
        let r : Drain := { volume := v, chunk := ch, upTo := es.foldl (fun m e => max m e.order) 0, fua := fua, wait := ids }
        let d := { d with vol := { d.vol with drains := d.vol.drains ++ [r] } }
        if ids.isEmpty then d.leaveBuffer r else d

/-- DRAIN_STEP (R429): the oldest block of the buffer whose stripe is free, with the rest of its chunk. `bad`: the sectors whose reads
fail, as observed. -/
def execDrainStep (bad : List (Fin 16 × Nat)) (s : State) : Host.Outcome State Fault Refusal :=
  s.onDev (fun _ d =>
    match d.xq.buffer.find? (fun e => match d.volume e.volume with
        | some x => d.stripeFree e.volume x (x.stripe (e.first / 16)) && x.state != 4 && x.state != 5 && x.state != 6
        | none => false) with
    | none => d
    | some e => d.drainChunk e.volume (e.first / 16) (bad.map (fun b => (b.1.val, b.2))))

/-- The volumes a FLUSH names (R400). -/
def Dev.flushVolumes (d : Dev) (o : OuCmd) : List Nat :=
  if o.volume = 0xFFFF then (d.vol.vols.filter (fun e => e.2.owner == o.inst)).map (·.1) else [o.volume]

/-- Issue an NVMe Flush to every present member of a list of volumes. -/
def Dev.issueFlush (d : Dev) (vs : List Nat) : Dev × List (Nat × Nat) :=
  let ns := (vs.flatMap (fun v => match d.volume v with | some x => x.members.filterMap id | none => [])).eraseDups
  ns.foldl (fun (acc : Dev × List (Nat × Nat)) n =>
    let (d, w) := acc.1.nvme n 0 none false
    (d, acc.2 ++ [w])) (d, [])

/-- Let one waiting command of the ordering unit go on: a FUA write whose blocks have all drained completes (R409), with 0x0400 where
its volume has FAILED (R428); a checked FLUSH issues its NVMe Flush once the blocks before it have drained, and completes once those
have (R410). -/
def Dev.settleOuCmd (c : CoreSt) (d : Dev) (o : OuCmd) : Dev :=
  match d.ouCmd o.inst o.pair o.cid with
  | none => d
  | some o =>
    if o.writes then
      match o.inserted with
      | none => d
      | some (a, b) =>
        if d.xq.buffer.any (fun e => e.volume == o.volume && decide (a ≤ e.order) && decide (e.order < b)) then d
        else d.endOu c o (if d.failedVolume o.volume then 0x0400 else if o.truncated then 1 else 0)
    else if o.op == 3 && o.checked then
      let vs := d.flushVolumes o
      match o.flushed with
      | none =>
        if d.xq.buffer.any (fun e => vs.contains e.volume && decide (e.order < o.needs)) then d
        else
          let (d, ids) := d.issueFlush vs
          if ids.isEmpty then d.endOu c o 0 else d.setOu { o with flushed := some ids }
      | some [] => d.endOu c o 0
      | some _ => d
    else d

/-- Let every waiting command of the ordering unit go on. -/
def Dev.settleOu (d : Dev) (c : CoreSt) : Dev := (d.xq.ou.foldl (Dev.settleOuCmd c) d).ouFlags

/-- FLUSH (R400, R410). -/
def execFlush (ref : CmdRef) (s : State) : Host.Outcome State Fault Refusal :=
  s.onDev (fun c d =>
    match d.ouCmd ref.inst.toNat ref.pair.val ref.cid.toNat with
    | some o =>
      if o.op == 3 && !o.checked then
        match (if o.volume = 0xFFFF then none else d.volumeCheck o.inst o.volume 0 0) with
        | some st => d.endOu c o st
        | none => (d.setOu { o with checked := true }).settleOu c
      else d
    | none => d)

/-! ### Insertion and reads -/

/-- The buffer entries that a WRITE with its data or a DEALLOCATE inserts, numbered from `n` on. -/
def OuCmd.entries (o : OuCmd) (n : Nat) (bs : Bytes) : List BufBlock :=
  if o.op = 4 then [{ volume := o.volume, first := o.lba, count := o.blocks, data := none, order := n }]
  else (List.range o.blocks).map (fun k =>
    { volume := o.volume, first := o.lba + k, data := some (slice bs (4096 * k) 4096), order := n + k })

/-- The command as it stands once its entries are inserted. -/
def OuCmd.insertedAt (o : OuCmd) (n : Nat) (bs : Bytes) : OuCmd :=
  { o with inserted := some (n, n + (o.entries n bs).length), data := some [] }

/-- The insertion itself. -/
def Dev.insertBlocks (d : Dev) (o : OuCmd) (bs : Bytes) : Dev :=
  let n := d.xq.inserted
  let es := o.entries n bs
  let d := { d with xq := { d.xq with buffer := d.xq.buffer ++ es, inserted := n + es.length } }
  (d.setOu (o.insertedAt n bs)).count R.volCntWrblk (if o.op = 2 then o.blocks else 0)

/-- The chunks that hold a command's blocks. -/
def OuCmd.chunks (o : OuCmd) : List Nat := ((List.range o.blocks).map (fun k => (o.lba + k) / 16)).eraseDups

/-- WRITE_INSERT (R406, R408, R409): a WRITE whose data has arrived, or a checked DEALLOCATE, is inserted in one step once no
earlier overlapping command holds it and the buffer has room; without FUA it completes there, and with FUA its chunks drain at once. -/
def execWriteInsert (ref : CmdRef) (s : State) : Host.Outcome State Fault Refusal :=
  s.onDev (fun c d =>
    match d.ouCmd ref.inst.toNat ref.pair.val ref.cid.toNat with
    | none => d
    | some o =>
      match o.data with
      | none => d
      | some bs =>
        if !o.writes || o.inserted.isSome || d.waitsWrite o || d.waitsRead o || c.dumpHold ||
            decide (Config.writeBuffer < bufferUsed d.xq.buffer + bs.length) then d.ouFlags
        else if d.failedVolume o.volume then d.endOu c o 0x0400
        else if o.fua then (o.chunks.foldl (fun d ch => d.drainChunk o.volume ch []) (d.insertBlocks o bs)).settleOu c
        else (d.insertBlocks o bs).endOu c (o.insertedAt d.xq.inserted bs) (if o.truncated then 1 else 0))

/-- The bytes of blocks of a volume as a read takes them (R407): from the buffer, and from the SSDs where the buffer lacks some; or the
status of a failure. None: no engine serves, so that the read waits. -/
def Dev.readBlocks (x : Vol) (v : Nat) (bad : BadReads) : List Nat → Dev → Option (Dev × Except Nat Bytes)
  | [], d => some (d, .ok [])
  | ch :: rest, d =>
    let es := d.chunkEntries v ch
    let base : Option (Dev × Except Nat Bytes) :=
      if allCovered v ch es then some (d, .ok (List.replicate 65536 0))
      else match d.readChunk x ch bad with
        | (js, .error st) => (d.volJobs x js).map (fun d => (d.readFailed st, .error st))
        | (js, .ok r) => (d.volJobs x js).map (fun d => (d.afterRead r, .ok r.bytes))
    match base with
    | some (d, .ok bs) =>
      match Dev.readBlocks x v bad rest d with
      | some (d, .ok more) => some (d, .ok (overlay v ch bs es ++ more))
      | r => r
    | r => r

/-- The blocks that a checked READ takes (R407), or the status of a media failure. -/
def Dev.takeBlocks (d : Dev) (o : OuCmd) (bad : List (Fin 16 × Nat)) : Option (Dev × Except Nat Bytes) :=
  let first := o.lba / 16
  let chunks := (List.range ((o.lba + o.blocks - 1) / 16 - first + 1)).map (· + first)
  match d.volume o.volume with
  | none => some (d, .error 0x0400)
  | some x =>
    if x.state = 4 then some (d, .error 0x0400)
    else (Dev.readBlocks x o.volume (bad.map (fun (b : Fin 16 × Nat) => (b.1.val, b.2))) chunks d).map (fun r =>
      (r.1, r.2.map (fun bs => slice bs (4096 * (o.lba - 16 * first)) (4096 * o.blocks))))

/-- READ_DATA_TAKEN (R407, R427): a checked READ with no earlier overlapping write to wait for takes its blocks, writes them to its
data segments and completes. After a media failure the contents of the data buffer are undefined: free values. -/
def execReadDataTaken (ref : CmdRef) (bad : List (Fin 16 × Nat)) (s : State) : Host.Outcome State Fault Refusal :=
  s.onDev (fun c d =>
    match d.ouCmd ref.inst.toNat ref.pair.val ref.cid.toNat with
    | none => d
    | some o =>
      if o.op != 1 || !o.checked || d.waitsWrite o then d
      else match d.takeBlocks o bad with
        | none => d
        | some (d, .error st) =>
          let (bs, d) := d.drawBytes (4096 * o.blocks)
          ((d.writeSegs c o.who o.inst bs o.segs).1.endOu c o st).settleOu c
        | some (d, .ok bs) =>
          let (d, e) := d.writeSegs c o.who o.inst bs o.segs
          match e with
          | some f => ((d.recordFail c o.who o.inst true f).endOu c o f.status).settleOu c
          | none => ((d.count R.volCntRdblk o.blocks).endOu c o (if o.truncated then 1 else 0)).settleOu c)

/-! ### The end of a dump's replay (R61) -/

/-- A dump is over: marked invalid, every volume it held released. -/
def Dev.endDump (d : Dev) (c : CoreSt) (replayed : Bool) : Dev :=
  let held := (d.vol.vols.filter (fun e => e.2.held)).map (·.1)
  let d := { d with acc := { d.acc with dump := d.acc.dump.map (fun (u : Dump) => { u with valid := false, left := [], flushing := [] }) } }
  let d := ((d.setFlag R.devStatus 8 false).setFlag R.devStatus 9 false).setFlag R.devPfail 44 replayed
  held.foldl (fun d v => match d.volume v with
    | some x => (d.setVol v { x with held := false }).settleVol c v
    | none => d) d

/-- A replayed volume whose flush has completed comes online; the dump is invalidated after the last (R61). -/
def Dev.settleDump (d : Dev) (c : CoreSt) : Dev :=
  match d.acc.dump with
  | none => d
  | some u =>
    let flushed := (u.flushing.filter (fun e => e.2.isEmpty)).map (·.1)
    if flushed.isEmpty then d
    else
      let u := { u with left := u.left.filter (fun v => !flushed.contains v), flushing := u.flushing.filter (fun e => !e.2.isEmpty) }
      let d := each flushed (fun v (d : Dev) => match d.volume v with
        | some x => (d.setVol v { x with held := false }).settleVol c v
        | none => d) { d with acc := { d.acc with dump := some u } }
      if u.left.isEmpty then d.endDump c true else d

/-! ### NVMe completions -/

/-- A write or flush on SSD `n` is over for whatever waited for it: drains whose writes are all done leave the buffer (R429), a dump's
replay that waited for a flush goes on (R61), and so do waiting commands. `done` tells which identifiers. -/
def Dev.nvmeOver (d : Dev) (c : CoreSt) (done : Nat × Nat → Bool) : Dev :=
  let d := { d with
    vol := { d.vol with drains := d.vol.drains.map (fun (r : Drain) => { r with wait := r.wait.filter (fun w => !done w) }) }
    xq := { d.xq with ou := d.xq.ou.map (fun (o : OuCmd) => { o with flushed := o.flushed.map (fun (ws : List (Nat × Nat)) => ws.filter (fun w => !done w)) }) } }
  let d := { d with acc := { d.acc with dump := d.acc.dump.map (fun (u : Dump) => { u with
    flushing := u.flushing.map (fun (e : Nat × List (Nat × Nat)) => (e.1, e.2.filter (fun w => !done w))) }) } }
  let d := (d.vol.drains.filter (fun (r : Drain) => r.wait.isEmpty)).foldl Dev.leaveBuffer d
  (d.settleDump c).settleOu c

/-- An SSD becomes FAILED (R419): its volumes lose it and nothing waits for it any longer. -/
def Dev.failSsd (d : Dev) (c : CoreSt) (n : Nat) : Dev :=
  let d := d.setSsd n { d.ssd n with st := .failed }
  (d.loseSsd c n).nvmeOver c (fun w => w.1 == n)

/-- NVME_COMPLETION (R419, R429): a command completes on an SSD; a write that succeeds is on the media, and one that returns an error
status fails the SSD. -/
def execNvmeCompletion (n : Fin 16) (id : Nat) (ok : Bool) (s : State) : Host.Outcome State Fault Refusal :=
  s.onDev (fun c d =>
    let x := d.ssd n.val
    match x.cmds.find? (·.id == id) with
    | none => d
    | some k =>
      if x.resetting then d
      else
        let d := d.setSsd n.val { x with cmds := x.cmds.filter (·.id != id) }
        if ok then
          let d := match k.data with | some bs => d.setSectors n.val k.lba bs | none => d
          d.nvmeOver c (fun w => w == (n.val, id))
        else (d.count R.volCntNvmerr).failSsd c n.val)

/-- NVME_TIMEOUT (R419): the port issues Abort for a command out longer than TIMEOUT. -/
def execNvmeTimeout (n : Fin 16) (id : Nat) (s : State) : Host.Outcome State Fault Refusal :=
  s.onDev (fun _ d =>
    let x := d.ssd n.val
    if x.cmds.any (fun k => k.id == id && !k.abort) && !x.resetting then
      (d.setSsd n.val { x with cmds := x.cmds.map (fun (k : NvmeCmd) => if k.id == id then { k with abort := true } else k) }).count R.volCntNvmerr
    else d)

/-- NVME_ABORT_TIMEOUT (R419): an Abort out longer than 1 s resets the SSD's controller. -/
def execNvmeAbortTimeout (n : Fin 16) (id : Nat) (s : State) : Host.Outcome State Fault Refusal :=
  s.onDev (fun _ d =>
    let x := d.ssd n.val
    if x.cmds.any (fun k => k.id == id && k.abort) && !x.resetting then d.setSsd n.val { x with resetting := true } else d)

/-- SSD_READY_TIMEOUT (R419): a reset controller not ready within 10 s. -/
def execSsdReadyTimeout (n : Fin 16) (s : State) : Host.Outcome State Fault Refusal :=
  s.onDev (fun c d => if (d.ssd n.val).resetting then (d.count R.volCntNvmerr).failSsd c n.val else d)

end Sys2Proof.Machine
end

