-- ==== Sys2Proof/Machine/Volumes.lean ====
section
/-!
DEFINITION. SSD ports and volumes (spec/15_storage_volumes.md): arrival and removal (R418, R420), assembly (R423), rebuild (R430),
roles, the volume commands (R431 to R433), maintenance (R434), and what a dump's replay does to the volumes (R61, R62).
-/

namespace Sys2Proof.Machine

/-! ### Assembly -/

/-- A volume comes online once every member of its generation is present, or, after ASSEMBLE_MS, with at most two missing (R423). -/
def Dev.bringOnline (d : Dev) (c : CoreSt) (v : Nat) : Dev :=
  match d.volume v with
  | none => d
  | some x =>
    if x.online || !(x.missing == 0 || (d.vol.assembled && decide (x.missing ≤ 2))) then d.settleVol c v
    else
      let d := d.setVol v { x with online := true }
      let d := if x.missing = 0 then d else d.raiseGen v
      (d.settleVol c v).startRebuild c v

/-- Is volume `v` held offline by a dump (R61, R62)? -/
def Dev.dumpHolds (d : Dev) (v : Nat) : Bool :=
  match d.acc.dump with
  | some u => u.valid && u.left.contains v
  | none => false

/-- Take one entry of the label of SSD `n` into the volumes (R422, R423): whether it makes the SSD a live member. A stale entry does not. -/
def Dev.takeEntry (d : Dev) (n : Nat) (e : LabelEntry) : Dev × Bool :=
  match keyUnwrap volumeKek e.wrapped with
  | none => (d, false)
  | some ks =>
    let fresh : Vol := { owner := e.owner, level := e.level, elem := e.elem, blocks := e.blocks, start := e.start, gen := e.gen,
                         key1 := ks.take 32, key2 := ks.drop 32, held := d.dumpHolds e.volume
                         members := (List.range e.n).map (fun p => if p = e.position then some n else none) }
    match d.volume e.volume with
    | none =>
      -- a rebuild under way when the device was reset resumes on its SSD (R430)
      match find d.acc.rebuild e.volume with
      | some (p, m, s) =>
        if p = e.position ∧ m = n then (d, true)
        else (d.setVol e.volume { fresh with rebuild := some (p, m), watermark := s }, true)
      | none => (d.setVol e.volume fresh, true)
    | some x =>
      if x.rebuild = some (e.position, n) then (d, true)
      else if e.gen = x.gen ∧ (x.members.getD e.position none).isNone ∧ !x.online then
        (d.setVol e.volume { x with members := x.members.set e.position (some n) }, true)
      else if x.gen < e.gen ∧ !x.online then (d.setVol e.volume fresh, true)
      else (d, false)

/-- Take every entry of a label: whether any is live. -/
def Dev.takeEntries (d : Dev) (n : Nat) : List LabelEntry → Dev × Bool
  | [] => (d, false)
  | e :: es =>
    let (d, a) := d.takeEntry n e
    let (d, b) := d.takeEntries n es
    (d, a || b)

/-- SSDs whose every entry a newer generation has made stale become spares (R422). -/
def Dev.staleSpares (d : Dev) : Dev :=
  each (List.range 16) (fun n (d : Dev) =>
    if (d.ssd n).st == .member && (d.entriesOf n).isEmpty then d.setSsd n { d.ssd n with st := .spare } else d) d

/-- The state a label gives an SSD whose controller is ready (R418, R421), with its volumes assembled (R423). An entry that is no
longer current makes the SSD a spare (R422). -/
def Dev.adoptSsd (d : Dev) (c : CoreSt) (n : Nat) : Dev :=
  let set (d : Dev) (st : SsdSt) : Dev := d.setSsd n { d.ssd n with st := st }
  if d.blankMedia n then set d .free
  else match d.label n with
    | none => set d .foreign
    | some l =>
      if l.device ≠ deviceId then set d .foreign
      else if l.entries.isEmpty then set d (if l.role = 2 then .spare else .free)
      else
        let (d, live) := d.takeEntries n l.entries
        let d := (set d (if live then .member else .spare)).staleSpares
        (l.entries.map (·.volume)).eraseDups.foldl (fun d v => d.bringOnline c v) d

/-- Rebuild whatever can be rebuilt, in volume order (R430). -/
def Dev.startRebuilds (d : Dev) (c : CoreSt) : Dev :=
  (sortNat (keys d.vol.vols)).foldl (fun d v => d.startRebuild c v) d

/-! ### SSD ports -/

/-- SSD_LINK_UP (R418, R51). -/
def execSsdLinkUp (n : Fin 16) (width : BitVec 4) (speed : BitVec 4) (s : State) : Host.Outcome State Fault Refusal :=
  s.onDev (fun c d =>
    let x := d.ssd n.val
    if x.st == .absent && c.mode != .off && c.mode != .rom then
      d.setSsd n.val { x with st := .init, width := width.toNat, speed := speed.toNat }
    else d)

/-- Does an SSD owe a FORMAT_VOLUME, which leaves it in the 4 KiB format (R433, R434)? -/
def Dev.owesFormat (d : Dev) (serial : Bytes) : Bool := d.acc.owed.any (fun m => m.absent.contains serial && !m.sanitise)

/-- An SSD that was absent from a whole-device operation takes its action on arrival (R434). -/
def Dev.owedAction (d : Dev) (n : Nat) (serial : Bytes) : Dev :=
  match d.acc.owed.find? (fun m => m.absent.contains serial) with
  | none => d
  | some _ =>
    let d := d.trimAll n
    let d := d.writeLabel n
    { d with acc := { d.acc with owed := d.acc.owed.map (fun (m : Maint) => { m with absent := m.absent.filter (· != serial) }) } }

/-- SSD_IDENTIFY_DONE (R418): a controller in INIT takes the state its label gives; a controller that was reset has every
outstanding command reissued once, and a command already reissued fails the SSD (R419). -/
def execSsdIdentifyDone (n : Fin 16) (info : SsdInfo) (s : State) : Host.Outcome State Fault Refusal :=
  s.onDev (fun c d =>
    let k := n.val
    let x := d.ssd k
    if x.resetting then
      if x.cmds.any (·.again) then d.failSsd c k
      else d.setSsd k { x with resetting := false, cmds := x.cmds.map (fun (m : NvmeCmd) => { m with abort := false, again := true }) }
    else if x.st != .init then d
    else
      let d := d.setSsd k { x with capacity := info.capacity.toNat, pct := info.pct.toNat, serial := info.serial }
      let fourK := info.fourK || d.owesFormat info.serial
      let d := d.owedAction k info.serial
      let d := if fourK then d.adoptSsd c k else d.setSsd k { d.ssd k with st := .needsFormat }
      (d.partner c true .ssd k).startRebuilds c)

/-- SSD_REMOVAL (R420). -/
def execSsdRemoval (n : Fin 16) (s : State) : Host.Outcome State Fault Refusal :=
  s.onDev (fun c d =>
    let k := n.val
    let x := d.ssd k
    if x.st == .absent then d
    else
      let d := d.setSsd k { st := .absent, serial := x.serial }
      ((d.loseSsd c k).partner c false .ssd k).nvmeOver c (fun w => w.1 == k))

/-- ASSEMBLE_TIMEOUT (R423). -/
def execAssembleTimeout (s : State) : Host.Outcome State Fault Refusal :=
  s.onDev (fun c d =>
    if !c.served || c.time.toNat < 1000000 * d.getF R.volCtrl 47 32 then d else
    let d := { d with vol := { d.vol with assembled := true } }
    (sortNat (keys d.vol.vols)).foldl (fun d v => d.bringOnline c v) d)

/-- The unit that member position `p` holds of stripe `s`, from every data unit. -/
def memberUnit (x : Vol) (p s : Nat) (us : List Bytes) : Bytes :=
  let all := us.map some
  if p = x.pMember s then sumP all
  else if p = x.qMember s then sumQ all
  else us.getD ((p + x.n - x.qMember s - 1) % x.n) []

/-- A rebuild has done its last stripe: the new member is one, VOLUME_GEN rises again (R422, R430). -/
def Dev.endRebuild (d : Dev) (c : CoreSt) (v : Nat) (x : Vol) (p n : Nat) : Dev :=
  let d := d.setVol v { x with members := x.members.set p (some n), rebuild := none, watermark := 0 }
  let d := { d with acc := { d.acc with rebuild := del d.acc.rebuild v } }
  ((d.raiseGen v).settleVol c v).startRebuild c v

/-- REBUILD_STRIPE (R430): the stripe at the watermark, where no drain of it is out; `bad`: the sectors whose reads fail. -/
def execRebuildStripe (v : Fin 64) (bad : List (Fin 16 × Nat)) (s : State) : Host.Outcome State Fault Refusal :=
  s.onDev (fun c d =>
    match d.volume v.val with
    | none => d
    | some x =>
      match x.rebuild with
      | none => d
      | some (p, n) =>
        let st := x.watermark
        if x.state != 3 || d.vol.drains.any (fun r => r.volume == v.val && x.stripe r.chunk == st) then d
        else
          let (ds, pu, qu) := d.stripeUnits x st (bad.map (fun (b : Fin 16 × Nat) => (b.1.val, b.2)))
          match recoverData ds pu qu with
          | none => d
          | some us =>
            let d := d.setSectors n (x.start + 17 * st) (memberUnit x p st us)
            let x := { x with watermark := st + 1 }
            if x.stripes ≤ st + 1 then d.endRebuild c v.val x p n
            else
              let d := { d with acc := { d.acc with rebuild := put d.acc.rebuild v.val (p, n, st + 1) } }
              (d.setVol v.val x).settleVol c v.val)

/-- A role request of the manager (R418): from one state to another, else ROLE_REJECT. -/
def Dev.roleReq (d : Dev) (c : CoreSt) (n : Nat) (from_ to_ : SsdSt) : Dev :=
  let x := d.ssd n
  if x.st = from_ then ((d.setSsd n { x with st := to_ }).writeLabel n).startRebuilds c
  else d.setFlag R.volStatus 3 true

/-- ROLE_REQ_SPARE: VOL_SSD[n].ROLE_REQ 1. -/
def execRoleReqSpare (src : Source) (n : Fin 16) (s : State) : Host.Outcome State Fault Refusal :=
  s.onDev (fun c d => if d.isManager c src then d.roleReq c n.val .free .spare else d)

/-- ROLE_REQ_FREE: ROLE_REQ 2. -/
def execRoleReqFree (src : Source) (n : Fin 16) (s : State) : Host.Outcome State Fault Refusal :=
  s.onDev (fun c d => if d.isManager c src then d.roleReq c n.val .spare .free else d)

/-- WIPE_LABEL: ROLE_REQ 3, of a FOREIGN or FAILED SSD. -/
def execWipeLabel (src : Source) (n : Fin 16) (s : State) : Host.Outcome State Fault Refusal :=
  s.onDev (fun c d =>
    if !d.isManager c src then d
    else if (d.ssd n.val).st == .failed then d.roleReq c n.val .failed .free
    else d.roleReq c n.val .foreign .free)

/-! ### Volume commands -/

/-- Two XTS keys from the device's random source, never equal (R425). -/
def Dev.newKeys (d : Dev) : (Bytes × Bytes) × Dev :=
  let (a, d) := d.drawBytes 32
  let (b, d) := d.drawBytes 32
  ((a, if a = b then (match b with | [] => [] | x :: xs => (x ^^^ 1) :: xs) else b), d)

/-- VOLUME_CREATE (R431). -/
def Dev.volumeCreate (d : Dev) (c : CoreSt) (x : Cmd) : Dev :=
  let a := x.area
  let blocks := le a 0 8
  let start := le a 8 8
  let ports := setBitsOf 16 (le a 0x10 2)
  let v := le a 0x12 2
  let owner := le a 0x14 1
  let level := le a 0x15 1
  let elem := le a 0x16 1
  let n := ports.length
  let okPort (p : Nat) : Bool :=
    ((d.ssd p).st == .free || (d.ssd p).st == .member) && decide ((d.entriesOf p).length < 16) && d.regionFits p start blocks n
  if blocks < 16 ∨ blocks % 16 ≠ 0 ∨ start < 256 ∨ n < 4 ∨ 63 < v ∨ 9 < level ∨ 4 < elem ∨ (d.volume v).isSome ∨
      (d.inst owner).st = .free ∨ !ports.all okPort then d.finish c x 0 0x0201
  else if (d.inst owner).share.volumes ≤ (d.vol.vols.filter (fun e => e.2.owner == owner)).length then d.finish c x 0 0x0501
  else
    let (ks, d) := d.newKeys
    let y : Vol := { owner := owner, level := level, elem := elem, blocks := blocks, start := start, gen := 1, key1 := ks.1, key2 := ks.2,
                     members := ports.map some, online := true }
    let d := ports.foldl (fun d p => (d.trim p start (regionSectors blocks n)).setSsd p { d.ssd p with st := .member }) d
    let d := (d.setVol v y).writeLabels v
    let d := d.setFlag (R.volVol v) 58 (bit (le a 0x17 1) 0)
    (d.settleVol c v).finish c x y.stripes 0

/-- VOLUME_CREATE, from the manager instance's admin pair. -/
def execVolumeCreate (ref : CmdRef) (s : State) : Host.Outcome State Fault Refusal :=
  s.onDev (fun c d => d.admin c ref 0xA2 (fun x d => d.volumeCreate c x))

/-- Remove a volume: its entries leave every label, its regions are deallocated, a member left with none becomes FREE (R432). -/
def Dev.removeVolume (d : Dev) (c : CoreSt) (v : Nat) : Dev :=
  match d.volume v with
  | none => d
  | some x =>
    let ns := x.members.filterMap id ++ (match x.rebuild with | some (_, n) => [n] | none => [])
    let d := { d with vol := { d.vol with vols := del d.vol.vols v }, acc := { d.acc with rebuild := del d.acc.rebuild v } }
    let d := ns.foldl (fun d n =>
      let d := d.trim n x.start (regionSectors x.blocks x.n)
      let d := if (d.entriesOf n).isEmpty then d.setSsd n { d.ssd n with st := .free } else d
      d.writeLabel n) d
    d.settleVol c v

/-- Are commands of a volume in flight, or blocks of it buffered (R432), or is it in state MAINT (R433)? -/
def Dev.volumeBusy (d : Dev) (v : Nat) (x : Vol) : Bool :=
  x.maint || d.xq.ou.any (fun o => o.volume == v || (o.op == 3 && o.volume == 0xFFFF && o.inst == x.owner)) || d.xq.buffer.any (·.volume == v)

/-- VOLUME_DELETE (R432). -/
def execVolumeDelete (ref : CmdRef) (s : State) : Host.Outcome State Fault Refusal :=
  s.onDev (fun c d => d.admin c ref 0xA3 (fun x d =>
    let v := le x.area 0 2
    match d.volume v with
    | none => d.finish c x 0 0x0201
    | some y => if d.volumeBusy v y then d.finish c x 0 0x0500 else (d.removeVolume c v).finish c x 0 0))

/-! ### Maintenance (R433, R434) -/

/-- The operation that a FORMAT_VOLUME or SANITISE asks for, or none where a field is out of range. -/
def maintOf (x : Cmd) : Option Maint :=
  let a := x.area
  let sanitise := x.op == 0xA0
  let m := le a 2 1
  let overrun := sanitise && m == 2
  let passes := le a 3 1
  if (if sanitise then 3 ≤ m else 2 ≤ m) ∨ (overrun && (passes == 0 || decide (16 < passes))) then none
  else if !overrun then some { sanitise := sanitise, volume := le a 0 2, method := m }
  else some { sanitise := true, volume := le a 0 2, method := 2, passes := passes, pattern := le a 4 4, invert := bit (le a 8 1) 0 }

/-- VOL_MAINT while an operation runs, and its progress out of `all` parts. -/
def Dev.maintReg (d : Dev) (m : Maint) (done all : Nat) : Dev :=
  let v := (m.volume % 65536) <<< 32 + (if m.sanitise then 1 else 2) <<< 28 + (m.method % 4) <<< 26 + 1 <<< 25 +
    min 65535 (done * 65536 / max 1 all)
  d.setReg R.volMaint (BitVec.ofNat 64 v)

/-- The end of an operation (R433): STATUS, the log entry, MAINT_DONE. -/
def Dev.maintEnd (d : Dev) (c : CoreSt) (m : Maint) : Dev :=
  let d := ((d.setF R.volMaint 63 48 0).setFlag R.volMaint 25 false).setF R.volMaint 15 0 65535
  let d := { d with acc := { d.acc with maint := d.acc.maint.filter (·.volume != m.volume) } }
  (d.logEvent c.time 10 0 0 (toLE 8 (d.reg R.volMaint).toNat)).raiseEvent 8

/-- Start a one-volume operation: the volume is in MAINT (R433). -/
def Dev.startVolMaint (d : Dev) (c : CoreSt) (m : Maint) : Dev :=
  match d.volume m.volume with
  | none => d
  | some y =>
    let d := { d with acc := { d.acc with maint := d.acc.maint ++ [m] } }
    ((d.setVol m.volume { y with maint := true }).settleVol c m.volume).maintReg m 0 1

/-- A FORMAT_VOLUME or SANITISE in SERVICE: a whole-device operation goes to QUIESCED with the command waiting (R33), and completes on
entry to MAINTENANCE; a one-volume one completes once it is recorded. -/
def maintCommand (ref : CmdRef) (op : Nat) (y : CoreSt × Dev) : CoreSt × Dev :=
  let (c, d) := y
  match d.take ref op isAdminOp with
  | none => y
  | some x =>
    if d.saf.regRestart || d.saf.regHalted then (c, d.admin c ref op (fun _ d => d))
    else
      let d := d.startCmd x.inst x.pair x.cid
      match maintOf x with
      | none => (c, d.finish c x 0 0x0201)
      | some m =>
        if m.volume = 0xFFFF then
          if d.acc.maint.any (·.volume == 0xFFFF) then (c, d.finish c x 0 0x0500)
          else if c.mode ≠ .service then (c, d.finish c x 0 0x0600)
          else
            let (c, d) := changeMode .quiesced (c, d)
            ({ c with quiesceFor := some (.maintenance (x.inst, x.pair, x.cid) m.sanitise m.method), drained := false }, d)
        else if (d.volume m.volume).isNone ∨ (m.sanitise ∧ m.method = 1) then (c, d.finish c x 0 0x0201)
        else if d.acc.maint.any (·.volume == m.volume) then (c, d.finish c x 0 0x0500)
        else (c, (d.startVolMaint c m).finish c x 0 0)

/-- FORMAT_VOLUME (R433). -/
def execFormatVolume (ref : CmdRef) (s : State) : Host.Outcome State Fault Refusal :=
  s.onAll (maintCommand ref 0xA1)

/-- SANITISE (R433). -/
def execSanitise (ref : CmdRef) (s : State) : Host.Outcome State Fault Refusal :=
  s.onAll (maintCommand ref 0xA0)

/-- Bytes of an overwrite pass: the 4-byte pattern, inverted in every second pass with INVERT. -/
def passBytes (m : Maint) (n : Nat) : Bytes :=
  let p := if m.invert ∧ m.pass % 2 = 1 then 2 ^ 32 - 1 - m.pattern else m.pattern
  (List.range (n / 4)).flatMap (fun _ => toLE 4 p)

/-- A one-volume operation is done: new keys, every slot and parity unit deallocated, buffered blocks of the old contents dropped (log
entry 27). -/
def Dev.finishVolMaint (d : Dev) (c : CoreSt) (m : Maint) : Dev :=
  match d.volume m.volume with
  | none => d.maintEnd c m
  | some y =>
    let (ks, d) := d.newKeys
    let d := (y.members.filterMap id).foldl (fun d n => d.trim n y.start (regionSectors y.blocks y.n)) d
    let d := { d with
      xq := { d.xq with buffer := d.xq.buffer.filter (·.volume != m.volume) }
      vol := { d.vol with drains := d.vol.drains.filter (·.volume != m.volume) } }
    let d := (d.setVol m.volume { y with key1 := ks.1, key2 := ks.2, maint := false }).writeLabels m.volume
    ((d.settleVol c m.volume).maintEnd c m).settleOu c

/-- Replace a recorded operation. -/
def Dev.setMaint (d : Dev) (m : Maint) : Dev :=
  { d with acc := { d.acc with maint := d.acc.maint.map (fun k => if k.volume == m.volume then m else k) } }

/-- One member's part of a one-volume operation. -/
def Dev.volMaintStep (d : Dev) (c : CoreSt) (m : Maint) (n : Nat) : Dev :=
  match d.volume m.volume with
  | none => d
  | some y =>
    let ms := y.members.filterMap id
    if !ms.contains n || look m.ports n 0 == 2 then d
    else
      let sectors := regionSectors y.blocks y.n
      let overrun := m.sanitise && m.method == 2
      let d := if overrun then d.setSectors n y.start (passBytes m (4096 * sectors)) else d.trim n y.start sectors
      let m := { m with ports := put m.ports n 2 }
      let done := ms.countP (fun k => look m.ports k 0 == 2)
      if done < ms.length then (d.setMaint m).maintReg m (m.pass * ms.length + done) (m.passes * ms.length)
      else if overrun ∧ m.pass + 1 < m.passes then
        let m := { m with pass := m.pass + 1, ports := [] }
        (d.setMaint m).maintReg m (m.pass * ms.length) (m.passes * ms.length)
      else d.finishVolMaint c m

/-- The SSDs a whole-device operation acts on: those present. -/
def Dev.presentSsds (d : Dev) : List Nat := (List.range 16).filter (fun n => (d.ssd n).st != .absent && (d.ssd n).st != .init)

/-- MAINTENANCE_STEP (R434): one SSD's part of the operation on volume `v` (0xFFFF: the whole device, in MAINTENANCE). -/
def execMaintenanceStep (v : BitVec 16) (n : Fin 16) (s : State) : Host.Outcome State Fault Refusal :=
  s.onDev (fun c d =>
    match d.acc.maint.find? (·.volume == v.toNat) with
    | none => d
    | some m =>
      if m.volume = 0xFFFF then
        if c.mode = .maintenance ∧ d.presentSsds.contains n.val ∧ look m.ports n.val 0 ≠ 2 then
          let d := d.trimAll n.val
          let m := { m with ports := put m.ports n.val 2 }
          let all := d.presentSsds
          (d.setMaint m).maintReg m (all.countP (fun k => look m.ports k 0 == 2)) all.length
        else d
      else if c.mode = .service then d.volMaintStep c m n.val else d)

/-- Has every present SSD done its part of the whole-device operation? -/
def Dev.wholeMaintDone (d : Dev) : Option Maint :=
  (d.acc.maint.find? (·.volume == 0xFFFF)).filter (fun m => d.presentSsds.all (fun n => look m.ports n 0 == 2))

/-- The end of a whole-device operation (R433): SANITISE deletes every volume and blanks every label; FORMAT_VOLUME keeps every volume
with new keys, empty, and rewrites the labels. SSDs that were absent still owe it (R434). -/
def Dev.finishWholeMaint (d : Dev) (c : CoreSt) (m : Maint) : Dev :=
  let d := { d with
    xq := { d.xq with buffer := [] }
    vol := { d.vol with drains := [] }
    acc := { d.acc with owed := if m.absent.isEmpty then d.acc.owed else d.acc.owed ++ [m] } }
  let vs := sortNat (keys d.vol.vols)
  let d := if m.sanitise then
      vs.foldl (fun d v => { d with vol := { d.vol with vols := del d.vol.vols v } }.settleVol c v) d
    else
      vs.foldl (fun d v =>
        match d.volume v with
        | none => d
        | some y =>
          let (ks, d) := d.newKeys
          (d.setVol v { y with key1 := ks.1, key2 := ks.2 }).settleVol c v) d
  let d := d.presentSsds.foldl (fun d n =>
    let x := d.ssd n
    let st := if m.sanitise then (if x.st == .needsFormat then x.st else .free)
      else if (d.entriesOf n).isEmpty then .free else .member
    (d.setSsd n { x with st := st }).writeLabel n) d
  d.maintEnd c m

/-! ### Dumps and volumes (R61, R62) -/

/-- Write a chunk of a dump to its volume at once, with its parity. -/
def Dev.replayChunk (v : Nat) (es : List BufBlock) (d : Dev) (ch : Nat) : Dev :=
  let mine := es.filter (fun e => e.volume == v && (List.range 16).any (fun k => e.covers v (16 * ch + k)))
  match d.composeChunk v ch mine [] with
  | none => d
  | some (d, ws) => ws.foldl (fun d w => d.setSectors w.1 w.2.1 w.2.2) d

/-- Replay the dump that CONFIGURE found to every volume of it that is ready and not replayed yet, and flush that volume (R61). It stays
offline until the flush has completed (log entry 122). -/
def Dev.replayDump (d : Dev) (c : CoreSt) : Dev :=
  match d.acc.dump with
  | none => d
  | some u =>
    if !u.valid || !u.found || (u.flagged && !u.ordered) then d
    else
      let ready := if d.volEngine.isNone then [] else
        u.left.filter (fun v => (find u.flushing v).isNone && (match d.volume v with | some x => x.online | none => false))
      let d := each ready (fun v (d : Dev) =>
        let es := u.blocks.filter (·.volume == v)
        let chunks := (es.flatMap (fun e => (List.range (e.count / 16 + 2)).map (fun k => e.first / 16 + k))).eraseDups
        let (d, ids) := (chunks.foldl (Dev.replayChunk v es) d).issueFlush [v]
        { d with acc := { d.acc with dump := d.acc.dump.map (fun (u : Dump) => { u with flushing := put u.flushing v ids }) } }) d
      if u.left.isEmpty then d.endDump c true else d.settleDump c

/-- DUMP_REPLAY (R61): the volume island replays a valid dump, once SERVICE is reached or its volumes are ready. -/
def execDumpReplay (s : State) : Host.Outcome State Fault Refusal :=
  s.onDev (fun c d => if c.dumping || c.mode == .off || c.mode == .rom then d else d.replayDump c)

/-- Order replay of a dump that carries the SAFE-STOP flag (R62): VOL_CTRL.DUMP_ACTION 1. -/
def Dev.orderReplay (d : Dev) (c : CoreSt) : Dev :=
  match d.acc.dump with
  | some u =>
    if u.valid && u.flagged && !u.ordered then
      ({ d with acc := { d.acc with dump := some { u with ordered := true } } }.setFlag R.devStatus 9 false).replayDump c
    else d
  | none => d

/-- Order its discard: DUMP_ACTION 2. -/
def Dev.discardDump (d : Dev) (c : CoreSt) : Dev :=
  match d.acc.dump with
  | some u => if u.valid && u.flagged && !u.ordered then d.endDump c false else d
  | none => d

/-- DUMP_ACTION_REPLAY. -/
def execDumpActionReplay (src : Source) (s : State) : Host.Outcome State Fault Refusal :=
  s.onDev (fun c d => if d.isManager c src && c.served && c.mode != .safeStop then d.orderReplay c else d)

/-- DUMP_ACTION_DISCARD. -/
def execDumpActionDiscard (src : Source) (s : State) : Host.Outcome State Fault Refusal :=
  s.onDev (fun c d => if d.isManager c src && c.served && c.mode != .safeStop then d.discardDump c else d)

end Sys2Proof.Machine
end

