-- ==== Sys2Proof/Machine/Instances.lean ====
section
/-!
DEFINITION. Instances and host functions (spec/19_instances.md, R385, R386): share records, creation, shares, freezing, the edits of
an instance's tables with their invalidations, the manager role, and what a host port, a function or a configuration request does.
Destruction, export and import follow in Sys2Proof/Machine/Migration.lean.
-/

namespace Sys2Proof.Machine

/-! ### Share records (R499, R500) -/

/-- The share that a record gives. -/
def shareOf (b : Bytes) : Share :=
  { galMin := le b 2 1, galMax := le b 3 1, localKib := le b 4 4, atriumKib := le b 8 4, contexts := le b 0xC 4,
    stackMib := le b 0x10 4, annexMib := le b 0x14 4, queueEntries := le b 0x18 4, catBanks := le b 0x1C 1,
    dmaChannels := le b 0x1D 1, digests := le b 0x1E 2, volumes := le b 0x20 1, weight := le b 0x21 1 }

/-- The record of a share, 1,024 bytes. -/
def shareBytes (s : Share) : Bytes :=
  padTo 1024 (toLE 1 1 ++ toLE 1 0 ++ toLE 1 s.galMin ++ toLE 1 s.galMax ++ toLE 4 s.localKib ++ toLE 4 s.atriumKib ++
    toLE 4 s.contexts ++ toLE 4 s.stackMib ++ toLE 4 s.annexMib ++ toLE 4 s.queueEntries ++ toLE 1 s.catBanks ++
    toLE 1 s.dmaChannels ++ toLE 2 s.digests ++ toLE 1 s.volumes ++ toLE 1 s.weight)

/-- Is the record sound (R499)? -/
def shareOk (b : Bytes) : Bool :=
  let s := shareOf b
  le b 0 1 == 1 && decide (s.galMin ≤ 128) && decide (1 ≤ s.galMax) && decide (s.galMax ≤ 128) && decide (s.galMin ≤ s.galMax) &&
  decide (s.localKib ≤ 262144) && decide (s.atriumKib ≤ 65536) && decide (s.contexts ≤ 2031616) && decide (s.stackMib ≤ 393216) &&
  decide (s.annexMib ≤ 4194304) && decide (1 ≤ s.queueEntries) && decide (s.queueEntries ≤ 1048576) && decide (s.catBanks ≤ 128) &&
  decide (s.dmaChannels ≤ 56) && decide (s.digests ≤ 256) && decide (s.volumes ≤ 64) && decide (1 ≤ s.weight)

/-- The share last given to an instance, whether or not it is in force yet. -/
def Inst.latest (x : Inst) : Share := x.nextShare.getD x.share

/-- Do the sums of R500 hold with share `s` for instance `i`? -/
def Dev.totalsOk (d : Dev) (i : Nat) (s : Share) : Bool :=
  let others := ((List.range 256).filter (fun k => k != i && (d.inst k).st != .free)).map (fun k => (d.inst k).latest)
  let sum (f : Share → Nat) : Nat := f s + total (others.map f)
  decide (sum (·.galMin) ≤ 128) && decide (sum (·.contexts) ≤ 2031616) && decide (sum (·.catBanks) ≤ 128) &&
  decide (sum (·.dmaChannels) ≤ 56)

/-- The instance bound to a virtual function. -/
def Dev.boundTo (d : Dev) (port fn : Nat) : Option Nat :=
  (List.range 256).find? (fun i => (d.inst i).bound == some (port, fn))

/-- Is an instance's number FREE, or on its way there: is it being destroyed (log entry 42)? -/
def Inst.gone (x : Inst) : Bool := x.st == .free || x.destroyCmd.isSome

/-- The lowest FREE number. -/
def Dev.lowestFree (d : Dev) : Option Nat := ((List.range 255).map (· + 1)).find? (fun i => (d.inst i).st == .free)

/-- The event routes of a new instance (R457): its three sources to its host vector 0, enabled. -/
def Dev.instanceRoutes (d : Dev) (i : Nat) : Dev :=
  [64 + i, 320 + i, 576 + i].foldl (fun d n => d.setReg (R.evtRoute n) (BitVec.ofNat 64 (1 <<< 63 + 1 <<< 60 + i <<< 40 + i <<< 24))) d

/-- INSTANCE_CREATE (R496). -/
def Dev.instanceCreate (d : Dev) (c : CoreSt) (x : Cmd) : Dev :=
  let a := x.area
  let num := if le a 8 1 = 0 then d.lowestFree else some (le a 8 1)
  let port := le a 9 1
  let fn := le a 10 1
  match num with
  | none => d.finish c x 0 0x0201
  | some i =>
    if (d.inst i).st ≠ .free ∨ 3 < port ∨ fn = 0 ∨ 64 < fn ∨ (d.boundTo port fn).isSome then d.finish c x 0 0x0201
    else match d.adminRead c x (le a 0 8) 1024 with
      | .error d => d
      | .ok b =>
        if !shareOk b then d.finish c x 0 0x0201
        else if !d.totalsOk i (shareOf b) then d.finish c x 0 0x0501
        else (((d.setInst i { st := .active, bound := some (port, fn), share := shareOf b }).instanceRoutes i).dmaBalance).finish c x i 0

/-- INSTANCE_CREATE, from the manager instance. -/
def execInstanceCreate (ref : CmdRef) (s : State) : Host.Outcome State Fault Refusal :=
  s.onDev (fun c d => d.admin c ref 0x90 (fun x d => d.instanceCreate c x))

/-- INSTANCE_SHARE (R501): the new share waits for the next multiple of 100,000 ns. -/
def execInstanceShare (ref : CmdRef) (s : State) : Host.Outcome State Fault Refusal :=
  s.onDev (fun c d => d.admin c ref 0x91 (fun x d =>
    let i := le x.area 8 1
    if (d.inst i).gone then d.finish c x 0 0x0201
    else match d.adminRead c x (le x.area 0 8) 1024 with
      | .error d => d
      | .ok b =>
        if !shareOk b then d.finish c x 0 0x0201
        else if !d.totalsOk i (shareOf b) then d.finish c x 0 0x0501
        else (d.setInst i { d.inst i with nextShare := some (shareOf b) }).finish c x 0 0))

/-! ### Freezing (R507) -/

/-- INSTANCE_FREEZE. -/
def Dev.instanceFreeze (d : Dev) (c : CoreSt) (x : Cmd) : Dev :=
  let i := le x.area 0 1
  let act := le x.area 1 1
  let y := d.inst i
  if i = 0 ∨ 1 < act ∨ y.gone then d.finish c x 0 0x0201
  else match y.st, act with
    | .freezing, _ => d.finish c x 0 0x0500
    | .active, 0 => d.setInst i { y with st := .freezing, freezeCmd := some (x.inst, x.pair, x.cid), freezeAt := c.time.toNat }
    | .frozen, 1 => (d.setInst i { y with st := .active }).finish c x 0 0
    | _, _ => d.finish c x 0 0

/-- INSTANCE_FREEZE, from the manager instance. -/
def execInstanceFreeze (ref : CmdRef) (s : State) : Host.Outcome State Fault Refusal :=
  s.onDev (fun c d => d.admin c ref 0x92 (fun x d => d.instanceFreeze c x))

/-- Does a gallery run a task of instance `i`? -/
def Dev.runsTaskOf (d : Dev) (i : Nat) : Bool :=
  d.doc.task.any (fun t => match find d.doc.runs t.2.1 with | some r => r.inst == i | none => false)

/-- Does the Docent or the Exchange still have something to settle for a run: a completion, a verdict, a cancel, a decrement, a notice, a
page not yet published? -/
def Dev.unsettled (d : Dev) (h : Nat) : Bool :=
  d.doc.intake.any (fun (x : Completion) => x.run == h) || d.doc.held.any (fun (x : Completion) => x.run == h) ||
  d.doc.verdicts.any (fun (x : Nat × Nat × Verdict) => x.1 == h) || d.doc.cancels.any (fun (x : CancelReq) => x.run == h) ||
  d.doc.releases.any (fun (x : Nat × Nat) => x.1 == h) || d.exc.chains.any (fun (x : ExcPage) => x.run == h) ||
  d.exc.notices.any (fun (n : ExcNotice) => match n with
    | .void r _ _ => r == h
    | .runEnd _ => false
    | .publish r _ _ => r == h
    | .release r _ _ => r == h)

/-- Does nothing of instance `i` run: no task, nothing left to settle for its runs, and no fetched command but a PIPELINE_RUN whose run is in
progress (R507)? -/
def Dev.nothingRuns (d : Dev) (i : Nat) : Bool :=
  !d.runsTaskOf i && !(d.doc.runs.any (fun (e : Nat × Run) => e.2.inst == i && d.unsettled e.1)) &&
  (d.xq.cmds.filter (fun x => x.inst == i)).all (fun x =>
    x.op == 0x11 && d.doc.runs.any (fun r => r.2.inst == i && r.2.cmd == some (x.pair, x.cid) && !r.2.ended))

/-- FREEZE_DRAIN_DONE: nothing of a FREEZING instance runs. -/
def execFreezeDrainDone (inst : BitVec 8) (s : State) : Host.Outcome State Fault Refusal :=
  s.onDev (fun c d =>
    let i := inst.toNat
    let y := d.inst i
    if y.st == .freezing && d.nothingRuns i then
      let d := d.setInst i { y with st := .frozen, freezeCmd := none }
      match y.freezeCmd with
      | some (a, q, cid) => d.complete c a q cid 0 0
      | none => d
    else d)

/-- FREEZE_TIMEOUT: the drain exceeds INS_CTRL.FREEZE_MS. -/
def execFreezeTimeout (inst : BitVec 8) (s : State) : Host.Outcome State Fault Refusal :=
  s.onDev (fun c d =>
    let i := inst.toNat
    let y := d.inst i
    if y.st == .freezing && decide (y.freezeAt + 1000000 * d.getF R.insCtrl 31 16 ≤ c.time.toNat) then
      let d := d.setInst i { y with st := .active, freezeCmd := none }
      match y.freezeCmd with
      | some (a, q, cid) => d.complete c a q cid 0 0x0500
      | none => d
    else d)

/-- The Registrar's own accesses (R506). -/
def registrarWho : Who := { source := 10, unit := 0xFF }

/-! ### Tables (R502, R503) -/

/-- INS_TT.BASE. -/
def Dev.tableBase (d : Dev) : Nat := (d.reg R.insTt).toNat

/-- Take a table page: one given back, else the next of the region; none where the region is full. It is cleared. -/
def Dev.newTable (d : Dev) : Option (Dev × Nat) :=
  let clear (d : Dev) (a : Nat) : Dev := (d.writePA registrarWho a (List.replicate 4096 0)).1
  match d.ins.freeTables with
  | a :: rest => some (clear { d with ins := { d.ins with freeTables := rest } } a, a)
  | [] =>
    if d.ins.tablePages < d.ins.tableLimit then
      let a := d.tableBase + 4096 * d.ins.tablePages
      some (clear { d with ins := { d.ins with tablePages := d.ins.tablePages + 1 } } a, a)
    else none

/-- Entry `k` of a table, and writing it. -/
def Dev.entry (d : Dev) (table k : Nat) : Nat := ofLE ((d.readPA (table + 8 * k) 8).bytes 8)
def Dev.setEntry (d : Dev) (table k e : Nat) : Dev := (d.writePA registrarWho (table + 8 * k) (toLE 8 e)).1

/-- The tables under a table, itself included, `fuel` levels down. -/
def Dev.tablesUnder (d : Dev) (table : Nat) : Nat → List Nat
  | 0 => [table]
  | fuel + 1 => table :: (List.range 512).flatMap (fun k =>
      let e := d.entry table k
      if bit e 0 && !bit e 2 then d.tablesUnder (bits e 51 12 <<< 12) fuel else [])

/-- The leaves under a table at `level` that starts at address `va`: (address, level, entry). -/
def Dev.leavesUnder (d : Dev) (table level va : Nat) : Nat → List (Nat × Nat × Nat)
  | 0 => []
  | fuel + 1 => (List.range 512).flatMap (fun k =>
      let e := d.entry table k
      let a := va + k * levelSize level
      if !bit e 0 then []
      else if bit e 2 then [(a, level, e)]
      else d.leavesUnder (bits e 51 12 <<< 12) (level + 1) a fuel)

/-- Every leaf of an instance, in address order. -/
def Dev.leavesOf (d : Dev) (i : Nat) : List (Nat × Nat × Nat) :=
  match (d.inst i).root with
  | none => []
  | some t => d.leavesUnder t 1 0 4

/-- Why a MAP fails: a page is mapped already, or no table page is left. -/
inductive MapFail where
  | mapped | full
deriving DecidableEq, Repr

/-- Put a leaf entry for `va` at `target` level, from the table at `level` on; empty tables in its way are given back. -/
def Dev.mapFrom (d : Dev) (va target e table level : Nat) : Nat → Except MapFail Dev
  | 0 => .error .full
  | fuel + 1 =>
    let k := va / levelSize level % 512
    let old := d.entry table k
    if level = target then
      if !bit old 0 then .ok (d.setEntry table k e)
      else if bit old 2 then .error .mapped
      else
        let sub := bits old 51 12 <<< 12
        if (d.leavesUnder sub (level + 1) 0 4).isEmpty then
          let d := d.setEntry table k e
          .ok { d with ins := { d.ins with freeTables := d.tablesUnder sub 3 ++ d.ins.freeTables } }
        else .error .mapped
    else if bit old 0 then
      if bit old 2 then .error .mapped else d.mapFrom va target e (bits old 51 12 <<< 12) (level + 1) fuel
    else match d.newTable with
      | none => .error .full
      | some (d, t) => (d.setEntry table k (t + 1)).mapFrom va target e t (level + 1) fuel

/-- Map one page of instance `i`. -/
def Dev.mapPage (d : Dev) (i va target e : Nat) : Except MapFail Dev :=
  match (d.inst i).root with
  | some t => d.mapFrom va target e t 1 4
  | none =>
    match d.newTable with
    | none => .error .full
    | some (d, t) => (d.setInst i { d.inst i with root := some t }).mapFrom va target e t 1 4

/-- Map `n` pages, all or none. -/
def Dev.mapPages (d : Dev) (i va pa size target flags : Nat) : Nat → Except MapFail Dev
  | 0 => .ok d
  | n + 1 =>
    match d.mapPage i va target (flags + pa) with
    | .error e => .error e
    | .ok d => d.mapPages i (va + size) (pa + size) size target flags n

/-- Bytes of a page by SIZE code, and its level. -/
def mapSize (code : Nat) : Nat := match code with | 0 => 4096 | 1 => 2097152 | _ => 1073741824
def mapLevel (code : Nat) : Nat := match code with | 0 => 4 | 1 => 3 | _ => 2

/-- Does a DEVICE page lie in the Atrium store or the interleave range (R359, R503)? -/
def devicePageOk (pa size : Nat) : Bool :=
  decide (pa + size ≤ 0x4000000) || (decide (0x10000000000 ≤ pa) && decide (pa + size ≤ 0x800000000000))

/-- A finished map request (INS_MAP_STATUS). -/
def Dev.mapDone (d : Dev) (status : Nat) : Dev := d.setReg R.insMapStatus (BitVec.ofNat 64 (1 <<< 62 + status <<< 32))

/-- Fields of a map request. -/
structure MapReq where
  size : Nat
  host : Bool
  read : Bool
  write : Bool
  carry : Bool
  pasidValid : Bool
  slot : Nat
  pasid : Nat
  count : Nat
  inst : Nat

/-- The request that INS_MAP_CTRL holds. -/
def mapReq (v : Word) : MapReq :=
  { size := fld v 60 59, host := fld v 58 58 == 1, read := fld v 57 57 == 1, write := fld v 56 56 == 1, carry := fld v 55 55 == 1,
    pasidValid := fld v 54 54 == 1, slot := fld v 53 50, pasid := fld v 49 30, count := fld v 19 8, inst := fld v 7 0 }

/-- The entry bits of a leaf (R502), without its address. -/
def MapReq.flags (r : MapReq) : Nat :=
  1 + 4 + (b2n r.read) <<< 3 + (b2n r.write) <<< 4 + (b2n r.host) <<< 5 + (b2n r.carry) <<< 6 + (if r.host then r.slot <<< 52 else 0)

/-- MAP (R503). -/
def Dev.doMap (d : Dev) (r : MapReq) : Dev :=
  let va := (d.reg R.insMapVa).toNat
  let pa := (d.reg R.insMapPa).toNat
  let size := mapSize r.size
  let badPage (k : Nat) : Bool := !devicePageOk (pa + k * size) size
  if r.size = 3 ∨ r.count = 0 ∨ va % size ≠ 0 ∨ pa % size ≠ 0 ∨ 2 ^ 48 < va + r.count * size ∨ (d.inst r.inst).gone ∨
      (if r.host then decide (2 ^ 52 < pa + r.count * size) else (List.range r.count).any badPage) then d.mapDone 0x0201
  else match d.mapPages r.inst va pa size (mapLevel r.size) r.flags r.count with
    | .error .mapped => d.mapDone 0x0201
    | .error .full => d.mapDone 0x0501
    | .ok d =>
      let x := d.inst r.inst
      (d.setInst r.inst { x with leaves := x.leaves + r.count }).mapDone 0

/-- Every TLB: of the galleries, and of the engines by SOURCE and unit, 0xFF where an engine has no units (R504, R506). -/
def allTlbs : List Nat :=
  List.range 128 ++ (List.range 8).map (· + 256) ++ (List.range 16).map (· + 512) ++ (List.range 64).map (· + 768) ++
  [1279, 1535, 1791, 2047, 2048, 2815]

/-- Clear the entry of a leaf at a level. -/
def Dev.unmapFrom (d : Dev) (va target table level : Nat) : Nat → Dev
  | 0 => d
  | fuel + 1 =>
    let k := va / levelSize level % 512
    let e := d.entry table k
    if level = target then d.setEntry table k 0
    else if bit e 0 && !bit e 2 then d.unmapFrom va target (bits e 51 12 <<< 12) (level + 1) fuel
    else d

/-- UNMAP (R503, R504): every page named must be mapped at that size; the entries go, and the request is DONE once every TLB has
acknowledged. -/
def Dev.doUnmap (d : Dev) (r : MapReq) : Dev :=
  let va := (d.reg R.insMapVa).toNat
  let size := mapSize r.size
  let found : Option (List Leaf) := (List.range r.count).foldl (fun acc k =>
    match acc, (d.inst r.inst).root with
    | some ls, some t =>
      (match d.walk (va + k * size) t 1 4 with
       | .ok l => if l.size = size ∧ l.va = va + k * size then some (ls ++ [l]) else none
       | .error _ => none)
    | _, _ => none) (some [])
  match found, (d.inst r.inst).root with
  | some ls, some t =>
    if r.size = 3 ∨ r.count = 0 ∨ 2 ^ 48 < va + r.count * size then d.mapDone 0x0201
    else
      let d := (List.range r.count).foldl (fun d k => d.unmapFrom (va + k * size) (mapLevel r.size) t 1 4) d
      let x := d.inst r.inst
      let d := d.setInst r.inst { x with leaves := x.leaves - r.count }
      let v : Inval := { inst := r.inst, leaves := ls, waiting := allTlbs, request := true }
      { d with ins := { d.ins with inval := d.ins.inval ++ [v] } }.setReg R.insMapStatus (BitVec.ofNat 64 (1 <<< 63))
  | _, _ => d.mapDone 0x0201

/-- SET_PASID (R503). -/
def Dev.doSetPasid (d : Dev) (r : MapReq) : Dev :=
  let x := d.inst r.inst
  if x.gone then d.mapDone 0x0201
  else (d.setInst r.inst { x with pasids := if r.pasidValid then put x.pasids r.slot r.pasid else del x.pasids r.slot }).mapDone 0

/-- A write of INS_MAP_CTRL: the fields take the value, and with GO the request of `op` runs; a request while one is BUSY is ignored
and sets MAP_REJECT (R503). -/
def Dev.mapCtrl (d : Dev) (v : Word) : Dev :=
  let go := fld v 63 63 == 1
  if go && d.flag R.insMapStatus 63 then d.setFlag R.insStatus 1 true
  else
    let d := d.writeReg R.insMapCtrl v
    if !go then d
    else match fld v 62 61 with
      | 0 => d.doMap (mapReq v)
      | 1 => d.doUnmap (mapReq v)
      | 2 => d.doSetPasid (mapReq v)
      | _ => d.mapDone 0x0201

/-- A request of operation `op`: INS_MAP_CTRL with GO and OP. -/
def mapWord (op : Nat) (v : Word) : Word := setFld (setFld v 63 63 1) 62 61 op

/-- MAP (R503). -/
def execMap (src : Source) (ctrl : BitVec 64) (s : State) : Host.Outcome State Fault Refusal :=
  s.onDev (fun c d => if d.isManager c src then d.mapCtrl (mapWord 0 ctrl) else d)

/-- UNMAP (R503, R504). -/
def execUnmap (src : Source) (ctrl : BitVec 64) (s : State) : Host.Outcome State Fault Refusal :=
  s.onDev (fun c d => if d.isManager c src then d.mapCtrl (mapWord 1 ctrl) else d)

/-- SET_PASID (R503). -/
def execSetPasid (src : Source) (ctrl : BitVec 64) (s : State) : Host.Outcome State Fault Refusal :=
  s.onDev (fun c d => if d.isManager c src then d.mapCtrl (mapWord 2 ctrl) else d)

/-- The number of a TLB. A gallery's TLB is named by its logical number. -/
def Dev.tlbOf (d : Dev) : TlbUnit → Nat
  | .gallery p => (d.logicalOf p.val).getD 255
  | .engine s u => s.toNat * 256 + u.toNat

/-! ### The manager role and the ports -/

/-- The bits of XQ_PORT[p] that tell of the link. -/
def Dev.portReg (d : Dev) (p : Nat) : Dev :=
  let x := d.port p
  let v := (d.reg (R.xqPort p)).toNat
  let v := setBits (setBits (setBits (setBits (setBits v 0 0 (b2n x.linkUp)) 1 1 (b2n x.flit)) 15 8 x.width) 19 16 x.speed) 46 40 x.vfs
  d.setReg (R.xqPort p) (BitVec.ofNat 64 v)

/-- The instances whose functions lie on a port: those bound there, and instance 0 where the port holds the role. -/
def Dev.onPortAll (d : Dev) (p : Nat) : List Nat :=
  (List.range 256).filter (fun i => if i = 0 then d.ins.holder == some p else (match (d.inst i).bound with | some (q, _) => q == p | none => false))

/-- A host port reset (R43, R411, R498): every function of the port is reset, its link and its configuration are gone, the role is
unclaimed where the port held it, the port's departure is reported. -/
def Dev.hostPortReset (d : Dev) (c : CoreSt) (p : Nat) : Dev :=
  let up := (d.port p).linkUp
  let d := (d.onPortAll p).foldl (fun d i => d.functionReset i) d
  let d := { d with xq := { d.xq with funcs := d.xq.funcs.filter (fun e => e.1 / 65 != p) } }
  let d : Dev := (d.setPort p { perstLow := (d.port p).perstLow, lanes := (d.port p).lanes }).portReg p
  let d := if d.ins.holder == some p then d.setHolder c none else d
  if up then d.partner c false .hostPort p else d

/-- HOST_PORT_RESET: PERST_N asserted (`perst`), or the link down. -/
def execHostPortReset (port : Fin 4) (perst : Bool) (s : State) : Host.Outcome State Fault Refusal :=
  s.onPin (fun (c, d) =>
    let d := d.hostPortReset c port.val
    (c, d.setPort port.val { d.port port.val with perstLow := perst || (d.port port.val).perstLow }))

/-- PERST_N_DEASSERT (R51): link training may start. -/
def execPerstNDeassert (port : Fin 4) (s : State) : Host.Outcome State Fault Refusal :=
  s.onPin (fun (c, d) => (c, d.setPort port.val { d.port port.val with perstLow := false }))

/-- The named start port takes an unclaimed role (R54, R498). -/
def Dev.namedClaim (d : Dev) (c : CoreSt) : Dev :=
  match d.ins.named with
  | some p => if d.ins.holder.isNone && !d.ins.claimed && (d.port p).linkUp then d.setHolder c (some p) else d
  | none => d

/-- HOST_LINK_UP (R51, R385, R498): in any powered mode, on a port whose PERST_N is deasserted. The link has no more lanes than the port
record selects, and runs in flit mode at 64 GT/s. -/
def execHostLinkUp (port : Fin 4) (speed : BitVec 4) (width : BitVec 8) (flit : Bool) (s : State) :
    Host.Outcome State Fault Refusal :=
  s.onDev (fun c d =>
    let p := port.val
    let x := d.port p
    if x.perstLow || x.linkUp || c.mode == .off then d
    else
      let d := (d.setPort p { x with linkUp := true, speed := speed.toNat, width := min x.lanes width.toNat, flit := flit || speed == 6 }).portReg p
      let d := d.partner c true .hostPort p
      if c.served then d.namedClaim c else d)

/-- The instance that a function presents. -/
def Dev.presented (d : Dev) (port fn : Nat) : Option Nat :=
  if fn = 0 then (if d.ins.holder = some port then some 0 else none) else d.boundTo port fn

/-- FUNCTION_RESET (R411): a function-level reset. -/
def execFunctionReset (port : Fin 4) (fn : Fin 65) (s : State) : Host.Outcome State Fault Refusal :=
  s.onDev (fun _ d =>
    let d := { d with xq := { d.xq with funcs := del d.xq.funcs (port.val * 65 + fn.val) } }
    match d.presented port.val fn.val with
    | some i => d.functionReset i
    | none => d)

/-- What a register of a function's configuration space reads as: the value that the host wrote, else the silicon default (R53). -/
def Dev.configRead (d : Dev) (port fn r : Nat) : Nat := (find (d.func port fn).config r).getD (Config.configSpace fn r).toNat

/-- PCIE_CONFIG_REQUEST (R53): a port whose link is up answers a read; configuration space comes from silicon defaults; a write of a field that the device acts on takes
effect. Virtual functions that a write takes away are reset (log entry 28). -/
def execPcieConfigRequest (port : Fin 4) (fn : Fin 65) (req : ConfigReq) (s : State) : Host.Outcome State Fault Refusal :=
  s.onDev (fun _ d =>
    let k := port.val * 65 + fn.val
    let f := d.func port.val fn.val
    let set (f : Func) : Dev := { d with xq := { d.xq with funcs := put d.xq.funcs k f } }
    match req with
    | .read r =>
      if (d.port port.val).linkUp then
        { d with xq := { d.xq with answers := (port.val, fn.val, r.toNat, d.configRead port.val fn.val r.toNat) :: d.xq.answers } }
      else d
    | .write r v => set { f with config := put f.config r.toNat v.toNat }
    | .msix e m => set { f with msixEnable := e, funcMask := m }
    | .ats e => set { f with ats := e }
    | .numVfs n =>
      if fn.val ≠ 0 then d
      else
        let x := d.port port.val
        let gone := (List.range 256).filter (fun i => match (d.inst i).bound with
          | some (q, g) => q == port.val && decide (n.val < g) && decide (g ≤ x.vfs)
          | none => false)
        let d := gone.foldl (fun d i => d.functionReset i) d
        (d.setPort port.val { d.port port.val with vfs := n.val }).portReg port.val)

/-- ATS_INVALIDATION (R502): it completes once every request that used the translation has its completion. The model holds no cached
host translation, so nothing of the device changes. -/
def execAtsInvalidation (_port : Fin 4) (_fn : Fin 65) (s : State) : Host.Outcome State Fault Refusal :=
  s.onDev (fun _ d => d)

/-! ### Requests in a secured session (R574) -/

/-- Is the management firmware up: a mode in which the Registrar runs its image, and the Registrar running? -/
def Dev.mgmtUp (d : Dev) (c : CoreSt) : Bool :=
  d.registrarUp && (match c.mode with
    | .off => false
    | .rom => false
    | .recovery => false
    | _ => true)

/-- Answer a message. -/
def Dev.reply (d : Dev) (r : MgmtReply) : Dev := { d with mgmt := { d.mgmt with replies := r :: d.mgmt.replies } }

/-- MANAGER_CLAIM (R498, R574): over a session on a physical function's mailbox with mutual authentication, whose requester leaf key has
the given SHA-384. A key that the MANAGER record does not list is answered AUTH_FAIL, a role that is held with ERROR UnexpectedRequest. -/
def execManagerClaim (port : Fin 4) (keyHash : List (BitVec 8)) (s : State) : Host.Outcome State Fault Refusal :=
  s.onDev (fun c d =>
    if !d.mgmtUp c || !(d.port port.val).linkUp then d
    else if !d.ins.managers.contains keyHash then d.reply (.vendor 1 0x0700)
    else if d.ins.holder.isSome then d.reply .unexpectedRequest
    else
      let d := { d with ins := { d.ins with claimed := d.ins.claimed || c.served } }
      (d.setHolder c (some port.val)).reply (.vendor 1 0))

/-- MIGKEY_INSTALL (R574): KEY of 32 bytes, and KEY_ID of 16, not all zero (else BAD_DESCRIPTOR). -/
def execMigkeyInstall (keyHash key keyId : List (BitVec 8)) (s : State) : Host.Outcome State Fault Refusal :=
  s.onDev (fun c d =>
    if !d.mgmtUp c then d
    else if !d.ins.managers.contains keyHash then d.reply (.vendor 2 0x0700)
    else if key.length ≠ 32 ∨ keyId.length ≠ 16 ∨ allZero keyId then d.reply (.vendor 2 0x0201)
    else
      let d := { d with ins := { d.ins with migKey := some (key, keyId) } }
      let d := (d.setReg (R.insMigkeyId 0) (BitVec.ofNat 64 (le keyId 0 8))).setReg (R.insMigkeyId 1) (BitVec.ofNat 64 (le keyId 8 8))
      (d.setFlag R.insStatus 2 true).reply (.vendor 2 0))

end Sys2Proof.Machine
end

