-- ==== Sys2Proof/Machine/Provenance.lean ====
section
/-!
DEFINITION. The Provenance digest engine (spec/18_provenance.md): contexts, requests from hosts and galleries, the lanes, finishing and
comparing, saved state, closing, waiting OPENs and task notices.
-/

namespace Sys2Proof.Machine

/-! ### A request's fields (R488, R491) -/

namespace PrvReq
def op (r : PrvReq) : Nat := le r.bytes 0 1
def flags (r : PrvReq) : Nat := le r.bytes 1 1
def isFinish (r : PrvReq) : Bool := bit r.flags 0 && (r.op == 1 || r.op == 2)
def isCompare (r : PrvReq) : Bool := bit r.flags 1 && r.isFinish
def sgl (r : PrvReq) : Bool := bit r.flags 2
def hmac (r : PrvReq) : Bool := bit r.flags 3 && r.op == 1
def release (r : PrvReq) : Bool := bit r.flags 4 && r.op == 3
def alg (r : PrvReq) : Nat := le r.bytes 2 1
def keyBytes (r : PrvReq) : Nat := le r.bytes 3 1
def context (r : PrvReq) : Nat := le r.bytes 4 1
def dataAddr (r : PrvReq) : Nat := le r.bytes 8 8
def length (r : PrvReq) : Nat := le r.bytes 0x10 4
def sglCount (r : PrvReq) : Nat := le r.bytes 0x14 2
def keyAddr (r : PrvReq) : Nat := le r.bytes 0x18 8
def outAddr (r : PrvReq) : Nat := le r.bytes 0x20 8
def msgLength (r : PrvReq) : Option Nat := if le r.bytes 0x28 8 = 2 ^ 64 - 1 then none else some (le r.bytes 0x28 8)
def complAddr (r : PrvReq) : Nat := le r.bytes 0x30 8
def tag (r : PrvReq) : Nat := le r.bytes 0x38 2
def event (r : PrvReq) : Bool := r.host.isNone && bit (le r.bytes 0x3A 1) 0
def wait (r : PrvReq) : Bool := r.host.isNone && bit (le r.bytes 0x3A 1) 1
/-- OUT_LOCAL, where a gallery request names one. -/
def outLocal (r : PrvReq) : Option Nat :=
  if r.host.isNone && le r.bytes 0x40 8 != 2 ^ 64 - 1 then some (le r.bytes 0x40 8) else none
/-- Who its accesses are made for (R506: SOURCE 4). -/
def who (d : Dev) (r : PrvReq) : Who :=
  { source := 4, unit := 0xFF, run := if r.host.isSome then 0 else ((d.run (ctRun r.task)).map (fun x => x.runId)).getD 0,
    task := if r.host.isSome then 0 else ctNum r.task
    job := match r.host with | some (i, q, cid) => cmdJob i q cid | none => r.gal * 65536 + r.tag }
end PrvReq

/-- The algorithm of a context. -/
def PrvCtx.algo (x : PrvCtx) : DigestAlg := (digestAlg x.alg).getD .sha256

/-- A context that is not FREE, and setting one. -/
def Dev.prvCtx (d : Dev) (k : Nat) : Option PrvCtx := find d.prv.ctx k
def Dev.setPrv (d : Dev) (k : Nat) (x : PrvCtx) : Dev := { d with prv := { d.prv with ctx := put d.prv.ctx k x } }
/-- Zero and free a context. -/
def Dev.freePrv (d : Dev) (k : Nat) : Dev := { d with prv := { d.prv with ctx := del d.prv.ctx k } }

/-- Contexts an instance holds, and the lowest FREE one (R475). -/
def Dev.prvHeld (d : Dev) (i : Nat) : Nat := d.prv.ctx.countP (fun (e : Nat × PrvCtx) => e.2.owner == i)
def Dev.prvFree (d : Dev) : Option Nat := (List.range 256).find? (fun k => (d.prvCtx k).isNone)
def Dev.prvRoom (d : Dev) (i : Nat) : Bool := decide (d.prvHeld i < (d.inst i).share.digests)

/-- Are all eight lanes fenced (R478)? The pair of comparators (R523)? -/
def Dev.lanesGone (d : Dev) : Bool := (List.range 8).all (fun l => d.isFenced Blk.prv l)
def Dev.comparatorsGone (d : Dev) : Bool := d.isFenced Blk.prv 8

/-! ### Completion (R488, R491) -/

/-- Complete a request: the host's entry, or the gallery's record and event; `k` is the context it holds or names. A gallery's record waits for the
responses of the request's writes (R26, R376). -/
def Dev.prvComplete (d : Dev) (c : CoreSt) (r : PrvReq) (k : Option Nat) (trunc : Bool) (verdict status : Nat) : Dev :=
  if r.host.isNone && d.awaits (r.who d) then { d with prv := { d.prv with owed := d.prv.owed ++ [(r, k, trunc, verdict, status)] } }
  else
  let status := if r.host.isNone ∧ 0 < d.lostBytes (r.who d) ∧ status < 0x100 then 0x0401 else status
  let d := if r.host.isNone then d.ackLost (r.who d) else d
  let result := k.getD 0 + (b2n trunc) <<< 8 + verdict <<< 16
  let d := match r.host with
    | some (i, q, cid) => d.complete c i q cid result status
    | none =>
      let d := d.engineWrite r.gal r.complAddr (toLE 2 status ++ toLE 2 1 ++ toLE 2 r.tag ++ toLE 2 0 ++ toLE 4 result ++ toLE 4 0)
      match k with
      | some k => if r.event && !d.isFenced Blk.gal r.gal then d.raiseDirected (1280 + k) ((d.logicalOf r.gal).getD 0) else d
      | none => d
  let d := if 0x100 ≤ status then
      d.setReg R.prvFault (BitVec.ofNat 64 (status <<< 48 + r.inst <<< 40 + k.getD 0 <<< 32 + (b2n k.isNone) <<< 28))
    else d
  if status = 0x0500 then d.count R.prvCntBusy
  else if status = 0x0001 then d.count R.prvCntTrunc
  else if status = 0x0700 then d.count R.prvCntAuthfail
  else d

/-- Complete a request that failed, with its failed access. -/
def Dev.prvFail (d : Dev) (c : CoreSt) (r : PrvReq) (k : Option Nat) (write : Bool) (st : Nat) (f : Option AccFail) : Dev :=
  let d := match f with
    | some f => d.recordFail c (r.who d) r.inst write f
    | none => d
  d.prvComplete c r k ((k.bind d.prvCtx).map (fun x => x.trunc) |>.getD false) 0 st

/-! ### Checks and data of a request (R479, R480) -/

/-- The data segments that LENGTH names, and whether the list was longer; a failed check. -/
def Dev.prvSegs (d : Dev) (r : PrvReq) : Except (Nat × Option AccFail) (List (Nat × Nat) × Bool) :=
  let n := r.length
  if 268435456 < n ∨ (if r.sgl then r.sglCount = 0 ∨ 256 < r.sglCount else r.sglCount ≠ 0) then .error (0x0201, none)
  else
    let w := r.who d
    let segs : Except (Nat × Option AccFail) (List (Nat × Nat) × Bool) :=
      if r.sgl then
        match d.readInst w r.inst r.dataAddr (16 * r.sglCount) with
        | .error f => .error (f.status, some f)
        | .ok (_, true) => .error (0x0401, none)
        | .ok (bs, false) =>
          let es := (List.range r.sglCount).map (fun j => (le bs (16 * j) 8, le bs (16 * j + 8) 8))
          let sum := total (es.map (fun e => e.2))
          if sum < n then .error (0x0200, none) else .ok (takeSegs n es, decide (n < sum))
      else .ok ([(r.dataAddr, n)], false)
    match segs with
    | .error e => .error e
    | .ok (ss, t) =>
      match ss.findSome? (fun (g : Nat × Nat) => if g.2 = 0 then none else d.checkInst w r.inst g.1 g.2 false) with
      | some f => .error (f.status, some f)
      | none => .ok (ss, t)

/-- The addresses that a FINISH names (R483, R488): expected value read, verdict or digest written. -/
def Dev.prvOutCheck (d : Dev) (r : PrvReq) (n : Nat) : Option (AccFail × Bool) :=
  let w := r.who d
  if !r.isFinish then none
  else
    let rd := if r.isCompare then d.checkInst w r.inst r.outAddr n false else none
    let wr := if r.outLocal.isSome then none
      else if r.isCompare then d.checkInst w r.inst (r.outAddr + 64) 8 true else d.checkInst w r.inst r.outAddr n true
    match rd with
    | some f => some (f, false)
    | none => wr.map (fun f => (f, true))

/-- What taking up a data request finds: the bytes to absorb and whether any were ignored; an end with a status; a FAILED context. -/
inductive PrvData where
  | bytes (bs : Bytes) (ignored : Bool)
  | stop (st : Nat) (f : Option AccFail) (write : Bool)
  | failed (st : Nat) (f : Option AccFail)

/-- Read the bytes of a list of segments: poison and host failures tell apart. -/
def Dev.prvRead (d : Dev) (w : Who) (i : Nat) : List (Nat × Nat) → Except AccFail (Bytes × Bool)
  | [] => .ok ([], false)
  | (a, n) :: rest =>
    match (if n = 0 then .ok ([], false) else d.readInst w i a n), d.prvRead w i rest with
    | .ok (b, p), .ok (bs, q) => .ok (b ++ bs, p || q)
    | .error f, _ => .error f
    | _, .error f => .error f

/-- The ranges that a data request reads: its list, and `n` bytes of its data (R480). -/
def Dev.prvRanges (d : Dev) (r : PrvReq) (n : Nat) : List (Nat × Nat) :=
  (if r.sgl then [(r.dataAddr, 16 * r.sglCount)] else []) ++
    (match d.prvSegs r with | .ok (segs, _) => takeSegs n segs | .error _ => [])

/-- Enter the requests of ranges that a request reads in the controllers' queues (R366). -/
def Dev.prvReads (d : Dev) (c : CoreSt) (r : PrvReq) (ranges : List (Nat × Nat)) : Dev :=
  each ranges (fun (g : Nat × Nat) (d : Dev) =>
    if g.2 = 0 ∨ (d.checkInst (r.who d) r.inst g.1 g.2 false).isSome then d else d.requests c (r.who d) r.inst g.1 g.2 false) d

/-- Take up a data request on context `x`. -/
def Dev.prvData (d : Dev) (x : PrvCtx) (r : PrvReq) : PrvData :=
  match d.prvSegs r with
  | .error (st, f) => .stop st f false
  | .ok (segs, longer) =>
    match d.prvOutCheck r x.algo.outBytes with
    | some (f, w) => .stop f.status (some f) w
    | none =>
      let room := match x.total with | some t => t - x.count | none => 2 ^ 64
      let take := min r.length room
      if 2 ^ 61 ≤ x.count + take then .stop 0x0201 none false
      else if d.lanesGone && (decide (x.algo.blockBytes ≤ x.buf.length + take) || r.isFinish) then .stop 0x0500 none false
      else if r.isCompare && d.comparatorsGone then .stop 0x0500 none false
      else match d.prvRead (r.who d) r.inst (takeSegs take segs) with
        | .error f => .failed (match f with | .bus _ .host => 0x0100 | f => f.status) (some f)
        | .ok (_, true) => .failed 0x0401 none
        | .ok (bs, false) => .bytes bs (longer || decide (take < r.length))

/-! ### Finishing (R474, R479, R481, R483) -/

/-- The final padding of a message: over the count, with the HMAC key block before it. -/
def PrvCtx.padBytes (x : PrvCtx) : Bytes := x.algo.pad (x.count + (if x.hmac then x.algo.blockBytes else 0))

/-- Deliver a result: the digest is written; with COMPARE the comparison begins. -/
def Dev.prvResult (d : Dev) (c : CoreSt) (k : Nat) (x : PrvCtx) (r : PrvReq) (status : Nat) (result : Bytes) : Dev :=
  if r.isCompare then d.setPrv k { x with step := .compare status result }
  else
    let d := d.count R.prvCntFinish
    let (d, f) := match r.outLocal with
      | some a => (d.engineWrite r.gal a result, none)
      | none => d.writeInst c (r.who d) r.inst r.outAddr result
    let st := match f with | some f => f.status | none => status
    let d := match f with | some f => d.recordFail c (r.who d) r.inst true f | none => d
    let d := d.prvComplete c r (some k) x.trunc 0 st
    -- Requests queued behind name a context that is FREE now.
    let d := d.freePrv k
    each (x.queue.drop 1) (fun (q : PrvReq) (d : Dev) => d.prvComplete c q (some k) false 0 0x0201) d

/-! ### Saved state (R486, R487) -/

/-- The keys of a state record: XTS keys and TAG key (log entry 25). -/
def prvKey (n : Nat) : Bytes := padTo 32 (Config.deriveKey (0x20 + n) [])

/-- The record of a context in the layout of R486, under three keys, with a NONCE. -/
def PrvCtx.recordWith (key : Nat → Bytes) (x : PrvCtx) (nonce : Bytes) : Bytes :=
  let w := if x.alg = 1 then 4 else 8
  let secret := padTo 200 (x.chain.flatMap (toLE w)) ++ padTo 64 (x.outer.flatMap (toLE w))
  let body := if x.hmac then xtsEncrypt (key 0) (key 1) (ofLE nonce) secret else secret
  let head := toLE 4 0x54535058 ++ toLE 1 1 ++ toLE 1 x.alg ++ toLE 1 (b2n x.hmac + 2 * b2n x.trunc) ++ toLE 1 x.owner ++
    toLE 8 x.count ++ toLE 8 (x.total.getD (2 ^ 64 - 1)) ++ padTo 16 Config.attestation ++ List.replicate 8 0 ++ body ++ nonce ++
    List.replicate 136 0
  head ++ DigestAlg.sha384.hmac (key 2) head

/-- The state record of a context, with a NONCE. -/
def PrvCtx.record (x : PrvCtx) (nonce : Bytes) : Bytes := x.recordWith prvKey nonce

/-- The context a record spells. -/
def PrvCtx.ofRecordWith (key : Nat → Bytes) (b : Bytes) : PrvCtx :=
  let hmac := bit (le b 6 1) 0
  let w := if le b 5 1 = 1 then 4 else 8
  let n := if le b 5 1 < 0x10 then 8 else 25
  let raw := slice b 0x30 264
  let secret := if hmac then xtsDecrypt (key 0) (key 1) (le b 0x138 16) raw else raw
  { owner := le b 7 1, alg := le b 5 1, hmac := hmac, chain := (List.range n).map (fun i => le secret (w * i) w),
    outer := if hmac then (List.range (min n (64 / w))).map (fun i => le secret (200 + w * i) w) else [], count := le b 8 8,
    total := if le b 0x10 8 = 2 ^ 64 - 1 then none else some (le b 0x10 8), trunc := bit (le b 6 1) 1 }

/-- The context a state record spells. -/
def PrvCtx.ofRecord (b : Bytes) : PrvCtx := PrvCtx.ofRecordWith prvKey b

/-- The checks of RESTORE: its status where one fails. -/
def prvRecordStatus (b : Bytes) (inst : Nat) : Option Nat :=
  if le b 0 4 ≠ 0x54535058 ∨ le b 4 1 ≠ 1 ∨ (digestAlg (le b 5 1)).isNone then some 0x0201
  else if slice b 0x18 16 ≠ padTo 16 Config.attestation ∨ le b 7 1 ≠ inst ∨ DigestAlg.sha384.hmac (prvKey 2) (b.take 0x1D0) ≠ slice b 0x1D0 48
  then some 0x0700
  else none

/-! ### Performing requests (R476) -/

/-- Take the first request off a context's queue. -/
def PrvCtx.pop (x : PrvCtx) : PrvCtx := { x with queue := x.queue.drop 1, step := .idle }

/-- SAVE: the record at a block boundary; with RELEASE the context is freed. -/
def Dev.prvSave (d : Dev) (c : CoreSt) (k : Nat) (x : PrvCtx) (r : PrvReq) : Dev :=
  let keep (d : Dev) : Dev := d.setPrv k x.pop
  if x.count % x.algo.blockBytes ≠ 0 then (keep d).prvComplete c r (some k) x.trunc 0 0x0201
  else
    let (nonce, d) := d.drawBytes 16
    match d.writeInst c (r.who d) r.inst r.outAddr (x.record nonce) with
    | (d, some f) => (keep d).prvFail c r (some k) true f.status (some f)
    | (d, none) =>
      let d := (keep d).prvComplete c r (some k) x.trunc 0 0
      if r.release then
        let d := d.freePrv k
        each (x.queue.drop 1) (fun (q : PrvReq) (d : Dev) => d.prvComplete c q (some k) false 0 0x0201) d
      else d

/-- Take up the first request of a context. -/
def Dev.prvStart (d : Dev) (c : CoreSt) (k : Nat) (x : PrvCtx) (r : PrvReq) : Dev :=
  match x.failed with
  | some st => (d.setPrv k x.pop).prvComplete c r (some k) x.trunc 0 st
  | none =>
    if r.op = 3 then d.prvSave c k x r
    else match d.prvData x r with
      | .stop st f w => (d.setPrv k x.pop).prvFail c r (some k) w st f
      | .failed st f => (d.setPrv k { x.pop with failed := some st }).prvFail c r (some k) false st f
      | .bytes bs ignored =>
        let d := d.prvReads c r (d.prvRanges r bs.length)
        let x := { x with buf := x.buf ++ bs, count := x.count + bs.length, trunc := x.trunc || ignored }
        let d := d.count R.prvCntBytes bs.length
        d.setPrv k { x with step := .absorb (b2n ignored) false }

/-- Go on with a context's first request as far as no lane is needed; `fuel` bounds the requests that end. -/
def Dev.prvAdvance (d : Dev) (c : CoreSt) (k : Nat) : Nat → Dev
  | 0 => d
  | fuel + 1 =>
    match d.prvCtx k with
    | none => d
    | some x =>
      match x.queue with
      | [] => d
      | r :: _ =>
        match x.step with
        | .idle => (d.prvStart c k x r).prvAdvance c k fuel
        | .absorb st padded =>
          if x.algo.blockBytes ≤ x.buf.length then d
          else if !r.isFinish then ((d.setPrv k x.pop).prvComplete c r (some k) x.trunc 0 st).prvAdvance c k fuel
          else if !padded then
            if (match x.total with | some t => decide (x.count < t) | none => false) then
              ((d.setPrv k x.pop).prvComplete c r (some k) x.trunc 0 0x0200).prvAdvance c k fuel
            else (d.setPrv k { x with buf := x.buf ++ x.padBytes, step := .absorb st true }).prvAdvance c k fuel
          else
            let inner := x.algo.output x.chain
            if x.hmac then
              let n := x.algo.blockBytes
              (d.setPrv k { x with chain := x.outer, buf := inner ++ x.algo.pad (n + inner.length), step := .outer st })
            else d.prvResult c k x r st inner
        | .outer st => if x.algo.blockBytes ≤ x.buf.length then d else d.prvResult c k x r st (x.algo.output x.chain)
        | .compare _ _ => d

/-- Queue a request on the context it names (R475, R476). -/
def Dev.prvQueue (d : Dev) (c : CoreSt) (r : PrvReq) : Dev :=
  let k := r.context
  match (d.prvCtx k).filter (fun x => x.owner == r.inst) with
  | none => d.prvComplete c r (some k) false 0 0x0201
  | some x =>
    if 8 ≤ x.queue.length then d.prvComplete c r (some k) x.trunc 0 0x0500
    else (d.setPrv k { x with queue := x.queue ++ [r] }).prvAdvance c k 40

/-- The new context of an OPEN, from the HMAC key (R474). -/
def prvNew (r : PrvReq) (a : DigestAlg) (key : Bytes) : PrvCtx :=
  let start (pad : Byte) : List Nat := if r.hmac then a.absorb a.init (a.hmacKey key pad) else a.init
  { owner := r.inst, alg := a.code, hmac := r.hmac, chain := start 0x36, outer := if r.hmac then start 0x5C else [], total := r.msgLength,
    port := r.host.isNone, gal := r.gal, task := r.task, queue := [r] }

/-- Bind a FREE context to an OPEN whose fields and addresses have been checked. -/
def Dev.prvBind (d : Dev) (c : CoreSt) (k : Nat) (r : PrvReq) (a : DigestAlg) : Dev :=
  if r.hmac then
    match d.readInst (r.who d) r.inst r.keyAddr r.keyBytes with
    | .error f => d.prvFail c r none false f.status (some f)
    | .ok (_, true) => d.prvComplete c r none false 0 0x0401
    | .ok (key, false) => ((d.prvReads c r [(r.keyAddr, r.keyBytes)]).setPrv k (prvNew r a key)).prvAdvance c k 40
  else (d.setPrv k (prvNew r a [])).prvAdvance c k 40

/-- OPEN (R475, R491): checked first, so that a refused OPEN takes no context (log entry 38). -/
def Dev.prvOpen (d : Dev) (c : CoreSt) (r : PrvReq) : Dev :=
  match digestAlg r.alg with
  | none => d.prvComplete c r none false 0 0x0201
  | some a =>
    if r.hmac && r.keyBytes == 0 then d.prvComplete c r none false 0 0x0201
    else match d.prvSegs r, d.prvOutCheck r a.outBytes with
      | .error (st, f), _ => d.prvFail c r none false st f
      | _, some (f, w) => d.prvFail c r none w f.status (some f)
      | .ok _, none =>
        if !d.prvRoom r.inst then d.prvComplete c r none false 0 0x0501
        else match d.prvFree with
          | some k =>
            if d.prv.waiting.isEmpty || (r.wait && !d.prv.waiting.any (fun (q : PrvReq) => d.prvRoom q.inst)) then d.prvBind c k r a
            else if r.wait && decide (d.prv.waiting.length < 64) then
              { d with prv := { d.prv with waiting := d.prv.waiting ++ [r] } }
            else d.prvComplete c r none false 0 0x0500
          | none =>
            if r.wait && decide (d.prv.waiting.length < 64) then { d with prv := { d.prv with waiting := d.prv.waiting ++ [r] } }
            else d.prvComplete c r none false 0 0x0500

/-- RESTORE (R487). -/
def Dev.prvRestore (d : Dev) (c : CoreSt) (r : PrvReq) : Dev :=
  match d.readInst (r.who d) r.inst r.keyAddr 512 with
  | .error f => d.prvFail c r none false f.status (some f)
  | .ok (_, true) => d.prvComplete c r none false 0 0x0401
  | .ok (b, false) =>
    let d := d.prvReads c r [(r.keyAddr, 512)]
    match prvRecordStatus b r.inst with
    | some st => d.prvComplete c r none false 0 st
    | none =>
      if !d.prvRoom r.inst then d.prvComplete c r none false 0 0x0501
      else match d.prvFree with
        | none => d.prvComplete c r none false 0 0x0500
        | some k =>
          if !d.prv.waiting.isEmpty then d.prvComplete c r none false 0 0x0500
          else
            let x := { PrvCtx.ofRecord b with port := r.host.isNone, gal := r.gal, task := r.task }
            (d.setPrv k x).prvComplete c r (some k) x.trunc 0 0

/-- The verdict word (R483). -/
def verdictOf (equal : Bool) : Nat := if equal then 0x3C3C else 0xC3C3

/-- The comparison of a context's first request ends (R483 to R485): both comparators found `agree`. -/
def Dev.prvVerdict (d : Dev) (c : CoreSt) (k : Nat) (x : PrvCtx) (r : PrvReq) (status : Nat) (result : Bytes) (agree : Bool) : Dev :=
  let w := r.who d
  let d := d.count R.prvCntFinish
  let free (d : Dev) : Dev :=
    each (x.queue.drop 1) (fun (q : PrvReq) (d : Dev) => d.prvComplete c q (some k) false 0 0x0201) (d.freePrv k)
  if !agree then free (((d.setFlag R.prvStatus 2 true).prvComplete c r (some k) x.trunc 0 0x0402).setF R.prvFault 31 29 x.lane)
  else match d.readInst w r.inst r.outAddr result.length with
    | .error f => free (d.prvFail c r (some k) false f.status (some f))
    | .ok (_, true) => free (d.prvComplete c r (some k) x.trunc 0 0x0401)
    | .ok (expected, false) =>
      let d := d.prvReads c r [(r.outAddr, result.length)]
      let v := verdictOf (expected == result)
      let word := toLE 8 (v + (b2n x.trunc) <<< 16)
      let (d, f) := match r.outLocal with
        | some a => (d.engineWrite r.gal a word, none)
        | none => d.writeInst c w r.inst (r.outAddr + 64) word
      match f with
      | some f => free (d.prvFail c r (some k) true f.status (some f))
      | none => free (d.prvComplete c r (some k) x.trunc v status)

/-- Close a context (R489); `records` says whether its requests complete. -/
def Dev.prvCloseCtx (d : Dev) (c : CoreSt) (k : Nat) (records : Bool) : Dev :=
  match d.prvCtx k with
  | none => d
  | some x =>
    let abort (d : Dev) (qs : List PrvReq) : Dev :=
      if records then each qs (fun (q : PrvReq) (d : Dev) => d.prvComplete c q (some k) x.trunc 0 0x0100) d else d
    match x.queue, x.step with
    | r :: rest, .compare _ result =>
      if records then abort (d.prvVerdict c k { x with queue := [r] } r 0x0002 result true) rest else d.freePrv k
    | r :: rest, .outer _ =>
      -- The message is absorbed; only the outer hash of the HMAC is left.
      if records then
        let x := { x with chain := x.algo.absorbAll (x.buf.length / x.algo.blockBytes) x.chain x.buf, queue := [r] }
        let result := x.algo.output x.chain
        let d := d.count R.prvCntBlocks (x.buf.length / x.algo.blockBytes)
        abort (if r.isCompare then d.prvVerdict c k x r 0x0002 result true else d.prvResult c k x r 0x0002 result) rest
      else d.freePrv k
    | qs, _ => abort (d.freePrv k) qs

/-- CLOSE. -/
def Dev.prvClose (d : Dev) (c : CoreSt) (r : PrvReq) : Dev :=
  match (d.prvCtx r.context).filter (fun x => x.owner == r.inst) with
  | none => d.prvComplete c r (some r.context) false 0 0x0201
  | some _ => (d.prvCloseCtx c r.context true).prvComplete c r (some r.context) false 0 0

/-- Accept a request, by its OP. -/
def Dev.prvAccept (d : Dev) (c : CoreSt) (r : PrvReq) : Dev :=
  match r.op with
  | 1 => d.prvOpen c r
  | 2 => d.prvQueue c r
  | 3 => d.prvQueue c r
  | 4 => d.prvRestore c r
  | 5 => d.prvClose c r
  | _ => d.prvComplete c r none false 0 0x0201

/-! ### Where requests come from -/

/-- DIGEST_SUBMIT's opcode. -/
def isDigestOp (op : Nat) : Bool := op == 0x28

/-- The request that a gallery's port write names; none: an error response (R491, log entry 32). -/
def Dev.prvPortReq (d : Dev) (p v : Nat) : Option PrvReq :=
  let t := (d.core p).task
  let r : PrvReq := { gal := p, task := t, inst := ctInst t, bytes := d.localRead p v 128 }
  if localOk v 128 128 && localOk r.complAddr 16 16 && (match r.outLocal with | some a => !r.isFinish || localOk a 8 64 | none => true) then
    some r
  else none

/-- A port write to SUBMIT; true: an error response. -/
def Dev.prvSubmit (d : Dev) (c : CoreSt) (p v : Nat) : Dev × Bool :=
  match d.prvPortReq p v with
  | none => (d, true)
  | some r => (d.prvAccept c r, false)

/-- Accept the request of OP `op` that a host command or a port write carries. -/
def digestFrom (src : DigestFrom) (op : Nat) (s : State) : Host.Outcome State Fault Refusal :=
  s.onDev (fun c d =>
    match src with
    | .host ref =>
      match d.take ref 0x28 isDigestOp with
      | none => d
      | some x =>
        let r : PrvReq := { host := some (x.inst, x.pair, x.cid), inst := x.inst, bytes := padTo 128 (x.area.take 0x30) }
        if r.op == op || (op == 1 && (r.op == 0 || decide (5 < r.op))) then (d.startCmd x.inst x.pair x.cid).prvAccept c r else d
    | .port p v =>
      match d.prvPortReq p.val v.toNat with
      | none => d.postError p.val 0x60000 0
      | some r => if r.op == op || (op == 1 && (r.op == 0 || decide (5 < r.op))) then d.prvAccept c r else d)

/-- DIGEST_OPEN (R475); a request with a reserved OP is turned away here too. -/
def execDigestOpen (src : DigestFrom) (s : State) : Host.Outcome State Fault Refusal := digestFrom src 1 s
/-- DIGEST_UPDATE (R480). -/
def execDigestUpdate (src : DigestFrom) (s : State) : Host.Outcome State Fault Refusal := digestFrom src 2 s
/-- DIGEST_SAVE (R486). -/
def execDigestSave (src : DigestFrom) (s : State) : Host.Outcome State Fault Refusal := digestFrom src 3 s
/-- DIGEST_RESTORE (R487). -/
def execDigestRestore (src : DigestFrom) (s : State) : Host.Outcome State Fault Refusal := digestFrom src 4 s
/-- DIGEST_CLOSE (R489). -/
def execDigestClose (src : DigestFrom) (s : State) : Host.Outcome State Fault Refusal := digestFrom src 5 s

/-! ### Lanes, comparators, waiting OPENs, notices -/

/-- Is a context ready for a lane (R477)? -/
def PrvCtx.ready (x : PrvCtx) : Bool :=
  decide (x.algo.blockBytes ≤ x.buf.length) && (match x.step with | .absorb _ _ => true | .outer _ => true | _ => false)

/-- PRV_LANE_BLOCK: lane `l` computes one block of the next ready context in rotation; every block is computed twice and agrees (a
disagreement is FAULT_REPORT's). -/
def execPrvLaneBlock (l : Fin 8) (s : State) : Host.Outcome State Fault Refusal :=
  s.onDev (fun c d =>
    if d.isFenced Blk.prv l.val then d
    else match ((List.range 256).map (fun j => (d.prv.last + 1 + j) % 256)).find? (fun k => match d.prvCtx k with
        | some x => x.ready
        | none => false) with
    | none => d
    | some k =>
      match d.prvCtx k with
      | none => d
      | some x =>
        let n := x.algo.blockBytes
        let d := { d with prv := { d.prv with last := k } }
        ((d.setPrv k { x with chain := x.algo.absorb x.chain (x.buf.take n), buf := x.buf.drop n, lane := l.val }).count R.prvCntBlocks).prvAdvance
          c k 40)

/-- PRV_COMPARE_DONE: both comparators of a context's comparison have finished; `agree` where they found the same. -/
def execPrvCompareDone (k : BitVec 8) (agree : Bool) (s : State) : Host.Outcome State Fault Refusal :=
  s.onDev (fun c d =>
    match d.prvCtx k.toNat with
    | none => d
    | some x =>
      match x.queue, x.step with
      | r :: _, .compare st result => d.prvVerdict c k.toNat x r st result agree
      | _, _ => d)

/-- PRV_OPEN_RESUME: the first waiting OPEN whose instance has room takes a freed context. -/
def execPrvOpenResume (s : State) : Host.Outcome State Fault Refusal :=
  s.onDev (fun c d =>
    match d.prvFree, d.prv.waiting.find? (fun (r : PrvReq) => d.prvRoom r.inst) with
    | some k, some r =>
      let d := { d with prv := { d.prv with waiting := d.prv.waiting.erase r } }
      match digestAlg r.alg with
      | some a => d.prvBind c k r a
      | none => d
    | _, _ => d)

/-- PRV_TASK_NOTICE: every context that the task opened is closed, without records. -/
def execPrvTaskNotice (s : State) : Host.Outcome State Fault Refusal :=
  s.onDev (fun c d =>
    match d.prv.notices with
    | [] => d
    | n :: rest =>
      let ks := (d.prv.ctx.filter (fun (e : Nat × PrvCtx) => e.2.port && e.2.gal == n.gal && e.2.task == n.task)).map (fun e => e.1)
      let d := { d with prv := { d.prv with
        notices := rest
        waiting := d.prv.waiting.filter (fun (r : PrvReq) => !(r.gal == n.gal && r.task == n.task))
        owed := d.prv.owed.filter (fun (e : PrvReq × Option Nat × Bool × Nat × Nat) => e.1.host.isSome || !(e.1.gal == n.gal && e.1.task == n.task)) } }
      each ks (fun k (d : Dev) => d.prvCloseCtx c k false) d)

/-- Every lane is fenced (R478): each request that needs one completes with BUSY_RETRY, its bytes not yet absorbed dropped (log entry
39). -/
def Dev.prvNoLanes (d : Dev) (c : CoreSt) : Dev :=
  if !d.lanesGone then d
  else each (d.prv.ctx.filter (fun (e : Nat × PrvCtx) => e.2.ready)) (fun (e : Nat × PrvCtx) (d : Dev) =>
    let x := e.2
    match x.queue with
    | [] => d
    | r :: _ =>
      ((d.setPrv e.1 { x.pop with buf := [], count := x.count - min x.count x.buf.length }).prvComplete c r (some e.1) x.trunc 0 0x0500).prvAdvance
        c e.1 40) d

end Sys2Proof.Machine
end

