-- ==== Sys2Proof/Machine/Destroy.lean ====
section
/-!
DEFINITION. INSTANCE_DESTROY (R497), step by step, and the acknowledgement of invalidations (R504). Destruction begins with the
function reset; its other steps follow once the cancelled runs have ended, and the command completes once every TLB has
acknowledged.
-/

namespace Sys2Proof.Machine

/-- The event sources that an instance owns (R456): its own three, and the SOFT sources whose OWNER it is. -/
def Dev.ownedSources (d : Dev) (i : Nat) : List Nat :=
  [64 + i, 320 + i, 576 + i] ++ ((List.range 2048).map (· + 2048)).filter (fun n => d.getF (R.evtRoute n) 47 40 == i)

/-- Disable and clear the Catalogue groups of an instance, with what waits at its sets (R264, R497). -/
def Dev.dropGroups (d : Dev) (i : Nat) : Dev :=
  let d := (d.cat.grp.filter (fun (e : Nat × CatGrp) => e.2.owner == i)).foldl
    (fun (d : Dev) (e : Nat × CatGrp) => (d.setFlag (R.catGroup e.1) 63 false).dropGrp e.1 e.2) d
  { d with cat := { d.cat with
    sets := d.cat.sets.filter (fun (e : Nat × CatSet) => e.1 / 64 != i)
    intake := d.cat.intake.filter (fun (e : Nat × List CatKey) => e.1 / 64 != i)
    jobs := d.cat.jobs.filter (fun (j : CatJob) => j.inst != i) } }

/-- Close every digest context of an instance. -/
def Dev.closeDigests (d : Dev) (i : Nat) : Dev :=
  { d with prv := { d.prv with
    ctx := d.prv.ctx.filter (fun (e : Nat × PrvCtx) => e.2.owner != i)
    waiting := d.prv.waiting.filter (fun (r : PrvReq) => r.inst != i) } }

/-- Remove every mapping of an instance: its tables are given back, and an invalidation of its leaves goes to every TLB (R504). -/
def Dev.dropMappings (d : Dev) (i : Nat) : Dev :=
  let x := d.inst i
  match x.root with
  | none => d
  | some t =>
    let ls := (d.leavesOf i).map (fun (l : Nat × Nat × Nat) => leafOf l.1 (levelSize l.2.1) l.2.2)
    let v : Inval := { inst := i, leaves := ls, waiting := allTlbs, request := false }
    let d := { d with ins := { d.ins with
      freeTables := d.tablesUnder t 3 ++ d.ins.freeTables
      inval := if ls.isEmpty then d.ins.inval else d.ins.inval ++ [v] } }
    d.setInst i { d.inst i with root := none, leaves := 0, pasids := [] }

/-- The end of a destruction: the number is FREE, no function presents it, and the command completes. -/
def Dev.destroyed (d : Dev) (c : CoreSt) (i : Nat) : Dev :=
  match (d.inst i).destroyCmd with
  | none => d
  | some (a, q, cid) => (d.setInst i {}).complete c a q cid 0 0

/-- Is an invalidation of a destroyed instance out? -/
def Dev.destroyWaits (d : Dev) (i : Nat) : Bool := d.ins.inval.any (fun (v : Inval) => v.inst == i && !v.request)

/-- Steps 2 to 6 of R497. -/
def Dev.destroyRest (d : Dev) (c : CoreSt) (i : Nat) : Dev :=
  let d := d.functionReset i
  let d := { d with
    doc := { d.doc with programs := d.doc.programs.filter (fun (e : Nat × Program) => e.1 / 64 != i) }
    xq := { d.xq with cmds := d.xq.cmds.filter (fun (x : Cmd) => x.inst != i), ou := d.xq.ou.filter (fun (o : OuCmd) => o.inst != i) } }
  let d := (d.dropGroups i).closeDigests i
  let d := (d.setInst i { d.inst i with share := {}, nextShare := none }).dmaBalance
  let d := d.dropMappings i
  let d := (d.ownedSources i).foldl (fun (d : Dev) n => d.setFlag (R.evtRoute n) 63 false) d
  let d := d.setInst i { d.inst i with viol := {}, bound := none }
  if d.destroyWaits i then d else d.destroyed c i

/-- Does a run of an instance go on? -/
def Dev.runsLeft (d : Dev) (i : Nat) : Bool := d.doc.runs.any (fun (e : Nat × Run) => e.2.inst == i && !e.2.ended)

/-- A destruction goes on once no run of the instance is left. -/
def Dev.settleDestroy (d : Dev) (c : CoreSt) (i : Nat) : Dev :=
  if (d.inst i).destroyCmd.isSome && !d.runsLeft i && !d.destroyWaits i then d.destroyRest c i else d

/-- INSTANCE_DESTROY (R497). A FREEZE whose drain goes on ends with BUSY_RETRY. -/
def Dev.instanceDestroy (d : Dev) (c : CoreSt) (x : Cmd) : Dev :=
  let i := le x.area 0 1
  if i = 0 ∨ (d.inst i).gone ∨ d.vol.vols.any (fun (e : Nat × Vol) => e.2.owner == i) then d.finish c x 0 0x0201
  else
    let y := d.inst i
    let d := d.setInst i { y with freezeCmd := none, destroyCmd := some (x.inst, x.pair, x.cid) }
    let d := match y.freezeCmd with
      | some (a, q, cid) => d.complete c a q cid 0 0x0500
      | none => d
    (d.functionReset i).settleDestroy c i

/-- INSTANCE_DESTROY, from the manager instance. -/
def execInstanceDestroy (ref : CmdRef) (s : State) : Host.Outcome State Fault Refusal :=
  s.onDev (fun c d => d.admin c ref 0x95 (fun x d => d.instanceDestroy c x))

/-- A TLB acknowledges the oldest invalidation that waits for it; the last acknowledgement ends the UNMAP, or the destruction. -/
def Dev.tlbAck (d : Dev) (c : CoreSt) (tlb : Nat) : Dev :=
  match d.ins.inval.find? (fun (v : Inval) => v.waiting.contains tlb) with
  | none => d
  | some v =>
    let left := v.waiting.filter (· != tlb)
    let others := d.ins.inval.erase v
    if left.isEmpty then
      let d := ({ d with ins := { d.ins with inval := others } }).count R.insCntInval
      if v.request then d.mapDone 0 else d.destroyed c v.inst
    else { d with ins := { d.ins with inval := d.ins.inval.map (fun (w : Inval) => if w == v then { v with waiting := left } else w) } }

/-- TLB_INVAL_ACK (R504). -/
def execTlbInvalAck (unit : TlbUnit) (s : State) : Host.Outcome State Fault Refusal :=
  s.onDev (fun c d => d.tlbAck c (d.tlbOf unit))

end Sys2Proof.Machine
end

