-- ==== Sys2Proof/Machine/Contexts.lean ====
section
/-!
DEFINITION. The Docent's context store and ready lists (spec/05_docent.md): task contexts, the scheduling trace, ready lists and overflow
chains, counter releases and expansion (R134 to R143, R160 to R162).
-/

namespace Sys2Proof.Machine

/-! ### Tasks -/

/-- The key of the third run of the logical task whose copy 0 has number `n`. -/
def thirdKey (n : Nat) : Nat := 2 ^ 21 + n

/-- The task number of a key. -/
def keyTask (key : Nat) : Nat := key % 2 ^ 21

/-- The context of task number `n` as a run begins it (R122, R135). -/
def Run.initial (r : Run) (i : Image) (n : Nat) : Task :=
  let (t, k) := i.taskPlace n
  let x := i.template t
  let ledger := i.ledgerGroup t
  { counter := i.startCounter t
    restartable := bit x.flags 0
    cascade := bit x.flags 1
    ledger := ledger
    copy := if ledger then k % 2 else 0
    template := t
    logical := if ledger then k / 2 else k
    prio := if x.priority = 0xFF then r.prio else x.priority }

/-- The context of a task: as it stands, or as the run begins it while its expansion has not reached it. -/
def Run.task (r : Run) (i : Image) (key : Nat) : Task := (find r.tasks key).getD (r.initial i (keyTask key))

/-- Change a run; change one of its contexts. -/
def Dev.updRun (d : Dev) (h : Nat) (f : Run → Run) : Dev := match d.run h with | some r => d.setRun h (f r) | none => d
def Dev.setTask (d : Dev) (h key : Nat) (t : Task) : Dev := d.updRun h (fun r => { r with tasks := put r.tasks key t })

/-- Has a context come to its end: DONE, or cancelled or failed? -/
def Task.overrun (t : Task) : Bool := t.st == .done || t.st == .cancelled

/-- The runs in progress, by handle. -/
def Dev.live (d : Dev) : List (Nat × Run) := d.doc.runs.filter (fun (e : Nat × Run) => !e.2.ended)

/-- Reserve contexts in use: third runs that have not ended (R134). -/
def Dev.reserveUsed (d : Dev) : Nat :=
  total (d.live.map (fun (e : Nat × Run) => e.2.tasks.countP (fun (t : Nat × Task) => decide (2 ^ 21 ≤ t.1) && !t.2.overrun)))

/-- CORE_TASK of an attempt (R334). -/
def taskWord (inst : Nat) (t : Task) (h key : Nat) : Word :=
  BitVec.ofNat 64 (inst <<< 56 + (t.attempt % 8) <<< 53 + (t.copy % 4) <<< 51 + (h % 1024) <<< 41 + keyTask key)

/-! ### The scheduling trace (R160 to R162) -/

/-- Kinds of R161. -/
inductive TraceKind where
  | expand | ready | dispatch | complete | cancel | restart | void | hold | unhold | verdict | runEnd
deriving DecidableEq, Repr

/-- Their codes. -/
def TraceKind.code : TraceKind → Nat
  | .expand => 1
  | .ready => 2
  | .dispatch => 3
  | .complete => 4
  | .cancel => 5
  | .restart => 6
  | .void => 7
  | .hold => 8
  | .unhold => 9
  | .verdict => 10
  | .runEnd => 11

/-- A record: what it is about, besides run and time. -/
structure TraceRec where
  kind : TraceKind
  key : Nat := 0
  task : Task := {}
  status : Nat := 0
  gal : Nat := 0xFF
  hot : Bool := false
  detail : Nat := 0

/-- The Docent's trace writes (R366: class 2). -/
def traceWho : Who := { source := 7, unit := 0xFF }

/-- Trace records held for a FROZEN channel that is fenced are dropped (R162, R379). -/
def Dev.traceLost (d : Dev) : Dev :=
  let n := d.lostBytes traceWho / 32
  if n = 0 then d else (d.ackLost traceWho).count R.docTraceDrop n

/-- Write a trace record, where ENABLE, the kind mask and the instance filter select it; one whose write fails is dropped. -/
def Dev.trace (d : Dev) (c : CoreSt) (h : Nat) (x : TraceRec) : Dev :=
  match d.run h with
  | none => d
  | some r =>
    let ctl := d.reg R.docTraceCtrl
    if fld ctl 0 0 = 0 ∨ !bit ctl.toNat (47 + x.kind.code) ∨ (fld ctl 39 39 = 1 ∧ fld ctl 47 40 ≠ r.inst) then d
    else
      let tag := match d.image r.inst r.slot with | some i => i.tag | none => 0
      let bs := toLE 8 c.time.toNat ++ toLE 8 tag ++
        toLE 4 (keyTask x.key + (x.task.copy % 4) <<< 21 + (x.task.attempt % 8) <<< 23) ++ toLE 2 r.runId ++ toLE 2 x.task.template ++
        toLE 2 x.status ++ toLE 1 x.kind.code ++ toLE 1 r.inst ++ toLE 1 x.gal ++ toLE 1 (x.task.prio % 8 + (b2n x.hot) <<< 3) ++
        toLE 2 (min x.detail 0xFFFF)
      let slots := 2 ^ fld ctl 36 32 / 32
      let head := d.getF R.docTraceHead 31 0
      let d := d.traceLost
      match (d.acceptRange c true 2 (d.doc.traceBase + 32 * head) 32).writePA traceWho (d.doc.traceBase + 32 * head) bs with
      | (d, some _) => d.count R.docTraceDrop
      | (d, none) =>
        let overrun := decide (slots ≤ d.doc.traced)
        let d := { d with doc := { d.doc with traced := d.doc.traced + 1 } }
        let d := d.setReg R.docTraceHead (BitVec.ofNat 64 ((head + 1) % slots))
        if overrun then d.count R.docTraceOvf else d

/-! ### Ready lists and overflow chains (R140, R141) -/

/-- The list of a level, and its overflow chain. -/
def Dev.ready (d : Dev) (l : Nat) : List (Nat × Nat) := look d.doc.ready l []
def Dev.chain (d : Dev) (l : Nat) : List (Nat × Nat) := look d.doc.chain l []
def Dev.setReady (d : Dev) (l : Nat) (xs : List (Nat × Nat)) : Dev := { d with doc := { d.doc with ready := put d.doc.ready l xs } }
def Dev.setChain (d : Dev) (l : Nat) (xs : List (Nat × Nat)) : Dev := { d with doc := { d.doc with chain := put d.doc.chain l xs } }

/-- A list holds 65,536 entries (R140): one entered at the head of a full list moves the last entry to the head of the overflow chain, as
RELEASED (DESIGN CHOICE, log entry 67). -/
def Dev.makeRoom (d : Dev) (l : Nat) : Dev :=
  match (d.ready l).getLast? with
  | some (h, key) =>
    if (d.ready l).length < Config.levelEntries then d
    else
      let d := (d.setReady l (d.ready l).dropLast).setChain l ((h, key) :: d.chain l)
      d.updRun h (fun r => { r with tasks := upd r.tasks key {} (fun t => { t with st := TaskSt.released }) })
  | none => d

/-- A context enters its level's list, at the tail or the head. -/
def Dev.enterReady (d : Dev) (c : CoreSt) (h key : Nat) (t : Task) (head : Bool) : Dev :=
  let t := { t with st := TaskSt.ready }
  let l := t.prio
  let d := if head then d.makeRoom l else d
  let d := d.setReady l (if head then (h, key) :: d.ready l else d.ready l ++ [(h, key)])
  (d.setTask h key t).trace c h { kind := .ready, key := key, task := t }

/-- Chained tasks enter the list while it has entries free, in chain order. -/
def Dev.drainChain (d : Dev) (c : CoreSt) (l : Nat) : Dev :=
  let xs := d.chain l
  let n := Config.levelEntries - (d.ready l).length
  each (xs.take n) (fun (x : Nat × Nat) (d : Dev) =>
    match d.run x.1 with
    | some r => (match find r.tasks x.2 with | some t => d.enterReady c x.1 x.2 t false | none => d)
    | none => d) (d.setChain l (xs.drop n))

/-- All levels. -/
def Dev.drainChains (d : Dev) (c : CoreSt) : Dev := each (List.range 8) (fun l (d : Dev) => d.drainChain c l) d

/-- A released task enters its list, or passes to RELEASED at the tail of the chain. -/
def Dev.enterReleased (d : Dev) (c : CoreSt) (h key : Nat) (t : Task) : Dev :=
  let l := t.prio
  if (d.chain l).isEmpty && decide ((d.ready l).length < Config.levelEntries) then d.enterReady c h key t false
  else (d.setTask h key { t with st := .released }).setChain l (d.chain l ++ [(h, key)])

/-- Take a task off its list and chain. -/
def Dev.leaveLists (d : Dev) (h key : Nat) (l : Nat) : Dev :=
  (d.setReady l ((d.ready l).filter (· != (h, key)))).setChain l ((d.chain l).filter (· != (h, key)))

/-! ### The release step (R137, R138) -/

/-- One decrement: of a context not yet expanded it is kept for the expansion (log entry 41); does it bring one that waits to zero? -/
def Dev.decrement (d : Dev) (h n : Nat) : Dev × Bool :=
  match d.run h, d.runImage h with
  | some r, some i =>
    let t := r.task i n
    if t.st ≠ .waiting then (d, false)
    else (d.setTask h n { t with counter := t.counter - 1 }, decide (t.counter ≤ 1) && decide (n < r.expanded))
  | _, _ => (d, false)

/-- Decrements of one run, and the tasks that they bring to zero. -/
def Dev.decrements (d : Dev) (h : Nat) : List Nat → Dev × List Nat
  | [] => (d, [])
  | n :: rest =>
    let (d, zero) := d.decrement h n
    let (d, ns) := d.decrements h rest
    (d, if zero then n :: ns else ns)

/-- The release step: up to 64 decrements of the run that has waited longest; its tasks that come to zero enter their lists in task-number
order (R140). -/
def Dev.releaseStep (d : Dev) (c : CoreSt) : Dev :=
  let h := match d.doc.releases.head? with | some x => x.1 | none => 0
  let xs := (d.doc.releases.takeWhile (fun (x : Nat × Nat) => x.1 == h)).take 64
  let d := ({ d with doc := { d.doc with releases := d.doc.releases.drop xs.length } }).drainChains c
  let (d, ns) := d.decrements h (xs.map (fun (x : Nat × Nat) => x.2))
  each (sortNat ns) (fun n (d : Dev) => match (d.run h).bind (fun r => find r.tasks n) with
    | some t => d.enterReleased c h n t
    | none => d) d

/-! ### The expansion step (R141, R142) -/

/-- May an expansion step enter a task of level `l`? -/
def Dev.expandRoom (d : Dev) (l : Nat) : Bool :=
  (d.chain l).isEmpty && decide ((d.ready l).length < Config.levelEntries - d.getF R.docReserve 15 0)

/-- Expand a run, up to `fuel` contexts: the contexts made, and whether the next ready task found no entry. -/
def Dev.expandRun (d : Dev) (c : CoreSt) (h : Nat) : Nat → Dev × Nat × Bool
  | 0 => (d, 0, false)
  | fuel + 1 =>
    match d.run h, d.runImage h with
    | some r, some i =>
      if r.contexts ≤ r.expanded then (d, 0, false)
      else
        let n := r.expanded
        let t := r.task i n
        let ready := t.st == .waiting && t.counter == 0
        if ready && !d.expandRoom t.prio then (d, 0, true)
        else
          let d := (d.setTask h n t).updRun h (fun r => { r with expanded := n + 1 })
          let d := if ready then d.enterReady c h n t false else d
          let (d, k, p) := d.expandRun c h fuel
          (d, k + 1, p)
    | _, _ => (d, 0, false)

/-- Bring each instance's HOLD to whether a run of it has a paused expansion (R142). Its trace record names the instance's first run in
progress (DESIGN CHOICE, log entry 132). -/
def Dev.settleHolds (d : Dev) (c : CoreSt) : Dev :=
  let want := (d.live.filterMap (fun (e : Nat × Run) => if e.2.paused then some e.2.inst else none)).eraseDups
  let old := d.doc.holds
  let runOf (i : Nat) : Nat := ((d.live.find? (fun (e : Nat × Run) => e.2.inst == i)).map (fun e => e.1)).getD 0
  let d := { d with doc := { d.doc with holds := want } }
  let d := each (want.filter (fun i => !old.contains i)) (fun i (d : Dev) => (d.count R.docCntHold).trace c (runOf i) { kind := .hold }) d
  each (old.filter (fun i => !want.contains i)) (fun i (d : Dev) => d.trace c (runOf i) { kind := .unhold }) d

/-- Serve the first of these runs whose expansion can go on. -/
def Dev.expandFirst (d : Dev) (c : CoreSt) : List (Nat × Nat) → Dev
  | [] => d
  | (h, order) :: rest =>
    let (d, n, paused) := d.expandRun c h 64
    let d := d.updRun h (fun r => { r with paused := paused })
    if n = 0 then d.expandFirst c rest
    else
      let d := { d with doc := { d.doc with expandTurn := order } }
      match d.run h with
      | some r => if r.contexts ≤ r.expanded then d.trace c h { kind := .expand } else d
      | none => d

/-- One expansion step: the runs in turn, in acceptance order, one a step. -/
def Dev.expandStep (d : Dev) (c : CoreSt) : Dev :=
  let open_ := d.live.filter (fun (e : Nat × Run) => !e.2.cancelled && decide (e.2.expanded < e.2.contexts))
  let xs := sortBy (fun (a b : Nat × Nat) => decide (a.2 < b.2)) (open_.map (fun (e : Nat × Run) => (e.1, e.2.order)))
  let turn := xs.filter (fun (x : Nat × Nat) => decide (d.doc.expandTurn < x.2)) ++
    xs.filter (fun (x : Nat × Nat) => decide (x.2 ≤ d.doc.expandTurn))
  (d.expandFirst c turn).settleHolds c

end Sys2Proof.Machine
end

