-- ==== Sys2Proof/Machine/Flash.lean ====
section
/-!
DEFINITION. The xSPI flash (R555): slot images and how one authenticates (R47, R556), components (R557), configuration records
(R558) and settings banks (R559, R560). Bytes stand in the flash's keys complemented, so that an erased byte (0xFF) is an unlisted
one.
-/

namespace Sys2Proof.Machine

/-- Read, program and erase flash bytes. -/
def Dev.flash (d : Dev) (a n : Nat) : Bytes := (d.mem.getN (Key.flash a) n).map (fun b => ~~~b)
def Dev.program_ (d : Dev) (a : Nat) (bs : Bytes) : Dev := { d with mem := d.mem.setN (Key.flash a) (bs.map (fun b => ~~~b)) }
def Dev.eraseFlash (d : Dev) (a n : Nat) : Dev := { d with mem := d.mem.clear (Key.flash a) (Key.flash (a + n)) }

/-- Slots A (false) and B (true), and the settings banks. -/
def slotBase (b : Bool) : Nat := if b then 0x8000000 else 0x1000000
def bankBase (b : Bool) : Nat := if b then 0x500000 else 0x100000
def slotBytes : Nat := 117440512

/-! ### The image (R556, R557) -/

/-- The header, and the blocks its IMAGE_BYTES gives. -/
def Dev.slotHeader (d : Dev) (s : Bool) : Bytes := d.flash (slotBase s) 4096
def headerImageBytes (h : Bytes) : Nat := le h 8 4
def imageBytesOk (n : Nat) : Bool := n % 65536 == 0 && decide (131072 ≤ n) && decide (n ≤ slotBytes)
def slotHeaderOk (h : Bytes) : Bool :=
  le h 0 4 == 0x54534858 && le h 4 2 == 1 && le h 6 2 == 4096 && imageBytesOk (headerImageBytes h) &&
  le h 0xC 4 == headerImageBytes h / 65536
def fwVersion (h : Bytes) : Nat := le h 0x10 8

/-- A block, and whether its CRC holds. -/
def Dev.slotBlock (d : Dev) (s : Bool) (k : Nat) : Bytes := d.flash (slotBase s + 65536 * k) 65536
def blockOk (b : Bytes) : Bool := crc32c (b.take 65532) == le b 65532 4

/-- The blocks of a slot whose CRC fails. -/
def Dev.badBlocks (d : Dev) (s : Bool) (n : Nat) : List Nat := (List.range n).filter (fun k => !blockOk (d.slotBlock s k))

/-- The image stream. -/
def Dev.slotStream (d : Dev) (s : Bool) (blocks : Nat) : Bytes := (List.range blocks).flatMap (fun k => (d.slotBlock s k).take 65532)

/-- The two integrity checks of R47: 0x0402 where one fails; then the signatures under the fused keys: 0x0700. -/
def Dev.slotStatus (d : Dev) (s : Bool) : Option Nat :=
  let h := d.slotHeader s
  let n := headerImageBytes h / 65536
  if !slotHeaderOk h || !(d.badBlocks s n).isEmpty || sha384 ((d.slotStream s n).drop 4096) != slice h 0x20 48 then some 0x0402
  else
    let pub := slice h 0x50 97
    let lms := slice h 0xB8 56
    let signed := h.take 0x100
    if sha384 pub == Config.fusedEcdsa && sha384 lms == Config.fusedLms && le h 0x160 4 == 2668 &&
        Config.ecdsaOk pub signed (slice h 0x100 96) && Config.lmsOk lms signed (slice h 0x170 2668) then none
    else some 0x0700

/-- A component of an image stream: FORMAT and bytes. -/
def component (stream : Bytes) (ty : Nat) : Option (Nat × Bytes) :=
  let dir := le stream 0x1C 4
  ((List.range (le stream 0x18 2)).map (fun k => slice stream (dir + 32 * k) 32)).findSome? (fun e =>
    if le e 0 2 = ty then some (le e 2 2, slice stream (le e 8 4) (le e 12 4)) else none)

/-- Where a component of an image stream lies: offset and bytes. -/
def componentAt (stream : Bytes) (ty : Nat) : Option (Nat × Nat) :=
  let dir := le stream 0x1C 4
  ((List.range (le stream 0x18 2)).map (fun k => slice stream (dir + 32 * k) 32)).findSome? (fun e =>
    if le e 0 2 = ty then some (le e 8 4, le e 12 4) else none)

/-- The blocks that hold a range of an image stream. -/
def streamBlocks (off n : Nat) : List Nat :=
  if n = 0 then [] else (List.range ((off + n - 1) / 65532 + 1 - off / 65532)).map (fun k => off / 65532 + k)

/-- The directory obeys R557. -/
def directoryOk (stream : Bytes) : Bool :=
  let dir := le stream 0x1C 4
  let es := (List.range (le stream 0x18 2)).map (fun k => slice stream (dir + 32 * k) 32)
  le stream 0x18 2 == 7 && dir % 16 == 0 && decide (4096 ≤ dir) && decide (dir + 224 ≤ stream.length) &&
  (List.range 7).all (fun k => es.countP (fun e => le e 0 2 == k + 1) == 1) &&
  es.all (fun e => le e 8 4 % 16 == 0 && decide (le e 8 4 + le e 12 4 ≤ stream.length))

/-- The stream of a slot. -/
def Dev.streamOf (d : Dev) (s : Bool) : Bytes := d.slotStream s (headerImageBytes (d.slotHeader s) / 65536)

/-- The running slot (DEV_STATUS.SLOT). -/
def Dev.runningSlot (d : Dev) : Bool := d.flag R.devStatus 4

/-- The bytes of a component of the running image as CONFIGURE read it (R50), none where it has none. -/
def Dev.runningComponent (d : Dev) (ty : Nat) : Bytes := match component d.firmware ty with | some x => x.2 | none => []

/-- Gallery firmware into the firmware area of physical gallery `p`, and its core at gallery reset (R303, R557). -/
def Dev.loadCore (d : Dev) (p : Nat) : Dev :=
  let k := d.core p
  let d := d.setCore p { Gallery.reset with mhz := k.mhz, mv := k.mv, limit := k.limit }
  d.localWrite p Config.firmwareBase ((d.runningComponent 3).take (Config.localBytes - Config.firmwareBase))

/-! ### Configuration records (R558) -/

/-- A record: TYPE, FORMAT, body, its CRC holds. -/
structure CfgRecord where
  ty : Nat
  format : Nat
  body : Bytes
  crc : Bool
deriving DecidableEq, Repr

/-- Records placed back to back; none where one does not fit. -/
def records : Nat → Bytes → Option (List CfgRecord)
  | 0, bs => if bs.isEmpty then some [] else none
  | fuel + 1, bs =>
    if bs.isEmpty then some []
    else
      let n := le bs 4 4
      if n < 16 ∨ n % 16 ≠ 0 ∨ bs.length < n then none
      else
        let body := slice bs 16 (n - 16)
        (records fuel (bs.drop n)).map (fun rs =>
          { ty := le bs 0 2, format := le bs 2 2, body := body, crc := crc32c body == le bs 8 4 } :: rs)

/-- The records of a byte string. -/
def recordsOf (bs : Bytes) : Option (List CfgRecord) := records (bs.length / 16 + 1) bs

/-- Formats an image reads and writes for a record type (component 7): READ_MIN, READ_MAX, WRITE. -/
def formats (stream : Bytes) (ty : Nat) : Option (Nat × Nat × Nat) :=
  match component stream 7 with
  | none => none
  | some (_, bs) =>
    ((List.range (bs.length / 8)).map (fun k => slice bs (8 * k) 8)).findSome? (fun e =>
      if le e 0 2 = ty then some (le e 2 2, le e 4 2, le e 6 2) else none)

/-- The register entries of a body: offset and value. -/
def regEntries (body : Bytes) : List (Nat × Nat) :=
  (List.range (body.length / 16)).map (fun k => (le body (16 * k) 8, le body (16 * k + 8) 8))

/-- The registers that a record type may set (R558). -/
def recordRegs (ty off : Nat) : Bool :=
  match ty with
  | 4 => (List.range 16).any (fun n => off == R.memSetBase n || off == R.memSetSize n || off == R.memSetMap n)
  | 5 => (List.range 2).any (fun n => off == R.excPoolBase n || off == R.excPoolSize n)
  | 6 => (List.range 16).any (fun e => off == R.folEng e)
  | 7 => off == R.pwrCap || off == R.pwrTherm || off == R.pwrCtrl
  | _ => false

/-- A share record in its ranges (R499) is judged where shares are; here: the body's layout by type. -/
def bodyOk (share : Bytes → Bool) (r : CfgRecord) : Bool :=
  let b := r.body
  match r.ty with
  | 1 => b.length == 16 && (List.range 4).all (fun p => le b p 1 == 16 || le b p 1 == 8) && decide (le b 4 1 ≤ 3)
  | 2 => decide (1 ≤ le b 0 1) && decide (le b 0 1 ≤ 8) && b.length == 16 + 48 * le b 0 1
  | 3 => b.length == 1024 && share b
  | 4 => decide (32 ≤ b.length) && decide (4800 ≤ le b 0 2) && decide (le b 0 2 ≤ 6400) &&
      (regEntries (b.drop 32)).all (fun e => recordRegs 4 e.1)
  | 5 => (regEntries b).all (fun e => recordRegs 5 e.1)
  | 6 => (regEntries b).all (fun e => recordRegs 6 e.1)
  | 7 => (regEntries b).all (fun e => recordRegs 7 e.1)
  | 8 => b.length == 16 && decide (le b 1 1 ≤ 3)
  | _ => false

/-- Is the format one that the image reads? -/
def readable (stream : Bytes) (r : CfgRecord) : Bool :=
  match formats stream r.ty with
  | some (lo, hi, _) => decide (lo ≤ r.format) && decide (r.format ≤ hi)
  | none => false

/-- Component 6 obeys R558: its records, or none. -/
def imageRecords (share : Bytes → Bool) (stream : Bytes) : Option (List CfgRecord) :=
  match component stream 6 with
  | none => none
  | some (_, bs) =>
    match recordsOf bs with
    | none => none
    | some rs =>
      if rs.all (fun r => r.crc && decide (1 ≤ r.ty) && decide (r.ty ≤ 8) && readable stream r && bodyOk share r) &&
          noPairNat (rs.map (fun r => r.ty)) && [1, 2, 3, 4].all (fun t => rs.any (fun r => r.ty == t)) then some rs else none
where
  /-- No number twice. -/
  noPairNat : List Nat → Bool
    | [] => true
    | x :: xs => !xs.contains x && noPairNat xs

/-! ### Settings (R559 to R561) -/

/-- A valid bank: GENERATION and its record bytes. -/
def Dev.settingsBank (d : Dev) (b : Bool) : Option (Nat × Bytes) :=
  let h := d.flash (bankBase b) 32
  let n := le h 0x10 4
  if le h 0 4 = 0x54455358 ∧ le h 4 2 = 1 ∧ n % 16 = 0 ∧ 32 ≤ n ∧ n ≤ 4194304 then
    let bs := d.flash (bankBase b + 0x20) (n - 32)
    if crc32c bs = le h 0x14 4 then some (le h 8 8, bs) else none
  else none

/-- The bank in force: which, its GENERATION and records. -/
def Dev.settings (d : Dev) : Option (Bool × Nat × Bytes) :=
  match d.settingsBank false, d.settingsBank true with
  | some (g, a), some (h, b) => if g < h then some (true, h, b) else some (false, g, a)
  | some (g, a), none => some (false, g, a)
  | none, some (h, b) => some (true, h, b)
  | none, none => none

/-- The settings record that replaces the image's of a type (R560, R561): one in the image's WRITE format, else the highest format it
reads (a body that breaks its layout serves as little as a bad CRC); and the records of that type that were not applied where none serves. -/
def settingsFor (share : Bytes → Bool) (stream : Bytes) (rs : List CfgRecord) (ty : Nat) : Option CfgRecord × List CfgRecord :=
  let mine := rs.filter (fun r => r.ty == ty)
  let good := mine.filter (fun r => r.crc && readable stream r && bodyOk share r)
  let write := (formats stream ty).map (fun f => f.2.2)
  match good.find? (fun r => write == some r.format) with
  | some r => (some r, [])
  | none =>
    match best (fun (a b : CfgRecord) => decide (b.format < a.format)) good with
    | some r => (some r, [])
    | none => (none, mine)

end Sys2Proof.Machine
end

