-- ==== Sys2Proof/Machine/Docent.lean ====
section
/-!
DEFINITION. The Docent's decision arbiter (spec/05_docent.md; R238 to R246): notices, cancels, completions, ledger verdicts,
dispatch, the end of a run (R131, R132), and one decision (R138, R139).
-/

namespace Sys2Proof.Machine

/-! ### The end of a run (R129, R131, R132) -/

/-- Status and result of a run that has ended. -/
def Run.outcome (r : Run) : Nat × Nat :=
  match r.failure with
  | some (st, op, task) => (st, (op % 2 ^ 16) <<< 16 + min task 0xFFFF)
  | none =>
    let rows := min (total (r.tasks.map (fun (e : Nat × Task) => e.2.rows))) 0xFFFFFFFF
    if r.cancelled || r.taskCancelled then (0x0102, 0)
    else if r.abortLate then (0x0002, rows)
    else if r.truncated then (0x0001, rows)
    else (0, rows)

/-- Has a run ended: nothing of it left to expand, no context short of its end? -/
def Run.overrun (r : Run) : Bool :=
  (r.cancelled || decide (r.contexts ≤ r.expanded)) && r.tasks.all (fun (e : Nat × Task) => e.2.overrun)

/-- End run `h`: its contexts and buffers are returned, a success keeps its RESULT buffers, cancels that still name it end with result 1,
a DOC_TCANCEL that still names it will find no such run (R151), and its completion is posted. -/
def Dev.endRun (d : Dev) (c : CoreSt) (h : Nat) (r : Run) : Dev :=
  let (st, result) := r.outcome
  let d := d.trace c h { kind := .runEnd, status := st }
  let asked := d.doc.cancels.filter (fun (x : CancelReq) => x.run == h)
  let keep := decide (st < 0x100) && !r.results.isEmpty && !r.silent
  let runs := del d.doc.runs h
  let kept : Run := { r with ended := true, tasks := [], scratch := [], paused := false }
  let d := { d with doc := { d.doc with
    runs := if keep then put runs (Config.runEntries + r.order) kept else runs
    cancels := (d.doc.cancels.filter (fun (x : CancelReq) => x.run != h || x.task.isSome)).map
      (fun (x : CancelReq) => if x.run = h then { x with run := Config.noRun } else x)
    releases := d.doc.releases.filter (fun (x : Nat × Nat) => x.1 != h)
    verdicts := d.doc.verdicts.filter (fun (x : Nat × Nat × Verdict) => x.1 != h) } }
  let d := { d with exc := { d.exc with notices := d.exc.notices ++ [.runEnd h] } }
  let d := match r.cmd with
    | some (q, cid) => d.complete c r.inst q cid result st
    | none => d
  let d := each asked (fun (x : CancelReq) (d : Dev) => match x.cmd with
    | some (i, q, cid) => d.complete c i q cid 1 0
    | none => d) d
  (d.settleHolds c).settleDestroy c r.inst

/-- End the run if nothing of it is left. -/
def Dev.settleRun (d : Dev) (c : CoreSt) (h : Nat) : Dev :=
  match d.run h with
  | some r => if !r.ended && r.overrun then d.endRun c h r else d
  | none => d

/-! ### What the end of a task does -/

/-- Free the RESULT extents of a run's contexts (R129, R157, R243). -/
def Dev.freeExtents (d : Dev) (h : Nat) (keys : List Nat) : Dev :=
  d.updRun h (fun r => { r with extents := r.extents.filter (fun (e : Extent) => !keys.contains e.task) })

/-- A task's end is noticed by the engines its gallery used (R299, R451, R485); `evt` where the event controller is told here (R470). -/
def Dev.endNotice (d : Dev) (h g key : Nat) (evt : Bool) : Dev :=
  match d.run h with
  | none => d
  | some r =>
    match find r.tasks key with
    | none => d
    | some t =>
      let n : TaskNote := { gal := d.phys g, task := taskWord r.inst t h key }
      let d := { d with
        fol := { d.fol with notices := d.fol.notices ++ [n] }
        dma := { d.dma with notices := d.dma.notices ++ [n] }
        prv := { d.prv with notices := d.prv.notices ++ [n] } }
      if evt then { d with doc := { d.doc with notes := d.doc.notes ++ [g] } } else d

/-- The Exchange frees what an attempt staged (R207). -/
def Dev.voidNotice (d : Dev) (h key attempt : Nat) : Dev :=
  { d with exc := { d.exc with notices := d.exc.notices ++ [.void h (keyTask key) attempt] } }

/-- The Exchange drops what it holds for the task that leaves a gallery: its NEXT requests, its cursors (R211), the status it must fail with, and
its spill and table pages (R219, R228). -/
def Dev.excOff (d : Dev) (p : Nat) : Dev :=
  { d with exc := { d.exc with
    next := d.exc.next.filter (fun (x : ExcNext) => x.gal != p)
    late := d.exc.late.filter (fun (x : ExcNext) => x.gal != p)
    cursor := d.exc.cursor.filter (fun (e : Nat × Word × Nat) => e.1 / 4 != p)
    fail := del d.exc.fail p
    stall := del d.exc.stall p
    spill := d.exc.spill.filter (fun (x : Nat × Nat × Nat × Nat) => x.1 != p) } }

/-- Take the task off its gallery. -/
def Dev.offGallery (d : Dev) (g : Nat) : Dev :=
  let p := d.phys g
  let d := (d.setCore p { d.core p with staging := [] }).excOff p
  { d with doc := { d.doc with
    task := del d.doc.task g
    msgs := del d.doc.msgs g
    tcancels := d.doc.tcancels.filter (· != g)
    intake := d.doc.intake.filter (fun (x : Completion) => x.gal != g)
    held := d.doc.held.filter (fun (x : Completion) => x.gal != g) } }

/-- The gallery is free again: idle at the tail of the idle queue, or in TEST where a claim waits (R143, R150). -/
def Dev.galleryFree (d : Dev) (g : Nat) : Dev :=
  match look d.doc.gal g .idle with
  | .testPending => { d with doc := { d.doc with gal := put d.doc.gal g .test } }
  | .running => { d with doc := { d.doc with gal := put d.doc.gal g .idle, idle := d.doc.idle ++ [g] } }
  | .held => { d with doc := { d.doc with gal := put d.doc.gal g .idle, idle := d.doc.idle ++ [g] } }
  | _ => d

/-- The contexts of a logical task: its copies, and its third run where there is one. -/
def Run.copiesOf (r : Run) (i : Image) (t l : Nat) : List Nat :=
  let ns := i.copies t l
  ns ++ (match ns.head? with | some n => if (find r.tasks (thirdKey n)).isSome then [thirdKey n] else [] | none => [])

/-- A logical task is finished (R213). -/
def Dev.logicalEnd (d : Dev) (h t l : Nat) : Dev := { d with exc := { d.exc with notices := d.exc.notices ++ [.release h t l] } }

/-- Record a task's failure: the first becomes the run's, and the run is to be cancelled (R131, R132, R138). -/
def Dev.runFails (d : Dev) (h status op key : Nat) : Dev :=
  match d.run h with
  | none => d
  | some r =>
    if r.failure.isSome then d
    else
      let d := d.setRun h { r with failure := some (status, op, keyTask key) }
      { d with doc := { d.doc with cancels := d.doc.cancels ++ [{ run := h }] } }

/-- Does the intake, or a gallery that holds it, carry the completion of this attempt? -/
def Dev.completing (d : Dev) (h key : Nat) : Bool :=
  (d.doc.intake ++ d.doc.held).any (fun (x : Completion) => x.run == h && x.task == key)

/-! ### Cancels (R151 to R155) -/

/-- A cancelled context: counted and traced, its extents freed, its rows discarded (R129, R207), where it has run or not: an edge's last
producer may end so (R210). -/
def Dev.setCancelled (d : Dev) (c : CoreSt) (h key : Nat) (t : Task) (status : Nat) : Dev :=
  let t' := { t with st := TaskSt.cancelled, status := status, rows := 0 }
  let d := ((d.setTask h key t').freeExtents h [key]).count R.docCntCancel
  let d := d.trace c h { kind := .cancel, key := key, task := t', status := status, gal := t.gal.getD 0xFF }
  d.voidNotice h key t.attempt

/-- Cancel one context by its state (R152). A completion that waits stands: OK_ABORT_LATE (R139); otherwise TASK_CANCEL is on its way to the
gallery. -/
def Dev.cancelContext (d : Dev) (c : CoreSt) (h key : Nat) (t : Task) : Dev :=
  match t.st with
  | .waiting => d.setCancelled c h key t 0x0102
  | .ready => (d.leaveLists h key t.prio).setCancelled c h key t 0x0102
  | .released => (d.leaveLists h key t.prio).setCancelled c h key t 0x0102
  | .running =>
    if d.completing h key then d.setTask h key { t with abortLate := true }
    else if t.cancelReq then d
    else
      let d := d.setTask h key { t with cancelReq := true }
      { d with doc := { d.doc with tcancels := t.gal.toList ++ d.doc.tcancels } }
  | .comparing => d.setCancelled c h key t 0x0102
  | _ => d

/-- The tasks that a cancelled logical task's edges name (R154): successors by ALL and ONE_TO_ONE edges, and by STREAM edges. -/
def Image.streamConsumers (i : Image) (t : Nat) : List Nat :=
  (i.edges.filter (fun e => e.fan == 1 && (i.op e.src).template == t)).flatMap (fun e => i.templateTasks (i.op e.dst).template)

/-- The logical task that a task number belongs to: template and index. -/
def Image.logicalOf (i : Image) (n : Nat) : Nat × Nat :=
  let (t, k) := i.taskPlace n
  (t, if i.ledgerGroup t then k / 2 else k)

/-- What a cancelled logical task reaches by CASCADE. -/
def Image.reached (i : Image) (t l : Nat) : List (Nat × Nat) := ((i.successors t l ++ i.streamConsumers t).map i.logicalOf).eraseDups

/-- Cancel logical tasks and what their CASCADE flags reach: the work list, and every logical task that has entered it, which enters once;
a logical task cascades once every context of it is over. -/
def Dev.cascade (d : Dev) (c : CoreSt) (h : Nat) (i : Image) : Nat → List (Nat × Nat) → List (Nat × Nat) → Dev
  | 0, _, _ => d
  | _, [], _ => d
  | fuel + 1, (t, l) :: rest, seen =>
    match d.run h with
    | none => d
    | some r =>
      let keys := r.copiesOf i t l
      let before := keys.all (fun k => (r.task i k).overrun)
      let d := each keys (fun k (d : Dev) => match d.run h with
        | some r => d.cancelContext c h k (r.task i k)
        | none => d) d
      match d.run h with
      | none => d
      | some r =>
        let ts := keys.map (fun k => r.task i k)
        if before || !ts.all (fun x => x.overrun) then d.cascade c h i fuel rest seen
        else
          let d := (d.updRun h (fun r => { r with taskCancelled := true })).logicalEnd h t l
          let d := { d with doc := { d.doc with
            verdicts := d.doc.verdicts.filter (fun (v : Nat × Nat × Verdict) => !(v.1 == h && keys.contains v.2.1)) } }
          if (ts.head?.map (fun x => x.cascade)).getD false then
            let new := (i.reached t l).filter (fun x => !seen.contains x)
            d.cascade c h i fuel (rest ++ new) (seen ++ new)
          else
            ({ d with doc := { d.doc with releases := d.doc.releases ++ (i.successors t l).map (fun n => (h, n)) } }).cascade c h i fuel
              rest seen

/-- Release the successors of a logical task (R122, R137): how many decrements. -/
def Dev.releaseOf (d : Dev) (h : Nat) (i : Image) (t l : Nat) : Dev × Nat :=
  let ns := i.successors t l
  ({ d with doc := { d.doc with releases := d.doc.releases ++ ns.map (fun n => (h, n)) } }, ns.length)

/-- A logical task of which a context has ended CANCELLED: a copy that waits for its verdict ends with it (R240), and once every context
is over its successors are treated by its CASCADE flag (R154); a run cancel uses none. -/
def Dev.settleLogical (d : Dev) (c : CoreSt) (h : Nat) (i : Image) (t l : Nat) : Dev :=
  match d.run h with
  | none => d
  | some r =>
    let keys := r.copiesOf i t l
    if !keys.any (fun k => (r.task i k).st == .cancelled) then d
    else
      let d := each keys (fun k (d : Dev) =>
        if (r.task i k).st = .comparing then d.setCancelled c h k (r.task i k) 0x0102 else d) d
      match d.run h with
      | none => d
      | some r =>
        if !keys.all (fun k => (r.task i k).overrun) then d
        else
          let d := d.logicalEnd h t l
          if r.cancelled then d
          else
            let d := d.updRun h (fun r => { r with taskCancelled := true })
            if (keys.head?.map (fun k => (r.task i k).cascade)).getD false then
              d.cascade c h i (r.contexts + 1) (i.reached t l) ((t, l) :: i.reached t l)
            else (d.releaseOf h i t l).1

/-- A context that was cancelled while it ran has ended: CANCELLED (R129, R152). -/
def Dev.endCancelled (d : Dev) (c : CoreSt) (h : Nat) (i : Image) (key : Nat) (t : Task) : Dev :=
  (d.setCancelled c h key { t with cancelReq := false } 0x0102).settleLogical c h i t.template t.logical

/-- Cancel the whole of run `h` (R129). -/
def Dev.cancelRun (d : Dev) (c : CoreSt) (h : Nat) (r : Run) : Dev :=
  let late (e : Nat × Task) : Bool := e.2.overrun || (e.2.st == .running && d.completing h e.1)
  if r.failure.isNone && decide (r.contexts ≤ r.expanded) && r.tasks.all late && !r.silent then
    each r.tasks (fun (e : Nat × Task) (d : Dev) => if e.2.overrun then d else d.setTask h e.1 { e.2 with abortLate := true })
      (d.setRun h { r with abortLate := true })
  else
    let d := d.setRun h { r with cancelled := true, paused := false }
    let d := each r.tasks (fun (e : Nat × Task) (d : Dev) => d.cancelContext c h e.1 e.2) d
    { d with doc := { d.doc with
      releases := d.doc.releases.filter (fun (x : Nat × Nat) => x.1 != h)
      verdicts := d.doc.verdicts.filter (fun (x : Nat × Nat × Verdict) => x.1 != h) } }

/-- Every run in progress ends with 0x0102 CANCELLED (R133, entry to MAINTENANCE). -/
def Dev.endRuns (d : Dev) (c : CoreSt) : Dev :=
  each d.live (fun (e : Nat × Run) (d : Dev) => match d.run e.1 with
    | some r => ((d.cancelRun c e.1 r).settleHolds c).settleRun c e.1
    | none => d) d

/-- One cancel (input 2 of R138). -/
def Dev.cancelStep (d : Dev) (c : CoreSt) : Dev :=
  match d.doc.cancels with
  | [] => d
  | x :: rest =>
    let d := { d with doc := { d.doc with cancels := rest } }
    match d.run x.run, d.runImage x.run with
    | some r, some i =>
      match x.task with
      | none =>
        if r.cancelled then
          let d := match x.cmd with | some (j, q, cid) => d.complete c j q cid 0 0 | none => d
          d.settleRun c x.run
        else
          let d := d.cancelRun c x.run r
          let late := match d.run x.run with | some r => r.abortLate && !r.cancelled | none => false
          let d := match x.cmd with | some (j, q, cid) => d.complete c j q cid (b2n late) 0 | none => d
          (d.settleHolds c).settleRun c x.run
      | some n =>
        let (t, l) := i.logicalOf n
        if r.contexts ≤ n ∨ (r.task i n).overrun then d.setFlag R.docStatus 2 true
        else (d.cascade c x.run i (r.contexts + 1) [(t, l)] [(t, l)]).settleRun c x.run
    | _, _ => if x.task.isSome then d.setFlag R.docStatus 2 true else d

/-! ### Completions (R137, R143, R240) -/

/-- Once an intake place is free, the gallery that has held longest gives its completion. -/
def Dev.refillIntake (d : Dev) : Dev :=
  match d.doc.held with
  | [] => d
  | x :: rest =>
    if d.doc.intake.length < Config.intakeEntries then
      { d with doc := { d.doc with
        intake := d.doc.intake ++ [x]
        held := rest
        gal := if look d.doc.gal x.gal .idle = .held then put d.doc.gal x.gal .running else d.doc.gal } }
    else d

/-- The response to TASKDONE: the core goes on (R330). -/
def Dev.taskAnswer (d : Dev) (g : Nat) : Dev :=
  let p := d.phys g
  let k := d.core p
  if k.st = .done then d.setCore p { k with st := .run, pc := k.pc + 4, doneWrite := none } else d

/-- A logical task of a LEDGER group ends with a status, and every copy with it (R240, R241). -/
def Dev.logicalFails (d : Dev) (c : CoreSt) (h : Nat) (i : Image) (t l status op : Nat) : Dev :=
  match d.run h with
  | none => d
  | some r =>
    let keys := r.copiesOf i t l
    let d := each keys (fun k (d : Dev) => match d.run h with
      | some r =>
        let x := r.task i k
        if x.st = .comparing then d.setCancelled c h k x status else d.cancelContext c h k x
      | none => d) d
    (d.logicalEnd h t l).runFails h status op (keys.headD 0)

/-- Accept one completion (input 3 of R138). -/
def Dev.acceptCompletion (d : Dev) (c : CoreSt) (x : Completion) : Dev :=
  match d.run x.run, d.runImage x.run with
  | some r, some i =>
    match find r.tasks x.task with
    | none => d
    | some t =>
      if t.st ≠ .running ∨ t.gal ≠ some x.gal then d
      else
        let h := x.run
        let d := ((d.count R.docCntComplete).taskAnswer x.gal).endNotice h x.gal x.task true
        let d := (d.offGallery x.gal).galleryFree x.gal
        let (tt, l) := (t.template, t.logical)
        if t.cancelReq then
          -- reported ended after its cancel was accepted: CANCELLED (R152)
          d.endCancelled c h i x.task t
        else
          let late := t.abortLate && decide (x.status < 0x100)
          let st := if late then 0x0002 else x.status
          let t := { t with status := st, rows := x.rows, op := x.op, check := if late && t.ledger then toLE 2 st ++ x.check.drop 2 else x.check }
          if t.ledger then
            let d := d.setTask h x.task { t with st := .comparing }
            let d := d.trace c h { kind := .complete, key := x.task, task := t, status := st, gal := x.gal }
            if st = 0x0301 ∨ st = 0x0102 then d.logicalFails c h i tt l st x.op else d.settleLogical c h i tt l
          else if st < 0x100 then
            let d := d.setTask h x.task { t with st := .done }
            let d := if t.abortLate then d.updRun h (fun r => { r with abortLate := true }) else d
            let (d, n) := d.releaseOf h i tt l
            let d := d.trace c h { kind := .complete, key := x.task, task := t, status := st, gal := x.gal, detail := n }
            let d := { d with exc := { d.exc with notices := d.exc.notices ++ [ExcNotice.publish h (keyTask x.task) t.attempt] } }
            d.logicalEnd h tt l
          else
            let d := d.trace c h { kind := .complete, key := x.task, task := t, status := st, gal := x.gal }
            let d := (d.setTask h x.task { t with st := .cancelled, rows := 0 }).freeExtents h [x.task]
            ((d.voidNotice h x.task t.attempt).logicalEnd h tt l).runFails h st x.op x.task
  | _, _ => d

/-- One completion. -/
def Dev.completionStep (d : Dev) (c : CoreSt) : Dev :=
  match d.doc.intake with
  | [] => d
  | x :: rest => ((({ d with doc := { d.doc with intake := rest } }).acceptCompletion c x).refillIntake).settleRun c x.run

/-! ### The Conservator's notices (R150, R156, R157) -/

/-- An attempt is void (R157): restart at the head of its level, or failure 0x0301; a task whose cancel is out ends CANCELLED. -/
def Dev.voidAttempt (d : Dev) (c : CoreSt) (g h key : Nat) : Dev :=
  match d.run h, d.runImage h with
  | some r, some i =>
    match find r.tasks key with
    | none => d
    | some t =>
      let d := (d.endNotice h g key false).offGallery g
      let d := d.trace c h { kind := .void, key := key, task := t, gal := g }
      let d := (d.freeExtents h [key]).voidNotice h key t.attempt
      if t.cancelReq || t.abortLate || r.cancelled then (d.endCancelled c h i key t).settleRun c h
      else if t.restartable && decide (t.attempt < d.getF R.docCtrl 15 12) then
        let t' := { t with attempt := t.attempt + 1 }
        let d := (d.count R.docCntRestart).enterReady c h key t' true
        d.trace c h { kind := .restart, key := key, task := t' }
      else
        let (f, d) := d.draw
        if t.ledger then
          let d := d.setTask h key { t with st := .comparing }
          (d.logicalFails c h i t.template t.logical 0x0301 (f.toNat % 2 ^ 16)).settleRun c h
        else
          let d := d.setTask h key { t with st := .cancelled, status := 0x0301 }
          ((d.logicalEnd h t.template t.logical).runFails h 0x0301 (f.toNat % 2 ^ 16) key).settleRun c h
  | _, _ => d

/-- A core reset ends the task of its gallery (R129): CANCELLED. -/
def Dev.resetEnds (d : Dev) (c : CoreSt) (g h key : Nat) : Dev :=
  match d.run h, d.runImage h with
  | some r, some i =>
    match find r.tasks key with
    | none => d
    | some t => ((((d.endNotice h g key true).offGallery g).galleryFree g).endCancelled c h i key t).settleRun c h
  | _, _ => d

/-- One notice (input 1 of R138). R150 names idle and running galleries: a test claim on a HELD one moves it to TEST_PENDING too, since its
task has not ended (DESIGN CHOICE, log entry 131). -/
def Dev.noticeStep (d : Dev) (c : CoreSt) : Dev :=
  match d.doc.notices with
  | [] => d
  | n :: rest =>
    let d := { d with doc := { d.doc with notices := rest } }
    let set (d : Dev) (g : Nat) (st : GalSt) : Dev :=
      { d with doc := { d.doc with gal := put d.doc.gal g st, idle := d.doc.idle.filter (· != g) } }
    match n with
    | .fence g =>
      let d := set d g .fenced
      (match find d.doc.task g with
       | some (h, key) => d.voidAttempt c g h key
       | none => d.offGallery g)
    | .test g =>
      (match look d.doc.gal g .idle with
       | .idle => set d g .test
       | .running => { d with doc := { d.doc with gal := put d.doc.gal g .testPending } }
       | .held => { d with doc := { d.doc with gal := put d.doc.gal g .testPending } }
       | _ => d)
    | .returned g =>
      let d := set d g .idle
      { d with doc := { d.doc with idle := d.doc.idle ++ [g] } }
    | .absent g => set d g .absent
    | .coreReset g =>
      (match find d.doc.task g with
       | some (h, key) => d.resetEnds c g h key
       | none => d)

/-! ### Verdicts (R240 to R245) -/

/-- Log and raise a vote (R245). -/
def Dev.logVote (d : Dev) (c : CoreSt) (r : Run) (n : Nat) (a b : Task) : Dev :=
  let detail := padTo 40 (toLE 2 r.runId ++ toLE 4 n ++ toLE 1 (a.gal.getD 0xFF) ++ toLE 1 (b.gal.getD 0xFF)) ++
    padTo 128 a.check ++ padTo 128 b.check
  ((d.logEvent c.time 5 r.inst 0 detail).raiseEvent (64 + r.inst)).raiseEvent 5

/-- The gallery whose record lost a vote: that of the copy the verdict did not accept. -/
def outvoted (a b third : Task) : Verdict → Option Nat
  | .accept 0 => b.gal
  | .accept _ => a.gal
  | .fail st =>
    if st = 0x0403 then none
    else if third.status = a.status then b.gal else a.gal
  | .vote => none

/-- Apply the verdict on the logical task whose copy 0 has number `n`. -/
def Dev.applyVerdict (d : Dev) (c : CoreSt) (h n : Nat) (v : Verdict) : Dev :=
  match d.run h, d.runImage h with
  | some r, some i =>
    let a := r.task i n
    let b := r.task i (n + 1)
    let third := find r.tasks (thirdKey n)
    let (t, l) := (a.template, a.logical)
    let settle (d : Dev) (st : Nat) : Dev :=
      let d := d.trace c h { kind := .verdict, key := n, task := a, status := st }
      match third with
      | some x =>
        d.logEvent c.time 6 r.inst 0 (padTo 40 (toLE 2 st ++ toLE 1 ((outvoted a b x v).getD 0xFF)) ++ padTo 128 x.check)
      | none => d
    match v with
    | .vote =>
      let d := (d.logVote c r n a b).trace c h { kind := .verdict, key := n, task := a, status := 0x0402 }
      d.enterReady c h (thirdKey n) { a with copy := 2, gal := none, attempt := 0, status := 0, rows := 0, check := [], abortLate := false } true
    | .accept k =>
      let win := if k = 0 then n else n + 1
      let x := if k = 0 then a else b
      let keys := r.copiesOf i t l
      let overrun (key : Nat) (y : Task) : Task := { y with st := .done, status := x.status, rows := if key = win then y.rows else 0 }
      let d := d.updRun h (fun r => { r with
        tasks := r.tasks.map (fun (e : Nat × Task) => if keys.contains e.1 then (e.1, overrun e.1 e.2) else e)
        abortLate := r.abortLate || x.abortLate
        extents := (r.extents.filter (fun (e : Extent) => e.task == win || !keys.contains e.task)).map
          (fun (e : Extent) => if e.task = win then { e with task := n } else e) })
      let d := (settle d x.status).logicalEnd h t l
      (d.releaseOf h i t l).1
    | .fail st => (settle d st).logicalFails c h i t l st a.op
  | _, _ => d

/-- Can a verdict be applied now? A vote waits for a reserve context (R241). -/
def Dev.verdictReady (d : Dev) (v : Nat × Nat × Verdict) : Bool :=
  match v.2.2 with
  | .vote => decide (d.reserveUsed < Config.reserveContexts)
  | _ => true

/-- One verdict (input 4 of R138). -/
def Dev.verdictStep (d : Dev) (c : CoreSt) : Dev :=
  match d.doc.verdicts.find? d.verdictReady with
  | none => d
  | some v =>
    (({ d with doc := { d.doc with verdicts := d.doc.verdicts.erase v } }).applyVerdict c v.1 v.2.1 v.2.2).settleRun c v.1

/-! ### Dispatch (R144 to R149) -/

/-- The gallery die of a logical gallery. -/
def Dev.dieOf (d : Dev) (g : Nat) : Nat := d.phys g / 34

/-- The galleries that may take a task at all, in the order of the idle queue; hot ones passed over while another is eligible (R144). -/
def Dev.eligible (d : Dev) : List Nat :=
  let xs := d.doc.idle.filter (fun g => look d.doc.gal g .idle == .idle && !d.gals.absent.contains g)
  let cool := xs.filter (fun g => !d.doc.hot.contains g)
  if !cool.isEmpty then cool else if d.flag R.docCtrl 1 then [] else xs

/-- Where a context may run (R148, R241, R244): none where any gallery serves; else a test of the logical gallery. -/
def Dev.placeOk (d : Dev) (r : Run) (key : Nat) (t : Task) : Nat → Bool :=
  let gals (ks : List Nat) : List Nat := ks.filterMap (fun k => (find r.tasks k).bind (fun x => x.gal))
  if !t.ledger then fun _ => true
  else if 2 ^ 21 ≤ key then
    let used := gals [keyTask key, keyTask key + 1]
    let dies := used.map d.dieOf
    let fresh (g : Nat) : Bool := !dies.contains (d.dieOf g)
    if (List.range 128).any (fun g => !d.gals.absent.contains g && fresh g) then fresh else fun g => !used.contains g
  else
    let other := if t.copy = 0 then key + 1 else key - 1
    match (gals [other]).head? with
    | some g0 => fun g => d.dieOf g != d.dieOf g0
    | none => fun _ => true

/-- Is there a present gallery where a context may run? -/
def Dev.placeExists (d : Dev) (r : Run) (key : Nat) (t : Task) : Bool :=
  (List.range 128).any (fun g => !d.gals.absent.contains g && d.placeOk r key t g)

/-- Do the producers of a task's STREAM inputs let it be dispatched (R147)? -/
def Run.producersStarted (r : Run) (i : Image) (t : Nat) : Bool :=
  (i.streamProducers t).all (fun u => (i.templateTasks u).all (fun n =>
    let x := r.task i n
    decide (n < r.expanded) && x.st != .waiting && x.st != .ready && x.st != .released))

/-- The gallery a ready task may go to now (R145, R501), none where it is not dispatchable. -/
def Dev.galleryFor (d : Dev) (el : List Nat) (h key : Nat) : Option Nat :=
  match d.run h, d.runImage h with
  | some r, some i =>
    match find r.tasks key with
    | none => none
    | some t =>
      let x := d.inst r.inst
      let tp := i.template t.template
      if decide ((d.running r.inst).length < x.share.galMax) && x.st == .active && r.producersStarted i t.template &&
          decide (d.localUsed r.inst + tp.localBytes ≤ 1024 * x.share.localKib) &&
          decide (d.atriumUsed r.inst + tp.atriumBytes ≤ 1024 * x.share.atriumKib) then
        el.find? (d.placeOk r key t)
      else none
  | _, _ => none

/-- The ready tasks, highest level first, in list order. -/
def Dev.readyTasks (d : Dev) : List (Nat × Nat) := (List.range 8).flatMap (fun k => d.ready (7 - k))

/-- Is the instance of a run below its minimum (R145)? -/
def Dev.belowMin (d : Dev) (h : Nat) : Bool :=
  match d.run h with
  | some r => decide ((d.running r.inst).length < (d.inst r.inst).share.galMin)
  | none => false

/-- The dispatch message (R329). -/
def dispatchMessage (r : Run) (t : Task) (h key prog seq : Nat) : Bytes :=
  toLE 8 (taskWord r.inst t h key).toNat ++ toLE 2 t.template ++
  toLE 1 (t.prio % 8 + (b2n t.restartable) <<< 3 + (b2n t.cascade) <<< 4 + (b2n t.ledger) <<< 5) ++ toLE 1 0 ++ toLE 4 t.logical ++
  toLE 8 prog ++ toLE 4 seq ++ toLE 4 1

/-- Dispatch a task to a logical gallery. A dispatch passes over a hot gallery where one stands idle ahead of the chosen one in the idle
queue (DESIGN CHOICE, log entry 130). -/
def Dev.dispatchTo (d : Dev) (c : CoreSt) (h key g : Nat) : Dev :=
  match d.run h with
  | none => d
  | some r =>
    match find r.tasks key with
    | none => d
    | some t =>
      let t' := { t with st := TaskSt.running, gal := some g }
      let skipped := (d.doc.idle.takeWhile (fun x => x != g)).any (fun x => d.doc.hot.contains x && look d.doc.gal x .idle == .idle)
      let seq := (look d.doc.seq g 0 + 1) % 2 ^ 32
      let prog := match d.program r.inst r.slot with | some p => p.addr | none => 0
      let d := (d.leaveLists h key t.prio).setTask h key t'
      let d := { d with doc := { d.doc with
        idle := d.doc.idle.filter (· != g)
        gal := put d.doc.gal g .running
        task := put d.doc.task g (h, key)
        seq := put d.doc.seq g seq
        msgs := put d.doc.msgs g (dispatchMessage r t' h key prog seq) } }
      let d := d.count R.docCntDispatch
      let d := if skipped then d.count R.docCntHotskip else d
      d.trace c h { kind := .dispatch, key := key, task := t', gal := g, hot := d.doc.hot.contains g }

/-- A ready LEDGER context with no present gallery to run on ends (R148: 0x0301; R241: 0x0403). -/
def Dev.failUnplaced (d : Dev) (c : CoreSt) : Dev :=
  let bad := d.readyTasks.find? (fun (x : Nat × Nat) => match d.run x.1 with
    | some r => (match find r.tasks x.2 with | some t => t.ledger && !d.placeExists r x.2 t | none => false)
    | none => false)
  match bad with
  | none => d
  | some (h, key) =>
    match d.run h, d.runImage h with
    | some r, some i =>
      match find r.tasks key with
      | none => d
      | some t =>
        let (f, d) := d.draw
        let st := if 2 ^ 21 ≤ key then 0x0403 else 0x0301
        let d := (d.leaveLists h key t.prio).setTask h key { t with st := .comparing }
        (d.logicalFails c h i t.template t.logical st (f.toNat % 2 ^ 16)).settleRun c h
    | _, _ => d

/-- One dispatch (input 7 of R138): of instances below their minimum first; highest level, earliest in its list, first gallery in the idle
queue that accepts it (R145). -/
def Dev.dispatchStep (d : Dev) (c : CoreSt) : Dev :=
  if c.mode ≠ .service then d
  else
    let d := d.failUnplaced c
    let el := d.eligible
    let xs := d.readyTasks.filterMap (fun (x : Nat × Nat) => (d.galleryFor el x.1 x.2).map (fun g => (x.1, x.2, g)))
    let low := xs.filter (fun (x : Nat × Nat × Nat) => d.belowMin x.1)
    match (if low.isEmpty then xs else low) with
    | [] => d
    | (h, key, g) :: _ => d.dispatchTo c h key g

/-! ### One decision -/

/-- One decision of the arbiter (R138): each input at most once, in order. A gallery whose notice is applied takes no dispatch in the same
decision, because it has left the idle queue (R139). -/
def Dev.decide_ (d : Dev) (c : CoreSt) : Dev :=
  let d := { d with doc := { d.doc with decision := d.doc.decision + 1 } }
  let d := (((d.noticeStep c).cancelStep c).completionStep c).verdictStep c
  ((d.releaseStep c).expandStep c).dispatchStep c

/-- DOCENT_DECISION (R138): from SERVICE entry on. -/
def execDocentDecision (s : State) : Host.Outcome State Fault Refusal :=
  s.onDev (fun c d => if d.flag R.docStatus 0 then d.decide_ c else d)

end Sys2Proof.Machine
end

