-- ==== Sys2Proof/Machine/Exchange.lean ====
section
/-!
DEFINITION. The Exchange (spec/07_exchange_and_joins.md): staging of SEND writes, the wait for a page, NEXT requests and their
grants, publication, voids, releases and run ends.
-/

namespace Sys2Proof.Machine

/-! ### Staging pages (R204, R205, R208) -/

/-- The n-th free page of a pool, taken lowest first; none where the pool has too few (log entry 36). -/
def Dev.freePages (d : Dev) (pool : Nat) : List Nat :=
  let base := d.getF (R.excPoolBase pool) 63 12 * 4096
  let used := (d.poolPages.filter (fun (p : Nat × Nat × Nat) => p.1 == pool)).map (fun p => p.2.1)
  ((List.range (d.getF (R.excPoolSize pool) 31 0)).map (fun k => base + 4096 * k)).filter (fun a => !used.contains a)

/-- Can instance `inst` take `n` pages of a pool now (R203, R204)? -/
def Dev.pagesFree (d : Dev) (pool inst n : Nat) : Bool :=
  decide (n ≤ (d.freePages pool).length) && decide (d.memUsed inst (pool == 1) + 4096 * n ≤ d.memQuota inst (pool == 1))

/-- Rows that a page of a stride holds (R205). -/
def pageRows (stride : Nat) : Nat := 4032 / stride

/-- A write of the Exchange into a page of a gallery's task (R366: staging and grants at class 1). The gallery's SEND has its response once this
write has (R202); an unmapped address is recorded for the Exchange (R360, R506: SOURCE 6). -/
def Dev.excWrite (d : Dev) (c : CoreSt) (x : ExcPage) (pa : Nat) (bs : Bytes) : Dev × Option BusReason :=
  let run := ((d.run x.run).map (fun r => r.runId)).getD 0
  match (d.acceptRange c true 1 pa bs.length).writePA { source := 0, unit := (d.logicalOf x.gal).getD 0xFF, run := run, task := x.task, va := pa } pa bs with
  | (d, some .unmapped) =>
    (d.devViolation c { source := 6, unit := 0xFF, run := run, task := x.task } x.inst pa 1, some .unmapped)
  | r => r

/-- Close a page (R205, R206): its header, NEXT zero. -/
def Dev.closePage (d : Dev) (c : CoreSt) (x : ExcPage) : Dev × Option BusReason :=
  let rows := (d.readPA (x.addr + 64) (x.rows * x.stride)).bytes (x.rows * x.stride)
  d.excWrite c x x.addr (toLE 8 0 ++ toLE 2 x.rows ++ toLE 2 x.stride ++ toLE 4 (crc32c rows) ++ toLE 3 x.task ++ toLE 1 x.attempt ++
    toLE 2 x.part ++ toLE 2 x.run ++ List.replicate 40 0)

/-- Chain page `y` behind page `x`. -/
def Dev.linkPage (d : Dev) (c : CoreSt) (x y : ExcPage) : Dev × Option BusReason := d.excWrite c x x.addr (toLE 8 y.addr)

/-- Take a page. -/
def Dev.takePage (d : Dev) (x : ExcPage) : Dev × ExcPage :=
  let x := { x with addr := (d.freePages x.pool).headD 0 }
  (({ d with exc := { d.exc with chains := d.exc.chains ++ [x] } }).count R.excCntPages, x)

/-- Replace a page of the open chains. -/
def Dev.setPage (d : Dev) (x : ExcPage) : Dev :=
  { d with exc := { d.exc with chains := d.exc.chains.map (fun (y : ExcPage) => if y.addr == x.addr then x else y) } }

/-! ### SEND writes (R201 to R203) -/

/-- STRIDE codes 0 to 6 are 8 to 512 (R199); what a gallery's firmware stages at which stride follows from its slots' types (log entry
37). -/
def strideOf (k : Nat) : Nat := 8 * 2 ^ k

/-- What the arbiter needs of a write: partitions, partition mode, pool, edge rank. None: the running task's group has no PARTITION
operator (R201). -/
def Dev.sendEdge (d : Dev) (w : Word) : Option (Nat × Nat × Nat × Nat) :=
  match d.taskOf w with
  | none => none
  | some (i, t, _) => (i.partition t).map (fun (e : Operator × Nat) =>
      let b := i.param e.1
      (le b 4 4, le b 0 1, le b 3 1, e.2))

/-- The published-list heads of an edge: 16 bytes a partition (R208). -/
def headPages (parts : Nat) : Nat := ceilDiv (16 * parts) 4096

/-- Remove the first `n` ingress writes of a gallery. -/
def dropSends (p : Nat) : Nat → List ExcSend → List ExcSend
  | _, [] => []
  | 0, xs => xs
  | n + 1, x :: xs => if x.gal == p then dropSends p n xs else x :: dropSends p (n + 1) xs

/-- Take a gallery's first `n` writes off its ingress queue. -/
def Dev.sendsTaken (d : Dev) (p n : Nat) : Dev := { d with exc := { d.exc with ingress := dropSends p n d.exc.ingress } }

/-- The task that runs on a gallery must fail with a status (R201, R203, R208): the first one stands. -/
def Dev.taskMustFail (d : Dev) (p : Nat) (task : Word) (st : Nat) : Dev :=
  match find d.exc.fail p with
  | some (w, _) => if w = task then d else { d with exc := { d.exc with fail := put d.exc.fail p (task, st) } }
  | none => { d with exc := { d.exc with fail := put d.exc.fail p (task, st) } }

/-- An error response to a gallery's first `n` writes. -/
def Dev.sendError (d : Dev) (p n part : Nat) (r : BusReason) : Dev := (d.sendsTaken p n).postError p (0x100000 + 64 * part) (busCode r)

/-- Is a void notice of this attempt, or the end of this run, waiting at the Exchange (R214)? -/
def Dev.excVoided (d : Dev) (run task attempt : Nat) : Bool := d.exc.notices.contains (.void run task attempt)
def Dev.excEnding (d : Dev) (run : Nat) : Bool := d.exc.notices.contains (.runEnd run)

/-- The open page a row of `stride` joins. -/
def Dev.openPage (d : Dev) (p part run task attempt stride : Nat) : Option ExcPage :=
  d.exc.chains.find? (fun (x : ExcPage) => x.gal == p && x.part == part && x.run == run && x.task == task && x.attempt == attempt && !x.closed &&
    x.stride == stride)

/-- Cut a string into rows. -/
def rowsOf (stride : Nat) : Nat → Bytes → List Bytes
  | 0, _ => []
  | fuel + 1, bs => if bs.isEmpty then [] else bs.take stride :: rowsOf stride fuel (bs.drop stride)

/-- Stage one row: into the open page, or into a new page behind it (R206). A full page closes. The first error response. -/
def Dev.stageRow (d : Dev) (c : CoreSt) (new : ExcPage) (row : Bytes) : Dev × Option BusReason :=
  let cur := d.openPage new.gal new.part new.run new.task new.attempt new.stride
  let (d, x, e1) := match cur with
    | some x => (d, x, none)
    | none =>
      let last := (d.exc.chains.filter (fun (x : ExcPage) => x.gal == new.gal && x.part == new.part && x.run == new.run && x.task == new.task &&
        x.attempt == new.attempt)).getLast?
      let (d, x) := d.takePage new
      match last with
      | some y => let (d, e) := d.linkPage c y x; (d, x, e)
      | none => (d, x, none)
  let (d, e2) := d.excWrite c x (x.addr + 64 + x.rows * x.stride) row
  let x := { x with rows := x.rows + 1, closed := decide (pageRows x.stride ≤ x.rows + 1) }
  let d := d.setPage x
  let (d, e3) := if x.closed then d.closePage c x else (d, none)
  (d.count R.excCntRows, (e1.orElse (fun _ => e2)).orElse (fun _ => e3))

/-- Record a failed allocation (R203, R223). -/
def Dev.allocFail (d : Dev) (inst run gal pool : Nat) : Dev :=
  let rid := ((d.run run).map (fun r => r.runId)).getD 0
  let v := 0x0501 <<< 48 + inst <<< 40 + rid <<< 24 + gal <<< 16 + pool
  ((d.setReg R.excFault (BitVec.ofNat 64 v)).setFlag R.excStatus 1 true).count R.excCntAllocfail

/-- How the arbiter finds a gallery's first write: the writes that carry its rows, and what they meet. `fails`: the task fails with
BAD_DESCRIPTOR (R201). -/
inductive SendRes where
  | idle
  | bad (n part : Nat) (fails : Bool)
  | blocked (n inst run pool : Nat) (atOnce : Bool)
  | ready (n : Nat) (new : ExcPage) (rows : List Bytes)

/-- Does an edge of a run have the pages of its list heads? -/
def Dev.headsTaken (d : Dev) (run edge : Nat) : Bool :=
  d.exc.heads.any (fun (h : Nat × Nat × Nat × Nat × Nat) => h.1 == run && h.2.1 == edge)

/-- The list heads of an edge take their pages with its first write, where they fit (R208). -/
def Dev.takeHeads (d : Dev) (run edge pool inst parts : Nat) : Dev :=
  if d.headsTaken run edge || !d.pagesFree pool inst (headPages parts) then d
  else
    let pages := (d.freePages pool).take (headPages parts)
    each pages (fun _ (d : Dev) => d.count R.excCntPages)
      { d with exc := { d.exc with heads := d.exc.heads ++ pages.map (fun a => (run, edge, pool, inst, a)) } }

/-- Look at the first write of gallery `p` (R201, R203, R208, R214). -/
def Dev.sendLook (d : Dev) (p : Nat) (stride : Nat) : Dev × SendRes :=
  match d.exc.ingress.filter (fun (x : ExcSend) => x.gal == p) with
  | [] => (d, .idle)
  | x :: more =>
    let n := max 1 (stride / 64)
    let ws := (x :: more).take n
    let run := ctRun x.task
    match d.sendEdge x.task with
    | none => (d, .bad 1 x.part true)
    | some (parts, mode, pool, edge) =>
      let limit := if mode = 3 then 1 else parts
      if d.excVoided run (ctNum x.task) (ctAttempt x.task) then (d, .bad 1 x.part false)
      else if limit ≤ x.part then (d, .bad 1 x.part true)
      else if ws.any (fun (y : ExcSend) => y.part != x.part || y.task != x.task || y.start != 0 || y.bytes.length % min stride 64 != 0 ||
          y.bytes.isEmpty || (decide (64 ≤ stride) && y.bytes.length != 64)) then (d, .bad 1 x.part false)
      else if ws.length < n then (d, .idle)
      else
        let inst := ctInst x.task
        let new : ExcPage := {
          addr := 0
          pool := pool
          inst := inst
          stride := stride
          part := x.part
          run := run
          task := ctNum x.task
          attempt := ctAttempt x.task
          gal := p }
        let rows := rowsOf stride 8 (ws.flatMap (fun (y : ExcSend) => y.bytes))
        let d := d.takeHeads run edge pool inst parts
        let room := match d.openPage p x.part run new.task new.attempt stride with
          | some y => pageRows stride - y.rows
          | none => 0
        let need := ceilDiv (rows.length - room) (pageRows stride)
        if d.headsTaken run edge ∧ (need = 0 ∨ d.pagesFree pool inst need) then (d, .ready n new rows)
        else (d, .blocked n inst run pool (d.getF (R.excPoolSize pool) 31 0 == 0 || d.getF R.excCtrl 31 16 == 0))

/-- Stage a write whose pages are free; the response follows (R202). -/
def Dev.sendStage (d : Dev) (c : CoreSt) (p n : Nat) (new : ExcPage) (rows : List Bytes) : Dev :=
  let (d, e) := rows.foldl (fun (s : Dev × Option BusReason) row =>
    let (d, e) := s.1.stageRow c new row
    (d, s.2.orElse (fun _ => e))) (d, none)
  let d := d.count R.excCntSend n
  match e with
  | none => d.sendsTaken p n
  | some r => d.sendError p n new.part r

/-- An error response to the first write of a gallery, whose task fails by R201 where it is to. -/
def Dev.sendBad (d : Dev) (p n part : Nat) (fails : Bool) : Dev :=
  match d.exc.ingress.find? (fun (x : ExcSend) => x.gal == p) with
  | some x => (if fails then d.taskMustFail p x.task 0x0201 else d).sendError p n part .none
  | none => d

/-- Fail a gallery's first writes, which carry one row or one write's rows, for want of a page (R203). -/
def Dev.sendFail (d : Dev) (p n inst run pool : Nat) : Dev :=
  match d.exc.ingress.find? (fun (x : ExcSend) => x.gal == p) with
  | some x => ((d.allocFail inst run ((d.logicalOf p).getD 0) pool).taskMustFail p x.task 0x0501).sendError p n x.part .none
  | none => d

/-- When did the first write of a gallery begin to wait? -/
def Dev.sendSince (d : Dev) (p : Nat) : Option Nat := (d.exc.ingress.find? (fun (x : ExcSend) => x.gal == p)).bind (fun (x : ExcSend) => x.since)

/-- The gallery's first write begins to wait; `n` writes carry its rows. -/
def Dev.sendWaits (d : Dev) (p n now : Nat) : Dev :=
  let rec_ (x : ExcSend) : ExcSend := { x with since := some now, span := n }
  match d.exc.ingress.findIdx? (fun (x : ExcSend) => x.gal == p) with
  | some k => { d with exc := { d.exc with ingress := modAt rec_ k d.exc.ingress } }
  | none => d

/-- A SEND write of run `run` once its end is at the Exchange: ignored, and its response closes it (R214). -/
def Dev.sendEnded (d : Dev) (p : Nat) : Bool :=
  match d.exc.ingress.find? (fun (x : ExcSend) => x.gal == p) with
  | some x => d.excEnding (ctRun x.task)
  | none => false

/-- EXC_SEND: the partition arbiter takes up the first write of a gallery's ingress queue. -/
def execExcSend (p : Fin 136) (stride : Fin 7) (s : State) : Host.Outcome State Fault Refusal :=
  s.onDev (fun c d =>
    if d.sendEnded p.val then d.sendsTaken p.val 1
    else if (d.sendSince p.val).isSome then d
    else match d.sendLook p.val (strideOf stride.val) with
      | (d, .idle) => d
      | (d, .bad n part fails) => d.sendBad p.val n part fails
      | (d, .ready n new rows) => d.sendStage c p.val n new rows
      | (d, .blocked n inst run pool now) => if now then d.sendFail p.val n inst run pool else d.sendWaits p.val n c.time.toNat)

/-- EXC_SEND_RESUME: a write that waits gets its page. -/
def execExcSendResume (p : Fin 136) (stride : Fin 7) (s : State) : Host.Outcome State Fault Refusal :=
  s.onDev (fun c d =>
    if (d.sendSince p.val).isNone then d
    else match d.sendLook p.val (strideOf stride.val) with
      | (d, .idle) => d
      | (d, .bad n part fails) => d.sendBad p.val n part fails
      | (d, .ready n new rows) => d.sendStage c p.val n new rows
      | (d, .blocked _ _ _ _ _) => d)

/-- The pages of spill chains and group tables that a task takes (R219, R228), charged to its instance: a pool and a count each, taken where all
are free; none where they are not. -/
def Dev.takeSpill (d : Dev) (p inst : Nat) (need : Tbl Nat) : Option Dev :=
  if need.all (fun e => e.2 == 0 || d.pagesFree e.1 inst e.2) then
    some (each need (fun (e : Nat × Nat) (d : Dev) =>
      let pages := (d.freePages e.1).take e.2
      each pages (fun _ (d : Dev) => d.count R.excCntPages)
        { d with exc := { d.exc with spill := d.exc.spill ++ pages.map (fun a => (p, e.1, inst, a)) } }) d)
  else none

/-- Want of a page for a spill chain or a group table (R203): the task fails at once, or it begins to wait. -/
def Dev.spillWaits (d : Dev) (p now : Nat) (task : Word) (need : Tbl Nat) : Dev :=
  let pool := ((need.find? (fun e => e.2 != 0 && !d.pagesFree e.1 (ctInst task) e.2)).map (fun e => e.1)).getD 0
  if d.getF (R.excPoolSize pool) 31 0 == 0 || d.getF R.excCtrl 31 16 == 0 then
    (d.allocFail (ctInst task) (ctRun task) ((d.logicalOf p).getD 0) pool).taskMustFail p task 0x0501
  else if (find d.exc.stall p).isSome then d
  else { d with exc := { d.exc with stall := put d.exc.stall p (task, now * 4 + pool) } }

/-- A task that waits for such pages beyond ALLOC_WAIT_US fails. -/
def Dev.spillTimeout (d : Dev) (c : CoreSt) (p : Nat) : Dev :=
  match find d.exc.stall p with
  | none => d
  | some (w, t) =>
    if c.time.toNat < t / 4 + 1000 * d.getF R.excCtrl 31 16 then d
    else
      let d := (d.allocFail (ctInst w) (ctRun w) ((d.logicalOf p).getD 0) (t % 4)).taskMustFail p w 0x0501
      { d with exc := { d.exc with stall := del d.exc.stall p } }

/-- EXC_ALLOC_TIMEOUT: a gallery has waited ALLOC_WAIT_US for a page: its first SEND write, or its task. -/
def execExcAllocTimeout (p : Fin 136) (s : State) : Host.Outcome State Fault Refusal :=
  s.onDev (fun c d =>
    match d.sendSince p.val, d.exc.ingress.find? (fun (x : ExcSend) => x.gal == p.val) with
    | some t, some x =>
      if c.time.toNat < t + 1000 * d.getF R.excCtrl 31 16 then d
      else match d.sendEdge x.task with
        | some (_, _, pool, _) => d.sendFail p.val x.span (ctInst x.task) (ctRun x.task) pool
        | none => d.sendBad p.val x.span x.part true
    | _, _ => d.spillTimeout c p.val)

/-- A SEND write that reaches the port window: 64 bytes with a byte mask, from a vector store (R314). -/
def Dev.sendWrite (d : Dev) (p o : Nat) (bs : Bytes) : Dev :=
  let x : ExcSend := { gal := p, part := (o - 0x100000) / 64, start := o % 64, bytes := bs, task := (d.core p).task }
  { d with exc := { d.exc with ingress := d.exc.ingress ++ [x] } }

/-! ### NEXT requests (R209 to R211) -/

/-- The published list of a partition of an edge. -/
def excKey (run edge part : Nat) : Nat := (run * 4 + edge) * 4096 + part
def Dev.published (d : Dev) (run edge part : Nat) : List ExcPage := look d.exc.lists (excKey run edge part) []

/-- Does an edge's producing operator broadcast, and how many partitions does it cut (R197)? -/
def Image.edgeMode (i : Image) (edge : Nat) : Nat × Nat :=
  match i.streams[edge]? with
  | some e => let b := i.param (i.op e.src); (le b 0 1, le b 4 4)
  | none => (0, 0)

/-- Has every producer task of an edge finished: DONE, or cancelled with CASCADE 0 (R154, R210)? -/
def Run.producersDone (r : Run) (i : Image) (edge : Nat) : Bool :=
  match i.streams[edge]? with
  | none => false
  | some e => (i.templateTasks (i.op e.src).template).all (fun n => match find r.tasks n with
      | some t => t.st == .done || (t.st == .cancelled && !t.cascade)
      | none => false)

/-- Is every publication of a run applied? -/
def Dev.allPublished (d : Dev) (run : Nat) : Bool :=
  !d.exc.notices.any (fun n => match n with | .publish r _ _ => r == run | _ => false)

/-- A grant record (R209). -/
def grantRecord (page rows stride : Nat) (ended : Bool) : Bytes :=
  toLE 8 page ++ toLE 2 rows ++ toLE 2 stride ++ toLE 2 (1 + 2 * b2n ended) ++ toLE 2 0

/-- Answer a request, where it can be answered now; true: answered, or ignored for a run that ends (R214). -/
def Dev.grant (d : Dev) (x : ExcNext) : Dev × Bool :=
  let run := ctRun x.task
  if d.excEnding run then (d, true)
  else match d.taskOf x.task, d.run run with
    | some (i, t, l), some r =>
      match i.streamInto t x.port with
      | none => (d, false)
      | some edge =>
        let part := if (i.edgeMode edge).1 = 3 then 0 else l
        let key := x.gal * 4 + x.port
        let seen := match find d.exc.cursor key with
          | some (w, n) => if w == x.task then n else 0
          | none => 0
        match (d.published run edge part)[seen]? with
        | some pg =>
          let k := d.core x.gal
          let n := k.staging.length
          let d := d.setCore x.gal { k with staging := k.staging ++ [(n, pg.addr)] }
          let d := { d with exc := { d.exc with cursor := put d.exc.cursor key (x.task, seen + 1) } }
          ((d.engineWrite x.gal x.slot (grantRecord (4096 * n) pg.rows pg.stride false)).count R.excCntGrant, true)
        | none =>
          if r.producersDone i edge && d.allPublished run then
            ((d.engineWrite x.gal x.slot (grantRecord 0 0 0 true)).count R.excCntGrant, true)
          else (d, false)
    | _, _ => (d, true)

/-- A request that waits for its answer: outstanding, at most 16 an input port, or behind those at the arbiter (R209). -/
def Dev.nextWait (d : Dev) (x : ExcNext) : Dev :=
  if 16 ≤ d.exc.next.countP (fun (y : ExcNext) => y.gal == x.gal && y.port == x.port) then
    { d with exc := { d.exc with late := d.exc.late ++ [x] } }
  else { d with exc := { d.exc with next := d.exc.next ++ [x] } }

/-- Answer every request that waits and can be answered, in arrival order. -/
def Dev.grants (d : Dev) : Dev :=
  let reqs := d.exc.next ++ d.exc.late
  let d := { d with exc := { d.exc with next := [], late := [] } }
  reqs.foldl (fun (d : Dev) (x : ExcNext) =>
    let (d, ok) := d.grant x
    if ok then d else d.nextWait x) d

/-- A NEXT write: true for an error response, to a task with no STREAM edge at the port it names (log entry 35). -/
def Dev.nextWrite (d : Dev) (p v : Nat) : Dev × Bool :=
  let x : ExcNext := { gal := p, port := bits v 17 16, slot := 16 * bits v 15 0, task := (d.core p).task }
  match d.taskOf x.task with
  | some (i, t, _) =>
    if (i.streamInto t x.port).isNone then (d, true)
    else match d.grant x with
      | (d, true) => (d, false)
      | (d, false) => (d.nextWait x, false)
  | none => (d, true)

/-- EXC_NEXT. -/
def execExcNext (p : Fin 136) (v : BitVec 64) (s : State) : Host.Outcome State Fault Refusal :=
  s.onDev (fun _ d =>
    match d.nextWrite p.val v.toNat with
    | (d, true) => d.postError p.val 0x40000 0
    | (d, false) => d)

/-! ### The Docent's notices (R206, R207, R213, R214) -/

/-- The first notice of a kind, and the notices without it. -/
def takeNotice (pick : ExcNotice → Bool) (ns : List ExcNotice) : Option (ExcNotice × List ExcNotice) :=
  (ns.find? pick).map (fun n => (n, ns.erase n))

/-- Record the heaviest partition once an edge's last producer has published. -/
def Dev.skew (d : Dev) (i : Image) (r : Run) (run edge : Nat) : Dev :=
  if r.producersDone i edge && d.allPublished run then
    let parts := (i.edgeMode edge).2
    let sizes := (List.range parts).map (fun p => (d.published run edge p).length)
    let most := sizes.foldl max 0
    let p := (sizes.findIdx? (· == most)).getD 0
    let v := r.inst <<< 56 + r.runId <<< 40 + p <<< 28 + edge <<< 26 + most
    (d.setReg R.excSkew (BitVec.ofNat 64 v)).setReg R.excSkewMean (BitVec.ofNat 64 (total sizes / max 1 parts))
  else d

/-- Append a producer's chain of one partition to the published list. -/
def Dev.publishChain (d : Dev) (c : CoreSt) (run edge part : Nat) (chain : List ExcPage) : Dev :=
  match chain with
  | [] => d
  | x :: _ =>
    let old := d.published run edge part
    let d := match old.getLast? with | some y => (d.linkPage c y x).1 | none => d
    { d with exc := { d.exc with lists := put d.exc.lists (excKey run edge part) (old ++ chain) } }

/-- Publish what a producer staged: its open pages close, and its chains join the lists in ascending partition order (R206). -/
def Dev.publish (d : Dev) (c : CoreSt) (run task attempt : Nat) : Dev :=
  match d.runImage run, d.run run with
  | some i, some r =>
    match i.partition (i.taskPlace task).1 with
    | none => d
    | some (_, edge) =>
      let mine (x : ExcPage) : Bool := x.run == run && x.task == task && x.attempt == attempt
      let pages := d.exc.chains.filter mine
      let d := each pages (fun (x : ExcPage) (d : Dev) => if x.closed then d else (d.closePage c x).1) d
      let d := { d with exc := { d.exc with chains := d.exc.chains.filter (fun (x : ExcPage) => !mine x) } }
      let relink (d : Dev) (ch : List ExcPage) : Dev := each (ch.zip (ch.drop 1)) (fun (e : ExcPage × ExcPage) d => (d.linkPage c e.1 e.2).1) d
      let d := each (sortNat (pages.map (fun (x : ExcPage) => x.part)).eraseDups) (fun part (d : Dev) =>
        let ch := (pages.filter (fun (x : ExcPage) => x.part == part)).map (fun (x : ExcPage) => { x with closed := true })
        (relink d ch).publishChain c run edge part ch) d
      (d.skew i r run edge).grants
  | _, _ => d

/-- EXC_PUBLISH. -/
def execExcPublish (s : State) : Host.Outcome State Fault Refusal :=
  s.onDev (fun c d =>
    match takeNotice (fun n => match n with | .publish _ _ _ => true | _ => false) d.exc.notices with
    | some (.publish run task attempt, rest) =>
      let ending := d.excEnding run
      let d := { d with exc := { d.exc with notices := rest } }
      if ending then d else d.publish c run task attempt
    | _ => d)

/-- EXC_VOID: every page of the attempt is freed, its rows discarded, and its writes on their way get error responses. A cancelled producer may
have been the last of its edge, so requests that wait are answered where they now can be (R210). -/
def execExcVoid (s : State) : Host.Outcome State Fault Refusal :=
  s.onDev (fun _ d =>
    match takeNotice (fun n => match n with | .void _ _ _ => true | _ => false) d.exc.notices with
    | some (.void run task attempt, rest) =>
      let mine (x : ExcPage) : Bool := x.run == run && x.task == task && x.attempt == attempt
      let late (x : ExcSend) : Bool := ctRun x.task == run && ctNum x.task == task && ctAttempt x.task == attempt
      let freed := (d.exc.chains.filter mine).length
      let lost := d.exc.ingress.filter late
      let d := { d with exc := { d.exc with
        notices := rest
        chains := d.exc.chains.filter (fun (x : ExcPage) => !mine x)
        ingress := d.exc.ingress.filter (fun (x : ExcSend) => !late x)
        next := d.exc.next.filter (fun (x : ExcNext) => !(ctRun x.task == run && ctNum x.task == task && ctAttempt x.task == attempt))
        late := d.exc.late.filter (fun (x : ExcNext) => !(ctRun x.task == run && ctNum x.task == task && ctAttempt x.task == attempt)) } }
      let d := each lost (fun (x : ExcSend) (d : Dev) => d.postError x.gal (0x100000 + 64 * x.part) 0) d
      (d.count R.excCntVoid freed).grants
    | _ => d)

/-- Is a logical task finished: its contexts DONE or CANCELLED (R213)? -/
def Run.finished (r : Run) (i : Image) (t l : Nat) : Bool :=
  (i.copies t l).all (fun n => match find r.tasks n with
    | some x => x.st == .done || x.st == .cancelled
    | none => false)

/-- EXC_RELEASE: the pages of partition l of every edge into the template are freed; a BROADCAST list when every consumer is
finished. -/
def execExcRelease (s : State) : Host.Outcome State Fault Refusal :=
  s.onDev (fun _ d =>
    match takeNotice (fun n => match n with | .release _ _ _ => true | _ => false) d.exc.notices with
    | some (.release run t l, rest) =>
      let ending := d.excEnding run
      let d := { d with exc := { d.exc with notices := rest } }
      match d.runImage run, d.run run with
      | some i, some r =>
        if ending then d
        else each (List.range i.streams.length) (fun edge (d : Dev) =>
          match i.streams[edge]? with
          | none => d
          | some e =>
            if (i.op e.dst).template ≠ t then d
            else if (i.edgeMode edge).1 = 3 then
              if (List.range (i.logicalTasks t)).all (r.finished i t) then
                { d with exc := { d.exc with lists := del d.exc.lists (excKey run edge 0) } }
              else d
            else { d with exc := { d.exc with lists := del d.exc.lists (excKey run edge l) } }) d
      | _, _ => d
    | _ => d)

/-- EXC_RUN_END: every page and list head of the run is freed, and every other input of the run ignored (R213, R214). -/
def execExcRunEnd (s : State) : Host.Outcome State Fault Refusal :=
  s.onDev (fun _ d =>
    match takeNotice (fun n => match n with | .runEnd _ => true | _ => false) d.exc.notices with
    | some (.runEnd run, rest) =>
      let other (n : ExcNotice) : Bool := match n with
        | .void r _ _ => r != run
        | .runEnd _ => true
        | .publish r _ _ => r != run
        | .release r _ _ => r != run
      { d with exc := { d.exc with
        notices := rest.filter other
        chains := d.exc.chains.filter (fun (x : ExcPage) => x.run != run)
        lists := d.exc.lists.filter (fun (e : Nat × List ExcPage) => e.1 / 16384 != run)
        heads := d.exc.heads.filter (fun (h : Nat × Nat × Nat × Nat × Nat) => h.1 != run)
        ingress := d.exc.ingress.filter (fun (x : ExcSend) => ctRun x.task != run)
        next := d.exc.next.filter (fun (x : ExcNext) => ctRun x.task != run)
        late := d.exc.late.filter (fun (x : ExcNext) => ctRun x.task != run)
        cursor := d.exc.cursor.filter (fun (e : Nat × Word × Nat) => ctRun e.2.1 != run) } }
    | _ => d)

end Sys2Proof.Machine
end

