-- ==== Sys2Proof/Machine/MemSystem.lean ====
section
/-!
DEFINITION. The memory controllers (spec/13_memory_system.md): issuing by class, age and row hit, refresh, row disturbance, error
correction, the channel freeze with its release and fence, soft repair, and the interleave-set descriptors.
-/

namespace Sys2Proof.Machine

/-! ### Channels -/

/-- The register of a channel: MEM_PC[c] or MEM_ANX[n]. -/
def chanReg (ch : Nat) : Nat := if ch < 512 then R.memPc ch else R.memAnx (ch - 512)

/-- The member offset of a member address of channel `ch` in a set, as an offset in the set (R362 read backwards). -/
def MemSet.offsetOf (s : MemSet) (ch a : Nat) : Option Nat :=
  let m := if s.annex then ch - 512 else ch
  let n := max 1 s.count
  if (s.annex == decide (512 ≤ ch)) && decide (s.first ≤ m) && decide (m < s.first + s.count) && decide (s.offset ≤ a) &&
      decide (a < s.offset + s.size / n) then
    let x := a - s.offset
    some (((x >>> s.grain) * n + (m - s.first)) <<< s.grain + x % 2 ^ s.grain)
  else none

/-- The enabled set that holds a member address, and the offset in it. -/
def Dev.setHolding (d : Dev) (ch a : Nat) : Option (Nat × Nat) :=
  (List.range 16).findSome? (fun n =>
    let s := d.memSet n
    if s.enable then (s.offsetOf ch a).map (fun o => (n, o)) else none)

/-- The PRIMARY set that names set `m` as its mirror. -/
def Dev.primaryOf (d : Dev) (m : Nat) : Option Nat :=
  (List.range 16).find? (fun n => let s := d.memSet n; s.enable && s.role == 0 && s.mirrored && s.mirrorSet == m)

/-- The device physical address of a block: of a MIRROR set's block, that of its primary (R364); 0 where no set holds it. -/
def Dev.blockAddress (d : Dev) (ch a : Nat) : Nat :=
  match d.setHolding ch a with
  | none => 0
  | some (n, o) =>
    if (d.memSet n).role = 0 then (d.memSet n).base + o
    else match d.primaryOf n with
      | some p => (d.memSet p).base + o
      | none => 0

/-- Members of a set, as channel numbers. -/
def MemSet.members (s : MemSet) : List Nat := (List.range s.count).map (fun k => s.first + k + (if s.annex then 512 else 0))

/-- Is some member of a set fenced? -/
def Dev.setFenced (d : Dev) (s : MemSet) : Bool := s.members.any (fun ch => (d.chan ch).st == .fenced)

/-- Bring MEM_STATUS.FROZEN and MIRROR_LOST to what the channels say (R364, R384). -/
def Dev.memFlags (d : Dev) : Dev :=
  let lost := (List.range 16).any (fun n =>
    let s := d.memSet n
    s.enable && s.mirrored && (d.setFenced s || d.setFenced (d.memSet s.mirrorSet)))
  (d.setFlag R.memStatus 2 (d.dram.chan.any (fun e => e.2.st == .frozen))).setFlag R.memStatus 3 lost

/-! ### Issuing (R366 to R371) -/

/-- The class by which a request is chosen: 0 once age has promoted it. -/
def MemReq.rank (r : MemReq) : Nat := if r.promoted then 0 else r.cls

/-- Does the write queue drain now (R368)? A burst begins when the queue is three-quarters full, when a read waits on one of its entries or when
no read is queued, and goes on until the queue is empty (log entry 52). -/
def Chan.drains (x : Chan) (ch : Nat) : Bool :=
  x.draining || decide (3 * queuePlaces ch ≤ 4 * x.queue.countP (·.write)) || !x.queue.any (fun q => !q.write) ||
    x.queue.any (fun r => r.write && x.queue.any (fun q => !q.write && q.block == r.block && decide (r.order < q.order)))

/-- May a request issue: no earlier request to its block is queued, and a write only while the write queue drains (R368)? -/
def Chan.issuable (x : Chan) (ch : Nat) (r : MemReq) : Bool :=
  !x.queue.any (fun q => q.block == r.block && decide (q.order < r.order)) && (!r.write || x.drains ch)

/-- Take a request that issues out of the queue; the burst of writes ends with the last, and the ingress moves up. -/
def Chan.issue (x : Chan) (ch : Nat) (r : MemReq) : Chan :=
  let q := x.queue.erase r
  ({ x with queue := q, draining := x.drains ch && q.any (·.write) }).fillQueue ch x.ingress

/-- Does a request hit the open row of its bank? -/
def Chan.hit (x : Chan) (ch : Nat) (r : MemReq) : Bool :=
  find x.openRows (Config.dramBank ch r.block) == some (Config.dramRow ch r.block)

/-- The order in which R367 chooses among issuable requests. -/
def Chan.before (x : Chan) (ch : Nat) (a b : MemReq) : Bool :=
  if a.rank ≠ b.rank then decide (a.rank < b.rank)
  else if a.promoted != b.promoted then a.promoted
  else if !a.promoted && x.hit ch a != x.hit ch b then x.hit ch a
  else decide (a.order < b.order)

/-- Enter a command in the list of the last 64 (R375). -/
def Chan.enterCmd (x : Chan) (m : MemCmd) : Chan :=
  { x with last := (x.last ++ [m]).drop (x.last.length + 1 - 64) }

/-- An activate, with its neighbour refresh where the free draw says so (R371). -/
def Dev.activate (d : Dev) (c : CoreSt) (ch bank row cls : Nat) : Dev :=
  let x := d.chan ch
  let m (k : Nat) : MemCmd := { time := c.time.toNat, cmd := k, cls := cls, bank := bank, row := row, column := 0 }
  let x := if (find x.openRows bank).isSome then x.enterCmd (m 3) else x
  let x := ({ x with openRows := put x.openRows bank row, acts := upd x.acts bank 0 (· + 1) }).enterCmd (m 0)
  let (v, d) := (d.setChan ch x).draw
  if v.toNat % 2 ^ x.k = 0 then (d.setChan ch (x.enterCmd (m 5))).count R.memCntNref else d

/-- Refreshes that a channel may postpone (R369). -/
def Chan.postponeLimit (x : Chan) (ch : Nat) : Nat := if ch < 512 then 8 else min 8 (Config.annexPostpone x.rate)

/-- `n` refresh commands. -/
def Chan.refreshes (x : Chan) (c : CoreSt) : Nat → Chan
  | 0 => x
  | n + 1 => (({ x with openRows := [] }).enterCmd
      { time := c.time.toNat, cmd := 4, cls := 3, bank := 0, row := 0, column := 0 }).refreshes c n

/-- Are requests of class 0 or 1 queued? -/
def Chan.urgent (x : Chan) : Bool := x.queue.any (fun r => decide (r.rank ≤ 1))

/-- Postponed refreshes are made up once no request of class 0 or 1 is queued (R369). -/
def Chan.makeUp (x : Chan) (c : CoreSt) : Chan :=
  if x.urgent then x else { x.refreshes c x.postponed with postponed := 0 }

/-- Issue the request that R367 chooses; a channel that is not ACTIVE issues nothing (R375). -/
def Dev.issueNext (d : Dev) (c : CoreSt) (ch : Nat) : Dev :=
  let x := d.chan ch
  if x.st ≠ .active then d
  else match best (x.before ch) (x.queue.filter (x.issuable ch)) with
    | none => d
    | some r =>
      let bank := Config.dramBank ch r.block
      let row := Config.dramRow ch r.block
      let cls := r.cls + (if r.promoted then 4 else 0)
      let d := if x.hit ch r then d else d.activate c ch bank row cls
      let y := d.chan ch
      let y := (y.issue ch r).enterCmd
        { time := c.time.toNat, cmd := if r.write then 2 else 1, cls := cls, bank := bank, row := row, column := r.block % 65536 }
      d.setChan ch (y.makeUp c)

/-- MEM_REQUEST_ISSUE. -/
def execMemRequestIssue (ch : Fin 520) (s : State) : Host.Outcome State Fault Refusal :=
  s.onDev (fun c d => d.issueNext c ch.val)

/-- The age limit of a class in MEM_AGE, in nanoseconds. -/
def Dev.ageLimit (d : Dev) (cls : Nat) : Nat :=
  1000 * (if cls = 1 then d.getF R.memAge 15 0 else if cls = 2 then d.getF R.memAge 31 16 else d.getF R.memAge 47 32)

/-- MEM_AGE_PROMOTE (R367): a request of class 1, 2 or 3 older than its class's limit in MEM_AGE passes to class 0. -/
def execMemAgePromote (ch : Fin 520) (order : Nat) (s : State) : Host.Outcome State Fault Refusal :=
  s.onDev (fun c d =>
    let x := d.chan ch.val
    if x.queue.any (fun r => r.order == order && !r.promoted && r.cls != 0 && decide (r.since + d.ageLimit r.cls < c.time.toNat)) then
      let f (r : MemReq) : MemReq := if r.order = order then { r with promoted := true } else r
      (d.setChan ch.val { x with queue := x.queue.map f }).count R.memCntPromote
    else d)

/-- MEM_REFRESH_DUE (R369): issued, or postponed while requests of class 0 or 1 wait and the limit is not reached. -/
def execMemRefreshDue (ch : Fin 520) (s : State) : Host.Outcome State Fault Refusal :=
  s.onDev (fun c d =>
    let x := d.chan ch.val
    if x.st ≠ .active then d
    else if x.urgent then
      if x.postponed < x.postponeLimit ch.val then d.setChan ch.val { x with postponed := x.postponed + 1 }
      else d.setChan ch.val (x.refreshes c 1)
    else d.setChan ch.val ((x.refreshes c 1).makeUp c))

/-- The refresh rate after a sample (R370): it rises at 85 and 95 degrees, and falls 3 degrees below the threshold that raised it. -/
def nextRate (rate celsius : Nat) : Nat :=
  let up := if 95 ≤ celsius then 2 else if 85 ≤ celsius then 1 else 0
  if rate ≤ up then up
  else if rate = 2 ∧ 92 < celsius then 2
  else if 82 < celsius then 1
  else 0

/-- The rate in force: of an annex channel the higher of its own and MR4's. -/
def Chan.rateNow (x : Chan) : Nat := max x.rate x.mr4

/-- MEM_TEMP_SAMPLE. -/
def execMemTempSample (ch : Fin 520) (celsius : Nat) (mr4 : Fin 3) (s : State) : Host.Outcome State Fault Refusal :=
  s.onDev (fun _ d =>
    let x := d.chan ch.val
    d.setChan ch.val { x with rate := nextRate x.rate celsius, mr4 := if ch.val < 512 then 0 else mr4.val })

/-- MEM_RH_WINDOW (R372): the end of a 32 µs window. -/
def execMemRhWindow (ch : Fin 520) (s : State) : Host.Outcome State Fault Refusal :=
  s.onDev (fun _ d =>
    let x := d.chan ch.val
    let high := d.getF R.memRh 47 32
    let kset := d.getF R.memRh 20 16
    let kmin := min (d.getF R.memRh 12 8) kset
    let y := { x with acts := [] }
    if !d.flag R.memRh 0 then d.setChan ch.val y
    else if x.acts.any (fun e => decide (high < e.2)) then d.setChan ch.val { y with k := min x.k (max kmin (x.k - 1)), quiet := 0 }
    else if x.acts.all (fun e => decide (2 * e.2 < high)) then
      if x.quiet + 1 = 32 then d.setChan ch.val { y with k := max x.k (min kset (x.k + 1)), quiet := 0 }
      else d.setChan ch.val { y with quiet := x.quiet + 1 }
    else d.setChan ch.val { y with quiet := 0 })

/-! ### Errors, freeze and fence (R373 to R379) -/

/-- A row of a channel, by one number. -/
def rowOf (ch block : Nat) : Nat := Config.dramBank ch block * 2 ^ 32 + Config.dramRow ch block

/-- Ask for the soft repair of a row (R526). -/
def Dev.askRepair (d : Dev) (ch row : Nat) : Dev :=
  let x := d.chan ch
  if x.due.contains row then d else d.setChan ch { x with due := row :: x.due }

/-- A corrected error (R374, R526): counted, written back at class 2; DRAM_CE of them in one row within 24 hours ask for its
repair. -/
def Dev.correctedError (d : Dev) (c : CoreSt) (ch block : Nat) : Dev :=
  let d := (d.count R.memCntCe).countCe (chanReg ch) R.memCtrl
  let x := d.chan ch
  let row := rowOf ch block
  let ces := (row, c.time.toNat) :: x.rowCe.filter (fun e => within c.time.toNat dayNs e.2)
  let d := (d.setChan ch { x with rowCe := ces }).enqueue c true 2 ch (64 * block)
  if max 1 (d.getF R.safRepair 15 8) ≤ ces.countP (fun e => e.1 == row) then d.askRepair ch row else d

/-- The error response that a held write receives (R379): a gallery holds it for its next FENCE or TASKDONE (R321), another unit acts on it at
its next turn. The write of a mirrored set that its other copy takes receives none. -/
def Dev.answerLost (d : Dev) (h : HeldWrite) : Dev :=
  if (match h.other with | some ch => d.takesWrite ch | none => false) then d
  else if h.who.source = 0 then d.postError (d.phys h.who.unit) h.who.va (busCode .lost)
  else if 2 ^ 40 ≤ h.who.job then { d with xq := { d.xq with lost := h.who.job :: d.xq.lost.filter (· != h.who.job) } }
  else { d with dram := { d.dram with lost := (h.who, h.bytes.length) :: d.dram.lost } }

/-- Fence a channel until the next reset (R379): held writes receive their error responses, MEM_STATUS and DEGRADED follow. -/
def Dev.fenceChannel (d : Dev) (c : CoreSt) (ch : Nat) : Dev :=
  let x := d.chan ch
  if x.st = .fenced then d
  else
    let d := d.setChan ch { x with st := .fenced, held := [], heals := [], queue := x.queue.filter (fun r => !r.write), ingress := [] }
    let d := x.held.foldl Dev.answerLost d
    (d.fenceUnit c 1 Blk.mem ch 0x0401).memFlags

/-- An uncorrectable, command or address error freezes the channel (R375): the capture is latched, the block joins the poison list,
MEM_FREEZE is written; the third freeze in 24 hours, or a full poison list, fences it (R378, R379). -/
def Dev.freezeChannel (d : Dev) (c : CoreSt) (ch block cause : Nat) : Dev :=
  let x := d.chan ch
  if x.st ≠ .active ∨ (x.poison.contains block = true ∧ cause = 0) then d
  else
    let now := c.time.toNat
    let freezes := now :: x.freezes.filter (within now dayNs)
    let fence := decide (3 ≤ freezes.length) || (!x.poison.contains block && decide (64 ≤ x.poison.length))
    let pa := d.blockAddress ch (64 * block)
    let v : Word := BitVec.ofNat 64 ((if fence then 2 else cause) <<< 62 + (b2n (decide (512 ≤ ch))) <<< 61 + (ch % 512) <<< 52 + pa)
    let d := d.setChan ch { x with
      st := .frozen
      poison := if x.poison.length < 64 ∧ !x.poison.contains block then block :: x.poison else x.poison
      freezes := freezes
      capture := x.capture ++ [(now, v, x.last)] }
    let d := ((d.setReg R.memFreeze v).count R.memCntUe).count R.memCntFreeze
    let d := (d.raiseEvent 6).askRepair ch (rowOf ch block)
    if fence then d.fenceChannel c ch else d.memFlags

/-- What a code makes of an error: nothing to correct, corrected, detected; beyond its reach the spec states no result. -/
inductive CodeRes where
  | clean | corrected | detected | beyond
deriving DecidableEq, Repr

/-- A code that corrects errors within one unit and detects those within two, of the units that an error touches. -/
def codeRes (units : List Nat) : CodeRes :=
  match units.eraseDups.length with
  | 0 => .clean
  | 1 => .corrected
  | 2 => .detected
  | _ => .beyond

/-- The worse of two results. -/
def CodeRes.join : CodeRes → CodeRes → CodeRes
  | .beyond, _ => .beyond
  | _, .beyond => .beyond
  | .detected, _ => .detected
  | _, .detected => .detected
  | .corrected, _ => .corrected
  | _, .corrected => .corrected
  | .clean, .clean => .clean

/-- R373's codes on the wrong bits of a block's code word: 16-bit symbols in a stack; 4-bit devices of a 40-bit subchannel on a channel of x4
DIMMs; single bits of each 64 data bits with their 16 check bits on one of x8 DIMMs. -/
def Dev.codeOf (d : Dev) (ch : Nat) (wrong : List Nat) : CodeRes :=
  if ch < 512 then codeRes (wrong.map (fun b => b / 16))
  else if d.flag (R.memAnxCfg (ch - 512)) 16 then codeRes (wrong.map (fun b => b % 40 / 4))
  else ((wrong.map (fun b => b / 80)).eraseDups.map (fun k => codeRes (wrong.filter (fun b => b / 80 == k)))).foldl CodeRes.join .clean

/-- The data of a read returns (R373 to R375). What a code makes of an error beyond its reach is free (log entry 137). CA parity is the
annex's. -/
def Dev.readReturn (d : Dev) (c : CoreSt) (ch block : Nat) : MemErrKind → Dev
  | .bits wrong =>
    let corrected (d : Dev) : Dev := if (d.chan ch).st == .active then d.correctedError c ch block else d
    match d.codeOf ch wrong with
    | .clean => d
    | .corrected => corrected d
    | .detected => d.freezeChannel c ch block 0
    | .beyond =>
      let (v, d) := d.draw
      if v.toNat % 3 = 0 then d else if v.toNat % 3 = 1 then corrected d else d.freezeChannel c ch block 0
  | .parity => if ch < 512 then d else d.freezeChannel c ch block 1

/-- MEM_READ_RETURN. -/
def execMemReadReturn (ch : Fin 520) (block : Nat) (err : MemErrKind) (s : State) : Host.Outcome State Fault Refusal :=
  s.onDev (fun c d => d.readReturn c ch.val block err)

/-- PATROL_SCRUB (R374): one block of an in-service member read at class 3, while MEM_CTRL.SCRUB is 1. -/
def execPatrolScrub (ch : Fin 520) (block : Nat) (err : MemErrKind) (s : State) : Host.Outcome State Fault Refusal :=
  s.onDev (fun c d =>
    let x := d.chan ch.val
    if d.flag R.memCtrl 0 && x.st == .active && decide (64 * block < x.bytes) then
      (d.enqueue c false 3 ch.val (64 * block)).readReturn c ch.val block err
    else d)

/-! ### Freeze records and release (R377, R380) -/

/-- A command entry of a freeze record. -/
def MemCmd.bytes (m : MemCmd) : Bytes :=
  toLE 4 (m.time % 2 ^ 32) ++ toLE 1 m.cmd ++ toLE 1 m.cls ++ toLE 2 m.bank ++ toLE 4 m.row ++ toLE 2 m.column ++ toLE 2 0

/-- A freeze record; the spec gives the controller state block no layout, so it is free bytes (log entry 1). -/
def freezeRecord (time : Nat) (v : Word) (ms : List MemCmd) (block : Bytes) : Bytes :=
  toLE 8 time ++ toLE 8 v.toNat ++ toLE 1 ms.length ++ List.replicate 15 0 ++ padTo 1024 (ms.flatMap MemCmd.bytes) ++ block

/-- The Registrar copies a channel's captures to the accession log, each with its MEM_FREEZE entry (R377, R588). -/
def Dev.copyCapture (d : Dev) (c : CoreSt) (ch : Nat) : Dev :=
  let copy (d : Dev) (e : Nat × Word × List MemCmd) : Dev :=
    let (block, d) := d.drawBytes 256
    let slot := d.freezeLog.head
    let d := { d with freezeLog := d.freezeLog.push 16 (fun _ => freezeRecord e.1 e.2.1 e.2.2 block) }
    d.logEvent c.time 7 0 0 (toLE 8 e.2.1.toNat ++ toLE 1 slot)
  let es := (d.chan ch).capture
  es.foldl copy (d.setChan ch { d.chan ch with capture := [] })

/-- Rewrite a poisoned block of a primary from its mirror, where a mirror can serve it (R364), at class 2 (R366). -/
def Dev.rewriteBlock (c : CoreSt) (ch : Nat) (d : Dev) (block : Nat) : Dev :=
  match d.setHolding ch (64 * block) with
  | none => d
  | some (n, o) =>
    let s := d.memSet n
    if s.role = 0 ∧ s.mirrored = true then
      let (ch2, a2) := (d.memSet s.mirrorSet).member o
      if d.usable ch2 a2 then
        let x := d.chan ch
        let d := (d.setChan ch { x with poison := x.poison.filter (· != block) }).enqueue c true 2 ch (64 * block)
        { d with mem := d.mem.setN (Key.dram ch (64 * block)) (d.mem.getN (Key.dram ch2 a2) 64) }
      else d
    else d

/-- Release a FROZEN channel (R377): held writes are accepted and go to the DRAM in their order, so that their responses return (R376), blocks
they replaced whole leave the poison list, and blocks of a mirrored primary are rewritten. -/
def Dev.releaseChannel (d : Dev) (c : CoreSt) (ch : Nat) : Dev :=
  let x := d.chan ch
  if x.st ≠ .frozen then d
  else
    let put (m : Memory) (h : HeldWrite) : Memory := m.setN (Key.dram ch h.addr) h.bytes
    let d := { d with mem := x.held.foldl put d.mem }
    let left := x.poison.filter (fun b => !x.heals.contains b)
    let d := d.setChan ch { x with st := .active, held := [], heals := [], poison := left }
    let d := each (x.held.map (fun h => (h.addr / 64, h.who.cls))).eraseDups (fun e d => d.enqueue c true e.2 ch (64 * e.1)) d
    (left.foldl (Dev.rewriteBlock c ch) d).memFlags

/-! ### Soft repair (R381) -/

/-- SPPR: the row that the Conservator asked for is copied out and back at class 3 (R366), repaired with a spare, joins the repair log and is
counted; with no spare left it is logged and SAF_RESERVE reports the shortfall (R526). -/
def execSppr (ch : Fin 520) (row : Nat) (left : Option (BitVec 8)) (s : State) : Host.Outcome State Fault Refusal :=
  s.onDev (fun c d =>
    let x := d.chan ch.val
    if !x.due.contains row ∨ x.st ≠ .active then d
    else
      let d := d.setChan ch.val { x with
        due := x.due.filter (· != row), rowCe := x.rowCe.filter (fun e => e.1 != row) }
      let copy (write : Bool) (d : Dev) : Dev := each (Config.rowBlocks ch.val row) (fun b d => d.enqueue c write 3 ch.val (64 * b)) d
      let e : SafEntry := { action := 4, mech := 1, block := Blk.mem, unit := ch.val, detail := toLE 8 row }
      match left with
      | some pct =>
        let d := { d with saf := { d.saf with repairLog := (Blk.mem, ch.val, row) :: d.saf.repairLog } }
        ((((copy true (copy false d)).safetyLog c.time e).count R.memCntSppr).count R.safCntRepair).setF R.safReserve 55 48 pct.toNat
      | none => (d.safetyLog c.time { e with action := 0 }).setF R.safReserve 55 48 0)

/-! ### Interleave sets (R361, R363, R364) -/

/-- Who may write the descriptors now (R361): the manager in QUIESCED, the Registrar in CONFIGURE. -/
def setWriteMode (c : CoreSt) : Source → Bool
  | .registrar => c.mode == .configure || c.mode == .quiesced
  | _ => c.mode == .quiesced

/-- Do two ranges of numbers meet? -/
def meets (a n b m : Nat) : Bool := decide (a < b + m) && decide (b < a + n)

/-- Do two sets share a byte of a member? -/
def MemSet.shares (s t : MemSet) : Bool :=
  (s.annex == t.annex) && meets s.first s.count t.first t.count && meets s.offset (s.size / max 1 s.count) t.offset (t.size / max 1 t.count)

/-- The stacks of an archive set's members. -/
def MemSet.stackSet (s : MemSet) : List Nat := (s.members.map (· / 64)).eraseDups

/-- Is the mirror of set `n` (with fields `s`) as R364 asks? -/
def Dev.mirrorOk (d : Dev) (n : Nat) (s : MemSet) : Bool :=
  let t := d.memSet s.mirrorSet
  let named := (List.range 16).any (fun k =>
    let u := d.memSet k
    k != n && u.enable && u.role == 0 && u.mirrored && u.mirrorSet == s.mirrorSet)
  s.mirrorSet != n && t.enable && t.role == 1 && t.size == s.size && !named && !(s.members.any t.members.contains) &&
    (s.annex || t.annex || !s.stackSet.any t.stackSet.contains)

/-- May descriptor `n` be enabled with these fields (R363, R364)? -/
def Dev.enableOk (d : Dev) (n : Nat) (s : MemSet) : Bool :=
  let others := (List.range 16).filter (fun k => k != n && (d.memSet k).enable)
  decide (8 ≤ s.grain) && decide (s.grain ≤ 20) && decide (1 ≤ s.count) && decide (s.count ≤ 512) && decide (s.role ≤ 1) &&
  decide (s.first + s.count ≤ (if s.annex then 8 else 512)) && decide (0 < s.size) && s.size % (s.count * 2 ^ s.grain) == 0 &&
  s.members.all (fun ch => decide (s.offset + s.size / s.count ≤ (d.chan ch).bytes) && (d.chan ch).st != .fenced &&
    (d.chan ch).st != .absent) &&
  (s.role == 1 || (decide (2 ^ 40 ≤ s.base) && decide (s.base + s.size ≤ 2 ^ 47) &&
    others.all (fun k => (d.memSet k).role == 1 || !meets s.base s.size (d.memSet k).base (d.memSet k).size))) &&
  others.all (fun k => !s.shares (d.memSet k)) && (!s.mirrored || s.role == 1 || d.mirrorOk n s)

/-- Set MEM_STATUS.SET_REJECT. -/
def Dev.setReject (d : Dev) : Dev := d.setFlag R.memStatus 1 true

/-- A write of MEM_SET_MAP[n]. -/
def Dev.writeSetMap (d : Dev) (c : CoreSt) (src : Source) (n : Nat) (v : Word) : Dev :=
  let off := R.memSetMap n
  let old := d.reg off
  let new := writeFields ((regRow off).map (·.fields) |>.getD []) old v
  if !setWriteMode c src then d.setReject
  else if fld old 63 63 = 1 then
    if fld new 63 63 = 1 then d.setReject
    else
      let d := if setFld new 63 63 1 = old then d else d.setReject
      (d.setFlag off 63 false).memFlags
  else if fld new 63 63 = 0 then d.setReg off new
  else if d.enableOk n (memSetOf (d.reg (R.memSetBase n)) (d.reg (R.memSetSize n)) new) then (d.setReg off new).memFlags
  else d.setReject

/-- A write of MEM_SET_BASE[n] or MEM_SET_SIZE[n]. -/
def Dev.writeSetField (d : Dev) (c : CoreSt) (src : Source) (off n : Nat) (v : Word) : Dev :=
  if !setWriteMode c src || (d.memSet n).enable then d.setReject else d.writeReg off v

/-- MEM_SET_MAP_WRITE, from the manager or the Registrar (R384). -/
def execMemSetMapWrite (src : Source) (n : Fin 16) (v : BitVec 64) (s : State) : Host.Outcome State Fault Refusal :=
  s.onDev (fun c d => if d.isManager c src then d.writeSetMap c src n.val v else d)

end Sys2Proof.Machine
end

