-- ==== Sys2Proof/Machine/Release.lean ====
section
/-!
DEFINITION. The release and the fence of a FROZEN channel (R376, R377, R379) with what waited for the responses of held writes: completion
entries and records.
-/

namespace Sys2Proof.Machine

/-- Completions that waited for held writes are posted, where every response has come (R26). -/
def Dev.settleOwed (d : Dev) (c : CoreSt) : Dev :=
  let es := d.xq.owed
  let ps := d.prv.owed
  let d := { d with xq := { d.xq with owed := [] }, prv := { d.prv with owed := [] } }
  let d := es.foldl (fun (d : Dev) (e : OwedEntry) => d.complete c e.inst e.pair e.cid e.result e.status) d
  ps.foldl (fun (d : Dev) (e : PrvReq × Option Nat × Bool × Nat × Nat) => d.prvComplete c e.1 e.2.1 e.2.2.1 e.2.2.2.1 e.2.2.2.2) d

/-- MEM_CHANNEL_RELEASE: the Registrar copies the record, then releases the channel. -/
def execMemChannelRelease (ch : Fin 520) (s : State) : Host.Outcome State Fault Refusal :=
  s.onDev (fun c d => if d.registrarUp then ((d.copyCapture c ch.val).releaseChannel c ch.val).settleOwed c else d)

/-- MEM_RELEASE_TIMEOUT: while the Registrar restarts (or is halted) the Conservator releases the channel; the capture is kept. -/
def execMemReleaseTimeout (ch : Fin 520) (s : State) : Host.Outcome State Fault Refusal :=
  s.onDev (fun c d => if d.registrarUp then d else (d.releaseChannel c ch.val).settleOwed c)

end Sys2Proof.Machine
end

