-- ==== Sys2Proof/Machine/Dec128.lean ====
section
/-!
DEFINITION. DEC128 and ledger-lane arithmetic (spec/03_column_segments.md): exact coefficients as integers, rescaling with the
rounding modes of R91, the traps of R92, and the additions and narrowing of ledger lanes (R96, R97). `none` is ARITH_OVERFLOW.
-/

namespace Sys2Proof.Machine

/-- Is a coefficient within R72? -/
def decOk (c : Int) : Bool := decide (c.natAbs ≤ 10 ^ 38 - 1)

/-- Does an integer fit 256 bits of two's complement? -/
def fits256 (c : Int) : Bool := decide (-(2 ^ 255) ≤ c) && decide (c < 2 ^ 255)

/-- `n / d` rounded by mode 0 HALF_EVEN, 1 HALF_AWAY or 2 TRUNCATE (R91); `d` not zero. -/
def roundDiv (mode : Nat) (n d : Int) : Int :=
  let q := (n.natAbs / d.natAbs : Nat)
  let r := n.natAbs % d.natAbs
  let up := match mode with
    | 0 => decide (d.natAbs < 2 * r) || (2 * r == d.natAbs && q % 2 == 1)
    | 1 => decide (d.natAbs ≤ 2 * r)
    | _ => false
  let m : Nat := if up then q + 1 else q
  if (n < 0) != (d < 0) then -(m : Int) else m

/-- A coefficient taken up by a factor of 10^k, in 256 bits (R90, R92). -/
def alignUp (c : Int) (k : Nat) : Option Int :=
  let x := c * 10 ^ k
  if fits256 x then some x else none

/-- A coefficient at scale `s` taken to scale `t` (R91), not yet checked against R72. -/
def rescaleRaw (mode s t : Nat) (c : Int) : Option Int :=
  if s ≤ t then alignUp c (t - s) else some (roundDiv mode c (10 ^ (s - t)))

/-- A result within R72 (R92). -/
def decResult (c : Option Int) : Option Int := c.filter decOk

/-- Both coefficients at the greater of their scales. -/
def alignTwo (a b : Int) (sa sb : Nat) : Option (Int × Int) :=
  match alignUp a (max sa sb - sa), alignUp b (max sa sb - sb) with
  | some x, some y => some (x, y)
  | _, _ => none

/-- Operands of a DEC128 operation lie within R72. -/
def decOperands (a b : Int) : Bool := decOk a && decOk b

/-- Add or subtract, then rescale to `t`. -/
def decAdd (mode sa sb t : Nat) (sub : Bool) (a b : Int) : Option Int :=
  match alignTwo a b sa sb with
  | none => none
  | some (x, y) => decResult (rescaleRaw mode (max sa sb) t (if sub then x - y else x + y))

/-- Multiply, then rescale from sa + sb to `t`. -/
def decMul (mode sa sb t : Nat) (a b : Int) : Option Int := decResult (rescaleRaw mode (sa + sb) t (a * b))

/-- Divide to the target scale: the quotient of the operands aligned in 256 bits, rounded once. -/
def decDiv (mode sa sb t : Nat) (a b : Int) : Option Int :=
  if b = 0 then none
  else
    match alignUp a (t + sb - sa), alignUp b (sa - (t + sb)) with
    | some n, some d => decResult (some (roundDiv mode n d))
    | _, _ => none

/-- The lesser or the greater by value, rescaled to `t`. -/
def decPick (mode sa sb t : Nat) (greater : Bool) (a b : Int) : Option Int :=
  match alignTwo a b sa sb with
  | none => none
  | some (x, y) => decResult (rescaleRaw mode (max sa sb) t (if greater then max x y else min x y))

/-- An addition to a ledger lane (R97). -/
def laneAdd (a b : Int) : Option Int := if fits256 (a + b) then some (a + b) else none

/-- A lane narrowed to DEC128 (R96). -/
def laneNarrow (a : Int) : Option Int := decResult (some a)

end Sys2Proof.Machine
end

