-- ==== Sys2Proof/Machine/Segments.lean ====
section
/-!
DEFINITION. Column segments as the stack filters read them (spec/03_column_segments.md): the block check of R67, the header and its
checks (R69 to R74, R85), packed values (R75), and the decoding of PLAIN fixed-width, FOR, RLE and DICT rows (R76 to R78) in the
order of R86.
-/

namespace Sys2Proof.Machine

/-! ### The header -/

/-- Natural width in bytes of a fixed-width type (R71); none for VARSTR and for reserved codes. -/
def typeWidth (ty : Nat) : Option Nat :=
  match ty with
  | 0x01 | 0x11 => some 1
  | 0x02 | 0x12 => some 2
  | 0x03 | 0x13 => some 4
  | 0x04 | 0x14 | 0x30 | 0x31 => some 8
  | 0x05 | 0x15 | 0x20 => some 16
  | _ => none

/-- Types whose values are signed. -/
def typeSigned (ty : Nat) : Bool := decide (ty < 0x10) || decide (0x20 ≤ ty)

/-- DEC128 and VARSTR. -/
def tyDec : Nat := 0x20
def tyStr : Nat := 0x40

/-- A segment header: its fields are read out of its 160 bytes (R69). -/
abbrev SegHead := Bytes
namespace SegHead
def rows (h : SegHead) : Nat := le h 0x08 4
def ty (h : SegHead) : Nat := le h 0x0C 1
def enc (h : SegHead) : Nat := le h 0x0D 1
def scale (h : SegHead) : Nat := le h 0x0E 1
def hasNulls (h : SegHead) : Bool := bit (le h 0x0F 1) 0
def zoneValid (h : SegHead) : Bool := bit (le h 0x0F 1) 1
def blocks (h : SegHead) : Nat := le h 0x10 4
def firstRow (h : SegHead) : Nat := le h 0x18 8
def bitWidth (h : SegHead) : Nat := le h 0x20 1
def dictCount (h : SegHead) : Nat := le h 0x24 4
def dictId (h : SegHead) : Nat := le h 0x38 4
def nullCount (h : SegHead) : Nat := le h 0x60 4
def runCount (h : SegHead) : Nat := le h 0x64 4
/-- Regions: offset and length. -/
def nulls (h : SegHead) : Nat × Nat := (le h 0x70 4, le h 0x74 4)
def data (h : SegHead) : Nat × Nat := (le h 0x78 4, le h 0x7C 4)
def offsets (h : SegHead) : Nat × Nat := (le h 0x80 4, le h 0x84 4)
def dict (h : SegHead) : Nat × Nat := (le h 0x88 4, le h 0x8C 4)
end SegHead

/-- A 128-bit quantity of the value domain (R76): signed but for unsigned types. -/
def domainVal (ty : Nat) (bs : Bytes) : Int := if typeSigned ty then toSigned 128 (ofLE bs) else (ofLE bs : Nat)

/-- Is a value within the range of its type, and within R72 for DEC128? The failing check's status (R85). -/
def valueStatus (ty : Nat) (v : Int) : Option Nat :=
  if ty = tyDec then (if decOk v then none else some 0x0303)
  else match typeWidth ty with
    | none => none
    | some w =>
      let ok := if typeSigned ty then decide (-(2 ^ (8 * w - 1)) ≤ v) && decide (v < 2 ^ (8 * w - 1))
        else decide (0 ≤ v) && decide (v < 2 ^ (8 * w))
      if ok then none else some 0x0201

/-- Encoding and type pairing (R74), with the range of BIT_WIDTH (R77). -/
def encodingOk (h : SegHead) : Bool :=
  let fixed := (typeWidth h.ty).isSome
  match h.enc with
  | 0 => fixed || h.ty == tyStr
  | 1 => fixed && decide (h.bitWidth ≤ 64)
  | 2 => (fixed || h.ty == tyStr) && decide (1 ≤ h.bitWidth) && decide (h.bitWidth ≤ 32)
  | 3 => fixed && decide (h.bitWidth ≤ 64)
  | 4 => fixed || h.ty == tyStr
  | _ => false

/-- Bytes that `n` packed values need. -/
def packedBytes (n w : Nat) : Nat := (n * w + 7) / 8

/-- The contents that each region needs: (region, bytes). -/
def regionNeeds (h : SegHead) : List ((Nat × Nat) × Nat) :=
  let w := (typeWidth h.ty).getD 0
  let str := h.ty == tyStr
  (if h.hasNulls then [(h.nulls, (h.rows + 7) / 8)] else []) ++
  (match h.enc with
   | 0 => if str then [(h.offsets, 4 * h.rows)] else [(h.data, w * h.rows)]
   | 1 => [(h.data, packedBytes h.rows h.bitWidth)]
   | 2 => [(h.data, packedBytes h.rows h.bitWidth)] ++
      (if h.dictId = 0 then [(h.dict, h.dictCount * (if str then 4 else w))] else [])
   | 3 => [(h.data, packedBytes h.runCount h.bitWidth), (h.offsets, 2 * h.runCount)]
   | _ => if str then [(h.offsets, 4 * h.rows)] else [])

/-- The header and region checks of R85, in its order: the first failing check's status. -/
def headStatus (h : SegHead) : Option Nat :=
  let regions := [h.nulls, h.data, h.offsets, h.dict].filter (fun r => r.2 != 0)
  if !(le h 0 4 == 0x47455358 && le h 4 2 == 1 && le h 6 2 == 160) then some 0x0201
  else if !(decide (1 ≤ h.rows) && decide (h.rows ≤ 65536) && ((typeWidth h.ty).isSome || h.ty == tyStr) && encodingOk h &&
      (if h.ty = tyDec then decide (h.scale ≤ 38) else h.scale == 0)) then some 0x0201
  else if !(decide (1 ≤ h.blocks) && decide (h.blocks ≤ 262144) && noPair overlap regions &&
      regions.all (fun r => r.1 % 16 == 0 && decide (160 ≤ r.1) && decide (r.1 + r.2 ≤ 4092 * h.blocks))) then some 0x0201
  else if (regionNeeds h).any (fun n => decide (n.1.2 < n.2)) then some 0x0200
  else none

/-! ### Reading blocks -/

/-- Why a read of a segment stops: a check's status, a failed access, or a poisoned or frozen block with a mirror (R188). -/
inductive SegFail where
  | status (n : Nat)
  | access (f : AccFail)
  | mirrored
deriving DecidableEq, Repr

/-- Does a 64-byte block at a device physical address meet poison or a channel out of service, and has it a mirror (R188)? -/
def Dev.blockLost (d : Dev) (pa : Nat) : Option Bool :=
  match d.locate pa with
  | .dram ch a mir => if d.usable ch a then none else some mir.isSome
  | .bankLost => some false
  | _ => none

/-- A segment being read: for whom, from where, whether on the gallery path, where a mirror serves a lost block (R188), and the payloads
of the blocks read and checked. -/
structure SegRd where
  who : Who
  inst : Nat
  base : Nat
  gallery : Bool := false
  pay : Tbl Bytes := []

/-- A failed read of a segment, with what had been read of it. -/
abbrev SegErr := SegFail × SegRd

/-- Read block `b` and check its CRC (R67), unless it has been read. -/
def SegRd.load (d : Dev) (s : SegRd) (b : Nat) : Except SegErr SegRd :=
  if (find s.pay b).isSome then .ok s
  else
    let va := s.base + 4096 * b
    match d.checkInst s.who s.inst va 4096 false with
    | some f => .error (.access f, s)
    | none =>
      let lost : Option Bool := match d.translate s.inst va s.who.tlb false with
        | .dev pa => ((List.range 64).filterMap (fun k => d.blockLost (pa + 64 * k))).head?
        | _ => none
      match (if s.gallery && lost == some true then none else lost) with
      | some true => .error (.mirrored, s)
      | some false => .error (.status 0x0401, s)
      | none =>
        match d.readInst s.who s.inst va 4096 with
        | .error f => .error (.access f, s)
        | .ok (bs, poisoned) =>
          let s := { s with pay := put s.pay b (bs.take 4092) }
          if poisoned then .error (.status 0x0401, s)
          else if crc32c (bs.take 4092) = le bs 4092 4 then .ok s
          else .error (.status 0x0402, s)

/-- Read every block that holds a byte of a stream range, in block order. -/
def SegRd.need (d : Dev) (s : SegRd) (off n : Nat) : Except SegErr SegRd :=
  if n = 0 then .ok s
  else (List.range ((off + n - 1) / 4092 + 1 - off / 4092)).foldl (fun acc k => match acc with
    | .ok s => SegRd.load d s (off / 4092 + k)
    | e => e) (.ok s)

/-- The blocks that hold a byte of stream ranges, in block order. -/
def blocksOf (rs : List (Nat × Nat)) : List Nat :=
  sortNat ((rs.flatMap (fun r => if r.2 = 0 then [] else (List.range ((r.1 + r.2 - 1) / 4092 + 1 - r.1 / 4092)).map (fun k => r.1 / 4092 + k))).eraseDups)

/-- Has every byte of a stream range been read? -/
def SegRd.has (s : SegRd) (off n : Nat) : Bool := (blocksOf [(off, n)]).all (fun b => (find s.pay b).isSome)

/-- Read, in block order, every block that `f` names; what it names may depend on what has been read (R86, step 3). -/
def SegRd.settle (d : Dev) (f : SegRd → List (Nat × Nat)) : Nat → SegRd → Except SegErr SegRd
  | 0, s => .ok s
  | fuel + 1, s =>
    match (blocksOf (f s)).find? (fun b => (find s.pay b).isNone) with
    | none => .ok s
    | some b => match SegRd.load d s b with
      | .ok s => SegRd.settle d f fuel s
      | e => e

/-- Bytes of the stream, from blocks that have been read. -/
def SegRd.get (s : SegRd) (off n : Nat) : Bytes :=
  (List.range n).map (fun k => (look s.pay ((off + k) / 4092) []).getD ((off + k) % 4092) 0)

/-- The header: block 0 with its checks. -/
def SegRd.header (d : Dev) (s : SegRd) : Except SegErr (SegRd × SegHead) :=
  match SegRd.load d s 0 with
  | .error e => .error e
  | .ok s =>
    let h := s.get 0 160
    match headStatus h with
    | some st => .error (.status st, s)
    | none => .ok (s, h)

/-! ### Rows -/

/-- A row: null, the packed offset, code or plain bits as stored, and the decoded value. -/
structure RowVal where
  null : Bool
  raw : Nat
  val : Int
deriving DecidableEq, Repr

/-- Packed value `i` of a region (R75): the stream range that holds it, and reading it. -/
def packedRange (off w i : Nat) : Nat × Nat := (off + i * w / 8, if w = 0 then 0 else (i * w + w - 1) / 8 + 1 - i * w / 8)
def SegRd.packed (s : SegRd) (off w i : Nat) : Nat :=
  let r := packedRange off w i
  bits (ofLE (s.get r.1 r.2)) (i * w % 8 + w - 1) (i * w % 8) * (if w = 0 then 0 else 1)

/-- The run that holds row `i`, from run `j` on, reading and checking the run ends it passes (R78); runs left over after the last row
are found when that row is decoded (log entry 45, DEDUCED). -/
def SegRd.run (d : Dev) (h : SegHead) (i : Nat) : Nat → Nat → SegRd → Except SegErr (SegRd × Nat)
  | 0, _, s => .error (.status 0x0201, s)
  | fuel + 1, j, s =>
    match (if h.runCount ≤ j then (.error (.status 0x0201, s) : Except SegErr SegRd) else SegRd.need d s (h.offsets.1 + 2 * j) 2) with
    | .error e => .error e
    | .ok s =>
      let endOf (k : Nat) : Nat := ofLE (s.get (h.offsets.1 + 2 * k) 2)
      let e := endOf j
      if (0 < j ∧ e ≤ endOf (j - 1)) ∨ h.rows ≤ e ∨ (j + 1 = h.runCount ∧ e + 1 ≠ h.rows) ∨
        (i + 1 = h.rows ∧ e + 1 = h.rows ∧ j + 1 ≠ h.runCount) then .error (.status 0x0201, s)
      else if i ≤ e then .ok (s, j)
      else SegRd.run d h i fuel (j + 1) s

/-- What the offset of row `i` in an RLE segment needs, from run `j` on: the first run end not yet read, else the packed offset of the row's
run (R77, R78). -/
def SegRd.runNeeds (h : SegHead) (s : SegRd) (i : Nat) : Nat → Nat → List (Nat × Nat)
  | 0, _ => []
  | fuel + 1, j =>
    if h.runCount ≤ j then []
    else if !s.has (h.offsets.1 + 2 * j) 2 then [(h.offsets.1 + 2 * j, 2)]
    else if i ≤ ofLE (s.get (h.offsets.1 + 2 * j) 2) then [packedRange h.data.1 h.bitWidth j]
    else SegRd.runNeeds h s i fuel (j + 1)

/-- The stream ranges that row `i` needs, as far as what has been read tells. -/
def SegRd.rowNeeds (h : SegHead) (i : Nat) (s : SegRd) : List (Nat × Nat) :=
  let w := (typeWidth h.ty).getD 0
  (if h.hasNulls then [(h.nulls.1 + i / 8, 1)] else []) ++
  (match h.enc with
   | 0 => [(h.data.1 + i * w, w)]
   | 3 => SegRd.runNeeds h s i (h.runCount + 1) 0
   | _ => [packedRange h.data.1 h.bitWidth i])

/-- The blocks of the NULLS, DATA and OFFSETS regions that no row has needed, in block order (R86, step 4). -/
def SegRd.rest (d : Dev) (h : SegHead) (s : SegRd) : Except SegErr SegRd :=
  (blocksOf [h.nulls, h.data, h.offsets]).foldl (fun acc b => match acc with
    | .ok s => SegRd.load d s b
    | e => e) (.ok s)

/-- Row `i`: its blocks in block order, then, where it is decoded and not null, its value checks (R86). A code is checked against the segment's own
dictionary, whose count the header gives; the count of a shared dictionary is the gallery's to check (log entry 45, DEDUCED). -/
def SegRd.row (d : Dev) (h : SegHead) (decode : Bool) (i : Nat) (s : SegRd) : Except SegErr (SegRd × RowVal) :=
  let nullAt := h.nulls.1 + i / 8
  match SegRd.settle d (SegRd.rowNeeds h i) (h.blocks + 1) s with
  | .error e => .error e
  | .ok s =>
    let null := h.hasNulls && bit (ofLE (s.get nullAt 1)) (i % 8)
    let w := (typeWidth h.ty).getD 0
    let base := domainVal h.ty (slice h 0x28 16)
    let finish (s : SegRd) (raw : Nat) (v : Int) : Except SegErr (SegRd × RowVal) :=
      match (if null || !decode then none else valueStatus h.ty v) with
      | some st => .error (.status st, s)
      | none => .ok (s, { null := null, raw := raw, val := v })
    match h.enc with
    | 0 =>
      match SegRd.need d s (h.data.1 + i * w) w with
      | .error e => .error e
      | .ok s =>
        let raw := ofLE (s.get (h.data.1 + i * w) w)
        finish s raw (if typeSigned h.ty then toSigned (8 * w) raw else (raw : Nat))
    | 3 =>
      match SegRd.run d h i (h.runCount + 1) 0 s with
      | .error e => .error e
      | .ok (s, j) =>
        let r := packedRange h.data.1 h.bitWidth j
        match SegRd.need d s r.1 r.2 with
        | .error e => .error e
        | .ok s =>
          let raw := s.packed h.data.1 h.bitWidth j
          finish s raw (base + raw)
    | e =>
      let r := packedRange h.data.1 h.bitWidth i
      match SegRd.need d s r.1 r.2 with
      | .error e => .error e
      | .ok s =>
        let raw := s.packed h.data.1 h.bitWidth i
        if e = 2 then
          if !null && decode && h.dictId == 0 && decide (h.dictCount ≤ raw) then .error (.status 0x0201, s)
          else .ok (s, { null := null, raw := raw, val := raw })
        else finish s raw (base + raw)

/-- The rows of a list, in order, then every other block of the NULLS, DATA and OFFSETS regions (R86). -/
def SegRd.rows (d : Dev) (h : SegHead) (decode : Bool) (is : List Nat) (s : SegRd) : Except SegErr (SegRd × List RowVal) :=
  let step (acc : Except SegErr (SegRd × List RowVal)) (i : Nat) : Except SegErr (SegRd × List RowVal) :=
    match acc with
    | .error e => .error e
    | .ok (s, vs) =>
      match SegRd.row d h decode i s with
      | .error e => .error e
      | .ok (s, v) => .ok (s, vs ++ [v])
  match is.foldl step (.ok (s, [])) with
  | .error e => .error e
  | .ok (s, vs) =>
    match SegRd.rest d h s with
    | .error e => .error e
    | .ok s => .ok (s, vs)

end Sys2Proof.Machine
end

