-- ==== Sys2Proof/Machine/Filters.lean ====
section
/-!
DEFINITION. FILTER and GATHER parameter blocks (spec/06_scans_and_stack_filters.md): their fields and checks (R166 to R168, R174,
R175), three-valued predicates (R169 to R173), and zone-map refutation (R176).
-/

namespace Sys2Proof.Machine

/-! ### The FILTER block -/

/-- A FILTER block is its bytes. -/
abbrev FilterBlk := Bytes

/-- A clause (R167). -/
structure Clause where
  column : Nat
  or_ : Bool
  not_ : Bool
  first : Nat
  count : Nat
deriving DecidableEq, Repr

/-- A term (R168). -/
structure Term where
  kind : Nat
  code : Bool
  setOff : Nat
  setCount : Nat
  scale : Nat
  len : Nat
  a : Bytes
  b : Bytes
deriving DecidableEq, Repr

namespace FilterBlk
def clauseCount (f : FilterBlk) : Nat := le f 0 1
def groupOr (f : FilterBlk) : Bool := le f 1 1 == 1
def galleryOnly (f : FilterBlk) : Bool := le f 2 1 == 1
def zoneSkip (f : FilterBlk) : Bool := bit (le f 3 1) 0
def termCount (f : FilterBlk) : Nat := le f 4 2
def termsOff (f : FilterBlk) : Nat := le f 8 4
def setsOff (f : FilterBlk) : Nat := le f 0xC 4
def setsBytes (f : FilterBlk) : Nat := le f 0x10 4
/-- The length that the counts give. -/
def length (f : FilterBlk) : Nat := 0x20 + 16 * clauseCount f + 48 * termCount f + setsBytes f
def clause (f : FilterBlk) (n : Nat) : Clause :=
  let o := 0x20 + 16 * n
  { column := le f o 1, or_ := bit (le f (o + 1) 1) 0, not_ := bit (le f (o + 1) 1) 1, first := le f (o + 2) 1, count := le f (o + 3) 1 }
def term (f : FilterBlk) (n : Nat) : Term :=
  let o := termsOff f + 48 * n
  { kind := le f o 1, code := bit (le f (o + 1) 1) 0, setOff := le f (o + 4) 4, setCount := le f (o + 8) 4, scale := le f (o + 0xC) 1,
    len := le f (o + 0xD) 1, a := slice f (o + 0x10) 16, b := slice f (o + 0x20) 16 }
def clauses (f : FilterBlk) : List Clause := (List.range (clauseCount f)).map (clause f)
def terms (f : FilterBlk) : List Term := (List.range (termCount f)).map (term f)
/-- The terms of a clause. -/
def termsOf (f : FilterBlk) (c : Clause) : List Term := (List.range c.count).map (fun k => term f (c.first + k))
end FilterBlk

/-- Bytes of a term's set; zero where it has none. -/
def Term.setBytes (t : Term) : Nat :=
  match t.kind with
  | 0x08 => 16 * t.setCount
  | 0x09 => roundUp ((t.setCount + 7) / 8) 16
  | _ => 0

/-- A term by itself (R168, R169, R175). -/
def Term.ok (t : Term) (setsBytes : Nat) : Bool :=
  decide (1 ≤ t.kind) && decide (t.kind ≤ 0x0B) && decide (t.scale ≤ 38) && decide (t.len ≤ 16) &&
  (match t.kind with
   | 0x08 => decide (1 ≤ t.setCount) && decide (t.setCount ≤ 16) && decide (t.setOff + t.setBytes ≤ setsBytes)
   | 0x09 => t.code && decide (1 ≤ t.setCount) && decide (t.setCount ≤ 65536) && decide (t.setOff + t.setBytes ≤ setsBytes)
   | _ => t.setCount == 0)

/-- Do the clauses cover the terms from `n` on without gap or overlap? -/
def coversTerms (total : Nat) : Nat → List Clause → Bool
  | n, [] => n == total
  | n, c :: cs => c.first == n && decide (1 ≤ c.count) && decide (c.count ≤ 4) && coversTerms total (n + c.count) cs

/-- A FILTER block for a table of `columns` columns (R175). -/
def filterOk (f : FilterBlk) (columns : Nat) : Bool :=
  let n := FilterBlk.clauseCount f
  let cs := FilterBlk.clauses f
  let sets := ((FilterBlk.terms f).filter (fun t => t.setBytes != 0)).map (fun t => (t.setOff, t.setBytes))
  decide (1 ≤ n) && decide (n ≤ 8) && decide (le f 1 1 ≤ 1) && decide (le f 2 1 ≤ 1) && decide (1 ≤ FilterBlk.termCount f) &&
  decide (FilterBlk.termCount f ≤ 32) && FilterBlk.termsOff f == 0x20 + 16 * n &&
  FilterBlk.setsOff f == FilterBlk.termsOff f + 48 * FilterBlk.termCount f && FilterBlk.setsBytes f % 16 == 0 &&
  coversTerms (FilterBlk.termCount f) 0 cs && noPair (fun (a b : Clause) => a.column == b.column) cs &&
  cs.all (fun c => decide (c.column < columns)) && (FilterBlk.terms f).all (fun t => t.ok (FilterBlk.setsBytes f)) &&
  noPair overlap sets

/-! ### The GATHER block (R174) -/

/-- A GATHER block is its bytes. -/
abbrev GatherBlk := Bytes

/-- One entry. -/
structure GatherEntry where
  column : Nat
  slot : Nat
  packed : Bool
  decode : Bool
  scale : Nat
deriving DecidableEq, Repr

namespace GatherBlk
def columnCount (g : GatherBlk) : Nat := le g 0 1
def rowNumbers (g : GatherBlk) : Bool := bit (le g 1 1) 0
def rowSlot (g : GatherBlk) : Nat := le g 2 1
def length (g : GatherBlk) : Nat := 64 + 16 * columnCount g
def entry (g : GatherBlk) (n : Nat) : GatherEntry :=
  let o := 0x40 + 16 * n
  { column := le g o 1, slot := le g (o + 1) 1, packed := le g (o + 2) 1 == 1, decode := le g (o + 3) 1 == 1, scale := le g (o + 4) 1 }
def entries (g : GatherBlk) : List GatherEntry := (List.range (columnCount g)).map (entry g)
end GatherBlk

/-- A GATHER block for a table of `columns` columns (R174, R175). -/
def gatherOk (g : GatherBlk) (columns : Nat) : Bool :=
  let es := GatherBlk.entries g
  decide (1 ≤ GatherBlk.columnCount g) && decide (GatherBlk.columnCount g ≤ 8) &&
  (List.range es.length).all (fun n => decide (le g (0x42 + 16 * n) 1 ≤ 1) && decide (le g (0x43 + 16 * n) 1 ≤ 1)) &&
  es.all (fun e => decide (e.column < columns) && decide (e.slot ≤ 63) && decide (e.scale ≤ 38)) &&
  noPair (fun (a b : GatherEntry) => a.slot == b.slot) es &&
  (!GatherBlk.rowNumbers g || (decide (GatherBlk.rowSlot g ≤ 63) && !es.any (fun e => e.slot == GatherBlk.rowSlot g)))

/-! ### Three-valued predicates (R169 to R172) -/

/-- TRUE, FALSE, UNKNOWN. -/
inductive Tri where
  | t | f | u
deriving DecidableEq, Repr

def triOf (b : Bool) : Tri := if b then .t else .f

/-- AND and OR of a list, and NOT. -/
def triAnd (xs : List Tri) : Tri := if xs.contains .f then .f else if xs.contains .u then .u else .t
def triOr (xs : List Tri) : Tri := if xs.contains .t then .t else if xs.contains .u then .u else .f
def triNot : Tri → Tri
  | .t => .f
  | .f => .t
  | .u => .u

/-- Compare a value at scale `sx` with a constant at scale `sc` exactly (R90, R170): both brought to one scale. -/
def scaled (x : Int) (sx sc : Nat) : Int := x * 10 ^ (max sx sc - sx)

/-- A constant of a term in its domain: a code, or a value of the column's type (R170, R171). -/
def Term.const (t : Term) (h : SegHead) (bs : Bytes) : Int :=
  if t.code then (ofLE bs : Nat) else domainVal h.ty bs

/-- The scale of a term's constants, and of the segment's values. -/
def Term.cscale (t : Term) (h : SegHead) : Nat := if !t.code && h.ty == tyDec then t.scale else 0
def Term.xscale (t : Term) (h : SegHead) : Nat := if !t.code && h.ty == tyDec then h.scale else 0

/-- Entries of an IN_LIST set. -/
def Term.members (t : Term) (sets : Bytes) : List Bytes := (List.range t.setCount).map (fun k => slice sets (t.setOff + 16 * k) 16)

/-- Is code `n` in the bitmap of an IN_CODES set (R171)? -/
def Term.inCodes (t : Term) (sets : Bytes) (n : Nat) : Bool := decide (n < t.setCount) && bit (le sets (t.setOff + n / 8) 1) (n % 8)

/-- A term on a row. -/
def Term.eval (t : Term) (h : SegHead) (sets : Bytes) (r : RowVal) : Tri :=
  match t.kind with
  | 0x0A => triOf r.null
  | 0x0B => triOf (!r.null)
  | k =>
    if r.null then .u
    else
      let sc := t.cscale h
      let sx := t.xscale h
      let x : Int := scaled (if t.code then (r.raw : Int) else r.val) sx sc
      let c (bs : Bytes) : Int := scaled (t.const h bs) sc sx
      triOf (match k with
        | 0x01 => decide (x = c t.a)
        | 0x02 => decide (x ≠ c t.a)
        | 0x03 => decide (x < c t.a)
        | 0x04 => decide (x ≤ c t.a)
        | 0x05 => decide (c t.a < x)
        | 0x06 => decide (c t.a ≤ x)
        | 0x07 => decide (c t.a ≤ x) && decide (x ≤ c t.b)
        | 0x08 => (t.members sets).any (fun m => decide (c m = x))
        | _ => t.inCodes sets r.raw)

/-- A clause on a row of its segment. -/
def clauseEval (f : FilterBlk) (c : Clause) (h : SegHead) (r : RowVal) : Tri :=
  let sets := f.drop (FilterBlk.setsOff f)
  let ts := (FilterBlk.termsOf f c).map (fun t => t.eval h sets r)
  let v := if c.or_ then triOr ts else triAnd ts
  if c.not_ then triNot v else v

/-- Does a row qualify, given its clauses' values (R172)? -/
def groupEval (f : FilterBlk) (vs : List Tri) : Bool := (if FilterBlk.groupOr f then triOr vs else triAnd vs) == .t

/-! ### Zone maps (R176) -/

/-- Does a term's kind and domain let a zone map in values or codes refute it? A value-domain term on a DICT segment is refuted by
NULL_COUNT only. A VARSTR constant counts as its 16-byte prefix, padded with zeros, and prefixes compare as bytes do. -/
def Term.usesZone (t : Term) (h : SegHead) : Bool := t.code || h.enc != 2

/-- Is a term refuted for a segment? -/
def Term.refuted (t : Term) (h : SegHead) (sets : Bytes) : Bool :=
  let allNull := h.nullCount == h.rows
  match t.kind with
  | 0x0A => h.nullCount == 0
  | 0x0B => allNull
  | k =>
    if allNull then true
    else if !t.usesZone h then false
    else
      let sc := t.cscale h
      let sx := t.xscale h
      let str := h.ty == tyStr && !t.code
      let zone (o : Nat) : Int :=
        let bs := slice h o 16
        if str then (ofBE bs : Nat) else scaled (if h.enc = 2 then (ofLE bs : Nat) else domainVal h.ty bs) sx sc
      let lo := zone 0x40
      let hi := zone 0x50
      let c (bs : Bytes) : Int := if str then (ofBE (padTo 16 (bs.take t.len)) : Nat) else scaled (t.const h bs) sc sx
      let inside (v : Int) : Bool := decide (lo ≤ v) && decide (v ≤ hi)
      match k with
      | 0x01 => !inside (c t.a)
      | 0x03 => decide (c t.a ≤ lo)
      | 0x04 => decide (c t.a < lo)
      | 0x05 => decide (hi ≤ c t.a)
      | 0x06 => decide (hi < c t.a)
      | 0x07 => decide (c t.b < lo) || decide (hi < c t.a) || decide (c t.b < c t.a)
      | 0x08 => !(t.members sets).any (fun m => inside (c m))
      | 0x09 => !((List.range t.setCount).any (fun n => t.inCodes sets n && inside n))
      | _ => false

/-- Is a clause refuted by its segment's zone map? -/
def clauseRefuted (f : FilterBlk) (c : Clause) (h : SegHead) : Bool :=
  let sets := f.drop (FilterBlk.setsOff f)
  let rs := (FilterBlk.termsOf f c).map (fun t => t.refuted h sets)
  h.zoneValid && !c.not_ && (if c.or_ then rs.all id else rs.any id)

/-- Is a row group skipped, given its clauses' headers? -/
def groupSkipped (f : FilterBlk) (hs : List SegHead) : Bool :=
  let rs := (FilterBlk.clauses f).zip hs |>.map (fun e => clauseRefuted f e.1 e.2)
  FilterBlk.zoneSkip f && (if FilterBlk.groupOr f then rs.all id else rs.any id)

end Sys2Proof.Machine
end

