-- ==== Sys2Proof/Machine/Sfl.lean ====
section
/-!
DEFINITION. Stack filters (spec/06_scans_and_stack_filters.md): SUBMIT, GET and ABORT, the start and its checks, the evaluation of one
row group with its records, the result ring, completion, write errors and the fence.
-/

namespace Sys2Proof.Machine

/-! ### A descriptor's fields (R178) -/

namespace SflDesc
def output (x : SflDesc) : Nat := le x.bytes 1 1
def event (x : SflDesc) : Bool := bit (le x.bytes 2 2) 0
def rowNumbers (x : SflDesc) : Bool := bit (le x.bytes 2 2) 1
def tag (x : SflDesc) : Nat := le x.bytes 4 2
def columns (x : SflDesc) : Nat := le x.bytes 6 1
def rgFirst (x : SflDesc) : Nat := le x.bytes 8 4
def rgCount (x : SflDesc) : Nat := le x.bytes 0xC 2
def rgStride (x : SflDesc) : Nat := le x.bytes 0xE 2
def segmap (x : SflDesc) : Nat := le x.bytes 0x10 8
def filterAddr (x : SflDesc) : Nat := le x.bytes 0x18 8
def filterBytes (x : SflDesc) : Nat := le x.bytes 0x20 4
def gatherBytes (x : SflDesc) : Nat := le x.bytes 0x24 4
def gatherAddr (x : SflDesc) : Nat := le x.bytes 0x28 8
def ringAddr (x : SflDesc) : Nat := le x.bytes 0x30 8
def ringBytes (x : SflDesc) : Nat := 2 ^ le x.bytes 0x38 1
def putAddr (x : SflDesc) : Nat := le x.bytes 0x40 8
def complAddr (x : SflDesc) : Nat := le x.bytes 0x48 8
/-- Row group k of the descriptor. -/
def rowGroup (x : SflDesc) (k : Nat) : Nat := x.rgFirst + k * x.rgStride
/-- Is it the descriptor of that gallery and TAG? -/
def is (p tag : Nat) (x : SflDesc) : Bool := x.gal == p && x.tag == tag
end SflDesc

/-- A filter. -/
def Dev.filter (d : Dev) (s : Nat) : Sfl := look d.sfl s {}
def Dev.setFilter (d : Dev) (s : Nat) (x : Sfl) : Dev := { d with sfl := put d.sfl s x }

/-- Who a filter's accesses are made for (R506: SOURCE 1). -/
def SflDesc.who (s : Nat) (x : SflDesc) : Who :=
  { source := 1, unit := s, run := x.run, task := x.task, job := x.gal * 65536 + x.tag }

/-- Is filter `s` fenced? -/
def Dev.sflFenced (d : Dev) (s : Nat) : Bool := d.isFenced Blk.sfl s

/-! ### Completion (R186) -/

/-- The completion record. -/
def SflDesc.record (x : SflDesc) (status : Nat) : Bytes :=
  toLE 2 status ++ toLE 2 1 ++ toLE 2 x.tag ++ toLE 2 0 ++ toLE 2 x.next ++ toLE 2 x.skipped ++ toLE 2 x.redirect ++ toLE 2 0 ++
    toLE 8 x.read ++ toLE 8 (x.shipped + 32)

/-- A descriptor has completed: its event, once the record's write has its response, and the counter. -/
def Dev.sflDone (d : Dev) (s : Nat) (x : SflDesc) : Dev :=
  let d := if x.event then d.raiseDirected (1104 + s) ((d.logicalOf x.gal).getD 0) else d
  d.count (R.sflCntDesc s)

/-- SFL_FAULT for a descriptor that ends with a failure (R194). -/
def Dev.sflFaultReg (d : Dev) (s : Nat) (x : SflDesc) (status : Nat) : Dev :=
  if status < 0x100 then d
  else d.setReg (R.sflFault s)
    (BitVec.ofNat 64 (status <<< 48 + x.inst <<< 40 + ((d.logicalOf x.gal).getD 0) <<< 32 + x.rowGroup x.next))

/-- Complete a descriptor that has been taken off the filter's lists: its record, and its end once the record has its response. An error
response to the record leaves it without an event (R191); `some` while the response is awaited. -/
def Dev.sflComplete (d : Dev) (c : CoreSt) (s : Nat) (x : SflDesc) (status : Nat) : Dev × Option SflDesc :=
  let w := x.who s
  let d := d.sflFaultReg s x status
  match d.writeInst c w x.inst x.complAddr (x.record status) with
  | (d, some f) => (d.recordFail c w x.inst true f, none)
  | (d, none) =>
    let d := d.count (R.sflCntShip s) 32
    if d.awaits w then (d, some { x with ended := some status, recorded := true }) else (d.sflDone s x, none)

/-- Put a descriptor that has been served at the end of the rotation. -/
def Dev.sflBack (d : Dev) (s : Nat) (x : Option SflDesc) : Dev :=
  match x with
  | some x => let u := d.filter s; d.setFilter s { u with flight := u.flight ++ [x] }
  | none => d

/-! ### Shipping (R185, R191) -/

/-- A PAD record that fills `room` bytes (R185). -/
def padRecord (room : Nat) : Bytes := padTo room (toLE 1 3 ++ toLE 3 0 ++ toLE 4 room)

/-- Write the records that wait, as far as the ring has room (R185), each followed by PUT once its write responses have arrived. What is left, or
the failed access. -/
def Dev.sflWrite (d : Dev) (c : CoreSt) (s : Nat) (x : SflDesc) : Nat → Dev × SflDesc × Option AccFail
  | 0 => (d, x, none)
  | fuel + 1 =>
    let w := x.who s
    if d.awaits w then (d, x, none)
    else if x.shown ≠ x.put then
      match d.writeInst c w x.inst x.putAddr (toLE 8 x.put) with
      | (d, some f) => (d, x, some f)
      | (d, none) => (d.count (R.sflCntShip s) 8).sflWrite c s { x with shown := x.put, shipped := x.shipped + 8 } fuel
    else
      match x.out with
      | [] => (d, x, none)
      | r :: rest =>
        let pos := x.put % x.ringBytes
        let room := x.ringBytes - pos
        let rec_ := if r.length ≤ room then r else padRecord room
        let left := if r.length ≤ room then rest else r :: rest
        if x.consumed + x.ringBytes < x.put + rec_.length then (d, x, none)
        else
          match d.writeInst c w x.inst (x.ringAddr + pos) rec_ with
          | (d, some f) => (d, x, some f)
          | (d, none) =>
            (d.count (R.sflCntShip s) rec_.length).sflWrite c s
              { x with put := x.put + rec_.length, out := left, shipped := x.shipped + rec_.length } fuel

/-- The row group whose records are all written, and whose last PUT has its response, is finished (R186, R194). -/
def Dev.sflFinish (d : Dev) (s : Nat) (x : SflDesc) : Dev × SflDesc :=
  match x.cur with
  | none => (d, x)
  | some k =>
    let x := { x with cur := none, head := [], next := x.next + 1, skipped := x.skipped + b2n (k == 1), redirect := x.redirect + b2n (k == 2) }
    (d.count (if k = 0 then R.sflCntRg s else if k = 1 then R.sflCntSkip s else R.sflCntRedirect s),
      if x.rgCount ≤ x.next then { x with ended := some x.status } else x)

/-- Ship what a descriptor in flight has waiting. An error response to a write ends it at once, without a record (R191). -/
def Dev.sflShip (d : Dev) (c : CoreSt) (s : Nat) (x : SflDesc) : Dev × Option SflDesc :=
  match d.sflWrite c s x (4 * x.out.length + 2) with
  | (d, x, some f) => (d.recordFail c (x.who s) x.inst true f, none)
  | (d, x, none) =>
    if x.out.isEmpty && x.shown == x.put && !d.awaits (x.who s) then
      let (d, x) := d.sflFinish s x
      (d, some x)
    else (d, some x)

/-! ### The ports (R179, R180, R190) -/

/-- SUBMIT: the filter fetches the descriptor; with all 64 places taken it writes a BUSY_RETRY record. True: an error response. -/
def Dev.sflSubmit (d : Dev) (c : CoreSt) (s p v : Nat) : Dev × Bool :=
  if !localOk v 128 128 then (d, true)
  else
    let w := d.galleryWho p
    let x : SflDesc := { gal := p, inst := fld (d.core p).task 63 56, run := w.run, task := w.task, bytes := d.localRead p v 128 }
    let u := d.filter s
    if 64 ≤ u.flight.length + u.waiting.length then
      let wh := { x.who s with job := 0 }
      let d := match d.writeInst c wh x.inst x.complAddr (x.record 0x0500) with
        | (d, none) => d
        | (d, some f) => d.recordFail c wh x.inst true f
      (d.count (R.sflCntBusy s), false)
    else (d.setFilter s { u with waiting := u.waiting ++ [x] }, false)

/-- Take the descriptor of a gallery and TAG that is in flight off a filter. -/
def Dev.sflTake (d : Dev) (s p tag : Nat) : Dev :=
  let u := d.filter s
  d.setFilter s { u with flight := updFirst (SflDesc.is p tag) (fun _ => none) u.flight }

/-- Put a descriptor back in its place in the rotation, or take it off. -/
def Dev.sflPut (d : Dev) (s p tag : Nat) (x : Option SflDesc) : Dev :=
  let u := d.filter s
  d.setFilter s { u with flight := updFirst (SflDesc.is p tag) (fun _ => x) u.flight }

/-- GET: frees ring space, and the filter writes on. The total is taken modulo 2^48 (R179). -/
def Dev.sflGet (d : Dev) (c : CoreSt) (s p v : Nat) : Dev :=
  let tag := bits v 63 48
  match (d.filter s).flight.find? (SflDesc.is p tag) with
  | none => d
  | some x =>
    let (d, y) := d.sflShip c s { x with consumed := min x.put (x.consumed + (bits v 47 0 + 2 ^ 48 - x.consumed % 2 ^ 48) % 2 ^ 48) }
    d.sflPut s p tag y

/-- A descriptor that has ended: what it still has to write, then its record (R186). -/
def Dev.sflEnd (d : Dev) (c : CoreSt) (s : Nat) (x : SflDesc) (status : Nat) : Dev × Option SflDesc :=
  match d.sflShip c s { x with out := [], cur := none, ended := some status } with
  | (d, none) => (d, none)
  | (d, some x) => if x.shown = x.put ∧ d.awaits (x.who s) = false then d.sflComplete c s x status else (d, some x)

/-- ABORT: after the final PUT's response the descriptor completes OK_ABORT_LATE; else it stops at the record boundary and completes ABORTED, with
the row groups not finished as its residue (R190). One whose record is written stands. -/
def Dev.sflAbort (d : Dev) (c : CoreSt) (s p v : Nat) : Dev :=
  let tag := bits v 15 0
  let u := d.filter s
  match u.flight.find? (SflDesc.is p tag), u.waiting.find? (SflDesc.is p tag) with
  | some x, _ =>
    if x.recorded then d
    else
      let st := match x.ended with
        | some e => if e < 0x100 ∧ d.awaits (x.who s) = false then 0x0002 else if e < 0x100 then 0x0100 else e
        | none => 0x0100
      let (d, y) := d.sflEnd c s x st
      d.sflPut s p tag y
  | none, some x =>
    let (d, y) := (d.setFilter s { u with waiting := updFirst (SflDesc.is p tag) (fun _ => none) u.waiting }).sflComplete c s x 0x0100
    d.sflBack s y
  | none, none => d

/-! ### The start (R181) -/

/-- What the filter finds of a block that a descriptor names: the block, none where it names none, or the status of the failed read. -/
def Dev.sflBlock (d : Dev) (s : Nat) (x : SflDesc) (named : Bool) (a n : Nat) : Except (Nat × Option AccFail) (Option Bytes) :=
  if !named then .ok none
  else match d.readInst (x.who s) x.inst a n with
    | .error f => .error (f.status, some f)
    | .ok (_, true) => .error (0x0401, none)
    | .ok (bs, false) => .ok (some bs)
def Dev.sflFilter (d : Dev) (s : Nat) (x : SflDesc) : Except (Nat × Option AccFail) (Option FilterBlk) :=
  d.sflBlock s x (x.filterAddr != 0) x.filterAddr x.filterBytes
def Dev.sflGather (d : Dev) (s : Nat) (x : SflDesc) : Except (Nat × Option AccFail) (Option GatherBlk) :=
  d.sflBlock s x (x.output == 1) x.gatherAddr x.gatherBytes

/-- The instance address of the segment of row group `r`, column `col` (R115). -/
def Dev.segAddr (d : Dev) (w : Who) (i segmap columns r col : Nat) : Except AccFail Nat :=
  match d.readInst w i (segmap + 8 * (r * columns + col)) 8 with
  | .error f => .error f
  | .ok (bs, _) => .ok (ofLE bs)

/-- The bits a shipped value of a gathered column takes (R184). -/
def shipBits (e : GatherEntry) (h : SegHead) : Nat :=
  let w := 8 * (typeWidth h.ty).getD 0
  if h.enc = 2 then
    if e.packed then h.bitWidth else if h.bitWidth ≤ 8 then 8 else if h.bitWidth ≤ 16 then 16 else 32
  else if e.packed && (h.enc == 1 || h.enc == 3) then h.bitWidth else w

/-- Bytes of the largest SLICE record of an output, given the gathered columns' headers. -/
def maxSlice (output : Nat) (rowNumbers : Bool) (cols : List (GatherEntry × SegHead)) : Nat :=
  32 + (match output with
    | 0 => 1024
    | 1 => (if rowNumbers then 16384 else 0) +
        total (cols.map (fun e => (if e.2.hasNulls then 1024 else 0) + roundUp (packedBytes 8192 (shipBits e.1 e.2)) 16))
    | _ => 0)

/-- Headers of a row group's gathered segments, as far as they can be read (R181: log entry 33). -/
def Dev.gatherHeads (d : Dev) (s : Nat) (x : SflDesc) (g : GatherBlk) (r : Nat) : List (GatherEntry × SegHead) :=
  (GatherBlk.entries g).filterMap (fun e =>
    match d.segAddr (x.who s) x.inst x.segmap x.columns r e.column with
    | .error _ => none
    | .ok a =>
      match d.readInst (x.who s) x.inst a 160 with
      | .ok (h, _) => some (e, h)
      | .error _ => none)

/-- The checks of R181, in order: the status, with the failed access to record. -/
def Dev.sflCheck (d : Dev) (s : Nat) (x : SflDesc) (inFlight : List SflDesc) : Option (Nat × Option AccFail) :=
  let w := x.who s
  let last := x.rowGroup (x.rgCount - 1)
  let mapEnd := x.segmap + 8 * (last + 1) * x.columns
  let mapStart := x.segmap + 8 * x.rgFirst * x.columns
  if !(le x.bytes 0 1 == 1 && decide (x.output ≤ 2) && decide (1 ≤ x.columns) && decide (x.columns ≤ 64) &&
      decide (1 ≤ x.rgCount) && decide (x.rgCount ≤ 4096) && decide (1 ≤ x.rgStride) && decide (12 ≤ le x.bytes 0x38 1) &&
      decide (le x.bytes 0x38 1 ≤ 20) && x.ringAddr % x.ringBytes == 0 && (x.output == 1 || x.gatherBytes == 0) &&
      !inFlight.any (SflDesc.is x.gal x.tag)) then some (0x0201, none)
  else match [(mapStart, mapEnd - mapStart, false), (x.filterAddr, if x.filterAddr = 0 then 0 else x.filterBytes, false),
      (x.gatherAddr, x.gatherBytes, false), (x.ringAddr, x.ringBytes, true), (x.putAddr, 8, true), (x.complAddr, 32, true)].findSome?
      (fun (a : Nat × Nat × Bool) => d.checkInst w x.inst a.1 a.2.1 a.2.2) with
  | some f => some (f.status, some f)
  | none =>
    match d.sflFilter s x, d.sflGather s x with
    | .error f, _ => some f
    | _, .error f => some f
    | .ok fb, .ok gb =>
      let shortF := match fb with | some f => decide (f.length < 32) || decide (f.length < FilterBlk.length f) | none => false
      let shortG := match gb with | some g => decide (g.length < 64) || decide (g.length < GatherBlk.length g) | none => false
      if shortF || shortG then some (0x0200, none)
      else if (match fb with | some f => !filterOk f x.columns | none => false) ||
          (match gb with | some g => !gatherOk g x.columns | none => false) then some (0x0201, none)
      else
        let cols := match gb with | some g => d.gatherHeads s x g x.rgFirst | none => []
        if x.ringBytes < 2 * maxSlice x.output x.rowNumbers cols then some (0x0201, none) else none

/-- Is a block longer than its counts give (R181)? -/
def Dev.sflTruncated (d : Dev) (s : Nat) (x : SflDesc) : Bool :=
  (match d.sflFilter s x with | .ok (some f) => decide (FilterBlk.length f < x.filterBytes) | _ => false) ||
  (match d.sflGather s x with | .ok (some g) => decide (GatherBlk.length g < x.gatherBytes) | _ => false)

/-- A descriptor with the blocks that it fetches at its start; one that R192 redirects starts without a check. -/
def Dev.sflFetched (d : Dev) (s : Nat) (x : SflDesc) : SflDesc :=
  let got (r : Except (Nat × Option AccFail) (Option Bytes)) : Option Bytes := match r with | .ok b => b | .error _ => none
  { x with
    filter := got (d.sflFilter s x), gather := got (d.sflGather s x)
    status := if !x.off && d.sflTruncated s x then 1 else 0 }

/-- The memory requests of a filter's reads: instance address and bytes of each (R164). -/
def Dev.sflRequests (d : Dev) (c : CoreSt) (s : Nat) (x : SflDesc) (rs : List (Nat × Nat)) : Dev :=
  each rs (fun r d => d.requests c (x.who s) x.inst r.1 r.2 false) d

/-- The reads of a start: the two blocks, and the first row group's segment map entries and headers that the ring check looks at. -/
def Dev.sflStartReads (d : Dev) (s : Nat) (x : SflDesc) : List (Nat × Nat) :=
  let cols := match d.sflGather s x with | .ok (some g) => (GatherBlk.entries g).map (fun (e : GatherEntry) => e.column) | _ => []
  (if x.filterAddr = 0 then [] else [(x.filterAddr, x.filterBytes)]) ++ (if x.output = 1 then [(x.gatherAddr, x.gatherBytes)] else []) ++
    cols.flatMap (fun col =>
      (x.segmap + 8 * (x.rgFirst * x.columns + col), 8) ::
        (match d.segAddr (x.who s) x.inst x.segmap x.columns x.rgFirst col with | .ok a => [(a, 160)] | .error _ => []))

/-- Start the first descriptor that waits, where one more may be in flight (R180). -/
def Dev.sflStart (d : Dev) (c : CoreSt) (s : Nat) : Dev :=
  let u := d.filter s
  match u.waiting with
  | [] => d
  | x :: rest =>
    if max 1 (d.getF (R.sflCtrl s) 12 8) ≤ u.flight.length then d
    else
      let reads := d.sflStartReads s x
      match (if x.off then none else d.sflCheck s x u.flight) with
      | some (st, f) =>
        let d := (d.setFilter s { u with waiting := rest }).sflRequests c s x reads
        let d := match f with
          | some f => d.recordFail c (x.who s) x.inst false f
          | none => d
        let (d, y) := d.sflComplete c s x st
        d.sflBack s y
      | none =>
        ((d.setFilter s { flight := u.flight ++ [d.sflFetched s x], waiting := rest }).sflRequests c s x reads).ackLost (x.who s)

/-! ### Records (R184) -/

/-- A record with its 32-byte header; `rows` and `qualify` as the header gives them. -/
def ringRecord (ty flags firstRow rows qualify rg nulls slice_ : Nat) (payload : Bytes) : Bytes :=
  toLE 1 ty ++ toLE 1 flags ++ toLE 2 0 ++ toLE 4 (32 + payload.length) ++ toLE 8 firstRow ++ toLE 4 rows ++ toLE 4 qualify ++
    toLE 4 rg ++ toLE 1 nulls ++ toLE 1 slice_ ++ toLE 2 0 ++ payload

/-- Pad to 16 bytes. -/
def pad16 (bs : Bytes) : Bytes := padTo (roundUp bs.length 16) bs

/-- Values packed `w` bits wide. -/
def packAll (w : Nat) (vs : List Nat) : Bytes :=
  toLE (packedBytes vs.length w) (vs.foldr (fun v acc => v % 2 ^ w + acc * 2 ^ w) 0)

/-- The 16-byte entries of a ROWGROUP record of OUTPUT GATHER (R184): FOR_BASE of a PACKED FOR or RLE column, else zero; of a PACKED column whose
header the filter has not read, free (log entry 1). -/
def Dev.gatherParts (d : Dev) : List (GatherEntry × Option SegHead) → Bytes × Dev
  | [] => ([], d)
  | (e, h) :: rest =>
    let (b, d) := match h with
      | some h => (if e.packed && (h.enc == 1 || h.enc == 3) then slice h 0x28 16 else List.replicate 16 0, d)
      | none => if e.packed then d.drawBytes 16 else (List.replicate 16 0, d)
    let (bs, d) := d.gatherParts rest
    (b ++ bs, d)

/-- The gathered columns of a descriptor, with the headers read. -/
def SflDesc.columnHeads (x : SflDesc) (hs : List SegHead) : List (GatherEntry × Option SegHead) :=
  match x.gather with
  | some g => (List.range (GatherBlk.entries g).length).filterMap (fun k => ((GatherBlk.entries g)[k]?).map (fun e => (e, hs[k]?)))
  | none => []

/-- A ROWGROUP record of a row group that is not evaluated: FLAGS, the header where one has been read, and the gathered columns' headers read.
FIRST_ROW and ROWS are free where no header has been read (log entry 1). -/
def Dev.rowGroupRecord (d : Dev) (x : SflDesc) (flags rg : Nat) (h : Option SegHead) (gs : List SegHead) : Dev × Bytes :=
  let (parts, d) := d.gatherParts (x.columnHeads gs)
  match h with
  | some h => (d, ringRecord 1 flags h.firstRow h.rows 0 rg 0 0 parts)
  | none =>
    let (a, d) := d.draw
    let (b, d) := d.draw
    (d, ringRecord 1 flags a.toNat (b.toNat % 2 ^ 32) 0 rg 0 0 parts)

/-- A gathered column of a slice: the null bitmap where the segment has nulls, then the values of the qualifying rows. -/
def shipColumn (e : GatherEntry) (h : SegHead) (rs : List RowVal) : Bytes :=
  let w := shipBits e h
  let raw := h.enc == 2 || h.enc == 0 || (e.packed && (h.enc == 1 || h.enc == 3))
  (if h.hasNulls then pad16 (packAll 1 (rs.map (fun r => b2n r.null))) else []) ++
    pad16 (packAll w (rs.map (fun r => if raw then r.raw else ofSigned w r.val)))

/-- One SLICE record: the slice's rows by index, whether each qualifies, and the gathered columns' values of the qualifying ones. -/
def sliceRecord (output : Nat) (rowNumbers : Bool) (firstRow rg sl : Nat) (quals : List Bool)
    (cols : List (GatherEntry × SegHead × List RowVal)) : Bytes :=
  let hits := (List.range quals.length).filter (fun i => quals.getD i false)
  let nulls := total ((List.range cols.length).map (fun k => match cols[k]? with
    | some (_, h, _) => (b2n h.hasNulls) <<< k
    | none => 0))
  let payload : Bytes := match output with
    | 0 => pad16 (packAll 1 (quals.map b2n))
    | 1 => (if rowNumbers then pad16 (hits.flatMap (fun i => toLE 2 (8192 * sl + i))) else []) ++
        cols.flatMap (fun e => shipColumn e.1 e.2.1 e.2.2)
    | _ => []
  ringRecord 2 0 (firstRow + 8192 * sl) quals.length hits.length rg (if output = 1 then nulls else 0) sl payload

/-! ### One row group (R182 to R188) -/

/-- The archive stack whose pseudo-channels alone carry the set that holds a device physical address (R89). -/
def Dev.stackOf (d : Dev) (i va tlb : Nat) : Option Nat :=
  match d.translate i va tlb false with
  | .dev pa =>
    (List.range 16).findSome? (fun n =>
      let m := d.memSet n
      if m.enable && m.role == 0 && decide (m.base ≤ pa) && decide (pa < m.base + m.size) && !m.annex &&
          m.first / 64 == (m.first + m.count - 1) / 64 then some (m.first / 64) else none)
  | _ => none

/-- Does a clause segment's encoding let the filter evaluate it (R182)? -/
def clauseInPlace (f : FilterBlk) (c : Clause) (h : SegHead) : Bool :=
  match h.enc with
  | 0 => h.ty != tyStr
  | 1 => true
  | 3 => true
  | 2 => (FilterBlk.termsOf f c).all (fun t => t.code)
  | _ => false

/-- Does a gathered segment's? -/
def gatherInPlace (h : SegHead) : Bool := (h.enc == 0 && h.ty != tyStr) || h.enc == 1 || h.enc == 2 || h.enc == 3

/-- What evaluating a row group ends in: skipped, with its header; redirected, with the headers read; its records; or the descriptor's end. -/
inductive RgRes where
  | skipped (h : SegHead)
  | redirected (discard : Bool) (h : Option SegHead) (gs : List SegHead)
  | done (h : SegHead) (rs : List Bytes)
  | fail (status : Nat) (f : Option AccFail)

/-- A segment opened for reading. -/
structure OpenSeg where
  rd : SegRd
  head : SegHead

/-- Open segments in order, reading block 0 of each and applying R84 across them. A failure comes with what has been read. -/
def openSegs (d : Dev) (w : Who) (i : Nat) (first : Option SegHead) (seen : List SegRd) : List Nat → Except (SegFail × List SegRd) (List OpenSeg)
  | [] => .ok []
  | a :: rest =>
    match SegRd.header d { who := w, inst := i, base := a } with
    | .error e => .error (e.1, seen ++ [e.2])
    | .ok (rd, h) =>
      if (match first with | some h0 => h0.rows != h.rows || h0.firstRow != h.firstRow | none => false) then .error (.status 0x0201, seen ++ [rd])
      else (openSegs d w i (some (first.getD h)) (seen ++ [rd]) rest).map (fun os => { rd := rd, head := h } :: os)

/-- The failure of a segment read, as the row group's result: a mirrored block sends the row group to the gallery path (R188). -/
def SegFail.result (h : Option SegHead) (gs : List SegHead) : SegFail → RgRes
  | .status n => .fail n none
  | .access f => .fail f.status (some f)
  | .mirrored => .redirected true h gs

/-- Read rows of segments in order; blocks read are counted in the segments given back, and with a failure. -/
def readRows (d : Dev) (rows : List Nat) (done : List (OpenSeg × List RowVal)) :
    List (OpenSeg × Bool) → Except (SegFail × List SegRd) (List (OpenSeg × List RowVal))
  | [] => .ok done
  | x :: rest =>
    match SegRd.rows d x.1.head x.2 rows x.1.rd with
    | .error e => .error (e.1, done.map (fun y => y.1.rd) ++ e.2 :: rest.map (fun y => y.1.rd))
    | .ok (rd, vs) => readRows d rows (done ++ [({ x.1 with rd := rd }, vs)]) rest

/-- Addresses of a row group's segments. -/
def Dev.segAddrs (d : Dev) (s : Nat) (x : SflDesc) (r : Nat) (cols : List Nat) : Except AccFail (List Nat) :=
  cols.foldl (fun acc col => match acc with
    | .error f => .error f
    | .ok xs => (d.segAddr (x.who s) x.inst x.segmap x.columns r col).map (fun a => xs ++ [a])) (.ok [])

/-- The rows of a row group that qualify, from its clauses' segments. -/
def qualRows (f : Option FilterBlk) (rows : Nat) (cs : List (OpenSeg × List RowVal)) : List Bool :=
  match f with
  | none => List.replicate rows true
  | some f =>
    (List.range rows).map (fun i =>
      groupEval f (((FilterBlk.clauses f).zip cs).map (fun e =>
        clauseEval f e.1 e.2.1.head (e.2.2.getD i { null := true, raw := 0, val := 0 }))))

/-- The records of an evaluated row group: ROWGROUP, then one SLICE for each 8,192 rows. -/
def rowGroupRecords (x : SflDesc) (rg : Nat) (h : SegHead) (quals : List Bool) (cols : List (GatherEntry × SegHead × List RowVal)) :
    List Bytes :=
  let heads := cols.flatMap (fun e => if e.1.packed && (e.2.1.enc == 1 || e.2.1.enc == 3) then slice e.2.1 0x28 16 else List.replicate 16 0)
  let first := ringRecord 1 0 h.firstRow h.rows 0 rg 0 0 (if x.output = 1 then heads else [])
  let slices := (List.range (ceilDiv h.rows 8192)).map (fun sl =>
    let qs := (quals.drop (8192 * sl)).take 8192
    let before := ((quals.take (8192 * sl)).filter id).length
    let n := (qs.filter id).length
    sliceRecord x.output x.rowNumbers h.firstRow rg sl qs (cols.map (fun e => (e.1, e.2.1, (e.2.2.drop before).take n))))
  first :: slices

/-- The blocks that segments have had read: their instance addresses. -/
def SegRd.blocksRead (s : SegRd) : List Nat := (keys s.pay).map (fun b => s.base + 4096 * b)

/-- Evaluate row group `rg` for a descriptor on its clause and gathered segments at `addrs`: the result, and the blocks read. -/
def Dev.sflScan (d : Dev) (s : Nat) (x : SflDesc) (rg : Nat) (addrs : List Nat) : RgRes × List Nat :=
  let w := x.who s
  let clauses : List Clause := match x.filter with | some f => FilterBlk.clauses f | none => []
  let entries : List GatherEntry := match x.gather with | some g => GatherBlk.entries g | none => []
  let fb := x.filter.getD []
  let blocks (rs : List SegRd) : List Nat := rs.flatMap SegRd.blocksRead
  let rds (os : List OpenSeg) : List SegRd := os.map (fun o => o.rd)
  let heads (os : List OpenSeg) : List SegHead := os.map (fun o => o.head)
  match openSegs d w x.inst none [] (addrs.take clauses.length) with
  | .error e => (e.1.result none [], blocks e.2)
  | .ok cs =>
    let h0 := (heads cs).head?
    let badCode := (clauses.zip cs).any (fun (e : Clause × OpenSeg) => e.2.head.enc != 2 && (FilterBlk.termsOf fb e.1).any (fun t => t.code))
    if badCode then (.fail 0x0201 none, blocks (rds cs))
    else if !((clauses.zip cs).all (fun (e : Clause × OpenSeg) => clauseInPlace fb e.1 e.2.head)) then (.redirected false h0 [], blocks (rds cs))
    else if (match x.filter with | some f => groupSkipped f (heads cs) | none => false) then (.skipped (h0.getD []), blocks (rds cs))
    else match openSegs d w x.inst h0 (rds cs) (addrs.drop clauses.length) with
    | .error e => (e.1.result h0 [], blocks e.2)
    | .ok gs =>
      let h1 := h0.orElse (fun _ => (heads gs).head?)
      let ghs := (heads gs).take entries.length
      let h := h1.getD []
      if !(ghs.all gatherInPlace) then (.redirected false h1 ghs, blocks (rds cs ++ rds gs))
      else match readRows d (List.range h.rows) [] (cs.map (fun o => (o, true))) with
      | .error e => (e.1.result h1 ghs, blocks (e.2 ++ rds gs))
      | .ok cvs =>
        let quals := qualRows x.filter h.rows cvs
        let hits := (List.range h.rows).filter (fun i => quals.getD i false)
        let crs := cvs.map (fun v => v.1.rd)
        match readRows d hits [] ((entries.zip gs).map (fun (e : GatherEntry × OpenSeg) => (e.2, !e.1.packed))) with
        | .error e => (e.1.result h1 ghs, blocks (crs ++ e.2))
        | .ok gvs =>
          let rs := rowGroupRecords x rg h quals
            ((entries.zip gvs).map (fun (e : GatherEntry × (OpenSeg × List RowVal)) => (e.1, e.2.1.head, e.2.2)))
          let all := blocks (crs ++ gvs.map (fun v => v.1.rd) ++ (rds gs).drop entries.length)
          if rs.any (fun r => decide (x.ringBytes < 2 * r.length)) then (.fail 0x0201 none, all) else (.done h rs, all)

/-- Evaluate row group `rg` for a descriptor: the result, the segment map entries read and the blocks read. -/
def Dev.sflEval (d : Dev) (s : Nat) (x : SflDesc) (rg : Nat) : RgRes × List Nat × List Nat :=
  let clauses : List Clause := match x.filter with | some f => FilterBlk.clauses f | none => []
  let entries : List GatherEntry := match x.gather with | some g => GatherBlk.entries g | none => []
  let only := match x.filter with | some f => FilterBlk.galleryOnly f | none => false
  -- A descriptor that names no segment takes its rows from column 0 (log entry 34).
  let extra := if clauses.isEmpty && entries.isEmpty then [0] else []
  let cols := clauses.map (·.column) ++ entries.map (·.column) ++ extra
  if x.off || only || d.flag (R.sflCtrl s) 1 || d.sflFenced s then (.redirected false none [], [], [])
  else
    let maps := cols.map (fun col => x.segmap + 8 * (rg * x.columns + col))
    match d.segAddrs s x rg cols with
    | .error f => (.fail f.status (some f), maps, [])
    | .ok addrs =>
      if addrs.any (fun a => d.stackOf x.inst a (x.who s).tlb != some s) then (.redirected false none [], maps, [])
      else
        let (r, blocks) := d.sflScan s x rg addrs
        (r, maps, blocks)

/-- Serve descriptor `x`, already taken off the head of the flight list: what its writes still owe, its completion, or one row group. It waits while
the response of a write is awaited; a write that received an error response ends it (R191). -/
def Dev.sflServe (d : Dev) (c : CoreSt) (s : Nat) (x : SflDesc) : Dev × Option SflDesc :=
  let w := x.who s
  if 0 < d.lostBytes w then (d.ackLost w, none)
  else if d.awaits w then (d, some x)
  else match x.ended with
  | some st => if x.recorded then (d.sflDone s x, none) else d.sflEnd c s x st
  | none =>
    if x.cur.isSome then d.sflShip c s x
    else
      let rg := x.rowGroup x.next
      let (r, maps, blocks) := d.sflEval s x rg
      let d := d.sflRequests c s x (maps.map (fun a => (a, 8)) ++ blocks.map (fun a => (a, 4096)))
      let d := d.count (R.sflCntRead s) (4096 * blocks.length)
      let x := { x with read := x.read + 4096 * blocks.length }
      match r with
      | .fail st f =>
        let d := match f with
          | some f => d.recordFail c w x.inst false f
          | none => d
        d.sflEnd c s x st
      | .skipped h =>
        let (d, b) := d.rowGroupRecord x 1 rg (some h) []
        d.sflShip c s { x with cur := some 1, head := h, out := [b] }
      | .redirected discard h gs =>
        let (d, b) := d.rowGroupRecord x (2 + 4 * b2n discard) rg h gs
        d.sflShip c s { x with cur := some 2, head := h.getD [], out := [b] }
      | .done h rs => d.sflShip c s { x with cur := some 0, head := h, out := rs }

/-- One turn of the filter: the next descriptor in flight is served and goes to the end of the rotation (R180). -/
def Dev.sflTurn (d : Dev) (c : CoreSt) (s : Nat) : Dev :=
  let u := d.filter s
  match u.flight with
  | [] => d
  | x :: rest =>
    let (d, y) := (d.setFilter s { u with flight := rest }).sflServe c s x
    d.sflBack s y

/-! ### The fence (R192) -/

/-- What a lane mismatch makes of a descriptor in flight: the row group being evaluated, or whose slices still wait, is redirected and discarded;
every row group left is redirected, and the descriptor completes OK. -/
def Dev.sflRedirect (d : Dev) (s : Nat) (evaluating : Bool) (x : SflDesc) : Dev × SflDesc :=
  if x.ended.isSome then (d, x)
  else
    let x := { x with off := true, status := 0 }
    let rg := x.rowGroup x.next
    let discard (d : Dev) (h : Option SegHead) : Dev × SflDesc :=
      let (d, b) := d.rowGroupRecord x 6 rg h []
      (d, { x with cur := some 2, out := [b] })
    match x.cur with
    | some 0 => discard d (some x.head)
    | some _ => (d, x)
    | none =>
      if !evaluating then (d, x)
      else match (d.sflEval s { x with off := false } rg).1 with
        | .done h _ => discard d (some h)
        | .skipped h => discard d (some h)
        | .redirected _ h _ => discard d h
        | .fail _ _ => discard d none

/-- What a fence leaves of a filter's descriptors (R192): nothing of the slice is written, every row group left of those in flight or waiting is
redirected. `lane` says that a lane mismatch made it. The fence itself is the Conservator's. -/
def Dev.sflMismatch (d : Dev) (s : Nat) (lane : Bool) : Dev :=
  let d := if lane then d.setFlag (R.sflStatus s) 2 true else d
  let u := d.filter s
  let step (acc : Dev × List SflDesc) (k : Nat) : Dev × List SflDesc :=
    match u.flight[k]? with
    | none => acc
    | some x =>
      let (d, x) := acc.1.sflRedirect s (k == 0) x
      (d, acc.2 ++ [x])
  let (d, xs) := (List.range u.flight.length).foldl step (d, [])
  d.setFilter s { flight := xs, waiting := u.waiting.map (fun x => { x with off := true }) }

/-! ### The commands -/

/-- SFL_SUBMIT: a SUBMIT write of physical gallery `p`; an error response is held (R321). -/
def execSflSubmit (f : Fin 8) (p : Fin 136) (v : BitVec 64) (s : State) : Host.Outcome State Fault Refusal :=
  s.onDev (fun c d =>
    match d.sflSubmit c f.val p.val v.toNat with
    | (d, true) => d.postError p.val (0x10000 + 0x1000 * f.val) 0
    | (d, false) => d)

/-- SFL_GET. -/
def execSflGet (f : Fin 8) (p : Fin 136) (v : BitVec 64) (s : State) : Host.Outcome State Fault Refusal :=
  s.onDev (fun c d => d.sflGet c f.val p.val v.toNat)

/-- SFL_ABORT. -/
def execSflAbort (f : Fin 8) (p : Fin 136) (v : BitVec 64) (s : State) : Host.Outcome State Fault Refusal :=
  s.onDev (fun c d => d.sflAbort c f.val p.val v.toNat)

/-- SFL_DESCRIPTOR_START. -/
def execSflDescriptorStart (f : Fin 8) (s : State) : Host.Outcome State Fault Refusal :=
  s.onDev (fun c d => d.sflStart c f.val)

/-- SFL_ROWGROUP_EVAL. -/
def execSflRowgroupEval (f : Fin 8) (s : State) : Host.Outcome State Fault Refusal :=
  s.onDev (fun c d => d.sflTurn c f.val)

/-- SFL_WRITE_ERROR (R191): the descriptor in flight ends at once, without a record. -/
def execSflWriteError (f : Fin 8) (p : Fin 136) (tag : BitVec 16) (s : State) : Host.Outcome State Fault Refusal :=
  s.onDev (fun _ d => d.sflTake f.val p.val tag.toNat)

end Sys2Proof.Machine
end

