-- ==== Sys2Proof/Machine/Safety.lean ====
section
/-!
DEFINITION. The Conservator (spec/20_safety_and_repair.md): the answer to each fault, checker injection, structural tests and reserves,
watchdogs, Registrar restarts, die-to-die lanes (R29), and the preparation of a part for return.
-/

namespace Sys2Proof.Machine

/-! ### SAFE-STOP and Registrar restarts -/

/-- A fault whose answer is SAFE-STOP (R523). -/
def safeStopFault (mech block unit : Nat) (x : CoreSt × Dev) : CoreSt × Dev :=
  let e : SafEntry := { action := if x.1.mode.canStop then 6 else 0, mech := mech, block := block, unit := unit }
  uncontained mech block unit (x.1, x.2.faultReport x.1 e)

/-- A map request in progress finishes with BUSY_RETRY (R529). -/
def Dev.endMapRequest (d : Dev) : Dev :=
  if d.flag R.insMapStatus 63 then
    ({ d with ins := { d.ins with inval := d.ins.inval.map (fun (v : Inval) => { v with request := false }) } }).mapDone 0x0500
  else d

/-- 600 s of DEV_TIME. -/
def tenMinutes : Nat := 600000000000

/-- What the Registrar had accepted and not completed when it restarts (R397): its commands complete with 0x0500 BUSY_RETRY; a freezing
instance goes back to ACTIVE, a firmware piece stops where it stands (R564), a PLDM update leaves its state machine. -/
def Dev.dropAccepted (d : Dev) (c : CoreSt) : Dev :=
  let thaw (e : Nat × Inst) : Nat × Inst :=
    if e.2.st == .freezing && e.2.freezeCmd.isSome then (e.1, { e.2 with st := .active, freezeCmd := none }) else e
  let d := { d with
    ins := { d.ins with inst := d.ins.inst.map thaw }
    mgmt := { d.mgmt with piece := none, pldm := .idle } }
  (d.xq.cmds.filter (fun (x : Cmd) => x.started && decide (0x90 ≤ x.op))).foldl
    (fun (d : Dev) (x : Cmd) => (d.count R.xqCntAdmbusy).finish c x 250 0x0500) d

/-- The Registrar restarts (R529), for the cause that R588 codes: 0 heartbeat, 1 lockstep, 2 DEV_RESET. After the fourth restart
within 600 s it is held stopped. -/
def Dev.restartRegistrar (d : Dev) (c : CoreSt) (cause : Nat) : Dev :=
  if !d.registrarUp then d
  else
    let mech := if cause = 1 then 4 else 12
    let d := d.safetyLog c.time { action := 5, mech := mech, block := Blk.ins, unit := 0 }
    let d := (d.logEvent c.time 0x10 0 0 (toLE 1 cause)).count R.safCntRegrst
    let times := c.time.toNat :: d.saf.regTimes.filter (within c.time.toNat tenMinutes)
    let d := (d.dropAccepted c).endMapRequest
    if 4 ≤ times.length then
      let d := { d with saf := { d.saf with regTimes := times, regHalted := true } }
      (d.setFlag R.safStatus 4 true).fence c Blk.ins 0
    else { d with saf := { d.saf with regTimes := times, regRestart := true } }

/-- REGISTRAR_RESTART_DONE. -/
def execRegistrarRestartDone (s : State) : Host.Outcome State Fault Refusal :=
  s.onDev (fun c d =>
    if d.saf.regRestart then { d with saf := { d.saf with regRestart := false, heartbeat := c.time.toNat } } else d)

/-- REGISTRAR_HEARTBEAT. -/
def execRegistrarHeartbeat (s : State) : Host.Outcome State Fault Refusal :=
  s.onDev (fun c d => if d.registrarUp then { d with saf := { d.saf with heartbeat := c.time.toNat } } else d)

/-- Has `span` ns of DEV_TIME passed since `t`? -/
def CoreSt.past (c : CoreSt) (t span : Nat) : Bool := decide (t + span ≤ c.time.toNat)

/-- HEARTBEAT_TIMEOUT: 50 ms without a heartbeat. -/
def execHeartbeatTimeout (s : State) : Host.Outcome State Fault Refusal :=
  s.onDev (fun c d => if c.past d.saf.heartbeat 50000000 then d.restartRegistrar c 0 else d)

/-- WATCHDOG_KICK (R530). -/
def execWatchdogKick (s : State) : Host.Outcome State Fault Refusal :=
  s.onDev (fun c d => { d with saf := { d.saf with kick := c.time.toNat } })

/-- WATCHDOG_TIMEOUT: 5 ms without a kick. -/
def execWatchdogTimeout (s : State) : Host.Outcome State Fault Refusal :=
  s.onAll (fun x => if x.1.past x.2.saf.kick 5000000 then safeStopFault 12 Blk.saf 0 x else x)

/-! ### Die-to-die lanes (R29) -/

/-- A lane of a group fails: the spare takes its place; a second failure of the group halves the link and sets DEGRADED. A further failure on
a link that already runs at half width is answered as a second one (DESIGN CHOICE, log entry 123). -/
def Dev.laneFail (d : Dev) (c : CoreSt) (mech link group : Nat) : Dev :=
  let key := link * 256 + group
  let n := look d.saf.laneUsed key 0
  let e : SafEntry := { action := if n = 0 then 4 else 1, mech := mech, block := Blk.link, unit := link, detail := toLE 1 group }
  let d := d.faultReport c e
  let d := { d with saf := { d.saf with
    laneUsed := put d.saf.laneUsed key (n + 1)
    retraining := link :: d.saf.retraining.filter (· != link)
    linkErr := del d.saf.linkErr key } }
  if n = 0 then (d.count R.safCntRepair).setF R.safReserve 47 40 (min 255 (d.getF R.safReserve 47 40 + 1))
  else (d.count R.safCntFence).fence c Blk.link link

/-- LANE_FAIL: an eye monitor finds a lane below its limit for 1 ms (R528). -/
def execLaneFail (link : Fin 15) (group : BitVec 8) (s : State) : Host.Outcome State Fault Refusal :=
  s.onDev (fun c d => d.laneFail c 11 link.val group.toNat)

/-- A flit parity error: the flit is sent again; sixteen on one lane group within 1 ms mark a lane failed. -/
def Dev.flitError (d : Dev) (c : CoreSt) (link group : Nat) : Dev :=
  let key := link * 256 + group
  let times := c.time.toNat :: (look d.saf.linkErr key []).filter (within c.time.toNat 1000000)
  if 16 ≤ times.length then d.laneFail c 2 link group
  else { d with saf := { d.saf with linkErr := put d.saf.linkErr key times } }

/-- FLIT_PARITY_ERROR. -/
def execFlitParityError (link : Fin 15) (group : BitVec 8) (s : State) : Host.Outcome State Fault Refusal :=
  s.onDev (fun c d => d.flitError c link.val group.toNat)

/-- LINK_RETRAIN_DONE. -/
def execLinkRetrainDone (link : Fin 15) (s : State) : Host.Outcome State Fault Refusal :=
  s.onDev (fun _ d => { d with saf := { d.saf with retraining := d.saf.retraining.filter (· != link.val) } })

/-! ### The fenced units (R523) -/

/-- A stack filter, a Folio engine, a Provenance lane, a DMA channel, a Catalogue bank is found faulty. -/
def Dev.sflFault (d : Dev) (c : CoreSt) (mech s : Nat) : Dev := (d.sflMismatch s (mech == 7)).fenceUnit c mech Blk.sfl s 0
def Dev.folFault (d : Dev) (c : CoreSt) (mech e : Nat) : Dev :=
  ((if mech = 6 then d.folVerifyFail c e else d).fenceUnit c mech Blk.fol e (if mech = 6 then 0x0404 else 0)).folMoveAll c e
def Dev.prvLaneFault (d : Dev) (c : CoreSt) (mech l : Nat) : Dev :=
  let d := (if mech = 7 then d.setFlag R.prvStatus 1 true else d).fenceUnit c mech Blk.prv l 0
  if d.lanesGone && d.prv.ctx.any (fun (e : Nat × PrvCtx) => e.2.ready) then (d.prvNoLanes c).setF R.prvFault 31 29 l else d
def Dev.dmaFault (d : Dev) (c : CoreSt) (mech ch : Nat) : Dev := (d.dmaParity ch).fenceUnit c mech Blk.dma ch 0x0100
def Dev.catFault (d : Dev) (c : CoreSt) (mech b unit : Nat) (inGap : Bool) : Dev :=
  (d.catBankFail c b unit inGap).fenceUnit c mech Blk.cat b 0x0401

/-- A comparator disagreement (R484): both comparators are injected; a failed one, or a second disagreement within 24 hours, fences the
pair (unit 8 of the PRV block). -/
def Dev.prvCompareFault (d : Dev) (c : CoreSt) (failed : Bool) : Dev :=
  let again := d.saf.cmpErr.any (within c.time.toNat dayNs)
  let d := { d with saf := { d.saf with cmpErr := c.time.toNat :: d.saf.cmpErr.filter (within c.time.toNat dayNs) } }
  let d := d.count R.safCntInject 2
  let d := if failed then
      ((d.count R.safCntInjfail).setFlag R.safStatus 2 true).safetyLog c.time { action := 9, mech := 13, block := Blk.prv, unit := 8 }
    else d
  if failed || again then d.fenceUnit c 8 Blk.prv 8 0x0402
  else d.faultReport c { action := 0, mech := 8, block := Blk.prv, unit := 8, status := 0x0402 }

/-- An uncorrectable error in a bank of the Atrium store: the third within 24 hours fences it (R589). -/
def Dev.atriumFault (d : Dev) (c : CoreSt) (b : Nat) : Dev :=
  let times := c.time.toNat :: (look d.saf.bankErr b []).filter (within c.time.toNat dayNs)
  let d := { d with saf := { d.saf with bankErr := put d.saf.bankErr b times } }
  if 3 ≤ times.length then d.fenceUnit c 1 Blk.atrium b 0x0401
  else d.faultReport c { action := 0, mech := 1, block := Blk.atrium, unit := b, status := 0x0401, addr := 0x100000 * b }

/-- A block that a checker, a canary or a voltage monitor finds faulty (R519, R523, R528). -/
def blockFault (mech block unit : Nat) (x : CoreSt × Dev) : CoreSt × Dev :=
  let (c, d) := x
  if block = Blk.gal then (c, d.galleryFault c unit mech)
  else if block = Blk.sfl then (c, d.sflFault c mech unit)
  else if block = Blk.fol then (c, d.folFault c mech unit)
  else if block = Blk.prv then (c, if unit < 8 then d.prvLaneFault c mech unit else d.fenceUnit c mech Blk.prv 8 0)
  else if block = Blk.cat then (c, d.catFault c mech unit 0 false)
  else if block = Blk.mem then (c, (d.fenceChannel c unit).settleOwed c)
  else if block = Blk.dma then (c, d.dmaFault c mech unit)
  else if block = Blk.atrium then (c, d.fenceUnit c mech Blk.atrium unit 0x0401)
  else if block = Blk.link then (c, d.laneFail c mech unit 0)
  else if block = Blk.xq then (c, (d.faultReport c { action := 0, mech := mech, block := block, unit := unit }).hostPortReset c unit)
  else if block = Blk.ins ∨ block = Blk.fwu then
    (c, (d.faultReport c { action := 0, mech := mech, block := block, unit := unit }).restartRegistrar c 1)
  else safeStopFault mech block unit x

/-- Is the island of a unit fenceable on its own (R523)? -/
def fenceable (block unit : Nat) : Bool :=
  block == Blk.gal || block == Blk.sfl || block == Blk.cat || (block == Blk.mem && decide (512 ≤ unit))

/-! ### SRAM error trends (R276, R526) -/

/-- A corrected error in an SRAM row: SRAM_CE of them within 24 hours ask for the row's repair. -/
def Dev.sramCorrected (d : Dev) (c : CoreSt) (block unit row : Nat) : Dev :=
  let d := if block = Blk.cat then d.countCe (R.catBank unit) R.catCtrl else d
  let recent := d.saf.sramCe.filter (fun (e : Nat × Nat × Nat × Nat) => within c.time.toNat dayNs e.2.2.2)
  let d := { d with saf := { d.saf with sramCe := (block, unit, row, c.time.toNat) :: recent } }
  let n := recent.countP (fun (e : Nat × Nat × Nat × Nat) => e.1 == block && e.2.1 == unit && e.2.2.1 == row) + 1
  if n < max 1 (d.getF R.safRepair 23 16) then d
  else if block = Blk.gal then
    if d.saf.sramDue.contains (unit, row) then d else { d with saf := { d.saf with sramDue := d.saf.sramDue ++ [(unit, row)] } }
  else if block = Blk.atrium ∨ block = Blk.cat ∨ block = Blk.doc then
    if d.saf.repairLog.contains (block, unit, row) then d
    else
      let d := { d with saf := { d.saf with repairLog := d.saf.repairLog ++ [(block, unit, row)] } }
      d.safetyLog c.time { action := 0, mech := 1, block := block, unit := unit, detail := toLE 2 row }
  else d

/-! ### FAULT_REPORT -/

/-- The Conservator's answer to a report (R523, R524). -/
def faultAnswer (f : FaultReport) (x : CoreSt × Dev) : CoreSt × Dev :=
  let (c, d) := x
  match f with
  | .gallery p m => (c, d.galleryFault c p.val m.toNat)
  | .sflLane s => (c, d.sflFault c 7 s.val)
  | .folVerify e => (c, d.folFault c 6 e.val)
  | .prvLane l => (c, d.prvLaneFault c 7 l.val)
  | .prvCompare failed => (c, d.prvCompareFault c failed)
  | .catBank b unit gap => (c, d.catFault c 1 b.val unit.toNat gap)
  | .channel ch => (c, d.faultReport c { action := 0, mech := 1, block := Blk.mem, unit := ch.val, status := 0x0401 })
  | .atriumBank b off => if d.inExcOwn (0x100000 * b.val + off.toNat) then safeStopFault 1 Blk.exc 0 x else (c, d.atriumFault c b.val)
  | .dmaParity ch => (c, d.dmaFault c 2 ch.val)
  | .switchParity => safeStopFault 2 Blk.dev 0 x
  | .control b => safeStopFault 1 b.toNat 0 x
  | .volumeMismatch => safeStopFault 7 Blk.vol 0 x
  | .accLogOne => (c, d.faultReport c { action := 0, mech := 1, block := Blk.saf, unit := 0 })
  | .accLogBoth => safeStopFault 1 Blk.saf 0 x
  | .registrarLockstep => (c, (d.faultReport c { action := 5, mech := 4, block := Blk.ins, unit := 0 }).restartRegistrar c 1)
  | .conservatorLockstep => safeStopFault 4 Blk.saf 0 x
  | .portParity p => blockFault 2 Blk.xq p.val x
  | .voltage u => if fenceable u.block.toNat u.unit.toNat then blockFault 14 u.block.toNat u.unit.toNat x
      else safeStopFault 14 u.block.toNat u.unit.toNat x
  | .localWord p w =>
    let k := d.core p.val
    (c, (d.setCore p.val { k with badWords := w.toNat :: k.badWords.filter (· != w.toNat) }).faultReport c
      { action := 0, mech := 1, block := Blk.gal, unit := p.val, status := 0x0401, addr := 8 * w.toNat })
  | .sramCorrected u row => (c, d.sramCorrected c u.block.toNat u.unit.toNat row.toNat)

/-- FAULT_REPORT (R523): in a powered mode. -/
def execFaultReport (f : FaultReport) (s : State) : Host.Outcome State Fault Refusal :=
  s.onAll (fun x => if x.1.mode = .off then x else faultAnswer f x)

/-! ### Checker injection (R519) -/

/-- CHECKER_INJECT: an injection reaches the checker of a unit, and nothing else. -/
def execCheckerInject (unit : UnitRef) (s : State) : Host.Outcome State Fault Refusal :=
  s.onDev (fun _ d =>
    let u := (unit.block.toNat, unit.unit.toNat)
    { d.count R.safCntInject with saf := { (d.count R.safCntInject).saf with injected := u :: d.saf.injected.filter (· != u) } })

/-- An injection has not been flagged within 1 ms: the block that the checker guards is faulty. -/
def injectFail (block unit : Nat) (x : CoreSt × Dev) : CoreSt × Dev :=
  let (c, d) := x
  if d.saf.injected.contains (block, unit) then
    let d := { d with saf := { d.saf with injected := d.saf.injected.filter (· != (block, unit)) } }
    let d := (d.count R.safCntInjfail).setFlag R.safStatus 2 true
    let d := d.safetyLog c.time { action := 9, mech := 13, block := block, unit := unit }
    blockFault 13 block unit (c, d)
  else x

/-- INJECT_TIMEOUT. -/
def execInjectTimeout (unit : UnitRef) (s : State) : Host.Outcome State Fault Refusal :=
  s.onAll (injectFail unit.block.toNat unit.unit.toNat)

/-- UNIT_RETEST (R523): 1 s after its first fence a unit is injected and tested; a pass returns it. -/
def execUnitRetest (unit : UnitRef) (pass : Bool) (s : State) : Host.Outcome State Fault Refusal :=
  s.onDev (fun c d =>
    let u := (unit.block.toNat, unit.unit.toNat)
    if d.saf.retest.contains u then
      let d := { d.count R.safCntInject with saf := { (d.count R.safCntInject).saf with retest := d.saf.retest.filter (· != u) } }
      if pass then (d.safetyLog c.time { action := 10, mech := 13, block := u.1, unit := u.2 }).unfence c u.1 u.2
      else d.safetyLog c.time { action := 8, mech := 13, block := u.1, unit := u.2 }
    else d)

/-! ### Structural tests and reserves (R19 to R21, R520 to R522) -/

/-- TEST_CLAIM. -/
def execTestClaim (p : Fin 136) (s : State) : Host.Outcome State Fault Refusal :=
  s.onDev (fun c d => if c.served then d.claimTest c p.val false else d)

/-- TEST_LATE: a claim is still TEST_PENDING 0.5 s after it was made. -/
def execTestLate (p : Fin 136) (s : State) : Host.Outcome State Fault Refusal :=
  s.onDev (fun c d =>
    let waits := match d.logicalOf p.val with | some g => look d.doc.gal g .idle == .testPending | none => false
    if waits && d.saf.claims.any (fun (x : TestClaim) => x.gallery == p.val && !x.late && c.past x.since 500000000) then
      let d := { d with saf := { d.saf with
        claims := d.saf.claims.map (fun (x : TestClaim) => if x.gallery = p.val then { x with late := true } else x) } }
      (d.setFlag R.safStatus 3 true).count R.safCntTestlate
    else d)

/-- Soft repairs of a gallery's rows at its test (R526): `left` is the percentage of spares left, none where no spare is. -/
def Dev.softRepairs (d : Dev) (c : CoreSt) (p : Nat) (left : Option Nat) : Dev :=
  let mine := d.saf.sramDue.filter (fun (e : Nat × Nat) => e.1 == p)
  let d := each mine (fun (e : Nat × Nat) (d : Dev) =>
    let d := d.safetyLog c.time { action := 4, mech := 1, block := Blk.gal, unit := p, detail := toLE 2 e.2 }
    match left with
    | some pct =>
      let d := { d.count R.safCntRepair with
        saf := { (d.count R.safCntRepair).saf with repairLog := d.saf.repairLog ++ [(Blk.gal, p, e.2)] } }
      d.setF R.safReserve 63 56 (min pct (d.getF R.safReserve 63 56))
    | none => d.setF R.safReserve 63 56 0) d
  { d with saf := { d.saf with sramDue := d.saf.sramDue.filter (fun (e : Nat × Nat) => e.1 != p) } }

/-- The Conservator returns logical gallery `g` to service (R150, R471). -/
def Dev.returnGallery (d : Dev) (g : Nat) : Dev :=
  { d with
    doc := { d.doc with notices := d.doc.notices ++ [.returned g] }
    evt := { d.evt with gal := put d.evt.gal g .active } }

/-- Does a structural test of physical gallery `p` run: claimed and free of its task, or fenced after a fault? -/
def Dev.inTest (d : Dev) (p : Nat) : Bool :=
  let claimed := d.saf.claims.any (fun (x : TestClaim) => x.gallery == p)
  !d.gals.retired.contains p &&
  (match d.logicalOf p with
   | some g => (d.isFenced Blk.gal p && look d.doc.gal g .idle == .fenced) || (claimed && look d.doc.gal g .idle == .test)
   | none => claimed || d.isFenced Blk.gal p)

/-- The end of a structural test. -/
def Dev.testDone (d : Dev) (c : CoreSt) (p : Nat) (pass : Bool) (left : Option Nat) : Dev :=
  let outvote := d.saf.claims.any (fun (x : TestClaim) => x.gallery == p && x.outvote)
  let fenced := d.isFenced Blk.gal p
  let d := d.count R.safCntTest
  let d := { d with saf := { d.saf with claims := d.saf.claims.filter (fun (x : TestClaim) => x.gallery != p) } }
  let d := (d.loadCore p).softRepairs c p left
  if pass then
    let d := d.setF (R.safGal p) 31 0 (c.time.toNat / 1000000)
    let d := { d with saf := { d.saf with
      passed := p :: d.saf.passed.filter (· != p)
      outvotes := if outvote then put d.saf.outvotes p (c.time.toNat :: (look d.saf.outvotes p []).filter (within c.time.toNat dayNs))
        else d.saf.outvotes } }
    let d := if fenced then (d.safetyLog c.time { action := 10, mech := 10, block := Blk.gal, unit := p }).unfence c Blk.gal p else d
    match d.logicalOf p with
    | some g => d.returnGallery g
    | none => d
  else
    let d := (d.count R.safCntTestfail).safetyLog c.time { action := 8, mech := 10, block := Blk.gal, unit := p }
    d.retire c p 10

/-- STRUCTURAL_TEST_DONE. -/
def execStructuralTestDone (p : Fin 136) (pass : Bool) (left : Option (BitVec 8)) (s : State) : Host.Outcome State Fault Refusal :=
  s.onDev (fun c d => if d.inTest p.val then d.testDone c p.val pass (left.map (·.toNat)) else d)

/-- A reserve of die `k` that may take a number: in use by none, in order, its most recent test passed (R521). One under an open test
claim counts as none left (DESIGN CHOICE, log entry 124). -/
def Dev.reserveOf (d : Dev) (k : Nat) : Option Nat :=
  [34 * k + 32, 34 * k + 33].find? (fun q =>
    (d.logicalOf q).isNone && !d.gals.retired.contains q && d.saf.passed.contains q && !d.isFenced Blk.gal q &&
    !d.saf.claims.any (fun (x : TestClaim) => x.gallery == q))

/-- A retired gallery's number passes to a reserve of its die; with none the logical gallery is absent (R19, R20). -/
def Dev.reserveSwap (d : Dev) (c : CoreSt) (p : Nat) : Dev :=
  match d.logicalOf p with
  | none => d
  | some g =>
    if !d.gals.retired.contains p || (find d.doc.task g).isSome || look d.doc.gal g .idle != .fenced then d
    else match d.reserveOf (p / 34) with
      | none =>
        { d with
          gals := { d.gals with absent := g :: d.gals.absent }
          doc := { d.doc with notices := d.doc.notices ++ [.absent g] } }
      | some q =>
        let d := { d with gals := { d.gals with map := put d.gals.map g q } }
        let d := d.safetyLog c.time { action := 3, mech := 10, block := Blk.gal, unit := p, detail := toLE 2 q }
        ((d.loadCore q).returnGallery g).unfence c Blk.gal p

/-- RESERVE_SWAP: of the retired physical gallery `p`. -/
def execReserveSwap (p : Fin 136) (s : State) : Host.Outcome State Fault Refusal :=
  s.onDev (fun c d => d.reserveSwap c p.val)

/-! ### Ageing and return (R527, R532) -/

/-- SAF_AGE_UPDATE: the hourly report; the hour joins the temperature history. -/
def execSafAgeUpdate (r : AgeReport) (s : State) : Host.Outcome State Fault Refusal :=
  s.onDev (fun _ d =>
    ({ d with saf := { d.saf with history := (r.mean.toNat, 1) :: d.saf.history } }.setF R.safAge 9 0 r.lifePct.toNat).setF R.safAge 31 16
      r.marginMv.toNat)

/-- A write of SAF_RETURN: with KEY 0xA55A and PREPARE, the dump area and the write-buffer metadata are erased and the return record
written, unless a dump is kept or the write buffer holds data. -/
def Dev.returnPrepare (d : Dev) (v : Word) : Dev :=
  if fld v 63 48 ≠ 0xA55A ∨ fld v 0 0 = 0 then d
  else if d.flag R.devStatus 8 || d.flag R.devStatus 9 || decide (0 < bufferUsed d.xq.buffer) then d.setFlag R.safStatus 6 true
  else
    ({ d with acc := { d.acc with dump := none }, saf := { d.saf with returnRecord := true } }).setFlag R.safStatus 5 true

/-- RETURN_PREPARE, from the manager, the Registrar or the management interfaces (R533). -/
def execReturnPrepare (src : Source) (v : BitVec 64) (s : State) : Host.Outcome State Fault Refusal :=
  s.onDev (fun c d => if d.isManagerOrMgmt c src then d.returnPrepare v else d)

end Sys2Proof.Machine
end

