-- ==== Sys2Proof/Machine/Power.lean ====
section
/-!
DEFINITION. Power, clocks and temperature (spec/21_power_clocks_package.md): rail samples, the power cap, the thermal loop, hot marks,
canary loops (R528), and the two faults that reach the mode arbiter directly.
-/

namespace Sys2Proof.Machine

/-! ### Alerts (R551) -/

/-- ALERT_N follows the enabled conditions of PWR_STATUS. -/
def Dev.pwrAlert (d : Dev) : Dev :=
  d.setFlag R.pwrStatus 1 ((List.range 5).any (fun k => d.flag R.pwrStatus (3 + k) && d.flag R.pwrCtrl (8 + k)))

/-! ### Rails (R545, R551) -/

/-- Nominal voltage of a rail in mV, and the deviation that warns, in thousandths. -/
def railNominal (n : Nat) : Nat := match n with | 0 => 1800 | 1 => 1100 | 2 => 900 | _ => 1800
def railBand (n : Nat) : Nat := if n = 3 then 40 else 25

/-- The samples of a rail. -/
def Dev.rail (d : Dev) (n : Nat) : List (Nat × Nat) := look d.pwr.samples n []

/-- The mean of a list, rounded down; 0 of none. -/
def mean (xs : List Nat) : Nat := total xs / max 1 xs.length

/-- Does the 100 µs mean of a rail's voltage lie outside its band? -/
def railWarns (n : Nat) (xs : List (Nat × Nat)) : Bool :=
  let s := 1000 * total (xs.map (fun (x : Nat × Nat) => x.1))
  let nominal := 1000 * railNominal n * xs.length
  let band := railNominal n * xs.length * railBand n
  decide (nominal + band < s) || decide (s + band < nominal)

/-- Device power in W: the sum over the rails of the mean power of their samples (mV x 0.1 A is 0.1 mW). -/
def Dev.watts (d : Dev) : Nat :=
  let sum (n : Nat) : Nat := mean ((d.rail n).map (fun (x : Nat × Nat) => x.1 * x.2))
  total ((List.range 4).map sum) / 10000

/-- A sample of a rail. -/
def Dev.railSample (d : Dev) (n mv da : Nat) : Dev :=
  let xs := ((mv, da) :: d.rail n).take 10
  let d := { d with pwr := { d.pwr with samples := put d.pwr.samples n xs } }
  let amps := mean (xs.map (fun (x : Nat × Nat) => x.2))
  let warn := railWarns n xs
  let d := if warn && !d.flag (R.pwrRail n) 0 then d.count R.pwrCntRailwarn else d
  let d := (d.setF (R.pwrRail n) 63 48 mv).setF (R.pwrRail n) 47 32 amps
  let d := (d.setF (R.pwrRail n) 31 16 (max amps (d.getF (R.pwrRail n) 31 16))).setFlag (R.pwrRail n) 0 warn
  let d := d.setFlag R.pwrStatus 7 ((List.range 4).any (fun k => d.flag (R.pwrRail k) 0))
  let w := d.watts
  ((d.setF R.pwrPower 15 0 w).setF R.pwrPower 31 16 (max w (d.getF R.pwrPower 31 16))).pwrAlert

/-- RAIL_SAMPLE. -/
def execRailSample (rail : Fin 4) (mv deciamps : BitVec 16) (s : State) : Host.Outcome State Fault Refusal :=
  s.onDev (fun c d => if c.mode = .off then d else d.railSample rail.val mv.toNat deciamps.toNat)

/-! ### The power cap (R545) -/

/-- The cap ceiling, the same in every PWR_CEIL entry. -/
def Dev.capCeiling (d : Dev) : Nat := d.getF (R.pwrCeil 0) 15 0
def Dev.setCapCeiling (d : Dev) (mhz : Nat) : Dev := each (List.range 4) (fun k (d : Dev) => d.setF (R.pwrCeil k) 15 0 mhz) d

/-- The cap's part of an evaluation. -/
def Dev.capEvaluate (d : Dev) (c : CoreSt) : Dev :=
  let w := d.getF R.pwrPower 15 0
  let cap := d.getF R.pwrCap 15 0
  let ceil := d.capCeiling
  let overrun := if ceil = 1000 ∧ cap < w then d.pwr.overrun + 1 else 0
  let rested := match d.pwr.lastRise with | some t => !within c.time.toNat 1000000 t | none => true
  let d := { d with pwr := { d.pwr with overrun := overrun } }
  let d := if w ≤ cap then d.setFlag R.pwrStatus 6 false else if 10 ≤ overrun then d.setFlag R.pwrStatus 6 true else d
  if cap < w ∧ 1000 < ceil then (d.setCapCeiling (ceil - 100)).count R.pwrCntCapstep
  else if 100 * w < 95 * cap ∧ ceil < 2400 ∧ rested = true then
    ({ d with pwr := { d.pwr with lastRise := some c.time.toNat } }).setCapCeiling (ceil + 100)
  else d

/-! ### The thermal loop (R547 to R549) -/

/-- A temperature in units of 1/16 °C. -/
def celsius16 (v : BitVec 16) : Int := v.toInt

/-- Report the groups. -/
def Dev.reportTemps (d : Dev) (groups : List (BitVec 16)) : Dev :=
  each (List.range 19) (fun k (d : Dev) =>
    let v := groups.getD k 0
    let old := BitVec.ofNat 16 (d.getF (R.pwrTemp k) 31 16)
    let d := d.setF (R.pwrTemp k) 15 0 v.toNat
    d.setF (R.pwrTemp k) 31 16 (if celsius16 old < celsius16 v then v.toNat else old.toNat)) d

/-- The groups that concern gallery die `k`: its own, its two stacks, and groups 4 to 10. -/
def concerns (k : Nat) : List Nat := [k, 11 + 2 * k, 12 + 2 * k] ++ (List.range 7).map (· + 4)

/-- The thermal ceiling of a die. -/
def Dev.thermEvaluate (d : Dev) (groups : List (BitVec 16)) (k : Nat) : Dev :=
  let limit : Int := 16 * (d.getF R.pwrTherm 15 8 : Nat)
  let ts := (concerns k).map (fun g => celsius16 (groups.getD g 0))
  let ceil := d.getF (R.pwrCeil k) 31 16
  if ts.any (fun t => decide (limit ≤ t)) then
    if 1000 < ceil then (d.setF (R.pwrCeil k) 31 16 (max 1000 (ceil - 100))).count R.pwrCntThrottle else d
  else if ts.all (fun t => decide (t ≤ limit - 80)) then d.setF (R.pwrCeil k) 31 16 (min 2400 (ceil + 100))
  else d

/-- A logical gallery becomes hot at HOT_C, and cool again 5 degrees below. -/
def Dev.hotEvaluate (d : Dev) (temps : List (BitVec 16)) (g : Nat) : Dev :=
  let limit : Int := 16 * (d.getF R.pwrTherm 7 0 : Nat)
  let t := celsius16 (temps.getD (d.phys g) 0)
  if limit ≤ t then
    if d.doc.hot.contains g then d else ({ d with doc := { d.doc with hot := d.doc.hot ++ [g] } }).count R.pwrCntHot
  else if t ≤ limit - 80 then { d with doc := { d.doc with hot := d.doc.hot.filter (· != g) } }
  else d

/-- Every gallery that is awake runs at the lowest of its three frequencies (R546). -/
def Dev.applySpeeds (d : Dev) : Dev :=
  { d with gals := { d.gals with core := d.gals.core.map (fun (e : Nat × Gallery) =>
    if e.2.st = .asleep ∨ e.2.mhz = 0 then e else (e.1, { e.2 with mhz := d.speedOf e.1 })) } }

/-- One evaluation of the power arbiter. -/
def Dev.powerEvaluate (d : Dev) (c : CoreSt) (r : ThermalReport) : Dev :=
  let d := (d.reportTemps r.groups).capEvaluate c
  let d := each (List.range 4) (fun k (d : Dev) => d.thermEvaluate r.groups k) d
  let d := each (List.range 128) (fun g (d : Dev) => d.hotEvaluate r.galleries g) d
  let d := d.applySpeeds
  let d := d.setFlag R.pwrStatus 5 (decide (d.capCeiling < 2400))
  let d := d.setFlag R.pwrStatus 4 ((List.range 4).any (fun k => decide (d.getF (R.pwrCeil k) 31 16 < 2400)))
  (d.setFlag R.pwrStatus 3 (!d.doc.hot.isEmpty)).pwrAlert

/-- POWER_EVALUATION. -/
def execPowerEvaluation (r : ThermalReport) (s : State) : Host.Outcome State Fault Refusal :=
  s.onDev (fun c d => if c.mode = .off then d else d.powerEvaluate c r)

/-- PWR_CAP_WRITE (R554): from the manager, the Registrar or the management interfaces; below 400 stores 400, above 750 stores 750. -/
def Dev.writeCap (d : Dev) (v : Word) : Dev := d.setF R.pwrCap 15 0 (max 400 (min 750 (fld v 15 0)))

/-- PWR_CAP_WRITE. -/
def execPwrCapWrite (src : Source) (v : BitVec 64) (s : State) : Host.Outcome State Fault Refusal :=
  s.onDev (fun c d => if d.isManagerOrMgmt c src then d.writeCap v else d)

/-! ### Canary loops (R528, R536) -/

/-- One period of an island's canary loop: its voltage follows what the canaries need; a gallery's frequency what they permit; failure at
the limit is a fault. -/
def canaryLoop (r : CanaryReport) (x : CoreSt × Dev) : CoreSt × Dev :=
  let (c, d) := x
  let block := r.unit.block.toNat
  let unit := r.unit.unit.toNat
  let mv := max 550 (min 950 r.mv.toNat)
  match r.permits with
  | none => blockFault 11 block unit x
  | some f =>
    if block = Blk.gal then
      let k := d.core unit
      if k.st = .asleep then x
      else
        let limit := max 1000 (min 2400 (f.toNat / 100 * 100))
        let d := (d.setF (R.safGal unit) 47 32 r.mv.toNat).setCore unit { k with limit := limit, mv := mv }
        (c, d.setCore unit { d.core unit with mhz := d.speedOf unit })
    else (c, { d with pwr := { d.pwr with volts := put d.pwr.volts (65536 * block + unit) mv } })

/-- CANARY_LOOP. -/
def execCanaryLoop (r : CanaryReport) (s : State) : Host.Outcome State Fault Refusal :=
  s.onAll (fun x => if x.1.mode = .off then x else canaryLoop r x)

/-! ### Trips (R542, R550) -/

/-- A sensor reaches 115 °C: THERMTRIP_N low, and an uncontained fault. -/
def thermalTrip (sensor : Nat) (x : CoreSt × Dev) : CoreSt × Dev :=
  let d := { x.2 with pwr := { x.2.pwr with trip := true } }
  uncontained 14 Blk.pwr sensor (x.1, d.setFlag R.pwrStatus 2 true)

/-- THERMAL_TRIP: in a powered mode. -/
def execThermalTrip (sensor : Fin 19) (s : State) : Host.Outcome State Fault Refusal :=
  s.onAll (fun x => if x.1.mode = .off then x else thermalTrip sensor.val x)

/-- SYSREF_LOST: while PWRGOOD is high. -/
def execSysrefLost (s : State) : Host.Outcome State Fault Refusal :=
  s.onAll (fun x => if x.1.pwrgood then uncontained 14 Blk.pwr 0 (x.1, x.2.setFlag R.pwrStatus 8 true) else x)

end Sys2Proof.Machine
end

