-- ==== Sys2Proof/Machine/ParamBlocks.lean ====
section
/-!
DEFINITION. The parameter blocks that PIPELINE_LOAD checks (R591 and the chapters that R104 names): the length of each kind, the slot
lists, and each kind's own rules; with R238 for LEDGER groups and R200 and R120 for STREAM edges.
-/

namespace Sys2Proof.Machine

/-- A slot list (R591): `used` entries that name slots 0 to 63, the rest of its `n` bytes 0xFF; `holes` where 0xFF may stand within the
count (OUT_MAP). -/
def slotListOk (b : Bytes) (off n used : Nat) (holes : Bool := false) : Bool :=
  decide (used ≤ n) &&
  (List.range n).all (fun k =>
    let v := le b (off + k) 1
    if k < used then decide (v ≤ 63) || (holes && v == 0xFF) else v == 0xFF)

/-- The slots of a list. -/
def slotList (b : Bytes) (off used : Nat) : List Nat := (List.range used).map (fun k => le b (off + k) 1)

/-- A power of two within bounds. -/
def pow2In (lo hi v : Nat) : Bool := decide (lo ≤ v) && decide (v ≤ hi) && 2 ^ Nat.log2 v == v

/-- The buffer that input port `k`, or output port `k`, of an operator names. -/
def Image.inBufOf (i : Image) (o : Operator) (k : Nat) : Option Buffer :=
  let b := o.inBuf.getD k 0xFFFF
  if k < o.inCount ∧ b ≠ 0xFFFF then some (i.buffer b) else none
def Image.outBufOf (i : Image) (o : Operator) (k : Nat) : Option Buffer :=
  let b := o.outBuf.getD k 0xFFFF
  if k < o.outCount ∧ b ≠ 0xFFFF then some (i.buffer b) else none

/-- The buffer kind of a port, where it names one. -/
def kindIs (b : Option Buffer) (kind : Nat) : Bool := match b with | some x => x.kind == kind | none => false

/-! ### One kind each -/

/-- FILTER (R166, R175). -/
def Image.filterBlockOk (i : Image) (o : Operator) (b : Bytes) : Bool :=
  match i.inBufOf o 0 with
  | some t => t.kind == 0 && filterOk b t.columns && b.length == FilterBlk.setsOff b + FilterBlk.setsBytes b
  | none => false

/-- GATHER (R174, R175), operator `n`. -/
def Image.gatherBlockOk (i : Image) (n : Nat) (o : Operator) (b : Bytes) : Bool :=
  let decodes := (GatherBlk.entries b).any (fun e => e.decode)
  (match i.inBufOf o 0 with
   | some t => t.kind == 0 && gatherOk b t.columns
   | none => false) &&
  b.length == 64 + 16 * GatherBlk.columnCount b &&
  (if decodes then kindIs (i.inBufOf o 1) 1 else (o.inBuf.take o.inCount).getD 1 0xFFFF == 0xFFFF) &&
  (o.inBuf.take o.inCount).getD 2 0xFFFF == 0xFFFF &&
  (i.edges.filter (fun e => e.dst == n && e.dstPort == 2 && decide (e.fan ≤ 1))).all (fun e =>
    e.fan == 0 && e.srcPort == 0 && opKind (i.op e.src).kindCode == some .filter)

/-- COMPUTE (R106). -/
def computeBlockOk (b : Bytes) : Bool :=
  let n := le b 0 2
  let off := le b 4 4
  let size := le b 8 4
  decide (1 ≤ n) && decide (n ≤ 256) && size % 16 == 0 &&
  (if size = 0 then off == 0 && b.length == 16 + 8 * n
   else off % 16 == 0 && decide (16 + 8 * n ≤ off) && b.length == off + size) &&
  (List.range n).all (fun k =>
    let s := slice b (16 + 8 * k) 8
    let op := le s 0 1
    (decide (1 ≤ op) && decide (op ≤ 6) || decide (8 ≤ op) && decide (op ≤ 0xD) || decide (0x10 ≤ op) && decide (op ≤ 0x12)) &&
    decide (le s 1 1 ≤ 63) && (!(([3, 4, 5, 0x11, 0x12] : List Nat).contains op) || decide (le s 4 1 ≤ 38)) && (decide (le s 5 1 ≤ 2) || le s 5 1 == 0xFF))

/-- PARTITION (R197, R198, R200), operator `n`. -/
def Image.partitionBlockOk (i : Image) (n : Nat) (b : Bytes) : Bool :=
  let mode := le b 0 1
  let keys := le b 1 1
  let slots := le b 2 1
  let p := le b 4 4
  b.length == 64 && decide (mode ≤ 3) && decide (le b 3 1 ≤ 1) && decide (1 ≤ slots) && decide (slots ≤ 16) &&
  (match mode with
   | 0 => decide (1 ≤ keys) && decide (keys ≤ 4) && pow2In 2 4096 p
   | 1 => keys == 1 && pow2In 2 4096 p
   | _ => keys == 0 && decide (1 ≤ p) && decide (p ≤ 4096)) &&
  (if mode = 1 then decide (le b 0xC 1 ≤ 127) else le b 0xC 1 == 0) &&
  slotListOk b 0x10 4 keys && slotListOk b 0x14 16 slots &&
  (i.edges.filter (fun e => e.src == n && e.fan == 1)).length == 1 && !i.edges.any (fun e => e.src == n && e.fan == 0)

/-- HASH_BUILD (R217), operator `n`. -/
def Image.buildBlockOk (i : Image) (n : Nat) (o : Operator) (b : Bytes) : Bool :=
  let t := i.template o.template
  b.length == 128 && decide (1 ≤ le b 0 1) && decide (le b 0 1 ≤ 4) && decide (le b 1 1 ≤ 16) && decide (le b 3 1 ≤ 2) &&
  slotListOk b 8 4 (le b 0 1) && slotListOk b 0xC 16 (le b 1 1) &&
  decide (le b 0x1C 4 ≤ t.localBytes) && decide (le b 0x20 4 ≤ t.atriumBytes) &&
  i.edges.any (fun e => e.dst == n && e.dstPort == 0 && e.fan == 1)

/-- HASH_PROBE (R221), operator `n`. -/
def Image.probeBlockOk (i : Image) (n : Nat) (b : Bytes) : Bool :=
  match i.edges.find? (fun e => e.dst == n && e.dstPort == 0 && e.fan == 0 && opKind (i.op e.src).kindCode == some .hashBuild) with
  | none => false
  | some e =>
    let q := i.param (i.op e.src)
    b.length == 128 && decide (le b 0 1 ≤ 3) && le b 1 1 == le q 0 1 && le b 4 4 == le q 4 4 &&
    decide (le b 3 1 ≤ 16) && (decide (le b 0 1 ≤ 1) || le b 3 1 == 0) &&
    slotListOk b 8 4 (le b 1 1) && slotListOk b 0xC 16 (le q 1 1) true

/-- CAT_LOOKUP (R265). -/
def lookupBlockOk (b : Bytes) : Bool :=
  let n := le b 1 1
  let m := le b 2 1
  let fields := (List.range n).map (fun k => slice b (8 + 4 * k) 4)
  let outs := (List.range m).map (fun k => slice b (0x18 + 8 * k) 8)
  let keys := fields.map (fun f => le f 0 1)
  let extra := (if le b 4 1 = 0xFF then [] else [le b 4 1]) ++ (if le b 5 1 = 0xFF then [] else [le b 5 1])
  let dsts := outs.map (fun o => le o 0 1) ++ extra
  b.length == 64 && decide (le b 0 1 ≤ 63) && decide (1 ≤ n) && decide (n ≤ 4) && decide (m ≤ 4) &&
  fields.all (fun f => decide (le f 0 1 ≤ 63) && decide (le f 1 1 ≤ 1) && decide (1 ≤ le f 3 1) && decide (le f 3 1 ≤ 64) &&
    (le f 1 1 == 0 || le f 3 1 % 4 == 0)) &&
  outs.all (fun o => decide (0x11 ≤ le o 1 1) && decide (le o 1 1 ≤ 0x14) && decide (le o 2 1 ≤ 30) &&
    [1, 2, 4, 8].contains (le o 3 1) && decide (le o 3 1 ≤ 2 ^ (le o 1 1 - 0x11))) &&
  noPair (fun (x y : Bytes) => overlap (le x 2 1, le x 3 1) (le y 2 1, le y 3 1)) fields &&
  dsts.all (fun s => decide (s ≤ 63) && !keys.contains s) && noPair (fun (x y : Nat) => x == y) dsts

/-- A PARTIAL AGGREGATE that writes buffer `buf`. -/
def Image.partialWriter (i : Image) (buf : Nat) : Option Operator :=
  i.ops.find? (fun o => opKind o.kindCode == some .aggregate && bit (le (i.param o) 2 1) 0 &&
    (o.outBuf.take o.outCount).contains buf)

/-- AGGREGATE and MERGE_AGG (R224, R225, R230, R231). -/
def Image.aggregateBlockOk (i : Image) (o : Operator) (merge : Bool) (b : Bytes) : Bool :=
  let keys := slotList b 8 (le b 0 1)
  let fs := (List.range (le b 1 1)).map (fun k => slice b (0x40 + 8 * k) 8)
  let pool := le b 3 1
  let t := i.template o.template
  b.length == 192 && decide (le b 0 1 ≤ 4) && decide (1 ≤ fs.length) && decide (fs.length ≤ 16) && (decide (pool ≤ 1) || pool == 0xFF) &&
  slotListOk b 8 4 (le b 0 1) && decide (le b 0xC 4 ≤ t.localBytes) &&
  fs.all (fun f => decide (1 ≤ le f 0 1) && decide (le f 0 1 ≤ 5) &&
    (if le f 0 1 = 1 then le f 1 1 == 0xFF else decide (le f 1 1 ≤ 63)) && decide (le f 2 1 ≤ 63) && !keys.contains (le f 2 1)) &&
  noPair (fun (x y : Bytes) => le x 2 1 == le y 2 1) fs &&
  (if merge then
    kindIs (i.inBufOf o 0) 3 && t.split == 3 && pow2In 1 4096 t.grain &&
    (match i.partialWriter (o.inBuf.getD 0 0xFFFF) with
     | some w => patch (i.param w) 2 [0] == patch b 2 [0] && w.accScale == o.accScale
     | none => false)
   else !bit (le b 2 1) 0 || kindIs (i.outBufOf o 0) 3)

/-- Does the operator write run records to buffer `buf` (R234, R236, R237)? -/
def Image.runWriter (i : Image) (buf : Nat) : Option Operator :=
  i.ops.find? (fun o => [some OpKind.sortRun, some .merge, some .topN].contains (opKind o.kindCode) &&
    (o.outBuf.take o.outCount).contains buf)

/-- What a reader's block and its writer's must share (R232): KEY_SLOTS, the flags of the keys, STAGE_SLOTS. -/
def sortOrder (b : Bytes) : Bytes × List Nat × Bytes :=
  (slice b 8 4, (List.range (le b 0 1)).map (fun k => le b (0xC + k) 1 % 4), slice b 0x10 16)

/-- SORT_RUN, MERGE and TOP_N (R232, R236). -/
def Image.sortBlockOk (i : Image) (o : Operator) (k : OpKind) (b : Bytes) : Bool :=
  let keys := slotList b 8 (le b 0 1)
  let slots := slotList b 0x10 (le b 1 1)
  let count := le b 4 4
  let t := i.template o.template
  let buffered := (i.inBufOf o 0).isSome || (i.outBufOf o 0).isSome
  b.length == 64 && decide (1 ≤ keys.length) && decide (keys.length ≤ 4) &&
  (if buffered then decide (1 ≤ slots.length) && decide (slots.length ≤ 16) && keys.all (fun s => slots.contains s) else slots.length == 0) &&
  (match k with
   | .sortRun => decide (1024 ≤ count) && decide (count ≤ 65536)
   | .topN => decide (1 ≤ count) && decide (count ≤ 65536)
   | _ => count == 0 && kindIs (i.inBufOf o 0) 3 && t.split == 3 && decide (1 ≤ t.grain) && decide (t.grain ≤ 4096)) &&
  slotListOk b 8 4 (le b 0 1) && slotListOk b 0x10 16 (le b 1 1) &&
  (if k ≠ .sortRun ∧ (i.inBufOf o 0).isSome then
    match i.runWriter (o.inBuf.getD 0 0xFFFF) with
    | some w => sortOrder (i.param w) == sortOrder b
    | none => false
   else true)

/-- WRITE_ROWS (R107). -/
def writeRowsOk (b : Bytes) : Bool :=
  let n := le b 2 2
  let fs := (List.range n).map (fun k => slice b (16 + 8 * k) 8)
  decide (8 ≤ le b 0 2) && decide (le b 0 2 ≤ 4096) && decide (1 ≤ n) && decide (n ≤ 64) && b.length == 16 + 8 * n &&
  fs.all (fun f => decide (le f 0 1 ≤ 63) && decide (le f 2 2 + le f 4 2 ≤ le b 0 2)) &&
  noPair (fun (x y : Bytes) => overlap (le x 2 2, le x 4 2) (le y 2 2, le y 4 2)) fs

/-- DIGEST (R492). -/
def Image.digestBlockOk (i : Image) (o : Operator) (b : Bytes) : Bool :=
  b.length == 64 && (i.template o.template).split == 0 && (digestAlg (le b 0 1)).isSome && (!bit (le b 1 1) 1 || decide (1 ≤ le b 2 1)) &&
  (i.inBufOf o 0).isSome && (i.outBufOf o 0).isSome && (i.inBufOf o 1).isSome == bit (le b 1 1) 0 &&
  (i.inBufOf o 2).isSome == bit (le b 1 1) 1

/-! ### The whole program -/

/-- The parameter block of operator `n`. -/
def Image.paramOk (i : Image) (n : Nat) : Bool :=
  let o := i.op n
  let b := i.param o
  o.paramOff % 16 == 0 && decide (o.paramOff + o.paramBytes ≤ i.constBytes) && b.length == o.paramBytes &&
  (match opKind o.kindCode with
   | none => false
   | some .filter => i.filterBlockOk o b
   | some .gather => i.gatherBlockOk n o b
   | some .compute => computeBlockOk b
   | some .partition => i.partitionBlockOk n b
   | some .hashBuild => i.buildBlockOk n o b
   | some .hashProbe => i.probeBlockOk n b
   | some .catLookup => lookupBlockOk b
   | some .aggregate => i.aggregateBlockOk o false b
   | some .mergeAgg => i.aggregateBlockOk o true b
   | some .sortRun => i.sortBlockOk o .sortRun b
   | some .merge => i.sortBlockOk o .merge b
   | some .topN => i.sortBlockOk o .topN b
   | some .writeRows => writeRowsOk b
   | some .writeSegments => b.length == 16 && decide (le b 0 1 ≤ 1)
   | some .digest => i.digestBlockOk o b
   | some .custom => true)

/-- The RESULT buffers that a LEDGER group's ports name (R238). -/
def Image.ledgerOk (i : Image) (t : Nat) : Bool :=
  if i.ledgerGroup t then
    let bufs := (i.group t).flatMap (fun n => let o := i.op n; (o.outBuf.take o.outCount).filter (fun b => b != 0xFFFF))
    bufs.all (fun b => (i.buffer b).kind == 3) && decide (bufs.eraseDups.length ≤ 4)
  else true

/-- The STREAM edges (R120, R197, R200): at most four, each into a PER_PARTITION template of as many tasks as partitions; one PARTITION
in a group. -/
def Image.streamsOk (i : Image) : Bool :=
  decide (i.streams.length ≤ 4) &&
  i.streams.all (fun e =>
    let t := i.template (i.op e.dst).template
    t.split == 2 && t.grain == le (i.param (i.op e.src)) 4 4) &&
  (List.range i.templateCount).all (fun t =>
    decide (((i.group t).filter (fun n => opKind (i.op n).kindCode == some .partition)).length ≤ 1))

/-- Every parameter block. -/
def Image.paramsOk (i : Image) : Bool :=
  (List.range i.opCount).all i.paramOk && i.streamsOk && (List.range i.templateCount).all i.ledgerOk

/-- The checks of PIPELINE_LOAD on `length` fetched bytes, in table order (R124): the first failing status. -/
def Image.check (i : Image) (length : Nat) : Option Nat :=
  if length < 128 ∨ length < i.imageBytes then some 0x0200
  else if !i.headerOk then some 0x0201
  else if !i.crcOk then some 0x0402
  else if !(i.layoutOk && i.opsOk && i.edgesOk && i.tablesOk && i.paramsOk) then some 0x0201
  else none

end Sys2Proof.Machine
end

