-- ==== Sys2Proof/Machine/Pipeline.lean ====
section
/-!
DEFINITION. The pipeline commands (R124 to R130), DOC_TCANCEL (R151), what a gallery's TASKDONE delivers (R117, R239, R330), the ledger
comparator (R240 to R242), the reset of a core that ignores its cancel (R129), and the share epoch (R501).
-/

namespace Sys2Proof.Machine

/-! ### Room (log entry 36) -/

/-- The lowest 4 KiB-aligned place of `n` bytes between `lo` and `hi` that meets none of the taken ranges. -/
def firstFit (taken : List (Nat × Nat)) (n lo hi : Nat) : Option Nat :=
  least ((lo :: taken.map (fun (t : Nat × Nat) => roundUp (t.1 + t.2) 4096)).filter (fun a =>
    decide (lo ≤ a) && decide (a + n ≤ hi) && taken.all (fun t => !overlap (a, n) t)))

/-- What the Atrium store holds: program images, buffers placed there, fenced banks. -/
def Dev.atriumTaken (d : Dev) : List (Nat × Nat) :=
  d.excOwn ++
  d.doc.programs.map (fun (p : Nat × Program) => (p.2.addr, p.2.bytes)) ++
  d.heldBuffers.map (fun (b : Nat × Nat × Nat) => (b.1, b.2.1)) ++
  (d.saf.fences.filter (fun (f : Nat × Nat) => f.1 == Blk.atrium)).map (fun f => (0x100000 * f.2, 0x100000))

/-- Device memory that CARRY leaves of instances other than 0 map: (device address, bytes). An import allocates it (R510). -/
def Dev.carriedPages (d : Dev) : List (Nat × Nat) :=
  (List.range 256).flatMap (fun i => if i = 0 then [] else (d.leavesOf i).filterMap (fun (l : Nat × Nat × Nat) =>
    if bit l.2.2 6 && !bit l.2.2 5 then some (bits l.2.2 51 12 <<< 12, levelSize l.2.1) else none))

/-- What DRAM holds: buffers, staging pools, the table region, and pages that imports allocated. -/
def Dev.dramTaken (d : Dev) : List (Nat × Nat) :=
  d.carriedPages ++
  d.heldBuffers.map (fun (b : Nat × Nat × Nat) => (b.1, b.2.1)) ++
  [0, 1].map (fun k => (d.getF (R.excPoolBase k) 63 12 * 4096, 4096 * d.getF (R.excPoolSize k) 31 0)) ++
  [(d.tableBase, 4096 * d.ins.tableLimit)]

/-- A place in the Atrium store. -/
def Dev.atriumPlace (d : Dev) (n : Nat) : Option Nat := firstFit d.atriumTaken n 0 0x4000000

/-- The sets a buffer may lie in (R365). -/
def Dev.bufferSets (d : Dev) (annex ledger : Bool) : List MemSet :=
  let xs := ((List.range 16).map d.memSet).filter (fun s => s.enable && s.role == 0 && s.annex == annex)
  let reg := xs.filter (fun s => s.ledger)
  if ledger && !reg.isEmpty then reg else xs.filter (fun s => !s.ledger)

/-- A place for a SCRATCH or RESULT buffer. -/
def Dev.bufferPlace (d : Dev) (b : Buffer) (ledger : Bool) (new : List (Nat × Nat)) : Option Nat :=
  match b.place with
  | 0 => firstFit (new ++ d.atriumTaken) b.length 0 0x4000000
  | p => least ((d.bufferSets (p == 2) ledger).filterMap (fun s => firstFit (new ++ d.dramTaken) b.length s.base (s.base + s.size)))

/-- Does a LEDGER group write buffer `b`? -/
def Image.ledgerBuffer (i : Image) (b : Nat) : Bool := i.ops.any (fun o => o.ledger && (o.outBuf.take o.outCount).contains b)

/-- Places for buffers, each (number, address, bytes); none where one finds no room. -/
def Dev.placeBuffers (d : Dev) (i : Image) : List Nat → List (Nat × Nat × Nat) → Option (List (Nat × Nat × Nat))
  | [], done => some done
  | n :: rest, done =>
    let b := i.buffer n
    match d.bufferPlace b (i.ledgerBuffer n) (done.map (fun (x : Nat × Nat × Nat) => (x.2.1, x.2.2))) with
    | none => none
    | some a => d.placeBuffers i rest (done ++ [(n, a, b.length)])

/-! ### PIPELINE_LOAD (R124, R126) -/

/-- The Docent's accesses (R506). -/
def docWho (run : Nat) : Who := { source := 7, unit := 0xFF, run := run }

/-- Is a slot's program in use: a run in progress, or retained results? -/
def Dev.slotBusy (d : Dev) (inst slot : Nat) : Bool :=
  d.doc.runs.any (fun (e : Nat × Run) => e.2.inst == inst && e.2.slot == slot)

/-- Read a structure that a pipeline command names: its bytes, or the state after the command has completed. -/
def Dev.docRead (d : Dev) (c : CoreSt) (x : Cmd) (run va n : Nat) : Dev × Except Dev Bytes :=
  match d.load c (docWho run) x.inst va n with
  | (d, .ok (bs, false)) => (d, .ok bs)
  | (d, .ok (_, true)) => (d, .error (d.finish c x 0 0x0401))
  | (d, .error f) => (d, .error ((d.recordFail c (docWho run) x.inst false f).finish c x 0 f.status))

/-- Place a valid image. The old image of the slot stands until the commit. -/
def Dev.commitLoad (d : Dev) (c : CoreSt) (x : Cmd) (slot length : Nat) (i : Image) : Dev :=
  let n := i.imageBytes
  if 1024 * (d.inst x.inst).share.atriumKib < d.atriumUsed x.inst + n then d.finish c x 0 0x0501
  else match d.atriumPlace n with
    | none => d.finish c x 0 0x0501
    | some a =>
      let d := { d with
        mem := d.mem.setN (Key.atrium a) (i.take n)
        doc := { d.doc with programs := put d.doc.programs (64 * x.inst + slot) { addr := a, bytes := n } } }
      d.finish c x n (if n < length then 0x0001 else 0)

/-- PIPELINE_LOAD. -/
def Dev.pipelineLoad (d : Dev) (c : CoreSt) (x : Cmd) : Dev :=
  let a := x.area
  let src := le a 0 8
  let length := le a 8 4
  let slot := le a 0xC 1
  if 63 < slot then d.finish c x 0 0x0201
  else if d.slotBusy x.inst slot then d.finish c x 0 0x0500
  else if length = 0 then
    ({ d with doc := { d.doc with programs := del d.doc.programs (64 * x.inst + slot) } }).finish c x 0 0
  else if length < 128 then d.finish c x 0 0x0200
  else match d.docRead c x 0 src 128 with
    | (_, .error d) => d
    | (d, .ok h) =>
      let header : Image := h
      if length < header.imageBytes ∨ !header.headerOk then d.finish c x 0 ((header.check length).getD 0x0201)
      else match d.docRead c x 0 src header.imageBytes with
        | (_, .error d) => d
        | (d, .ok i) =>
          match Image.check i length with
          | some st => d.finish c x 0 st
          | none => d.commitLoad c x slot length i

/-- PIPELINE_LOAD, at the run arbiter. -/
def execPipelineLoad (ref : CmdRef) (s : State) : Host.Outcome State Fault Refusal :=
  s.onDev (fun c d =>
    match d.take ref 0x10 isDocentOp with
    | some x => d.pipelineLoad c x
    | none => d)

/-! ### PIPELINE_RUN (R125, R127) -/

/-- The first bound buffer outside the instance's mappings: the failed access and whether it is a store. -/
def Dev.boundFault (d : Dev) (w : Who) (inst : Nat) (i : Image) (params : Bytes) : Option (AccFail × Bool) :=
  i.buffers.findSome? (fun (b : Buffer) =>
    if b.bind = 1 ∧ (b.kind = 0 ∨ b.kind = 1 ∨ b.kind = 4) then
      let (a, n) := b.bound params
      let look1 (write : Bool) : Option (AccFail × Bool) :=
        match d.checkInst w inst a n write with
        | some (.viol x r h) => some (.viol x r h, write)
        | _ => none
      ((if bit b.access 0 then look1 false else none).orElse (fun _ => if bit b.access 1 then look1 true else none))
    else none)

/-- Do the ONE_TO_ONE edges join equal counts of tasks, do TABLE buffers hold their segment maps, and do bound CONSTANT buffers lie in the
constant section (log entry 135)? -/
def Image.runOk (i : Image) (params : Bytes) : Bool :=
  i.edges.all (fun e => e.fan != 3 || i.logicalTasks (i.op e.src).template == i.logicalTasks (i.op e.dst).template) &&
  i.buffers.all (fun b => (b.kind != 0 || decide (8 * b.rowGroups * b.columns ≤ (b.bound params).2)) &&
    (b.kind != 5 || decide ((b.bound params).1 + (b.bound params).2 ≤ i.constBytes)))

/-- The first of `n` contiguous contexts outside the reserve, lowest first (R134, R135). -/
def Dev.contextPlace (d : Dev) (n : Nat) : Option Nat :=
  let taken := d.live.map (fun (e : Nat × Run) => (e.2.first, e.2.contexts))
  least ((0 :: taken.map (fun (t : Nat × Nat) => t.1 + t.2)).filter (fun a =>
    decide (a + n ≤ Config.shareContexts) && taken.all (fun t => !overlap (a, n) t)))

/-- Do contexts, SCRATCH and RESULT buffers stay within the instance's share? -/
def Dev.runShareOk (d : Dev) (inst : Nat) (i : Image) : Bool :=
  let s := (d.inst inst).share
  let bytes (p : Nat) : Nat := total ((i.scratches ++ i.results).map (fun n => if (i.buffer n).place = p then (i.buffer n).length else 0))
  let used := total ((d.live.filter (fun (e : Nat × Run) => e.2.inst == inst)).map (fun e => e.2.contexts))
  decide (used + i.contexts ≤ s.contexts) && decide (d.atriumUsed inst + bytes 0 ≤ 1024 * s.atriumKib) &&
  decide (d.memUsed inst false + bytes 1 ≤ d.memQuota inst false) && decide (d.memUsed inst true + bytes 2 ≤ d.memQuota inst true)

/-- The lowest run handle that no run holds and no notice to the Exchange names any more. -/
def Dev.freeHandle (d : Dev) : Option Nat :=
  (List.range Config.runEntries).find? (fun h => (d.run h).isNone && !d.exc.notices.contains (ExcNotice.runEnd h))

/-- Accept a run: it takes its contexts and buffers. -/
def Dev.acceptRun (d : Dev) (c : CoreSt) (x : Cmd) (i : Image) (params : Bytes) : Dev :=
  let a := x.area
  match d.freeHandle, d.contextPlace i.contexts, d.placeBuffers i (i.scratches ++ i.results) [] with
  | some h, some first, some places =>
    let prio := le a 0xD 1
    let r : Run := {
      inst := x.inst
      runId := le a 0xE 2
      slot := le a 0xC 1
      prio := if prio = 0xFF then i.defaultPriority else prio
      cmd := some (x.pair, x.cid)
      truncated := decide (i.paramBytes < le a 8 4)
      params := params
      first := first
      contexts := i.contexts
      order := d.doc.accepted + 1
      scratch := places.filter (fun (p : Nat × Nat × Nat) => i.scratches.contains p.1)
      results := places.filter (fun (p : Nat × Nat × Nat) => i.results.contains p.1) }
    let d := d.startCmd x.inst x.pair x.cid
    (({ d with doc := { d.doc with accepted := d.doc.accepted + 1 } }).setRun h r).settleRun c h
  | _, _, _ => d.finish c x 0 0x0501

/-- PIPELINE_RUN. -/
def Dev.pipelineRun (d : Dev) (c : CoreSt) (x : Cmd) : Dev :=
  let a := x.area
  let slot := le a 0xC 1
  let prio := le a 0xD 1
  let runId := le a 0xE 2
  match (if slot ≤ 63 then d.image x.inst slot else none) with
  | none => d.finish c x 0 0x0201
  | some i =>
    let mine := d.live.filter (fun (e : Nat × Run) => e.2.inst == x.inst)
    if d.doc.runs.any (fun (e : Nat × Run) => e.2.inst == x.inst && e.2.runId == runId) then d.finish c x 0 0x0201
    else if 8 ≤ prio ∧ prio ≠ 0xFF then d.finish c x 0 0x0201
    else if le a 8 4 < i.paramBytes then d.finish c x 0 0x0200
    else if Config.instRuns ≤ mine.length ∨ d.freeHandle.isNone then d.finish c x 0 0x0500
    else match d.docRead c x runId (le a 0 8) i.paramBytes with
      | (_, .error d) => d
      | (d, .ok params) =>
        match d.boundFault (docWho runId) x.inst i params with
        | some (f, write) => (d.recordFail c (docWho runId) x.inst write f).finish c x 0 0x0302
        | none =>
          if !i.runOk params then d.finish c x 0 0x0201
          else if !d.runShareOk x.inst i then d.finish c x 0 0x0501
          else d.acceptRun c x i params

/-- PIPELINE_RUN, at the run arbiter. -/
def execPipelineRun (ref : CmdRef) (s : State) : Host.Outcome State Fault Refusal :=
  s.onDev (fun c d =>
    match d.take ref 0x11 isDocentOp with
    | some x => d.pipelineRun c x
    | none => d)

/-! ### PIPELINE_CANCEL, DOC_TCANCEL (R128, R151) -/

/-- The run in progress of an instance with a RUN_ID. -/
def Dev.liveRun (d : Dev) (inst runId : Nat) : Option Nat :=
  (d.live.find? (fun (e : Nat × Run) => e.2.inst == inst && e.2.runId == runId)).map (fun e => e.1)

/-- The retained results of a RUN_ID. -/
def Dev.retained (d : Dev) (inst runId : Nat) : Option (Nat × Run) :=
  d.doc.runs.find? (fun (e : Nat × Run) => e.2.ended && e.2.inst == inst && e.2.runId == runId)

/-- PIPELINE_CANCEL: the cancel waits for its decision; the command completes there. -/
def Dev.pipelineCancel (d : Dev) (c : CoreSt) (x : Cmd) : Dev :=
  let runId := le x.area 0 2
  match d.liveRun x.inst runId with
  | some h =>
    let d := d.startCmd x.inst x.pair x.cid
    { d with doc := { d.doc with cancels := d.doc.cancels ++ [{ run := h, cmd := some (x.inst, x.pair, x.cid) }] } }
  | none => d.finish c x (if (d.retained x.inst runId).isSome then 1 else 2) 0

/-- PIPELINE_CANCEL, at the run arbiter. -/
def execPipelineCancel (ref : CmdRef) (s : State) : Host.Outcome State Fault Refusal :=
  s.onDev (fun c d =>
    match d.take ref 0x12 isDocentOp with
    | some x => d.pipelineCancel c x
    | none => d)

/-- DOC_TCANCEL: INSTANCE, RUN_ID and TASK. -/
def Dev.docTcancel (d : Dev) (v : Word) : Dev :=
  match d.liveRun (fld v 63 56) (fld v 55 40) with
  | some h => { d with doc := { d.doc with cancels := d.doc.cancels ++ [{ run := h, task := some (fld v 20 0) }] } }
  | none => d.setFlag R.docStatus 2 true

/-- DOC_TCANCEL, from the manager (R163). -/
def execDocTcancel (src : Source) (v : BitVec 64) (s : State) : Host.Outcome State Fault Refusal :=
  s.onDev (fun c d => if d.isManager c src then d.docTcancel v else d)

/-! ### RESULT_READ (R117, R130) -/

/-- The extents of a buffer in reading order: by task, then in the order they were taken. -/
def Run.ordered (r : Run) (buffer : Nat) : List Extent :=
  sortBy (fun (a b : Extent) => decide (a.task < b.task)) (r.extents.filter (fun (e : Extent) => e.buffer == buffer))

/-- The device addresses of `n` readable bytes from `off` on, as segments. -/
def spans : Nat → Nat → List Extent → List (Nat × Nat)
  | _, _, [] => []
  | off, n, e :: rest =>
    if n = 0 then []
    else if e.bytes ≤ off then spans (off - e.bytes) n rest
    else
      let k := min n (e.bytes - off)
      (e.addr + off, k) :: spans 0 (n - k) rest

/-- Read segments of device memory one after the other. -/
def Dev.readSpans (d : Dev) : List (Nat × Nat) → Rd
  | [] => .ok []
  | (a, n) :: rest => (d.readPA a n).join (d.readSpans rest)

/-- The first of these ranges that answers with an error response (R360). -/
def Dev.spanFault (d : Dev) (segs : List (Nat × Nat)) : Option AccFail :=
  segs.findSome? (fun (e : Nat × Nat) => match d.readPA e.1 e.2 with
    | .err r => some (.bus e.1 r)
    | _ => none)

/-- Release the results of a run. -/
def Dev.releaseRun (d : Dev) (key : Nat) : Dev := { d with doc := { d.doc with runs := del d.doc.runs key } }

/-- RESULT_READ. -/
def Dev.resultRead (d : Dev) (c : CoreSt) (x : Cmd) : Dev :=
  let a := x.area
  let off := le a 8 8
  let want := le a 0x10 4
  let runId := le a 0x14 2
  let buffer := le a 0x16 1
  match d.retained x.inst runId with
  | none => d.finish c x 0 0x0201
  | some (key, r) =>
    if !r.results.any (fun (b : Nat × Nat × Nat) => b.1 == buffer) then d.finish c x 0 0x0201
    else
      let es := r.ordered buffer
      let have_ := total (es.map (fun (e : Extent) => e.bytes))
      let n := min want (have_ - off)
      let segs := spans off n es
      let d := each segs (fun (e : Nat × Nat) (d : Dev) => d.acceptRange c false 1 e.1 e.2) d
      let (w, d) := d.deviceChannel runId
      let w := { w with job := x.job }
      match d.readSpans segs, d.spanFault segs with
      | .ok bs, _ =>
        (match d.writeInst c w x.inst (le a 0 8) bs with
         | (d, some f) => (d.recordFail c w x.inst true f).finish c x 0 f.status
         | (d, none) => (if bit (le a 0x17 1) 0 then d.releaseRun key else d).finish c x n (if have_ < off + want then 0x0001 else 0))
      | _, some f => (d.recordFail c w x.inst false f).finish c x 0 f.status
      | _, none => d.finish c x 0 0x0401

/-- RESULT_READ, at the run arbiter. -/
def execResultRead (ref : CmdRef) (s : State) : Host.Outcome State Fault Refusal :=
  s.onDev (fun c d =>
    match d.take ref 0x13 isDocentOp with
    | some x => d.resultRead c x
    | none => d)

/-! ### TASKDONE (R117, R143, R239, R330) -/

/-- One byte into the CRC-64 of R239, most significant bit first. -/
def crc64Byte (r : Nat) (b : Byte) : Nat :=
  (List.range 8).foldl (fun (r : Nat) _ => if bit r 63 then (2 * r % 2 ^ 64) ^^^ 0x42F0E1EBA9EA3693 else 2 * r % 2 ^ 64) (r ^^^ b.toNat <<< 56)

/-- The CRC-64 of R239. -/
def crc64 (bs : Bytes) : Nat := bs.foldl crc64Byte (2 ^ 64 - 1) ^^^ (2 ^ 64 - 1)

/-- The bytes a task wrote to a buffer. -/
def writtenTo (w : List (BitVec 8 × Bytes)) (buffer : Nat) : Bytes :=
  (w.filter (fun (x : BitVec 8 × Bytes) => x.1.toNat == buffer)).flatMap (fun x => x.2)

/-- The check record of a LEDGER copy (R239), 128 bytes, over the RESULT buffers that its group names. -/
def Image.checkRecord (i : Image) (t status : Nat) (w : List (BitVec 8 × Bytes)) : Bytes :=
  let bufs := sortNat (((i.group t).flatMap (fun n => let o := i.op n; (o.outBuf.take o.outCount).filter (fun b => b != 0xFFFF))).eraseDups)
  padTo 128 (toLE 2 status ++ toLE 1 bufs.length ++ List.replicate 13 0 ++
    bufs.flatMap (fun b => toLE 2 b ++ List.replicate 6 0 ++ toLE 8 (writtenTo w b).length ++ toLE 8 (crc64 (writtenTo w b))))

/-- Extents of a run's buffer that are free, lowest first. -/
def Run.freeExtents (r : Run) (buffer : Nat) : List Nat :=
  match r.results.find? (fun (b : Nat × Nat × Nat) => b.1 == buffer) with
  | none => []
  | some (_, a, n) =>
    ((List.range (n / 65536)).map (fun k => a + 65536 * k)).filter (fun x => !r.extents.any (fun (e : Extent) => e.addr == x))

/-- Write a task's bytes to a RESULT buffer in 64 KiB extents, `fuel` of them: the status of the first failure, of want of an extent (R117) or
of a write. An unmapped address is recorded (R360). -/
def Dev.putExtents (d : Dev) (c : CoreSt) (w : Who) (inst h buffer key : Nat) : Nat → Bytes → Dev × Option Nat
  | 0, bs => (d, if bs.isEmpty then none else some 0x0200)
  | fuel + 1, bs =>
    if bs.isEmpty then (d, none)
    else match (d.run h).bind (fun r => (r.freeExtents buffer).head?) with
      | none => (d, some 0x0200)
      | some a =>
        let part := bs.take 65536
        let e : Extent := { buffer := buffer, addr := a, task := key, bytes := part.length }
        let d := d.updRun h (fun r => { r with extents := r.extents ++ [e] })
        match (d.acceptRange c true 0 a part.length).writePA w a part with
        | (d, some r) => let f := AccFail.bus a r; (d.recordFail c w inst true f, some f.status)
        | (d, none) => d.putExtents c w inst h buffer key fuel (bs.drop 65536)

/-- Write all that a task wrote, up to the first failure of each buffer: its status. -/
def Dev.putResults (d : Dev) (c : CoreSt) (who : Who) (h key : Nat) (r : Run) (w : List (BitVec 8 × Bytes)) : Dev × Option Nat :=
  r.results.foldl (fun (acc : Dev × Option Nat) (b : Nat × Nat × Nat) =>
    let bs := writtenTo w b.1
    let (d, e) := acc.1.putExtents c who r.inst h b.1 key (bs.length / 65536 + 1) bs
    (d, acc.2.orElse (fun _ => e))) (d, none)

/-- Does physical gallery `p` have posted writes without their response (R26, R202, R269, R376)? -/
def Dev.writesOut (d : Dev) (p : Nat) : Bool :=
  d.exc.ingress.any (fun (x : ExcSend) => x.gal == p) || d.cat.held.any (fun (h : Nat × Nat) => h.1 == p) ||
    d.awaits (d.galleryWho p)

/-- A completion enters the intake, or its gallery holds it. -/
def Dev.offer (d : Dev) (x : Completion) : Dev :=
  if d.doc.intake.length < Config.intakeEntries then { d with doc := { d.doc with intake := d.doc.intake ++ [x] } }
  else
    { d with doc := { d.doc with
      held := d.doc.held ++ [x]
      gal := if look d.doc.gal x.gal .idle = .running then put d.doc.gal x.gal .held else d.doc.gal } }

/-! ### CANCEL_TIMEOUT (R129) -/

/-- The task of logical gallery `g` has not ended 1 ms after TASK_CANCEL: its core is reset, firmware reloaded, the Docent noticed. -/
def Dev.cancelTimeout (d : Dev) (g : Nat) : Dev :=
  match find d.doc.task g with
  | none => d
  | some (h, key) =>
    match (d.run h).bind (fun r => find r.tasks key) with
    | none => d
    | some t =>
      if t.cancelReq && !d.completing h key then
        let d := d.loadCore (d.phys g)
        { d with doc := { d.doc with notices := d.doc.notices ++ [.coreReset g] } }
      else d

/-- CANCEL_TIMEOUT. -/
def execCancelTimeout (g : Fin 128) (s : State) : Host.Outcome State Fault Refusal :=
  s.onDev (fun _ d => d.cancelTimeout g.val)

/-! ### SHARE_EPOCH (R501) -/

/-- Every share that waits takes effect. -/
def Dev.shareEpoch (d : Dev) : Dev :=
  ({ d with ins := { d.ins with inst := d.ins.inst.map (fun (e : Nat × Inst) => match e.2.nextShare with
    | some n => (e.1, { e.2 with share := n, nextShare := none })
    | none => e) } }).dmaBalance

/-- SHARE_EPOCH: DEV_TIME reaches a multiple of 100,000 ns. -/
def execShareEpoch (s : State) : Host.Outcome State Fault Refusal := s.onDev (fun _ d => d.shareEpoch)

/-! ### The ledger comparator (R240 to R242) -/

/-- Do two check records agree? -/
def agree (a b : Bytes) : Bool :=
  let s := le a 0 2
  let t := le b 0 2
  if s < 0x100 then decide (t < 0x100) && a == b else s == t

/-- The verdict of an agreement on copy `k`. -/
def agreed (k : Nat) (record : Bytes) : Verdict := if le record 0 2 < 0x100 then .accept k else .fail (le record 0 2)

/-- The comparator's verdict on a logical task, once the records it needs have come. -/
def ledgerVerdictOf (a b : Task) (third : Option Task) : Option Verdict :=
  if a.st ≠ .comparing ∨ b.st ≠ .comparing then none
  else match third with
    | none => some (if agree a.check b.check then agreed 0 a.check else .vote)
    | some t =>
      if t.st ≠ .comparing then none
      else if agree t.check a.check then some (agreed 0 a.check)
      else if agree t.check b.check then some (agreed 1 b.check)
      else some (.fail 0x0403)

/-- The comparator sends its verdict on the logical task whose copy 0 has number `n` to the Docent; an outvoted gallery is claimed for a
test. -/
def Dev.ledgerVerdict (d : Dev) (c : CoreSt) (h n : Nat) : Dev :=
  match d.run h, d.runImage h with
  | some r, some i =>
    if r.contexts ≤ n + 1 ∨ (r.task i n).copy ≠ 0 ∨ !(r.task i n).ledger ∨
        d.doc.verdicts.any (fun (v : Nat × Nat × Verdict) => v.1 == h && v.2.1 == n) then d
    else
      let third := find r.tasks (thirdKey n)
      match ledgerVerdictOf (r.task i n) (r.task i (n + 1)) third with
      | none => d
      | some v =>
        let d := { d with doc := { d.doc with verdicts := d.doc.verdicts ++ [(h, n, v)] } }
        (match third.bind (fun t => outvoted (r.task i n) (r.task i (n + 1)) t v) with
         | some g => d.outvote c (d.phys g)
         | none => d)
  | _, _ => d

/-- LEDGER_VERDICT. -/
def execLedgerVerdict (run : Fin 1024) (task : BitVec 21) (s : State) : Host.Outcome State Fault Refusal :=
  s.onDev (fun c d => d.ledgerVerdict c run.val task.toNat)

end Sys2Proof.Machine
end

