-- ==== Sys2Proof/Machine/Views.lean ====
section
/-!
DEFINITION. What a read of a register returns (R4, R578): the register as `Dev.regs` keeps it, with the read-only fields that
report another block's state computed from that state. No read changes anything (R578).
-/

namespace Sys2Proof.Machine

/-- The element of an array of `n` registers, 8 bytes apart from `base`, that an offset names. -/
def regIndex (off base n : Nat) : Option Nat :=
  if base ≤ off ∧ off < base + 8 * n ∧ off % 8 = 0 then some ((off - base) / 8) else none

/-- A register with fields replaced: (highest bit, lowest bit, value). -/
def overlay_ (v : Word) (fs : List (Nat × Nat × Nat)) : Word := fs.foldl (fun (v : Word) f => setFld v f.1 f.2.1 f.2.2) v

/-! ### DEV, EVT, DOC (R65, R472, R163) -/

/-- DEV_MODE. -/
def modeWord (c : CoreSt) : Word := BitVec.ofNat 64 (c.mode.code + c.prev.code <<< 8)

/-- DEV_STATUS. -/
def Dev.statusWord (d : Dev) (c : CoreSt) : Word :=
  let valid := match d.acc.dump with | some u => u.valid | none => false
  let flagged := match d.acc.dump with | some u => u.valid && u.flagged && !u.ordered | none => false
  overlay_ (d.reg R.devStatus) [(9, 9, b2n flagged), (8, 8, b2n valid), (7, 7, b2n (c.pfailLow || c.dumping)),
    (3, 3, b2n (d.acc.maint.any (fun (m : Maint) => m.volume == 0xFFFF)))]

/-- The DEV block. -/
def Dev.viewDev (d : Dev) (c : CoreSt) (off : Nat) (v : Word) : Word :=
  if off = R.devTime then c.time else if off = R.devMode then modeWord c else if off = R.devStatus then d.statusWord c else v

/-- Is source `n` pending for some target (EVT_PEND)? The bit stays set while a delivery is unclaimed (R466). -/
def Dev.evtPending (d : Dev) (n : Nat) : Bool :=
  let set (s : EvtSlot) : Bool := s.pend || s.deliv.isSome
  set (look d.evt.routed n {}) || d.evt.directed.any (fun (e : Nat × EvtSlot) => e.1 / 128 == n && set e.2)

/-- Codes of EVT_GAL[g].STATE. -/
def EvtGalSt.code : EvtGalSt → Nat
  | .active => 0
  | .asleep => 1
  | .withdrawn => 2

/-- The EVT block. -/
def Dev.viewEvt (d : Dev) (off : Nat) (v : Word) : Word :=
  match regIndex off (R.evtPend 0) 128, regIndex off (R.evtGal 0) 128, regIndex off (R.evtInst 0) 256 with
  | some n, _, _ => BitVec.ofNat 64 (maskOf (fun k => d.evtPending (64 * n + k)))
  | _, some g, _ => overlay_ v [(63, 62, (look d.evt.gal g .active).code), (47, 32, (d.deliveredTo g).length),
      (15, 0, look d.evt.lastClaim g 0xFFFF)]
  | _, _, some i =>
    let mask := match d.presenter i with | some (p, f) => (d.func p f).funcMask | none => false
    overlay_ v [(63, 63, b2n (d.presenter i).isSome), (62, 62, b2n mask),
      (6, 0, (d.vectorsWith EvtSlot.waits).countP (fun v => v / 64 == i))]
  | _, _, _ => v

/-- Does level `k` hold expansion back (DOC_STATUS.LEVEL_HOLD)? -/
def Dev.levelHeld (d : Dev) (k : Nat) : Bool :=
  !(d.chain k).isEmpty || decide (Config.levelEntries - d.getF R.docReserve 15 0 ≤ (d.ready k).length)

/-- Codes of DOC_GAL[g].STATE. -/
def GalSt.code : GalSt → Nat
  | .idle => 0
  | .running => 1
  | .testPending => 2
  | .test => 3
  | .fenced => 4
  | .absent => 5
  | .held => 6

/-- DOC_GAL[g]. -/
def Dev.viewGal (d : Dev) (g : Nat) : Word :=
  let st := look d.doc.gal g .idle
  let fixed := [(63, 61, st.code), (60, 60, b2n (d.doc.hot.contains g))]
  match st == .running || st == .testPending || st == .held, find d.doc.task g with
  | true, some (h, key) =>
    match d.run h with
    | some r =>
      let t := (find r.tasks key).getD {}
      overlay_ 0 (fixed ++ [(59, 58, t.copy), (57, 55, t.attempt), (52, 45, r.inst), (44, 29, r.runId), (20, 0, keyTask key)])
    | none => overlay_ 0 fixed
  | _, _ => overlay_ 0 fixed

/-- The DOC block. -/
def Dev.viewDoc (d : Dev) (c : CoreSt) (off : Nat) (v : Word) : Word :=
  let bitsOf (n : Nat) (p : Nat → Bool) : Word := BitVec.ofNat 64 (maskOf (fun k => p (64 * n + k)))
  if off = R.docStatus then
    overlay_ v [(16, 16, b2n (decide (Config.intakeEntries ≤ d.doc.intake.length))),
      (15, 8, maskOf (fun k => decide (k < 8) && d.levelHeld k)), (1, 1, b2n (d.flag R.docStatus 0 && c.mode != .service))]
  else if off = R.docContexts then
    overlay_ v [(53, 32, total (d.live.map (fun (e : Nat × Run) => e.2.contexts)) + d.reserveUsed),
      (16, 0, Config.reserveContexts - d.reserveUsed)]
  else match regIndex off (R.docHot 0) 2, regIndex off (R.docTest 0) 2, regIndex off (R.docLevel 0) 8, regIndex off (R.docGal 0) 128,
      regIndex off (R.docInst 0) 256 with
  | some n, _, _, _, _ => bitsOf n (fun g => d.doc.hot.contains g)
  | _, some n, _, _, _ => bitsOf n (fun g => look d.doc.gal g .idle == .test || look d.doc.gal g .idle == .testPending)
  | _, _, some k, _, _ => overlay_ v [(48, 48, b2n (d.levelHeld k)), (47, 26, (d.chain k).length), (16, 0, (d.ready k).length)]
  | _, _, _, some g, _ => d.viewGal g
  | _, _, _, _, some i =>
    let waiting (r : Run) : Nat := r.tasks.countP (fun (t : Nat × Task) => t.2.st == .ready || t.2.st == .released)
    overlay_ v [(33, 33, b2n (decide ((d.running i).length < (d.inst i).share.galMin))), (32, 32, b2n (d.doc.holds.contains i)),
      (29, 8, total ((d.live.filter (fun (e : Nat × Run) => e.2.inst == i)).map (fun e => waiting e.2))), (7, 0, (d.running i).length)]
  | _, _, _, _, _ => v

/-! ### DMA, FOL, PRV, CAT (R454, R301, R493, R278) -/

/-- Does a chain hold its record for a full completion queue (R446)? -/
def Dev.dmaHolds (d : Dev) (x : DmaChain) : Bool :=
  x.isEnded && (match find d.dma.cq x.gal with | some q => decide (q.size ≤ q.posted + 1) | none => false)

/-- DMA_CH[c]. -/
def Dev.viewCh (d : Dev) (ch : Nat) : Word :=
  let xs := d.dmaChains ch
  let parked (x : DmaChain) : Bool := match x.st with | .parked => true | _ => false
  let st := if xs.isEmpty then 0 else if xs.any d.dmaHolds then 3 else if xs.all parked then 2 else 1
  let served := match xs.find? DmaChain.isMoving with
    | some x => [(39, 32, (d.logicalOf x.gal).getD 0), (31, 16, x.descTag)]
    | none => []
  overlay_ 0 ([(63, 61, st), (60, 60, b2n (decide (ch < 8))), (59, 52, (find d.dma.owner ch).getD 0), (51, 47, xs.length)] ++ served)

/-- The DMA block. -/
def Dev.viewDma (d : Dev) (off : Nat) (v : Word) : Word :=
  if off = R.dmaStatus then
    overlay_ v [(1, 1, b2n (d.dma.chan.any (fun (e : Nat × List DmaChain) => e.2.any d.dmaHolds)))]
  else match regIndex off (R.dmaCh 0) 64 with
  | some ch => d.viewCh ch
  | none => v

/-- The FOL block. -/
def Dev.viewFol (d : Dev) (off : Nat) (v : Word) : Word :=
  if off = R.folStatus then overlay_ v [(31, 16, maskOf (fun e => decide (e < 16) && d.isFenced Blk.fol e))]
  else match regIndex off (R.folEng 0) 16 with
  | some e =>
    let busy (x : FolChain) : Bool := match x.st with | .running _ => true | _ => false
    overlay_ v [(61, 61, b2n (d.isFenced Blk.fol e)), (60, 60, b2n ((d.folChains e).any busy)), (53, 48, (d.folChains e).length)]
  | none => v

/-- The PRV block. -/
def Dev.viewPrv (d : Dev) (off : Nat) (v : Word) : Word :=
  if off = R.prvStatus then
    overlay_ v [(39, 32, maskOf (fun l => decide (l < 8) && d.isFenced Blk.prv l)), (24, 16, 256 - d.prv.ctx.length)]
  else match regIndex off (R.prvCtx 0) 256 with
  | some k =>
    match d.prvCtx k with
    | some x => overlay_ 0 [(63, 62, if x.failed.isSome then 2 else 1), (61, 57, x.alg), (56, 56, b2n x.hmac), (55, 55, b2n x.trunc),
        (54, 54, b2n x.port), (47, 40, x.owner), (39, 36, x.queue.length), (35, 0, min (x.count / 1024) (2 ^ 36 - 1))]
    | none => 0
  | none => v

/-- STATE of a search group. -/
def Dev.groupState (d : Dev) (n : Nat) : Nat :=
  match find d.cat.grp n with
  | none => 0
  | some g => match g.st with
    | .ready => (match d.catSet (catKey g.owner g.set) with | some s => if s.prog = .idle then 1 else 2 | none => 1)
    | .refill _ => 3
    | .failed => 4

/-- The CAT block. -/
def Dev.viewCat (d : Dev) (off : Nat) (v : Word) : Word :=
  let moving (s : CatSet) : Bool := match s.prog, s.upd with
    | .up hole, u :: _ => decide (u.rank < hole)
    | .down _ _, _ => true
    | _, _ => false
  let refilling (g : CatGrp) : Bool := match g.st with | .refill _ => true | _ => false
  if off = R.catStatus then
    overlay_ v [(1, 1, b2n (d.cat.sets.any (fun (e : Nat × CatSet) => moving e.2) || d.cat.grp.any (fun (e : Nat × CatGrp) => refilling e.2)))]
  else match regIndex off (R.catGroupState 0) 128, regIndex off (R.catBank 0) 128 with
  | some n, _ =>
    match find d.cat.grp n with
    | some g =>
      let count := match d.catSet (catKey g.owner g.set) with | some s => s.count | none => 0
      overlay_ 0 [(63, 61, d.groupState n), (52, 48, g.queue.length), (25, 0, count)]
    | none => 0
  | _, some b =>
    let own := match d.cat.grp.find? (fun (e : Nat × CatGrp) => decide (e.2.first ≤ b) && decide (b < e.2.first + e.2.banks)) with
      | some e => [(62, 62, 1), (54, 48, e.1)]
      | none => []
    overlay_ v ((63, 63, b2n (d.isFenced Blk.cat b)) :: own)
  | _, _ => v

/-! ### GAL, MEM, XQ (R335, R384, R415, R414) -/

/-- STATE of GAL_MAP[p]. -/
def Dev.galleryState (d : Dev) (p : Nat) : Nat :=
  if d.gals.retired.contains p then 2
  else if d.isFenced Blk.gal p then 3
  else match d.logicalOf p with
    | some g => if look d.doc.gal g .idle == .test then 4 else 0
    | none => if d.saf.claims.any (fun (x : TestClaim) => x.gallery == p) then 4 else 1

/-- The GAL window of physical gallery `p`: in deep sleep and until the wake its island stands at 0.55 V (R333). -/
def Dev.viewGallery (d : Dev) (c : CoreSt) (p off : Nat) (v : Word) : Word :=
  let k := d.core p
  if off = R.galMap p then overlay_ v [(18, 16, d.galleryState p), (7, 0, (d.logicalOf p).getD 0)]
  else if off = R.galFreq p then 
    overlay_ v [(31, 16, if k.st = .asleep ∨ k.st = .waking then 550 else k.mv), (15, 0, if k.st = .asleep then 0 else k.mhz)]
  else if off = R.galVcntOnUs p then BitVec.ofNat 64 (min (2 ^ 64 - 1) (v.toNat + k.onNs c.time.toNat / 1000))
  else v

/-- Codes of MEM_PC[c].STATE. -/
def ChanSt.code : ChanSt → Nat
  | .active => 0
  | .frozen => 1
  | .fenced => 2
  | .absent => 3

/-- MEM_PC[c] or MEM_ANX[n]. -/
def Dev.viewChan (d : Dev) (ch : Nat) (v : Word) : Word :=
  let x := d.chan ch
  overlay_ v [(63, 61, x.st.code), (60, 56, x.k), (55, 54, x.rateNow), (53, 50, x.postponed), (49, 43, x.poison.length)]

/-- The MEM block. -/
def Dev.viewMem (d : Dev) (off : Nat) (v : Word) : Word :=
  match regIndex off (R.memPc 0) 512, regIndex off (R.memAnx 0) 8, regIndex off (R.memAnxCfg 0) 8 with
  | some ch, _, _ => d.viewChan ch v
  | _, some n, _ => d.viewChan (512 + n) v
  | _, _, some n => if (d.chan (512 + n)).st = .fenced then setFld v 63 48 0 else v
  | _, _, _ => v

/-- XQ_INST[i]. -/
def Dev.viewInst (d : Dev) (i : Nat) (v : Word) : Word :=
  let x := d.inst i
  let full (e : Nat × Pair) : Bool :=
    decide (e.2.size ≤ e.2.posted + d.xq.cmds.countP (fun (y : Cmd) => y.inst == i && y.pair == e.1)) && e.2.sqTail != e.2.sqHead
  overlay_ v [(62, 62, b2n (x.st == .freezing || x.st == .frozen)),
    (61, 61, b2n (x.st != .free && decide (x.share.queueEntries ≤ d.inFlight i))), (60, 60, b2n ((d.pairsOf i).any full)),
    (46, 40, (d.pairsOf i).length), (20, 0, d.inFlight i)]

/-- The XQ block. -/
def Dev.viewXq (d : Dev) (off : Nat) (v : Word) : Word :=
  match regIndex off (R.xqInst 0) 256 with
  | some i => d.viewInst i v
  | none => v

/-- XQ_W_ID of a function: which instance is bound to it (R414). -/
def Dev.bindingWord (d : Dev) (port fn : Nat) : Word :=
  match d.presented port fn with
  | some i => overlay_ 0 [(31, 31, 1), (23, 16, i), (15, 8, fn), (1, 0, port)]
  | none => overlay_ 0 [(15, 8, fn), (1, 0, port)]

/-- The window of instance `i`, through the function that presents it. -/
def Dev.viewWindow (d : Dev) (c : CoreSt) (i off : Nat) (v : Word) : Word :=
  if off = R.xqWId i then (match d.presenter i with | some (p, f) => d.bindingWord p f | none => 0)
  else if off = R.xqWMode i then modeWord c
  else if off = R.xqWStatus i then d.statusWord c
  else v

/-- The rest of an instance window (R387): the MSI-X table, the pending-bit array and the violation ring, 8 bytes at offset `o`. -/
def Dev.windowArea (d : Dev) (i o : Nat) : Word :=
  if 0x10000 ≤ o ∧ o < 0x10400 then
    let m := look d.evt.msix (i * 64 + (o - 0x10000) / 16) {}
    BitVec.ofNat 64 (if o % 16 = 0 then m.addr else m.data + b2n m.mask <<< 32)
  else if o = 0x11000 then BitVec.ofNat 64 (maskOf (fun v => (d.vectorsWith EvtSlot.waits).contains (i * 64 + v)))
  else if 0x20000 ≤ o ∧ o < 0x21000 then BitVec.ofNat 64 (le ((find (d.inst i).viol.slots ((o - 0x20000) / 64)).getD []) (o % 64) 8)
  else 0

/-! ### INS, SAF, EXC, SFL, FWU (R512, R533, R223, R194, R575) -/

/-- INS_INST[i].STATE. -/
def InstSt.code : InstSt → Nat
  | .free => 0
  | .active => 1
  | .freezing => 2
  | .frozen => 3

/-- The head and overflow of a ring in INS_VIOL[i] or INS_DVIOL. -/
def violWord (r : Ring) : Word := overlay_ 0 [(47, 40, r.head), (32, 32, b2n r.sat), (31, 0, r.ovf)]

/-- The INS block. -/
def Dev.viewIns (d : Dev) (off : Nat) (v : Word) : Word :=
  if off = R.insDviol then violWord d.ins.dviol
  else match regIndex off (R.insInst 0) 256, regIndex off (R.insViol 0) 256 with
  | some i, _ =>
    let x := d.inst i
    let b := (d.presenter i).getD (0, 0)
    overlay_ v [(63, 61, x.st.code), (60, 60, b2n (d.presenter i).isSome), (59, 58, b.1), (57, 51, b.2),
      (50, 45, (d.dmaOwned i).length), (44, 37, d.catBanksOf i), (31, 0, x.leaves)]
  | _, some i => violWord (d.inst i).viol
  | _, _ => v

/-- Good reserves left on gallery die `k` (SAF_RESERVE.GAL_RES). -/
def Dev.reservesLeft (d : Dev) (k : Nat) : Nat :=
  [34 * k + 32, 34 * k + 33].countP (fun q => (d.logicalOf q).isNone && !d.gals.retired.contains q && !d.isFenced Blk.gal q)

/-- The SAF block. -/
def Dev.viewSaf (d : Dev) (c : CoreSt) (off : Nat) (v : Word) : Word :=
  if off = R.safLog then
    overlay_ 0 [(46, 33, d.saf.log.head), (32, 32, b2n d.saf.log.sat), (31, 0, d.saf.log.ovf)]
  else if off = R.safReserve then
    overlay_ v [(1, 0, d.reservesLeft 0), (3, 2, d.reservesLeft 1), (5, 4, d.reservesLeft 2), (7, 6, d.reservesLeft 3)]
  else match regIndex off (R.safGal 0) 136 with
  | some p => setFld v 63 60 (min 15 (d.outvotesOf c p))
  | none => v

/-- The EXC block. -/
def Dev.viewExc (d : Dev) (off : Nat) (v : Word) : Word :=
  match regIndex off (R.excPoolFree 0) 2, regIndex off (R.excInst 0) 256 with
  | some k, _ => setFld v 31 0 (d.getF (R.excPoolSize k) 31 0 - d.poolPages.countP (fun (p : Nat × Nat × Nat) => p.1 == k))
  | _, some i => setFld v 31 0 (d.poolPages.countP (fun (p : Nat × Nat × Nat) => p.2.2 == i))
  | _, _ => v

/-- The window of stack filter `s`. -/
def Dev.viewFilter (d : Dev) (s off : Nat) (v : Word) : Word :=
  let u := look d.sfl s {}
  if off = R.sflStatus s then
    overlay_ v [(20, 16, u.flight.length), (14, 8, u.flight.length + u.waiting.length), (1, 1, b2n (d.isFenced Blk.sfl s))]
  else v

/-- FWU_PROGRESS. -/
def Dev.progressWord (d : Dev) : Word :=
  overlay_ 0 [(46, 32, d.acc.fw.imageBytes / 4096), (14, 0, d.acc.fw.units.length)]

/-- The register at an offset of the manager view (or of an instance window, filed under its own offsets), as a read of 8 bytes
returns it. Write-only fields read zero, and so does an offset without a register. -/
def Dev.readReg (d : Dev) (c : CoreSt) (off : Nat) : Word :=
  match regRow off with
  | none => if 0x4000000 ≤ off then d.windowArea ((off - 0x4000000) / 0x40000) ((off - 0x4000000) % 0x40000) else 0
  | some r =>
    let v := r.fields.foldl (fun (v : Word) f => if f.acc == .wo then setFld v f.hi f.lo 0 else v) (d.reg off)
    match off / 0x100000 with
    | 0 => d.viewDev c off v
    | 1 => d.viewEvt off v
    | 2 => d.viewDoc c off v
    | 3 => d.viewDma off v
    | 4 => d.viewFol off v
    | 5 => d.viewPrv off v
    | 6 => d.viewCat off v
    | 7 => d.viewGallery c (128 + (off - 0x7E0000) / 0x4000) off v
    | 8 => d.viewGallery c ((off - 0x800000) / 0x4000) off v
    | 9 => d.viewGallery c ((off - 0x800000) / 0x4000) off v
    | 10 => d.viewMem off v
    | 12 => d.viewXq off v
    | 14 => d.viewIns off v
    | 15 => d.viewSaf c off v
    | 17 => if off = R.fwuProgress then d.progressWord
      else if off = R.fwuStatus then setFld v 6 6 (b2n (d.flag R.devBoot 2 || d.flag R.devStatus 5)) else v
    | 18 => d.viewExc off v
    | 19 => d.viewFilter ((off - 0x1300000) / 0x1000) off v
    | k => if 0x40 ≤ k then d.viewWindow c ((off - 0x4000000) / 0x40000) off v else v

/-- A read of `n` bytes at an offset of a window (R578): 1, 2, 4 or 8 bytes, aligned to their number, return the register's bytes;
every other read returns zeros. -/
def Dev.readBytes (d : Dev) (c : CoreSt) (off n : Nat) : Bytes :=
  if (n = 1 ∨ n = 2 ∨ n = 4 ∨ n = 8) ∧ off % n = 0 then slice (toLE 8 (d.readReg c (off - off % 8)).toNat) (off % 8) n
  else List.replicate n 0

/-! ### Logs (R404, R587) and BAR0 -/

/-- `n` bytes from byte `off` of the slots of a ring, `size` bytes each; a slot never written reads zero. -/
def Ring.bytes (r : Ring) (size off n : Nat) : Bytes :=
  let slots := (List.range ((off % size + n + size - 1) / size)).flatMap (fun j => padTo size ((find r.slots (off / size + j)).getD []))
  slice slots (off % size) n

/-- The header of logs 0 and 3. -/
def Ring.header (r : Ring) (slots size : Nat) : Bytes :=
  padTo 64 (toLE 4 r.head ++ toLE 4 r.ovf ++ toLE 1 (b2n r.sat + 2 * b2n r.frozen) ++ List.replicate 7 0 ++ toLE 4 slots ++ toLE 4 size)

/-- The same with the header before the slots. -/
def Ring.headed (r : Ring) (slots size off n : Nat) : Bytes :=
  if off < 64 then slice (r.header slots size) off n ++ r.bytes size 0 (n - min n (64 - off)) else r.bytes size (off - 64) n

/-- The length of a log. -/
def logLength (log : Nat) : Nat :=
  match log with
  | 0 => 262208
  | 1 => 4096
  | 2 => 16384
  | 3 => 21056
  | _ => 1048576

/-- Bytes of a log, as instance `i` reads it. -/
def Dev.logBytes (d : Dev) (i log off n : Nat) : Bytes :=
  match log with
  | 0 => d.evLog.headed 4096 64 off n
  | 1 => (d.inst i).viol.bytes 64 off n
  | 2 => d.ins.dviol.bytes 64 off n
  | 3 => d.freezeLog.headed 16 1312 off n
  | _ => d.saf.log.bytes 64 off n

/-- The frozen logs as SAFE-STOP keeps them readable (R40): `n` bytes from byte `off` of LOG 0 or 4, laid out as R587 lays them out. -/
def Dev.frozenLog (d : Dev) (c : CoreSt) (log off n : Nat) : Bytes :=
  if c.mode = .safeStop ∧ (log = 0 ∨ log = 4) ∧ off + n ≤ logLength log then d.logBytes 0 log off n else List.replicate n 0

/-- The frozen log that an offset of BAR0 falls into (log entry 125), with the byte in it. -/
def frozenAt (c : CoreSt) (off : Nat) : Option (Nat × Nat) :=
  if c.mode = .safeStop then
    ([0, 4].find? (fun l => decide (Config.frozenLogBase l ≤ off) && decide (off < Config.frozenLogBase l + logLength l))).map
      (fun l => (l, off - Config.frozenLogBase l))
  else none

/-- A read of BAR0 of a port's physical function (R40, R53, R386): before SERVICE is first entered, and for a function without the
manager role, the DEV block only, with the frozen logs in SAFE-STOP; instance 0's window stands at 0x0200_0000. -/
def Dev.readBar0 (d : Dev) (c : CoreSt) (port off n : Nat) : Bytes :=
  if off < 0x100000 then d.readBytes c off n
  else if (frozenAt c off).isSome then
    (match frozenAt c off with | some (l, o) => d.frozenLog c l o n | none => [])
  else if d.ins.holder ≠ some port then List.replicate n 0
  else if 0x2000000 ≤ off ∧ off < 0x2040000 then
    if c.served ∨ off < 0x2000018 then d.readBytes c (off + 0x2000000) n else List.replicate n 0
  else if !c.served then List.replicate n 0
  else if off < 0x2000000 then d.readBytes c off n
  else List.replicate n 0

/-- A read of a virtual function's BAR0 (R386, R579): its instance's window, of which XQ_W_ID, XQ_W_MODE and XQ_W_STATUS alone are served
before SERVICE is first entered; an unbound function reads zero everywhere but XQ_W_ID. -/
def Dev.readVf (d : Dev) (c : CoreSt) (port fn off n : Nat) : Bytes :=
  match d.presented port fn with
  | some i =>
    if off < 0x40000 ∧ (c.served ∨ off < 0x18) then d.readBytes c (0x4000000 + 0x40000 * i + off) n else List.replicate n 0
  | none =>
    if (n = 1 ∨ n = 2 ∨ n = 4 ∨ n = 8) ∧ off % n = 0 ∧ off < 8 then slice (toLE 8 (d.bindingWord port fn).toNat) off n
    else List.replicate n 0

end Sys2Proof.Machine
end

