-- ==== Sys2Proof/Machine/RegStore.lean ====
section
/-!
DEFINITION. What a write of a register does to the blocks (R4, R578, R582, R584 and the register tables): the generic access codes,
the limits that a field's own row states, and the fields whose write performs an action. Who may write is decided where the write
arrives (Sys2Proof/Machine/RegWrites.lean); the Registrar applies configuration records through the same function (R558).
-/

namespace Sys2Proof.Machine

/-- The nearest number to `x` between `lo` and `hi`. -/
def clamp (lo hi x : Nat) : Nat := max lo (min hi x)

/-- A value with one field held to its limits. -/
def limitF (hi lo a b : Nat) (v : Word) : Word := setFld v hi lo (clamp a b (fld v hi lo))

/-- A value with the fields held to the limits that a register's table states (a write beyond them stores the nearer limit). -/
def limitWrite (off : Nat) (v : Word) : Word :=
  if off = R.docCtrl then limitF 15 12 0 7 v
  else if off = R.docReserve then limitF 15 0 1024 32768 v
  else if off = R.docTraceCtrl then limitF 36 32 12 26 v
  else if off = R.memAge then limitF 47 32 1 65535 (limitF 31 16 1 65535 (limitF 15 0 1 65535 v))
  else if off = R.memRh then limitF 20 16 8 16 (limitF 12 8 8 16 v)
  else if off = R.volCtrl then limitF 31 24 1 100 (limitF 23 16 1 255 v)
  else if off = R.insCtrl then limitF 31 16 1 65535 v
  else if off = R.safCtrl then limitF 31 16 1 1000 v
  else if off = R.safRepair then limitF 23 16 1 255 (limitF 15 8 1 255 (limitF 3 0 1 15 v))
  else if off = R.pwrCap then limitF 15 0 400 750 v
  else if off = R.pwrTherm then limitF 15 8 80 105 (limitF 7 0 70 100 v)
  else if 0x1300000 ≤ off ∧ off < 0x1308000 ∧ off % 0x1000 = 0 then limitF 12 8 1 16 v
  else v

/-- The generic write with the limits of the register. -/
def Dev.writeLimited (d : Dev) (off : Nat) (v : Word) : Dev := d.writeReg off (limitWrite off v)

/-! ### Registers with rules of their own -/

/-- DEV_BOOT (R65): a BOOT_TRIES of 0 is ignored, a DRAIN_MS of 0 stores 1. -/
def Dev.writeBoot (d : Dev) (v : Word) : Dev :=
  let tries := if fld v 19 16 = 0 then d.getF R.devBoot 19 16 else fld v 19 16
  d.writeReg R.devBoot (setFld (limitF 47 32 0 10000 (limitF 31 24 1 200 v)) 19 16 tries)

/-- DEV_RESET_CAUSE (R65): writing zero to COUNT clears it and COUNT_SAT; another COUNT is ignored. -/
def Dev.writeCause (d : Dev) (v : Word) : Dev :=
  let d := if fld v 48 48 = 1 then d.setFlag R.devResetCause 48 false else d
  if fld v 47 32 = 0 then d.setF R.devResetCause 48 32 0 else d

/-- The DEV block, but for the mode and reset requests. -/
def Dev.storeDev (d : Dev) (off : Nat) (v : Word) : Dev :=
  if off = R.devBoot then d.writeBoot v else if off = R.devResetCause then d.writeCause v else d.writeReg off v

/-- The EVT block (R472). -/
def Dev.storeEvt (d : Dev) (off : Nat) (v : Word) : Dev :=
  if off = R.evtRaise then d.writeRaise v
  else match regIndex off (R.evtCoal 0) 16, regIndex off (R.evtPend 0) 128, regIndex off (R.evtRoute 0) 8192 with
  | some k, _, _ => d.writeCoal k v
  | _, some k, _ => d.writePend k v
  | _, _, some n => d.writeRoute n v
  | _, _, _ => d.writeReg off v

/-- DOC_TRACE_CTRL (R162): an ENABLE that goes from 0 to 1 takes the ring's base and starts at slot 0; records that
an earlier enable left there count as no older ones (DESIGN CHOICE, log entry 134). -/
def Dev.writeTrace (d : Dev) (v : Word) : Dev :=
  let was := d.flag R.docTraceCtrl 0
  let d := d.writeLimited R.docTraceCtrl v
  if !was && d.flag R.docTraceCtrl 0 then
    { d with doc := { d.doc with traceBase := d.getF R.docTraceBase 63 12 * 4096, traced := 0 } }.setReg R.docTraceHead 0
  else d

/-- The DOC block (R163). -/
def Dev.storeDoc (d : Dev) (off : Nat) (v : Word) : Dev :=
  if off = R.docTcancel then d.docTcancel v
  else if off = R.docTraceCtrl then d.writeTrace v
  else d.writeLimited off v

/-- The FOL block (R301). -/
def Dev.storeFol (d : Dev) (off : Nat) (v : Word) : Dev :=
  match regIndex off (R.folEng 0) 16 with
  | some e => d.folRole e (fld v 63 62)
  | none => d.writeReg off v

/-- A corrected-error counter of 32 bits with its CE_SAT (R584): zero clears both. -/
def Dev.writeCe (d : Dev) (off : Nat) (v : Word) : Dev := if fld v 31 0 = 0 then d.setF off 32 0 0 else d

/-- The CAT block (R278). -/
def Dev.storeCat (d : Dev) (off : Nat) (v : Word) : Dev :=
  match regIndex off (R.catGroup 0) 128, regIndex off (R.catBank 0) 128 with
  | some n, _ => if fld v 63 63 = 1 then d.catEnable n v else d.catDisable n v
  | _, some _ => d.writeCe off v
  | _, _ => d.writeReg off v

/-- The MEM block (R384). -/
def Dev.storeMem (d : Dev) (c : CoreSt) (src : Source) (off : Nat) (v : Word) : Dev :=
  match regIndex off (R.memSetBase 0) 16, regIndex off (R.memSetSize 0) 16, regIndex off (R.memSetMap 0) 16 with
  | some n, _, _ => d.writeSetField c src off n v
  | _, some n, _ => d.writeSetField c src off n v
  | _, _, some n => d.writeSetMap c src n v
  | _, _, _ =>
    if (regIndex off (R.memPc 0) 512).isSome || (regIndex off (R.memAnx 0) 8).isSome then d.writeCe off v else d.writeLimited off v

/-- The VOL block (R435). -/
def Dev.storeVol (d : Dev) (c : CoreSt) (off : Nat) (v : Word) : Dev :=
  if off = R.volCtrl then
    let d := d.writeLimited off v
    if c.mode = .safeStop then d
    else if fld v 3 2 = 1 then d.orderReplay c else if fld v 3 2 = 2 then d.discardDump c else d
  else match regIndex off (R.volSsd 0) 16, regIndex off (R.volVol 0) 64 with
  | some n, _ =>
    match fld v 60 59 with
    | 1 => d.roleReq c n .free .spare
    | 2 => d.roleReq c n .spare .free
    | 3 => if (d.ssd n).st == .failed then d.roleReq c n .failed .free else d.roleReq c n .foreign .free
    | _ => d
  | _, some _ => (d.writeReg off v).startRebuilds c
  | _, _ => d.writeReg off v

/-- A ring whose overflow counter a write of zero clears (R584). -/
def Ring.clearOvf (r : Ring) (v : Word) : Ring := if fld v 31 0 = 0 then { r with ovf := 0, sat := false } else r

/-- The INS block (R512). -/
def Dev.storeIns (d : Dev) (off : Nat) (v : Word) : Dev :=
  if off = R.insMapCtrl then d.mapCtrl v
  else if off = R.insDviol then { d with ins := { d.ins with dviol := d.ins.dviol.clearOvf v } }
  else match regIndex off (R.insViol 0) 256 with
  | some i => d.setInst i { d.inst i with viol := (d.inst i).viol.clearOvf v }
  | none => d.writeLimited off v

/-- The SAF block (R533). -/
def Dev.storeSaf (d : Dev) (off : Nat) (v : Word) : Dev :=
  if off = R.safLog then { d with saf := { d.saf with log := d.saf.log.clearOvf v } }
  else if off = R.safReturn then d.returnPrepare v
  else d.writeLimited off v

/-- The PWR block (R554). -/
def Dev.storePwr (d : Dev) (off : Nat) (v : Word) : Dev :=
  if off = R.pwrCap then d.writeCap v
  else if off = R.pwrPower ∨ (regIndex off (R.pwrRail 0) 4).isSome ∨ (regIndex off (R.pwrTemp 0) 19).isSome then d.writeReg off v
  else if off = R.pwrCtrl then (d.writeReg off v).pwrAlert
  else d.writeLimited off v

/-- The EXC block (R223): a pool that holds a page keeps its base and size. -/
def Dev.storeExc (d : Dev) (off : Nat) (v : Word) : Dev :=
  let pool := (regIndex off (R.excPoolBase 0) 2).orElse (fun _ => regIndex off (R.excPoolSize 0) 2)
  match pool with
  | some k => if d.poolPages.any (fun (p : Nat × Nat × Nat) => p.1 == k) then d.setFlag R.excStatus 2 true else d.writeReg off v
  | none => d.writeReg off v

/-- An instance's window (R414, R389): the admin pair's registers hold while ENABLE is 1; ENABLE starts the queues and ends them; DB_ERR
is cleared by 1. -/
def Dev.storeWindow (d : Dev) (c : CoreSt) (i off : Nat) (v : Word) : Dev :=
  if off = R.xqWCc i then (if fld v 0 0 = 1 then d.enableQueues i else d.controllerReset c i)
  else if off = R.xqWAqa i ∨ off = R.xqWAsq i ∨ off = R.xqWAcq i then (if d.flag (R.xqWCc i) 0 then d else d.writeReg off v)
  else if off = R.xqWCsts i then d.writeReg off v
  else d

/-- A write of zero to GAL_VCNT_ON_US starts its count at this moment (R358). -/
def Dev.restartOn (d : Dev) (c : CoreSt) (off : Nat) : Dev :=
  match (List.range 136).find? (fun p => R.galVcntOnUs p == off) with
  | some p => d.setCore p { d.core p with lvuSince := c.time.toNat, onRest := 0 }
  | none => d

/-- A write of 8 bytes to the register at an offset of the manager view, made by a source that may make it: a counter is cleared by
zero and ignores every other value (R582); other registers as their block's table says; an offset without a register ignores it. The
mode and reset requests, and the firmware commands, act elsewhere. -/
def Dev.storeReg (d : Dev) (c : CoreSt) (src : Source) (off : Nat) (v : Word) : Dev :=
  if (cntSat off).isSome then (if v = 0 then (d.restartOn c off).clearCounter off else d)
  else match off / 0x100000 with
  | 0 => d.storeDev off v
  | 1 => d.storeEvt off v
  | 2 => d.storeDoc off v
  | 4 => d.storeFol off v
  | 6 => d.storeCat off v
  | 10 => d.storeMem c src off v
  | 11 => d.storeMem c src off v
  | 13 => d.storeVol c off v
  | 14 => d.storeIns off v
  | 15 => d.storeSaf off v
  | 16 => d.storePwr off v
  | 18 => d.storeExc off v
  | 19 => d.writeLimited off v
  | k => if 0x40 ≤ k then d.storeWindow c ((off - 0x4000000) / 0x40000) off v else d.writeReg off v

end Sys2Proof.Machine
end

