-- ==== Sys2Proof/Machine/Firmware.lean ====
section
/-!
DEFINITION. Settings (R559 to R561), firmware updates (R562 to R567), and the switch of firmware at the end of an activation's drain
(R566).
-/

namespace Sys2Proof.Machine

/-! ### The boot selector (R48, R525) -/

/-- DEV_BOOT: active slot, pending slot, pending_valid, tries_left. -/
def Dev.activeSlot (d : Dev) : Bool := d.flag R.devBoot 0
def Dev.pendingSlot (d : Dev) : Bool := d.flag R.devBoot 1
def Dev.pendingValid (d : Dev) : Bool := d.flag R.devBoot 2
def Dev.triesLeft (d : Dev) : Nat := d.getF R.devBoot 11 8
/-- The running image has not had FW_CONFIRM. -/
def Dev.unconfirmed (d : Dev) : Bool := d.flag R.devStatus 5

/-- The target slot of an update (R562). -/
def Dev.targetSlot (d : Dev) : Bool := !d.activeSlot

/-- Make a slot pending, with BOOT_TRIES tries (R566); its first CONFIGURE has the dual write of R561 before it. -/
def Dev.selectPending (d : Dev) (slot : Bool) : Dev :=
  let d := ((d.setFlag R.devBoot 1 slot).setFlag R.devBoot 2 true).setF R.devBoot 11 8 (d.getF R.devBoot 19 16)
  { d with acc := { d.acc with fw := { d.acc.fw with dual := false } } }

/-- Make a slot active with nothing pending (R567, R570). -/
def Dev.selectActive (d : Dev) (slot : Bool) : Dev := ((d.setFlag R.devBoot 0 slot).setFlag R.devBoot 2 false).setF R.devBoot 11 8 0

/-! ### Settings -/

/-- A record (R558), its body padded to a multiple of 16. -/
def cfgRecordBytes (ty format : Nat) (body : Bytes) : Bytes :=
  let b := padTo (roundUp body.length 16) body
  toLE 2 ty ++ toLE 2 format ++ toLE 4 (16 + b.length) ++ toLE 4 (crc32c b) ++ List.replicate 4 0 ++ b

/-- A register entry of a record. -/
def regEntry (d : Dev) (off : Nat) : Bytes := toLE 8 off ++ toLE 8 (d.reg off).toNat

/-- The body of the record in force of a type. -/
def Dev.cfgBody (d : Dev) (ty : Nat) : Bytes := match find d.cfg ty with | some x => x.2 | none => []

/-- The interleave sets in the order that their MAP registers are written: mirror copies first, so that each enable finds its copy. -/
def Dev.setOrder (d : Dev) : List Nat :=
  (List.range 16).filter (fun n => (d.memSet n).role ≠ 0) ++ (List.range 16).filter (fun n => (d.memSet n).role = 0)

/-- The body that a save captures for a record type (R559): the share of instance 0; the fixed fields of MEMORY as read, with the sets;
staging pools; Folio roles; power limits. -/
def Dev.captureBody (d : Dev) (ty : Nat) : Bytes :=
  match ty with
  | 3 => shareBytes (d.inst 0).share
  | 4 => padTo 32 (d.cfgBody 4) ++
      (List.range 16).flatMap (fun n => regEntry d (R.memSetBase n) ++ regEntry d (R.memSetSize n)) ++
      d.setOrder.flatMap (fun n => regEntry d (R.memSetMap n))
  | 5 => (List.range 2).flatMap (fun k => regEntry d (R.excPoolBase k) ++ regEntry d (R.excPoolSize k))
  | 6 => (List.range 16).flatMap (fun e => regEntry d (R.folEng e))
  | 7 => regEntry d R.pwrCap ++ regEntry d R.pwrTherm ++ regEntry d R.pwrCtrl
  | _ => []

/-- Are settings kept in two formats (R561)? -/
def Dev.settingsDual (d : Dev) : Bool := d.pendingValid || d.unconfirmed

/-- The other image's slot (R561): the active one while the pending image runs, else the pending one. -/
def Dev.otherSlot (d : Dev) : Bool := if d.runningSlot = d.pendingSlot then d.activeSlot else d.pendingSlot

/-- The records of one type that a save writes, and whether one is carried forward stale (R561). -/
def Dev.settingsRecords (d : Dev) (own other : Bytes) (old : List CfgRecord) (ty : Nat) : Bytes × Bool :=
  match formats own ty with
  | none => ([], false)
  | some (lo, hi, fw) =>
    let mine := cfgRecordBytes ty fw (d.captureBody ty)
    if !d.settingsDual then (mine, false)
    else match formats other ty with
      | none => (mine, false)
      | some (_, _, fo) =>
        if fo = fw then (mine, false)
        else if lo ≤ fo ∧ fo ≤ hi then (mine ++ cfgRecordBytes ty fo (d.captureBody ty), false)
        else match old.find? (fun (r : CfgRecord) => r.ty == ty && r.format == fo && r.crc) with
          | some r => (mine ++ cfgRecordBytes ty fo r.body, true)
          | none => (mine, true)

/-- Write a settings bank: the header of R559 and the records. -/
def Dev.writeBank (d : Dev) (b : Bool) (gen : Nat) (rs : Bytes) : Dev :=
  let h := toLE 4 0x54455358 ++ toLE 2 1 ++ toLE 2 0 ++ toLE 8 gen ++ toLE 4 (32 + rs.length) ++ toLE 4 (crc32c rs) ++ List.replicate 8 0
  (d.eraseFlash (bankBase b) 4194304).program_ (bankBase b) (h ++ rs)

/-- Save the settings (R559, R561): into the bank that does not hold the highest valid GENERATION. -/
def Dev.saveSettings (d : Dev) : Dev :=
  let own := d.firmware
  let other := if d.settingsDual then d.streamOf d.otherSlot else []
  let was := d.settings
  let old := match was with | some (_, _, bs) => (recordsOf bs).getD [] | none => []
  let parts := [3, 4, 5, 6, 7].map (fun ty => d.settingsRecords own other old ty)
  let b := match was with | some (b, _, _) => !b | none => false
  let gen := match was with | some (_, g, _) => g + 1 | none => 1
  let d := d.writeBank b (gen % 2 ^ 64) (parts.flatMap (·.1))
  if parts.any (·.2) then d.setFlag R.fwuStatus 7 true else d

/-- Erase both banks (R559). -/
def Dev.clearSettings (d : Dev) : Dev := (d.eraseFlash (bankBase false) 4194304).eraseFlash (bankBase true) 4194304

/-- SETTINGS_SAVE: a write of FWU_CTRL.SETTINGS_SAVE, which the Registrar acts on. -/
def execSettingsSave (src : Source) (s : State) : Host.Outcome State Fault Refusal :=
  s.onDev (fun c d => if d.isManager c src && d.registrarUp then d.saveSettings else d)

/-- SETTINGS_CLEAR: a write of FWU_CTRL.SETTINGS_CLEAR. -/
def execSettingsClear (src : Source) (s : State) : Host.Outcome State Fault Refusal :=
  s.onDev (fun c d => if d.isManager c src && d.registrarUp then d.clearSettings else d)

/-! ### The open update (R562) -/

def Dev.updateOpen (d : Dev) : Bool := d.flag R.fwuStatus 1
def Dev.updateOwner (d : Dev) : Nat := d.getF R.fwuStatus 3 2
def Dev.committed (d : Dev) : Bool := d.flag R.fwuStatus 4
def Dev.updateId (d : Dev) : Nat := (d.reg R.fwuUpdateId).toNat

/-- Open a new update (R563): progress cleared, nothing pending, the earlier commit discarded. Owner 1 is the host, 2 the BMC. -/
def Dev.openUpdate (d : Dev) (owner id imageBytes : Nat) : Dev :=
  let d := ((d.setF R.fwuStatus 3 2 owner).setFlag R.fwuStatus 1 true).setFlag R.fwuStatus 4 false
  let d := (d.setReg R.fwuUpdateId (BitVec.ofNat 64 id)).setFlag R.devBoot 2 false
  { d with acc := { d.acc with fw := { imageBytes := imageBytes } } }

/-- Close the update (R565, R567). -/
def Dev.closeUpdate (d : Dev) : Dev := (d.setF R.fwuStatus 4 1 0).setReg R.fwuUpdateId 0

/-- Is an open update of another owner still its own: a piece has arrived within the last 600 s (R562)? -/
def Dev.heldByOther (d : Dev) (c : CoreSt) (owner : Nat) : Bool :=
  d.updateOpen && d.updateOwner != owner && decide (c.time.toNat < d.acc.fw.last + tenMinutes)

/-- Units missing. -/
def Dev.unitsMissing (d : Dev) : Nat := d.acc.fw.imageBytes / 4096 - d.acc.fw.units.length

/-- Set the units and marks of the update. -/
def Dev.setFw (d : Dev) (f : FwUpdate → FwUpdate) : Dev := { d with acc := { d.acc with fw := f d.acc.fw } }

/-- The sector of a unit. -/
def sectorOf (u : Nat) : Nat := u / 16

/-- Has the sector a unit done? -/
def Dev.sectorUsed (d : Dev) (k : Nat) : Bool := d.acc.fw.units.any (fun u => sectorOf u == k)

/-- Erase a sector of the target slot. -/
def Dev.eraseSector (d : Dev) (slot : Bool) (k : Nat) : Dev := d.eraseFlash (slotBase slot + 65536 * k) 65536

/-- Before programming a sector: mark it IN_PROGRESS, and erase it unless a unit of it is done (R563, R564). -/
def Dev.beginSector (d : Dev) (k : Nat) : Dev :=
  let d := if d.sectorUsed k then d else d.eraseSector d.targetSlot k
  d.setFw (fun (f : FwUpdate) => { f with inProgress := k :: f.inProgress.filter (· != k) })

/-- Clear the mark of a sector. -/
def Dev.endSector (d : Dev) (k : Nat) : Dev := d.setFw (fun (f : FwUpdate) => { f with inProgress := f.inProgress.filter (· != k) })

/-- One unit (R563): programmed, its bit set and counted; one whose bit is set already is compared. False where the data differs. -/
def Dev.putUnit (d : Dev) (u : Nat) (bs : Bytes) : Dev × Bool :=
  let a := slotBase d.targetSlot + 4096 * u
  if d.acc.fw.units.contains u then (d, d.flash a 4096 == bs)
  else
    let d := d.program_ a bs
    ((d.setFw (fun (f : FwUpdate) => { f with units := u :: f.units })).count R.fwuCntPiece, true)

/-- The units of one sector, in order, from a byte string that begins at unit `u`; nothing more once one differs. -/
def Dev.putUnits (d : Dev) (u : Nat) (bs : Bytes) : Nat → Dev × Bool
  | 0 => (d, true)
  | fuel + 1 =>
    if bs.isEmpty then (d, true)
    else match d.putUnit u (bs.take 4096) with
      | (d, false) => (d, false)
      | (d, true) => d.putUnits (u + 1) (bs.drop 4096) fuel

/-- R564, at the first SERVICE entry after a reset: every sector still marked is erased, its unit bits and its mark are cleared. -/
def Dev.resumeUpdate (d : Dev) : Dev :=
  let marked := d.acc.fw.inProgress
  let d := marked.foldl (fun (d : Dev) k => (d.eraseSector d.targetSlot k).count R.fwuCntResume) d
  d.setFw (fun (f : FwUpdate) => { f with units := f.units.filter (fun u => !marked.contains (sectorOf u)), inProgress := [] })

/-! ### FW_PIECE (R563) -/

/-- End a piece with its command. -/
def Dev.endPiece (d : Dev) (c : CoreSt) (t : PieceTurn) (result status : Nat) : Dev :=
  let d := if t.marked then d.endSector (sectorOf (t.next / 4096)) else d
  ({ d with mgmt := { d.mgmt with piece := none } }).complete c t.cmd.1 t.cmd.2.1 t.cmd.2.2 result status

/-- The checks of a piece, and its acceptance. -/
def Dev.startPiece (d : Dev) (c : CoreSt) (x : Cmd) : Dev :=
  let a := x.area
  let id := le a 8 8
  let off := le a 0x10 4
  let len := le a 0x14 4
  let img := le a 0x18 4
  if d.unconfirmed then d.finish c x 0 0x0500
  else if id = 0 ∨ off % 4096 ≠ 0 ∨ len % 4096 ≠ 0 ∨ len < 4096 ∨ 1048576 < len ∨ !imageBytesOk img ∨ img ≤ off ∨
      (d.updateOpen ∧ d.updateId = id ∧ d.acc.fw.imageBytes ≠ img) then d.finish c x 0 0x0201
  else if d.heldByOther c 1 then d.finish c x 0 0x0500
  else
    let same := d.updateOpen && d.updateOwner == 1 && d.updateId == id
    let d := if same then d else d.openUpdate 1 id img
    let d := d.setFw (fun (f : FwUpdate) => { f with last := c.time.toNat })
    { d with mgmt := { d.mgmt with piece := some {
        cmd := (x.inst, x.pair, x.cid), next := off, stop := min (off + len) img, cut := decide (img < off + len) } } }

/-- The bytes of a piece that fall into the sector it has come to. -/
def PieceTurn.here (t : PieceTurn) : Nat := min (t.stop - t.next) (65536 - t.next % 65536)

/-- One turn of a piece: a sector with units to program is marked first, and erased where it must be; then the data is read from SOURCE
and its units are handled. -/
def Dev.pieceTurn (d : Dev) (c : CoreSt) (x : Cmd) (t : PieceTurn) : Dev :=
  let k := sectorOf (t.next / 4096)
  let n := t.here
  let us := (List.range (n / 4096)).map (fun j => t.next / 4096 + j)
  if !t.marked && us.any (fun u => !d.acc.fw.units.contains u) then
    { d.beginSector k with mgmt := { d.mgmt with piece := some { t with marked := true } } }
  else
    let w : Who := { source := 10, unit := 0xFF }
    let va := le x.area 0 8 + (t.next - le x.area 0x10 4)
    match d.readInst w x.inst va n with
    | .error f => (d.recordFail c w x.inst false f).endPiece c t 0 f.status
    | .ok (_, true) => d.endPiece c t 0 0x0401
    | .ok (bs, false) =>
      match d.putUnits (t.next / 4096) bs 16 with
      | (d, false) => d.endPiece c t 0 0x0402
      | (d, true) =>
        let d := if t.marked then d.endSector k else d
        let t := { t with next := t.next + n, marked := false }
        if t.next < t.stop then { d with mgmt := { d.mgmt with piece := some t } }
        else d.endPiece c t d.unitsMissing (if t.cut then 1 else 0)

/-- The piece in progress; none where its command is gone (its pair was deleted). -/
def Dev.pieceNow (d : Dev) : Option PieceTurn :=
  d.mgmt.piece.filter (fun (t : PieceTurn) => (d.cmd t.cmd.1 t.cmd.2.1 t.cmd.2.2).isSome)

/-- FW_PIECE: the first turn checks and accepts the piece, each further one brings it forward. Other pieces wait. -/
def execFwPiece (ref : CmdRef) (s : State) : Host.Outcome State Fault Refusal :=
  s.onDev (fun c d =>
    match d.pieceNow with
    | none => d.admin c ref 0xB0 (fun x d => d.startPiece c x)
    | some t =>
      match d.cmd ref.inst.toNat ref.pair.val ref.cid.toNat with
      | some x => if t.cmd = (x.inst, x.pair, x.cid) ∧ x.op = 0xB0 then d.pieceTurn c x t else d
      | none => d)

/-! ### FW_COMMIT (R565) -/

/-- The commit checks of an update: the state after them, the result and the status. -/
def Dev.commitUpdate (d : Dev) (id : Nat) : Dev × Nat × Nat :=
  if !d.updateOpen || d.updateId != id then (d, 0, 0x0201)
  else if 0 < d.unitsMissing then (d, d.unitsMissing, 0x0200)
  else
    let slot := d.targetSlot
    let h := d.slotHeader slot
    let bad := d.badBlocks slot (d.acc.fw.imageBytes / 65536)
    let stream := d.slotStream slot (d.acc.fw.imageBytes / 65536)
    if !bad.isEmpty || !slotHeaderOk h || headerImageBytes h != d.acc.fw.imageBytes || sha384 (stream.drop 4096) != slice h 0x20 48 then
      let d := bad.foldl (fun (d : Dev) k => d.eraseSector slot k) d
      (d.setFw (fun (f : FwUpdate) => { f with units := f.units.filter (fun u => !bad.contains (sectorOf u)) }), 0, 0x0402)
    else if (d.slotStatus slot).isSome then (d.closeUpdate, 0, 0x0700)
    else if !directoryOk stream || (imageRecords shareOk stream).isNone then (d.closeUpdate, 0, 0x0201)
    else (d.setFlag R.fwuStatus 4 true, 0, 0)

/-- FW_COMMIT. -/
def execFwCommit (ref : CmdRef) (s : State) : Host.Outcome State Fault Refusal :=
  s.onDev (fun c d => d.admin c ref 0xB1 (fun x d =>
    let r := d.commitUpdate (le x.area 0 8)
    r.1.finish c x r.2.1 r.2.2))

/-! ### FW_ACTIVATE and FW_CONFIRM (R566, R567) -/

/-- The blocks of the target slot that hold its header, its directory and components 1 to 4. -/
def Dev.stagedBlocks (d : Dev) : List Nat :=
  let stream := d.streamOf d.targetSlot
  0 :: streamBlocks (le stream 0x1C 4) 224 ++ [1, 2, 3, 4].flatMap (fun ty =>
    match componentAt stream ty with
    | some (off, n) => streamBlocks off n
    | none => [])

/-- Do the blocks that step 1 of R566 reads again have good CRCs? -/
def Dev.stagingOk (d : Dev) : Bool := d.stagedBlocks.all (fun k => blockOk (d.slotBlock d.targetSlot k))

/-- Start an activation (steps 1 and 2 of R566): the device quiesces; the waiting command, or the PLDM update, is told at the end. -/
def startActivation (cmd : Option (Nat × Nat × Nat)) (x : CoreSt × Dev) : CoreSt × Dev :=
  let y := changeMode .quiesced x
  ({ y.1 with quiesceFor := some (.activate cmd cmd.isNone), drained := false }, y.2)

/-- FW_ACTIVATE of a committed update: WHEN 1 selects the slot for the next reset, WHEN 0 starts the activation. -/
def activate (ref : CmdRef) (y : CoreSt × Dev) : CoreSt × Dev :=
  let (c, d) := y
  match d.take ref 0xB2 isAdminOp with
  | none => y
  | some x =>
    let when_ := le x.area 8 1
    if !d.registrarUp then (c, d.admin c ref 0xB2 (fun _ d => d))
    else
      let d := d.startCmd x.inst x.pair x.cid
      if 1 < when_ ∨ !d.updateOpen ∨ !d.committed ∨ d.updateId ≠ le x.area 0 8 then (c, d.finish c x 0 0x0201)
      else if when_ = 1 then (c, (d.selectPending d.targetSlot).finish c x 0 0)
      else if c.mode ≠ .service then (c, d.finish c x 0 0x0600)
      else if !d.stagingOk then (c, d.finish c x 0 0x0402)
      else startActivation (some (x.inst, x.pair, x.cid)) (c, d)

/-- FW_ACTIVATE. -/
def execFwActivate (ref : CmdRef) (s : State) : Host.Outcome State Fault Refusal := s.onAll (activate ref)

/-- Physical galleries in service: those that carry a logical number and are not fenced. -/
def Dev.inService (d : Dev) : List Nat :=
  (List.range 136).filter (fun p => (d.logicalOf p).isSome && !d.isFenced Blk.gal p && !d.gals.retired.contains p)

/-- Steps 3 to 5 of R566 once the drain is done: the boot selector, the new code in every core, settings in two formats; the pause in
microseconds is the result. The mode is the caller's to change. -/
def Dev.switchFirmware (d : Dev) (c : CoreSt) : Dev × Nat :=
  let slot := d.targetSlot
  let d := d.selectPending slot
  let d := { (d.setFlag R.devStatus 4 slot).setFlag R.devStatus 5 true with firmware := d.streamOf slot }
  let d := d.inService.foldl (fun (d : Dev) p => d.loadCore p) d
  let d := (d.saveSettings.setFw (fun (f : FwUpdate) => { f with dual := true })).count R.fwuCntActivate
  let pause := (c.time.toNat - c.quiescedAt) / 1000
  (d.logEvent c.time 0x0E 0 0 (toLE 1 (b2n slot) ++ toLE 4 pause ++ toLE 8 (fwVersion (d.slotHeader slot))), pause)

/-- FW_CONFIRM's effect, where the running image is unconfirmed (R567). -/
def Dev.confirm (d : Dev) : Dev :=
  let d := (d.selectActive d.runningSlot).closeUpdate
  let d := ((d.setFlag R.devStatus 5 false).setFlag R.devStatus 6 false).setFlag R.safStatus 5 false
  { d with saf := { d.saf with returnRecord := false } }

/-- FW_CONFIRM. -/
def execFwConfirm (ref : CmdRef) (s : State) : Host.Outcome State Fault Refusal :=
  s.onDev (fun c d => d.admin c ref 0xB3 (fun x d =>
    if d.unconfirmed then d.confirm.finish c x 0 0 else d.finish c x 0 0x0201))

end Sys2Proof.Machine
end

