-- ==== Sys2Proof/Machine/CoreOps.lean ====
section
/-!
DEFINITION. Exceptions of the gallery core and the frame of an instruction (spec/11_gallery_core.md): exception entry and the
double fault (R322, R325, R326), the return (R324), the boundary at which asynchronous causes are taken (R323), and the
fetch checks on PCC that every instruction makes first.
-/

namespace Sys2Proof.Machine

/-- The value of ECAUSE for an exception (R334). -/
def Exc.word (x : Exc) : Word :=
  BitVec.ofNat 64 (x.perm <<< 16 + (b2n x.vector) <<< 15 + (b2n x.async) <<< 14 + x.capreg <<< 8 + x.reason <<< 6 + x.cause)

/-- Why VBCC cannot take an exception of this cause, as the cause its use would raise (R325). -/
def vbccFault (v : Cap) (cause : Nat) : Option Nat :=
  if !v.tag then some Cause.capTag
  else if v.otype ≠ 0 then some Cause.capSealed
  else if !bit v.perms Perm.exec then some Cause.capPerm
  else if v.len < 16 * cause + 16 then some Cause.capBounds
  else none

/-- A double fault (R326): the core stops, GAL_DFAULT records both causes and the PC of the second, and the Conservator fences the
gallery. -/
def Dev.doubleFault (d : Dev) (c : CoreSt) (p first second pc : Nat) : Dev :=
  let d := d.setReg (R.galDfault p) (BitVec.ofNat 64 (pc <<< 16 + (second % 64) <<< 8 + first % 64))
  (d.count (R.galCntDfault p)).galleryFault c p 3

/-- Exception entry (R322), in one step: ECAUSE, EPC and EADDR are written, PCC is copied to EPCC, the shadow bank is in use, and PC
is at 16 x cause of VBCC. -/
def Gallery.enter (k : Gallery) (x : Exc) : Gallery :=
  { k with
    ecause := x.word
    epc := if x.next then k.pc + 4 else k.pc
    eaddr := BitVec.ofNat 64 x.eaddr
    epcc := k.pcc
    shadow := true
    pcc := k.vbcc
    pc := 16 * x.cause }

/-- Take an exception on physical gallery `p` (R322, R325): counted in GAL_CNT_EXC; in the shadow bank, or with a VBCC that cannot
take it, a double fault. -/
def Dev.takeExc (d : Dev) (c : CoreSt) (p : Nat) (x : Exc) : Dev :=
  let k := d.core p
  if k.shadow then d.doubleFault c p (fld k.ecause 5 0) x.cause k.pc
  else match vbccFault k.vbcc x.cause with
    | some f => d.doubleFault c p x.cause f k.pc
    | none => (d.setCore p (k.enter x)).count (R.galCntExc p)

/-- An asynchronous cause: taken between instructions, EPC at the instruction not yet executed (R320, R323). -/
def asyncExc (cause : Nat) : Exc := { cause := cause, async := true }

/-- May the core of physical gallery `p` execute now: released, carrying a logical number, running? -/
def Dev.executes (d : Dev) (p : Nat) : Bool :=
  d.gals.released && (d.core p).st == .run && (d.logicalOf p).isSome

/-- The asynchronous cause due at this instruction boundary: TASK_CANCEL, then EVENT (R323, R325, R331). -/
def Gallery.asyncDue (k : Gallery) : Option Nat :=
  if k.shadow then none
  else if k.cancelPending then some Cause.taskCancel
  else if k.evtPending && k.eie then some Cause.event
  else none

/-- Take the asynchronous cause that is due. -/
def Dev.takeAsync (d : Dev) (c : CoreSt) (p cause : Nat) : Dev :=
  let k := d.core p
  let d := if cause = Cause.taskCancel then d.setCore p { k with cancelPending := false } else d
  d.takeExc c p (asyncExc cause)

/-- The fetch checks on PCC (R306, R323): EXEC at offset PC, four bytes, then alignment; a SPACE 1 fetch also translates. -/
def Dev.fetchCheck (d : Dev) (p : Nat) : Option Exc :=
  let k := d.core p
  match capCheck k.pcc 0x3F (2 ^ Perm.exec) k.pc 4 4 with
  | some x => some x
  | none =>
    if k.pcc.space = 1 then
      match d.translate k.pcc.inst (k.pcc.base + k.pc) (d.galleryWho p).tlb false with
      | .viol _ _ => some { cause := Cause.translation, eaddr := k.pcc.base + k.pc }
      | _ => none
    else none

/-- What a failed fetch records: a SPACE 1 fetch that finds no mapping enters the instance's violation ring (R312, R505). -/
def Dev.fetchFail (d : Dev) (c : CoreSt) (p : Nat) (x : Exc) : Dev :=
  let k := d.core p
  if x.cause = Cause.translation then
    match d.translate k.pcc.inst (k.pcc.base + k.pc) (d.galleryWho p).tlb false with
    | .viol r h => d.violation c (d.galleryWho p) k.pcc.inst (k.pcc.base + k.pc) (2 * b2n h) r
    | _ => d
  else d

/-- The instruction word at PC, as ILLEGAL reports it (R320). -/
def Dev.fetchWord (d : Dev) (c : CoreSt) (p : Nat) : Nat :=
  let k := d.core p
  match (d.coreLoad c p k.pcc 0x3F (k.pcc.base + k.pc) 4).2 with
  | .ok bs => ofLE bs
  | .error _ => 0

/-- What an instruction does: complete (PC moves past it), complete with PC set, or raise an exception. The state is the one
after whatever of its effect stands (R323: nothing, but for completed vector elements). -/
inductive IRes where
  | done (d : Dev)
  | jump (d : Dev)
  | exc (x : Exc) (d : Dev)

/-- PC past the instruction. -/
def Dev.advance (d : Dev) (p : Nat) : Dev := d.setCore p { d.core p with pc := (d.core p).pc + 4 }

/-- One instruction on physical gallery `p`: nothing while the core does not execute; an asynchronous cause that is due is taken in
its place (R323); a failed fetch check raises its cause; else the instruction's own effect. -/
def Dev.instr (d : Dev) (c : CoreSt) (p : Nat) (body : Gallery → Dev → IRes) : Dev :=
  if !d.executes p then d
  else match (d.core p).asyncDue with
    | some cause => d.takeAsync c p cause
    | none =>
      match d.fetchCheck p with
      | some x => (d.fetchFail c p x).takeExc c p x
      | none =>
        match body (d.core p) d with
        | .done d => d.advance p
        | .jump d => d
        | .exc x d => d.takeExc c p x

/-- An instruction that only computes a new core state. -/
def regInstr (p : Nat) (f : Gallery → Except Exc Gallery) (k : Gallery) (d : Dev) : IRes :=
  match f k with
  | .ok k => .done (d.setCore p k)
  | .error x => .exc x d

/-- ERET (R324): legal only in the shadow bank; an untagged EPCC takes RETURN_UNTAGGED in place, its REASON
zero as of every cause but BUS_ERROR (R334); a VBCC that cannot take it is a double fault in either bank (R325). -/
def Dev.eret (c : CoreSt) (p : Nat) (k : Gallery) (d : Dev) : IRes :=
  if !k.shadow then .exc { cause := Cause.illegal, eaddr := d.fetchWord c p } d
  else if k.epcc.tag then
    let k := { k with pcc := k.epcc, pc := k.epc, shadow := false }
    let d := d.setCore p k
    .jump (if k.cancelPending then d.takeAsync c p Cause.taskCancel else d)
  else match vbccFault k.vbcc Cause.returnUntagged with
    | some f => .jump (d.doubleFault c p Cause.returnUntagged f k.pc)
    | none =>
      .jump ((d.setCore p { k with
        ecause := setFld k.ecause 7 0 Cause.returnUntagged, eaddr := BitVec.ofNat 64 k.pc, pcc := k.vbcc, pc := 0xE0 }).count
          (R.galCntExc p))

end Sys2Proof.Machine
end

