-- ==== Sys2Proof/Machine/Ports.lean ====
section
/-!
DEFINITION. A gallery's port window (R314, R315): what a write of `n` bytes at an offset of SPACE 2 reaches.
-/

namespace Sys2Proof.Machine

/-- What a port write meets: accepted; an error response, held as a posted one; or the core waits (R330, R321). -/
inductive PortRes where
  | ok
  | err (r : BusReason)
  | wait
deriving DecidableEq, Repr

/-- An engine's answer to a port write. -/
def portAnswer (x : Dev × Bool) : Dev × PortRes := (x.1, if x.2 then .err .none else .ok)

/-- An 8-byte write `v` at offset `o`. -/
def Dev.portWrite8 (c : CoreSt) (p o v : Nat) (d : Dev) : Dev × PortRes :=
  if o = 0 then
    if d.writesOut p then (d, .wait)
    else
      let k := d.core p
      (d.setCore p { k with st := .done, doneWrite := some (BitVec.ofNat 64 v) }, .wait)
  else if 0x10000 ≤ o ∧ o < 0x18000 then
    let f := (o - 0x10000) / 0x1000
    match o % 0x1000 with
    | 0 => portAnswer (d.sflSubmit c f p v)
    | 8 => (d.sflGet c f p v, .ok)
    | 0x10 => (d.sflAbort c f p v, .ok)
    | _ => (d, .err .none)
  else match o with
    | 0x20000 => portAnswer (d.folSubmit c p v)
    | 0x20008 => (d.folAppend p v, .ok)
    | 0x20010 => (d.folAbort p v, .ok)
    | 0x40000 => portAnswer (d.nextWrite p v)
    | 0x50000 => (d.evtRaisePort p v, .ok)
    | 0x50008 => portAnswer (d.evtClaim p v)
    | 0x60000 => portAnswer (d.prvSubmit c p v)
    | 0x70000 => portAnswer (d.dmaSubmit c p v)
    | 0x70008 => (d.dmaAppend p v, .ok)
    | 0x70010 => (d.dmaAbort p v, .ok)
    | 0x70018 => portAnswer (d.cqCfg p v)
    | 0x70020 => (d.cqHead p v, .ok)
    | _ => (d, .err .none)

/-- A write of bytes `bs` at offset `o` of the port window of physical gallery `p`; `vec` where a vector store makes it: its writes,
and they alone, are 64 bytes wide with a byte mask (R201, R314, R347), and so reach no port but SEND. Any write the table of R314 does not permit receives an error
response (R315). -/
def Dev.portWrite (c : CoreSt) (p o : Nat) (vec : Bool) (bs : Bytes) (d : Dev) : Dev × PortRes :=
  if 0x100000 ≤ o ∧ o < 0x140000 then
    if vec then (d.sendWrite p o bs, .ok) else (d, .err .none)
  else if vec then (d, .err .none)
  else if o = 0x30000 ∧ bs.length = 16 then (d.catPort c p (ofLE bs), .ok)
  else if bs.length = 8 then d.portWrite8 c p o (ofLE bs)
  else (d, .err .none)

end Sys2Proof.Machine
end

