-- ==== Sys2Proof/Machine/Words.lean ====
section
/-!
DEFINITION. Instruction words of the gallery core (R316, R317, R340, R341): formats, the class that each MAJOR selects, the words that raise
ILLEGAL, and the instructions of the classes whose every field the spec places. Commands arrive with their operands named, so no step reads an
instruction through these words; UNASSIGNED_INSTRUCTION takes the word at PC by them (log entry 98).
-/

namespace Sys2Proof.Machine

/-- The formats of R316 and R340. -/
inductive WordFmt where
  | r | i | m | x | b | j | c | vr | vm | vs | sv
deriving DecidableEq, Repr

/-- The classes of R317 and R341. -/
inductive WordClass where
  | alu | multiply | aluImm | bitOp | load | store | capMem | atomic | capDerive | capInspect | branch | jump | jumpCap | ccr | system | trap
  | svAlu | svMultiply | svCompare | svHash | svMove
  | vControl | vAlu | vMultiply | vWiden | vDot | vCompare | vDec | vLedger | vReduce | vPermute | vCx | vHash | vMove
  | vLoad | vStore | vGather | vScatter
deriving DecidableEq, Repr

/-- First and last MAJOR of each class, with its format (R317, R341). Where one class has two formats, each has a row. -/
def wordClasses : List (Nat × Nat × WordClass × WordFmt) :=
  [(0x01, 0x07, .alu, .r), (0x08, 0x0B, .multiply, .r), (0x0C, 0x17, .aluImm, .i), (0x18, 0x1B, .bitOp, .r),
   (0x20, 0x20, .load, .m), (0x21, 0x21, .load, .x), (0x22, 0x22, .store, .m), (0x23, 0x23, .store, .x),
   (0x24, 0x24, .capMem, .m), (0x25, 0x25, .capMem, .x), (0x26, 0x26, .atomic, .r), (0x28, 0x2B, .capDerive, .r),
   (0x2C, 0x2D, .capInspect, .r), (0x30, 0x33, .branch, .b), (0x34, 0x34, .jump, .j), (0x35, 0x35, .jumpCap, .r),
   (0x38, 0x38, .ccr, .c), (0x39, 0x39, .system, .r), (0x3A, 0x3A, .trap, .i)] ++
  [(0x40, 0x43, .svAlu, .sv), (0x44, 0x44, .svMultiply, .sv), (0x45, 0x45, .svCompare, .sv), (0x46, 0x46, .svHash, .sv),
   (0x47, 0x47, .svMove, .sv), (0x50, 0x50, .vControl, .vs), (0x51, 0x56, .vAlu, .vr), (0x57, 0x57, .vMultiply, .vr),
   (0x58, 0x58, .vWiden, .vr), (0x59, 0x59, .vDot, .vr), (0x5A, 0x5B, .vCompare, .vr), (0x5C, 0x5F, .vDec, .vr),
   (0x60, 0x61, .vLedger, .vr), (0x62, 0x62, .vReduce, .vr), (0x63, 0x63, .vPermute, .vr), (0x64, 0x64, .vCx, .vr),
   (0x65, 0x65, .vHash, .vr), (0x66, 0x66, .vMove, .vr), (0x68, 0x68, .vLoad, .vm), (0x69, 0x69, .vStore, .vm),
   (0x6A, 0x6A, .vGather, .vm), (0x6B, 0x6B, .vScatter, .vm)]

/-- The class and format that a MAJOR selects; none where it is unassigned. -/
def majorClass (major : Nat) : Option (WordClass × WordFmt) :=
  (wordClasses.find? (fun c => decide (c.1 ≤ major) && decide (major ≤ c.2.1))).map (fun c => c.2.2)

/-- Fields of a word. -/
def wMajor (w : Nat) : Nat := bits w 31 25
def wD (w : Nat) : Nat := bits w 24 20
def wA (w : Nat) : Nat := bits w 19 15
def wB (w : Nat) : Nat := bits w 14 10
def wC (w : Nat) : Nat := bits w 19 16
def wSize (w : Nat) : Nat := bits w 15 13
def wSx (w : Nat) : Bool := bit w 12
def wOff12 (w : Nat) : Nat := bits w 11 0
def wG (w : Nat) : Nat := bits w 11 7
def wFunct9 (w : Nat) : Nat := bits w 8 0
def wFunct7 (w : Nat) : Nat := bits w 6 0

/-- The reserved fields of a format are zero (R316, R340). -/
def WordFmt.reservedZero (f : WordFmt) (w : Nat) : Bool :=
  match f with
  | .x => bits w 4 0 == 0
  | .c => bits w 13 12 == 0
  | .vm => !bit w 15
  | .vs => bits w 11 10 == 0 && !bit w 9
  | .sv => !bit w 24 && !bit w 19 && !bit w 14 && !bit w 9
  | _ => true

/-- The field rules of a class (R316, R317, R343, R347): SIZE and SX; VLD and VST use no FUNCT7 bit, VGATH and VSCAT bit 0 alone; VCX has
J 0 to 9, K 1 to 10 and VM 0. -/
def WordClass.fieldsOk (k : WordClass) (w : Nat) : Bool :=
  match k with
  | .load => decide (wSize w ≤ 4)
  | .store => decide (wSize w ≤ 4) && !wSx w
  | .capMem => wSize w == 4
  | .vLoad => bits (wFunct7 w) 6 1 == 0
  | .vStore => bits (wFunct7 w) 6 1 == 0
  | .vGather => bits (wFunct7 w) 6 1 == 0
  | .vScatter => bits (wFunct7 w) 6 1 == 0
  | .vCx => decide (bits w 3 0 ≤ 9) && decide (1 ≤ bits w 7 4) && decide (bits w 7 4 ≤ 10) && !bit w 9
  | _ => true

/-- Does a word raise ILLEGAL (R317)? Which MINOR and FUNCT values of a class are assigned, and which fields name a capability, is
`Config.minorAssigned`. -/
def wordIllegal (w : Nat) : Bool :=
  match majorClass (wMajor w) with
  | none => true
  | some (k, f) => !(f.reservedZero w && k.fieldsOk w) || !Config.minorAssigned w

/-- The operand size of SIZE 0 to 3; none for 16 bytes, which no integer load or store of the model has. -/
def sizeOf (w : Nat) : Option MemSize := match wSize w with
  | 0 => some .b1
  | 1 => some .b2
  | 2 => some .b4
  | 3 => some .b8
  | _ => none

/-- The offset of a memory word: OFF12, or g[G] << SHIFT (R316). -/
def memOff (f : WordFmt) (w : Nat) : MemOff :=
  if f = .x then .idx (BitVec.ofNat 5 (wG w)) (BitVec.ofNat 2 (bits w 6 5)) else .imm (BitVec.ofNat 12 (wOff12 w))

/-- The instruction that a word spells on gallery `p`, for the classes whose fields tell it: integer loads and stores, core control registers, vector
memory accesses and VCX. -/
def coreWord (p : Fin 136) (w : Nat) : Option Instr :=
  let d : BitVec 5 := BitVec.ofNat 5 (wD w)
  let c : BitVec 4 := BitVec.ofNat 4 (wC w)
  let b : BitVec 5 := BitVec.ofNat 5 (wB w)
  match majorClass (wMajor w) with
  | none => none
  | some (k, f) =>
    if !(f.reservedZero w && k.fieldsOk w) then none
    else match k with
      | .load => (sizeOf w).map (fun z => .integerLoad p d c z (wSx w) (memOff f w))
      | .store => (sizeOf w).map (fun z => .integerStore p d c z (memOff f w))
      | .ccr =>
        let d4 : BitVec 4 := BitVec.ofNat 4 (wD w)
        let n : BitVec 12 := BitVec.ofNat 12 (bits w 11 0)
        (match bits w 15 14 with
         | 0 => some (.ccrr p d c n)
         | 1 => some (.ccrw p d c n)
         | 2 => some (.ccrrc p d4 c n)
         | _ => some (.ccrwc p d4 c n))
      | .vLoad => some (.vld p d c b (bit w 9) (BitVec.ofNat 2 (bits w 8 7)))
      | .vStore => some (.vst p d c b (bit w 9) (BitVec.ofNat 2 (bits w 8 7)))
      | .vGather => some (.vgath p d c b (bit w 9) (BitVec.ofNat 2 (bits w 8 7)) (bit w 0))
      | .vScatter => some (.vscat p d c b (bit w 9) (BitVec.ofNat 2 (bits w 8 7)) (bit w 0))
      | .vCx => some (.vcx p d b (BitVec.ofNat 4 (bits w 3 0)) (BitVec.ofNat 4 (bits w 7 4)) (bit w 8) (bit w 9))
      | _ => none

end Sys2Proof.Machine
end

