-- ==== Sys2Proof/Machine/GalleryCore.lean ====
section
/-!
DEFINITION. The gallery core's instructions (spec/11_gallery_core.md), one command each, on one physical gallery: integer
arithmetic, loads and stores, capabilities, control flow, core control registers, and what wakes, parks and cancels a core.
-/

namespace Sys2Proof.Machine

/-- The exception ARITH_OVERFLOW. -/
def overflowExc : Exc := { cause := Cause.overflow }

/-- The exception ILLEGAL, with the instruction word (R320). -/
def Dev.illegal (d : Dev) (c : CoreSt) (p : Nat) : Exc := { cause := Cause.illegal, eaddr := d.fetchWord c p }

/-! ### Integer arithmetic -/

/-- INTEGER_ALU (R317, R318): the result into D, or ARITH_OVERFLOW in a trapping form. -/
def execIntegerAlu (p : Fin 136) (op : IntOp) (trap : Bool) (d a : BitVec 5) (b : RegImm) (s : State) :
    Host.Outcome State Fault Refusal :=
  s.onDev (fun c dv => dv.instr c p.val (regInstr p.val (fun k =>
    let r := intOp op (k.getG a.toNat) (k.regImm b)
    if trap && r.2 then .error overflowExc else .ok (k.setG d.toNat r.1))))

/-- MULTIPLY_DIVIDE (R317, R318): the wide multiply writes its low half to D and its high half to the next register (log entry 22);
a division whose result no rule states writes a free value (log entry 1). -/
def execMultiplyDivide (p : Fin 136) (op : MulOp) (trap : Bool) (d a b : BitVec 5) (s : State) :
    Host.Outcome State Fault Refusal :=
  s.onDev (fun c dv => dv.instr c p.val (regInstr p.val (fun k =>
    let x := k.getG a.toNat
    let y := k.getG b.toNat
    let wide (i : Int) : Gallery := (k.setG d.toNat (BitVec.ofInt 64 i)).setG ((d.toNat + 1) % 32) (BitVec.ofInt 64 (i / 2 ^ 64))
    let mul (r : Word × Bool) : Except Exc Gallery := if trap && r.2 then .error overflowExc else .ok (k.setG d.toNat r.1)
    let div (code : Nat) (signed quot : Bool) : Except Exc Gallery :=
      match divide signed x y with
      | some (q, r) => .ok (k.setG d.toNat (if quot then q else r))
      | none => .ok (k.setG d.toNat (Config.divCorner code x y))
    match op with
    | .mul => mul (narrow true (x.toInt * y.toInt))
    | .mulU => mul (narrow false (x.toNat * y.toNat))
    | .mulWide => .ok (wide (x.toInt * y.toInt))
    | .mulWideU => .ok (wide (x.toNat * y.toNat))
    | .div => div 0 true true
    | .divU => div 1 false true
    | .rem => div 2 true false
    | .remU => div 3 false false)))

/-- BIT_MANIPULATION (R317). -/
def execBitManipulation (p : Fin 136) (op : BitOp) (d a b : BitVec 5) (s : State) : Host.Outcome State Fault Refusal :=
  s.onDev (fun c dv => dv.instr c p.val (regInstr p.val (fun k =>
    .ok (k.setG d.toNat (bitOp op (k.getG a.toNat) (k.getG b.toNat))))))

/-! ### Loads and stores -/

/-- A load of `n` bytes through capability register `reg` (R306, R313). -/
def loadInstr (c : CoreSt) (p reg : Nat) (off : MemOff) (n : Nat) (put : Gallery → Bytes → Gallery) (k : Gallery) (d : Dev) : IRes :=
  let x := k.getC reg
  let o := k.offset off
  match capCheck x reg (2 ^ Perm.load) o n n with
  | some e => .exc e d
  | none =>
    match d.coreLoad c p x reg (x.base + o) n with
    | (d, .error e) => .exc e d
    | (d, .ok bs) => .done (d.setCore p (put (d.core p) bs))

/-- INTEGER_LOAD (R306, R311 to R316): zero- or sign-extended into D. -/
def execIntegerLoad (p : Fin 136) (d : BitVec 5) (c : BitVec 4) (size : MemSize) (sx : Bool) (off : MemOff) (s : State) :
    Host.Outcome State Fault Refusal :=
  s.onDev (fun c' dv => dv.instr c' p.val (loadInstr c' p.val c.toNat off (sizeBytes size) (fun k bs =>
    k.setG d.toNat (if sx then sext (8 * sizeBytes size) (ofLE bs) else BitVec.ofNat 64 (ofLE bs)))))

/-- A store of bytes through capability register `reg`; `tag` is the tag of a stored capability (R306, R308, R313, R315). -/
def storeInstr (c : CoreSt) (p reg : Nat) (off : MemOff) (bs : Bytes) (tag : Option Bool) (k : Gallery) (d : Dev) : IRes :=
  let x := k.getC reg
  let o := k.offset off
  let a := x.base + o
  let need := 2 ^ Perm.store + (if x.space = 0 ∧ tag = some true then 2 ^ Perm.storeCap else 0)
  match capCheck x reg need o bs.length bs.length with
  | some e => .exc e d
  | none =>
    match x.space with
    | 0 =>
      if a + bs.length ≤ Config.localBytes then
        let d := d.localWrite p a bs
        if tag = some true then
          let k := d.core p
          .done (d.setCore p { k with tags := (a / 16) :: k.tags })
        else .done d
      else .exc { cause := Cause.busError, eaddr := a, capreg := reg } d
    | 1 =>
      match d.coreStoreInst c p x reg a bs with
      | (d, some e) => .exc e d
      | (d, none) => .done d
    | 2 =>
      match k.postErr with
      | some (ea, r) =>
        if a = 0 ∧ bs.length = 8 ∧ d.writesOut p then .jump d
        else if a = 0 ∧ bs.length = 8 then
          .exc { cause := Cause.busError, eaddr := ea, reason := r, async := true } (d.setCore p { k with postErr := none })
        else .done (match d.portWrite c p a false bs with | (d, .err r) => d.postError p a (busCode r) | (d, _) => d)
      | none =>
        match d.portWrite c p a false bs with
        | (d, .ok) => .done d
        | (d, .err r) => .done (d.postError p a (busCode r))
        | (d, .wait) => .jump d
    | _ => .done (d.postError p a 0)

/-- INTEGER_STORE (R306, R308, R313, R316). -/
def execIntegerStore (p : Fin 136) (d : BitVec 5) (c : BitVec 4) (size : MemSize) (off : MemOff) (s : State) :
    Host.Outcome State Fault Refusal :=
  s.onDev (fun c' dv => dv.instr c' p.val (fun k dv =>
    storeInstr c' p.val c.toNat off (toLE (sizeBytes size) (k.getG d.toNat).toNat) none k dv))

/-- LDC (R308): 128 bits, with the stored tag where the space is local store and the capability holds LOADCAP. -/
def execLdc (p : Fin 136) (d c : BitVec 4) (off : MemOff) (s : State) : Host.Outcome State Fault Refusal :=
  s.onDev (fun c' dv => dv.instr c' p.val (loadInstr c' p.val c.toNat off 16 (fun k bs =>
    let x := k.getC c.toNat
    let tag := x.space == 0 && bit x.perms Perm.loadCap && k.tags.contains ((x.base + k.offset off) / 16)
    k.setC d.toNat (Cap.ofBits tag (ofLE bs)))))

/-- STC (R308): 128 bits, and the tag where the space is local store. -/
def execStc (p : Fin 136) (d c : BitVec 4) (off : MemOff) (s : State) : Host.Outcome State Fault Refusal :=
  s.onDev (fun c' dv => dv.instr c' p.val (fun k dv =>
    storeInstr c' p.val c.toNat off (toLE 16 (k.getC d.toNat).toBits) (some (k.getC d.toNat).tag) k dv))

/-- ATOMIC (R311, R317): on 8 aligned bytes of local store at the capability's base; D receives the old value (log entry 23). -/
def execAtomic (p : Fin 136) (op : AtomicOp) (d : BitVec 5) (c : BitVec 4) (b : BitVec 5) (s : State) :
    Host.Outcome State Fault Refusal :=
  s.onDev (fun c' dv => dv.instr c' p.val (fun k dv =>
    let x := k.getC c.toNat
    let need := 2 ^ Perm.load + 2 ^ Perm.store
    match capCheck x c.toNat need 0 8 8 with
    | some e =>
      if e.cause = Cause.capBounds ∧ x.space ≠ 0 ∨ e.cause = Cause.misaligned ∧ x.space ≠ 0 then
        .exc { cause := Cause.capPerm, eaddr := x.base, capreg := c.toNat } dv
      else .exc e dv
    | none =>
      if x.space ≠ 0 then .exc { cause := Cause.capPerm, eaddr := x.base, capreg := c.toNat } dv
      else if dv.localBad p.val x.base 8 then .exc { cause := Cause.poison, eaddr := x.base, capreg := c.toNat } dv
      else if Config.localBytes < x.base + 8 then .exc { cause := Cause.busError, eaddr := x.base, capreg := c.toNat } dv
      else
        let old := BitVec.ofNat 64 (ofLE (dv.localRead p.val x.base 8))
        let new : Option Word := match op with
          | .swap => some (k.getG b.toNat)
          | .add => some (old + k.getG b.toNat)
          | .cas => if old = k.getG d.toNat then some (k.getG b.toNat) else none
        let dv := match new with
          | some v => dv.localWrite p.val x.base (toLE 8 v.toNat)
          | none => dv
        .done (dv.setCore p.val ((dv.core p.val).setG d.toNat old))))

/-! ### Capabilities -/

/-- The checks of a derivation's source: tagged, then unsealed (R306). -/
def sourceCheck (x : Cap) (reg o : Nat) : Option Exc :=
  if !x.tag then some { cause := Cause.capTag, capreg := reg }
  else if x.otype ≠ 0 then some { cause := Cause.capSealed, eaddr := x.base + o, capreg := reg }
  else none

/-- A derivation: its source's check, then the result into register `d`. -/
def derive (p d reg o : Nat) (f : Cap → Except Exc Cap) : Gallery → Dev → IRes :=
  regInstr p (fun k =>
    match sourceCheck (k.getC reg) reg o with
    | some e => .error e
    | none => (f (k.getC reg)).map (fun x => k.setC d x))

/-- CWINDOW (R306): a window of the source; an odd B is ILLEGAL. BASE has 48 bits (R304): the empty window at the very end of an address
space holds BASE 0 (log entry 126). -/
def execCwindow (p : Fin 136) (d c : BitVec 4) (b : BitVec 5) (s : State) : Host.Outcome State Fault Refusal :=
  s.onDev (fun c' dv => dv.instr c' p.val (fun k dv =>
    if b.toNat % 2 = 1 then .exc (dv.illegal c' p.val) dv
    else
      let o := (k.getG b.toNat).toNat % 2 ^ 48
      let len := (k.getG (b.toNat + 1)).toNat
      derive p.val d.toNat c.toNat o (fun x =>
        if x.len < o + len then .error { cause := Cause.capBounds, eaddr := x.base + o, capreg := c.toNat }
        else .ok { x with base := (x.base + o) % 2 ^ 48, len := len }) k dv))

/-- CKEEP (R306): only the permissions whose bit is 1 in g[B]. -/
def execCkeep (p : Fin 136) (d c : BitVec 4) (b : BitVec 5) (s : State) : Host.Outcome State Fault Refusal :=
  s.onDev (fun c' dv => dv.instr c' p.val (fun k dv =>
    derive p.val d.toNat c.toNat 0 (fun x => .ok { x with perms := x.perms &&& (k.getG b.toNat).toNat % 256 }) k dv))

/-- CCOPY (R306): a copy with its tag. -/
def execCcopy (p : Fin 136) (d c : BitVec 4) (s : State) : Host.Outcome State Fault Refusal :=
  s.onDev (fun c' dv => dv.instr c' p.val (regInstr p.val (fun k => .ok (k.setC d.toNat (k.getC c.toNat)))))

/-- CSTRIP (R306): a copy without its tag. -/
def execCstrip (p : Fin 136) (d c : BitVec 4) (s : State) : Host.Outcome State Fault Refusal :=
  s.onDev (fun c' dv => dv.instr c' p.val (regInstr p.val (fun k =>
    .ok (k.setC d.toNat { k.getC c.toNat with tag := false }))))

/-- CINST (R306): under an authority that holds SYSTEM. -/
def execCinst (p : Fin 136) (d c : BitVec 4) (b : BitVec 5) (auth : BitVec 4) (s : State) : Host.Outcome State Fault Refusal :=
  s.onDev (fun c' dv => dv.instr c' p.val (fun k dv =>
    match authCheck (k.getC auth.toNat) auth.toNat Perm.system with
    | some e => .exc e dv
    | none => derive p.val d.toNat c.toNat 0 (fun x => .ok { x with inst := (k.getG b.toNat).toNat % 256 }) k dv))

/-- CBIND (R307): seal with a type of the authority's range, between 1 and 4,095. -/
def execCbind (p : Fin 136) (d c : BitVec 4) (b : BitVec 5) (auth : BitVec 4) (s : State) : Host.Outcome State Fault Refusal :=
  s.onDev (fun c' dv => dv.instr c' p.val (fun k dv =>
    let ct := k.getC auth.toNat
    let t := (k.getG b.toNat).toNat
    match authCheck ct auth.toNat Perm.sealing with
    | some e => .exc e dv
    | none =>
      if t < ct.base ∨ ct.base + ct.len ≤ t ∨ t < 1 ∨ 4095 < t then
        .exc { cause := Cause.capBounds, eaddr := t, capreg := auth.toNat } dv
      else derive p.val d.toNat c.toNat 0 (fun x => .ok { x with otype := t }) k dv))

/-- CUNBIND (R307): unseal under an authority whose range holds the type; B must be zero. -/
def execCunbind (p : Fin 136) (d c : BitVec 4) (b : BitVec 5) (auth : BitVec 4) (s : State) : Host.Outcome State Fault Refusal :=
  s.onDev (fun c' dv => dv.instr c' p.val (fun k dv =>
    let ct := k.getC auth.toNat
    let x := k.getC c.toNat
    if b.toNat ≠ 0 then .exc (dv.illegal c' p.val) dv
    else match authCheck ct auth.toNat Perm.unsealing with
    | some e => .exc e dv
    | none =>
      if !x.tag then .exc { cause := Cause.capTag, capreg := c.toNat } dv
      else if x.otype = 0 then .exc { cause := Cause.capSealed, eaddr := x.base, capreg := c.toNat } dv
      else if x.otype < ct.base ∨ ct.base + ct.len ≤ x.otype then
        .exc { cause := Cause.capBounds, eaddr := x.otype, capreg := auth.toNat } dv
      else .done (dv.setCore p.val (k.setC d.toNat { x with otype := 0 }))))

/-- CAP_INSPECT (R317): a field of any capability, tagged or not, sealed or not. -/
def execCapInspect (p : Fin 136) (f : CapField) (d : BitVec 5) (c : BitVec 4) (s : State) : Host.Outcome State Fault Refusal :=
  s.onDev (fun c' dv => dv.instr c' p.val (regInstr p.val (fun k =>
    let x := k.getC c.toNat
    let v := match f with
      | .base => x.base
      | .length => x.len
      | .perms => x.perms
      | .otype => x.otype
      | .inst => x.inst
      | .tag => b2n x.tag
      | .space => x.space
    .ok (k.setG d.toNat (BitVec.ofNat 64 v)))))

/-! ### Control flow -/

/-- A taken branch or relative jump to offset PC + 4 x words (R319, log entry 24), or CAP_BOUNDS where the target leaves PCC. -/
def jumpRel (p : Nat) (words : Int) (k : Gallery) (d : Dev) : IRes :=
  let target := (k.pc : Int) + 4 * words
  if target < 0 ∨ (k.pcc.len : Int) < target + 4 then
    .exc { cause := Cause.capBounds, eaddr := ((k.pcc.base : Int) + target).toNat } d
  else .jump (d.setCore p { k with pc := target.toNat })

/-- BRANCH (R316, R319). -/
def execBranch (p : Fin 136) (cond : Cond) (a b : BitVec 5) (off : BitVec 15) (s : State) : Host.Outcome State Fault Refusal :=
  s.onDev (fun c dv => dv.instr c p.val (fun k dv =>
    if condHolds cond (k.getG a.toNat) (k.getG b.toNat) then jumpRel p.val off.toInt k dv else .done dv))

/-- JUMP (R317, R319): the linking form writes the offset of the next instruction to g31. -/
def execJump (p : Fin 136) (link : Bool) (off : BitVec 25) (s : State) : Host.Outcome State Fault Refusal :=
  s.onDev (fun c dv => dv.instr c p.val (fun k dv =>
    match jumpRel p.val off.toInt k dv with
    | .jump dv =>
      .jump (if link then dv.setCore p.val ((dv.core p.val).setG 31 (BitVec.ofNat 64 (k.pc + 4))) else dv)
    | r => r))

/-- A jump to a capability (R319): checked for EXEC at the offset, four bytes. -/
def jumpCap (c : CoreSt) (p reg ga : Nat) (link : Gallery → Gallery) (k : Gallery) (d : Dev) : IRes :=
  let x := k.getC reg
  let o := (k.getG ga).toNat
  match capCheck x reg (2 ^ Perm.exec) o 4 4 with
  | some e => .exc e d
  | none =>
    match (if x.space = 1 then (d.translate x.inst (x.base + o) (d.galleryWho p).tlb false) else .dev 0) with
    | .viol r h =>
      .exc { cause := Cause.translation, eaddr := x.base + o, capreg := reg }
        (d.violation c (d.galleryWho p) x.inst (x.base + o) (2 * b2n h) r)
    | _ => .jump (d.setCore p { link k with pcc := x, pc := o })

/-- JC (R319). -/
def execJc (p : Fin 136) (c : BitVec 4) (a : BitVec 5) (s : State) : Host.Outcome State Fault Refusal :=
  s.onDev (fun c' dv => dv.instr c' p.val (jumpCap c' p.val c.toNat a.toNat id))

/-- JCL (R319): the old PCC to cd, the offset of the next instruction to gd. -/
def execJcl (p : Fin 136) (d : BitVec 4) (gd : BitVec 5) (c : BitVec 4) (a : BitVec 5) (s : State) :
    Host.Outcome State Fault Refusal :=
  s.onDev (fun c' dv => dv.instr c' p.val (jumpCap c' p.val c.toNat a.toNat (fun k =>
    (k.setC d.toNat k.pcc).setG gd.toNat (BitVec.ofNat 64 (k.pc + 4)))))

/-! ### Core control registers -/

/-- The value of an integer core control register, none where the number names none (R334, R357). CORE_CYCLES counts gallery
cycles, which the model does not time: a free value (log entry 1). -/
def Dev.ccrRead (d : Dev) (c : CoreSt) (p num : Nat) (k : Gallery) : Option (Word × Dev) :=
  let w (n : Nat) : Option (Word × Dev) := some (BitVec.ofNat 64 n, d)
  if 0x100 ≤ num ∧ num < 0x120 then some (k.otherG (num - 0x100), d)
  else match num with
    | 0x000 => w ((p / 34) <<< 16 + p <<< 8 + (d.logicalOf p).getD 0)
    | 0x001 => w ((b2n (k.lvu == .on)) <<< 4 + (b2n k.cancelPending) <<< 3 + (b2n k.evtPending) <<< 2 + (b2n k.eie) <<< 1 + b2n k.shadow)
    | 0x002 => some (k.ecause, d)
    | 0x003 => w k.epc
    | 0x004 => some (k.eaddr, d)
    | 0x010 => some (k.task, d)
    | 0x011 => some (c.time, d)
    | 0x012 => some d.draw
    | 0x200 => w k.vl
    | 0x201 => w k.vtype
    | 0x202 => w k.vstart
    | 0x203 => some (k.vscale, d)
    | 0x204 => w k.vpwr
    | _ => none

/-- VLMAX of an element width code (R337). -/
def vlMax (sew : Nat) : Nat := 1024 >>> sew

/-- Write an integer core control register; RO fields and reserved bits keep what they hold (R334, R357). -/
def Gallery.ccrWrite (k : Gallery) (num : Nat) (v : Word) : Option Gallery :=
  if 0x100 ≤ num ∧ num < 0x120 then some (k.setOtherG (num - 0x100) v)
  else match num with
    | 0x000 => some k
    | 0x001 => some { k with eie := fld v 1 1 == 1 }
    | 0x002 => some { k with ecause := BitVec.ofNat 64 (fld v 23 0) }
    | 0x003 => some { k with epc := fld v 47 0 }
    | 0x004 => some { k with eaddr := v }
    | 0x010 => some { k with task := setFld v 40 21 0 }
    | 0x011 => some k
    | 0x012 => some k
    | 0x200 => some { k with vl := min (fld v 10 0) (vlMax k.vtype) }
    | 0x201 => some (if fld v 2 0 < 6 then { k with vtype := fld v 2 0 } else k)
    | 0x202 => some { k with vstart := fld v 9 0 }
    | 0x203 => some { k with vscale := setFld (setFld (setFld (setFld v 63 26 0) 23 22 0) 15 14 0) 7 6 0 }
    | 0x204 => some { k with vpwr := fld v 15 0 }
    | _ => none

/-- A capability core control register. -/
def Gallery.ccrCap (k : Gallery) (num : Nat) : Option Cap :=
  if num = 8 then some k.epcc else if num = 9 then some k.vbcc
  else if 0x120 ≤ num ∧ num < 0x130 then some (k.otherC (num - 0x120)) else none

/-- Write a capability core control register, tag and all (R324). -/
def Gallery.setCcrCap (k : Gallery) (num : Nat) (x : Cap) : Option Gallery :=
  if num = 8 then some { k with epcc := x } else if num = 9 then some { k with vbcc := x }
  else if 0x120 ≤ num ∧ num < 0x130 then some (k.setOtherC (num - 0x120) x) else none

/-- A core control register instruction: ILLEGAL before the authority's check (R323, R334). -/
def ccrInstr (c : CoreSt) (p : Nat) (auth : BitVec 4) (f : Gallery → Dev → Option Dev) (k : Gallery) (d : Dev) : IRes :=
  match f k d with
  | none => .exc (d.illegal c p) d
  | some d' =>
    match authCheck (k.getC auth.toNat) auth.toNat Perm.system with
    | some e => .exc e d
    | none => .done d'

/-- CCRR (R334). -/
def execCcrr (p : Fin 136) (d : BitVec 5) (auth : BitVec 4) (num : BitVec 12) (s : State) : Host.Outcome State Fault Refusal :=
  s.onDev (fun c dv => dv.instr c p.val (ccrInstr c p.val auth (fun k dv =>
    (dv.ccrRead c p.val num.toNat k).map (fun r => r.2.setCore p.val (k.setG d.toNat r.1)))))

/-- CCRW (R334). -/
def execCcrw (p : Fin 136) (d : BitVec 5) (auth : BitVec 4) (num : BitVec 12) (s : State) : Host.Outcome State Fault Refusal :=
  s.onDev (fun c dv => dv.instr c p.val (ccrInstr c p.val auth (fun k dv =>
    (k.ccrWrite num.toNat (k.getG d.toNat)).map (dv.setCore p.val))))

/-- CCRRC (R334). -/
def execCcrrc (p : Fin 136) (d : BitVec 4) (auth : BitVec 4) (num : BitVec 12) (s : State) : Host.Outcome State Fault Refusal :=
  s.onDev (fun c dv => dv.instr c p.val (ccrInstr c p.val auth (fun k dv =>
    (k.ccrCap num.toNat).map (fun x => dv.setCore p.val (k.setC d.toNat x)))))

/-- CCRWC (R324, R334). -/
def execCcrwc (p : Fin 136) (d : BitVec 4) (auth : BitVec 4) (num : BitVec 12) (s : State) : Host.Outcome State Fault Refusal :=
  s.onDev (fun c dv => dv.instr c p.val (ccrInstr c p.val auth (fun k dv =>
    (k.setCcrCap num.toNat (k.getC d.toNat)).map (dv.setCore p.val))))

/-! ### Exceptions, waiting and sleep -/

/-- ERET (R324). -/
def execEret (p : Fin 136) (s : State) : Host.Outcome State Fault Refusal :=
  s.onDev (fun c dv => dv.instr c p.val (Dev.eret c p.val))

/-- FENCE (R27, R321): it completes once every earlier request has its response, and waits until then; a held error response raises BUS_ERROR at it. -/
def execFence (p : Fin 136) (s : State) : Host.Outcome State Fault Refusal :=
  s.onDev (fun c dv => dv.instr c p.val (fun k dv =>
    if dv.writesOut p.val then .jump dv
    else match k.postErr with
    | none => .done dv
    | some (a, r) =>
      .exc { cause := Cause.busError, eaddr := a, reason := r, async := true } (dv.setCore p.val { k with postErr := none })))

/-- WFE (R325, R332): the core waits, unless something it waits for is there or it is in the shadow bank. -/
def execWfe (p : Fin 136) (s : State) : Host.Outcome State Fault Refusal :=
  s.onDev (fun c dv => dv.instr c p.val (fun k dv =>
    if k.shadow || k.evtPending || k.cancelPending then .done dv
    else .done (dv.setCore p.val { k with st := .wfe, wfeAt := c.time.toNat })))

/-- Count the µs that the long-vector datapath has been on, as it turns off (R358); what is no full µs stays. -/
def Dev.countOn (d : Dev) (c : CoreSt) (p : Nat) : Dev :=
  let ns := (d.core p).onNs c.time.toNat
  if (d.core p).lvu = .on then
    (d.setCore p { d.core p with onRest := ns % 1000, lvuSince := c.time.toNat }).count (R.galVcntOnUs p) (ns / 1000)
  else d

/-- Deep sleep of physical gallery `p` (R333, R465): the clock stops, GAL_FREQ shows 0.55 V until it wakes, the long-vector unit is off, the event controller
sees the gallery ASLEEP. -/
def Dev.sleepCore (d : Dev) (c : CoreSt) (p : Nat) : Dev :=
  let d := d.countOn c p
  let k := d.core p
  let d := d.setCore p { k with st := .asleep, lvu := .off, stalled := false, mhz := 0 }
  let d := d.count (R.galCntSleep p)
  match d.logicalOf p with
  | some g => { d with evt := { d.evt with gal := put d.evt.gal g .asleep } }
  | none => d

/-- SLEEP (R325, R333): under an authority that holds SYSTEM. -/
def execSleep (p : Fin 136) (auth : BitVec 4) (s : State) : Host.Outcome State Fault Refusal :=
  s.onDev (fun c dv => dv.instr c p.val (fun k dv =>
    match authCheck (k.getC auth.toNat) auth.toNat Perm.system with
    | some e => .exc e dv
    | none => if k.shadow then .done dv else .done (dv.sleepCore c p.val)))

/-- TRAP n (R320, R327). -/
def execTrap (p : Fin 136) (n : BitVec 5) (s : State) : Host.Outcome State Fault Refusal :=
  s.onDev (fun c dv => dv.instr c p.val (fun _ dv => .exc { cause := Cause.trap n.toNat, next := true, eaddr := n.toNat } dv))

/-- BRK (R320). -/
def execBrk (p : Fin 136) (s : State) : Host.Outcome State Fault Refusal :=
  s.onDev (fun c dv => dv.instr c p.val (fun _ dv => .exc { cause := Cause.brk } dv))

/-- UNASSIGNED_INSTRUCTION: the word at PC is one that R317 makes ILLEGAL. -/
def execUnassignedInstruction (p : Fin 136) (s : State) : Host.Outcome State Fault Refusal :=
  s.onDev (fun c dv => if wordIllegal (dv.fetchWord c p.val) then dv.instr c p.val (fun _ dv => .exc (dv.illegal c p.val) dv) else dv)

/-- TASK_CANCEL (R153, R325, R332, R333): one that the Docent has sent arrives. It is taken now, between instructions; kept for the ERET in the shadow bank; it ends a wait and
wakes the island; a core that holds its completion ignores it. -/
def execTaskCancel (p : Fin 136) (s : State) : Host.Outcome State Fault Refusal :=
  s.onDev (fun c d =>
    let g := (d.logicalOf p.val).getD 0xFF
    if !d.doc.tcancels.contains g then d
    else
    let d := { d with doc := { d.doc with tcancels := d.doc.tcancels.erase g } }
    let k := d.core p.val
    match k.st with
    | .done => d
    | .stopped => d
    | .asleep => d.setCore p.val { k with st := .waking, cancelPending := true }
    | .waking => d.setCore p.val { k with cancelPending := true }
    | _ =>
      let d := d.setCore p.val { k with st := .run, cancelPending := true }
      if k.shadow then d else d.takeAsync c p.val Cause.taskCancel)

/-- TAKE_EVENT (R323, R331): with EIE set in the primary bank the core takes EVENT at the instruction boundary. -/
def execTakeEvent (p : Fin 136) (s : State) : Host.Outcome State Fault Refusal :=
  s.onDev (fun c d =>
    if d.executes p.val && (d.core p.val).asyncDue == some Cause.event then d.takeAsync c p.val Cause.event else d)

/-! ### The start of a task (R118, R329) -/

/-- A base address and a space that no rule states: free values (log entry 136). -/
def Dev.freePlace (d : Dev) : (Nat × Nat) × Dev :=
  let (v, d) := d.draw
  ((v.toNat % 2 ^ 48, bit v.toNat 63 |> b2n), d)

/-- The capability of a port of a CUSTOM operator (R118): the buffer it names, tagged with the run's instance; none where it names none. A
bound buffer lies at its instance address; where the device has placed a SCRATCH or RESULT buffer or the constants in the task's reach
no rule says. -/
def Dev.portCap (d : Dev) (r : Run) (i : Image) (buffer perms : Nat) : Cap × Dev :=
  if buffer = 0xFFFF then ({}, d)
  else
    let b := i.buffer buffer
    let (a, n) := b.bound r.params
    if b.kind = 0 ∨ b.kind = 1 ∨ b.kind = 4 then ({ tag := true, space := 1, perms := perms, inst := r.inst, base := a % 2 ^ 48, len := n }, d)
    else
      let ((base, space), d) := d.freePlace
      let n := if b.kind = 5 then n else b.length
      ({ tag := true, space := if b.kind = 2 ∧ b.place = 3 then 0 else space, perms := perms, inst := r.inst, base := base, len := n }, d)

/-- The capabilities of ports, in order. -/
def Dev.portCaps (d : Dev) (r : Run) (i : Image) (perms : Nat) : List Nat → List Cap × Dev
  | [] => ([], d)
  | b :: rest =>
    let (x, d) := d.portCap r i b perms
    let (xs, d) := d.portCaps r i perms rest
    (x :: xs, d)

/-- The CUSTOM operator of a template's group, where it has one. -/
def Image.customOp (i : Image) (t : Nat) : Option Operator :=
  ((i.group t).map i.op).find? (fun o => opKind o.kindCode == some .custom)

/-- A CUSTOM task stands at its template's CODE_ENTRY with the capabilities of R118 and no other: PCC the code section with LOAD and EXEC, c1
to c4 input ports, c5 to c8 output ports, c9 the parameter block, c10 the scratch. In the shadow bank they are where its ERET goes. -/
def Dev.startCustom (d : Dev) (p : Nat) (w : Word) (r : Run) (i : Image) (t : Nat) (o : Operator) : Dev :=
  let bufs (xs : List Nat) (n : Nat) : List Nat := (List.range 4).map (fun k => if k < n then xs.getD k 0xFFFF else 0xFFFF)
  let x := i.template t
  let ((code, cs), d) := d.freePlace
  let ((blk, bs), d) := d.freePlace
  let ((scr, _), d) := d.freePlace
  let (ins, d) := d.portCaps r i (2 ^ Perm.load) (bufs o.inBuf o.inCount)
  let (outs, d) := d.portCaps r i (2 ^ Perm.load + 2 ^ Perm.store) (bufs o.outBuf o.outCount)
  let pcc : Cap := { tag := true, space := cs, perms := 2 ^ Perm.load + 2 ^ Perm.exec, inst := r.inst, base := code, len := i.codeBytes }
  let block : Cap := { tag := true, space := bs, perms := 2 ^ Perm.load, inst := r.inst, base := blk, len := o.paramBytes }
  let scratch : Cap :=
    { tag := true, space := 0, perms := 2 ^ Perm.load + 2 ^ Perm.store, inst := r.inst, base := scr % 0x180000, len := x.localBytes }
  let caps := ins ++ outs ++ [block, scratch]
  let k := d.core p
  let k := { k with task := w, c := (List.range caps.length).zip caps |>.map (fun (e : Nat × Cap) => (e.1 + 1, e.2)) }
  d.setCore p (if k.shadow then { k with epcc := pcc, epc := x.codeEntry } else { k with pcc := pcc, pc := x.codeEntry })

/-- What a dispatch starts: a CUSTOM task stands at its code (log entry 136); another task's operators are firmware's, which reads the
mailbox. -/
def Dev.startTask (d : Dev) (p g : Nat) (bs : Bytes) : Dev :=
  match find d.doc.task g with
  | none => d
  | some (h, key) =>
    match d.run h, d.runImage h with
    | some r, some i =>
      let t := (r.task i key).template
      (match i.customOp t with
       | some o => d.startCustom p (BitVec.ofNat 64 (le bs 0 8)) r i t o
       | none => d)
    | _, _ => d

/-- DISPATCH_MESSAGE (R118, R329, R332, R333): the Docent's message is written to the mailbox, and the core wakes. It waits for the event
controller's acknowledgement of the gallery's last task-end notice (R470). -/
def execDispatchMessage (p : Fin 136) (s : State) : Host.Outcome State Fault Refusal :=
  s.onDev (fun _ d =>
    match d.logicalOf p.val with
    | none => d
    | some g =>
      match find d.doc.msgs g with
      | none => d
      | some bs =>
        if d.doc.notes.contains g then d
        else
        let d := (d.localWrite p.val Config.mailbox bs)
        let d := ({ d with doc := { d.doc with msgs := del d.doc.msgs g } }).startTask p.val g bs
        let k := d.core p.val
        d.setCore p.val { k with st := (match k.st with | .wfe => .run | .asleep => .waking | st => st) })

/-- GALLERY_WAKE_DONE (R333, R465): execution continues after the SLEEP; EVT_PENDING is restored from the delivered set. -/
def execGalleryWakeDone (p : Fin 136) (s : State) : Host.Outcome State Fault Refusal :=
  s.onDev (fun _ d =>
    let k := { d.core p.val with mhz := d.speedOf p.val }
    if k.st = .waking then
      match d.logicalOf p.val with
      | some g =>
        let d := d.setCore p.val { k with st := .run, evtPending := !(d.deliveredTo g).isEmpty }
        { d with evt := { d.evt with gal := put d.evt.gal g .active } }
      | none => d.setCore p.val { k with st := .run }
    else d)

/-- GALLERY_PARK (R544): a gallery that has waited in WFE with no task for PARK_US µs goes to deep sleep; a PARK_US of 0 disables this. -/
def execGalleryPark (p : Fin 136) (s : State) : Host.Outcome State Fault Refusal :=
  s.onDev (fun c d =>
    match d.logicalOf p.val with
    | some g =>
      let park := d.getF R.pwrCtrl 63 48
      if (d.core p.val).st = .wfe ∧ (find d.doc.task g).isNone ∧ park ≠ 0 ∧ (d.core p.val).wfeAt + 1000 * park ≤ c.time.toNat then
        d.sleepCore c p.val
      else d
    | none => d)

/-- POSTED_WRITE_ERROR (R321). -/
def execPostedWriteError (p : Fin 136) (addr : BitVec 64) (reason : BusReason) (s : State) : Host.Outcome State Fault Refusal :=
  s.onDev (fun _ d => d.postError p.val addr.toNat (busCode reason))

end Sys2Proof.Machine
end

