-- ==== Sys2Proof/Machine/Management.lean ====
section
/-!
DEFINITION. The management endpoint (R571 to R573): MCTP control, PLDM base, monitoring and firmware update, and SPDM. Answers are
appended to `mgmt.replies` by their content; message encodings and the update state machine are those of the named standards
(DSP0236, DSP0240, DSP0248, DSP0267, DSP0274).
-/

namespace Sys2Proof.Machine

/-! ### Reach -/

/-- Does the device take messages on a binding (R571): SMBus until it has an I3C dynamic address, then I3C only? -/
def Dev.busTaken (d : Dev) : MgmtBus → Bool
  | .smbus => d.mgmt.i3c.isNone
  | .i3c => d.mgmt.i3c.isSome

/-- A message on a bus: what it does where the device takes it. -/
def State.onBus (s : State) (bus : MgmtBus) (f : CoreSt × Dev → CoreSt × Dev) : Host.Outcome State Fault Refusal :=
  s.onAll (fun x => if x.2.mgmtUp x.1 && x.2.busTaken bus then f x else x)

/-- A message that only reads. -/
def State.onBusRead (s : State) (bus : MgmtBus) (f : CoreSt → Dev → MgmtReply) : Host.Outcome State Fault Refusal :=
  s.onBus bus (fun x => (x.1, x.2.reply (f x.1 x.2)))

/-- I3C_DYNAMIC_ADDRESS (R571). -/
def execI3cDynamicAddress (addr : BitVec 7) (s : State) : Host.Outcome State Fault Refusal :=
  s.onDev (fun _ d => { d with mgmt := { d.mgmt with i3c := some addr.toNat } })

/-! ### MCTP control (R571) -/

/-- The EID after Set Endpoint ID, where the request is valid: operations set, force, and reset to the static identifier. -/
def Dev.newEid (d : Dev) (op eid : Nat) : Option Nat :=
  match op with
  | 0 => if eid = 0 ∨ eid = 255 then none else some eid
  | 1 => if eid = 0 ∨ eid = 255 then none else some eid
  | 2 => if d.mgmt.eidStatic = 0 then none else some d.mgmt.eidStatic
  | _ => none

/-- SET_ENDPOINT_ID. -/
def execSetEndpointId (bus : MgmtBus) (op : BitVec 2) (eid : BitVec 8) (s : State) : Host.Outcome State Fault Refusal :=
  s.onBus bus (fun x =>
    match x.2.newEid op.toNat eid.toNat with
    | some v => (x.1, ({ x.2 with mgmt := { x.2.mgmt with eid := v } }).reply (.eid v))
    | none => (x.1, x.2.reply .invalidData))

/-- GET_ENDPOINT_ID. -/
def execGetEndpointId (bus : MgmtBus) (s : State) : Host.Outcome State Fault Refusal := s.onBusRead bus (fun _ d => .eid d.mgmt.eid)

/-- GET_MCTP_VERSION_SUPPORT. -/
def execGetMctpVersionSupport (bus : MgmtBus) (s : State) : Host.Outcome State Fault Refusal :=
  s.onBusRead bus (fun _ _ => .text (Config.mgmtText 0 0))

/-- GET_MESSAGE_TYPE_SUPPORT: control, PLDM, SPDM, secured messages. -/
def execGetMessageTypeSupport (bus : MgmtBus) (s : State) : Host.Outcome State Fault Refusal :=
  s.onBusRead bus (fun _ _ => .kinds [0, 1, 5, 6])

/-- GET_ENDPOINT_UUID. -/
def execGetEndpointUuid (bus : MgmtBus) (s : State) : Host.Outcome State Fault Refusal := s.onBusRead bus (fun _ _ => .uuid Config.uuid)

/-! ### PLDM base (R572) -/

/-- GETTID. -/
def execGettid (bus : MgmtBus) (s : State) : Host.Outcome State Fault Refusal := s.onBusRead bus (fun _ d => .tid d.mgmt.tid)

/-- SETTID: 0 and 255 are no terminus identifiers (DSP0240). -/
def execSettid (bus : MgmtBus) (tid : BitVec 8) (s : State) : Host.Outcome State Fault Refusal :=
  s.onBus bus (fun x =>
    if tid.toNat = 0 ∨ tid.toNat = 255 then (x.1, x.2.reply .invalidData)
    else (x.1, ({ x.2 with mgmt := { x.2.mgmt with tid := tid.toNat } }).reply .done))

/-- The commands of a PLDM type that the device supports, by the codes of its standard. -/
def pldmCommands (type : Nat) : Option (List Nat) :=
  match type with
  | 0 => some [0x01, 0x02, 0x03, 0x04, 0x05]
  | 2 => some [0x0A, 0x11, 0x21, 0x31, 0x39, 0x51]
  | 5 => some [0x01, 0x02, 0x10, 0x13, 0x14, 0x15, 0x16, 0x17, 0x18, 0x1A, 0x1B, 0x1C, 0x1D]
  | _ => none

/-- GETPLDMVERSION. -/
def execGetpldmversion (bus : MgmtBus) (type : BitVec 6) (s : State) : Host.Outcome State Fault Refusal :=
  s.onBusRead bus (fun _ _ => if (pldmCommands type.toNat).isSome then .text (Config.mgmtText 1 type.toNat) else .invalidData)

/-- GETPLDMTYPES. -/
def execGetpldmtypes (bus : MgmtBus) (s : State) : Host.Outcome State Fault Refusal := s.onBusRead bus (fun _ _ => .kinds [0, 2, 5])

/-- GETPLDMCOMMANDS. -/
def execGetpldmcommands (bus : MgmtBus) (type : BitVec 6) (s : State) : Host.Outcome State Fault Refusal :=
  s.onBusRead bus (fun _ _ => match pldmCommands type.toNat with | some cs => .commands cs | none => .invalidData)

/-! ### PLDM monitoring (R572) -/

/-- GETPDR. -/
def execGetpdr (bus : MgmtBus) (handle : BitVec 32) (s : State) : Host.Outcome State Fault Refusal :=
  s.onBusRead bus (fun _ _ => .text (Config.mgmtText 2 handle.toNat))

/-- What a numeric sensor reads. -/
def Dev.sensor (d : Dev) : NumSensor → Nat
  | .power => d.getF R.pwrPower 15 0
  | .railMillivolts n => d.getF (R.pwrRail n.val) 63 48
  | .railDeciamps n => d.getF (R.pwrRail n.val) 47 32
  | .temperature k => d.getF (R.pwrTemp k.val) 15 0

/-- GETSENSORREADING. -/
def execGetsensorreading (bus : MgmtBus) (sensor : NumSensor) (s : State) : Host.Outcome State Fault Refusal :=
  s.onBusRead bus (fun _ d => .reading (d.sensor sensor))

/-- What a state sensor reads. FAULT_N is low in SAFE-STOP only (R41). -/
def Dev.stateSensor (d : Dev) (c : CoreSt) : StateSensor → Nat
  | .mode => c.mode.code
  | .degraded => b2n (d.flag R.devStatus 1)
  | .faultN => b2n (c.mode != .safeStop)

/-- GETSTATESENSORREADINGS. -/
def execGetstatesensorreadings (bus : MgmtBus) (sensor : StateSensor) (s : State) : Host.Outcome State Fault Refusal :=
  s.onBusRead bus (fun c d => .state_ (d.stateSensor c sensor))

/-- A write of a numeric effecter: PWR_CAP.WATTS, PWR_THERM.THROTTLE_C or PWR_THERM.HOT_C, held to its limits. -/
def Dev.setEffecter (d : Dev) (e : NumEffecter) (v : Nat) : Dev :=
  match e with
  | .capWatts => d.setF R.pwrCap 15 0 (clamp 400 750 v)
  | .throttleC => d.setF R.pwrTherm 15 8 (clamp 80 105 v)
  | .hotC => d.setF R.pwrTherm 7 0 (clamp 70 100 v)

/-- SETNUMERICEFFECTERVALUE. -/
def execSetnumericeffectervalue (bus : MgmtBus) (effecter : NumEffecter) (v : BitVec 16) (s : State) : Host.Outcome State Fault Refusal :=
  s.onBus bus (fun x => (x.1, (x.2.setEffecter effecter v.toNat).reply .done))

/-- SAF_RETURN with KEY 0xA55A and PREPARE 1. -/
def returnWord : Word := BitVec.ofNat 64 (0xA55A <<< 48 + 1)

/-- SETSTATEEFFECTERSTATES: a cold reset (SOURCE 2), FW_CONFIRM, return preparation, ENTER_RECOVERY (SOURCE 6). -/
def execSetstateeffecterstates (bus : MgmtBus) (effecter : StateEffecter) (s : State) : Host.Outcome State Fault Refusal :=
  s.onBus bus (fun x =>
    match effecter with
    | .coldReset => deviceReset .cold 2 false (x.1, x.2.reply .done)
    | .fwConfirm => (x.1, if x.2.unconfirmed then x.2.confirm.reply .done else x.2.reply (.failed 0x0201))
    | .returnPrepare => (x.1, (x.2.returnPrepare returnWord).reply .done)
    | .enterRecovery => deviceReset .cold 6 true (x.1, x.2.reply .done))

/-! ### PLDM firmware update (R562, R572; the states of DSP0267) -/

/-- QUERYDEVICEIDENTIFIERS. -/
def execQuerydeviceidentifiers (bus : MgmtBus) (s : State) : Host.Outcome State Fault Refusal :=
  s.onBusRead bus (fun _ _ => .text (Config.mgmtText 3 0))

/-- GETFIRMWAREPARAMETERS: FW_VERSION of the running image, and of the pending one (0 where none is). -/
def execGetfirmwareparameters (bus : MgmtBus) (s : State) : Host.Outcome State Fault Refusal :=
  s.onBusRead bus (fun _ d => .versions (fwVersion d.firmware)
    (if d.pendingValid then fwVersion (d.slotHeader d.pendingSlot) else 0))

/-- The UPDATE_ID of a PLDM update (R572). -/
def pldmUpdateId (version : Bytes) (imageBytes : Nat) : Nat := ofLE ((sha384 (version ++ toLE 4 imageBytes)).take 8)

/-- Set the state of the update. -/
def Dev.setPldm (d : Dev) (st : PldmSt) : Dev := { d with mgmt := { d.mgmt with pldm := st } }

/-- REQUESTUPDATE: opens an update, or resumes the same one. -/
def Dev.requestUpdate (d : Dev) (c : CoreSt) (version : Bytes) (imageBytes : Nat) : Dev :=
  let id := pldmUpdateId version imageBytes
  if d.mgmt.pldm ≠ .idle ∧ d.updateOpen ∧ d.updateOwner = 2 then d.reply .alreadyInUpdate
  else if d.unconfirmed then d.reply .unableToInitiate
  else if !imageBytesOk imageBytes then d.reply .invalidData
  else if d.heldByOther c 2 then d.reply .alreadyInUpdate
  else
    let d := if d.updateOpen && d.updateOwner == 2 && d.updateId == id then d else d.openUpdate 2 id imageBytes
    let d := d.setFw (fun (f : FwUpdate) => { f with last := c.time.toNat })
    (d.setPldm .learn).reply .done

/-- REQUESTUPDATE. -/
def execRequestupdate (bus : MgmtBus) (version : Bytes) (imageBytes : BitVec 32) (s : State) : Host.Outcome State Fault Refusal :=
  s.onBus bus (fun x => (x.1, x.2.requestUpdate x.1 version imageBytes.toNat))

/-- A command that one state of the update accepts: NOT_IN_UPDATE_MODE where none is in progress or its owner has changed (R562), else
INVALID_STATE_FOR_COMMAND in another state. -/
def Dev.inPldm (d : Dev) (st : PldmSt) (f : Dev → Dev) : Dev :=
  if d.mgmt.pldm = .idle then d.reply .notInUpdate
  else if d.updateOwner ≠ 2 ∨ !d.updateOpen then (d.setPldm .idle).reply .notInUpdate
  else if d.mgmt.pldm = st then f d
  else d.reply .invalidState

/-- PASSCOMPONENTTABLE. -/
def execPasscomponenttable (bus : MgmtBus) (s : State) : Host.Outcome State Fault Refusal :=
  s.onBus bus (fun x => (x.1, x.2.inPldm .learn (fun d => (d.setPldm .readyXfer).reply .done)))

/-- UPDATECOMPONENT. -/
def execUpdatecomponent (bus : MgmtBus) (s : State) : Host.Outcome State Fault Refusal :=
  s.onBus bus (fun x => (x.1, x.2.inPldm .readyXfer (fun d => (d.setPldm .download).reply .done)))

/-- The lowest unit missing. -/
def Dev.nextUnit (d : Dev) : Option Nat := (List.range (d.acc.fw.imageBytes / 4096)).find? (fun u => !d.acc.fw.units.contains u)

/-- A unit requested and its data: the sector is marked before its first unit, and cleared when its units are done (R564). -/
def Dev.takeFirmware (d : Dev) (c : CoreSt) (u : Nat) (data : Bytes) : Dev :=
  let k := sectorOf u
  let d := if d.acc.fw.inProgress.contains k then d else d.beginSector k
  let d := (d.putUnit u data).1
  let all := (List.range 16).all (fun j => decide (d.acc.fw.imageBytes / 4096 ≤ 16 * k + j) || d.acc.fw.units.contains (16 * k + j))
  let d := if all then d.endSector k else d
  d.setFw (fun (f : FwUpdate) => { f with last := c.time.toNat })

/-- REQUESTFIRMWAREDATA: the device asks for the lowest missing unit; `data` is the 4,096 bytes returned. -/
def execRequestfirmwaredata (bus : MgmtBus) (data : Bytes) (s : State) : Host.Outcome State Fault Refusal :=
  s.onBus bus (fun x =>
    let (c, d) := x
    match d.mgmt.pldm == .download && d.updateOpen && d.updateOwner == 2, d.nextUnit with
    | true, some u =>
      let d := d.reply (.request (4096 * u) 4096)
      if data.length = 4096 then (c, d.takeFirmware c u data) else (c, d)
    | _, _ => x)

/-- TRANSFERCOMPLETE: once no unit is missing. -/
def execTransfercomplete (bus : MgmtBus) (s : State) : Host.Outcome State Fault Refusal :=
  s.onBus bus (fun x => (x.1, x.2.inPldm .download (fun d => if d.unitsMissing = 0 then (d.setPldm .verify).reply .done else d)))

/-- VERIFYCOMPLETE reports the commit checks. -/
def execVerifycomplete (bus : MgmtBus) (s : State) : Host.Outcome State Fault Refusal :=
  s.onBus bus (fun x => (x.1, x.2.inPldm .verify (fun d =>
    match d.commitUpdate d.updateId with
    | (d, _, 0) => (d.setPldm .apply).reply .done
    | (d, _, st) => (d.setPldm (if d.updateOpen then .readyXfer else .idle)).reply (.failed st))))

/-- APPLYCOMPLETE. -/
def execApplycomplete (bus : MgmtBus) (s : State) : Host.Outcome State Fault Refusal :=
  s.onBus bus (fun x => (x.1, x.2.inPldm .apply (fun d => (d.setPldm .readyXfer).reply .done)))

/-- ActivateFirmware of a committed update: FW_ACTIVATE with WHEN 0 where self-contained, else with WHEN 1. -/
def pldmActivate (selfContained : Bool) (x : CoreSt × Dev) : CoreSt × Dev :=
  let (c, d) := x
  if d.mgmt.pldm ≠ .readyXfer ∨ !d.updateOpen ∨ d.updateOwner ≠ 2 then (c, d.inPldm .readyXfer id)
  else if !d.committed then (c, d.reply (.failed 0x0201))
  else if !selfContained then (c, ((d.selectPending d.targetSlot).setPldm .idle).reply .done)
  else if c.mode ≠ .service then (c, d.reply .invalidState)
  else if !d.stagingOk then (c, d.reply (.failed 0x0402))
  else startActivation none (c, (d.setPldm .activate).reply .done)

/-- ACTIVATEFIRMWARE. -/
def execActivatefirmware (bus : MgmtBus) (selfContained : Bool) (s : State) : Host.Outcome State Fault Refusal :=
  s.onBus bus (pldmActivate selfContained)

/-- The codes of the update states. -/
def PldmSt.code : PldmSt → Nat
  | .idle => 0
  | .learn => 1
  | .readyXfer => 2
  | .download => 3
  | .verify => 4
  | .apply => 5
  | .activate => 6

/-- GETSTATUS: the state, and the percentage of units done. -/
def execGetstatus (bus : MgmtBus) (s : State) : Host.Outcome State Fault Refusal :=
  s.onBusRead bus (fun _ d => .progress d.mgmt.pldm.code (100 * d.acc.fw.units.length / max 1 (d.acc.fw.imageBytes / 4096)))

/-- CANCELUPDATECOMPONENT: the transfer, its verification or its application stops. -/
def execCancelupdatecomponent (bus : MgmtBus) (s : State) : Host.Outcome State Fault Refusal :=
  s.onBus bus (fun x => (x.1, x.2.inPldm (match x.2.mgmt.pldm with
      | .verify => .verify
      | .apply => .apply
      | _ => .download) (fun d => (d.setPldm .readyXfer).reply .done)))

/-- CANCELUPDATE closes the update and clears its progress. -/
def execCancelupdate (bus : MgmtBus) (s : State) : Host.Outcome State Fault Refusal :=
  s.onBus bus (fun x => (x.1, x.2.inPldm (if x.2.mgmt.pldm = .activate then .idle else x.2.mgmt.pldm) (fun d =>
    ((d.closeUpdate.setFw (fun _ => {})).setPldm .idle).reply .done)))

/-! ### SPDM (R573) -/

/-- The configuration in force after R560, as records. -/
def Dev.configBytes (d : Dev) : Bytes := d.cfg.flatMap (fun e => cfgRecordBytes e.1 e.2.1 e.2.2)

/-- The measurements, indices 1 to 7: SHA-384 of the ROM, of the components 1 to 5 that run, and of the configuration in force. -/
def Dev.measurements (d : Dev) : List Bytes :=
  ([Config.romCode] ++ [1, 2, 3, 4].map d.runningComponent ++ [d.phy, d.configBytes]).map sha384

/-- SPDM_REQUEST: the responder answers over MCTP, to messages of at most 4,224 bytes (R571), or on the mailbox of a port whose link is
up. -/
def execSpdmRequest (path : SpdmPath) (msg : Bytes) (s : State) : Host.Outcome State Fault Refusal :=
  s.onDev (fun c d =>
    let open_ := match path with
      | .doe p => (d.port p.val).linkUp
      | .mctp b => d.busTaken b && decide (msg.length ≤ 4224)
    if d.mgmtUp c && open_ then
      { d with fresh := d.fresh + 1 }.reply (.text (Config.spdmResponse d.fresh d.measurements msg))
    else d)

end Sys2Proof.Machine
end

