-- ==== Sys2Proof/Machine/Recovery.lean ====
section
/-!
DEFINITION. RECOVERY (R568 to R570): the write window and the recovery commands of the host ports, and the frames of the UART.
-/

namespace Sys2Proof.Machine

/-! ### Owner and result (R568) -/

/-- FWU_RCV_STATUS: the result of a command that was performed. -/
def Dev.rcvDone (d : Dev) (status : Nat) : Dev := (d.setF R.fwuRcvStatus 63 48 status).setFlag R.fwuRcvStatus 46 true

/-- A command from a source that does not own RECOVERY. -/
def Dev.rcvRefuse (d : Dev) : Dev := d.setF R.fwuRcvStatus 63 48 0x0500

/-- Does a source own RECOVERY: SOURCE 1 with its port, or SOURCE 2 for the UART? The first to command does. -/
def Dev.rcvOwns (d : Dev) (source port : Nat) : Bool :=
  d.getF R.fwuRcvStatus 45 44 == 0 || (d.getF R.fwuRcvStatus 45 44 == source && (source == 2 || d.getF R.fwuRcvStatus 43 42 == port))

/-- Take the ownership. -/
def Dev.rcvTake (d : Dev) (source port : Nat) : Dev := (d.setF R.fwuRcvStatus 45 44 source).setF R.fwuRcvStatus 43 42 port

/-- The 65,536 bytes of the write window. -/
def Dev.windowBytes (d : Dev) : Bytes := (List.range 8192).flatMap (fun k => toLE 8 (look d.mgmt.window k 0).toNat)

/-- GO: the ROM erases the block's sector, programs it, reads it back and checks its CRC. -/
def Dev.recoverBlock (d : Dev) (slot : Bool) (block : Nat) : Dev :=
  if 1791 < block then d.rcvDone 0x0201
  else
    let bs := d.windowBytes
    let d := (d.eraseSector slot block).program_ (slotBase slot + 65536 * block) bs
    d.rcvDone (if blockOk (d.slotBlock slot block) then 0 else 0x0402)

/-- FINISH (R570): authenticate the slot; where it passes, it becomes the active one and the device resets cold with SOURCE 5. The
status where it fails. -/
def recoverFinish (slot : Bool) (x : CoreSt × Dev) : (CoreSt × Dev) × Option Nat :=
  match x.2.slotStatus slot with
  | some st => ((x.1, x.2.rcvDone st), some st)
  | none => (deviceReset .cold 5 false (x.1, (x.2.rcvDone 0).selectActive slot), none)

/-- May a port's function command the ROM: RECOVERY, and its link is up? -/
def rcvOpen (port : Nat) (x : CoreSt × Dev) : Bool := x.1.mode == .recovery && (x.2.port port).linkUp

/-- A GO from a port. -/
def recoveryGo (port : Nat) (slot : Bool) (block : Nat) (x : CoreSt × Dev) : CoreSt × Dev :=
  if !rcvOpen port x then x
  else if !x.2.rcvOwns 1 port then (x.1, x.2.rcvRefuse)
  else (x.1, (x.2.rcvTake 1 port).recoverBlock slot block)

/-- A FINISH from a port. -/
def recoveryFinish (port : Nat) (slot : Bool) (x : CoreSt × Dev) : CoreSt × Dev :=
  if !rcvOpen port x then x
  else if !x.2.rcvOwns 1 port then (x.1, x.2.rcvRefuse)
  else (recoverFinish slot (x.1, x.2.rcvTake 1 port)).1

/-- RECOVERY_GO. -/
def execRecoveryGo (port : Fin 4) (slot : Bool) (block : BitVec 12) (s : State) : Host.Outcome State Fault Refusal :=
  s.onAll (recoveryGo port.val slot block.toNat)

/-- RECOVERY_FINISH. -/
def execRecoveryFinish (port : Fin 4) (slot : Bool) (s : State) : Host.Outcome State Fault Refusal :=
  s.onAll (recoveryFinish port.val slot)

/-- A write of 8 bytes into the window. -/
def Dev.writeWindow (d : Dev) (off : Nat) (v : Word) : Dev :=
  { d with mgmt := { d.mgmt with window := put d.mgmt.window (off % 0x10000 / 8) v } }

/-! ### UART frames (R569) -/

/-- A frame the device sends: ACK (0x81) or NAK (0x82) of a SEQ, with a status. -/
def uartAnswer (kind seq status : Nat) : Bytes :=
  let body := toLE 1 kind ++ toLE 1 seq ++ toLE 2 2 ++ toLE 2 status
  [0x58, 0x52] ++ body ++ toLE 4 (crc32c body)

/-- A frame: TYPE, SEQ, payload, and whether its CRC holds; none where it does not begin with SYNC or is cut short. -/
def uartFrame (f : Bytes) : Option (Nat × Nat × Bytes × Bool) :=
  let n := le f 4 2
  if f.take 2 ≠ [0x58, 0x52] ∨ f.length < 10 + n then none
  else some (le f 2 1, le f 3 1, slice f 6 n, crc32c (slice f 2 (4 + n)) == le f (6 + n) 4)

/-- Send an ACK and expect the next SEQ; or send a NAK. -/
def Dev.uartAck (d : Dev) (seq status : Nat) : Dev :=
  { d with mgmt := { d.mgmt with uartOut := uartAnswer 0x81 seq status :: d.mgmt.uartOut, uartSeq := some ((seq + 1) % 256) } }
def Dev.uartNak (d : Dev) (seq status : Nat) : Dev :=
  { d with mgmt := { d.mgmt with uartOut := uartAnswer 0x82 seq status :: d.mgmt.uartOut } }

/-- A frame of TYPE `ty` whose payload has `len` bytes: outside RECOVERY input is ignored, a bad CRC draws a NAK, a SEQ out of order is
ignored, a frame while a port owns RECOVERY is refused. `f` performs it and answers. -/
def uartTake (ty len : Nat) (frame : Bytes) (f : Nat → Bytes → CoreSt × Dev → CoreSt × Dev) (x : CoreSt × Dev) : CoreSt × Dev :=
  if x.1.mode ≠ .recovery then x
  else match uartFrame frame with
    | none => x
    | some (t, seq, payload, ok) =>
      if t ≠ ty then x
      else if !ok then (x.1, x.2.uartNak seq 0x0402)
      else if (match x.2.mgmt.uartSeq with | some e => e != seq | none => false) then x
      else if payload.length ≠ len then (x.1, x.2.uartNak seq 0x0201)
      else if !x.2.rcvOwns 2 0 then (x.1, x.2.rcvRefuse.uartNak seq 0x0500)
      else f seq payload (x.1, x.2.rcvTake 2 0)

/-- One unit of a slot (R569): its sector is erased before the first unit written to it in this pass; programming only clears bits, and
the unit is read back. -/
def Dev.recoverUnit (d : Dev) (slot : Bool) (off : Nat) (bs : Bytes) : Dev × Nat :=
  let k := off / 65536
  let key := (b2n slot, k)
  let d := if d.mgmt.erased.contains key then d
    else { d.eraseSector slot k with mgmt := { d.mgmt with erased := key :: d.mgmt.erased } }
  let a := slotBase slot + off
  let d := d.program_ a (List.zipWith (fun (x y : Byte) => x &&& y) (d.flash a 4096) bs)
  (d, if d.flash a 4096 = bs then 0 else 0x0402)

/-- UART_DATA: a unit of a slot image. -/
def execUartData (frame : Bytes) (s : State) : Host.Outcome State Fault Refusal :=
  s.onAll (uartTake 1 4104 frame (fun seq p x =>
    let off := le p 4 4
    if 1 < le p 0 1 ∨ off % 4096 ≠ 0 ∨ slotBytes ≤ off then (x.1, (x.2.rcvDone 0x0201).uartNak seq 0x0201)
    else match x.2.recoverUnit (le p 0 1 == 1) off (slice p 8 4096) with
      | (d, 0) => (x.1, (d.rcvDone 0).uartAck seq 0)
      | (d, st) => (x.1, (d.rcvDone st).uartNak seq st)))

/-- UART_FINISH (R570): the ACK carries the status. -/
def execUartFinish (frame : Bytes) (s : State) : Host.Outcome State Fault Refusal :=
  s.onAll (uartTake 2 1 frame (fun seq p x =>
    if 1 < le p 0 1 then (x.1, (x.2.rcvDone 0x0201).uartNak seq 0x0201)
    else match x.2.slotStatus (le p 0 1 == 1) with
      | some st => (x.1, (x.2.rcvDone st).uartAck seq st)
      | none => (recoverFinish (le p 0 1 == 1) (x.1, x.2.uartAck seq 0)).1))

/-- UART_SPEED: the ACK goes out at the old speed. -/
def execUartSpeed (frame : Bytes) (s : State) : Host.Outcome State Fault Refusal :=
  s.onAll (uartTake 3 1 frame (fun seq p x =>
    let v := le p 0 1
    if v = 0 ∨ 2 < v then (x.1, (x.2.rcvDone 0x0201).uartNak seq 0x0201)
    else
      let d := (x.2.rcvDone 0).uartAck seq 0
      (x.1, { d with mgmt := { d.mgmt with uartNext := some v } })))

/-- UART_SPEED_CHANGE: 1 ms after the ACK, the new speed. -/
def execUartSpeedChange (s : State) : Host.Outcome State Fault Refusal :=
  s.onDev (fun _ d =>
    match d.mgmt.uartNext with
    | some v => { d with mgmt := { d.mgmt with uartSpeed := v, uartNext := none } }
    | none => d)

end Sys2Proof.Machine
end

