-- ==== Sys2Proof/Machine/Startup.lean ====
section
/-!
DEFINITION. The modes (spec/02_modes_and_startup.md): power, the ROM pass, CONFIGURE, entry to SERVICE, quiescing, maintenance, resets,
and the PFAIL_N dump's pin events.
-/

namespace Sys2Proof.Machine

/-! ### Power (R33, R58) -/

/-- PWRGOOD_RISE: a power-on reset. `gpio0Low`: GPIO0 is low as PWRGOOD rises. -/
def execPwrgoodRise (gpio0Low : Bool) (s : State) : Host.Outcome State Fault Refusal :=
  s.onPin (fun (c, d) =>
    if c.mode ≠ .off then (c, d)
    else deviceReset .powerOn 0 false ({ c with pwrgood := true, gpio0Low := gpio0Low }, d))

/-- PWRGOOD_FALL: OFF from any mode, the change logged in the accession log (R31). While a dump runs the platform has broken R58, to which R10 applies. -/
def execPwrgoodFall (s : State) : Host.Outcome State Fault Refusal :=
  if s.core.dumping then .fault .integratorBreach
  else s.onPin (fun (c, d) =>
    if c.mode = .off then (c, d)
    else
      let y := changeMode .off (c, d)
      ({ y.1 with pwrgood := false }, { y.2 with pwr := { y.2.pwr with trip := false } }))

/-! ### Entry to SERVICE (R55) -/

/-- The ENABLED bits that are set at SERVICE entry. -/
def Dev.enableBlocks (d : Dev) : Dev :=
  let d := [R.evtStatus, R.docStatus, R.excStatus, R.folStatus, R.dmaStatus, R.prvStatus, R.catStatus, R.safStatus, R.pwrStatus,
    R.fwuStatus, R.memStatus, R.xqStatus, R.volStatus, R.insStatus].foldl (fun (d : Dev) r => d.setFlag r 0 true) d
  (List.range 8).foldl (fun (d : Dev) k => d.setFlag (R.sflStatus k) 0 true) d

/-- Logical galleries that are present and not fenced, in order. -/
def Dev.goodLogical (d : Dev) : List Nat :=
  (List.range 128).filter (fun g => !d.gals.absent.contains g && !d.isFenced Blk.gal (d.phys g))

/-- Partners present at CONFIGURE are reported as arrivals (R52): host ports with a link, SSDs that are ready, DIMMs, archive stacks. -/
def Dev.reportPartners (d : Dev) (c : CoreSt) : Dev :=
  let d := ((List.range 4).filter (fun p => (d.port p).linkUp)).foldl (fun (d : Dev) p => d.partner c true .hostPort p) d
  let d := d.presentSsds.foldl (fun (d : Dev) n => d.partner c true .ssd n) d
  let dimms := (List.range 8).flatMap (fun n => (List.range (d.getF (R.memAnxCfg n) 25 24)).map (fun k => 2 * n + k))
  let d := dimms.foldl (fun (d : Dev) n => d.partner c true .dimm n) d
  ((List.range 8).filter (fun s => (d.chan (64 * s)).st == .active)).foldl (fun (d : Dev) s => d.partner c true .stack s) d

/-- The first entry to SERVICE since a reset: blocks enabled, firmware in every in-service gallery and their cores released, the idle
queue filled; DEGRADED as the fences found so far say; partners reported; the named port's claim; a firmware update resumed (R564).
The "SERVICE entry" at which R146 orders the idle queue is this one, and not a return from QUIESCED (DESIGN CHOICE, log entry 133). -/
def firstService (x : CoreSt × Dev) : CoreSt × Dev :=
  let c := { x.1 with served := true, failedA := false, failedB := false }
  let d := x.2.enableBlocks
  let d := d.inService.foldl (fun (d : Dev) p => d.loadCore p) d
  let d := { d with
    gals := { d.gals with released := true }
    doc := { d.doc with idle := d.goodLogical }
    exc := { d.exc with banks := d.excBanks }
    saf := { d.saf with heartbeat := c.time.toNat, kick := c.time.toNat } }
  let cause := d.saf.fences.getLast?.getD (0, 0)
  let d := ((d.degraded c cause.1 cause.2).reportPartners c).namedClaim c
  (c, d.resumeUpdate)

/-- SERVICE, with what its first entry brings. -/
def enterService (x : CoreSt × Dev) : CoreSt × Dev :=
  let y := changeMode .service x
  let y : CoreSt × Dev := ({ y.1 with quiesceFor := none, drained := false }, y.2)
  if x.1.served then y else firstService y

/-! ### The ROM pass (R45 to R49) -/

/-- Galleries that fail the structural test are retired, and reserves of their die that passed take their numbers, or the number is
absent (R19, R20, R46). -/
def Dev.romGalleries (d : Dev) (c : CoreSt) (bad : List Nat) : Dev :=
  let d := (d.count R.safCntTest 136).count R.safCntTestfail bad.length
  let good := (List.range 136).filter (fun p => !bad.contains p)
  let d := good.foldl (fun (d : Dev) p => d.setF (R.safGal p) 31 0 (c.time.toNat / 1000000)) d
  let d := { d with
    gals := { d.gals with retired := bad }
    saf := { d.saf with passed := good } }
  let d := bad.foldl (fun (d : Dev) p =>
    (d.safetyLog c.time { action := 8, mech := 10, block := Blk.gal, unit := p }).safetyLog c.time
      { action := 2, mech := 10, block := Blk.gal, unit := p }) d
  ((List.range 128).filter (fun g => bad.contains (34 * (g / 32) + g % 32))).foldl (fun (d : Dev) g =>
    let p := 34 * (g / 32) + g % 32
    match d.reserveOf (p / 34) with
    | some q => { d with gals := { d.gals with map := put d.gals.map g q } }.safetyLog c.time
        { action := 3, mech := 10, block := Blk.gal, unit := p, detail := toLE 2 q }
    | none =>
      let d := d.fenceUnit c 10 Blk.gal p 0
      { d with
        gals := { d.gals with absent := g :: d.gals.absent }
        doc := { d.doc with gal := put d.doc.gal g .absent } }) d

/-- What self-test, lane repair (R29, R46) and repair found, but for a fatal fault. A short self-test makes no new repair (R45). -/
def Dev.romFindings (d : Dev) (c : CoreSt) (r : RomReport) : Dev :=
  let repairs := if d.getF R.devResetCause 2 0 = 2 then [] else r.repairs
  let d := repairs.foldl (fun (d : Dev) e =>
    let d := (d.safetyLog c.time { action := 4, mech := 1, block := e.1, unit := e.2.1, detail := toLE 2 e.2.2 }).count R.safCntRepair
    { d with saf := { d.saf with repairLog := d.saf.repairLog ++ [e] } }) d
  let d := (d.setF R.safReserve 63 56 r.sramPct.toNat).setF R.safReserve 55 48 r.dramPct.toNat
  let d := each r.lanes (fun (e : Fin 15 × BitVec 8) (d : Dev) => d.laneFail c 10 e.1.val e.2.toNat) d
  let d := { d with saf := { d.saf with retraining := [] } }
  let d := d.romGalleries c (r.galleries.map (·.val))
  let d := r.catBanks.foldl (fun (d : Dev) b => d.fenceUnit c 10 Blk.cat b.val 0) d
  r.atriumBanks.foldl (fun (d : Dev) b => d.fenceUnit c 10 Blk.atrium b.val 0) d

/-- Has a slot failed this boot (R49)? -/
def CoreSt.slotFailed (c : CoreSt) (b : Bool) : Bool := if b then c.failedB else c.failedA

/-- Boot the first slot of a list that authenticates (R48); RECOVERY where none does. DEV_STATUS tells the slot, whether its image is
unconfirmed, and whether the active one boots because the tries ran out. Where PFAIL_N was low when PWRGOOD rose, the pass completes and
CONFIGURE waits (R538). -/
def bootFirst : List Bool → CoreSt × Dev → CoreSt × Dev
  | [], x => changeMode .recovery x
  | b :: bs, (c, d) =>
    if !c.slotFailed b && (d.slotStatus b).isNone then
      let d := d.setFlag R.devStatus 4 b
      let d := d.setFlag R.devStatus 5 (d.pendingValid && b == d.pendingSlot)
      let d := d.setFlag R.devStatus 6 (d.pendingValid && d.triesLeft == 0 && b == d.activeSlot)
      if c.lowAtRise then ({ c with passDone := true }, d) else changeMode .configure (c, d)
    else bootFirst bs (if b then { c with failedB := true } else { c with failedA := true }, d)

/-- The boot selector's order (R48), with a pending slot's try taken first. -/
def boot (x : CoreSt × Dev) : CoreSt × Dev :=
  let (c, d) := x
  if d.pendingValid ∧ 0 < d.triesLeft then
    let d := d.setF R.devBoot 11 8 (d.triesLeft - 1)
    bootFirst [d.pendingSlot, d.activeSlot] (c, d)
  else bootFirst [d.activeSlot, !d.activeSlot] (c, d)

/-- The end of the ROM pass. -/
def romPass (r : RomReport) (x : CoreSt × Dev) : CoreSt × Dev :=
  let (c, d) := x
  if c.mode ≠ .rom ∨ c.passDone = true then x
  else match r.fatal with
    | some u => enterSafeStop 10 u.block.toNat u.unit.toNat (c, d.romFindings c r)
    | none =>
      let y := (c, d.romFindings c r)
      if c.toRecovery || c.gpio0Low then changeMode .recovery y else boot y

/-- ROM_PASS_DONE. -/
def execRomPassDone (r : RomReport) (s : State) : Host.Outcome State Fault Refusal := s.onAll (romPass r)

/-! ### CONFIGURE (R50, R51, R558, R560) -/

/-- The DIMMs of a channel. -/
def dimmsOf (r : DimmReport) : List Dimm := r.first.toList ++ r.second.toList

/-- Is a DIMM one that an annex channel accepts (R382)? -/
def dimmOk (x : Dimm) : Bool :=
  x.kind == .rdimm && (x.width == 4 || x.width == 8) && decide (16 ≤ x.gib.toNat) && decide (x.gib.toNat ≤ 256) && decide (4800 ≤ x.mts.toNat)

/-- Do two DIMMs of one channel match (R382)? -/
def dimmsMatch (x y : Dimm) : Bool := x.gib == y.gib && x.width == y.width && x.ranks == y.ranks && x.dies == y.dies

/-- Is a channel's population supported (R382)? -/
def dimmsOk (r : DimmReport) : Bool :=
  (r.second.isNone || r.first.isSome) && (dimmsOf r).all dimmOk &&
    (match r.first, r.second with
     | some x, some y => dimmsMatch x y
     | _, _ => true)

/-- The speed of a channel (R383): the highest bin of JESD79-5 from 4,800 to 6,400 MT/s that every DIMM on it supports, under the image's cap. -/
def dimmSpeed (r : DimmReport) (cap : Nat) : Nat :=
  let top := (dimmsOf r).foldl (fun m x => min m x.mts.toNat) (min cap 6400)
  4800 + (top - 4800) / 400 * 400

/-- The DIMMs of an annex channel (R51, R382 to R384): an empty channel is absent and an unsupported one fenced. MEM_ANX_CFG tells what its first
DIMM is, and the speed in force. -/
def Dev.fitAnnex (d : Dev) (c : CoreSt) (cap n : Nat) (r : DimmReport) : Dev :=
  let ch := 512 + n
  match dimmsOf r with
  | [] =>
    let d := (d.setReg (R.memAnxCfg n) 0).fenceChannel c ch
    d.setChan ch { d.chan ch with st := .absent, bytes := 0 }
  | x :: more =>
    let v := (if dimmsOk r then dimmSpeed r cap else 0) <<< 48 + x.gib.toNat <<< 32 + x.ranks.toNat <<< 28 + (1 + more.length) <<< 24 +
      b2n (x.width == 4) <<< 16 + x.width.toNat
    let d := d.setReg (R.memAnxCfg n) (BitVec.ofNat 64 v)
    let d := d.setChan ch { d.chan ch with bytes := (1 + more.length) * x.gib.toNat * 2 ^ 30 }
    if dimmsOk r then d else d.fenceChannel c ch

/-- Apply a configuration record; its register entries are written in order, each by the register's own rules. -/
def Dev.applyRecord (d : Dev) (c : CoreSt) (r : CfgRecord) : Dev :=
  let b := r.body
  let entries (d : Dev) (bs : Bytes) : Dev :=
    (regEntries bs).foldl (fun (d : Dev) e => d.storeReg c .registrar e.1 (BitVec.ofNat 64 e.2)) d
  match r.ty with
  | 1 =>
    let d := each (List.range 4) (fun p (d : Dev) => d.setPort p { d.port p with lanes := le b p 1 }) d
    { d with ins := { d.ins with named := some (le b 4 1) } }
  | 2 => { d with ins := { d.ins with managers := (List.range (le b 0 1)).map (fun k => slice b (16 + 48 * k) 48) } }
  | 3 => (d.setInst 0 { d.inst 0 with share := shareOf b }).dmaBalance
  | 4 =>
    let d := d.setReg R.insTt (BitVec.ofNat 64 (le b 8 8 / 4096 * 4096))
    entries { d with ins := { d.ins with tableLimit := le b 0x10 8 / 4096 } } (b.drop 32)
  | 5 => entries d b
  | 6 => entries d b
  | 7 => entries d b
  | 8 => { d with mgmt := { d.mgmt with
      smbusAddr := le b 0 1
      uartMax := le b 1 1
      eidStatic := le b 2 1
      eid := if d.mgmt.eid = 0 then le b 2 1 else d.mgmt.eid } }
  | _ => d

/-- The records in force (R560): each of the image's, replaced by the settings record that serves; and the settings records that were not
applied, by type and format. A settings record of a type that the image leaves out is applied as well. -/
def Dev.recordsInForce (d : Dev) (stream : Bytes) (rs : List CfgRecord) : List CfgRecord × List (Nat × Nat) :=
  match d.settings with
  | none => (rs, [])
  | some (_, _, bs) =>
    let saved := (recordsOf bs).getD []
    let found := [3, 4, 5, 6, 7].map (fun ty => settingsFor shareOk stream saved ty)
    let use := found.filterMap (·.1)
    let replaced := rs.map (fun (r : CfgRecord) => (use.find? (fun (u : CfgRecord) => u.ty == r.ty)).getD r)
    let added := use.filter (fun (u : CfgRecord) => !rs.any (fun (r : CfgRecord) => r.ty == u.ty))
    (replaced ++ added, (found.flatMap (·.2)).map (fun (r : CfgRecord) => (r.ty, r.format)))

/-- The configuration of the running image, applied (R50, R51, R560): the records in force, the DIMMs found, and at the first CONFIGURE of a
pending image the settings written in two formats (R561). -/
def Dev.configureWith (d : Dev) (c : CoreSt) (r : ConfigReport) (stream : Bytes) (rs : List CfgRecord) : Dev :=
  let (use, skipped) := d.recordsInForce stream rs
  let d := skipped.foldl (fun (d : Dev) e => d.logEvent c.time 0x0D 0 0 (toLE 2 e.1 ++ toLE 2 e.2)) d
  let d := { d with cfg := use.map (fun (r : CfgRecord) => (r.ty, r.format, r.body)) }
  let cap := le (d.cfgBody 4) 0 2
  let none_ : DimmReport := { first := none, second := none }
  let d := (List.range 8).foldl (fun (d : Dev) n => d.fitAnnex c cap n (r.annex.getD n none_)) d
  let d := use.foldl (fun (d : Dev) u => d.applyRecord c u) d
  if d.unconfirmed && !d.acc.fw.dual then d.saveSettings.setFw (fun (f : FwUpdate) => { f with dual := true }) else d

/-- The configuration records of an image stream, where its directory and every record pass their checks (R50, R557, R558). -/
def configOf (stream : Bytes) : Option (List CfgRecord) := if directoryOk stream then imageRecords shareOk stream else none

/-- The image of the running slot, and its component 5 (R50). -/
def Dev.loadFirmware (d : Dev) (stream : Bytes) : Dev :=
  { d with firmware := stream, phy := (match component stream 5 with | some e => e.2 | none => []) }

/-- The configuration read once: a directory or record that fails causes a slot retry (R49, R50). -/
def configureRecords (r : ConfigReport) (x : CoreSt × Dev) : CoreSt × Dev :=
  let (c, d) := x
  if c.mode ≠ .configure || !d.cfg.isEmpty then x
  else
    let stream := d.streamOf d.runningSlot
    match configOf stream with
    | none => slotRetry x
    | some rs => (c, (d.loadFirmware stream).configureWith c r stream rs)

/-- CONFIGURE_RECORDS_DONE. -/
def execConfigureRecordsDone (r : ConfigReport) (s : State) : Host.Outcome State Fault Refusal := s.onAll (configureRecords r)

/-- An archive stack that is absent or fails (R51): it is fenced with its interleave sets (set `n` as unit 0x1000 + n of the MEM block). -/
def Dev.fenceStack (d : Dev) (c : CoreSt) (s : Nat) : Dev :=
  let d := (List.range 64).foldl (fun (d : Dev) k => d.fenceChannel c (64 * s + k)) d
  let hit := (List.range 16).filter (fun n =>
    let m := d.memSet n
    m.enable && !m.annex && decide (m.first < 64 * s + 64) && decide (64 * s < m.first + m.count))
  hit.foldl (fun (d : Dev) n => d.fence c Blk.mem (0x1000 + n)) d

/-- Post-package repair (R51, R381): every DRAM row of the repair log is repaired permanently. -/
def Dev.repairRows (d : Dev) : Dev :=
  let rows := (d.saf.repairLog.filter (fun e => e.1 == Blk.mem)).map (fun e => e.2)
  { d with saf := { d.saf with permanent := d.saf.permanent ++ (rows.filter (fun e => !d.saf.permanent.contains e)).eraseDups } }

/-- CONFIGURE ends: in MAINTENANCE where a whole-device operation is unfinished (R39), else in SERVICE. -/
def configureComplete (r : PartnerReport) (x : CoreSt × Dev) : CoreSt × Dev :=
  let (c, d) := x
  if c.mode ≠ .configure || d.cfg.isEmpty then x
  else
    let d := r.stackSet.foldl (fun (d : Dev) s => d.fenceStack c s.val) d.repairRows
    let d := (r.annex.filter (fun n => (d.chan (512 + n.val)).st == .active)).foldl (fun (d : Dev) n => d.fenceChannel c (512 + n.val)) d
    if d.acc.maint.any (fun (m : Maint) => m.volume == 0xFFFF) then
      let y := changeMode .maintenance (c, d)
      ({ y.1 with failedA := false, failedB := false }, y.2)
    else enterService (c, d)

/-- CONFIGURE_COMPLETE. -/
def execConfigureComplete (r : PartnerReport) (s : State) : Host.Outcome State Fault Refusal := s.onAll (configureComplete r)

/-! ### Resets requested (R43, R65) -/

/-- May a source write DEV_MODE_REQ and DEV_RESET (R65)? -/
def Dev.mayRequest (d : Dev) (src : Source) : Bool := src == .management || d.holdsRole src

/-- SOURCE of a reset that a DEV_RESET write asks for. -/
def resetSource (src : Source) : Nat := if src = .management then 2 else 1

/-- A write of DEV_RESET (R65): COLD goes before WARM; a warm reset in SAFE-STOP is performed as cold (R42). -/
def devReset (src : Source) (key : Nat) (cold warm registrar : Bool) (x : CoreSt × Dev) : CoreSt × Dev :=
  let (c, d) := x
  if !d.mayRequest src || key != 0x5A3C then x
  else if cold then deviceReset .cold (resetSource src) false x
  else if warm then deviceReset (if c.mode = .safeStop then .warmAsCold else .warm) (resetSource src) false x
  else if registrar ∧ c.mode ≠ .rom ∧ c.mode ≠ .recovery then (c, d.restartRegistrar c 2)
  else x

/-- DEV_RESET_COLD. -/
def execDevResetCold (src : Source) (key : BitVec 16) (s : State) : Host.Outcome State Fault Refusal :=
  s.onAll (devReset src key.toNat true false false)

/-- DEV_RESET_WARM. -/
def execDevResetWarm (src : Source) (key : BitVec 16) (s : State) : Host.Outcome State Fault Refusal :=
  s.onAll (devReset src key.toNat false true false)

/-- DEV_RESET_REGISTRAR. -/
def execDevResetRegistrar (src : Source) (key : BitVec 16) (s : State) : Host.Outcome State Fault Refusal :=
  s.onAll (devReset src key.toNat false false true)

/-! ### Mode requests (R33, R36, R65) -/

/-- A request that the current mode does not permit. -/
def Dev.rejectReq (d : Dev) : Dev := d.setFlag R.devStatus 11 true

/-- A write of DEV_MODE_REQ by a source that may make it. -/
def modeRequest (src : Source) (req : Nat) (x : CoreSt × Dev) : CoreSt × Dev :=
  let (c, d) := x
  if !d.mayRequest src then x
  else match req with
    | 1 =>
      if c.mode = .service then
        let y := changeMode .quiesced x
        ({ y.1 with quiesceFor := some .hold, drained := false }, y.2)
      else (c, d.rejectReq)
    | 2 => if c.mode = .quiesced ∧ c.quiesceFor = some .hold then enterService x else (c, d.rejectReq)
    | 3 => deviceReset .cold 6 true x
    | _ => x

/-- QUIESCE. -/
def execQuiesce (src : Source) (s : State) : Host.Outcome State Fault Refusal := s.onAll (modeRequest src 1)

/-- RESUME. -/
def execResume (src : Source) (s : State) : Host.Outcome State Fault Refusal := s.onAll (modeRequest src 2)

/-- ENTER_RECOVERY. -/
def execEnterRecovery (src : Source) (s : State) : Host.Outcome State Fault Refusal := s.onAll (modeRequest src 3)

/-! ### The drain (R35, R412) -/

/-- The command that waits for the quiesce. -/
def QuiesceFor.waiting : QuiesceFor → Option (Nat × Nat × Nat)
  | .hold => none
  | .activate cmd _ => cmd
  | .maintenance cmd _ _ => some cmd

/-- Is the drain complete: no task runs; started commands have completed, but for runs and the waiting command (R35, R433); for an
activation every fetched command has (R412)? -/
def drainDone (q : QuiesceFor) (d : Dev) : Bool :=
  let all := match q with | .activate _ _ => true | _ => false
  d.doc.task.isEmpty &&
  d.xq.cmds.all (fun (x : Cmd) => x.op == 0x11 || q.waiting == some (x.inst, x.pair, x.cid) || (!all && !x.started))

/-- Complete the command that waited, where one did. -/
def Dev.endWaiting (d : Dev) (c : CoreSt) (w : Option (Nat × Nat × Nat)) (result status : Nat) : Dev :=
  match w with
  | some (i, q, cid) => d.complete c i q cid result status
  | none => d

/-- Does whoever asked for a quiesce still wait (a Registrar restart ends that wait, R397)? -/
def stillWaits (q : QuiesceFor) (d : Dev) : Bool :=
  match q with
  | .hold => true
  | .activate (some (i, p, cid)) _ => (d.cmd i p cid).isSome
  | .activate none _ => d.mgmt.pldm == .activate
  | .maintenance (i, p, cid) _ _ => (d.cmd i p cid).isSome

/-- The record of a whole-device operation that starts (R434): with the serial numbers of the SSDs that are absent. -/
def Dev.recordMaint (d : Dev) (m : Maint) : Dev :=
  let gone := (d.vol.ssd.filter (fun (e : Nat × Ssd) => e.2.st == .absent && !e.2.serial.isEmpty)).map (fun e => e.2.serial)
  let m := { m with absent := gone }
  ({ d with acc := { d.acc with maint := d.acc.maint ++ [m] } }.setFlag R.devStatus 3 true).maintReg m 0 1

/-- The drain has finished. -/
def drainComplete (x : CoreSt × Dev) : CoreSt × Dev :=
  let (c, d) := x
  match c.quiesceFor with
  | none => x
  | some q =>
    if c.mode ≠ .quiesced || c.drained || !drainDone q d then x
    else if !stillWaits q d then enterService x
    else match q with
      | .hold => ({ c with drained := true }, d)
      | .activate cmd _ =>
        let (d, pause) := d.switchFirmware c
        let y := enterService (c, d)
        (y.1, (y.2.endWaiting y.1 cmd pause 0).setPldm (if cmd.isSome then y.2.mgmt.pldm else .idle))
      | .maintenance (i, p, cid) _ _ =>
        match (d.cmd i p cid).bind maintOf with
        | none => enterService x
        | some m =>
          let y := changeMode .maintenance (c, (d.endRuns c).recordMaint m)
          ({ y.1 with quiesceFor := none, drained := false }, y.2.endWaiting y.1 (some (i, p, cid)) 0 0)

/-- DRAIN_COMPLETE. -/
def execDrainComplete (s : State) : Host.Outcome State Fault Refusal := s.onAll drainComplete

/-- What asked for a quiesce that is given up is told: 0x0500. -/
def giveUp (q : QuiesceFor) (x : CoreSt × Dev) : CoreSt × Dev :=
  let y := enterService x
  let d := y.2.endWaiting y.1 q.waiting 0 0x0500
  match q with
  | .activate none _ => (y.1, (d.setPldm .readyXfer).reply (.failed 0x0500))
  | _ => (y.1, d)

/-- The drain exceeds DRAIN_MS (R35). -/
def drainTimeout (x : CoreSt × Dev) : CoreSt × Dev :=
  let (c, d) := x
  match c.quiesceFor with
  | none => x
  | some q =>
    if c.mode ≠ .quiesced || c.drained then x
    else
      let d := d.setFlag R.devStatus 10 true
      giveUp q (c, d.logEvent c.time 0x0C 0 0 (toLE 4 ((c.time.toNat - c.quiescedAt) / 1000)))

/-- DRAIN_TIMEOUT. -/
def execDrainTimeout (s : State) : Host.Outcome State Fault Refusal := s.onAll drainTimeout

/-- HOLD_TIMEOUT (R36): a held QUIESCED whose drain has finished goes back to SERVICE. -/
def execHoldTimeout (s : State) : Host.Outcome State Fault Refusal :=
  s.onAll (fun x => if x.1.mode = .quiesced ∧ x.1.quiesceFor = some .hold ∧ x.1.drained then enterService x else x)

/-- MAINTENANCE_COMPLETE (R33, R433): every present SSD has done its part. -/
def execMaintenanceComplete (s : State) : Host.Outcome State Fault Refusal :=
  s.onAll (fun x =>
    if x.1.mode ≠ .maintenance then x
    else match x.2.wholeMaintDone with
      | some m => enterService (x.1, (x.2.finishWholeMaint x.1 m).setFlag R.devStatus 3 false)
      | none => x)

/-! ### PFAIL_N (R56 to R63) -/

/-- PFAIL_N falls. In ROM, CONFIGURE and RECOVERY there is nothing to dump, in MAINTENANCE progress stands as it is; an activation whose
boot selector is not yet written is abandoned (R63). -/
def pfailFall (x : CoreSt × Dev) : CoreSt × Dev :=
  let c := { x.1 with pfailLow := true }
  let d := x.2
  if c.dumping || c.dumpHold then (c, d)
  else match c.mode with
    | .service => startDump false (c, d)
    | .quiesced =>
      (match c.quiesceFor with
       | some (.activate cmd b) => startDump false (giveUp (.activate cmd b) (c, d))
       | _ => startDump false (c, d))
    | .off => (c, d)
    | .safeStop => (c, d)
    | _ => ({ c with dumpHold := true }, d)

/-- PFAIL_N_FALL. -/
def execPfailNFall (s : State) : Host.Outcome State Fault Refusal := s.onPin pfailFall

/-- The copy is complete (R57): the dump is valid, DEV_PFAIL tells of it. `us`: its duration; `metaBytes`: the metadata written. -/
def dumpComplete (us metaBytes : Nat) (x : CoreSt × Dev) : CoreSt × Dev :=
  match x.1.dumping, x.2.acc.dump with
  | true, some u =>
    let d := { x.2 with acc := { x.2.acc with dump := some { u with valid := true } } }
    let v := us <<< 48 + b2n u.flagged <<< 45 + (bufferUsed u.blocks + metaBytes) % 2 ^ 32
    let d := ((d.setReg R.devPfail (BitVec.ofNat 64 v)).setFlag R.devStatus 8 true).setFlag R.devStatus 9 u.flagged
    ({ x.1 with dumping := false }, d)
  | _, _ => x

/-- DUMP_COMPLETE: no dump has more metadata than 256 KiB (R57). -/
def execDumpComplete (us : BitVec 16) (metaBytes : BitVec 19) (s : State) : Host.Outcome State Fault Refusal :=
  s.onAll (fun x => if metaBytes.toNat ≤ Config.dumpMetadata then dumpComplete us.toNat metaBytes.toNat x else x)

/-- PFAIL_N_RISE. A dump that runs goes on (R60). -/
def execPfailNRise (s : State) : Host.Outcome State Fault Refusal := s.onPin (fun (c, d) => ({ c with pfailLow := false }, d))

/-- The dump of this dump point is invalid: an older dump that it stood beside is the newest again. -/
def Dev.dropDump (d : Dev) (c : CoreSt) : Dev :=
  match d.acc.older with
  | some u =>
    let d := { d with acc := { d.acc with dump := some u, older := none } }
    (d.setFlag R.devStatus 8 u.valid).setFlag R.devStatus 9 (u.valid && u.flagged && !u.ordered)
  | none => d.endDump c false

/-- DUMP_INVALIDATE (R60): PFAIL_N has been high for 1 ms with PWRGOOD high and no dump runs: the dump is marked invalid, then the buffer
accepts insertions and fetch resumes. A dump of SAFE-STOP stands (R62). A ROM pass that waited for it enters CONFIGURE (R538). -/
def execDumpInvalidate (s : State) : Host.Outcome State Fault Refusal :=
  s.onAll (fun (c, d) =>
    if !c.dumpHold || c.pfailLow || !c.pwrgood || c.dumping || c.mode == .safeStop then (c, d)
    else
      let d := if c.dumpTaken then d.dropDump c else d
      let y : CoreSt × Dev := ({ c with dumpHold := false, dumpTaken := false, lowAtRise := false, passDone := false }, d)
      if c.passDone && c.mode == .rom then changeMode .configure y else y)

end Sys2Proof.Machine
end

