-- ==== Sys2Proof/Machine/RegWrites.lean ====
section
/-!
DEFINITION. Register writes (R53, R65, R386, R414, R568, R578, R582): which offsets a source reaches, and what a write there does.
-/

namespace Sys2Proof.Machine

/-- A write in the window of instance `i` (R387, R414, R578): registers take 8 bytes, doorbells and the MSI-X table 4 or 8, aligned. -/
def Dev.windowWrite (d : Dev) (c : CoreSt) (i o size : Nat) (v : Word) : Dev :=
  if (size ≠ 4 ∧ size ≠ 8) ∨ o % size ≠ 0 then d
  else if o < 0x1000 then
    (if size = 8 then d.storeReg c (.vf (BitVec.ofNat 8 i)) (0x4000000 + 0x40000 * i + o) v else d)
  else if o < 0x1400 then
    (if o % 16 = 0 then d.sqDoorbell i ((o - 0x1000) / 16) (fld v 15 0)
     else if o % 16 = 8 then d.cqDoorbell i ((o - 0x1000) / 16) (fld v 15 0) else d)
  else if 0x10000 ≤ o ∧ o < 0x10400 then d.writeMsix i (o - 0x10000) (size == 8) v
  else d

/-- FWU_CTRL: its counter event bit, then SETTINGS_SAVE, then SETTINGS_CLEAR. -/
def Dev.writeFwuCtrl (d : Dev) (v : Word) : Dev :=
  let d := d.writeReg R.fwuCtrl v
  if !d.registrarUp then d
  else
    let d := if fld v 0 0 = 1 then d.saveSettings else d
    if fld v 1 1 = 1 then d.clearSettings else d

/-- A write of 8 bytes in RECOVERY from a physical function (R568): FWU_RCV_CMD and the write window. GO goes before FINISH. -/
def recoveryWrite (port off : Nat) (v : Word) (x : CoreSt × Dev) : CoreSt × Dev :=
  if off = R.fwuRcvCmd then
    (if fld v 63 63 = 1 then recoveryGo port (fld v 61 61 == 1) (fld v 27 16) x
     else if fld v 62 62 = 1 then recoveryFinish port (fld v 61 61 == 1) x else x)
  else if 0x1110000 ≤ off ∧ off < 0x1120000 ∧ rcvOpen port x then (x.1, x.2.writeWindow off v)
  else x

/-- An aligned write of 8 bytes in the manager view, outside instance 0's window. -/
def managerWrite (src : Source) (off : Nat) (v : Word) (x : CoreSt × Dev) : CoreSt × Dev :=
  let (c, d) := x
  if off = R.devModeReq then modeRequest src (fld v 3 0) x
  else if off = R.devReset then devReset src (fld v 31 16) (fld v 0 0 == 1) (fld v 1 1 == 1) (fld v 2 2 == 1) x
  else if off < 0x100000 then (c, if d.holdsRole src then d.storeReg c src off v else d)
  else if off = R.pwrCap ∨ off = R.pwrTherm ∨ off = R.safReturn then (c, if d.isManagerOrMgmt c src then d.storeReg c src off v else d)
  else if !d.isManager c src then x
  else if off = R.fwuCtrl then (c, d.writeFwuCtrl v)
  else (c, d.storeReg c src off v)

/-- A write by a source: a virtual function reaches its instance's window; a physical function the manager view with instance 0's
window, and in RECOVERY the recovery registers; the Registrar and the management interfaces the manager view. -/
def regWrite (src : Source) (off size : Nat) (v : Word) (x : CoreSt × Dev) : CoreSt × Dev :=
  let (c, d) := x
  match src with
  | .conservator => x
  | .vf i => (c, if i.toNat ≠ 0 ∧ d.windowOpen c i.toNat then d.windowWrite c i.toNat off size v else d)
  | .pf p =>
    if 0x2000000 ≤ off ∧ off < 0x2040000 then
      (c, if d.holdsRole src && d.windowOpen c 0 then d.windowWrite c 0 (off - 0x2000000) size v else d)
    else if size ≠ 8 ∨ off % 8 ≠ 0 then x
    else if c.mode = .recovery then recoveryWrite p.val off v x
    else managerWrite src off v x
  | _ => if size ≠ 8 ∨ off % 8 ≠ 0 ∨ 0x2000000 ≤ off then x else managerWrite src off v x

/-- REGISTER_WRITE. -/
def execRegisterWrite (src : Source) (off : BitVec 26) (size : Nat) (v : BitVec 64) (s : State) : Host.Outcome State Fault Refusal :=
  s.onAll (regWrite src off.toNat size v)

/-- Does a counter stand at an offset (R582, R584): one of 64 bits, the resets, an overflow count, a corrected-error count? -/
def isCounter (off : Nat) : Bool :=
  (cntSat off).isSome || off == R.devResetCause || off == R.safLog || off == R.insDviol || (regIndex off (R.insViol 0) 256).isSome ||
  (regIndex off (R.catBank 0) 128).isSome || (regIndex off (R.memPc 0) 512).isSome || (regIndex off (R.memAnx 0) 8).isSome

/-- COUNTER_WRITE: an 8-byte write of a counter. -/
def execCounterWrite (src : Source) (off : BitVec 26) (v : BitVec 64) (s : State) : Host.Outcome State Fault Refusal :=
  s.onAll (fun x => if isCounter off.toNat then regWrite src off.toNat 8 v x else x)

end Sys2Proof.Machine
end

