-- ==== Sys2Proof/Machine/HostAdmin.lean ====
section
/-!
DEFINITION. IDENTIFY, LOG_READ, COUNTER_READ and TRACE_CONFIG (R403, R404, R587).
-/

namespace Sys2Proof.Machine

/-- Write a command's data to its DEST over a device channel (R436) and complete it: with the result and status given, or with the failed access's. -/
def Dev.adminWrite (d : Dev) (c : CoreSt) (x : Cmd) (va : Nat) (bs : Bytes) (result status : Nat) : Dev :=
  let (w, d) := d.deviceChannel 0
  match d.writeInst c { w with job := x.job } x.inst va bs with
  | (d, none) => d.finish c x result status
  | (d, some f) => (d.recordFail c w x.inst true f).finish c x 0 f.status

/-! ### IDENTIFY (R403) -/

/-- The device structure. -/
def Dev.identifyDevice (d : Dev) (c : CoreSt) : Bytes :=
  padTo 4096 (toLE 8 (d.readReg c R.devId).toNat ++ toLE 8 (fwVersion d.firmware) ++ toLE 1 (b2n d.runningSlot) ++
    toLE 1 64 ++ toLE 2 256 ++ toLE 4 65536 ++ padTo 16 Config.serial)

/-- The instance structure. -/
def Dev.identifyInstance (d : Dev) (i : Nat) : Bytes :=
  let b := (d.presenter i).getD (0, 0)
  let s := (d.inst i).share
  padTo 4096 (padTo 64 (toLE 1 i ++ toLE 1 b.1 ++ toLE 2 b.2 ++ toLE 4 s.queueEntries) ++ shareBytes s)

/-- IDENTIFY: CNS 0 or 1; other values are reserved. -/
def Dev.identify (d : Dev) (c : CoreSt) (x : Cmd) : Dev :=
  match le x.area 8 1 with
  | 0 => d.adminWrite c x (le x.area 0 8) (d.identifyDevice c) 0 0
  | 1 => d.adminWrite c x (le x.area 0 8) (d.identifyInstance x.inst) 0 0
  | _ => d.finish c x 0 0x0201

/-- IDENTIFY. -/
def execIdentify (ref : CmdRef) (s : State) : Host.Outcome State Fault Refusal :=
  s.onDev (fun c d => d.admin c ref 0x88 (fun x d => d.identify c x))

/-! ### LOG_READ (R404, R587) -/

/-- LOG_READ: the bytes that exist; the result is their number. -/
def Dev.logRead (d : Dev) (c : CoreSt) (x : Cmd) : Dev :=
  let off := le x.area 8 8
  let len := le x.area 0x10 4
  let log := le x.area 0x14 1
  if 4 < log ∨ (x.inst ≠ 0 ∧ log ≠ 1) then d.finish c x 0 0x0201
  else
    let n := min len (logLength log - off)
    d.adminWrite c x (le x.area 0 8) (d.logBytes x.inst log off n) n (if logLength log < off + len then 1 else 0)

/-- LOG_READ. -/
def execLogRead (ref : CmdRef) (s : State) : Host.Outcome State Fault Refusal :=
  s.onDev (fun c d => d.admin c ref 0xC0 (fun x d => d.logRead c x))

/-! ### COUNTER_READ and TRACE_CONFIG (R404) -/

/-- The words of `n` counters at consecutive offsets. -/
def Dev.counterWords (d : Dev) (c : CoreSt) (off n : Nat) : Bytes := (List.range n).flatMap (fun k => toLE 8 (d.readReg c (off + 8 * k)).toNat)

/-- COUNTER_READ: nothing is written where an address is not a counter. -/
def Dev.counterRead (d : Dev) (c : CoreSt) (x : Cmd) : Dev :=
  let a := le x.area 8 4
  let n := le x.area 0xC 2
  if n = 0 ∨ 512 < n ∨ a % 8 ≠ 0 ∨ !(List.range n).all (fun k => isCounter (a + 8 * k)) then d.finish c x 0 0x0201
  else d.adminWrite c x (le x.area 0 8) (d.counterWords c a n) 0 0

/-- COUNTER_READ. -/
def execCounterRead (ref : CmdRef) (s : State) : Host.Outcome State Fault Refusal :=
  s.onDev (fun c d => d.admin c ref 0xC1 (fun x d => d.counterRead c x))

/-- TRACE_CONFIG: BASE, then CTRL, with the effects of the DOC registers. -/
def execTraceConfig (ref : CmdRef) (s : State) : Host.Outcome State Fault Refusal :=
  s.onDev (fun c d => d.admin c ref 0xC2 (fun x d =>
    if le x.area 0x10 1 ≠ 0 then d.finish c x 0 0x0201
    else
      let d := d.storeReg c .registrar R.docTraceBase (BitVec.ofNat 64 (le x.area 0 8))
      (d.storeReg c .registrar R.docTraceCtrl (BitVec.ofNat 64 (le x.area 8 8))).finish c x 0 0))

end Sys2Proof.Machine
end

