-- ==== Sys2Proof/Machine/Migration.lean ====
section
/-!
DEFINITION. Migration (R508 to R511): the sections of a blob, its header, encryption and code, and its import. Where R509 names what a
section carries and no place for it, the layout is the model's (log entry 43).
-/

namespace Sys2Proof.Machine

/-! ### Keys (R509) -/

/-- The two XTS keys and the code's key, from the migration domain key: 0, 1, 2; keys of digest records follow from 4 on. -/
def migKey (domain : Bytes) (n : Nat) : Bytes := padTo 32 (Config.deriveKey (0x30 + n) domain)

/-- Encrypt or decrypt the part behind the header in units of 4,096 bytes, unit `u` on, `fuel` of them. -/
def blobUnits (f : Nat → Bytes → Bytes) (nonce u : Nat) : Nat → Bytes → Bytes
  | 0, _ => []
  | fuel + 1, bs => if bs.isEmpty then [] else f ((nonce + u) % 2 ^ 128) (bs.take 4096) ++ blobUnits f nonce (u + 1) fuel (bs.drop 4096)

/-- The whole part. -/
def blobCrypt (f : Nat → Bytes → Bytes) (nonce : Nat) (bs : Bytes) : Bytes := blobUnits f nonce 0 (bs.length / 4096 + 1) bs

/-! ### Sections -/

/-- A section: its header, its body padded to 16 bytes; nothing where it has no content. -/
def blobSection (type : Nat) (body : Bytes) : Bytes :=
  if body.isEmpty then []
  else toLE 2 type ++ toLE 2 1 ++ List.replicate 4 0 ++ toLE 8 body.length ++ padTo (roundUp body.length 16) body

/-- QUEUES: one pair. -/
def pairBytes (q : Nat) (p : Pair) : Bytes :=
  padTo 64 (toLE 8 p.sq ++ toLE 8 p.cq ++ toLE 4 p.size ++ toLE 2 p.vector ++ toLE 1 q ++
    toLE 1 (b2n p.ien + 2 * b2n p.phase + 4 * b2n p.stopped + 8 * b2n p.pasid.isSome) ++ toLE 4 (p.pasid.getD 0) ++
    toLE 4 p.sqHead ++ toLE 4 p.sqTail ++ toLE 4 p.cqTail ++ toLE 4 p.cqHead ++ toLE 4 p.posted)

/-- EVENTS (R456, R468): MSI-X table, pending bits, owned sources. -/
def Dev.eventBytes (d : Dev) (i : Nat) : Bytes :=
  let entry (v : Nat) : Bytes :=
    let m := look d.evt.msix (i * 64 + v) {}
    toLE 8 m.addr ++ toLE 4 m.data ++ toLE 4 (b2n m.mask)
  let pba := maskOf (fun v => (d.vectorsWith EvtSlot.waits).contains (i * 64 + v))
  (List.range 64).flatMap entry ++ padTo 16 (toLE 8 pba) ++ (d.ownedSources i).flatMap (fun n =>
    toLE 2 n ++ toLE 1 (b2n (look d.evt.routed n {}).pend) ++ List.replicate 5 0 ++ toLE 8 (d.reg (R.evtRoute n)).toNat)

/-- Does the content of a leaf travel: a DEVICE leaf with CARRY? -/
def carries (e : Nat) : Bool := bit e 6 && !bit e 5

/-- MAPPINGS (R502): each leaf, then the PASID slots. -/
def Dev.mappingBytes (d : Dev) (i : Nat) : Bytes :=
  let x := d.inst i
  if (d.leavesOf i).isEmpty && x.pasids.isEmpty then []
  else (d.leavesOf i).flatMap (fun (l : Nat × Nat × Nat) => padTo 32 (toLE 8 l.1 ++ toLE 8 l.2.2)) ++
    (List.range 16).flatMap (fun k => match find x.pasids k with
      | some v => toLE 8 (2 ^ 63 + v)
      | none => toLE 8 0)

/-- PAGES: the content of the CARRY leaves. -/
def Dev.pageBytes (d : Dev) (i : Nat) : Rd :=
  ((d.leavesOf i).filter (fun (l : Nat × Nat × Nat) => carries l.2.2)).foldl
    (fun (r : Rd) (l : Nat × Nat × Nat) => r.join (d.readPA (bits l.2.2 51 12 <<< 12) (levelSize l.2.1))) (.ok [])

/-- The slots of an instance that hold a program. -/
def Dev.loadedSlots (d : Dev) (i : Nat) : List Nat := (List.range 64).filter (fun k => (d.program i k).isSome)

/-- PROGRAMS. -/
def Dev.programBytes (d : Dev) (i : Nat) : Bytes :=
  (d.loadedSlots i).flatMap (fun k => match d.image i k with
    | some b => toLE 8 k ++ toLE 8 b.length ++ b
    | none => [])

/-- State codes of R136. -/
def TaskSt.code : TaskSt → Nat
  | .free => 0 | .waiting => 1 | .ready => 2 | .released => 3 | .running => 4 | .comparing => 5 | .done => 6 | .cancelled => 7

/-- And back. -/
def TaskSt.ofCode : Nat → TaskSt
  | 0 => .free | 1 => .waiting | 2 => .ready | 3 => .released | 4 => .running | 5 => .comparing | 6 => .done | _ => .cancelled

/-- The number of a context: by its run's first; that of a third run is its place among the reserve contexts in use (R134, R135). -/
def Dev.contextNumber (d : Dev) (h key : Nat) : Nat :=
  if key < 2 ^ 21 then (match d.run h with | some r => r.first + key | none => 0)
  else
    let thirds := d.live.flatMap (fun (e : Nat × Run) => ((keys e.2.tasks).filter (fun k => decide (2 ^ 21 ≤ k))).map (fun k => (e.1, k)))
    Config.shareContexts + thirds.idxOf (h, key)

/-- LINK: the next context in the overflow chain of the level, zero where there is none. -/
def Dev.linkOf (d : Dev) (h key : Nat) (t : Task) : Nat :=
  match ((d.chain t.prio).dropWhile (fun (x : Nat × Nat) => x != (h, key))).drop 1 with
  | (h2, k2) :: _ => d.contextNumber h2 k2
  | [] => 0

/-- A context in the format of R135. -/
def Task.context (t : Task) (h link : Nat) : Bytes :=
  toLE 3 t.counter ++ toLE 1 (t.st.code + b2n t.restartable <<< 3 + b2n t.cascade <<< 4 + b2n t.ledger <<< 5 + t.copy <<< 6) ++
  toLE 2 h ++ toLE 2 t.template ++ toLE 3 t.logical ++ toLE 1 (t.attempt % 8 + t.prio <<< 3) ++ toLE 4 link

/-- The context that 16 bytes spell. -/
def Task.ofContext (b : Bytes) : Task :=
  let s := le b 3 1
  { st := TaskSt.ofCode (s % 8), counter := le b 0 3, restartable := bit s 3, cascade := bit s 4, ledger := bit s 5, copy := s >>> 6,
    template := le b 6 2, logical := le b 8 3, attempt := le b 0xB 1 % 8, prio := le b 0xB 1 >>> 3 % 8 }

/-- The keys of a run's third runs, in order. -/
def Run.thirds (r : Run) : List Nat := sortNat ((keys r.tasks).filter (fun k => decide (2 ^ 21 ≤ k)))

/-- The keys of a run's contexts: by task number, then the third runs. -/
def Run.contextKeys (r : Run) : List Nat := if r.ended then [] else List.range r.contexts ++ r.thirds

/-- The 64 bytes of a run-table entry. `head` is the submission head that its completion reports. -/
def Run.entryBytes (r : Run) (h head extents : Nat) : Bytes :=
  let f := r.failure.getD (0, 0, 0)
  let cmd := r.cmd.getD (0, 0)
  padTo 64 (toLE 2 h ++ toLE 2 r.runId ++ toLE 1 r.slot ++ toLE 1 r.prio ++ toLE 2 cmd.2 ++ toLE 1 cmd.1 ++
    toLE 1 (b2n (r.cmd.isSome && !r.silent) + b2n r.truncated <<< 1 + b2n r.paused <<< 2 + b2n r.cancelled <<< 3 +
      b2n r.taskCancelled <<< 4 + b2n r.abortLate <<< 5 + b2n r.ended <<< 6 + b2n r.failure.isSome <<< 7) ++
    toLE 2 head ++ toLE 4 (if r.ended then 0 else r.contexts) ++ toLE 4 r.expanded ++ toLE 4 (if r.ended then 0 else r.thirds.length) ++
    toLE 4 extents ++ toLE 4 r.params.length ++ toLE 4 0 ++ toLE 2 f.1 ++ toLE 2 f.2.1 ++ toLE 4 f.2.2 ++ toLE 4 0 ++
    toLE 8 (total (r.tasks.map (fun (e : Nat × Task) => if e.2.st == .comparing then 0 else e.2.rows))))

/-- The 64 KiB parts of SCRATCH buffers: buffer, part, device address, bytes. -/
def Run.scratchParts (r : Run) : List (Nat × Nat × Nat × Nat) :=
  r.scratch.flatMap (fun (b : Nat × Nat × Nat) => (List.range (ceilDiv b.2.2 65536)).map (fun k =>
    (b.1, k, b.2.1 + 65536 * k, min 65536 (b.2.2 - 65536 * k))))

/-- The rows that the header of an extent carries: those of a COMPARING copy, with the first extent it took. -/
def Run.rowsWith (r : Run) (e : Extent) : Nat :=
  match find r.tasks e.task with
  | some t =>
    if t.st == .comparing && (r.extents.find? (fun (x : Extent) => x.task == e.task)) == some e then t.rows else 0
  | none => 0

/-- A run's extents: RESULT extents in the order they were taken, then the parts of SCRATCH buffers. -/
def Dev.extentBytes (d : Dev) (r : Run) : Rd :=
  let a := r.extents.foldl (fun (x : Rd) (e : Extent) =>
    (x.join (.ok (toLE 2 e.buffer ++ toLE 2 0 ++ toLE 4 e.task ++ toLE 4 e.bytes ++ toLE 4 (r.rowsWith e)))).join (d.readPA e.addr 65536)) (.ok [])
  r.scratchParts.foldl (fun (x : Rd) (e : Nat × Nat × Nat × Nat) =>
    ((x.join (.ok (toLE 2 e.1 ++ toLE 2 1 ++ toLE 4 e.2.1 ++ toLE 4 e.2.2.2 ++ toLE 4 0))).join (d.readPA e.2.2.1 e.2.2.2)).join
      (.ok (List.replicate (65536 - e.2.2.2) 0))) a

/-- One run of the RUNS section. -/
def Dev.runBytes (d : Dev) (h : Nat) (r : Run) : Rd :=
  let head := match r.cmd with | some (q, cid) => ((d.cmd r.inst q cid).map (fun (x : Cmd) => x.sqHead)).getD 0 | none => 0
  let ctx (k : Nat) : Bytes := match find r.tasks k with | some t => t.context h (d.linkOf h k t) | none => List.replicate 16 0
  let check (k : Nat) : Bytes := match find r.tasks k with
    | some t => if t.st == .comparing then padTo 128 t.check else []
    | none => []
  (Rd.ok (r.entryBytes h head (r.extents.length + r.scratchParts.length) ++ r.params ++ r.contextKeys.flatMap ctx ++
    r.contextKeys.flatMap check)).join (d.extentBytes r)

/-- The runs and retained results of an instance, by handle. -/
def Dev.runsOf (d : Dev) (i : Nat) : List (Nat × Run) :=
  (sortNat ((d.doc.runs.filter (fun (e : Nat × Run) => e.2.inst == i)).map (fun e => e.1))).filterMap (fun h => (d.run h).map (fun r => (h, r)))

/-- STAGING: published pages by run, edge, partition and list order. -/
def Dev.stagingBytes (d : Dev) (i : Nat) : Rd :=
  (d.runsOf i).foldl (fun (x : Rd) (e : Nat × Run) =>
    let ks := sortNat ((keys d.exc.lists).filter (fun k => k / 16384 == e.1 && !e.2.ended))
    (ks.flatMap (fun k => look d.exc.lists k [])).foldl (fun (x : Rd) (p : ExcPage) => x.join (d.readPA p.addr 4096)) x) (.ok [])

/-- The units of an entry of width `w` (R249, R250): KEY, CARE and DATA words. -/
def CatEntry.units (w : Nat) (e : CatEntry) : Bytes :=
  (List.range w).flatMap (fun u => toLE 8 (e.key >>> (64 * u)) ++ toLE 8 (e.care >>> (64 * u)) ++
    toLE 8 (if u = 0 then e.data % 2 ^ 56 + b2n e.valid <<< 63 else e.data >>> (64 * u - 8)))

/-- The entry that units spell. -/
def CatEntry.ofUnits (w : Nat) (b : Bytes) : CatEntry :=
  { valid := bit (le b 16 8) 63
    key := total ((List.range w).map (fun u => le b (24 * u) 8 <<< (64 * u)))
    care := total ((List.range w).map (fun u => le b (24 * u + 8) 8 <<< (64 * u)))
    data := total ((List.range w).map (fun u => if u = 0 then le b 16 8 % 2 ^ 56 else le b (24 * u + 16) 8 <<< (64 * u - 8))) }

/-- CATALOGUE: a geometry record and the units of each set. -/
def Dev.catBytes (d : Dev) (i : Nat) : Bytes :=
  (sortNat ((keys d.cat.sets).filter (fun k => k / 64 == i))).flatMap (fun k => match d.catSet k with
    | none => []
    | some s => padTo 16 (toLE 1 (k % 64) ++ toLE 1 s.width ++ toLE 1 s.banks ++ toLE 1 (d.catGroups k).length ++ toLE 4 s.count) ++
        (List.range s.count).flatMap (fun r => (look s.entries r { valid := false, key := 0, care := 0, data := 0 }).units s.width))

/-- DIGEST: the contexts in state OPEN as records of R486, under keys from the domain key. -/
def Dev.digestBytes (d : Dev) (i : Nat) (domain : Bytes) : Bytes × Dev :=
  ((sortNat (keys d.prv.ctx)).filterMap (fun k => find d.prv.ctx k)).foldl (fun (acc : Bytes × Dev) (x : PrvCtx) =>
    if x.owner ≠ i ∨ x.failed.isSome then acc
    else
      let (n, d) := acc.2.drawBytes 16
      (acc.1 ++ x.recordWith (fun k => migKey domain (4 + k)) n, d)) ([], d)

/-- VIOLATIONS: the ring, where an entry was written. -/
def Dev.violationBytes (d : Dev) (i : Nat) : Bytes :=
  let r := (d.inst i).viol
  if r.slots.isEmpty then [] else (List.range 64).flatMap (fun k => padTo 64 ((find r.slots k).getD []))

/-- The sections of an instance, in order of TYPE. -/
def Dev.sections (d : Dev) (i : Nat) (domain : Bytes) : Except Unit (List Bytes × Dev) :=
  let (dig, d) := d.digestBytes i domain
  let runs := (d.runsOf i).foldl (fun (x : Rd) (e : Nat × Run) => x.join (d.runBytes e.1 e.2)) (.ok [])
  match d.pageBytes i, runs, d.stagingBytes i with
  | .ok pages, .ok runs, .ok staging =>
    .ok (([(1, shareBytes (d.inst i).latest), (2, (sortBy (fun (a b : Nat × Pair) => decide (a.1 < b.1)) (d.pairsOf i)).flatMap (fun e =>
        pairBytes e.1 e.2)), (3, d.eventBytes i), (4, d.mappingBytes i), (5, pages), (6, d.programBytes i), (7, runs), (8, staging),
        (9, d.catBytes i), (10, dig), (11, d.violationBytes i)].map (fun (e : Nat × Bytes) => blobSection e.1 e.2)).filter (fun b => !b.isEmpty), d)
  | _, _, _ => .error ()

/-- The blob: header, encrypted sections, code. -/
def Dev.blob (d : Dev) (i : Nat) (domain keyId nonce : Bytes) (secs : List Bytes) : Bytes :=
  let body := secs.flatten
  let head := padTo 128 (toLE 4 0x47494D58 ++ toLE 2 1 ++ toLE 2 secs.length ++ toLE 8 (128 + body.length + 48) ++
    toLE 8 (fwVersion d.firmware) ++ padTo 16 Config.attestation ++ padTo 16 keyId ++ nonce ++ toLE 1 i)
  let blob0 := head ++ blobCrypt (xtsEncrypt (migKey domain 0) (migKey domain 1)) (ofLE nonce) body
  blob0 ++ DigestAlg.sha384.hmac (migKey domain 2) blob0

/-! ### INSTANCE_EXPORT (R508) -/

/-- INSTANCE_EXPORT. Poison in what the blob carries ends it with 0x0401, and no domain key with 0x0700 (log entry 44). -/
def Dev.instanceExport (d : Dev) (c : CoreSt) (x : Cmd) : Dev :=
  let i := le x.area 0x10 1
  let y := d.inst i
  if y.st ≠ .frozen ∨ y.gone ∨ d.vol.vols.any (fun (e : Nat × Vol) => e.2.owner == i) then d.finish c x 0 0x0201
  else match d.ins.migKey with
    | none => d.finish c x 0 0x0700
    | some (domain, keyId) =>
      match d.sections i domain with
      | .error _ => d.finish c x 0 0x0401
      | .ok (secs, d2) =>
        let size := 128 + (secs.map (fun b => b.length)).foldl (· + ·) 0 + 48
        let mib := ceilDiv size 1048576
        if le x.area 8 8 = 0 then d.finish c x mib 0
        else if le x.area 8 8 < size then d.finish c x mib 0x0200
        else
          let (nonce, d3) := d2.drawBytes 16
          match d3.writeInst c { registrarWho with job := x.job } x.inst (le x.area 0 8) (d3.blob i domain keyId nonce secs) with
          | (d, none) => d.finish c x mib 0
          | (d, some f) => (d.recordFail c registrarWho x.inst true f).finish c x 0 f.status

/-- INSTANCE_EXPORT, from the manager instance. -/
def execInstanceExport (ref : CmdRef) (s : State) : Host.Outcome State Fault Refusal :=
  s.onDev (fun c d => d.admin c ref 0x93 (fun x d => d.instanceExport c x))

/-! ### Reading a blob -/

/-- The sections of the decrypted part, `n` of them: TYPE, VERSION, body; none where they do not fill it. -/
def readSections : Nat → Bytes → Option (List (Nat × Nat × Bytes))
  | 0, bs => if bs.isEmpty then some [] else none
  | n + 1, bs =>
    let len := le bs 8 8
    let step := 16 + roundUp len 16
    if bs.length < step then none
    else (readSections n (bs.drop step)).map (fun rest => (le bs 0 2, le bs 2 2, slice bs 16 len) :: rest)

/-- The body of a section; empty where it is omitted. -/
def sectionOf (secs : List (Nat × Nat × Bytes)) (type : Nat) : Bytes :=
  match secs.find? (fun (s : Nat × Nat × Bytes) => s.1 == type) with
  | some s => s.2.2
  | none => []

/-- A body as records of `n` bytes. -/
def blobRecords (n : Nat) (b : Bytes) : List Bytes := (List.range (b.length / n)).map (fun k => slice b (n * k) n)

/-- Who is imported: the instance's number here and at the source, and the domain key. -/
structure ImportKey where
  inst : Nat
  source : Nat
  domain : Bytes

/-- QUEUES: the pairs, and the window's registers as pair 0 has them. -/
def Dev.importQueues (d : Dev) (i : Nat) (b : Bytes) : Dev :=
  let d := (blobRecords 64 b).foldl (fun (d : Dev) r =>
    let f := le r 0x17 1
    d.setPair i (le r 0x16 1 % 64) {
      sq := le r 0 8, cq := le r 8 8, size := le r 0x10 4, vector := le r 0x14 2, ien := bit f 0, phase := bit f 1, stopped := bit f 2,
      pasid := if bit f 3 then some (le r 0x18 4) else none, sqHead := le r 0x1C 4, sqTail := le r 0x20 4, cqTail := le r 0x24 4,
      cqHead := le r 0x28 4, posted := le r 0x2C 4 }) d
  match d.pair i 0 with
  | none => d
  | some p =>
    let d := (d.setFlag (R.xqWCc i) 0 true).setFlag (R.xqWCsts i) 0 true
    let d := (d.setF (R.xqWAqa i) 12 0 p.size).setFlag (R.xqInst i) 63 true
    (d.setReg (R.xqWAsq i) (BitVec.ofNat 64 p.sq)).setReg (R.xqWAcq i) (BitVec.ofNat 64 p.cq)

/-- The number of an owned source here: the three of the instance move with its number (R456). -/
def importSource (k : ImportKey) (n : Nat) : Nat :=
  if n = 64 + k.source then 64 + k.inst else if n = 320 + k.source then 320 + k.inst else if n = 576 + k.source then 576 + k.inst else n

/-- A carried route under the new number: OWNER and the INSTANCE of a host target. -/
def importRoute (k : ImportKey) (v : Nat) : Nat :=
  let v := setBits v 47 40 k.inst
  if bits v 61 60 = 1 then setBits v 31 24 k.inst else v

/-- EVENTS. A SOFT source that is enabled here for another instance keeps its route. -/
def Dev.importEvents (d : Dev) (k : ImportKey) (b : Bytes) : Dev :=
  let d := (List.range 64).foldl (fun (d : Dev) v =>
    let e := slice b (16 * v) 16
    let m : MsixEntry := { addr := le e 0 8, data := le e 8 4, mask := bit (le e 12 4) 0 }
    let s : EvtSlot := { pend := true, count := 1, ripe := true }
    { d with evt := { d.evt with
      msix := put d.evt.msix (k.inst * 64 + v) m
      vectors := if bit (le b 1024 8) v then put d.evt.vectors (k.inst * 64 + v) s else d.evt.vectors } }) d
  (blobRecords 16 (b.drop 1040)).foldl (fun (d : Dev) r =>
    let n := importSource k (le r 0 2)
    if 2048 ≤ n ∧ d.flag (R.evtRoute n) 63 ∧ d.getF (R.evtRoute n) 47 40 ≠ k.inst then d
    else
      let d := d.setReg (R.evtRoute n) (BitVec.ofNat 64 (importRoute k (le r 8 8)))
      if le r 2 1 = 1 then { d with evt := { d.evt with routed := upd d.evt.routed n {} (fun (s : EvtSlot) => { s with pend := true, count := 1, ripe := true }) } }
      else d) d

/-- A place for the content of a CARRY leaf: the lowest page of its size that is free, in the archive if there is one. -/
def Dev.carryPlace (d : Dev) (size : Nat) : Option Nat :=
  let taken := d.dramTaken
  let fit (s : MemSet) : Option Nat :=
    least (((s.base :: taken.map (fun (t : Nat × Nat) => t.1 + t.2)).map (fun a => roundUp a size)).filter (fun a =>
      decide (s.base ≤ a) && decide (a + size ≤ s.base + s.size) && taken.all (fun t => !overlap (a, size) t)))
  (least ((d.bufferSets false false).filterMap fit)).orElse (fun _ => least ((d.bufferSets true false).filterMap fit))

/-- The level of a carried leaf: a record has no place for its size, so it is one of those that VA, page address and the next leaf's VA allow,
which one is open (log entry 43). -/
def leafLevel (va e next : Nat) : Nat :=
  let fit := [4, 3, 2].filter (fun l =>
    va % levelSize l == 0 && (bits e 51 12 <<< 12) % levelSize l == 0 && decide (va + levelSize l ≤ next))
  fit.getD (Config.leafSize va e % fit.length) 4

/-- MAPPINGS and PAGES: HOST leaves as they are, CARRY leaves into new memory; other DEVICE leaves stay unmapped. -/
def Dev.importLeaves (d : Dev) (i : Nat) : List Bytes → Bytes → Except Nat Dev
  | [], _ => .ok d
  | r :: rest, pages =>
    let va := le r 0 8
    let e := le r 8 8
    let level := leafLevel va e (match rest with | [] => 2 ^ 48 | q :: _ => le q 0 8)
    let size := levelSize level
    let place (d : Dev) (e : Nat) : Except Nat Dev :=
      match d.mapPage i va level e with
      | .ok d => .ok (d.setInst i { d.inst i with leaves := (d.inst i).leaves + 1 })
      | .error _ => .error 0x0501
    if va % 4096 ≠ 0 ∨ 2 ^ 48 ≤ va ∨ !bit e 0 ∨ !bit e 2 then .error 0x0201
    else if bit e 5 then
      match place d e with
      | .ok d => d.importLeaves i rest pages
      | .error st => .error st
    else if carries e then
      match d.carryPlace size with
      | none => .error 0x0501
      | some a =>
        match place d (setBits e 51 12 (a >>> 12)) with
        | .ok d => ((d.writePA registrarWho a (pages.take size)).1).importLeaves i rest (pages.drop size)
        | .error st => .error st
    else d.importLeaves i rest pages

/-- PASID slots. -/
def importPasids (b : Bytes) : Tbl Nat :=
  (List.range 16).filterMap (fun k => let v := le b (8 * k) 8; if bit v 63 then some (k, v % 2 ^ 20) else none)

/-- PROGRAMS, `fuel` of them. -/
def Dev.importPrograms (d : Dev) (i : Nat) : Nat → Bytes → Except Nat Dev
  | 0, _ => .ok d
  | fuel + 1, b =>
    if b.isEmpty then .ok d
    else
      let n := le b 8 8
      if 63 < le b 0 8 then .error 0x0201
      else match d.atriumPlace n with
      | none => .error 0x0501
      | some a =>
        ({ d with
          mem := d.mem.setN (Key.atrium a) (slice b 16 n)
          doc := { d.doc with programs := put d.doc.programs (64 * i + le b 0 8) { addr := a, bytes := n } } }).importPrograms i fuel
            (b.drop (16 + n))

/-! ### Runs -/

/-- The run that 64 bytes of run-table entry and its parameter block spell, without contexts and buffers. -/
def runOfEntry (i : Nat) (b : Bytes) : Run :=
  let f := le b 9 1
  { inst := i, runId := le b 2 2, slot := le b 4 1, prio := le b 5 1, cmd := if bit f 0 then some (le b 8 1, le b 6 2) else none,
    truncated := bit f 1, paused := bit f 2, cancelled := bit f 3, taskCancelled := bit f 4, abortLate := bit f 5, ended := bit f 6,
    failure := if bit f 7 then some (le b 0x28 2, le b 0x2A 2, le b 0x2C 4) else none,
    contexts := le b 0xC 4, expanded := le b 0x10 4, params := slice b 64 (le b 0x20 4) }

/-- Contexts of an entry, and the bytes of check records behind them. -/
def entryContexts (b : Bytes) : List Task :=
  let n := le b 0xC 4 + le b 0x14 4
  (blobRecords 16 (slice b (64 + le b 0x20 4) (16 * n))).map Task.ofContext

/-- Give COMPARING copies their check records, in order. -/
def giveChecks : List (Nat × Task) → Bytes → List (Nat × Task)
  | [], _ => []
  | (k, t) :: rest, b =>
    if t.st == .comparing then
      (k, { t with check := b.take 128 }) :: giveChecks rest (b.drop 128)
    else (k, t) :: giveChecks rest b

/-- The rows that finished tasks reported count at the first finished task. -/
def giveRows (n : Nat) : List (Nat × Task) → List (Nat × Task)
  | [] => []
  | (k, t) :: rest => if t.overrun then (k, { t with rows := n }) :: rest else (k, t) :: giveRows n rest

/-- The contexts of a run under their keys; a FREE one is not expanded yet. -/
def entryTasks (i : Image) (b : Bytes) : List (Nat × Task) :=
  let n := le b 0xC 4
  let ts := entryContexts b
  let keyed := (List.range ts.length).filterMap (fun k => (ts[k]?).map (fun t =>
    (if k < n then k else thirdKey (i.firstTask t.template + 2 * t.logical), t)))
  let checks := b.drop (64 + le b 0x20 4 + 16 * ts.length)
  giveRows (le b 0x30 8) ((giveChecks keyed checks).filter (fun (e : Nat × Task) => e.2.st != .free))

/-- The bytes of an entry before its extents, and its extents. -/
def entryHead (b : Bytes) : Nat :=
  64 + le b 0x20 4 + 16 * (entryContexts b).length + 128 * (entryContexts b).countP (fun t => t.st == .comparing)

/-- Put the extents of a run into its new buffers, `n` of them, at byte `off` of the section. -/
def Dev.importExtents (d : Dev) (h : Nat) : List Bytes → Dev
  | [] => d
  | e :: rest =>
    let data := e.drop 16
    let buf := le e 0 2
    let d := match d.run h with
      | none => d
      | some r =>
        if le e 2 2 = 0 then
          match r.freeExtents buf with
          | [] => d
          | a :: _ =>
            let x : Extent := { buffer := buf, addr := a, task := le e 4 4, bytes := le e 8 4 }
            let tasks := if le e 12 4 = 0 then r.tasks else upd r.tasks x.task {} (fun t => { t with rows := le e 12 4 })
            ((d.setRun h { r with extents := r.extents ++ [x], tasks := tasks }).writePA registrarWho a data).1
        else match r.scratch.find? (fun (s : Nat × Nat × Nat) => s.1 == buf) with
          | some (_, a, _) => (d.writePA registrarWho (a + 65536 * le e 4 4) (data.take (le e 8 4))).1
          | none => d
    d.importExtents h rest

/-- A run's contexts that are READY or RELEASED enter their lists, in task order. -/
def Dev.importReady (d : Dev) (c : CoreSt) (h : Nat) (r : Run) : Dev :=
  (sortBy (fun (a b : Nat × Task) => decide (keyTask a.1 < keyTask b.1)) r.tasks).foldl (fun (d : Dev) (e : Nat × Task) =>
    if e.2.st == .ready || e.2.st == .released then d.enterReleased c h e.1 e.2 else d) d

/-- One run of the section: it takes a handle, contexts, buffers, and its command is fetched again; a reserved COPY, a slot or a priority out of
range ends the import (R7). The blob has no place for the failing operator of a COMPARING copy: a free value (log entry 1). The table gives the handles here of the
handles at the source. -/
def Dev.importRun (d : Dev) (c : CoreSt) (i : Nat) (b : Bytes) (handles : Tbl Nat) : Except Nat (Dev × Tbl Nat) :=
  let r := runOfEntry i b
  if 63 < r.slot ∨ 7 < r.prio ∨ (entryContexts b).any (fun t => t.copy == 3) then .error 0x0201
  else match d.image i r.slot with
  | none => .error 0x0201
  | some im =>
    let keys := (if r.ended then [] else im.scratches) ++ im.results
    match d.placeBuffers im keys [], (if r.ended then some 0 else d.contextPlace r.contexts), d.freeHandle with
    | some places, some first, some free =>
      let h := if r.ended then Config.runEntries + (d.doc.accepted + 1) else free
      let (f, d) := d.draw
      let r := { r with
        first := first
        tasks := (entryTasks im b).map (fun (e : Nat × Task) => if e.2.st == .comparing then (e.1, { e.2 with op := f.toNat % 2 ^ 16 }) else e)
        order := d.doc.accepted + 1
        scratch := places.filter (fun (p : Nat × Nat × Nat) => !r.ended && im.scratches.contains p.1)
        results := places.filter (fun (p : Nat × Nat × Nat) => im.results.contains p.1) }
      if Config.reserveContexts < d.reserveUsed + le b 0x14 4 then .error 0x0501
      else
        let d := { d with doc := { d.doc with accepted := d.doc.accepted + 1 } }
        let d := (d.setRun h r).importExtents h (blobRecords 65552 (slice b (entryHead b) (65552 * le b 0x1C 4)))
        let d := match r.cmd with
          | some (q, cid) => { d with xq := { d.xq with
              cmds := d.xq.cmds ++ [{ inst := i, pair := q, cid := cid, op := 0x11, sqHead := le b 0xA 2, started := true }] } }
          | none => d
        .ok (if r.ended then d else d.importReady c h r, put handles (le b 0 2) h)
    | _, _, _ => .error 0x0501

/-- RUNS, up to `fuel` of them. -/
def Dev.importRuns (d : Dev) (c : CoreSt) (i : Nat) (handles : Tbl Nat) : Nat → Bytes → Except Nat (Dev × Tbl Nat)
  | 0, _ => .ok (d, handles)
  | fuel + 1, b =>
    if b.length < 64 then .ok (d, handles)
    else match d.importRun c i b handles with
      | .error st => .error st
      | .ok (d, handles) => d.importRuns c i handles fuel (b.drop (entryHead b + 65552 * le b 0x1C 4))

/-- One published page: it joins its run's list here, with the list heads of its edge where they are not there yet (R206, R208). -/
def Dev.importPage (d : Dev) (c : CoreSt) (i : Nat) (handles : Tbl Nat) (b : Bytes) : Except Nat Dev :=
  match find handles (le b 0x16 2) with
  | none => .error 0x0201
  | some h =>
    match d.runImage h with
    | none => .error 0x0201
    | some im =>
      match im.partition (im.taskPlace (le b 0x10 3)).1 with
      | none => .error 0x0201
      | some (o, edge) =>
        let p := im.param o
        let pool := le p 3 1
        let heads := if d.exc.heads.any (fun (x : Nat × Nat × Nat × Nat × Nat) => x.1 == h && x.2.1 == edge) then 0 else headPages (le p 4 4)
        let free := d.freePages pool
        if free.length < heads + 1 then .error 0x0501
        else
          let d := { d with exc := { d.exc with heads := d.exc.heads ++ (free.take heads).map (fun a => (h, edge, pool, i, a)) } }
          let a := (free.drop heads).headD 0
          let x : ExcPage := {
            addr := a
            pool := pool
            inst := i
            stride := le b 0xA 2
            part := le b 0x14 2
            run := h
            task := le b 0x10 3
            attempt := le b 0x13 1
            gal := 0
            rows := le b 8 2
            closed := true }
          let d := (d.writePA registrarWho a (patch (patch b 0 (toLE 8 0)) 0x16 (toLE 2 h))).1
          .ok (d.publishChain c h edge x.part [x])

/-- STAGING. -/
def Dev.importStaging (d : Dev) (c : CoreSt) (i : Nat) (handles : Tbl Nat) : List Bytes → Except Nat Dev
  | [] => .ok d
  | b :: rest =>
    match d.importPage c i handles b with
    | .error st => .error st
    | .ok d => d.importStaging c i handles rest

/-! ### Catalogue and digest contexts -/

/-- The lowest free run of `n` banks. -/
def Dev.freeBanks (d : Dev) (n : Nat) : Option Nat :=
  (List.range 128).find? (fun first => decide (first + n ≤ 128) &&
    !d.cat.grp.any (fun (e : Nat × CatGrp) => overlap (e.2.first, e.2.banks) (first, n)) &&
    (List.range n).all (fun b => !d.isFenced Blk.cat (first + b)))

/-- WIDTH code of a width. -/
def widthCode (w : Nat) : Nat := if w = 1 then 0 else if w = 2 then 1 else 2

/-- Define `n` READY groups of a set. -/
def Dev.importGroups (d : Dev) (i set width banks : Nat) : Nat → Except Nat Dev
  | 0 => .ok d
  | n + 1 =>
    match d.freeBanks banks, (List.range 128).find? (fun g => (find d.cat.grp g).isNone) with
    | some first, some g =>
      let v := 2 ^ 63 + i <<< 48 + set <<< 36 + widthCode width <<< 32 + banks <<< 8 + first
      ((d.setReg (R.catGroup g) (BitVec.ofNat 64 v)).setGrp g { owner := i, set := set, first := first, banks := banks }).importGroups i set
        width banks n
    | _, _ => .error 0x0501

/-- CATALOGUE: sets with their groups and entries, up to `fuel` of them. -/
def Dev.importSets (d : Dev) (i : Nat) : Nat → Bytes → Except Nat Dev
  | 0, _ => .ok d
  | fuel + 1, b =>
    if b.length < 16 then .ok d
    else
      let set := le b 0 1
      let w := le b 1 1
      let n := le b 4 4
      if 63 < set ∨ (w ≠ 1 ∧ w ≠ 2 ∧ w ≠ 4) ∨ le b 2 1 = 0 then .error 0x0201
      else match d.importGroups i set w (le b 2 1) (le b 3 1) with
        | .error st => .error st
        | .ok d =>
          let s : CatSet := { width := w, banks := le b 2 1, count := n
                              entries := (List.range n).map (fun r => (r, CatEntry.ofUnits w (slice b (16 + 24 * w * r) (24 * w)))) }
          (d.setCatSet (catKey i set) s).importSets i fuel (b.drop (16 + 24 * w * n))

/-- DIGEST: the contexts take the lowest FREE numbers; a reserved ALG ends the import (R7). A record has no place for the bytes of a block that is
not full yet: they are free values (log entry 43). -/
def Dev.importDigests (d : Dev) (k : ImportKey) : List Bytes → Except Nat Dev
  | [] => .ok d
  | b :: rest =>
    if le b 0 4 ≠ 0x54535058 ∨ le b 4 1 ≠ 1 ∨ (digestAlg (le b 5 1)).isNone then .error 0x0201
    else match d.prvFree with
    | none => .error 0x0501
    | some n =>
      let x := { PrvCtx.ofRecordWith (fun j => migKey k.domain (4 + j)) b with owner := k.inst }
      let (part, d) := d.drawBytes (x.count % x.algo.blockBytes)
      (d.setPrv n { x with buf := part }).importDigests k rest

/-- VIOLATIONS: the ring as its entries tell it. -/
def importViolations (b : Bytes) : Ring :=
  let es := blobRecords 64 b
  let seq := (es.map (fun e => le e 0x20 8)).foldl max 0
  { head := seq % 64, seq := seq, slots := (List.range es.length).filterMap (fun k => (es[k]?).bind (fun e => if le e 0x20 8 = 0 then none else some (k, e))) }

/-! ### INSTANCE_IMPORT (R510) -/

/-- Are the section types assigned and in order, and the fields of QUEUES and EVENTS in range (R7, R509, R510): pair numbers and vectors below
64, the KIND of a route a gallery or a host target? -/
def importFieldsOk (secs : List (Nat × Nat × Bytes)) : Bool :=
  let types := secs.map (fun (s : Nat × Nat × Bytes) => s.1)
  types.all (fun t => decide (1 ≤ t) && decide (t ≤ 11)) && noPair (fun a b => decide (b ≤ a)) types &&
  (blobRecords 64 (sectionOf secs 2)).all (fun r => decide (le r 0x16 1 < 64) && decide (le r 0x14 2 < 64)) &&
  (blobRecords 16 ((sectionOf secs 3).drop 1040)).all (fun r => decide (le r 0 2 < 8192) && decide (bits (le r 8 8) 61 60 ≤ 1))

/-- Place an instance whose number, function and share are sound. -/
def Dev.importInstance (d : Dev) (c : CoreSt) (k : ImportKey) (port fn : Nat) (secs : List (Nat × Nat × Bytes)) : Except Nat Dev :=
  let i := k.inst
  let map := sectionOf secs 4
  let leaves := (map.length - 128) / 32
  let share := shareOf (sectionOf secs 1)
  if !d.totalsOk i share then .error 0x0501
  else
    let d := d.setInst i { st := .frozen, bound := some (port, fn), share := share, pasids := importPasids (map.drop (32 * leaves)),
                           viol := importViolations (sectionOf secs 11) }
    let d := ((d.instanceRoutes i).importQueues i (sectionOf secs 2)).importEvents k (sectionOf secs 3)
    match d.importPrograms i 64 (sectionOf secs 6) with
    | .error st => .error st
    | .ok d =>
      match d.importLeaves i (blobRecords 32 (map.take (32 * leaves))) (sectionOf secs 5) with
      | .error st => .error st
      | .ok d =>
        match d.importRuns c i [] ((sectionOf secs 7).length / 64) (sectionOf secs 7) with
        | .error st => .error st
        | .ok (d, handles) =>
          match d.importStaging c i handles (blobRecords 4096 (sectionOf secs 8)) with
          | .error st => .error st
          | .ok d =>
            match d.importSets i 64 (sectionOf secs 9) with
            | .error st => .error st
            | .ok d =>
              match d.importDigests k (blobRecords 512 (sectionOf secs 10)) with
              | .error st => .error st
              | .ok d => .ok ((d.dmaBalance).settleHolds c)

/-- The checks of R510 on a whole blob, in table order, and the placement. -/
def Dev.importBlob (d : Dev) (c : CoreSt) (x : Cmd) (b : Bytes) : Except Nat Dev :=
  match d.ins.migKey with
  | none => .error 0x0700
  | some (domain, keyId) =>
    let n := b.length
    let code := b.drop (n - 48)
    if slice b 0x28 16 ≠ padTo 16 keyId ∨ n < 176 ∨ DigestAlg.sha384.hmac (migKey domain 2) (b.take (n - 48)) ≠ code then .error 0x0700
    else
      let body := blobCrypt (xtsDecrypt (migKey domain 0) (migKey domain 1)) (le b 0x38 16) (slice b 128 (n - 176))
      match readSections (le b 6 2) body with
      | none => .error 0x0201
      | some secs =>
        let i := if le x.area 0x10 1 = 0 then le b 0x48 1 else le x.area 0x10 1
        let port := le x.area 0x11 1
        let fn := le x.area 0x12 1
        if fwVersion d.firmware < le b 0x10 8 ∨ secs.any (fun (s : Nat × Nat × Bytes) => s.2.1 != 1) then .error 0x0201
        else if i = 0 ∨ (d.inst i).st ≠ .free ∨ 3 < port ∨ fn = 0 ∨ 64 < fn ∨ (d.boundTo port fn).isSome ∨ !shareOk (sectionOf secs 1) ∨
            !importFieldsOk secs then
          .error 0x0201
        else d.importInstance c { inst := i, source := le b 0x48 1, domain := domain } port fn secs

/-- INSTANCE_IMPORT. A failed import changes nothing. -/
def Dev.instanceImport (d : Dev) (c : CoreSt) (x : Cmd) : Dev :=
  let len := le x.area 8 8
  if len < 128 then d.finish c x 0 0x0200
  else match d.adminRead c x (le x.area 0 8) 128 with
    | .error d => d
    | .ok h =>
      let n := le h 8 8
      if len < n then d.finish c x 0 0x0200
      else if le h 0 4 ≠ 0x47494D58 ∨ le h 4 2 ≠ 1 then d.finish c x 0 0x0201
      else match d.adminRead c x (le x.area 0 8) n with
        | .error d => d
        | .ok b =>
          match d.importBlob c x b with
          | .error st => d.finish c x 0 st
          | .ok d2 => d2.finish c x 0 (if n < len then 0x0001 else 0)

/-- INSTANCE_IMPORT, from the manager instance. -/
def execInstanceImport (ref : CmdRef) (s : State) : Host.Outcome State Fault Refusal :=
  s.onDev (fun c d => d.admin c ref 0x94 (fun x d => d.instanceImport c x))

end Sys2Proof.Machine
end

