-- ==== Sys2Proof/Machine/Batches.lean ====
section
/-!
DEFINITION. Rows between operators (R105): values, slots, batches, comparison by value (R73, R90), the canonical form of keys and KEYHASH
(R195, R196), staged rows (R199), and ledger lanes as sums (R94 to R98).
-/

namespace Sys2Proof.Machine

/-! ### Values, slots, batches (R71, R73, R105) -/

/-- A value: a number (an integer, a count of µs, a DEC128 coefficient) or a string of bytes. -/
inductive Val where
  | num (v : Int)
  | str (b : Bytes)
deriving DecidableEq, Repr

/-- What a slot of a row holds: a value, or null. -/
abbrev Datum := Option Val

/-- Integer types; DATE and TIMESTAMP, which every operator treats alike (R73); the numeric types. -/
def isInt (ty : Nat) : Bool := (decide (1 ≤ ty) && decide (ty ≤ 5)) || (decide (0x11 ≤ ty) && decide (ty ≤ 0x15))
def isTime (ty : Nat) : Bool := ty == 0x30 || ty == 0x31
def isNumeric (ty : Nat) : Bool := isInt ty || isTime ty || ty == tyDec

/-- DATE and TIMESTAMP count as INT64 (R593). -/
def countsAs (ty : Nat) : Nat := if isTime ty then 4 else ty

/-- Scale at which a slot's numbers count: an integer counts at scale 0 (R90). -/
def SlotTy.at0 (t : SlotTy) : Nat := if t.ty = tyDec then t.scale else 0

/-- A row: what each slot holds. -/
abbrev Row := Tbl Datum
def Row.slot (r : Row) (n : Nat) : Datum := look r n none

/-- A batch: its slots with their types, and up to 65,536 rows. -/
structure Batch where
  cols : Tbl SlotTy := []
  rows : List Row := []
deriving DecidableEq, Repr

/-- Rows of a batch at most (R105). -/
def batchRows : Nat := 65536

/-- The slots of a batch, rising. -/
def Batch.slots (b : Batch) : List Nat := sortNat (keys b.cols)

/-- Rows cut into batches. -/
def cutRows (cols : Tbl SlotTy) (n : Nat) : Nat → List Row → List Batch
  | 0, _ => []
  | fuel + 1, rows => if rows.isEmpty then [] else { cols := cols, rows := rows.take n } :: cutRows cols n fuel (rows.drop n)
def batchesOf (cols : Tbl SlotTy) (rows : List Row) : List Batch := cutRows cols batchRows (rows.length / batchRows + 1) rows

/-! ### Comparison by value -/

/-- Strings compare byte by byte as unsigned bytes; of a string and its prefix the prefix is the lesser (R73). -/
def bytesLt : Bytes → Bytes → Bool
  | _, [] => false
  | [], _ :: _ => true
  | a :: as, b :: bs => decide (a.toNat < b.toNat) || (a == b && bytesLt as bs)

/-- Is a value, at scale `sa`, below another, at scale `sb`? Numbers compare exactly across scales (R90). -/
def Val.lt (sa sb : Nat) : Val → Val → Bool
  | .num a, .num b => decide (scaled a sa sb < scaled b sb sa)
  | .str a, .str b => bytesLt a b
  | _, _ => false

/-- Are two values equal? -/
def Val.eqv (sa sb : Nat) : Val → Val → Bool
  | .num a, .num b => decide (scaled a sa sb = scaled b sb sa)
  | .str a, .str b => a == b
  | _, _ => false

/-! ### Keys (R195, R196) -/

/-- A coefficient without its trailing decimal zeros while the scale is above zero: the lowest scale that holds the value. -/
def lowestScale : Nat → Int → Int × Nat
  | 0, c => (c, 0)
  | s + 1, c => if c % 10 = 0 then lowestScale s (c / 10) else (c, s + 1)

/-- The canonical form of one key value (R195). -/
def canonNum (s : Nat) (v : Int) : Bytes :=
  let (c, t) := lowestScale s v
  toLE 1 1 ++ toLE 1 (b2n (decide (c < 0))) ++ toLE 1 t ++ toLE 1 0 ++ toLE 16 c.natAbs
def canon (s : Nat) : Datum → Bytes
  | some (.num v) => canonNum s v
  | some (.str b) => toLE 4 2 ++ toLE 4 b.length ++ b
  | none => toLE 4 3

/-- The canonical form of a row's key slots. -/
def keyBytes (cols : Tbl SlotTy) (ks : List Nat) (r : Row) : Bytes :=
  ks.flatMap (fun k => canon ((look cols k { ty := 4 }).at0) (r.slot k))

/-- h32 and h64 of KEYHASH (R196). -/
def hash32 (seed : Nat) (bs : Bytes) : Nat := bs.foldl crc32cByte seed ^^^ 0xFFFFFFFF
def hash64 (seed : Nat) (bs : Bytes) : Nat := hash32 seed bs * 0x9E3779B97F4A7C15 % 2 ^ 64

/-- Has a row a null among its key slots? -/
def nullKey (ks : List Nat) (r : Row) : Bool := ks.any (fun k => (r.slot k).isNone)

/-! ### Fields of stored rows (R199, R218, R229) -/

/-- Offsets of fields of given widths laid out from `o` on, each aligned to the lesser of its width and 8; and where they end. -/
def layFields : Nat → List Nat → List Nat × Nat
  | o, [] => ([], o)
  | o, w :: ws =>
    let a := roundUp o (min w 8)
    let (rest, e) := layFields (a + w) ws
    (a :: rest, e)

/-- A number's field, and a null's, whose bytes no rule gives. -/
def fieldBytes (w : Nat) : Datum → Bytes
  | some (.num v) => toLE w (ofSigned (8 * w) v)
  | _ => toLE w (Config.nullField w)

/-- The number that a field of a type spells. -/
def fieldVal (ty : Nat) (bs : Bytes) : Val :=
  .num (if typeSigned ty then toSigned (8 * bs.length) (ofLE bs) else (ofLE bs : Nat))

/-- A record with fields placed in it. -/
def placeFields (fs : List (Nat × Bytes)) (n : Nat) (head : Bytes) : Bytes := fs.foldl (fun r f => patch r f.1 f.2) (padTo n head)

/-- Widths of slots; none where one is VARSTR. -/
def widths (ts : List SlotTy) : Option (List Nat) := ts.mapM (fun t => typeWidth t.ty)

/-- STRIDE: the least power of two from 8 to 512 that holds `n` bytes (R199). -/
def strideFor (n : Nat) : Option Nat := [8, 16, 32, 64, 128, 256, 512].find? (fun s => decide (n ≤ s))

/-- The layout of a staged row: widths, offsets, STRIDE; a VARSTR slot or a row above 512 bytes has none. -/
def stagedLayout (ts : List SlotTy) : Option (List Nat × List Nat × Nat) :=
  match widths ts with
  | none => none
  | some ws => let (os, e) := layFields 2 ws; (strideFor e).map (fun s => (ws, os, s))

/-- The null mask of data: bit k for the k-th. -/
def nullMask (ds : List Datum) : Nat := total ((List.range ds.length).map (fun k => b2n (ds.getD k none).isNone <<< k))

/-- A staged row (R199). -/
def stageRow (l : List Nat × List Nat × Nat) (ds : List Datum) : Bytes :=
  placeFields (l.2.1.zip (List.zipWith fieldBytes l.1 ds)) l.2.2 (toLE 2 (nullMask ds))

/-- Slots of a batch with their types; a slot that holds no column fails the task. -/
def Batch.types (b : Batch) (ss : List Nat) : Except Nat (List SlotTy) :=
  ss.foldr (fun s acc => match find b.cols s, acc with
    | some t, .ok ts => .ok (t :: ts)
    | none, _ => .error 0x0201
    | _, .error e => .error e) (.ok [])

/-- The layout of a batch's staged slots. -/
def Batch.staged (b : Batch) (ss : List Nat) : Except Nat (List Nat × List Nat × Nat) :=
  match b.types ss with
  | .error e => .error e
  | .ok ts => match stagedLayout ts with
    | some l => .ok l
    | none => .error 0x0201

/-- A row read back from its staged form under the slots it was staged from. -/
def unstageRow (ss : List Nat) (ts : List SlotTy) (l : List Nat × List Nat × Nat) (bs : Bytes) : Row :=
  (List.range ss.length).map (fun k =>
    let w := l.1.getD k 1
    (ss.getD k 0, if bit (le bs 0 2) k then none else some (fieldVal (ts.getD k { ty := 4 }).ty (slice bs (l.2.1.getD k 0) w))))

/-! ### Ledger sums (R94 to R98) -/

/-- A lane after an addend, and after a list of them; none where an addition leaves 256 bits. -/
def laneInto (lane : Option Int) (x : Int) : Option Int := lane.bind (fun a => laneAdd a x)
def laneSum (xs : List Int) : Option Int := xs.foldl laneInto (some 0)

/-- Partial lanes, one for each task's addends, merged (R98). -/
def laneMerge (parts : List (List Int)) : Option Int :=
  parts.foldl (fun lane p => match laneSum p with
    | some x => laneInto lane x
    | none => none) (some 0)

/-- A delivered ledger sum over parts: the merged lane, narrowed (R96). -/
def ledgerSum (parts : List (List Int)) : Option Int := (laneMerge parts).bind laneNarrow

/-- An integer result in its type's range: beyond it, the low bits, or ARITH_OVERFLOW where the operator traps (R93, R105). -/
def intResult (ty : Nat) (trap : Bool) (v : Int) : Option Int :=
  match valueStatus ty v with
  | none => some v
  | some _ =>
    if trap then none
    else
      let w := 8 * (typeWidth ty).getD 16
      let n := ofSigned w v
      some (if typeSigned ty then toSigned w n else (n : Nat))

end Sys2Proof.Machine
end

