-- ==== Sys2Proof/Machine/Scans.lean ====
section
/-!
DEFINITION. Scans on the gallery path: every encoding's rows decoded (R77 to R80, R116, R300), three-valued predicates over them (R169 to
R173), and what a FILTER selects and a GATHER puts into its slots (R174, R177, R183, R590). A stack filter gives the same rows and slots
(R183).
-/

namespace Sys2Proof.Machine

/-- A segment step's failure alone, without the blocks that it had read: a task counts none. -/
def noRd {α : Type} (x : Except SegErr α) : Except SegFail α := x.mapError (fun e => e.1)

/-! ### Values of a PLAIN layout (R77 to R80) -/

/-- A number checked against its type (R85). -/
def checkedNum (ty : Nat) (bs : Bytes) : Except SegFail Datum :=
  let v := if typeSigned ty then toSigned (8 * bs.length) (ofLE bs) else (ofLE bs : Nat)
  match valueStatus ty v with
  | some st => .error (.status st)
  | none => .ok (some (.num v))

/-- Where string `i` of an array of end offsets lies, checked against the `len` bytes of values (R78, R85). -/
def strRange (ends : Nat → Nat) (len i : Nat) : Except SegFail (Nat × Nat) :=
  let lo := if i = 0 then 0 else ends (i - 1)
  let hi := ends i
  if hi < lo ∨ len < hi ∨ 65535 < hi - lo then .error (.status 0x0201) else .ok (lo, hi - lo)

/-- Value `i` of a PLAIN layout in a segment's stream: values at `dat`, `len` bytes of them; a string's end offsets at `offs`. -/
def SegRd.plain (d : Dev) (ty dat len offs i : Nat) (s : SegRd) : Except SegFail (SegRd × Datum) :=
  match typeWidth ty with
  | some w =>
    match noRd (SegRd.need d s (dat + i * w) w) with
    | .error e => .error e
    | .ok s => (checkedNum ty (s.get (dat + i * w) w)).map (fun v => (s, v))
  | none =>
    match noRd (SegRd.need d s (offs + 4 * (i - 1)) (if i = 0 then 4 else 8)) with
    | .error e => .error e
    | .ok s =>
      match strRange (fun k => ofLE (s.get (offs + 4 * k) 4)) len i with
      | .error e => .error e
      | .ok (o, n) =>
        match noRd (SegRd.need d s (dat + o) n) with
        | .error e => .error e
        | .ok s => .ok (s, some (.str (s.get (dat + o) n)))

/-! ### Dictionary objects (R79, R116) -/

/-- A dictionary object's header checks, for a segment that names it: ENCODING 7, the segment's TYPE and SCALE (R116), and R85. -/
def dictStatus (h o : SegHead) : Option Nat :=
  let regions := [o.nulls, o.data, o.offsets, o.dict].filter (fun r => r.2 != 0)
  let need (r : Nat × Nat) (n : Nat) : Bool := decide (r.2 < n)
  if !(le o 0 4 == 0x47455358 && le o 4 2 == 1 && le o 6 2 == 160) || o.rows == 0 || o.enc != 7 || o.ty != h.ty || o.scale != h.scale then
    some 0x0201
  else if !(decide (1 ≤ o.blocks) && decide (o.blocks ≤ 1048576) && noPair overlap regions &&
      regions.all (fun r => r.1 % 16 == 0 && decide (160 ≤ r.1) && decide (r.1 + r.2 ≤ 4092 * o.blocks))) then some 0x0201
  else if (match typeWidth o.ty with
    | some w => need o.data (w * o.rows)
    | none => need o.offsets (4 * o.rows)) then some 0x0200
  else none

/-- The DICTIONARY buffers of a run: DICT_ID and the address bound (R114, R116). -/
def Image.dictionaries (i : Image) (params : Bytes) : List (Nat × Nat) :=
  (i.buffers.filter (fun b => b.kind == 1)).map (fun b => (b.dictId, (b.bound params).1))

/-! ### A segment on the gallery path -/

/-- A segment with its header, the dictionary object that it names, and a FOLIO frame's output. -/
structure GalSeg where
  rd : SegRd
  head : SegHead
  dict : Option (SegRd × SegHead) := none
  out : Option Bytes := none

/-- Open a segment: block 0, the header and region checks, and the dictionary object that DICT_ID names (R85, R116). -/
def openGal (d : Dev) (w : Who) (i : Nat) (dicts : List (Nat × Nat)) (addr : Nat) : Except SegFail GalSeg :=
  match noRd (SegRd.header d { who := w, inst := i, base := addr, gallery := true }) with
  | .error e => .error e
  | .ok (rd, h) =>
    if h.enc ≠ 2 ∨ h.dictId = 0 then .ok { rd := rd, head := h }
    else match dicts.find? (fun x => x.1 == h.dictId) with
      | none => .error (.status 0x0201)
      | some (_, a) =>
        match noRd (SegRd.load d { who := w, inst := i, base := a, gallery := true } 0) with
        | .error e => .error e
        | .ok o =>
          match dictStatus h (o.get 0 160) with
          | some st => .error (.status st)
          | none => .ok { rd := rd, head := h, dict := some (o, o.get 0 160) }

/-- Open segments in order and apply R84 across them; `pair` is the FIRST_ROW and ROW_COUNT that the row group has shown before. -/
def openGals (d : Dev) (w : Who) (i : Nat) (dicts : List (Nat × Nat)) (pair : Option (Nat × Nat)) : List Nat → Except SegFail (List GalSeg)
  | [] => .ok []
  | a :: rest =>
    match openGal d w i dicts a with
    | .error e => .error e
    | .ok g =>
      let p := (g.head.firstRow, g.head.rows)
      if pair.isSome ∧ pair ≠ some p then .error (.status 0x0201)
      else (openGals d w i dicts (some p) rest).map (fun gs => g :: gs)

/-- Entry `n` of a segment's dictionary: its own (R79), or the object's. -/
def GalSeg.entry (d : Dev) (n : Nat) (g : GalSeg) : Except SegFail (GalSeg × Datum) :=
  match g.dict with
  | some (o, h) =>
    if h.rows ≤ n then .error (.status 0x0201)
    else (SegRd.plain d h.ty h.data.1 h.data.2 h.offsets.1 n o).map (fun r => ({ g with dict := some (r.1, h) }, r.2))
  | none =>
    let h := g.head
    if h.dictCount ≤ n then .error (.status 0x0201)
    else
      let skip := if h.ty = tyStr then 4 * h.dictCount else 0
      (SegRd.plain d h.ty (h.dict.1 + skip) (h.dict.2 - skip) h.dict.1 n g.rd).map (fun r => ({ g with rd := r.1 }, r.2))

/-- The PLAIN bytes that a FOLIO segment's frame holds (R300): read and decoded with the segment's first row; a wrong IN_BYTES or ELEM is
BAD_DESCRIPTOR, a frame failure keeps the frame's status (R293, R296). -/
def GalSeg.frame (d : Dev) (g : GalSeg) : Except SegFail (GalSeg × Bytes) :=
  match g.out with
  | some bs => .ok (g, bs)
  | none =>
    let h := g.head
    match noRd (SegRd.need d g.rd h.data.1 h.data.2) with
    | .error e => .error e
    | .ok s =>
      match (if h.ty = tyStr then noRd (SegRd.need d s (h.offsets.1 + 4 * (h.rows - 1)) 4) else .ok s) with
      | .error e => .error e
      | .ok s =>
        let f := s.get h.data.1 h.data.2
        let want := match typeWidth h.ty with
          | some w => w * h.rows
          | none => ofLE (s.get (h.offsets.1 + 4 * (h.rows - 1)) 4)
        let elemOk := match typeWidth h.ty with
          | some w => w == 2 ^ frameElem f
          | none => true
        if !frameHeaderOk f then .error (.status 0x0201)
        else if f.length < frameBytes f then .error (.status 0x0200)
        else if frameIn f ≠ want ∨ !elemOk then .error (.status 0x0201)
        else match decodeFrame f with
          | none => .error (.status 0x0402)
          | some bs => .ok ({ g with rd := s, out := some bs }, bs)

/-- A row on the gallery path: null, the code of a DICT row, and the value. -/
structure GalRow where
  null : Bool
  code : Nat := 0
  val : Datum := none
deriving DecidableEq, Repr

/-- The null bit of row `i` (R80). -/
def GalSeg.null (d : Dev) (i : Nat) (g : GalSeg) : Except SegFail (GalSeg × Bool) :=
  let h := g.head
  if !h.hasNulls then .ok (g, false)
  else match noRd (SegRd.need d g.rd (h.nulls.1 + i / 8) 1) with
    | .error e => .error e
    | .ok s => .ok ({ g with rd := s }, bit (ofLE (s.get (h.nulls.1 + i / 8) 1)) (i % 8))

/-- What string `i` of a PLAIN layout needs: its end offsets, and once they are read its bytes. -/
def SegRd.strNeeds (dat len offs i : Nat) (s : SegRd) : List (Nat × Nat) :=
  let ends := (offs + 4 * (i - 1), if i = 0 then 4 else 8)
  ends :: (if s.has ends.1 ends.2 then
    match strRange (fun k => ofLE (s.get (offs + 4 * k) 4)) len i with
    | .ok (o, n) => [(dat + o, n)]
    | .error _ => []
  else [])

/-- What the entry of a segment's own dictionary that row `i` names needs, once the row's code and null bit are read (R79). -/
def GalSeg.entryNeeds (g : GalSeg) (i : Nat) (s : SegRd) : List (Nat × Nat) :=
  let h := g.head
  let r := packedRange h.data.1 h.bitWidth i
  let n := s.packed h.data.1 h.bitWidth i
  if !s.has r.1 r.2 || (h.hasNulls && (!s.has (h.nulls.1 + i / 8) 1 || bit (ofLE (s.get (h.nulls.1 + i / 8) 1)) (i % 8))) ||
      g.dict.isSome || decide (h.dictCount ≤ n) then []
  else match typeWidth h.ty with
    | some w => [(h.dict.1 + n * w, w)]
    | none => SegRd.strNeeds (h.dict.1 + 4 * h.dictCount) (h.dict.2 - 4 * h.dictCount) h.dict.1 n s

/-- The stream ranges that row `i` needs on the gallery path (R77, R86): a FOLIO frame is read with the first row (R300). -/
def GalSeg.rowNeeds (g : GalSeg) (decode : Bool) (i : Nat) (s : SegRd) : List (Nat × Nat) :=
  let h := g.head
  let nulls := if h.hasNulls then [(h.nulls.1 + i / 8, 1)] else []
  if h.enc = 4 then
    nulls ++ (if g.out.isSome then [] else [h.data]) ++
      (if h.ty = tyStr then [(h.offsets.1 + 4 * (h.rows - 1), 4), (h.offsets.1 + 4 * (i - 1), if i = 0 then 4 else 8)] else [])
  else if h.enc = 0 ∧ h.ty = tyStr then nulls ++ SegRd.strNeeds h.data.1 h.data.2 h.offsets.1 i s
  else SegRd.rowNeeds h i s ++ (if h.enc = 2 ∧ decode then g.entryNeeds i s else [])

/-- The blocks of row `i`, in block order. -/
def GalSeg.settle (d : Dev) (decode : Bool) (i : Nat) (g : GalSeg) : Except SegFail GalSeg :=
  (noRd (SegRd.settle d (g.rowNeeds decode i) (g.head.blocks + 1) g.rd)).map (fun s => { g with rd := s })

/-- Row `i` (R77): the block checks of the blocks it needs, then its value checks (R86). With `decode` a code is taken through its
dictionary; without it, the code alone is wanted. -/
def GalSeg.row (d : Dev) (decode check : Bool) (i : Nat) (g : GalSeg) : Except SegFail (GalSeg × GalRow) :=
  match g.settle d decode i with
  | .error e => .error e
  | .ok g =>
  let h := g.head
  if h.enc = 4 then
    match g.frame d with
    | .error e => .error e
    | .ok (g, bs) =>
      match g.null d i with
      | .error e => .error e
      | .ok (g, true) => .ok (g, { null := true })
      | .ok (g, false) =>
        match typeWidth h.ty with
        | some w => (checkedNum h.ty (slice bs (i * w) w)).map (fun v => (g, { null := false, val := v }))
        | none =>
          match noRd (SegRd.need d g.rd (h.offsets.1 + 4 * (i - 1)) (if i = 0 then 4 else 8)) with
          | .error e => .error e
          | .ok s =>
            (strRange (fun k => ofLE (s.get (h.offsets.1 + 4 * k) 4)) bs.length i).map (fun r =>
              ({ g with rd := s }, { null := false, val := some (.str (slice bs r.1 r.2)) }))
  else if h.enc = 0 ∧ h.ty = tyStr then
    match g.null d i with
    | .error e => .error e
    | .ok (g, null) =>
      (SegRd.plain d h.ty h.data.1 h.data.2 h.offsets.1 i g.rd).map (fun r =>
        ({ g with rd := r.1 }, { null := null, val := if null then none else r.2 }))
  else
    match noRd (SegRd.row d h (if h.enc = 2 then check else true) i g.rd) with
    | .error e => .error e
    | .ok (s, r) =>
      let g := { g with rd := s }
      if r.null then .ok (g, { null := true, code := r.raw })
      else if h.enc = 2 then
        if decode then (g.entry d r.raw).map (fun e => (e.1, { null := false, code := r.raw, val := e.2 }))
        else .ok (g, { null := false, code := r.raw, val := some (.num r.raw) })
      else .ok (g, { null := false, val := some (.num r.val) })

/-- Rows in order, then every other block of the segment's NULLS, DATA and OFFSETS regions (R86). -/
def GalSeg.rows (d : Dev) (decode check : Bool) (is : List Nat) (g : GalSeg) : Except SegFail (List GalRow) :=
  match is.foldl (fun (acc : Except SegFail (GalSeg × List GalRow)) i => match acc with
    | .error e => .error e
    | .ok (g, rs) => (g.row d decode check i).map (fun x => (x.1, rs ++ [x.2]))) (.ok (g, [])) with
  | .error e => .error e
  | .ok (g, rs) =>
    match noRd (SegRd.rest d g.head g.rd) with
    | .error e => .error e
    | .ok _ => .ok rs

/-! ### FILTER (R169 to R173, R176, R177) -/

/-- A term on a row: a string compares with its CONST_LEN bytes (R170); every other row as a stack filter compares it. -/
def Term.onRow (t : Term) (h : SegHead) (sets : Bytes) (r : GalRow) : Tri :=
  match r.val with
  | some (.str x) =>
    if t.code ∨ t.kind = 0x0A ∨ t.kind = 0x0B then t.eval h sets { null := r.null, raw := r.code, val := 0 }
    else
      let c (bs : Bytes) : Bytes := bs.take t.len
      triOf (match t.kind with
        | 0x01 => x == c t.a
        | 0x02 => x != c t.a
        | 0x03 => bytesLt x (c t.a)
        | 0x04 => !bytesLt (c t.a) x
        | 0x05 => bytesLt (c t.a) x
        | 0x06 => !bytesLt x (c t.a)
        | 0x07 => !bytesLt x (c t.a) && !bytesLt (c t.b) x
        | 0x08 => (t.members sets).any (fun m => c m == x)
        | _ => false)
  | some (.num x) => t.eval h sets { null := r.null, raw := r.code, val := x }
  | none => t.eval h sets { null := r.null, raw := r.code, val := 0 }

/-- A clause on a row (R172). -/
def clauseOnRow (f : FilterBlk) (c : Clause) (h : SegHead) (r : GalRow) : Tri :=
  let sets := f.drop (FilterBlk.setsOff f)
  let ts := (FilterBlk.termsOf f c).map (fun t => t.onRow h sets r)
  let v := if c.or_ then triOr ts else triAnd ts
  if c.not_ then triNot v else v

/-- A TABLE as a task reads it: segment map, columns, the dictionaries of its run. -/
structure Scan where
  who : Who
  inst : Nat
  segmap : Nat
  columns : Nat
  dicts : List (Nat × Nat)

/-- The status of a failed read. -/
def SegFail.toStatus : SegFail → Nat
  | .status n => n
  | .access f => f.status
  | .mirrored => 0x0401

/-- Segments of columns of row group `r`. -/
def Scan.openCols (d : Dev) (x : Scan) (r : Nat) (pair : Option (Nat × Nat)) (cols : List Nat) : Except Nat (List GalSeg) :=
  match cols.foldl (fun (acc : Except AccFail (List Nat)) c => match acc with
    | .error f => .error f
    | .ok as => (d.segAddr x.who x.inst x.segmap x.columns r c).map (fun a => as ++ [a])) (.ok []) with
  | .error f => .error f.status
  | .ok addrs => (openGals d x.who x.inst x.dicts pair addrs).mapError SegFail.toStatus

/-- What a FILTER selects of a row group: FIRST_ROW and ROW_COUNT of the row group, and the rows that qualify; none where it is skipped. -/
abbrev Selection := Option ((Nat × Nat) × List Nat)

/-- A FILTER on row group `r`. -/
def Scan.filter (d : Dev) (x : Scan) (f : FilterBlk) (r : Nat) : Except Nat Selection :=
  let cs := FilterBlk.clauses f
  match x.openCols d r none (cs.map (fun c => c.column)) with
  | .error e => .error e
  | .ok gs =>
    let badCode := (cs.zip gs).any (fun e => e.2.head.enc != 2 && (FilterBlk.termsOf f e.1).any (fun t => t.code))
    if badCode then .error 0x0201
    else if groupSkipped f (gs.map (fun g => g.head)) then .ok none
    else
      let pair := match gs with | g :: _ => (g.head.firstRow, g.head.rows) | [] => (0, 0)
      let wants (c : Clause) : Bool := (FilterBlk.termsOf f c).any (fun t => !t.code)
      match (cs.zip gs).foldl (fun (acc : Except SegFail (List (List GalRow))) e => match acc with
        | .error e => .error e
        | .ok rs => (e.2.rows d (wants e.1) true (List.range pair.2)).map (fun r => rs ++ [r])) (.ok []) with
      | .error e => .error e.toStatus
      | .ok rs =>
        .ok (some (pair, (List.range pair.2).filter (fun i =>
          groupEval f (((cs.zip gs).zip rs).map (fun e => clauseOnRow f e.1.1 e.1.2.head (e.2.getD i { null := true }))))))

/-! ### GATHER (R174, R590) -/

/-- The type and scale that a segment gives a slot (R590); a DEC128 segment above the entry's scale fails (R174). -/
def GatherEntry.slotTy (e : GatherEntry) (h : SegHead) : Except Nat SlotTy :=
  if h.enc = 2 ∧ !e.decode then .ok { ty := if h.bitWidth ≤ 8 then 0x11 else if h.bitWidth ≤ 16 then 0x12 else 0x13 }
  else if h.ty = tyDec then (if e.scale < h.scale then .error 0x0201 else .ok { ty := tyDec, scale := e.scale })
  else .ok { ty := h.ty }

/-- A value as the slot holds it: a DEC128 coefficient of a lower scale aligned to the slot's (R90, R590). -/
def slotValue (t : SlotTy) (h : SegHead) (v : Datum) : Except Nat Datum :=
  match v with
  | some (.num x) =>
    if t.ty = tyDec then match decResult (alignUp x (t.scale - h.scale)) with
      | some y => .ok (some (.num y))
      | none => .error 0x0303
    else .ok v
  | _ => .ok v

/-- All the results of a list, or the first failure. -/
def allOk {α β : Type} (f : α → Except Nat β) : List α → Except Nat (List β)
  | [] => .ok []
  | x :: xs => match f x with
    | .error e => .error e
    | .ok y => (allOk f xs).map (fun ys => y :: ys)

/-- One gathered column: its slot's type, and the values of the rows taken. -/
def gatherColumn (d : Dev) (seen : Tbl SlotTy) (rows : List Nat) (e : GatherEntry) (g : GalSeg) : Except Nat (SlotTy × List Datum) :=
  match e.slotTy g.head with
  | .error st => .error st
  | .ok t =>
    if (match find seen e.slot with | some u => u.ty != t.ty | none => false) then .error 0x0201
    else match g.rows d e.decode (e.decode || !e.packed) rows with
      | .error f => .error f.toStatus
      | .ok rs => (allOk (fun (r : GalRow) => slotValue t g.head r.val) rs).map (fun vs => (t, vs))

/-- A GATHER on row group `r`, of the rows that a FILTER selected, or of every row (R173); `seen` are the types of its slots so far. -/
def Scan.gather (d : Dev) (x : Scan) (b : GatherBlk) (seen : Tbl SlotTy) (sel : Option ((Nat × Nat) × List Nat)) (r : Nat) : Except Nat Batch :=
  let es := GatherBlk.entries b
  match x.openCols d r (sel.map (fun s => s.1)) (es.map (fun e => e.column)) with
  | .error e => .error e
  | .ok gs =>
    let pair := match gs with | g :: _ => (g.head.firstRow, g.head.rows) | [] => (0, 0)
    let rows := match sel with | some s => s.2 | none => List.range pair.2
    (allOk (fun (e : GatherEntry × GalSeg) => (gatherColumn d seen rows e.1 e.2).map (fun c => (e.1.slot, c))) (es.zip gs)).map (fun cols =>
      let nums : List (Nat × SlotTy × List Datum) :=
        if GatherBlk.rowNumbers b then [(GatherBlk.rowSlot b, { ty := 4 }, rows.map (fun i => some (.num ((pair.1 + i : Nat) : Int))))] else []
      let all := cols ++ nums
      { cols := all.map (fun c => (c.1, c.2.1))
        rows := (List.range rows.length).map (fun k => all.map (fun c => (c.1, c.2.2.getD k none))) })

end Sys2Proof.Machine
end

