-- ==== Sys2Proof/Machine/Compute.lean ====
section
/-!
DEFINITION. COMPUTE (R93, R105, R106, R593): the steps of a parameter block, the type each gives its slot, and its value on each row.
-/

namespace Sys2Proof.Machine

/-- A compute step. -/
structure CStep where
  op : Nat
  dst : Nat
  a : Nat
  b : Nat
  scale : Nat
  round : Nat
  imm : Nat
deriving DecidableEq, Repr

/-- The steps of a block, and the coefficients of its step table. -/
def computeSteps (b : Bytes) : List CStep :=
  (List.range (le b 0 2)).map (fun k =>
    let s := slice b (16 + 8 * k) 8
    { op := le s 0 1, dst := le s 1 1, a := le s 2 1, b := le s 3 1, scale := le s 4 1, round := le s 5 1, imm := le s 6 2 })
def computeTable (b : Bytes) : List Int :=
  (List.range (le b 8 4 / 16)).map (fun k => toSigned 128 (le b (le b 4 4 + 16 * k) 16))

/-- The type of the wider of two integers; at equal width the signed one (R593). -/
def widerTy (a b : Nat) : Nat :=
  let wa := (typeWidth a).getD 0
  let wb := (typeWidth b).getD 0
  if wa < wb then b else if wb < wa then a else min a b

/-- The operand in a slot: its type, DATE and TIMESTAMP as INT64; a slot without a column fails the task (R593). -/
def operandTy (cols : Tbl SlotTy) (n : Nat) : Except Nat SlotTy :=
  match find cols n with
  | some t => .ok { t with ty := countsAs t.ty }
  | none => .error 0x0201

/-- A numeric operand. -/
def numericTy (cols : Tbl SlotTy) (n : Nat) : Except Nat SlotTy :=
  match operandTy cols n with
  | .ok t => if isNumeric t.ty then .ok t else .error 0x0201
  | e => e

/-- Two operands. -/
def bothTy (x y : Except Nat SlotTy) (f : SlotTy → SlotTy → Except Nat SlotTy) : Except Nat SlotTy :=
  match x, y with
  | .ok a, .ok b => f a b
  | .error e, _ => .error e
  | _, .error e => .error e

/-- The type and scale that a step gives its slot (R593). -/
def CStep.ty (s : CStep) (cols : Tbl SlotTy) : Except Nat SlotTy :=
  let dec : SlotTy := { ty := tyDec, scale := s.scale }
  let arith (dec : SlotTy → SlotTy → SlotTy) : Except Nat SlotTy :=
    bothTy (numericTy cols s.a) (numericTy cols s.b) (fun a b =>
      if a.ty = tyDec ∨ b.ty = tyDec then .ok (dec a b) else .ok { ty := widerTy a.ty b.ty })
  let intOnly (t : SlotTy) : Except Nat SlotTy := if isInt t.ty then .ok dec else .error 0x0201
  match s.op with
  | 0x12 => .ok dec
  | 0x11 => (operandTy cols s.a).bind intOnly
  | 0x05 => (numericTy cols s.a).map (fun _ => dec)
  | 0x06 => numericTy cols s.a
  | 0x01 => arith (fun a b => { ty := tyDec, scale := max a.at0 b.at0 })
  | 0x02 => arith (fun a b => { ty := tyDec, scale := max a.at0 b.at0 })
  | 0x03 => arith (fun _ _ => dec)
  | 0x04 => bothTy (numericTy cols s.a) (numericTy cols s.b) (fun _ _ => .ok dec)
  | 0x10 =>
    bothTy (operandTy cols s.a) (operandTy cols s.b) (fun a b =>
      match (operandTy cols s.imm).bind intOnly with
      | .error e => .error e
      | .ok _ =>
        if a.ty = tyDec ∧ b.ty = tyDec then .ok { ty := tyDec, scale := max a.scale b.scale }
        else if a.ty = b.ty then .ok a else .error 0x0201)
  | _ => bothTy (operandTy cols s.a) (operandTy cols s.b) (fun a b => if isNumeric a.ty = isNumeric b.ty then .ok { ty := 0x11 } else .error 0x0201)

/-- A number, or ARITH_OVERFLOW. -/
def numOr : Option Int → Except Nat Datum
  | some v => .ok (some (.num v))
  | none => .error 0x0303

/-- An arithmetic step on two numbers. An integer beyond the coefficients of R72 that meets a DEC128 is taken at scale 0 as it is, and the
step's result alone is checked (DESIGN CHOICE, log entry 129). -/
def CStep.arith (s : CStep) (mode : Nat) (trap : Bool) (ta tb t : SlotTy) (x y : Int) : Option Int :=
  let sa := ta.at0
  let sb := tb.at0
  match s.op with
  | 0x04 => decDiv mode sa sb t.scale x y
  | 0x03 => if t.ty = tyDec then decMul mode sa sb t.scale x y else intResult t.ty trap (x * y)
  | 0x02 => if t.ty = tyDec then decAdd mode sa sb t.scale true x y else intResult t.ty trap (x - y)
  | _ => if t.ty = tyDec then decAdd mode sa sb t.scale false x y else intResult t.ty trap (x + y)

/-- A compare step on two values. -/
def CStep.compare (s : CStep) (sa sb : Nat) (x y : Val) : Bool :=
  match s.op with
  | 0x08 => Val.eqv sa sb x y
  | 0x09 => !Val.eqv sa sb x y
  | 0x0A => Val.lt sa sb x y
  | 0x0B => !Val.lt sb sa y x
  | 0x0C => Val.lt sb sa y x
  | _ => !Val.lt sa sb x y

/-- A step's value on a row (R106); `t` is its type, `mode` its rounding, `trap` whether integer overflow traps. A null operand gives null, but
for SELECT. -/
def CStep.value (s : CStep) (cols : Tbl SlotTy) (t : SlotTy) (mode : Nat) (trap : Bool) (table : List Int) (r : Row) : Except Nat Datum :=
  let tyOf (n : Nat) : SlotTy := look cols n { ty := 4 }
  let a := r.slot s.a
  let b := r.slot s.b
  match s.op with
  | 0x12 => .ok (some (.num (toSigned 16 s.imm)))
  | 0x11 =>
    (match a with
     | some (.num x) => if x < 0 then .error 0x0303 else
         (match table[x.toNat]? with
          | some c => numOr (decResult (some c))
          | none => .error 0x0303)
     | _ => .ok none)
  | 0x05 =>
    (match a with
     | some (.num x) => numOr (decResult (rescaleRaw mode (tyOf s.a).at0 t.scale x))
     | _ => .ok none)
  | 0x06 =>
    (match a with
     | some (.num x) => numOr (if t.ty = tyDec then decResult (some (-x)) else intResult t.ty trap (-x))
     | _ => .ok none)
  | 0x10 =>
    let chosen := match r.slot s.imm with
      | some (.num x) => if x = 0 then s.b else s.a
      | _ => s.b
    (match r.slot chosen with
     | some (.num x) => if t.ty = tyDec then numOr (decResult (alignUp x (t.scale - (tyOf chosen).at0))) else .ok (some (.num x))
     | v => .ok v)
  | op =>
    match a, b with
    | some x, some y =>
      if 0x08 ≤ op then .ok (some (.num (if s.compare (tyOf s.a).at0 (tyOf s.b).at0 x y then 1 else 0)))
      else match x, y with
        | .num x, .num y => numOr (s.arith mode trap (tyOf s.a) (tyOf s.b) t x y)
        | _, _ => .ok none
    | _, _ => .ok none

/-- A step on a batch: its slot takes the step's type, and every row the value. -/
def CStep.run (s : CStep) (round : Nat) (trap : Bool) (table : List Int) (b : Batch) : Except Nat Batch :=
  match s.ty b.cols with
  | .error e => .error e
  | .ok t =>
    let mode := if s.round = 0xFF then round else s.round
    (allOk (fun (r : Row) => (s.value b.cols t mode trap table r).map (fun v => put r s.dst v)) b.rows).map (fun rows =>
      { cols := put b.cols s.dst t, rows := rows })

/-- COMPUTE on a batch: the steps in order. `trap`: LEDGER or OVF_TRAP (R105). -/
def computeBatch (blk : Bytes) (round : Nat) (trap : Bool) (b : Batch) : Except Nat Batch :=
  (computeSteps blk).foldl (fun acc s => match acc with
    | .ok b => s.run round trap (computeTable blk) b
    | e => e) (.ok b)

end Sys2Proof.Machine
end

