-- ==== Sys2Proof/Machine/Joins.lean ====
section
/-!
DEFINITION. PARTITION and the hash join (spec/07_exchange_and_joins.md): the partition of a row and its staged form (R197, R199), the build
table, its size and its place (R217 to R220), and what a probe row gives (R221, R222).
-/

namespace Sys2Proof.Machine

/-! ### PARTITION (R197 to R199) -/

/-- The partition of a row: `j` counts the task's rows from 0. A BROADCAST row goes to partition 0, whose list every consumer reads (R201,
R211). -/
def partitionOf (blk : Bytes) (logical j : Nat) (cols : Tbl SlotTy) (r : Row) : Nat :=
  let p := le blk 4 4
  let ks := slotList blk 0x10 (le blk 1 1)
  match le blk 0 1 with
  | 0 => hash64 (le blk 8 4) (keyBytes cols ks r) >>> (64 - Nat.log2 p)
  | 1 =>
    (match r.slot (ks.headD 0) with
     | some (.num v) => (ofSigned 128 v >>> le blk 0xC 1) % p
     | _ => 0)
  | 2 => (logical + j) % p
  | _ => 0

/-- PARTITION on a batch: each row's partition, the STRIDE of its staged form and its staged slots. A key or staged slot without a column, a RADIX key of other than integer
type, a VARSTR staged slot and a row above 512 bytes fail the task. -/
def partitionBatch (blk : Bytes) (logical j : Nat) (b : Batch) : Except Nat (List (Nat × Nat × Row)) :=
  let ks := slotList blk 0x10 (le blk 1 1)
  let ss := slotList blk 0x14 (le blk 2 1)
  match b.types ks, b.staged ss with
  | .error e, _ => .error e
  | _, .error e => .error e
  | .ok ts, .ok l =>
    if le blk 0 1 = 1 ∧ !ts.all (fun t => isInt t.ty) then .error 0x0201
    else .ok ((List.range b.rows.length).map (fun k =>
      let r := b.rows.getD k []
      (partitionOf blk logical (j + k) b.cols r, l.2.2, ss.map (fun n => (n, r.slot n)))))

/-! ### The build table (R217 to R220) -/

/-- A build row that is entered: its keys and payload, h32 and h64 of its keys. -/
structure BuildRow where
  keys : List Datum
  payload : List Datum
  tag : Nat
  hash : Nat
deriving DecidableEq, Repr

/-- The rows that have come to a HASH_BUILD, with the types of its keys and payload. -/
structure BuildIn where
  keyTys : List SlotTy := []
  payTys : List SlotTy := []
  rows : List BuildRow := []
deriving DecidableEq, Repr

/-- The rows that a build batch enters: those without a null key slot, equal keys all (R220). -/
def buildRows (blk : Bytes) (b : Batch) : List BuildRow :=
  let ks := slotList blk 8 (le blk 0 1)
  let ps := slotList blk 0xC (le blk 1 1)
  (b.rows.filter (fun r => !nullKey ks r)).map (fun r =>
    let k := keyBytes b.cols ks r
    { keys := ks.map r.slot, payload := ps.map r.slot, tag := hash32 (le blk 4 4) k, hash := hash64 (le blk 4 4) k })

/-- HASH_BUILD on a batch. -/
def buildBatch (blk : Bytes) (t : BuildIn) (b : Batch) : Except Nat BuildIn :=
  match b.types (slotList blk 8 (le blk 0 1)), b.types (slotList blk 0xC (le blk 1 1)) with
  | .ok kt, .ok pt => .ok { keyTys := kt, payTys := pt, rows := t.rows ++ buildRows blk b }
  | .error e, _ => .error e
  | _, .error e => .error e

/-- T for `n` build rows (R218). -/
def tableT (n : Nat) : Nat := ((List.range 19).find? (fun k => decide (n ≤ 4 * 2 ^ (4 + k)))).getD 18 + 4

/-- Overflow buckets that a bucket of `c` entries takes: each full bucket keeps seven entries and a link. -/
def overflowOf (c : Nat) : Nat := ceilDiv (c - 8) 7

/-- A row's bucket: h64 bits [43:44 - T]. -/
def bucketOf (t h : Nat) : Nat := bits h 43 (44 - t)

/-- Overflow buckets of the whole table. -/
def overflowBuckets (t : Nat) (hs : List Nat) : Nat :=
  let bs := hs.map (bucketOf t)
  total (bs.eraseDups.map (fun b => overflowOf (bs.countP (· == b))))

/-- Does a table of these rows fit within `limit` bytes: its size by R218, its overflow area not full (R219)? -/
def tableFits (stride limit : Nat) (hs : List Nat) : Bool :=
  let t := tableT hs.length
  decide (hs.length ≤ 16777215) && decide (72 * 2 ^ t + hs.length * stride ≤ limit) && decide (overflowBuckets t hs ≤ 2 ^ (t - 3))

/-- The layout of a row-array row: payload slots, then key slots, laid out like R199, the stride a multiple of 8. -/
def arrayLayout (pay key : List SlotTy) : Option (List Nat × List Nat × Nat) :=
  (widths (pay ++ key)).map (fun ws => let (os, e) := layFields 2 ws; (ws, os, roundUp e 8))

/-- The places left after the rows have come one by one, the empty table first: a table that outgrows its place moves to the next (R219). -/
def placesLeft (stride : Nat) (limits before : List Nat) : List Nat → List Nat
  | [] => limits.dropWhile (fun n => !tableFits stride n before)
  | h :: rest => placesLeft stride (limits.dropWhile (fun n => !tableFits stride n before)) (before ++ [h]) rest

/-- Do these rows settle in a place? -/
def settles (stride : Nat) (limits hs : List Nat) : Bool := !(placesLeft stride limits [] hs).isEmpty

/-- The places of a HASH_BUILD: local store, then the Atrium store where the block allows it. -/
def buildLimits (blk : Bytes) : List Nat := le blk 0x1C 4 :: (if bit (le blk 2 1) 0 then [le blk 0x20 4] else [])

/-! A bucket is a list of up to eight entries of 64 bits: USED, LINK, ROW and the tag. -/

def entryOf (row tag : Nat) : Nat := 2 ^ 63 + row <<< 32 + tag
def linkTo (n : Nat) : Nat := 2 ^ 63 + 2 ^ 62 + n
def isLink (e : Nat) : Bool := bit e 62
def entryRow (e : Nat) : Nat := bits e 55 32

/-- A table (R218): T, its buckets, its overflow area, and its row array under its layout. -/
structure HashTable where
  t : Nat := 4
  keyTys : List SlotTy := []
  payTys : List SlotTy := []
  layout : List Nat × List Nat × Nat := ([], [], 8)
  buckets : Tbl (List Nat) := []
  spare : List (List Nat) := []
  array : List Bytes := []
deriving DecidableEq, Repr

/-- A bucket's entries: a bucket of the table, or an overflow bucket. -/
def HashTable.bucket (x : HashTable) (inSpare : Bool) (n : Nat) : List Nat := if inSpare then x.spare.getD n [] else look x.buckets n []
def HashTable.setBucket (x : HashTable) (inSpare : Bool) (n : Nat) (es : List Nat) : HashTable :=
  if inSpare then { x with spare := modAt (fun _ => es) n x.spare } else { x with buckets := put x.buckets n es }

/-- An entry into a bucket: a ninth one moves entry 7 into a new overflow bucket and leaves a link to it (R218). `fuel` is above the links that
can be followed. -/
def HashTable.enter (e : Nat) : Nat → Bool → Nat → HashTable → HashTable
  | 0, _, _, x => x
  | fuel + 1, inSpare, n, x =>
    let es := x.bucket inSpare n
    if es.length < 8 then x.setBucket inSpare n (es ++ [e])
    else
      let last := es.getD 7 0
      if isLink last then HashTable.enter e fuel true (bits last 31 0) x
      else { (x.setBucket inSpare n (es.take 7 ++ [linkTo x.spare.length])) with spare := x.spare ++ [[last, e]] }

/-- The rows of a bucket whose tag is `tag`, along its links. -/
def HashTable.tagged (x : HashTable) (tag : Nat) : Nat → Bool → Nat → List Nat
  | 0, _, _ => []
  | fuel + 1, inSpare, n =>
    (x.bucket inSpare n).flatMap (fun e =>
      if isLink e then x.tagged tag fuel true (bits e 31 0)
      else if bits e 31 0 = tag then [entryRow e] else [])

/-- The table of a list of rows. -/
def tableOf (b : BuildIn) (l : List Nat × List Nat × Nat) (rows : List BuildRow) : HashTable :=
  let t := tableT rows.length
  (List.range rows.length).foldl (fun x k => match rows[k]? with
    | some r =>
      let x := { x with array := x.array ++ [stageRow l (r.payload ++ r.keys)] }
      HashTable.enter (entryOf k r.tag) (x.spare.length + 2) false (bucketOf t r.hash) x
    | none => x) { t := t, keyTys := b.keyTys, payTys := b.payTys, layout := l }

/-- The sub-partition of a hash at a spill level: h64 bits [51:48], then [47:44]. -/
def subPart (level h : Nat) : Nat := bits h (51 - 4 * level) (48 - 4 * level)

/-- A node of a complete build: the sub-partitions that lead to it, and its table; none where its rows have spilled into sixteen chains. -/
structure Place where
  path : List Nat
  table : Option HashTable
deriving DecidableEq, Repr

/-- The nodes of a build of some rows, in ascending order, with `depth` levels of spilling left; none where no place remains (R219). -/
def buildPlaces (b : BuildIn) (l : List Nat × List Nat × Nat) (limits : List Nat) : Nat → List Nat → List BuildRow → Option (List Place)
  | 0, path, rows =>
    if settles l.2.2 limits (rows.map (fun r => r.hash)) then some [{ path := path, table := some (tableOf b l rows) }] else none
  | depth + 1, path, rows =>
    if settles l.2.2 limits (rows.map (fun r => r.hash)) then some [{ path := path, table := some (tableOf b l rows) }]
    else ((List.range 16).mapM (fun s =>
      buildPlaces b l limits depth (path ++ [s]) (rows.filter (fun r => subPart path.length r.hash == s)))).map (fun xs =>
        { path := path, table := none } :: xs.flatten)

/-- A complete HASH_BUILD: its nodes, and the hashes of its rows. -/
structure Built where
  places : List Place := []
  payTys : List SlotTy := []
  keyTys : List SlotTy := []
  hashes : List Nat := []
deriving DecidableEq, Repr

/-- The complete table finds a place, or the task fails with SHARE_EXCEEDED (R219). A row array of VARSTR slots has no layout: staged rows
hold none (R199). -/
def buildDone (blk : Bytes) (b : BuildIn) : Except Nat Built :=
  match (if b.rows.isEmpty then some ([], [], 8) else arrayLayout b.payTys b.keyTys) with
  | none => .error 0x0201
  | some l => match buildPlaces b l (buildLimits blk) (le blk 3 1) [] b.rows with
    | some ps => .ok { places := ps, payTys := b.payTys, keyTys := b.keyTys, hashes := b.rows.map (fun r => r.hash) }
    | none => .error 0x0501

/-- Does a hash lead to the node of a path? -/
def leadsTo (path : List Nat) (h : Nat) : Bool := path.isPrefixOf [subPart 0 h, subPart 1 h]

/-- Has the build spilled? -/
def Built.spilled (x : Built) : Bool := x.places.any (fun p => p.table.isNone)

/-- Pages of the chains that rows of these hashes take in a build's spilled nodes, at a stride (R205, R219). -/
def Built.spillPages (x : Built) (stride : Nat) (hs : List Nat) : Nat :=
  let per := max 1 (4032 / stride)
  total ((x.places.filter (fun p => p.table.isNone)).flatMap (fun p =>
    (List.range 16).map (fun s => ceilDiv (hs.countP (leadsTo (p.path ++ [s]))) per)))

/-! ### HASH_PROBE (R221, R222) -/

/-- The payload slots that a probe puts out: payload number and output slot; none for SEMI and ANTI. -/
def outMap (blk : Bytes) (payloads : Nat) : List (Nat × Nat) :=
  if 2 ≤ le blk 0 1 then []
  else ((List.range payloads).map (fun k => (k, le blk (0xC + k) 1))).filter (fun e => e.2 != 0xFF)

/-- A row of a table's row array: payload under 0, 1 and so on, then keys. -/
def HashTable.row (x : HashTable) (n : Nat) : Row :=
  let ts := x.payTys ++ x.keyTys
  unstageRow (List.range ts.length) ts x.layout (x.array.getD n [])

/-- The build rows that a probe row matches: those of its bucket with its tag whose every key is equal by value; a null key matches nothing. -/
def probeMatches (blk : Bytes) (t : HashTable) (cols : Tbl SlotTy) (r : Row) : List Row :=
  let ks := slotList blk 8 (le blk 1 1)
  if nullKey ks r then []
  else
    let bs := keyBytes cols ks r
    let np := t.payTys.length
    ((t.tagged (hash32 (le blk 4 4) bs) (t.spare.length + 1) false (bucketOf t.t (hash64 (le blk 4 4) bs))).map t.row).filter (fun x =>
      (List.range ks.length).all (fun k =>
        match r.slot (ks.getD k 0), x.slot (np + k) with
        | some a, some b => Val.eqv (look cols (ks.getD k 0) { ty := 4 }).at0 (t.keyTys.getD k { ty := 4 }).at0 a b
        | _, _ => false))

/-- The output rows of a probe row (R222). -/
def probeRow (blk : Bytes) (t : HashTable) (payloads : Nat) (cols : Tbl SlotTy) (r : Row) : List Row :=
  let ms := probeMatches blk t cols r
  let m := outMap blk payloads
  let joined (x : Row) : Row := r ++ m.map (fun e => (e.2, x.slot e.1))
  match le blk 0 1 with
  | 0 => ms.map joined
  | 1 => if ms.isEmpty then [r ++ m.map (fun e => (e.2, none))] else ms.map joined
  | 2 => if ms.isEmpty then [] else [r]
  | _ => if ms.isEmpty then [r] else []

/-- The checks of a probe batch (R221), and the slots of what it gives. -/
def probeCols (blk : Bytes) (t : Built) (cols : Tbl SlotTy) : Except Nat (Tbl SlotTy) :=
  let m := outMap blk t.payTys.length
  match Batch.types { cols := cols } (slotList blk 8 (le blk 1 1)) with
  | .error e => .error e
  | .ok ts =>
    if (ts.zip t.keyTys).any (fun e => isNumeric e.1.ty != isNumeric e.2.ty) || m.any (fun e => (find cols e.2).isSome) then .error 0x0201
    else .ok (cols ++ m.map (fun e => (e.2, t.payTys.getD e.1 { ty := 4 })))

/-- h64 of a probe row. -/
def probeHash (blk : Bytes) (cols : Tbl SlotTy) (r : Row) : Nat :=
  hash64 (le blk 4 4) (keyBytes cols (slotList blk 8 (le blk 1 1)) r)

/-- What probe rows give: those that a table of the build serves, table by table in ascending order (R219, R222). -/
def probeRows (blk : Bytes) (t : Built) (cols : Tbl SlotTy) (rows : List Row) : List Row :=
  t.places.flatMap (fun p => match p.table with
    | none => []
    | some x => (rows.filter (fun r => leadsTo p.path (probeHash blk cols r))).flatMap (probeRow blk x t.payTys.length cols))

end Sys2Proof.Machine
end

