-- ==== Sys2Proof/Machine/Aggregates.lean ====
section
/-!
DEFINITION. AGGREGATE and MERGE_AGG (R94 to R98, R224 to R231): groups and their lanes, the order in which they are emitted, partial rows and
their merging.
-/

namespace Sys2Proof.Machine

/-! ### The block (R224, R225) -/

/-- A function entry: COUNT_ROWS 1, COUNT 2, SUM 3, MIN 4, MAX 5. -/
structure AggFunc where
  func : Nat
  src : Nat
  dst : Nat
deriving DecidableEq, Repr

namespace AggBlk
def keys (b : Bytes) : List Nat := slotList b 8 (le b 0 1)
def funcs (b : Bytes) : List AggFunc :=
  (List.range (le b 1 1)).map (fun k => { func := le b (0x40 + 8 * k) 1, src := le b (0x41 + 8 * k) 1, dst := le b (0x42 + 8 * k) 1 })
def isPartial (b : Bytes) : Bool := bit (le b 2 1) 0
def pool (b : Bytes) : Nat := le b 3 1
def seed (b : Bytes) : Nat := le b 4 4
def localMax (b : Bytes) : Nat := le b 0xC 4
end AggBlk

/-! ### Groups and lanes (R225, R226) -/

/-- A function's lane: its value, and whether it has seen no non-null source. COUNT_ROWS counts rows and has no source. -/
structure Lane where
  val : Int := 0
  empty : Bool := true
deriving DecidableEq, Repr

/-- A group. -/
structure AggGroup where
  key : Bytes
  hash : Nat
  keys : List Datum
  lanes : List Lane
deriving DecidableEq, Repr

/-- The groups so far, in the order they were created, with the types of keys and sources once a batch has shown them. -/
structure AggSt where
  keyTys : List SlotTy := []
  srcTys : List (Option SlotTy) := []
  groups : List AggGroup := []
deriving DecidableEq, Repr

/-- The type of a function's source in a batch: a slot without a column, a type that R225 does not allow, and a DEC128 addend above the
accumulator scale (R94) fail the task. -/
def AggFunc.srcTy (f : AggFunc) (acc : Nat) (cols : Tbl SlotTy) : Except Nat (Option SlotTy) :=
  if f.func = 1 then .ok none
  else match find cols f.src with
    | none => .error 0x0201
    | some t =>
      let ok := match f.func with
        | 2 => true
        | 3 => isInt t.ty || (t.ty == tyDec && decide (t.scale ≤ acc))
        | _ => isNumeric t.ty
      if ok then .ok (some t) else .error 0x0201

/-- A datum into a lane: null sources are skipped (R95), an addend is aligned to the accumulator scale (R94) and its addition checked (R97). -/
def AggFunc.into (f : AggFunc) (acc : Nat) (t : Option SlotTy) (v : Datum) (x : Lane) : Except Nat Lane :=
  match f.func, v with
  | 1, _ => .ok { val := x.val + 1, empty := false }
  | _, none => .ok x
  | 2, some _ => .ok { val := x.val + 1, empty := false }
  | 3, some (.num n) =>
    let up := match t with
      | some t => if t.ty = tyDec then acc - t.scale else 0
      | none => 0
    (match (alignUp n up).bind (fun a => laneAdd x.val a) with
     | some s => .ok { val := s, empty := false }
     | none => .error 0x0303)
  | 4, some (.num n) => .ok { val := if x.empty then n else min x.val n, empty := false }
  | 5, some (.num n) => .ok { val := if x.empty then n else max x.val n, empty := false }
  | _, _ => .ok x

/-- Every function's lane after a row. -/
def lanesInto (fs : List AggFunc) (acc : Nat) (ts : List (Option SlotTy)) (r : Row) (xs : List Lane) : Except Nat (List Lane) :=
  allOk (fun (k : Nat) => (fs.getD k ⟨1, 0, 0⟩).into acc (ts.getD k none) (r.slot (fs.getD k ⟨1, 0, 0⟩).src) (xs.getD k {})) (List.range fs.length)

/-- Widths of a partial row's fields: the keys, then COUNT lanes of 8 bytes, SUM lanes of 32, MIN and MAX lanes at the source's width. -/
def partialWidths (fs : List AggFunc) (st : AggSt) : List Nat :=
  st.keyTys.map (fun t => (typeWidth t.ty).getD 0) ++
    (List.range fs.length).map (fun k => match (fs.getD k ⟨1, 0, 0⟩).func with
      | 1 => 8
      | 2 => 8
      | 3 => 32
      | _ => (match st.srcTys.getD k none with
        | some t => (typeWidth t.ty).getD 0
        | none => 0))

/-- ROW_BYTES of an operator (R229). -/
def partialBytes (fs : List AggFunc) (st : AggSt) : Nat := roundUp (layFields 0x10 (partialWidths fs st)).2 16

/-- Bytes of a table of `g` groups (R228). -/
def groupTable (rowBytes g : Nat) : Nat :=
  8 * 2 ^ (((List.range 22).find? (fun k => decide (2 * g ≤ 2 ^ (k + 4)))).getD 21 + 4) + g * rowBytes

/-- May one more group be created (R228)? -/
def roomForGroup (b : Bytes) (rowBytes g : Nat) : Bool :=
  decide (g + 1 ≤ 16777215) && (decide (groupTable rowBytes (g + 1) ≤ AggBlk.localMax b) || AggBlk.pool b != 0xFF)

/-- A row of a batch: into the group whose keys equal its own, null keys equal to one another, or into a new one (R226). -/
def aggRow (b : Bytes) (acc : Nat) (cols : Tbl SlotTy) (st : AggSt) (r : Row) : Except Nat AggSt :=
  let fs := AggBlk.funcs b
  let ks := AggBlk.keys b
  let k := keyBytes cols ks r
  match st.groups.findIdx? (fun g => g.key == k) with
  | some n =>
    (lanesInto fs acc st.srcTys r ((st.groups[n]?.map (fun g => g.lanes)).getD [])).map (fun xs =>
      { st with groups := modAt (fun g => { g with lanes := xs }) n st.groups })
  | none =>
    if !roomForGroup b (partialBytes fs st) st.groups.length then .error 0x0501
    else (lanesInto fs acc st.srcTys r []).map (fun xs =>
      { st with groups := st.groups ++ [{ key := k, hash := hash64 (AggBlk.seed b) k, keys := ks.map r.slot, lanes := xs }] })

/-- AGGREGATE on a batch. -/
def aggBatch (b : Bytes) (acc : Nat) (st : AggSt) (x : Batch) : Except Nat AggSt :=
  match x.types (AggBlk.keys b), allOk (fun (f : AggFunc) => f.srcTy acc x.cols) (AggBlk.funcs b) with
  | .error e, _ => .error e
  | _, .error e => .error e
  | .ok kt, .ok sts =>
    if kt.any (fun t => t.ty == tyStr) then .error 0x0201
    else x.rows.foldl (fun s r => match s with
      | .ok s => aggRow b acc x.cols s r
      | e => e) (.ok { st with keyTys := kt, srcTys := sts })

/-! ### Emission (R96, R225, R227) -/

/-- Groups in the order they are emitted: rising h64, equal ones as they were created. -/
def emitOrder (gs : List AggGroup) : List AggGroup := sortBy (fun (a b : AggGroup) => decide (a.hash < b.hash)) gs

/-- With KEY_COUNT 0 there is exactly one group, even without input (R226). -/
def withEmptyGroup (b : Bytes) (gs : List AggGroup) : List AggGroup :=
  if AggBlk.keys b = [] ∧ gs = [] then
    [{ key := [], hash := hash64 (AggBlk.seed b) [], keys := [], lanes := (AggBlk.funcs b).map (fun _ => {}) }]
  else gs

/-- A function's output type; where no source has been seen its type is open. -/
def AggFunc.outTy (f : AggFunc) (acc : Nat) (t : Option SlotTy) : SlotTy :=
  match f.func, t with
  | 1, _ => { ty := 4 }
  | 2, _ => { ty := 4 }
  | 3, some t => if t.ty = tyDec then { ty := tyDec, scale := acc } else { ty := 5 }
  | _, some t => t
  | n, none => { ty := Config.unseenTy n }

/-- A function's output value: COUNT is never null, the others are null over no non-null source; a DEC128 sum is narrowed, an integer sum taken
to INT128. -/
def AggFunc.out (f : AggFunc) (t : Option SlotTy) (trap : Bool) (x : Lane) : Except Nat Datum :=
  match f.func with
  | 1 => .ok (some (.num x.val))
  | 2 => .ok (some (.num x.val))
  | 3 =>
    if x.empty then .ok none
    else numOr (match t with
      | some t => if t.ty = tyDec then laneNarrow x.val else intResult 5 trap x.val
      | none => laneNarrow x.val)
  | _ => .ok (if x.empty then none else some (.num x.val))

/-- The rows of the groups: key slots under their numbers and one DST slot for each function. -/
def aggRows (b : Bytes) (acc : Nat) (trap : Bool) (st : AggSt) : Except Nat (List Batch) :=
  let fs := AggBlk.funcs b
  let ks := AggBlk.keys b
  let fn (k : Nat) : AggFunc := fs.getD k ⟨1, 0, 0⟩
  let ty (k : Nat) : Option SlotTy := st.srcTys.getD k none
  let cols := ks.zip st.keyTys ++ (List.range fs.length).map (fun k => ((fn k).dst, (fn k).outTy acc (ty k)))
  (allOk (fun (g : AggGroup) =>
    (allOk (fun (k : Nat) => (fn k).out (ty k) trap (g.lanes.getD k {})) (List.range fs.length)).map (fun vs =>
      ks.zip g.keys ++ (fs.map (fun f => f.dst)).zip vs)) (emitOrder st.groups)).map (batchesOf cols)

/-! ### Partial rows (R229, R230) -/

/-- The number of a lane's field: a MIN or MAX that has seen no source holds none. -/
def AggFunc.laneField (f : AggFunc) (w : Nat) (x : Lane) : Bytes :=
  if 4 ≤ f.func ∧ x.empty then fieldBytes w none else toLE w (ofSigned (8 * w) x.val)

/-- A group's partial row. -/
def partialRow (b : Bytes) (st : AggSt) (g : AggGroup) : Bytes :=
  let fs := AggBlk.funcs b
  let ws := partialWidths fs st
  let n := partialBytes fs st
  let emp := total ((List.range fs.length).map (fun k => b2n (g.lanes.getD k {}).empty <<< k))
  let fields := (List.zipWith fieldBytes ws g.keys) ++
    (List.range fs.length).map (fun k => (fs.getD k ⟨1, 0, 0⟩).laneField (ws.getD (g.keys.length + k) 0) (g.lanes.getD k {}))
  placeFields ((layFields 0x10 ws).1.zip fields) n
    (toLE 8 g.hash ++ toLE 2 n ++ toLE 1 (nullMask g.keys) ++ toLE 1 0 ++ toLE 2 emp ++ toLE 2 0)

/-- What a PARTIAL AGGREGATE writes. -/
def partialRows (b : Bytes) (st : AggSt) : Bytes := (emitOrder st.groups).flatMap (partialRow b st)

/-- A partial row read back, for an operator whose key and source types `st` holds. -/
def readPartial (b : Bytes) (st : AggSt) (bs : Bytes) : AggGroup :=
  let fs := AggBlk.funcs b
  let ks := AggBlk.keys b
  let ws := partialWidths fs st
  let os := (layFields 0x10 ws).1
  let field (k : Nat) : Bytes := slice bs (os.getD k 0) (ws.getD k 0)
  let keys := (List.range ks.length).map (fun k =>
    if bit (le bs 0xA 1) k then none else some (fieldVal (st.keyTys.getD k { ty := 4 }).ty (field k)))
  { hash := le bs 0 8
    keys := keys
    key := keyBytes (ks.zip st.keyTys) ks (ks.zip keys)
    lanes := (List.range fs.length).map (fun k =>
      let fb := field (ks.length + k)
      let v : Int := match (fs.getD k ⟨1, 0, 0⟩).func with
        | 1 => (ofLE fb : Nat)
        | 2 => (ofLE fb : Nat)
        | 3 => toSigned 256 (ofLE fb)
        | _ => (match fieldVal ((st.srcTys.getD k none).getD { ty := 4 }).ty fb with
          | .num v => v
          | .str _ => 0)
      { val := v, empty := bit (le bs 0xC 2) k }) }

/-- Two lanes of one function merged: COUNT and SUM added, MIN and MAX compared, the EMPTY bits ANDed (R230). -/
def AggFunc.mergeLane (f : AggFunc) (x y : Lane) : Except Nat Lane :=
  if f.func ≤ 3 then match laneAdd x.val y.val with
    | some s => .ok { val := s, empty := x.empty && y.empty }
    | none => .error 0x0303
  else if y.empty then .ok x
  else if x.empty then .ok y
  else .ok { val := if f.func = 4 then min x.val y.val else max x.val y.val, empty := false }

/-- A partial row into the groups. -/
def mergeGroup (b : Bytes) (st : AggSt) (g : AggGroup) : Except Nat AggSt :=
  let fs := AggBlk.funcs b
  match st.groups.findIdx? (fun x => x.key == g.key) with
  | none =>
    if roomForGroup b (partialBytes fs st) st.groups.length then .ok { st with groups := st.groups ++ [g] } else .error 0x0501
  | some n =>
    let old := (st.groups[n]?.map (fun x => x.lanes)).getD []
    (allOk (fun (k : Nat) => (fs.getD k ⟨1, 0, 0⟩).mergeLane (old.getD k {}) (g.lanes.getD k {})) (List.range fs.length)).map (fun xs =>
      { st with groups := modAt (fun x => { x with lanes := xs }) n st.groups })

/-- Does task `i` of `n` keep a partial row of this HASH? -/
def keepsHash (n i h : Nat) : Bool := decide (n ≤ 1) || h >>> (64 - Nat.log2 n) == i

/-- MERGE_AGG's task `i` of `n` over the partial rows of its buffer; `st` holds the types of keys and sources. -/
def mergeRows (b : Bytes) (n i : Nat) : Nat → AggSt → Bytes → Except Nat AggSt
  | 0, st, _ => .ok st
  | fuel + 1, st, bs =>
    let size := partialBytes (AggBlk.funcs b) st
    if bs.isEmpty then .ok st
    else if le bs 8 2 ≠ size ∨ bs.length < size then .error 0x0201
    else
      let g := readPartial b st bs
      if keepsHash n i g.hash then match mergeGroup b st g with
        | .ok st => mergeRows b n i fuel st (bs.drop size)
        | e => e
      else mergeRows b n i fuel st (bs.drop size)

/-- The groups that MERGE_AGG's task `i` of `n` emits: with KEY_COUNT 0 and no partial row, the one group is that of the task that keeps its
HASH. -/
def mergeAgg (b : Bytes) (n i : Nat) (st : AggSt) (bs : Bytes) : Except Nat AggSt :=
  (mergeRows b n i (bs.length / 16 + 1) st bs).map (fun st =>
    { st with groups := (withEmptyGroup b st.groups).filter (fun g => keepsHash n i g.hash) })

end Sys2Proof.Machine
end

