-- ==== Sys2Proof/Machine/Sorts.lean ====
section
/-!
DEFINITION. SORT_RUN, MERGE and TOP_N (R232 to R237): the order of rows, runs and run records, the splitters of a MERGE.
-/

namespace Sys2Proof.Machine

namespace SortBlk
def keys (b : Bytes) : List Nat := slotList b 8 (le b 0 1)
def flags (b : Bytes) (k : Nat) : Nat := le b (0xC + k) 1
def slots (b : Bytes) : List Nat := slotList b 0x10 (le b 1 1)
def count (b : Bytes) : Nat := le b 4 4
end SortBlk

/-! ### The order (R233) -/

/-- One key of two rows, under its flags: bit 0 DESC, bit 1 NULLS_FIRST. DESC reverses values and leaves nulls where they are. -/
def keyOrder (flags s : Nat) : Datum → Datum → Ordering
  | none, none => .eq
  | none, some _ => if bit flags 1 then .lt else .gt
  | some _, none => if bit flags 1 then .gt else .lt
  | some x, some y =>
    if Val.lt s s x y then (if bit flags 0 then .gt else .lt)
    else if Val.lt s s y x then (if bit flags 0 then .lt else .gt)
    else .eq

/-- Does row `x` stand before row `y` by the keys? Rows with equal keys keep their input order. -/
def sortsBefore (b : Bytes) (cols : Tbl SlotTy) (x y : Row) : Bool :=
  let ks := SortBlk.keys b
  match ((List.range ks.length).map (fun k =>
    let n := ks.getD k 0
    keyOrder (SortBlk.flags b k) (look cols n { ty := 4 }).at0 (x.slot n) (y.slot n))).find? (fun o => o != .eq) with
  | some .lt => true
  | _ => false

/-- Rows sorted, stably. -/
def sortRows (b : Bytes) (cols : Tbl SlotTy) (rows : List Row) : List Row := sortBy (sortsBefore b cols) rows

/-- The key slots of rows: one without a column, or VARSTR, fails the task. -/
def sortKeysOk (b : Bytes) (cols : Tbl SlotTy) : Bool :=
  (SortBlk.keys b).all (fun k => match find cols k with
    | some t => t.ty != tyStr
    | none => false)

/-! ### Run records (R234, R235) -/

/-- A run record over STAGE_SLOTS. -/
def runRecord (b : Bytes) (cols : Tbl SlotTy) (rows : List Row) : Except Nat Bytes :=
  match Batch.staged { cols := cols } (SortBlk.slots b) with
  | .error e => .error e
  | .ok l =>
    let body := rows.flatMap (fun r => stageRow l ((SortBlk.slots b).map r.slot))
    .ok (toLE 4 0x4E555258 ++ toLE 4 rows.length ++ toLE 2 l.2.2 ++ toLE 2 0 ++ toLE 4 (crc32c body) ++ List.replicate 16 0 ++ body)

/-- The runs of a buffer, in run order, for staged slots of types `ts`: a wrong MAGIC or STRIDE, a wrong CRC. -/
def readRuns (ss : List Nat) (ts : List SlotTy) (l : List Nat × List Nat × Nat) : Nat → Bytes → Except Nat (List (List Row))
  | 0, _ => .ok []
  | fuel + 1, bs =>
    if bs.isEmpty then .ok []
    else
      let n := le bs 4 4
      let s := l.2.2
      let body := slice bs 32 (n * s)
      if le bs 0 4 ≠ 0x4E555258 ∨ le bs 8 2 ≠ s ∨ body.length < n * s then .error 0x0201
      else if crc32c body ≠ le bs 0xC 4 then .error 0x0402
      else (readRuns ss ts l fuel (bs.drop (32 + n * s))).map (fun rs =>
        (List.range n).map (fun k => unstageRow ss ts l (slice body (k * s) s)) :: rs)

/-- The runs that a reader of a RESULT buffer finds; `cols` are the types of its staged slots. -/
def runsOf (b : Bytes) (cols : Tbl SlotTy) (bs : Bytes) : Except Nat (List (List Row)) :=
  let ss := SortBlk.slots b
  match Batch.types { cols := cols } ss, Batch.staged { cols := cols } ss with
  | .ok ts, .ok l => readRuns ss ts l (bs.length / 32 + 1) bs
  | .error e, _ => .error e
  | _, .error e => .error e

/-! ### SORT_RUN (R234) and TOP_N (R237) -/

/-- The runs that close as rows gather, each of COUNT rows and sorted, and the rows left. -/
def closeRuns (b : Bytes) (cols : Tbl SlotTy) : Nat → List Row → List (List Row) × List Row
  | 0, rows => ([], rows)
  | fuel + 1, rows =>
    if rows.length < SortBlk.count b then ([], rows)
    else
      let (rs, rest) := closeRuns b cols fuel (rows.drop (SortBlk.count b))
      (sortRows b cols (rows.take (SortBlk.count b)) :: rs, rest)

/-- The first N rows of all input. -/
def topRows (b : Bytes) (cols : Tbl SlotTy) (rows : List Row) : List Row := (sortRows b cols rows).take (SortBlk.count b)

/-! ### MERGE (R236) -/

/-- Every row of the runs with its place: run, position in the run. -/
def placed (runs : List (List Row)) : List ((Nat × Nat) × Row) :=
  (List.range runs.length).flatMap (fun k =>
    let run := runs.getD k []
    (List.range run.length).map (fun j => ((k, j), run.getD j [])))

/-- The runs' rows in the total order, which breaks ties by run order and position. -/
def totalOrder (b : Bytes) (cols : Tbl SlotTy) (runs : List (List Row)) : List ((Nat × Nat) × Row) :=
  sortBy (fun x y => sortsBefore b cols x.2 y.2) (placed runs)

/-- The places in the total order, counted from 1, behind which splitters 1 to N - 1 stand: splitter i is the sample of rank
floor(i · |S| / N), ranks counted from 0. -/
def splitters (n : Nat) (rows : List ((Nat × Nat) × Row)) : List Nat :=
  let samples := (List.range rows.length).filter (fun k => match rows[k]? with
    | some r => r.1.2 % 1024 == 0
    | none => false)
  (List.range (n - 1)).map (fun i => samples.getD ((i + 1) * samples.length / n) 0 + 1)

/-- The rows of MERGE's task `i` of `n`: those above splitter i and at or below splitter i + 1; a range over more than 8,192 runs fails. -/
def mergeTask (b : Bytes) (cols : Tbl SlotTy) (n i : Nat) (runs : List (List Row)) : Except Nat (List Row) :=
  let rows := totalOrder b cols runs
  let ss := splitters n rows
  let lo := if i = 0 then 0 else ss.getD (i - 1) 0
  let hi := if i + 1 = n then rows.length else ss.getD i 0
  let part := (rows.drop lo).take (hi - lo)
  if 8192 < (part.map (fun r => r.1.1)).eraseDups.length then .error 0x0501 else .ok (part.map (fun r => r.2))

end Sys2Proof.Machine
end

