-- ==== Sys2Proof/Machine/Writes.lean ====
section
/-!
DEFINITION. WRITE_ROWS (R107), WRITE_SEGMENTS (R68, R81, R83, R108, R109) and CAT_LOOKUP (R265 to R268): the bytes of rows and of segments, the
search key of a row and its outputs.
-/

namespace Sys2Proof.Machine

/-! ### WRITE_ROWS (R107) -/

/-- A field of `n` bytes: the value at its natural width, cut or extended with zeros; all-ones for null. A string's bytes are its own. -/
def writtenField (ty n : Nat) : Datum → Bytes
  | none => List.replicate n 0xFF
  | some (.num v) => padTo n (toLE ((typeWidth ty).getD 0) (ofSigned (8 * (typeWidth ty).getD 0) v))
  | some (.str b) => padTo n b

/-- The bytes of a row. -/
def writtenRow (blk : Bytes) (cols : Tbl SlotTy) (r : Row) : Bytes :=
  placeFields ((List.range (le blk 2 2)).map (fun k =>
    let f := slice blk (16 + 8 * k) 8
    (le f 2 2, writtenField (look cols (le f 0 1) { ty := 4 }).ty (le f 4 2) (r.slot (le f 0 1))))) (le blk 0 2) []

/-- WRITE_ROWS on a batch; a slot without a column fails the task. -/
def writeRows (blk : Bytes) (b : Batch) : Except Nat Bytes :=
  (b.types ((List.range (le blk 2 2)).map (fun k => le blk (16 + 8 * k) 1))).map (fun _ => b.rows.flatMap (writtenRow blk b.cols))

/-! ### WRITE_SEGMENTS (R108, R109) -/

/-- The numbers and the strings among data. -/
def numbersOf (vs : List Datum) : List Int := vs.filterMap (fun v => match v with | some (.num x) => some x | _ => none)
def stringsOf (vs : List Datum) : List Bytes := vs.filterMap (fun v => match v with | some (.str x) => some x | _ => none)

/-- Least and greatest of a list; 0 of none. -/
def leastInt (xs : List Int) : Int := (best (fun a b => decide (a < b)) xs).getD 0
def greatestInt (xs : List Int) : Int := (best (fun a b => decide (b < a)) xs).getD 0

/-- The zone map of a slot: 16 bytes each of the least and the greatest value, or of their prefixes (R81). -/
def zoneOf (ty : Nat) (vs : List Datum) : Bytes × Bytes :=
  if ty = tyStr then
    let xs := stringsOf vs
    (padTo 16 ((best bytesLt xs).getD []), padTo 16 ((best (fun a b => bytesLt b a) xs).getD []))
  else (toLE 16 (ofSigned 128 (leastInt (numbersOf vs))), toLE 16 (ofSigned 128 (greatestInt (numbersOf vs))))

/-- The blocks of a payload stream: 4,092 bytes and their CRC-32C each (R65 to R68). -/
def sealBlocks (n : Nat) (stream : Bytes) : Bytes :=
  (List.range n).flatMap (fun k => let p := padTo 4092 (stream.drop (4092 * k)); p ++ toLE 4 (crc32c p))

/-- The segment that a slot's values make: `enc` is the block's ENCODING, `col` its COLUMN_ID. A region of length zero is absent, and written
with offset zero. Values that need more than the 262,144 blocks of R66 are written with the number they need (DESIGN CHOICE, log entry 128). -/
def segmentOf (enc col first : Nat) (t : SlotTy) (vs : List Datum) : Bytes :=
  let n := vs.length
  let nulls := vs.map (fun v => v.isNone)
  let nullCount := nulls.countP id
  let lo := leastInt (numbersOf vs)
  let width := bitLen (greatestInt (numbersOf vs) - lo).toNat
  let str := t.ty == tyStr
  let for_ := enc == 1 && !str && decide (width ≤ 64)
  let w := (typeWidth t.ty).getD 0
  let num (v : Datum) : Nat := match v with
    | some (.num x) => if for_ then (x - lo).toNat else ofSigned (8 * w) x
    | _ => 0
  let data := if str then (stringsOf vs).flatten
    else if for_ then packBits width (vs.map num) else vs.flatMap (fun v => toLE w (num v))
  let ends := (List.range n).map (fun k => total ((stringsOf (vs.take (k + 1))).map (fun s => s.length)))
  let offsets := if str then ends.flatMap (toLE 4) else []
  let nullBytes := if nullCount = 0 then [] else packBits 1 (nulls.map b2n)
  let dataAt := roundUp (160 + nullBytes.length) 16
  let offsAt := roundUp (dataAt + data.length) 16
  let finish := if str then offsAt + offsets.length else if data.isEmpty then 160 + nullBytes.length else dataAt + data.length
  let blocks := ceilDiv finish 4092
  let zone := if nullCount = n then (List.replicate 16 0, List.replicate 16 0) else zoneOf t.ty vs
  let head := toLE 4 0x47455358 ++ toLE 2 1 ++ toLE 2 160 ++ toLE 4 n ++ toLE 1 t.ty ++ toLE 1 (b2n for_) ++ toLE 1 t.at0 ++
    toLE 1 (b2n (decide (0 < nullCount)) + 2) ++ toLE 4 blocks ++ toLE 4 col ++ toLE 8 first ++ toLE 1 (if for_ then width else 0) ++
    toLE 3 0 ++ toLE 4 0 ++ (if for_ then toLE 16 (ofSigned 128 lo) else List.replicate 16 0) ++ toLE 4 0 ++ toLE 4 0 ++
    zone.1 ++ zone.2 ++ toLE 4 nullCount ++ toLE 4 0 ++ toLE 8 0 ++
    (if nullCount = 0 then toLE 8 0 else toLE 4 160 ++ toLE 4 nullBytes.length) ++
    (if data.isEmpty then toLE 8 0 else toLE 4 dataAt ++ toLE 4 data.length) ++
    (if str then toLE 4 offsAt ++ toLE 4 offsets.length else toLE 8 0) ++ toLE 8 0 ++ List.replicate 16 0
  sealBlocks blocks (placeFields [(160, nullBytes), (dataAt, data), (offsAt, offsets)] (4092 * blocks) head)

/-- WRITE_SEGMENTS on a batch: one segment for each slot, rising; `first` rows have been written before. A batch without rows makes none. -/
def writeSegments (blk : Bytes) (first : Nat) (b : Batch) : Bytes :=
  if b.rows.isEmpty then []
  else (List.range b.slots.length).flatMap (fun k =>
    let s := b.slots.getD k 0
    segmentOf (le blk 0 1) (le blk 1 1 + k) first (look b.cols s { ty := 4 }) (b.rows.map (fun r => r.slot s)))

/-! ### CAT_LOOKUP (R265 to R268) -/

/-- A key field and an output of the block. -/
structure KeyField where
  slot : Nat
  bcd : Bool
  offset : Nat
  width : Nat
deriving DecidableEq, Repr
structure LookupOut where
  dst : Nat
  ty : Nat
  offset : Nat
  width : Nat
deriving DecidableEq, Repr

namespace LookupBlk
def set (b : Bytes) : Nat := le b 0 1
def fields (b : Bytes) : List KeyField :=
  (List.range (le b 1 1)).map (fun k =>
    let f := slice b (8 + 4 * k) 4
    { slot := le f 0 1, bcd := le f 1 1 == 1, offset := le f 2 1, width := le f 3 1 })
def outs (b : Bytes) : List LookupOut :=
  (List.range (le b 2 1)).map (fun k =>
    let o := slice b (0x18 + 8 * k) 8
    { dst := le o 0 1, ty := le o 1 1, offset := le o 2 1, width := le o 3 1 })
def hitSlot (b : Bytes) : Nat := le b 4 1
def rankSlot (b : Bytes) : Nat := le b 5 1
end LookupBlk

/-- `n` decimal digits of a number, the least significant in the lowest four bits. -/
def bcdOf : Nat → Nat → Nat
  | 0, _ => 0
  | n + 1, v => v % 10 + 16 * bcdOf n (v / 10)

/-- The search key of a row whose key slots hold no null: each field's bits in its place; a BCD value out of range fails (R266). -/
def lookupKey (b : Bytes) (r : Row) : Except Nat Nat :=
  (LookupBlk.fields b).foldl (fun acc f => match acc, r.slot f.slot with
    | .ok k, some (.num v) =>
      if f.bcd then
        if v < 0 ∨ 10 ^ (f.width / 4) ≤ v then .error 0x0303 else .ok (k ||| bcdOf (f.width / 4) v.toNat <<< f.offset)
      else .ok (k ||| (ofSigned 128 v % 2 ^ f.width) <<< f.offset)
    | e, _ => e) (.ok 0)

/-- The checks of a task's first lookup (R266, R277): key types, fields and outputs within the set's width, an enabled group, a READY one. -/
def Dev.lookupCheck (d : Dev) (inst : Nat) (b : Bytes) (cols : Tbl SlotTy) : Except Nat CatSet :=
  let k := catKey inst (LookupBlk.set b)
  match d.catSet k with
  | none => .error 0x0201
  | some s =>
    if !((LookupBlk.fields b).all (fun f => isInt (look cols f.slot { ty := 0 }).ty && decide (f.offset + f.width ≤ 64 * s.width)) &&
        (LookupBlk.outs b).all (fun o => decide (o.offset + o.width ≤ 8 * s.width - 1))) then .error 0x0201
    else if (d.catReady k).isEmpty then .error 0x0401
    else .ok s

/-- A row after its lookup: outputs, HIT and RANK (R267); `rec` is the search's record, none for a null key. -/
def lookupRow (b : Bytes) (r : Row) (rec_ : Option Bytes) : Row :=
  let flags := match rec_ with | some x => le x 2 1 | none => 0
  let hit := bit flags 0
  let x := rec_.getD []
  let put1 (slot : Nat) (v : Datum) (r : Row) : Row := if slot = 0xFF then r else put r slot v
  let r := (LookupBlk.outs b).foldl (fun r o => put r o.dst (if hit then some (.num ((le x (16 + o.offset) o.width : Nat) : Int)) else none)) r
  let r := put1 (LookupBlk.hitSlot b) (some (.num ((flags % 4 : Nat) : Int))) r
  put1 (LookupBlk.rankSlot b) (if hit then some (.num ((le x 4 4 : Nat) : Int)) else none) r

/-- The slots that a CAT_LOOKUP adds. -/
def lookupCols (b : Bytes) (cols : Tbl SlotTy) : Tbl SlotTy :=
  let put1 (slot ty : Nat) (c : Tbl SlotTy) : Tbl SlotTy := if slot = 0xFF then c else put c slot { ty := ty }
  put1 (LookupBlk.rankSlot b) 0x13 (put1 (LookupBlk.hitSlot b) 0x11 ((LookupBlk.outs b).foldl (fun c o => put c o.dst { ty := o.ty }) cols))

/-- CAT_LOOKUP on a batch: DEDUP changes no output (R268). -/
def Dev.lookupBatch (d : Dev) (inst : Nat) (blk : Bytes) (b : Batch) : Except Nat Batch :=
  let ks := (LookupBlk.fields blk).map (fun f => f.slot)
  let one (s : CatSet) (r : Row) : Except Nat Row :=
    if nullKey ks r then .ok (lookupRow blk r none)
    else (lookupKey blk r).map (fun k => lookupRow blk r (some (s.record k false)))
  match b.types ks with
  | .error e => .error e
  | .ok _ =>
    if b.rows.all (nullKey ks) then
      .ok { cols := lookupCols blk b.cols, rows := b.rows.map (fun r => lookupRow blk r none) }
    else match d.lookupCheck inst blk b.cols with
      | .error e => .error e
      | .ok s => (allOk (one s) b.rows).map (fun rows => { cols := lookupCols blk b.cols, rows := rows })

end Sys2Proof.Machine
end

