-- ==== Sys2Proof/Machine/TaskWork.lean ====
section
/-!
DEFINITION. What the built-in operators of a task compute (R104, R113, R120): where their rows come from, batch by batch in ascending
operator index, and what the task stages, writes, counts and fails with; and TASKDONE, which ends the task with it.
-/

namespace Sys2Proof.Machine

/-- What an operator has in hand between batches. -/
inductive OpMem where
  | idle
  | build (t : BuildIn)
  | built (t : Built)
  | groups (st : AggSt)
  | rows (cols : Tbl SlotTy) (rs : List Row)
  | count (n : Nat)
  | types (cols : Tbl SlotTy)
  | chosen (s : Selection)
deriving DecidableEq, Repr

/-- A task at work: its operators, batches on FUSED edges as (operator, port, batch), rows staged as (partition, STRIDE, row), bytes written by
buffer, rows counted by buffer, pages taken as (operator, pool, pages), the types it has fixed, rows that have left a HASH_PROBE. -/
structure Work where
  mem : Tbl OpMem := []
  queue : List (Nat × Nat × Batch) := []
  staged : List (Nat × Nat × Row) := []
  written : List (Nat × Bytes) := []
  counted : Tbl Nat := []
  pages : List (Nat × Nat × Nat) := []
  ty : Typing := {}
  probed : Nat := 0
deriving DecidableEq, Repr

/-- A task's failure: its status and the operator that failed. Status 0 is no failure: a STREAM input has not come to END. -/
structure WorkFail where
  status : Nat
  op : Nat
deriving DecidableEq, Repr

/-- The result of a step of a task's work. -/
abbrev WorkRes := Except WorkFail Work

/-- An operator's own result: its failure names it. -/
def forOp {α : Type} (n : Nat) (x : Except Nat α) (f : α → WorkRes) : WorkRes :=
  match x with
  | .ok v => f v
  | .error st => .error { status := st, op := n }

/-- What a task's work depends on: its gallery, image, run, template and place, the types that its inputs were written by, and a rank of every
row that leaves a HASH_PROBE, whose order R215 leaves open. -/
structure TaskEnv where
  dev : Dev
  gal : Nat
  who : Who
  word : Word
  run : Nat
  r : Run
  i : Image
  template : Nat
  logical : Nat
  rank : Nat → Nat

namespace TaskEnv

/-- Parameter block, and the buffer that a port names. -/
def param (e : TaskEnv) (n : Nat) : Bytes := e.i.param (e.i.op n)
def inBuffer (e : TaskEnv) (n port : Nat) : Option Nat :=
  let o := e.i.op n
  let b := o.inBuf.getD port 0xFFFF
  if port < o.inCount ∧ b ≠ 0xFFFF then some b else none
def outBuffer (e : TaskEnv) (n port : Nat) : Option Nat :=
  let o := e.i.op n
  let b := o.outBuf.getD port 0xFFFF
  if port < o.outCount ∧ b ≠ 0xFFFF then some b else none

/-- Does integer arithmetic trap: LEDGER, or OVF_TRAP (R105)? -/
def trap (e : TaskEnv) (n : Nat) : Bool := (e.i.op n).ledger || (e.i.op n).ovfTrap

/-- The bytes of a buffer: those written to a RESULT buffer in the order of R117, the constants, LENGTH bytes of any other. -/
def contents (e : TaskEnv) (b : Nat) : Except Nat Bytes :=
  let x := e.i.buffer b
  let ofRd (rd : Rd) : Except Nat Bytes := match rd with
    | .ok bs => .ok bs
    | _ => .error 0x0401
  match x.kind with
  | 3 => ofRd (e.dev.readSpans ((e.r.ordered b).map (fun (t : Extent) => (t.addr, t.bytes))))
  | 2 => (match e.r.scratch.find? (fun (s : Nat × Nat × Nat) => s.1 == b) with
    | some s => ofRd (e.dev.readPA s.2.1 s.2.2)
    | none => .ok [])
  | 5 => let a := x.bound e.r.params; .ok (slice e.i (e.i.constOff + a.1) a.2)
  | _ =>
    let a := x.bound e.r.params
    (match e.dev.readInst e.who e.r.inst a.1 a.2 with
     | .error f => .error f.status
     | .ok (_, true) => .error 0x0401
     | .ok (bs, false) => .ok bs)

/-! ### Output -/

/-- Batches on the FUSED edges that an operator's output port feeds (R112). -/
def emit (e : TaskEnv) (n port : Nat) (bs : List Batch) (w : Work) : Work :=
  let to_ := e.i.edges.filter (fun x => x.fan == 0 && x.src == n && x.srcPort == port)
  { w with queue := w.queue ++ bs.flatMap (fun b => to_.map (fun x => (x.dst, x.dstPort, b))) }

/-- Bytes and rows into the buffer of an operator's output port 0. -/
def write (e : TaskEnv) (n : Nat) (bs : Bytes) (rows : Nat) (w : Work) : Work :=
  match e.outBuffer n 0 with
  | some b => { w with written := w.written ++ [(b, bs)], counted := upd w.counted b 0 (· + rows) }
  | none => w

/-- A sorted run: a run record to a buffer, or batches; an empty run is none (R234). -/
def outRun (e : TaskEnv) (n : Nat) (cols : Tbl SlotTy) (rows : List Row) (w : Work) : WorkRes :=
  if rows.isEmpty then .ok w
  else match e.outBuffer n 0 with
    | some b => forOp n (runRecord (e.param n) cols rows) (fun bs =>
        .ok (e.write n bs rows.length { w with ty := { w.ty with runs := put w.ty.runs b cols } }))
    | none => .ok (e.emit n 0 (batchesOf cols rows) w)

/-! ### One batch into one operator -/

/-- Bytes of local store that rows take: every slot at its natural width, a string at its length (DESIGN CHOICE, log entry 141). -/
def rowsBytes (cols : Tbl SlotTy) (rows : List Row) : Nat :=
  total (rows.map (fun r => total (cols.map (fun c => match r.slot c.1 with
    | some (.str bs) => bs.length
    | _ => (typeWidth c.2.ty).getD 0))))

/-- Rows gathered by a sort: closed runs leave a SORT_RUN, which fails where a run outgrows the template's local store (R234). -/
def sortInto (e : TaskEnv) (n : Nat) (k : OpKind) (b : Batch) (w : Work) : WorkRes :=
  let blk := e.param n
  if !sortKeysOk blk b.cols then .error { status := 0x0201, op := n }
  else
    let before := match look w.mem n .idle with
      | .rows _ rs => rs
      | _ => []
    let all := before ++ b.rows
    let (runs, rest) := if k = .sortRun then closeRuns blk b.cols (all.length + 1) all else ([], all)
    if k = .sortRun ∧ (runs ++ [rest]).any (fun x => decide ((e.i.template e.template).localBytes < rowsBytes b.cols x)) then
      .error { status := 0x0501, op := n }
    else runs.foldl (fun acc run => match acc with
      | .ok w => e.outRun n b.cols run w
      | x => x) (.ok { w with mem := put w.mem n (.rows b.cols rest) })

/-- The HASH_BUILD whose table a HASH_PROBE takes. -/
def buildOf (e : TaskEnv) (n : Nat) : Nat := ((e.i.edges.find? (fun x => x.fan == 0 && x.dst == n && x.dstPort == 0)).map (fun x => x.src)).getD 0

/-- The complete build that a HASH_PROBE reads. -/
def built (e : TaskEnv) (n : Nat) (w : Work) : Built := match look w.mem (e.buildOf n) .idle with
  | .built t => t
  | _ => {}

/-- Rows leave a HASH_PROBE in an order of their ranks alone. -/
def outProbe (e : TaskEnv) (n : Nat) (cols : Tbl SlotTy) (rows : List Row) (w : Work) : Work :=
  let ranked := (List.range rows.length).map (fun k => (e.rank (w.probed + k), rows.getD k []))
  let rows := (sortBy (fun (a b : Nat × Row) => decide (a.1 < b.1)) ranked).map (fun x => x.2)
  e.emit n 0 (batchesOf cols rows) { w with probed := w.probed + rows.length }

/-- A batch into a HASH_PROBE: joined at once, or, where its build has spilled, kept with the rows that are routed (R219). -/
def probe (e : TaskEnv) (n : Nat) (b : Batch) (w : Work) : WorkRes :=
  let blk := e.param n
  let t := e.built n w
  forOp n (probeCols blk t b.cols) (fun cols =>
    if t.spilled then
      let before := match look w.mem n .idle with
        | .rows _ rs => rs
        | _ => []
      .ok { w with mem := put w.mem n (.rows b.cols (before ++ b.rows)) }
    else .ok (e.outProbe n cols (probeRows blk t b.cols b.rows) w))

/-- The STREAM edge that a PARTITION operator feeds, by rank. -/
def edgeOf (e : TaskEnv) (n : Nat) : Nat := ((List.range e.i.streams.length).find? (fun k => (e.i.streams[k]?.map (fun x => x.src)) == some n)).getD 0

/-- The types of an edge's staged slots are kept for each producing task. -/
def tyKey (edge task : Nat) : Nat := edge <<< 21 + task

/-- A batch into a PARTITION operator. -/
def stage (e : TaskEnv) (n : Nat) (b : Batch) (w : Work) : WorkRes :=
  let blk := e.param n
  let ss := slotList blk 0x14 (le blk 2 1)
  let j := match look w.mem n .idle with
    | .count j => j
    | _ => 0
  forOp n (partitionBatch blk e.logical j b) (fun rs =>
    .ok { w with
      staged := w.staged ++ rs
      mem := put w.mem n (.count (j + rs.length))
      ty := { w.ty with streams := put w.ty.streams (tyKey (e.edgeOf n) (ctNum e.word)) (b.cols.filter (fun c => ss.contains c.1)) } })

/-- A batch into operator `n`. -/
def feed (e : TaskEnv) (n : Nat) (b : Batch) (w : Work) : WorkRes :=
  let blk := e.param n
  let o := e.i.op n
  match opKind o.kindCode with
  | some .compute => forOp n (computeBatch blk o.round (e.trap n) b) (fun b => .ok (e.emit n 0 [b] w))
  | some .catLookup => forOp n (e.dev.lookupBatch e.r.inst blk b) (fun b => .ok (e.emit n 0 [b] w))
  | some .partition => e.stage n b w
  | some .hashBuild =>
    let t := match look w.mem n .idle with
      | .build t => t
      | _ => {}
    forOp n (buildBatch blk t b) (fun t => .ok { w with mem := put w.mem n (.build t) })
  | some .hashProbe => e.probe n b w
  | some .aggregate =>
    let st := match look w.mem n .idle with
      | .groups st => st
      | _ => {}
    forOp n (aggBatch blk o.accScale st b) (fun st => .ok { w with mem := put w.mem n (.groups st) })
  | some .sortRun => e.sortInto n .sortRun b w
  | some .topN => e.sortInto n .topN b w
  | some .writeRows => forOp n (writeRows blk b) (fun bs => .ok (e.write n bs b.rows.length w))
  | some .writeSegments =>
    let first := match look w.mem n .idle with
      | .count j => j
      | _ => 0
    .ok (e.write n (writeSegments blk first b) b.rows.length { w with mem := put w.mem n (.count (first + b.rows.length)) })
  | _ => .ok w

/-- The batches that wait for operator `n`, in order. -/
def serve (e : TaskEnv) (n : Nat) (w : Work) : WorkRes :=
  let mine := w.queue.filter (fun x => x.1 == n)
  mine.foldl (fun acc x => match acc with
    | .ok w => e.feed n x.2.2 w
    | y => y) (.ok { w with queue := w.queue.filter (fun x => x.1 != n) })

/-- A list of operators in turn. -/
def inTurn (ns : List Nat) (f : Nat → Work → WorkRes) (w : Work) : WorkRes :=
  ns.foldl (fun acc n => match acc with
    | .ok w => f n w
    | y => y) (.ok w)

/-- One pass over the group: its operators run in ascending index on what has come (R113). -/
def pass (e : TaskEnv) (w : Work) : WorkRes := inTurn (e.i.group e.template) e.serve w

/-! ### Where rows come from -/

/-- The rows of a staging page, for slots of types `cols` in STAGE_SLOTS order: a poisoned page, a wrong CRC (R205, R212). -/
def pageBatch (e : TaskEnv) (ss : List Nat) (cols : Tbl SlotTy) (pg : ExcPage) : Except Nat Batch :=
  match e.dev.readPA pg.addr 4096, Batch.types { cols := cols } ss, Batch.staged { cols := cols } ss with
  | .ok bs, .ok ts, .ok l =>
    let body := slice bs 64 (pg.rows * pg.stride)
    if crc32c body ≠ le bs 0xC 4 then .error 0x0402
    else .ok { cols := cols, rows := (List.range pg.rows).map (fun k => unstageRow ss ts l (slice body (k * pg.stride) pg.stride)) }
  | .ok _, .error st, _ => .error st
  | .ok _, _, .error st => .error st
  | _, _, _ => .error 0x0401

/-- The staged slots of a STREAM edge, in layout order. -/
def stagedSlots (e : TaskEnv) (rank : Nat) : List Nat := match e.i.streams[rank]? with
  | some x => let b := e.param x.src; slotList b 0x14 (le b 2 1)
  | none => []

/-- The STREAM edges into an operator of the group. -/
def streamsInto (e : TaskEnv) (n : Nat) : List Nat :=
  (List.range e.i.streams.length).filter (fun k => (e.i.streams[k]?.map (fun x => x.dst)) == some n)

/-- The published list that the task reads on a STREAM edge: that of its partition, the single one of a BROADCAST (R210, R211). -/
def list (e : TaskEnv) (rank : Nat) : List ExcPage :=
  e.dev.published e.run rank (if (e.i.edgeMode rank).1 = 3 then 0 else e.logical)

/-- The pages of that list that the task has been granted. Of two edges to one port only the first is granted (log entry 35); the other is read
where it stands. -/
def pages (e : TaskEnv) (rank : Nat) : List ExcPage :=
  let port := ((e.i.streams[rank]?).map (fun x => x.dstPort)).getD 0
  if e.i.streamInto e.template port ≠ some rank then e.list rank
  else match find e.dev.exc.cursor (e.gal * 4 + port) with
    | some (w, k) => if w = e.word then (e.list rank).take k else []
    | none => []

/-- Has the edge come to END for the task (R210)? -/
def ended (e : TaskEnv) (rank : Nat) : Bool :=
  (e.pages rank).length == (e.list rank).length && e.r.producersDone e.i rank && e.dev.allPublished e.run

/-- The types of the staged slots that a task has produced on an edge (R199). -/
def stagedTypes (e : TaskEnv) (rank task : Nat) : Tbl SlotTy := look e.r.typing.streams (tyKey rank task) []

/-- Every page of operator `n`'s STREAM edges to END, each a batch, and the pass that each starts. -/
def fromStreams (e : TaskEnv) (n : Nat) (w : Work) : WorkRes :=
  (e.streamsInto n).foldl (fun acc rank =>
    match (e.pages rank).foldl (fun acc pg => match acc with
      | .error f => .error f
      | .ok w => forOp n (e.pageBatch (e.stagedSlots rank) (e.stagedTypes rank pg.task) pg) (fun b => match e.feed n b w with
        | .ok w => e.pass w
        | x => x)) acc with
    | .error f => .error f
    | .ok w => if e.ended rank then .ok w else .error { status := 0, op := n }) (.ok w)

/-- What a HASH_BUILD knows of its slots where no page has come: the types that any producer has fixed, or that they are open. -/
def openBuild (e : TaskEnv) (n : Nat) : BuildIn :=
  let known := ((e.r.typing.streams.filter (fun x => (e.streamsInto n).contains (x.1 / 2 ^ 21))).map (fun x => x.2)).headD []
  match buildBatch (e.param n) {} { cols := known } with
  | .ok t => t
  | .error _ => { payTys := (List.range (le (e.param n) 1 1)).map (fun k => { ty := Config.unseenTy (16 + k) }) }

/-- The staging pool of the edge into a HASH_BUILD, whose pages its spill chains take (R219). -/
def spillPool (e : TaskEnv) (n : Nat) : Nat :=
  match ((e.streamsInto n).head?).bind (fun rank => e.i.streams[rank]?) with
  | some x => le (e.param x.src) 3 1
  | none => 0

/-- Stride of a row in a spill chain: that of its slots staged (R199); free where a slot has no staged form. -/
def spillStride (cols : List SlotTy) : Nat := match stagedLayout cols with
  | some l => l.2.2
  | none => max 8 (Config.spillStride cols.length)

/-- HASH_BUILD reads its port to END; its table is then complete and has a place, or its rows have spilled (R219, R220). -/
def buildFrom (e : TaskEnv) (n : Nat) (w : Work) : WorkRes :=
  match e.fromStreams n { w with mem := put w.mem n (.build (e.openBuild n)) } with
  | .error f => .error f
  | .ok w => (match look w.mem n .idle with
    | .build t =>
      forOp n (buildDone (e.param n) t) (fun x =>
        let k := x.spillPages (spillStride (t.payTys ++ t.keyTys)) x.hashes
        .ok { w with mem := put w.mem n (.built x), pages := if k = 0 then w.pages else w.pages ++ [(n, e.spillPool n, k)] })
    | _ => .ok w)

/-- A TABLE as operator `n` scans it. -/
def scan (e : TaskEnv) (n : Nat) : Scan :=
  let x := e.i.buffer ((e.i.op n).inBuf.getD 0 0)
  { who := e.who, inst := e.r.inst, segmap := (x.bound e.r.params).1, columns := x.columns, dicts := e.i.dictionaries e.r.params }

/-- The row groups of operator `n`'s TABLE that the task covers: GRAIN of them from GRAIN · i on, or all where the template is not split by
row groups (R120). -/
def covers (e : TaskEnv) (n r : Nat) : Bool :=
  let t := e.i.template e.template
  decide (r < (e.i.buffer ((e.i.op n).inBuf.getD 0 0)).rowGroups) &&
    (t.split != 1 || (decide (t.grain * e.logical ≤ r) && decide (r < t.grain * (e.logical + 1))))

/-- The selection that a GATHER's input port 2 carries: that of the FILTER which feeds it, or every row (R173, R174). -/
def selection (e : TaskEnv) (n : Nat) (w : Work) : Option Selection :=
  match e.i.edges.find? (fun x => x.fan == 0 && x.dst == n && x.dstPort == 2) with
  | none => none
  | some x => (match look w.mem x.src .idle with
    | .chosen s => some s
    | _ => some none)

/-- The AGGREGATEs of the group that sum slot `slot` as operator `n` puts it out: no operator on the way writes it. -/
def summers (e : TaskEnv) (slot : Nat) : Nat → Nat → List Nat
  | 0, _ => []
  | fuel + 1, n =>
    (e.i.edges.filter (fun x => x.fan == 0 && x.src == n && x.srcPort == 0)).flatMap (fun x =>
      let blk := e.param x.dst
      match opKind (e.i.op x.dst).kindCode with
      | some .aggregate => if (AggBlk.funcs blk).any (fun f => f.func == 3 && f.src == slot) then [x.dst] else []
      | some .compute => if (computeSteps blk).any (fun s => s.dst == slot) then [] else e.summers slot fuel x.dst
      | some .catLookup =>
        let outs := [le blk 4 1, le blk 5 1] ++ (List.range (le blk 2 1)).map (fun o => le blk (0x18 + 8 * o) 1)
        if outs.contains slot then [] else e.summers slot fuel x.dst
      | some .hashProbe => if x.dstPort = 1 then e.summers slot fuel x.dst else []
      | _ => [])

/-- The AGGREGATE that fails when a segment header of row group `r` is read: a DEC128 column whose slot it sums above its accumulator scale
(R94). A header counts as read once those before it and it have passed their checks. -/
def sumFault (e : TaskEnv) (n r : Nat) (pair : Option (Nat × Nat)) : Option Nat :=
  let es := GatherBlk.entries (e.param n)
  (List.range es.length).findSome? (fun k => match es[k]? with
    | none => none
    | some x =>
      match ((e.summers x.slot (e.i.group e.template).length n).filter (fun a => decide ((e.i.op a).accScale < x.scale))) with
      | [] => none
      | a :: _ =>
        match (e.scan n).openCols e.dev r pair ((es.take (k + 1)).map (fun (y : GatherEntry) => y.column)) with
        | .error _ => none
        | .ok gs => (match gs[k]? with
          | some g => if g.head.ty = tyDec ∧ (g.head.enc ≠ 2 ∨ x.decode) ∧ g.head.scale ≤ x.scale then some a else none
          | none => none))

/-- A FILTER or GATHER on row group `r`. A FILTER's selection goes to its GATHER; to any other operator it goes as rows without slots. -/
def scanOp (e : TaskEnv) (r n : Nat) (w : Work) : WorkRes :=
  if !e.covers n r then .ok w
  else match opKind (e.i.op n).kindCode with
    | some .filter =>
      forOp n ((e.scan n).filter e.dev (e.param n) r) (fun s =>
        let rows := match s with
          | some x => x.2
          | none => []
        .ok (e.emit n 0 [{ rows := rows.map (fun _ => []) }] { w with mem := put w.mem n (.chosen s) }))
    | some .gather =>
      let seen := match look w.mem n .idle with
        | .types cols => cols
        | _ => []
      let go (sel : Option ((Nat × Nat) × List Nat)) : WorkRes :=
        match e.sumFault n r (sel.map (fun s => s.1)) with
        | some a => .error { status := 0x0201, op := a }
        | none =>
          forOp n ((e.scan n).gather e.dev (e.param n) seen sel r) (fun b => .ok (e.emit n 0 [b] { w with mem := put w.mem n (.types b.cols) }))
      (match e.selection n w with
       | none => go none
       | some none => .ok w
       | some (some s) => go (some s))
    | _ => .ok w

/-- The scan: row group by row group, FILTER and GATHER, then the pass. -/
def scanAll (e : TaskEnv) (w : Work) : WorkRes :=
  let ns := (e.i.group e.template).filter (fun n => [some OpKind.filter, some .gather].contains (opKind (e.i.op n).kindCode))
  let most := ns.foldl (fun m n => max m (e.i.buffer ((e.i.op n).inBuf.getD 0 0)).rowGroups) 0
  (List.range most).foldl (fun acc r => match acc with
    | .error f => .error f
    | .ok w => (match inTurn ns (e.scanOp r) w with
      | .ok w => e.pass w
      | x => x)) (.ok w)

/-! ### The end of input -/

/-- The pages that a group table beyond LOCAL_MAX takes (R228). -/
def tablePages (e : TaskEnv) (n : Nat) (st : AggSt) (w : Work) : Work :=
  let blk := e.param n
  let size := groupTable (partialBytes (AggBlk.funcs blk) st) st.groups.length
  if st.groups.isEmpty ∨ size ≤ AggBlk.localMax blk then w else { w with pages := w.pages ++ [(n, AggBlk.pool blk, ceilDiv size 4096)] }

/-- AGGREGATE and MERGE_AGG put out their groups. -/
def emitGroups (e : TaskEnv) (n : Nat) (st : AggSt) (w : Work) : WorkRes :=
  forOp n (aggRows (e.param n) (e.i.op n).accScale (e.trap n) st) (fun bs => .ok (e.emit n 0 bs w))

/-- The runs that a buffer holds. -/
def runsIn (e : TaskEnv) (n buf : Nat) : Except Nat (Tbl SlotTy × List (List Row)) :=
  let cols := look e.r.typing.runs buf []
  match e.contents buf with
  | .error st => .error st
  | .ok bs =>
    if bs.isEmpty then .ok (cols, [])
    else if !sortKeysOk (e.param n) cols then .error 0x0201
    else (runsOf (e.param n) cols bs).map (fun rs => (cols, rs))

/-- DIGEST (R483, R492): the digest or MAC of the message, or the verdict word of its comparison; an output buffer shorter than that fails. -/
def digestBytes (e : TaskEnv) (n : Nat) : Except Nat Bytes :=
  let blk := e.param n
  let a := (digestAlg (le blk 0 1)).getD .sha256
  let port (k : Nat) : Except Nat Bytes := match e.inBuffer n k with
    | some b => e.contents b
    | none => .ok []
  match port 0, port 1, port 2 with
  | .ok msg, .ok want, .ok key =>
    let h := if bit (le blk 1 1) 1 then a.hmac (key.take (le blk 2 1)) msg else a.hash msg
    let out := if bit (le blk 1 1) 0 then toLE 8 (verdictOf (want.take a.outBytes == h)) else h
    let room := match e.outBuffer n 0 with
      | some b => let x := e.i.buffer b; if x.kind = 3 ∨ x.kind = 2 then x.length else (x.bound e.r.params).2
      | none => 0
    if room < out.length then .error 0x0200 else .ok out
  | .error st, _, _ => .error st
  | _, .error st, _ => .error st
  | _, _, .error st => .error st

/-- Operator `n` once its input is exhausted (R227, R230, R234, R236, R237). -/
def finish (e : TaskEnv) (n : Nat) (w : Work) : WorkRes :=
  let blk := e.param n
  match opKind (e.i.op n).kindCode with
  | some .aggregate =>
    let st := match look w.mem n .idle with
      | .groups st => st
      | _ => {}
    let w := e.tablePages n st w
    let st := { st with groups := withEmptyGroup blk st.groups }
    if !AggBlk.isPartial blk then e.emitGroups n st w
    else
      let w := match e.outBuffer n 0 with
        | some b => if st.srcTys.isEmpty then w else { w with ty := { w.ty with partials := put w.ty.partials b (st.keyTys, st.srcTys) } }
        | none => w
      .ok (e.write n (partialRows blk st) st.groups.length w)
  | some .mergeAgg =>
    (match e.inBuffer n 0 with
     | none => .ok w
     | some buf =>
       let types := look e.r.typing.partials buf ([], [])
       forOp n (e.contents buf) (fun bs =>
         forOp n (mergeAgg blk (e.i.template e.template).grain e.logical { keyTys := types.1, srcTys := types.2 } bs) (fun st => e.emitGroups n st (e.tablePages n st w))))
  | some .sortRun =>
    (match look w.mem n .idle with
     | .rows cols rs => e.outRun n cols (sortRows blk cols rs) w
     | _ => .ok w)
  | some .topN =>
    (match e.inBuffer n 0 with
     | some buf => forOp n (e.runsIn n buf) (fun x => e.outRun n x.1 (topRows blk x.1 x.2.flatten) w)
     | none => (match look w.mem n .idle with
       | .rows cols rs => e.outRun n cols (topRows blk cols rs) w
       | _ => .ok w))
  | some .merge =>
    (match e.inBuffer n 0 with
     | some buf =>
       forOp n (e.runsIn n buf) (fun x =>
         forOp n (mergeTask blk x.1 (e.i.template e.template).grain e.logical x.2) (fun rows => e.outRun n x.1 rows w))
     | none => .ok w)
  | some .hashProbe =>
    (match look w.mem n .idle with
     | .rows cols rs =>
       let t := e.built n w
       let hs := rs.map (probeHash blk cols)
       let k := t.spillPages (spillStride (cols.map (fun c => c.2))) hs
       forOp n (probeCols blk t cols) (fun out =>
         .ok (e.outProbe n out (probeRows blk t cols rs) { w with pages := w.pages ++ [(n, e.spillPool (e.buildOf n), k)] }))
     | _ => .ok w)
  | some .digest => forOp n (e.digestBytes n) (fun bs => .ok (e.write n bs 0 w))
  | _ => .ok w

/-- The work of a task: builds first (R220), then the scan, then the other STREAM inputs, then, operator by operator, the end of input. -/
def work (e : TaskEnv) : WorkRes :=
  let ns := e.i.group e.template
  let builds := ns.filter (fun n => opKind (e.i.op n).kindCode == some .hashBuild)
  let others := ns.filter (fun n => opKind (e.i.op n).kindCode != some .hashBuild)
  match inTurn builds e.buildFrom {} with
  | .error f => .error f
  | .ok w => match e.scanAll w with
    | .error f => .error f
    | .ok w => match inTurn others e.fromStreams w with
      | .error f => .error f
      | .ok w => inTurn ns (fun n w => match e.serve n w with
        | .ok w => e.finish n w
        | x => x) w

end TaskEnv

/-! ### TASKDONE (R26, R117, R131, R143, R239, R330) -/

/-- Does the group of a template run gallery code of its program (R118), whose results no operator rule gives? -/
def Image.customGroup (i : Image) (t : Nat) : Bool := (i.group t).any (fun n => opKind (i.op n).kindCode == some .custom)

/-- The bytes that a task's work wrote to a buffer, in write order (R117). -/
def Work.bytesOf (w : Work) (b : Nat) : Bytes := (w.written.filter (fun x => x.1 == b)).flatMap (fun x => x.2)

/-- Pages that a task's work takes, by pool. -/
def Work.need (w : Work) : Tbl Nat := w.pages.foldl (fun t x => upd t x.2.1 0 (· + x.2.2)) []

/-- The rows that a list of staging pages holds; none where a page cannot be read. -/
def TaskEnv.pageRows (e : TaskEnv) (ss : List Nat) (cols : Tbl SlotTy) (pages : List ExcPage) : Option (List Row) :=
  match Batch.types { cols := cols } ss, Batch.staged { cols := cols } ss with
  | .ok ts, .ok l =>
    (pages.mapM (fun (x : ExcPage) => match e.dev.readPA (x.addr + 64) (x.rows * x.stride) with
      | .ok bs => some ((List.range x.rows).map (fun k => unstageRow ss ts l (slice bs (k * x.stride) x.stride)))
      | _ => none)).map List.flatten
  | _, _ => none

/-- Has the task's firmware staged what its PARTITION routes: the rows of each partition, at their STRIDE (R197, R199, R202)? The bytes of a
page that cannot be read are not compared. -/
def TaskEnv.stagedAll (e : TaskEnv) (w : Work) : Bool :=
  let mine := e.dev.exc.chains.filter (fun (x : ExcPage) => x.gal == e.gal && x.run == e.run && x.task == ctNum e.word && x.attempt == ctAttempt e.word)
  let edge := ((e.i.partition e.template).map (fun x => x.2)).getD 0
  let ss := e.stagedSlots edge
  let cols := look w.ty.streams (TaskEnv.tyKey edge (ctNum e.word)) []
  (w.staged.map (fun x => x.1) ++ mine.map (fun (x : ExcPage) => x.part)).eraseDups.all (fun q =>
    let want := w.staged.filter (fun x => x.1 == q)
    let pages := mine.filter (fun (x : ExcPage) => x.part == q)
    total (pages.map (fun (x : ExcPage) => x.rows)) == want.length && pages.all (fun (x : ExcPage) => want.all (fun y => y.2.1 == x.stride)) &&
      (match e.pageRows ss cols pages with
       | some rows => rows.isPerm (want.map (fun x => x.2.2))
       | none => true))

/-- Types that a task has fixed, with those of its run. -/
def Typing.add (a b : Typing) : Typing :=
  { streams := b.streams.foldl (fun t x => put t x.1 x.2) a.streams
    runs := b.runs.foldl (fun t x => put t x.1 x.2) a.runs
    partials := b.partials.foldl (fun t x => put t x.1 x.2) a.partials }

/-- The task on gallery `p`: its logical gallery, its key, its entry, and what its work depends on. -/
def Dev.taskEnv (d : Dev) (p : Nat) : Option (Nat × Nat × Task × TaskEnv) :=
  match d.logicalOf p with
  | none => none
  | some g =>
    match find d.doc.task g with
    | none => none
    | some (h, key) =>
      match d.run h, d.runImage h with
      | some r, some i =>
        (find r.tasks key).map (fun t =>
          (g, key, t, { dev := d, gal := p, who := d.galleryWho p, word := (d.core p).task, run := h, r := r, i := i, template := t.template,
                        logical := t.logical, rank := Config.probeRank d.fresh }))
      | _, _ => none

/-- How a task ends: its status, the operator that failed, its rows, and what it writes to RESULT buffers. -/
structure TaskEnd where
  status : Nat
  op : Nat := 0
  rows : Nat := 0
  written : List (BitVec 8 × Bytes) := []

/-- A task's results are written and its completion offered. A write without its response holds the TASKDONE back (R26); an error response to
one fails the task. -/
def Dev.endTask (d : Dev) (c : CoreSt) (e : TaskEnv) (g key : Nat) (t : Task) (x : TaskEnd) : Option Dev :=
  let (d, bad) := d.putResults c e.who e.run key e.r x.written
  if d.awaits e.who then none
  else
    let st := if 0x100 ≤ x.status then x.status else bad.getD x.status
    let rec_ := if t.ledger then e.i.checkRecord t.template st x.written else []
    some (d.offer { gal := g, run := e.run, task := key, status := st, rows := x.rows, op := x.op, check := rec_ })

/-- What the work of a task's operators gives it. -/
def TaskEnv.finished (e : TaskEnv) (own : Nat) (w : Work) : TaskEnd :=
  { status := own
    rows := match e.i.results with
      | b :: _ => look w.counted b 0
      | [] => 0
    written := e.i.results.map (fun b => (BitVec.ofNat 8 b, w.bytesOf b)) }

/-- The PARTITION operator of a task's group, by index. -/
def TaskEnv.partitionOp (e : TaskEnv) : Nat := ((e.i.group e.template).find? (fun n => opKind (e.i.op n).kindCode == some .partition)).getD 0

/-- The status that the Exchange has given the task (R201, R203, R208). -/
def TaskEnv.mustFail (e : TaskEnv) : Option Nat := match find e.dev.exc.fail e.gal with
  | some (w, st) => if w = e.word then some st else none
  | none => none

/-- The operator that wants pages which are not free. -/
def TaskEnv.wants (e : TaskEnv) (w : Work) : Nat := ((w.pages.find? (fun x => !e.dev.pagesFree x.2.1 e.r.inst x.2.2)).map (fun x => x.1)).getD e.partitionOp

/-- The TASKDONE write of a gallery reaches the Docent: `v` carries the status. A task that fails of its own, and one of a group with a CUSTOM
operator, ends as its code says; any other as its operators' work says, once its inputs have come to END, what it stages is staged and the pages
that it spills to are there. -/
def Dev.taskDone (d : Dev) (c : CoreSt) (p : Nat) (v : Word) (x : TaskResult) : Dev :=
  match d.taskEnv p with
  | none => d
  | some (g, key, t, e) =>
    let own := fld v 15 0
    if d.completing e.run key then d
    else if 0x100 ≤ own ∨ e.i.customGroup t.template then
      (d.endTask c e g key t { status := if 0x100 ≤ own then own else e.mustFail.getD own, op := x.op.toNat, rows := x.rows, written := x.written }).getD d
    else match e.work, e.mustFail with
      | .error f, some st => (d.endTask c e g key t { status := st, op := if f.status = 0 then e.partitionOp else f.op }).getD d
      | .error f, none => if f.status = 0 then d else (d.endTask c e g key t { status := f.status, op := f.op }).getD d
      | .ok w, some st => (d.endTask c e g key t { status := st, op := e.wants w }).getD d
      | .ok w, none =>
        if !e.stagedAll w then d
        else match d.takeSpill p e.r.inst w.need with
          | none => d.spillWaits p c.time.toNat e.word w.need
          | some s =>
            ((s.updRun e.run (fun r => { r with typing := r.typing.add w.ty })).draw.2.endTask c e g key t (e.finished own w)).getD d

/-- TASKDONE: a core waits at its TASKDONE write, and every earlier write of it has its response. -/
def execTaskdone (p : Fin 136) (v : BitVec 64) (r : TaskResult) (s : State) : Host.Outcome State Fault Refusal :=
  s.onDev (fun c d =>
    let k := d.core p.val
    if k.st == .done && k.doneWrite == some v && !d.writesOut p.val then d.taskDone c p.val v r else d)

end Sys2Proof.Machine
end

