-- ==== Sys2Proof/Machine/Vectors.lean ====
section
/-!
DEFINITION. The short- and long-vector units (spec/12_vector_units.md): lengths and masks, partial completion with VSTART, every
class of vector instruction, and the power gating of the long-vector datapath.
-/

namespace Sys2Proof.Machine

/-! ### Elements -/

/-- Element width in bits of an SEW code (R337). -/
def sewBits (sew : Nat) : Nat := 8 <<< sew

/-- Vector register `r` as a number, and element `i` of a register of `w`-bit elements. -/
def Gallery.vreg (k : Gallery) (r : Nat) : Nat := (look k.v r 0).toNat
def elem (w v i : Nat) : Nat := bits v (w * i + w - 1) (w * i)

/-- A register with element `i` replaced. -/
def setElem (w v i x : Nat) : Nat := setBits v (w * i + w - 1) (w * i) x

/-- Set a vector register. -/
def Gallery.setV (k : Gallery) (r v : Nat) : Gallery := { k with v := put k.v r (BitVec.ofNat 8192 v) }

/-- Short-vector registers. -/
def Gallery.sreg (k : Gallery) (r : Nat) : Nat := (look k.sv r 0).toNat
def Gallery.setS (k : Gallery) (r v : Nat) : Gallery := { k with sv := put k.sv r (BitVec.ofNat 256 v) }

/-- Elements below VL that the register holds, from VSTART on, active under the mask (R338). -/
def Gallery.active (k : Gallery) (vm : Bool) : List Nat :=
  (List.range (min k.vl (vlMax k.vtype))).filter (fun i => decide (k.vstart ≤ i) && (!vm || bit (k.vreg 0) i))

/-- Run a body over elements in order, up to the first that meets a cause. -/
def overElems {σ : Type} (f : Nat → σ → Except (σ × Exc) σ) : List Nat → σ → σ × Option (Nat × Exc)
  | [], s => (s, none)
  | i :: is, s =>
    match f i s with
    | .ok s => overElems f is s
    | .error (s, e) => (s, some (i, e))

/-- An exception that a vector instruction raises (ECAUSE.VECTOR). -/
def Exc.vec (e : Exc) : Exc := { e with vector := true }

/-- The exception ILLEGAL of a vector word. -/
def Dev.vecIllegal (d : Dev) (c : CoreSt) (p : Nat) : Exc := (d.illegal c p).vec

/-! ### The frame of a long-vector instruction (R338, R349, R350, R355) -/

/-- Start a wake of the datapath (R355); `stall` when an instruction waits for it. -/
def Dev.startWake (d : Dev) (p : Nat) (stall : Bool) : Dev :=
  let k := d.core p
  match k.lvu with
  | .on => d
  | .waking => d.setCore p { k with stalled := k.stalled || stall }
  | .off => (d.setCore p { k with lvu := .waking, stalled := stall }).count (R.galVcntWake p)

/-- One long-vector instruction: ILLEGAL where its width is wrong, or where one that is not restartable starts with VSTART; a stall
while the datapath is off; nothing at VL = 0; only VSTART cleared from VL on; else its body over the elements, with the restart point
where it met a cause. `width` is the widest operand or destination in bits. -/
def longVec (c : CoreSt) (p : Nat) (legal : Gallery → Bool) (restart : Bool) (width : Gallery → Nat)
    (body : Gallery → Dev → Dev × Option (Nat × Exc)) (k : Gallery) (d : Dev) : IRes :=
  if !legal k || (!restart && k.vstart != 0) then .exc (d.vecIllegal c p) d
  else if k.lvu ≠ .on then .jump (d.startWake p true)
  else
    let done (d : Dev) : IRes := .done ((d.count (R.galVcntLinst p)).count (R.galVcntBytes p) (k.vl * width k / 8))
    if k.vl = 0 then done d
    else if restart && decide (k.vl ≤ k.vstart) then done (d.setCore p { k with vstart := 0 })
    else match body k d with
      | (d, none) => done (d.setCore p { d.core p with vstart := 0 })
      | (d, some (i, e)) =>
        if restart then .exc e.vec ((d.setCore p { d.core p with vstart := i }).count (R.galVcntPartial p))
        else .exc e.vec d

/-- The body of an instruction that computes register `vd` element by element from the state before it. -/
def elemBody (p vd : Nat) (vm : Bool) (w : Nat) (f : Gallery → Nat → Nat → Except Exc Nat) (k : Gallery) (d : Dev) :
    Dev × Option (Nat × Exc) :=
  let step (i : Nat) (v : Nat) : Except (Nat × Exc) Nat :=
    match f k (elem w v i) i with
    | .ok x => .ok (setElem w v i x)
    | .error e => .error (v, e)
  let (v, r) := overElems step (k.active vm) (k.vreg vd)
  (d.setCore p (k.setV vd v), r)

/-- An element-wise long-vector instruction of destination width VTYPE.SEW. -/
def elemInstr (c : CoreSt) (p vd : Nat) (vm : Bool) (legal : Gallery → Bool) (f : Gallery → Nat → Nat → Except Exc Nat) :
    Gallery → Dev → IRes :=
  longVec c p legal true (fun k => sewBits k.vtype) (fun k d => elemBody p vd vm (sewBits k.vtype) f k d)

/-! ### Class 0x50 (R337, R341, R355) -/

/-- An instruction on retained state only. -/
def retained (p : Nat) (f : Gallery → Except Exc Gallery) (k : Gallery) (d : Dev) : IRes :=
  match f k with
  | .ok k => .done ((d.setCore p k).count (R.galVcntLinst p))
  | .error e => .exc e d

/-- SETVL (R337): codes 6 and 7 raise ILLEGAL. -/
def execSetvl (p : Fin 136) (gd ga : BitVec 5) (sew : BitVec 3) (s : State) : Host.Outcome State Fault Refusal :=
  s.onDev (fun c dv => dv.instr c p.val (fun k dv =>
    if 6 ≤ sew.toNat then .exc (dv.vecIllegal c p.val) dv
    else
      let n := min (k.getG ga.toNat).toNat (vlMax sew.toNat)
      retained p.val (fun k =>
        .ok { k.setG gd.toNat (BitVec.ofNat 64 n) with vtype := sew.toNat, vl := n, vstart := 0 }) k dv))

/-- VSETSC (R341): VSCALE's defined bits from g[A]. -/
def execVsetsc (p : Fin 136) (gs : BitVec 5) (s : State) : Host.Outcome State Fault Refusal :=
  s.onDev (fun c dv => dv.instr c p.val (retained p.val (fun k =>
    .ok ((k.ccrWrite 0x203 (BitVec.ofNat 64 (fld (k.getG gs.toNat) 25 0))).getD k))))

/-- VRDSTATE (R341). -/
def execVrdstate (p : Fin 136) (gd : BitVec 5) (n : BitVec 2) (s : State) : Host.Outcome State Fault Refusal :=
  s.onDev (fun c dv => dv.instr c p.val (retained p.val (fun k =>
    let v : Word := match n.toNat with
      | 0 => BitVec.ofNat 64 k.vl
      | 1 => BitVec.ofNat 64 k.vtype
      | 2 => BitVec.ofNat 64 k.vstart
      | _ => k.vscale
    .ok (k.setG gd.toNat v))))

/-- VWAKE (R355). -/
def execVwake (p : Fin 136) (s : State) : Host.Outcome State Fault Refusal :=
  s.onDev (fun c dv => dv.instr c p.val (fun _ dv => .done ((dv.startWake p.val false).count (R.galVcntLinst p.val))))

/-! ### Integer elements (R342) -/

/-- The value of a `w`-bit element, unsigned or signed. -/
def elemVal (u : Bool) (w x : Nat) : Int := if u then (x % 2 ^ w : Nat) else toSigned w x

/-- An exact result in a `w`-bit destination: wrapped, or ARITH_OVERFLOW under TRAP. -/
def elemResult (trap u : Bool) (w : Nat) (r : Int) : Except Exc Nat :=
  let out := if u then decide (r < 0) || decide (2 ^ w ≤ r) else decide (r < -(2 ^ (w - 1))) || decide (2 ^ (w - 1) ≤ r)
  if trap && out then .error overflowExc else .ok (ofSigned w r)

/-- One element of an integer operation; `sel` is its bit of v0. A shift takes its count modulo the width (log entry 21). -/
def vecOp (op : VecOp) (trap u : Bool) (w a b : Nat) (sel : Bool) : Except Exc Nat :=
  let x := elemVal u w a
  let y := elemVal u w b
  let n := b % w
  match op with
  | .add => elemResult trap u w (x + y)
  | .sub => elemResult trap u w (x - y)
  | .mul => elemResult trap u w (x * y)
  | .sll => elemResult trap u w (x * 2 ^ n)
  | .and => .ok (a &&& b)
  | .or => .ok (a ||| b)
  | .xor => .ok (a ^^^ b)
  | .srl => .ok (a >>> n)
  | .sra => .ok (ofSigned w (toSigned w a / 2 ^ n))
  | .min => .ok (if x ≤ y then a else b)
  | .max => .ok (if x ≤ y then b else a)
  | .select => .ok (if sel then a else b)

/-- VECTOR_ALU: SEW 8 to 128. -/
def execVectorAlu (p : Fin 136) (op : VecOp) (trap u : Bool) (vd va vb : BitVec 5) (vm : Bool) (s : State) :
    Host.Outcome State Fault Refusal :=
  s.onDev (fun c dv => dv.instr c p.val (elemInstr c p.val vd.toNat vm (fun k => decide (k.vtype ≤ 4)) (fun k _ i =>
    let w := sewBits k.vtype
    vecOp op trap u w (elem w (k.vreg va.toNat) i) (elem w (k.vreg vb.toNat) i) (bit (k.vreg 0) i))))

/-- VECTOR_WIDEN_MULTIPLY: the exact double-width product; SEW names the destination. -/
def execVectorWidenMultiply (p : Fin 136) (src : BitVec 2) (u : Bool) (vd va vb : BitVec 5) (vm : Bool) (s : State) :
    Host.Outcome State Fault Refusal :=
  s.onDev (fun c dv => dv.instr c p.val (elemInstr c p.val vd.toNat vm (fun k => k.vtype == src.toNat + 1) (fun k _ i =>
    let w := sewBits src.toNat
    .ok (ofSigned (2 * w) (elemVal u w (elem w (k.vreg va.toNat) i) * elemVal u w (elem w (k.vreg vb.toNat) i))))))

/-- A dot product: `n` products of `w`-bit elements, exact, added to a destination element of code `sew`; only the final addition is
checked. -/
def dotInstr (c : CoreSt) (p n w sew : Nat) (trap u : Bool) (vd va vb : Nat) (vm : Bool) : Gallery → Dev → IRes :=
  elemInstr c p vd vm (fun k => k.vtype == sew) (fun k old i =>
    let prod (j : Nat) : Int :=
      elemVal u w (elem w (k.vreg va) (n * i + j)) * elemVal u w (elem w (k.vreg vb) (n * i + j))
    let sum : Int := (List.range n).foldl (fun acc j => acc + prod j) 0
    elemResult trap u (sewBits sew) (elemVal u (sewBits sew) old + sum))

/-- VDOT4B. -/
def execVdot4b (p : Fin 136) (trap u : Bool) (vd va vb : BitVec 5) (vm : Bool) (s : State) : Host.Outcome State Fault Refusal :=
  s.onDev (fun c dv => dv.instr c p.val (dotInstr c p.val 4 8 2 trap u vd.toNat va.toNat vb.toNat vm))

/-- VDOT2H. -/
def execVdot2h (p : Fin 136) (trap u : Bool) (vd va vb : BitVec 5) (vm : Bool) (s : State) : Host.Outcome State Fault Refusal :=
  s.onDev (fun c dv => dv.instr c p.val (dotInstr c p.val 2 16 3 trap u vd.toNat va.toNat vb.toNat vm))

/-- VDOT2W. -/
def execVdot2w (p : Fin 136) (trap u : Bool) (vd va vb : BitVec 5) (vm : Bool) (s : State) : Host.Outcome State Fault Refusal :=
  s.onDev (fun c dv => dv.instr c p.val (dotInstr c p.val 2 32 4 trap u vd.toNat va.toNat vb.toNat vm))

/-! ### Masks, reductions and movement across elements (R343) -/

/-- A comparison of two values. -/
def cmpHolds (op : CmpOp) (x y : Int) : Bool :=
  match op with
  | .eq => decide (x = y)
  | .ne => decide (x ≠ y)
  | .lt => decide (x < y)
  | .le => decide (x ≤ y)
  | .gt => decide (y < x)
  | .ge => decide (y ≤ x)

/-- Logic on two mask bits. -/
def logicBit (op : LogicOp) (a b : Bool) : Bool :=
  match op with
  | .and => a && b
  | .or => a || b
  | .xor => a != b
  | .andn => a && !b

/-- The body of an instruction that writes mask bits of `vd`. -/
def maskBody (p vd : Nat) (vm : Bool) (f : Gallery → Nat → Except Exc Bool) (k : Gallery) (d : Dev) : Dev × Option (Nat × Exc) :=
  elemBody p vd vm 1 (fun k _ i => (f k i).map b2n) k d

/-- VECTOR_COMPARE. -/
def execVectorCompare (p : Fin 136) (op : MaskOp) (vd va vb : BitVec 5) (vm : Bool) (s : State) : Host.Outcome State Fault Refusal :=
  s.onDev (fun c dv => dv.instr c p.val (longVec c p.val (fun _ => true) true (fun k => sewBits k.vtype) (maskBody p.val vd.toNat vm (fun k i =>
    match op with
    | .cmp o u =>
      let w := sewBits k.vtype
      .ok (cmpHolds o (elemVal u w (elem w (k.vreg va.toNat) i)) (elemVal u w (elem w (k.vreg vb.toNat) i)))
    | .logic o => .ok (logicBit o (bit (k.vreg va.toNat) i) (bit (k.vreg vb.toNat) i))))))

/-- One step of a reduction. -/
def redStep (op : RedOp) (trap u : Bool) (w : Nat) (a b : Nat) : Except Exc Nat :=
  match op with
  | .add => vecOp .add trap u w a b false
  | .min => vecOp .min trap u w a b false
  | .max => vecOp .max trap u w a b false

/-- A reduction of a list of elements in order; none of an empty list. -/
def reduce (f : Nat → Nat → Except Exc Nat) : List Nat → Except Exc (Option Nat)
  | [] => .ok none
  | x :: xs => xs.foldl (fun acc y => match acc with
      | .ok (some a) => (f a y).map some
      | r => r) (.ok (some x))

/-- An instruction that is not restartable: its whole effect on the core, or the cause that leaves no effect. -/
def wholeInstr (c : CoreSt) (p : Nat) (legal : Gallery → Bool) (f : Gallery → Dev → Except Exc Dev) : Gallery → Dev → IRes :=
  longVec c p legal false (fun k => sewBits k.vtype) (fun k d =>
    match f k d with
    | .ok d => (d, none)
    | .error e => (d, some (0, e)))

/-- VECTOR_REDUCTION: over the active elements below VL in ascending order, into element 0. The spec states no result where none is
active: a free value (log entry 1). -/
def execVectorReduction (p : Fin 136) (op : RedOp) (trap u : Bool) (vd va : BitVec 5) (vm : Bool) (s : State) :
    Host.Outcome State Fault Refusal :=
  s.onDev (fun c dv => dv.instr c p.val (wholeInstr c p.val (fun _ => true) (fun k d =>
    let w := sewBits k.vtype
    match reduce (redStep op trap u w) ((k.active vm).map (elem w (k.vreg va.toNat))) with
    | .error e => .error e
    | .ok (some r) => .ok (d.setCore p.val (k.setV vd.toNat (setElem w (k.vreg vd.toNat) 0 r)))
    | .ok none =>
      let (v, d) := d.draw
      .ok (d.setCore p.val (k.setV vd.toNat (setElem w (k.vreg vd.toNat) 0 v.toNat))))))

/-- VCPOP: the number of active elements below VL; at VL 0 nothing changes (R338). -/
def execVcpop (p : Fin 136) (gd : BitVec 5) (vm : Bool) (s : State) : Host.Outcome State Fault Refusal :=
  s.onDev (fun c dv => dv.instr c p.val (wholeInstr c p.val (fun _ => true) (fun k d =>
    .ok (d.setCore p.val (k.setG gd.toNat (BitVec.ofNat 64 (k.active vm).length))))))

/-- Put values into the elements of a register that a list names, one each. -/
def putElems (w v : Nat) (ps : List (Nat × Nat)) : Nat := ps.foldl (fun v e => setElem w v e.1 e.2) v

/-- VCOMPRESS. -/
def execVcompress (p : Fin 136) (vd va : BitVec 5) (vm : Bool) (s : State) : Host.Outcome State Fault Refusal :=
  s.onDev (fun c dv => dv.instr c p.val (wholeInstr c p.val (fun _ => true) (fun k d =>
    let w := sewBits k.vtype
    let xs := (k.active vm).map (elem w (k.vreg va.toNat))
    .ok (d.setCore p.val (k.setV vd.toNat (putElems w (k.vreg vd.toNat) ((List.range xs.length).zip xs)))))))

/-- VEXPAND. -/
def execVexpand (p : Fin 136) (vd va : BitVec 5) (vm : Bool) (s : State) : Host.Outcome State Fault Refusal :=
  s.onDev (fun c dv => dv.instr c p.val (wholeInstr c p.val (fun _ => true) (fun k d =>
    let w := sewBits k.vtype
    let is := k.active vm
    let xs := (List.range is.length).map (elem w (k.vreg va.toNat))
    .ok (d.setCore p.val (k.setV vd.toNat (putElems w (k.vreg vd.toNat) (is.zip xs)))))))

/-- VECTOR_PERMUTE: a slide by g[B] elements, or vd[i] := va[vb[i]]. The spec states no value where the source lies outside the
register: a free value (log entry 1); a slide up leaves the elements below its count. -/
def execVectorPermute (p : Fin 136) (op : PermOp) (vd va vb : BitVec 5) (vm : Bool) (s : State) : Host.Outcome State Fault Refusal :=
  s.onDev (fun c dv => dv.instr c p.val (wholeInstr c p.val (fun _ => true) (fun k d =>
    let w := sewBits k.vtype
    let n := (k.getG vb.toNat).toNat
    let src (i : Nat) : Option Nat := match op with
      | .slideUp => if n ≤ i then some (i - n) else none
      | .slideDown => some (i + n)
      | .permute => some (elem w (k.vreg vb.toNat) i)
    let one (acc : List (Nat × Nat) × Dev) (i : Nat) : List (Nat × Nat) × Dev :=
      match src i with
      | none => acc
      | some j =>
        if j < vlMax k.vtype then (acc.1 ++ [(i, elem w (k.vreg va.toNat) j)], acc.2)
        else
          let (v, d) := acc.2.draw
          (acc.1 ++ [(i, v.toNat)], d)
    let (ps, d) := (k.active vm).foldl one ([], d)
    .ok (d.setCore p.val (k.setV vd.toNat (putElems w (k.vreg vd.toNat) ps))))))

/-- Exchange elements `i` and `j` of a register. -/
def swapElems (w v i j : Nat) : Nat := putElems w v [(i, elem w v j), (j, elem w v i)]

/-- VCX: one compare-exchange stage; a J above 9, a K outside 1 to 10 and VM set raise ILLEGAL. -/
def execVcx (p : Fin 136) (vd vb : BitVec 5) (j k : BitVec 4) (u vm : Bool) (s : State) : Host.Outcome State Fault Refusal :=
  s.onDev (fun c dv => dv.instr c p.val (wholeInstr c p.val
    (fun _ => !vm && decide (j.toNat ≤ 9) && decide (1 ≤ k.toNat) && decide (k.toNat ≤ 10)) (fun g d =>
    let w := sewBits g.vtype
    let one (acc : Nat × Nat) (i : Nat) : Nat × Nat :=
      let i2 := i + 2 ^ j.toNat
      if bit i j.toNat || decide (min g.vl (vlMax g.vtype) ≤ i2) then acc
      else
        let x := elemVal u w (elem w acc.1 i)
        let y := elemVal u w (elem w acc.1 i2)
        if (if bit i k.toNat then decide (x < y) else decide (y < x)) then (swapElems w acc.1 i i2, swapElems w acc.2 i i2) else acc
    let r := (g.active false).foldl one (g.vreg vd.toNat, g.vreg vb.toNat)
    let g1 := if vb.toNat = 0 then g else g.setV vb.toNat r.2
    .ok (d.setCore p.val (g1.setV vd.toNat r.1)))))

/-! ### Hash steps (R344) -/

/-- A CRC-32C update of a 32-bit register over the low `n` bytes of a value. -/
def crcStep (n r v : Nat) : Nat := (toLE n v).foldl crc32cByte (r % 2 ^ 32)

/-- The multiplier of KEYHASH. -/
def hashMul (v : Nat) : Nat := v * 0x9E3779B97F4A7C15 % 2 ^ 64

/-- VHCRC. -/
def execVhcrc (p : Fin 136) (n : BitVec 2) (vd va : BitVec 5) (vm : Bool) (s : State) : Host.Outcome State Fault Refusal :=
  s.onDev (fun c dv => dv.instr c p.val (elemInstr c p.val vd.toNat vm (fun k => k.vtype == 3) (fun k old i =>
    .ok (crcStep (2 ^ n.toNat) old (elem 64 (k.vreg va.toNat) i)))))

/-- VHMUL. -/
def execVhmul (p : Fin 136) (vd va : BitVec 5) (vm : Bool) (s : State) : Host.Outcome State Fault Refusal :=
  s.onDev (fun c dv => dv.instr c p.val (elemInstr c p.val vd.toNat vm (fun k => k.vtype == 3) (fun k _ i =>
    .ok (hashMul (elem 64 (k.vreg va.toNat) i)))))

/-! ### Moves -/

/-- A 64-bit value as an element of `w` bits, zero- or sign-extended where the element is wider. -/
def widenG (zx : Bool) (w : Nat) (v : Word) : Nat := if zx then v.toNat % 2 ^ w else ofSigned w v.toInt

/-- VECTOR_MOVE (log entry 30 names the forms): every form writes active elements only (R338); a move between a v and an s register has
the 256 / SEW elements of the s register, one to a g register element 0. -/
def execVectorMove (p : Fin 136) (op : VMove) (d a : BitVec 5) (vm : Bool) (s : State) : Host.Outcome State Fault Refusal :=
  s.onDev (fun c dv => dv.instr c p.val (wholeInstr c p.val (fun _ => true) (fun k dv =>
    let w := sewBits k.vtype
    let fill (f : Nat → Nat) : Gallery :=
      k.setV d.toNat (putElems w (k.vreg d.toNat) ((k.active vm).map (fun i => (i, f i))))
    let first := elem w (k.vreg a.toNat) 0
    let short := (k.active vm).filter (fun i => decide (i < 256 / w))
    .ok (dv.setCore p.val (match op with
      | .copy => fill (elem w (k.vreg a.toNat))
      | .bcastG zx => fill (fun _ => widenG zx w (k.getG a.toNat))
      | .bcastV => fill (fun _ => first)
      | .toG zx =>
        if (k.active vm).contains 0 then
          k.setG d.toNat (if zx then BitVec.ofNat 64 first else BitVec.ofInt 64 (toSigned w first))
        else k
      | .toS => k.setS (d.toNat % 16) (putElems w (k.sreg (d.toNat % 16)) (short.map (fun i => (i, elem w (k.vreg a.toNat) i))))
      | .fromS => k.setV d.toNat (putElems w (k.vreg d.toNat) (short.map (fun i => (i, elem w (k.sreg (a.toNat % 16)) i)))))))))

/-! ### DEC128 (R345) -/

/-- Fields of VSCALE. -/
def Gallery.rm (k : Gallery) : Nat := fld k.vscale 25 24
def Gallery.st_ (k : Gallery) : Nat := fld k.vscale 21 16
def Gallery.sb (k : Gallery) : Nat := fld k.vscale 13 8
def Gallery.sa (k : Gallery) : Nat := fld k.vscale 5 0

/-- A DEC128 instruction may run: SEW 4, RM assigned, and the scales it uses at most 38. -/
def Gallery.decLegal (k : Gallery) (a b t : Bool) : Bool :=
  k.vtype == 4 && k.rm != 3 && (!a || decide (k.sa ≤ 38)) && (!b || decide (k.sb ≤ 38)) && (!t || decide (k.st_ ≤ 38))

/-- A DEC128 result as an element, or ARITH_OVERFLOW. -/
def decElem : Option Int → Except Exc Nat
  | some c => .ok (ofSigned 128 c)
  | none => .error overflowExc

/-- Coefficient `i` of register `r`. -/
def Gallery.dec (k : Gallery) (r i : Nat) : Int := toSigned 128 (elem 128 (k.vreg r) i)

/-- A DEC128 instruction on two sources. -/
def decInstr (c : CoreSt) (p vd va vb : Nat) (vm : Bool) (f : Gallery → Int → Int → Option Int) : Gallery → Dev → IRes :=
  elemInstr c p vd vm (fun k => k.decLegal true true true) (fun k _ i =>
    let a := k.dec va i
    let b := k.dec vb i
    if decOperands a b then decElem (f k a b) else .error overflowExc)

/-- VDADD. -/
def execVdadd (p : Fin 136) (vd va vb : BitVec 5) (vm : Bool) (s : State) : Host.Outcome State Fault Refusal :=
  s.onDev (fun c dv => dv.instr c p.val (decInstr c p.val vd.toNat va.toNat vb.toNat vm (fun k => decAdd k.rm k.sa k.sb k.st_ false)))

/-- VDSUB. -/
def execVdsub (p : Fin 136) (vd va vb : BitVec 5) (vm : Bool) (s : State) : Host.Outcome State Fault Refusal :=
  s.onDev (fun c dv => dv.instr c p.val (decInstr c p.val vd.toNat va.toNat vb.toNat vm (fun k => decAdd k.rm k.sa k.sb k.st_ true)))

/-- VDMUL. -/
def execVdmul (p : Fin 136) (vd va vb : BitVec 5) (vm : Bool) (s : State) : Host.Outcome State Fault Refusal :=
  s.onDev (fun c dv => dv.instr c p.val (decInstr c p.val vd.toNat va.toNat vb.toNat vm (fun k => decMul k.rm k.sa k.sb k.st_)))

/-- VDDIV. -/
def execVddiv (p : Fin 136) (vd va vb : BitVec 5) (vm : Bool) (s : State) : Host.Outcome State Fault Refusal :=
  s.onDev (fun c dv => dv.instr c p.val (decInstr c p.val vd.toNat va.toNat vb.toNat vm (fun k => decDiv k.rm k.sa k.sb k.st_)))

/-- VDMIN. -/
def execVdmin (p : Fin 136) (vd va vb : BitVec 5) (vm : Bool) (s : State) : Host.Outcome State Fault Refusal :=
  s.onDev (fun c dv => dv.instr c p.val (decInstr c p.val vd.toNat va.toNat vb.toNat vm (fun k => decPick k.rm k.sa k.sb k.st_ false)))

/-- VDMAX. -/
def execVdmax (p : Fin 136) (vd va vb : BitVec 5) (vm : Bool) (s : State) : Host.Outcome State Fault Refusal :=
  s.onDev (fun c dv => dv.instr c p.val (decInstr c p.val vd.toNat va.toNat vb.toNat vm (fun k => decPick k.rm k.sa k.sb k.st_ true)))

/-- VDRESCALE: va from SA to ST. -/
def execVdrescale (p : Fin 136) (vd va : BitVec 5) (vm : Bool) (s : State) : Host.Outcome State Fault Refusal :=
  s.onDev (fun c dv => dv.instr c p.val (elemInstr c p.val vd.toNat vm (fun k => k.decLegal true false true) (fun k _ i =>
    let a := k.dec va.toNat i
    if decOk a then decElem (decResult (rescaleRaw k.rm k.sa k.st_ a)) else .error overflowExc)))

/-- VDFROMI: an INT128 element to ST. -/
def execVdfromi (p : Fin 136) (vd va : BitVec 5) (vm : Bool) (s : State) : Host.Outcome State Fault Refusal :=
  s.onDev (fun c dv => dv.instr c p.val (elemInstr c p.val vd.toNat vm (fun k => k.decLegal false false true) (fun k _ i =>
    decElem (decResult (rescaleRaw k.rm 0 k.st_ (k.dec va.toNat i))))))

/-- VDCMP: a mask, of the values compared exactly across scales. -/
def execVdcmp (p : Fin 136) (op : CmpOp) (vd va vb : BitVec 5) (vm : Bool) (s : State) : Host.Outcome State Fault Refusal :=
  s.onDev (fun c dv => dv.instr c p.val (longVec c p.val (fun k => k.decLegal true true false) true (fun _ => 128)
    (maskBody p.val vd.toNat vm (fun k i =>
      let a := k.dec va.toNat i
      let b := k.dec vb.toNat i
      if !decOperands a b then .error overflowExc
      else match alignTwo a b k.sa k.sb with
        | some (x, y) => .ok (cmpHolds op x y)
        | none => .error overflowExc))))

/-! ### Ledger lanes (R346) -/

/-- Lane `i` of register `r`. -/
def Gallery.lane (k : Gallery) (r i : Nat) : Int := toSigned 256 (elem 256 (k.vreg r) i)

/-- A lane result as an element, or ARITH_OVERFLOW. -/
def laneElem : Option Int → Except Exc Nat
  | some c => .ok (ofSigned 256 c)
  | none => .error overflowExc

/-- VLACC: the DEC128 addend aligned from SA to ST. R345 states the check of an operand outside R72 for the DEC128 instructions and R346
none for a lane's addend: DESIGN CHOICE, the coefficient is added as it stands (log entry 127). -/
def execVlacc (p : Fin 136) (vd va : BitVec 5) (vm : Bool) (s : State) : Host.Outcome State Fault Refusal :=
  s.onDev (fun c dv => dv.instr c p.val (elemInstr c p.val vd.toNat vm
    (fun k => k.vtype == 5 && decide (k.vl ≤ 32) && decide (k.sa ≤ k.st_) && decide (k.st_ ≤ 38)) (fun k old i =>
      laneElem ((alignUp (k.dec va.toNat i) (k.st_ - k.sa)).bind (laneAdd (toSigned 256 old))))))

/-- VLACCI: the INT128 addend aligned from scale 0 to ST. -/
def execVlacci (p : Fin 136) (vd va : BitVec 5) (vm : Bool) (s : State) : Host.Outcome State Fault Refusal :=
  s.onDev (fun c dv => dv.instr c p.val (elemInstr c p.val vd.toNat vm
    (fun k => k.vtype == 5 && decide (k.vl ≤ 32) && decide (k.st_ ≤ 38)) (fun k old i =>
      laneElem ((alignUp (k.dec va.toNat i) k.st_).bind (laneAdd (toSigned 256 old))))))

/-- VLADD. -/
def execVladd (p : Fin 136) (vd va vb : BitVec 5) (vm : Bool) (s : State) : Host.Outcome State Fault Refusal :=
  s.onDev (fun c dv => dv.instr c p.val (elemInstr c p.val vd.toNat vm (fun k => k.vtype == 5 && decide (k.vl ≤ 32)) (fun k _ i =>
    laneElem (laneAdd (k.lane va.toNat i) (k.lane vb.toNat i)))))

/-- VLNARROW: at SEW 4, lane i narrowed to DEC128. -/
def execVlnarrow (p : Fin 136) (vd va : BitVec 5) (vm : Bool) (s : State) : Host.Outcome State Fault Refusal :=
  s.onDev (fun c dv => dv.instr c p.val (longVec c p.val (fun k => k.vtype == 4 && decide (k.vl ≤ 32)) true (fun _ => 256)
    (elemBody p.val vd.toNat vm 128 (fun k _ i => decElem (laneNarrow (k.lane va.toNat i))))))

/-- VLRED: the sum of lanes 0 to VL - 1 in ascending order, into lane 0. -/
def execVlred (p : Fin 136) (vd va : BitVec 5) (vm : Bool) (s : State) : Host.Outcome State Fault Refusal :=
  s.onDev (fun c dv => dv.instr c p.val (wholeInstr c p.val (fun k => k.vtype == 5 && decide (k.vl ≤ 32)) (fun k d =>
    let sum : Option Int := (k.active vm).foldl (fun acc i => acc.bind (fun x => laneAdd x (k.lane va.toNat i))) (some 0)
    match sum with
    | some x => .ok (d.setCore p.val (k.setV vd.toNat (setElem 256 (k.vreg vd.toNat) 0 (ofSigned 256 x))))
    | none => .error overflowExc)))

/-! ### Memory (R347, R348) -/

/-- The offset of element `i`: unit-stride, or indexed by a vector of UINT32 or UINT64. -/
def unitOffset (k : Gallery) (gb shift w i : Nat) : Nat := (k.getG gb).toNat * 2 ^ shift + i * (w / 8)
def indexOffset (k : Gallery) (vb shift : Nat) (wide : Bool) (i : Nat) : Nat :=
  elem (if wide then 64 else 32) (k.vreg vb) i * 2 ^ shift

/-- The check of one element: R306 with n = w, a 32-byte element needing 16-byte alignment. -/
def elemCheck (x : Cap) (reg need o n : Nat) : Option Exc := capCheck x reg need o n (min n 16)

/-- A vector load: element by element, with the loaded bytes in VD in index order. -/
def vecLoad (c : CoreSt) (p reg vd : Nat) (vm gather : Bool) (legal : Gallery → Bool) (off : Gallery → Nat → Nat) : Gallery → Dev → IRes :=
  longVec c p legal true (fun k => sewBits k.vtype) (fun k d =>
    let w := sewBits k.vtype
    let n := w / 8
    let x := k.getC reg
    let step (i : Nat) (s : Dev × Nat) : Except ((Dev × Nat) × Exc) (Dev × Nat) :=
      let o := off k i
      match elemCheck x reg (2 ^ Perm.load) o n with
      | some e => .error (s, e)
      | none =>
        match s.1.coreLoad c p x reg (x.base + o) n with
        | (d, .error e) => .error ((d, s.2), e)
        | (d, .ok bs) => .ok (if gather then d.count (R.galVcntGselem p) else d, setElem w s.2 i (ofLE bs))
    let (s, r) := overElems step (k.active vm) (d, k.vreg vd)
    (s.1.setCore p ((s.1.core p).setV vd s.2), r))

/-- One element of a vector store to spaces 0, 1 and 3. -/
def storeElem (c : CoreSt) (p reg : Nat) (x : Cap) (o : Nat) (bs : Bytes) (d : Dev) : Except (Dev × Exc) Dev :=
  let a := x.base + o
  match x.space with
  | 0 =>
    if a + bs.length ≤ Config.localBytes then .ok (d.localWrite p a bs)
    else .error (d, { cause := Cause.busError, eaddr := a, capreg := reg })
  | 1 =>
    match d.coreStoreInst c p x reg a bs with
    | (d, some e) => .error (d, e)
    | (d, none) => .ok d
  | 2 =>
    match d.portWrite c p a false bs with
    | (d, .err r) => .ok (d.postError p a (busCode r))
    | (d, _) => .ok d
  | _ => .ok (d.postError p a 0)

/-- The parts of `bs` at address `a` that lie in one 64-byte span each; an element is at most 32 bytes long. -/
def portSpans (a : Nat) (bs : Bytes) : List (Nat × Bytes) :=
  let k := 64 - a % 64
  if bs.length ≤ k then [(a, bs)] else [(a, bs.take k), (a + k, bs.drop k)]

/-- A store to the port window, split into 64-byte writes (R347): the bytes of the performed elements, cut where a 64-byte span ends and
joined where they are contiguous and lie in one. -/
def portWrites (c : CoreSt) (p : Nat) (cells : List (Nat × Bytes)) (d : Dev) : Dev :=
  let joined := (cells.flatMap (fun e => portSpans e.1 e.2)).foldl (fun (acc : List (Nat × Bytes)) e =>
    match acc.getLast? with
    | some l =>
      if l.1 + l.2.length = e.1 ∧ e.1 % 64 ≠ 0 ∧ l.1 / 64 = e.1 / 64 then acc.dropLast ++ [(l.1, l.2 ++ e.2)] else acc ++ [e]
    | none => [e]) []
  joined.foldl (fun (d : Dev) e =>
    match d.portWrite c p e.1 true e.2 with
    | (d, .err r) => d.postError p e.1 (busCode r)
    | (d, _) => d) d

/-- A vector store. One to SPACE 2 makes 64-byte writes of its elements. -/
def vecStore (c : CoreSt) (p reg vd : Nat) (vm scatter : Bool) (legal : Gallery → Bool) (off : Gallery → Nat → Nat) : Gallery → Dev → IRes :=
  longVec c p legal true (fun k => sewBits k.vtype) (fun k d =>
    let w := sewBits k.vtype
    let n := w / 8
    let x := k.getC reg
    let join := x.space == 2
    let step (i : Nat) (s : Dev × List (Nat × Bytes)) : Except ((Dev × List (Nat × Bytes)) × Exc) (Dev × List (Nat × Bytes)) :=
      let o := off k i
      let bs := toLE n (elem w (k.vreg vd) i)
      match elemCheck x reg (2 ^ Perm.store) o n with
      | some e => .error (s, e)
      | none =>
        let counted (d : Dev) : Dev := if scatter then d.count (R.galVcntGselem p) else d
        if join then .ok (counted s.1, s.2 ++ [(x.base + o, bs)])
        else match storeElem c p reg x o bs s.1 with
          | .error (d, e) => .error ((d, s.2), e)
          | .ok d => .ok (counted d, s.2)
    let (s, r) := overElems step (k.active vm) (d, [])
    (if join then portWrites c p s.2 s.1 else s.1, r))

/-- An index vector fits its register (R347). -/
def indexOk (wide : Bool) (k : Gallery) : Bool := decide (k.vl * (if wide then 64 else 32) ≤ 8192)

/-- VLD. -/
def execVld (p : Fin 136) (vd : BitVec 5) (c : BitVec 4) (gb : BitVec 5) (vm : Bool) (shift : BitVec 2) (s : State) :
    Host.Outcome State Fault Refusal :=
  s.onDev (fun c' dv => dv.instr c' p.val (vecLoad c' p.val c.toNat vd.toNat vm false (fun _ => true) (fun k i =>
    unitOffset k gb.toNat shift.toNat (sewBits k.vtype) i)))

/-- VST. -/
def execVst (p : Fin 136) (vd : BitVec 5) (c : BitVec 4) (gb : BitVec 5) (vm : Bool) (shift : BitVec 2) (s : State) :
    Host.Outcome State Fault Refusal :=
  s.onDev (fun c' dv => dv.instr c' p.val (vecStore c' p.val c.toNat vd.toNat vm false (fun _ => true) (fun k i =>
    unitOffset k gb.toNat shift.toNat (sewBits k.vtype) i)))

/-- VGATH. -/
def execVgath (p : Fin 136) (vd : BitVec 5) (c : BitVec 4) (vb : BitVec 5) (vm : Bool) (shift : BitVec 2) (wide : Bool) (s : State) :
    Host.Outcome State Fault Refusal :=
  s.onDev (fun c' dv => dv.instr c' p.val (vecLoad c' p.val c.toNat vd.toNat vm true (indexOk wide) (fun k i =>
    indexOffset k vb.toNat shift.toNat wide i)))

/-- VSCAT. -/
def execVscat (p : Fin 136) (vd : BitVec 5) (c : BitVec 4) (vb : BitVec 5) (vm : Bool) (shift : BitVec 2) (wide : Bool) (s : State) :
    Host.Outcome State Fault Refusal :=
  s.onDev (fun c' dv => dv.instr c' p.val (vecStore c' p.val c.toNat vd.toNat vm true (indexOk wide) (fun k i =>
    indexOffset k vb.toNat shift.toNat wide i)))

/-! ### The short-vector unit (R353) -/

/-- Element width of an ESW code. -/
def eswBits (esw : BitVec 2) : Nat := 8 <<< esw.toNat

/-- A short-vector instruction: whole or not at all. -/
def shortVec (p : Nat) (f : Gallery → Except Exc Gallery) (k : Gallery) (d : Dev) : IRes :=
  match f k with
  | .ok k => .done ((d.setCore p k).count (R.galVcntSinst p))
  | .error e => .exc e.vec d

/-- A register computed lane by lane, or the first cause. -/
def shortLanes (w : Nat) (f : Nat → Except Exc Nat) : Except Exc Nat :=
  (List.range (256 / w)).foldl (fun acc i => match acc with
    | .ok v => (f i).map (setElem w v i)
    | r => r) (.ok 0)

/-- The operation of the element unit that a short operation names. -/
def svVec : SvOp → VecOp
  | .add => .add
  | .sub => .sub
  | .and => .and
  | .or => .or
  | .xor => .xor
  | .sll => .sll
  | .srl => .srl
  | .sra => .sra
  | .min => .min
  | .max => .max

/-- SV_ALU. -/
def execSvAlu (p : Fin 136) (op : SvOp) (esw : BitVec 2) (trap u : Bool) (sd sa sb : BitVec 4) (s : State) :
    Host.Outcome State Fault Refusal :=
  s.onDev (fun c dv => dv.instr c p.val (shortVec p.val (fun k =>
    let w := eswBits esw
    (shortLanes w (fun i => vecOp (svVec op) trap u w (elem w (k.sreg sa.toNat) i) (elem w (k.sreg sb.toNat) i) false)).map
      (k.setS sd.toNat))))

/-- SV_MULTIPLY: same width, or the exact double-width products of the low or high half of the lanes (log entry 30). -/
def execSvMultiply (p : Fin 136) (wide high : Bool) (esw : BitVec 2) (trap u : Bool) (sd sa sb : BitVec 4) (s : State) :
    Host.Outcome State Fault Refusal :=
  s.onDev (fun c dv => dv.instr c p.val (shortVec p.val (fun k =>
    let w := eswBits esw
    let a (i : Nat) : Nat := elem w (k.sreg sa.toNat) i
    let b (i : Nat) : Nat := elem w (k.sreg sb.toNat) i
    let from_ := if high then 128 / w else 0
    (if wide then shortLanes (2 * w) (fun i => .ok (ofSigned (2 * w) (elemVal u w (a (from_ + i)) * elemVal u w (b (from_ + i)))))
     else shortLanes w (fun i => vecOp .mul trap u w (a i) (b i) false)).map (k.setS sd.toNat))))

/-- SV_COMPARE: into a bitmask in g register SD; select by nonzero lanes of SD; byte shuffle by the low five bits (log entry 30). -/
def execSvCompare (p : Fin 136) (op : SvCmp) (esw : BitVec 2) (sd sa sb : BitVec 4) (s : State) : Host.Outcome State Fault Refusal :=
  s.onDev (fun c dv => dv.instr c p.val (shortVec p.val (fun k =>
    let w := eswBits esw
    let a := k.sreg sa.toNat
    let b := k.sreg sb.toNat
    match op with
    | .cmp o u =>
      let hit (i : Nat) : Bool := cmpHolds o (elemVal u w (elem w a i)) (elemVal u w (elem w b i))
      .ok (k.setG sd.toNat (BitVec.ofNat 64 (total ((List.range (256 / w)).map (fun i => (b2n (hit i)) <<< i)))))
    | .select =>
      (shortLanes w (fun i => .ok (if elem w (k.sreg sd.toNat) i ≠ 0 then elem w a i else elem w b i))).map (k.setS sd.toNat)
    | .shuffle => (shortLanes 8 (fun i => .ok (elem 8 a (elem 8 b i % 32)))).map (k.setS sd.toNat))))

/-- SV_HASH: the steps of R344 on 64-bit lanes; another ESW raises ILLEGAL. -/
def execSvHash (p : Fin 136) (crc : Option (BitVec 2)) (esw : BitVec 2) (sd sa : BitVec 4) (s : State) :
    Host.Outcome State Fault Refusal :=
  s.onDev (fun c dv => dv.instr c p.val (fun k dv =>
    if esw.toNat ≠ 3 then .exc (dv.vecIllegal c p.val) dv
    else shortVec p.val (fun k =>
      let a (i : Nat) : Nat := elem 64 (k.sreg sa.toNat) i
      (shortLanes 64 (fun i => .ok (match crc with
        | some n => crcStep (2 ^ n.toNat) (elem 64 (k.sreg sd.toNat) i) (a i)
        | none => hashMul (a i)))).map (k.setS sd.toNat)) k dv))

/-- SV_LOAD_STORE: 32 bytes aligned to 32 through capability A at offset g[B] (log entry 30), and moves. -/
def execSvLoadStore (p : Fin 136) (op : SvMem) (sd : BitVec 4) (a b : BitVec 5) (s : State) : Host.Outcome State Fault Refusal :=
  s.onDev (fun c dv => dv.instr c p.val (fun k dv =>
    let reg := a.toNat % 16
    let x := k.getC reg
    let o := (k.getG b.toNat).toNat
    match op with
    | .load =>
      match capCheck x reg (2 ^ Perm.load) o 32 32 with
      | some e => .exc e.vec dv
      | none =>
        match dv.coreLoad c p.val x reg (x.base + o) 32 with
        | (dv, .error e) => .exc e.vec dv
        | (dv, .ok bs) => .done ((dv.setCore p.val ((dv.core p.val).setS sd.toNat (ofLE bs))).count (R.galVcntSinst p.val))
    | .store =>
      match capCheck x reg (2 ^ Perm.store) o 32 32 with
      | some e => .exc e.vec dv
      | none =>
        match storeElem c p.val reg x o (toLE 32 (k.sreg sd.toNat)) dv with
        | .error (dv, e) => .exc e.vec dv
        | .ok dv => .done (dv.count (R.galVcntSinst p.val))
    | .gToS lane => shortVec p.val (fun k => .ok (k.setS sd.toNat (setElem 64 (k.sreg sd.toNat) lane.val (k.getG a.toNat).toNat))) k dv
    | .sToG lane => shortVec p.val (fun k => .ok (k.setG a.toNat (BitVec.ofNat 64 (elem 64 (k.sreg sd.toNat) lane.val)))) k dv
    | .vToS => shortVec p.val (fun k => .ok (k.setS sd.toNat (k.vreg a.toNat % 2 ^ 256))) k dv
    | .sToV => shortVec p.val (fun k => .ok (k.setV a.toNat (setElem 256 (k.vreg a.toNat) 0 (k.sreg sd.toNat)))) k dv))

/-! ### Power gating (R354, R355) -/

/-- LVU_POWER_OFF: IDLE_US has passed; an IDLE_US of 0 keeps the datapath on. -/
def execLvuPowerOff (p : Fin 136) (s : State) : Host.Outcome State Fault Refusal :=
  s.onDev (fun c d =>
    let k := d.core p.val
    if k.lvu = .on ∧ k.vpwr ≠ 0 then
      let d := d.countOn c p.val
      d.setCore p.val { d.core p.val with lvu := .off }
    else d)

/-- LVU_WAKE_DONE: the datapath is on; where an instruction has stalled, its cycles, at most 2.0 µs of 2.4 GHz, are counted: a free
number (log entry 1). -/
def execLvuWakeDone (p : Fin 136) (s : State) : Host.Outcome State Fault Refusal :=
  s.onDev (fun c d =>
    let k := d.core p.val
    if k.lvu = .waking then
      let d := d.setCore p.val { k with lvu := .on, lvuSince := c.time.toNat, stalled := false }
      if k.stalled then
        let (v, d) := d.draw
        d.count (R.galVcntWakecyc p.val) (v.toNat % 4801)
      else d
    else d)

end Sys2Proof.Machine
end

