-- ==== Sys2Proof/Machine/Dispatch.lean ====
section
/-!
DEFINITION. `exec`: each command's meaning, one arm for each row of spec/opcode_table.json.
-/

namespace Sys2Proof.Machine

def exec (i : Instr) (s : State) : Host.Outcome State Fault Refusal :=
  match i with
  | .pwrgoodRise gpio0Low => Sys2Proof.Machine.execPwrgoodRise gpio0Low s
  | .pwrgoodFall => Sys2Proof.Machine.execPwrgoodFall s
  | .pfailNFall => Sys2Proof.Machine.execPfailNFall s
  | .dumpComplete us metaBytes => Sys2Proof.Machine.execDumpComplete us metaBytes s
  | .pfailNRise => Sys2Proof.Machine.execPfailNRise s
  | .dumpInvalidate => Sys2Proof.Machine.execDumpInvalidate s
  | .dumpReplay => Sys2Proof.Machine.execDumpReplay s
  | .dumpActionReplay src => Sys2Proof.Machine.execDumpActionReplay src s
  | .dumpActionDiscard src => Sys2Proof.Machine.execDumpActionDiscard src s
  | .romPassDone r => Sys2Proof.Machine.execRomPassDone r s
  | .configureRecordsDone r => Sys2Proof.Machine.execConfigureRecordsDone r s
  | .configureComplete r => Sys2Proof.Machine.execConfigureComplete r s
  | .devResetCold src key => Sys2Proof.Machine.execDevResetCold src key s
  | .devResetWarm src key => Sys2Proof.Machine.execDevResetWarm src key s
  | .devResetRegistrar src key => Sys2Proof.Machine.execDevResetRegistrar src key s
  | .quiesce src => Sys2Proof.Machine.execQuiesce src s
  | .resume src => Sys2Proof.Machine.execResume src s
  | .enterRecovery src => Sys2Proof.Machine.execEnterRecovery src s
  | .drainComplete => Sys2Proof.Machine.execDrainComplete s
  | .drainTimeout => Sys2Proof.Machine.execDrainTimeout s
  | .holdTimeout => Sys2Proof.Machine.execHoldTimeout s
  | .maintenanceComplete => Sys2Proof.Machine.execMaintenanceComplete s
  | .hostPortReset port perst => Sys2Proof.Machine.execHostPortReset port perst s
  | .hostLinkUp port speed width flit => Sys2Proof.Machine.execHostLinkUp port speed width flit s
  | .functionReset port fn => Sys2Proof.Machine.execFunctionReset port fn s
  | .pcieConfigRequest port fn req => Sys2Proof.Machine.execPcieConfigRequest port fn req s
  | .atsInvalidation port fn => Sys2Proof.Machine.execAtsInvalidation port fn s
  | .thermalTrip sensor => Sys2Proof.Machine.execThermalTrip sensor s
  | .sysrefLost => Sys2Proof.Machine.execSysrefLost s
  | .sqDoorbell inst q v => Sys2Proof.Machine.execSqDoorbell inst q v s
  | .cqDoorbell inst q v => Sys2Proof.Machine.execCqDoorbell inst q v s
  | .xqEnable inst => Sys2Proof.Machine.execXqEnable inst s
  | .xqReady inst => Sys2Proof.Machine.execXqReady inst s
  | .controllerReset inst => Sys2Proof.Machine.execControllerReset inst s
  | .fetchTurn port => Sys2Proof.Machine.execFetchTurn port s
  | .entryFetched port => Sys2Proof.Machine.execEntryFetched port s
  | .adminBusyTimeout ref waitMs => Sys2Proof.Machine.execAdminBusyTimeout ref waitMs s
  | .read ref => Sys2Proof.Machine.execRead ref s
  | .write ref => Sys2Proof.Machine.execWrite ref s
  | .flush ref => Sys2Proof.Machine.execFlush ref s
  | .deallocate ref => Sys2Proof.Machine.execDeallocate ref s
  | .ouAdmit ref => Sys2Proof.Machine.execOuAdmit ref s
  | .writeInsert ref => Sys2Proof.Machine.execWriteInsert ref s
  | .readDataTaken ref bad => Sys2Proof.Machine.execReadDataTaken ref bad s
  | .drainStep bad => Sys2Proof.Machine.execDrainStep bad s
  | .createQueue ref => Sys2Proof.Machine.execCreateQueue ref s
  | .deleteQueue ref => Sys2Proof.Machine.execDeleteQueue ref s
  | .identify ref => Sys2Proof.Machine.execIdentify ref s
  | .logRead ref => Sys2Proof.Machine.execLogRead ref s
  | .counterRead ref => Sys2Proof.Machine.execCounterRead ref s
  | .traceConfig ref => Sys2Proof.Machine.execTraceConfig ref s
  | .pipelineLoad ref => Sys2Proof.Machine.execPipelineLoad ref s
  | .pipelineRun ref => Sys2Proof.Machine.execPipelineRun ref s
  | .pipelineCancel ref => Sys2Proof.Machine.execPipelineCancel ref s
  | .resultRead ref => Sys2Proof.Machine.execResultRead ref s
  | .docentDecision => Sys2Proof.Machine.execDocentDecision s
  | .docTcancel src v => Sys2Proof.Machine.execDocTcancel src v s
  | .taskdone p v r => Sys2Proof.Machine.execTaskdone p v r s
  | .cancelTimeout g => Sys2Proof.Machine.execCancelTimeout g s
  | .shareEpoch => Sys2Proof.Machine.execShareEpoch s
  | .ledgerVerdict run task => Sys2Proof.Machine.execLedgerVerdict run task s
  | .taskCancel p => Sys2Proof.Machine.execTaskCancel p s
  | .takeEvent p => Sys2Proof.Machine.execTakeEvent p s
  | .dispatchMessage p => Sys2Proof.Machine.execDispatchMessage p s
  | .galleryWakeDone p => Sys2Proof.Machine.execGalleryWakeDone p s
  | .galleryPark p => Sys2Proof.Machine.execGalleryPark p s
  | .postedWriteError p addr reason => Sys2Proof.Machine.execPostedWriteError p addr reason s
  | .integerAlu p op trap d a b => Sys2Proof.Machine.execIntegerAlu p op trap d a b s
  | .multiplyDivide p op trap d a b => Sys2Proof.Machine.execMultiplyDivide p op trap d a b s
  | .bitManipulation p op d a b => Sys2Proof.Machine.execBitManipulation p op d a b s
  | .integerLoad p d c size sx off => Sys2Proof.Machine.execIntegerLoad p d c size sx off s
  | .integerStore p d c size off => Sys2Proof.Machine.execIntegerStore p d c size off s
  | .ldc p d c off => Sys2Proof.Machine.execLdc p d c off s
  | .stc p d c off => Sys2Proof.Machine.execStc p d c off s
  | .atomic p op d c b => Sys2Proof.Machine.execAtomic p op d c b s
  | .cwindow p d c b => Sys2Proof.Machine.execCwindow p d c b s
  | .ckeep p d c b => Sys2Proof.Machine.execCkeep p d c b s
  | .ccopy p d c => Sys2Proof.Machine.execCcopy p d c s
  | .cstrip p d c => Sys2Proof.Machine.execCstrip p d c s
  | .cinst p d c b auth => Sys2Proof.Machine.execCinst p d c b auth s
  | .cbind p d c b auth => Sys2Proof.Machine.execCbind p d c b auth s
  | .cunbind p d c b auth => Sys2Proof.Machine.execCunbind p d c b auth s
  | .capInspect p f d c => Sys2Proof.Machine.execCapInspect p f d c s
  | .branch p cond a b off => Sys2Proof.Machine.execBranch p cond a b off s
  | .jump p link off => Sys2Proof.Machine.execJump p link off s
  | .jc p c a => Sys2Proof.Machine.execJc p c a s
  | .jcl p d gd c a => Sys2Proof.Machine.execJcl p d gd c a s
  | .ccrr p d auth num => Sys2Proof.Machine.execCcrr p d auth num s
  | .ccrw p d auth num => Sys2Proof.Machine.execCcrw p d auth num s
  | .ccrrc p d auth num => Sys2Proof.Machine.execCcrrc p d auth num s
  | .ccrwc p d auth num => Sys2Proof.Machine.execCcrwc p d auth num s
  | .eret p => Sys2Proof.Machine.execEret p s
  | .fence p => Sys2Proof.Machine.execFence p s
  | .wfe p => Sys2Proof.Machine.execWfe p s
  | .sleep p auth => Sys2Proof.Machine.execSleep p auth s
  | .trap p n => Sys2Proof.Machine.execTrap p n s
  | .brk p => Sys2Proof.Machine.execBrk p s
  | .setvl p gd ga sew => Sys2Proof.Machine.execSetvl p gd ga sew s
  | .vsetsc p gs => Sys2Proof.Machine.execVsetsc p gs s
  | .vrdstate p gd n => Sys2Proof.Machine.execVrdstate p gd n s
  | .vwake p => Sys2Proof.Machine.execVwake p s
  | .vectorAlu p op trap u vd va vb vm => Sys2Proof.Machine.execVectorAlu p op trap u vd va vb vm s
  | .vectorWidenMultiply p src u vd va vb vm => Sys2Proof.Machine.execVectorWidenMultiply p src u vd va vb vm s
  | .vdot4b p trap u vd va vb vm => Sys2Proof.Machine.execVdot4b p trap u vd va vb vm s
  | .vdot2h p trap u vd va vb vm => Sys2Proof.Machine.execVdot2h p trap u vd va vb vm s
  | .vdot2w p trap u vd va vb vm => Sys2Proof.Machine.execVdot2w p trap u vd va vb vm s
  | .vectorCompare p op vd va vb vm => Sys2Proof.Machine.execVectorCompare p op vd va vb vm s
  | .vectorReduction p op trap u vd va vm => Sys2Proof.Machine.execVectorReduction p op trap u vd va vm s
  | .vcpop p gd vm => Sys2Proof.Machine.execVcpop p gd vm s
  | .vcompress p vd va vm => Sys2Proof.Machine.execVcompress p vd va vm s
  | .vexpand p vd va vm => Sys2Proof.Machine.execVexpand p vd va vm s
  | .vectorPermute p op vd va vb vm => Sys2Proof.Machine.execVectorPermute p op vd va vb vm s
  | .vcx p vd vb j k u vm => Sys2Proof.Machine.execVcx p vd vb j k u vm s
  | .vhcrc p n vd va vm => Sys2Proof.Machine.execVhcrc p n vd va vm s
  | .vhmul p vd va vm => Sys2Proof.Machine.execVhmul p vd va vm s
  | .vectorMove p op d a vm => Sys2Proof.Machine.execVectorMove p op d a vm s
  | .vdadd p vd va vb vm => Sys2Proof.Machine.execVdadd p vd va vb vm s
  | .vdsub p vd va vb vm => Sys2Proof.Machine.execVdsub p vd va vb vm s
  | .vdmul p vd va vb vm => Sys2Proof.Machine.execVdmul p vd va vb vm s
  | .vddiv p vd va vb vm => Sys2Proof.Machine.execVddiv p vd va vb vm s
  | .vdrescale p vd va vm => Sys2Proof.Machine.execVdrescale p vd va vm s
  | .vdmin p vd va vb vm => Sys2Proof.Machine.execVdmin p vd va vb vm s
  | .vdmax p vd va vb vm => Sys2Proof.Machine.execVdmax p vd va vb vm s
  | .vdcmp p op vd va vb vm => Sys2Proof.Machine.execVdcmp p op vd va vb vm s
  | .vdfromi p vd va vm => Sys2Proof.Machine.execVdfromi p vd va vm s
  | .vlacc p vd va vm => Sys2Proof.Machine.execVlacc p vd va vm s
  | .vlacci p vd va vm => Sys2Proof.Machine.execVlacci p vd va vm s
  | .vladd p vd va vb vm => Sys2Proof.Machine.execVladd p vd va vb vm s
  | .vlnarrow p vd va vm => Sys2Proof.Machine.execVlnarrow p vd va vm s
  | .vlred p vd va vm => Sys2Proof.Machine.execVlred p vd va vm s
  | .vld p vd c gb vm shift => Sys2Proof.Machine.execVld p vd c gb vm shift s
  | .vst p vd c gb vm shift => Sys2Proof.Machine.execVst p vd c gb vm shift s
  | .vgath p vd c vb vm shift wide => Sys2Proof.Machine.execVgath p vd c vb vm shift wide s
  | .vscat p vd c vb vm shift wide => Sys2Proof.Machine.execVscat p vd c vb vm shift wide s
  | .svAlu p op esw trap u sd sa sb => Sys2Proof.Machine.execSvAlu p op esw trap u sd sa sb s
  | .svMultiply p wide high esw trap u sd sa sb => Sys2Proof.Machine.execSvMultiply p wide high esw trap u sd sa sb s
  | .svCompare p op esw sd sa sb => Sys2Proof.Machine.execSvCompare p op esw sd sa sb s
  | .svHash p crc esw sd sa => Sys2Proof.Machine.execSvHash p crc esw sd sa s
  | .svLoadStore p op sd a b => Sys2Proof.Machine.execSvLoadStore p op sd a b s
  | .lvuPowerOff p => Sys2Proof.Machine.execLvuPowerOff p s
  | .lvuWakeDone p => Sys2Proof.Machine.execLvuWakeDone p s
  | .sflSubmit f p v => Sys2Proof.Machine.execSflSubmit f p v s
  | .sflGet f p v => Sys2Proof.Machine.execSflGet f p v s
  | .sflAbort f p v => Sys2Proof.Machine.execSflAbort f p v s
  | .sflDescriptorStart f => Sys2Proof.Machine.execSflDescriptorStart f s
  | .sflRowgroupEval f => Sys2Proof.Machine.execSflRowgroupEval f s
  | .sflWriteError f p tag => Sys2Proof.Machine.execSflWriteError f p tag s
  | .excSend p stride => Sys2Proof.Machine.execExcSend p stride s
  | .excSendResume p stride => Sys2Proof.Machine.execExcSendResume p stride s
  | .excAllocTimeout p => Sys2Proof.Machine.execExcAllocTimeout p s
  | .excNext p v => Sys2Proof.Machine.execExcNext p v s
  | .excPublish => Sys2Proof.Machine.execExcPublish s
  | .excVoid => Sys2Proof.Machine.execExcVoid s
  | .excRelease => Sys2Proof.Machine.execExcRelease s
  | .excRunEnd => Sys2Proof.Machine.execExcRunEnd s
  | .catSearchPort p req => Sys2Proof.Machine.execCatSearchPort p req s
  | .catBatchClose owner set => Sys2Proof.Machine.execCatBatchClose owner set s
  | .catPassSlot => Sys2Proof.Machine.execCatPassSlot s
  | .catalogueBatch ref => Sys2Proof.Machine.execCatalogueBatch ref s
  | .searchFirst ref => Sys2Proof.Machine.execSearchFirst ref s
  | .searchAll ref => Sys2Proof.Machine.execSearchAll ref s
  | .append ref => Sys2Proof.Machine.execAppend ref s
  | .insert ref => Sys2Proof.Machine.execInsert ref s
  | .catWrite ref => Sys2Proof.Machine.execCatWrite ref s
  | .delete ref => Sys2Proof.Machine.execDelete ref s
  | .catRead ref => Sys2Proof.Machine.execCatRead ref s
  | .clear ref => Sys2Proof.Machine.execClear ref s
  | .catGroupEnable src n v => Sys2Proof.Machine.execCatGroupEnable src n v s
  | .catGroupDisable src n v => Sys2Proof.Machine.execCatGroupDisable src n v s
  | .catDisableEffect n => Sys2Proof.Machine.execCatDisableEffect n s
  | .catRefillDone n => Sys2Proof.Machine.execCatRefillDone n s
  | .folSubmit p v => Sys2Proof.Machine.execFolSubmit p v s
  | .folAppend p v => Sys2Proof.Machine.execFolAppend p v s
  | .folAbort p v => Sys2Proof.Machine.execFolAbort p v s
  | .folDescriptorStart e => Sys2Proof.Machine.execFolDescriptorStart e s
  | .folStrip e => Sys2Proof.Machine.execFolStrip e s
  | .folTaskNotice => Sys2Proof.Machine.execFolTaskNotice s
  | .folWriteError e p tag => Sys2Proof.Machine.execFolWriteError e p tag s
  | .folRoleWrite src e role => Sys2Proof.Machine.execFolRoleWrite src e role s
  | .dmaSubmit p v => Sys2Proof.Machine.execDmaSubmit p v s
  | .dmaAppend p v => Sys2Proof.Machine.execDmaAppend p v s
  | .dmaAbort p v => Sys2Proof.Machine.execDmaAbort p v s
  | .cqCfg p v => Sys2Proof.Machine.execCqCfg p v s
  | .cqHead p v => Sys2Proof.Machine.execCqHead p v s
  | .dmaDescriptorStart ch => Sys2Proof.Machine.execDmaDescriptorStart ch s
  | .dmaTransfer ch => Sys2Proof.Machine.execDmaTransfer ch s
  | .dmaRecordPost ch => Sys2Proof.Machine.execDmaRecordPost ch s
  | .dmaHostError ch p tag => Sys2Proof.Machine.execDmaHostError ch p tag s
  | .dmaTaskNotice => Sys2Proof.Machine.execDmaTaskNotice s
  | .dmaWriteError p => Sys2Proof.Machine.execDmaWriteError p s
  | .evtRaisePort p v => Sys2Proof.Machine.execEvtRaisePort p v s
  | .evtClaim p v => Sys2Proof.Machine.execEvtClaim p v s
  | .evtRaise src v => Sys2Proof.Machine.execEvtRaise src v s
  | .evtRouteWrite src n v => Sys2Proof.Machine.execEvtRouteWrite src n v s
  | .evtPendWithdraw src n v => Sys2Proof.Machine.execEvtPendWithdraw src n v s
  | .evtCoalWrite src k v => Sys2Proof.Machine.execEvtCoalWrite src k v s
  | .evtHoldWrite src v => Sys2Proof.Machine.execEvtHoldWrite src v s
  | .msixTableWrite inst off wide v => Sys2Proof.Machine.execMsixTableWrite inst off wide v s
  | .eventRaise n g => Sys2Proof.Machine.execEventRaise n g s
  | .evtArbiterCycle => Sys2Proof.Machine.execEvtArbiterCycle s
  | .evtCoalTimeout slot => Sys2Proof.Machine.execEvtCoalTimeout slot s
  | .evtTaskNotice g => Sys2Proof.Machine.execEvtTaskNotice g s
  | .evtFenceNotice g => Sys2Proof.Machine.execEvtFenceNotice g s
  | .digestOpen src => Sys2Proof.Machine.execDigestOpen src s
  | .digestUpdate src => Sys2Proof.Machine.execDigestUpdate src s
  | .digestSave src => Sys2Proof.Machine.execDigestSave src s
  | .digestRestore src => Sys2Proof.Machine.execDigestRestore src s
  | .digestClose src => Sys2Proof.Machine.execDigestClose src s
  | .prvLaneBlock l => Sys2Proof.Machine.execPrvLaneBlock l s
  | .prvCompareDone k agree => Sys2Proof.Machine.execPrvCompareDone k agree s
  | .prvOpenResume => Sys2Proof.Machine.execPrvOpenResume s
  | .prvTaskNotice => Sys2Proof.Machine.execPrvTaskNotice s
  | .memRequestIssue ch => Sys2Proof.Machine.execMemRequestIssue ch s
  | .memReadReturn ch block err => Sys2Proof.Machine.execMemReadReturn ch block err s
  | .memChannelRelease ch => Sys2Proof.Machine.execMemChannelRelease ch s
  | .memReleaseTimeout ch => Sys2Proof.Machine.execMemReleaseTimeout ch s
  | .memAgePromote ch order => Sys2Proof.Machine.execMemAgePromote ch order s
  | .memRefreshDue ch => Sys2Proof.Machine.execMemRefreshDue ch s
  | .memTempSample ch celsius mr4 => Sys2Proof.Machine.execMemTempSample ch celsius mr4 s
  | .memRhWindow ch => Sys2Proof.Machine.execMemRhWindow ch s
  | .patrolScrub ch block err => Sys2Proof.Machine.execPatrolScrub ch block err s
  | .sppr ch row left => Sys2Proof.Machine.execSppr ch row left s
  | .memSetMapWrite src n v => Sys2Proof.Machine.execMemSetMapWrite src n v s
  | .ssdLinkUp n width speed => Sys2Proof.Machine.execSsdLinkUp n width speed s
  | .ssdIdentifyDone n info => Sys2Proof.Machine.execSsdIdentifyDone n info s
  | .ssdRemoval n => Sys2Proof.Machine.execSsdRemoval n s
  | .nvmeCompletion n id ok => Sys2Proof.Machine.execNvmeCompletion n id ok s
  | .nvmeTimeout n id => Sys2Proof.Machine.execNvmeTimeout n id s
  | .nvmeAbortTimeout n id => Sys2Proof.Machine.execNvmeAbortTimeout n id s
  | .ssdReadyTimeout n => Sys2Proof.Machine.execSsdReadyTimeout n s
  | .assembleTimeout => Sys2Proof.Machine.execAssembleTimeout s
  | .rebuildStripe v bad => Sys2Proof.Machine.execRebuildStripe v bad s
  | .roleReqSpare src n => Sys2Proof.Machine.execRoleReqSpare src n s
  | .roleReqFree src n => Sys2Proof.Machine.execRoleReqFree src n s
  | .wipeLabel src n => Sys2Proof.Machine.execWipeLabel src n s
  | .volumeCreate ref => Sys2Proof.Machine.execVolumeCreate ref s
  | .volumeDelete ref => Sys2Proof.Machine.execVolumeDelete ref s
  | .formatVolume ref => Sys2Proof.Machine.execFormatVolume ref s
  | .sanitise ref => Sys2Proof.Machine.execSanitise ref s
  | .maintenanceStep v n => Sys2Proof.Machine.execMaintenanceStep v n s
  | .instanceCreate ref => Sys2Proof.Machine.execInstanceCreate ref s
  | .instanceShare ref => Sys2Proof.Machine.execInstanceShare ref s
  | .instanceFreeze ref => Sys2Proof.Machine.execInstanceFreeze ref s
  | .freezeDrainDone inst => Sys2Proof.Machine.execFreezeDrainDone inst s
  | .freezeTimeout inst => Sys2Proof.Machine.execFreezeTimeout inst s
  | .instanceExport ref => Sys2Proof.Machine.execInstanceExport ref s
  | .instanceImport ref => Sys2Proof.Machine.execInstanceImport ref s
  | .instanceDestroy ref => Sys2Proof.Machine.execInstanceDestroy ref s
  | .map src ctrl => Sys2Proof.Machine.execMap src ctrl s
  | .unmap src ctrl => Sys2Proof.Machine.execUnmap src ctrl s
  | .setPasid src ctrl => Sys2Proof.Machine.execSetPasid src ctrl s
  | .tlbInvalAck unit => Sys2Proof.Machine.execTlbInvalAck unit s
  | .faultReport f => Sys2Proof.Machine.execFaultReport f s
  | .reserveSwap p => Sys2Proof.Machine.execReserveSwap p s
  | .checkerInject unit => Sys2Proof.Machine.execCheckerInject unit s
  | .injectTimeout unit => Sys2Proof.Machine.execInjectTimeout unit s
  | .testClaim p => Sys2Proof.Machine.execTestClaim p s
  | .testLate p => Sys2Proof.Machine.execTestLate p s
  | .structuralTestDone p pass left => Sys2Proof.Machine.execStructuralTestDone p pass left s
  | .unitRetest unit pass => Sys2Proof.Machine.execUnitRetest unit pass s
  | .registrarHeartbeat => Sys2Proof.Machine.execRegistrarHeartbeat s
  | .heartbeatTimeout => Sys2Proof.Machine.execHeartbeatTimeout s
  | .watchdogKick => Sys2Proof.Machine.execWatchdogKick s
  | .watchdogTimeout => Sys2Proof.Machine.execWatchdogTimeout s
  | .laneFail link group => Sys2Proof.Machine.execLaneFail link group s
  | .flitParityError link group => Sys2Proof.Machine.execFlitParityError link group s
  | .returnPrepare src v => Sys2Proof.Machine.execReturnPrepare src v s
  | .canaryLoop r => Sys2Proof.Machine.execCanaryLoop r s
  | .railSample rail mv deciamps => Sys2Proof.Machine.execRailSample rail mv deciamps s
  | .powerEvaluation r => Sys2Proof.Machine.execPowerEvaluation r s
  | .pwrCapWrite src v => Sys2Proof.Machine.execPwrCapWrite src v s
  | .fwPiece ref => Sys2Proof.Machine.execFwPiece ref s
  | .fwCommit ref => Sys2Proof.Machine.execFwCommit ref s
  | .fwActivate ref => Sys2Proof.Machine.execFwActivate ref s
  | .fwConfirm ref => Sys2Proof.Machine.execFwConfirm ref s
  | .settingsSave src => Sys2Proof.Machine.execSettingsSave src s
  | .settingsClear src => Sys2Proof.Machine.execSettingsClear src s
  | .recoveryGo port slot block => Sys2Proof.Machine.execRecoveryGo port slot block s
  | .recoveryFinish port slot => Sys2Proof.Machine.execRecoveryFinish port slot s
  | .uartData frame => Sys2Proof.Machine.execUartData frame s
  | .uartFinish frame => Sys2Proof.Machine.execUartFinish frame s
  | .uartSpeed frame => Sys2Proof.Machine.execUartSpeed frame s
  | .i3cDynamicAddress addr => Sys2Proof.Machine.execI3cDynamicAddress addr s
  | .setEndpointId bus op eid => Sys2Proof.Machine.execSetEndpointId bus op eid s
  | .getEndpointId bus => Sys2Proof.Machine.execGetEndpointId bus s
  | .getMctpVersionSupport bus => Sys2Proof.Machine.execGetMctpVersionSupport bus s
  | .getMessageTypeSupport bus => Sys2Proof.Machine.execGetMessageTypeSupport bus s
  | .getEndpointUuid bus => Sys2Proof.Machine.execGetEndpointUuid bus s
  | .gettid bus => Sys2Proof.Machine.execGettid bus s
  | .settid bus tid => Sys2Proof.Machine.execSettid bus tid s
  | .getpldmversion bus type => Sys2Proof.Machine.execGetpldmversion bus type s
  | .getpldmtypes bus => Sys2Proof.Machine.execGetpldmtypes bus s
  | .getpldmcommands bus type => Sys2Proof.Machine.execGetpldmcommands bus type s
  | .getpdr bus handle => Sys2Proof.Machine.execGetpdr bus handle s
  | .getsensorreading bus sensor => Sys2Proof.Machine.execGetsensorreading bus sensor s
  | .getstatesensorreadings bus sensor => Sys2Proof.Machine.execGetstatesensorreadings bus sensor s
  | .setnumericeffectervalue bus effecter v => Sys2Proof.Machine.execSetnumericeffectervalue bus effecter v s
  | .setstateeffecterstates bus effecter => Sys2Proof.Machine.execSetstateeffecterstates bus effecter s
  | .querydeviceidentifiers bus => Sys2Proof.Machine.execQuerydeviceidentifiers bus s
  | .getfirmwareparameters bus => Sys2Proof.Machine.execGetfirmwareparameters bus s
  | .requestupdate bus version imageBytes => Sys2Proof.Machine.execRequestupdate bus version imageBytes s
  | .passcomponenttable bus => Sys2Proof.Machine.execPasscomponenttable bus s
  | .updatecomponent bus => Sys2Proof.Machine.execUpdatecomponent bus s
  | .requestfirmwaredata bus data => Sys2Proof.Machine.execRequestfirmwaredata bus data s
  | .transfercomplete bus => Sys2Proof.Machine.execTransfercomplete bus s
  | .verifycomplete bus => Sys2Proof.Machine.execVerifycomplete bus s
  | .applycomplete bus => Sys2Proof.Machine.execApplycomplete bus s
  | .activatefirmware bus selfContained => Sys2Proof.Machine.execActivatefirmware bus selfContained s
  | .getstatus bus => Sys2Proof.Machine.execGetstatus bus s
  | .cancelupdatecomponent bus => Sys2Proof.Machine.execCancelupdatecomponent bus s
  | .cancelupdate bus => Sys2Proof.Machine.execCancelupdate bus s
  | .spdmRequest path msg => Sys2Proof.Machine.execSpdmRequest path msg s
  | .managerClaim port keyHash => Sys2Proof.Machine.execManagerClaim port keyHash s
  | .migkeyInstall keyHash key keyId => Sys2Proof.Machine.execMigkeyInstall keyHash key keyId s
  | .counterWrite src off v => Sys2Proof.Machine.execCounterWrite src off v s
  | .registerWrite src off size v => Sys2Proof.Machine.execRegisterWrite src off size v s
  | .perstNDeassert port => Sys2Proof.Machine.execPerstNDeassert port s
  | .registrarRestartDone => Sys2Proof.Machine.execRegistrarRestartDone s
  | .linkRetrainDone link => Sys2Proof.Machine.execLinkRetrainDone link s
  | .uartSpeedChange => Sys2Proof.Machine.execUartSpeedChange s
  | .safAgeUpdate r => Sys2Proof.Machine.execSafAgeUpdate r s
  | .unassignedInstruction p => Sys2Proof.Machine.execUnassignedInstruction p s

end Sys2Proof.Machine
end

