-- ==== Sys2Proof/Machine/Step.lean ====
section
/-!
DEFINITION. One step: the command at the front of the queue, run with the queue's rest; on an empty queue the Atrium
control island's clock ticks (log entry 4).
-/

namespace Sys2Proof.Machine

/-- An idle cycle of the Atrium control island (1.0 GHz, R13): DEV_TIME counts one (R15) while the device is powered. -/
def idle (s : State) : State :=
  if s.core.mode = .off then s else { s with core := { s.core with time := s.core.time + 1 } }

/-- Take the command at the front of the queue and run it on the state with the queue's rest. -/
def step (s : State) : Host.Outcome State Fault Refusal :=
  match s.pending with
  | [] => .next (idle s)
  | c :: cs => exec c { s with pending := cs }

/-- The state with the command that a table word spells put at the front of its queue. The opcode table gives no row any
bits, so no word spells a command (log entry 5). -/
def State.withFetchWord (s : State) (nbits w : Nat) : State :=
  match Sys2Proof.decodeTableWord nbits w with
  | some c => { s with pending := c :: s.pending }
  | none => s

end Sys2Proof.Machine
end

