-- ==== Sys2Proof/Safety.lean ====
section
/-!
DEFINITION. What claims about the machine are stated in: when an instruction of a gallery issues, what its completion leaves, which
commands move the mode or act without power, and what a legal mode, a canonical memory and a safe outcome are.
-/

namespace Sys2Proof.Machine

/-! ### Outcomes -/

/-- A safe outcome: a next state. PWRGOOD_FALL while a dump is written is the one command that has another (R10, R58). -/
def Safe (o : Host.Outcome State Fault Refusal) : Prop := ∃ t, o = .next t

/-- The commands that act in every mode: the pins of the power sequence and of the host ports (R33, R56, R60, R43). -/
def actsOff : Instr → Bool
  | .pwrgoodRise _ => true
  | .pwrgoodFall => true
  | .pfailNFall => true
  | .pfailNRise => true
  | .hostPortReset _ _ => true
  | .perstNDeassert _ => true
  | _ => false

/-- The commands that may change the state of the mode arbiter (R31, R33): the pins of the power sequence, the ends of the ROM pass, of CONFIGURE,
of a drain, of a hold and of maintenance, the requests for a mode or a reset, faults that are not contained, whole-device maintenance, the
activation of firmware and the end of a recovery. -/
def movesMode : Instr → Bool
  | .pwrgoodRise _ => true
  | .pwrgoodFall => true
  | .pfailNFall => true
  | .pfailNRise => true
  | .dumpComplete _ _ => true
  | .dumpInvalidate => true
  | .romPassDone _ => true
  | .configureRecordsDone _ => true
  | .configureComplete _ => true
  | .devResetCold _ _ => true
  | .devResetWarm _ _ => true
  | .devResetRegistrar _ _ => true
  | .quiesce _ => true
  | .resume _ => true
  | .enterRecovery _ => true
  | .drainComplete => true
  | .drainTimeout => true
  | .holdTimeout => true
  | .maintenanceComplete => true
  | .thermalTrip _ => true
  | .sysrefLost => true
  | .formatVolume _ => true
  | .sanitise _ => true
  | .faultReport _ => true
  | .injectTimeout _ => true
  | .watchdogTimeout => true
  | .canaryLoop _ => true
  | .fwActivate _ => true
  | .recoveryFinish _ _ => true
  | .uartFinish _ => true
  | .setstateeffecterstates _ _ => true
  | .activatefirmware _ _ => true
  | .registerWrite _ _ _ _ => true
  | _ => false

/-- The device has power. -/
abbrev State.on (s : State) : Prop := s.core.mode ≠ .off

/-- The state with its blocks at `d`, and nothing else changed. -/
def State.withDev (s : State) (d : Dev) : State := { s with dev := d }

/-- The state with its mode arbiter and its blocks at `x`; the queue of commands unchanged. -/
def State.withAll (s : State) (x : CoreSt × Dev) : State := { s with core := x.1, dev := x.2 }

/-- The admin command `x` of opcode `op`, named by `ref`, is taken up: it is the first of its engine that waits in its queue, and the
Registrar, where it serves the opcode, takes commands (R22, R396, R397, R529). -/
def State.adminTakes (s : State) (ref : CmdRef) (op : Nat) (x : Cmd) : Prop :=
  s.on ∧ s.dev.take ref op isAdminOp = some x ∧ (op < 0x90 ∨ s.dev.saf.regRestart = false ∧ s.dev.saf.regHalted = false)

/-- The blocks with command `x` marked started. -/
def State.started (s : State) (x : Cmd) : Dev := s.dev.startCmd x.inst x.pair x.cid

/-- The management endpoint takes a message on a bus: the device is powered, the Registrar runs its image, the binding is the one in use
(R571). -/
def State.hears (s : State) (bus : MgmtBus) : Prop := s.on ∧ s.dev.mgmtUp s.core = true ∧ s.dev.busTaken bus = true

/-- The state with a management answer given, and nothing else changed. -/
def State.answers (s : State) (r : MgmtReply) : State := s.withDev (s.dev.reply r)

/-! ### Memory -/

/-- The memory of a state is in canonical form. -/
def State.memOk (s : State) : Prop := Memory.wf s.dev.mem = true

/-- The registers that a device reset itself writes: status, cause, the migration key's identity, the trip flag, and the counters of the events
it raises. -/
def resetWrites : List Nat :=
  [R.devStatus, R.devResetCause, R.insStatus, R.insMigkeyId 0, R.insMigkeyId 1, R.evtCntRaise, R.evtCntMerge, R.evtCntSat, R.pwrStatus]

/-- `t` is `s` after a power-on, cold or warm reset (R43). -/
structure State.resetTo (s t : State) : Prop where
  mode : t.core.mode = .rom ∧ t.core.prev = s.core.mode ∧ t.core.time = 0
  queue : t.pending = s.pending
  memory : ∀ a, t.dev.mem.get a = if a < Key.deviceEnd then 0 else s.dev.mem.get a
  blocks : t.dev.gals = {} ∧ t.dev.doc = {} ∧ t.dev.exc = {} ∧ t.dev.fol = {} ∧ t.dev.dma = {} ∧ t.dev.prv = {} ∧ t.dev.cat = {} ∧
    t.dev.sfl = [] ∧ t.dev.dram = {} ∧ t.dev.vol = {} ∧ t.dev.cfg = []
  kept : t.dev.freezeLog = s.dev.freezeLog ∧ t.dev.saf.repairLog = s.dev.saf.repairLog ∧ t.dev.saf.history = s.dev.saf.history ∧
    t.dev.saf.permanent = s.dev.saf.permanent ∧ t.dev.saf.returnRecord = s.dev.saf.returnRecord ∧ t.dev.ins.migKey = s.dev.ins.migKey
  registers : ∀ off, off ∉ resetWrites → keptMask off = 0 → t.dev.reg off = regReset off
  keptBits : ∀ off i, off ∉ resetWrites → (keptMask off).testBit i = true → (t.dev.reg off).toNat.testBit i = (s.dev.reg off).toNat.testBit i

/-- ALERT_N is asserted exactly while an enabled condition is true (R551). -/
def Dev.alertOk (d : Dev) : Prop :=
  d.flag R.pwrStatus 1 = true ↔ ∃ k < 5, d.flag R.pwrStatus (3 + k) = true ∧ d.flag R.pwrCtrl (8 + k) = true

/-- The memory cells that a byte written at device physical address `pa` goes to (R311, R359, R362, R364): its Atrium or local-store cell, or the
cell of its channel and, in a mirrored set, that of the copy; none where nothing is mapped. -/
def Dev.cellsOf (d : Dev) (pa : Nat) : List Nat :=
  match d.locate pa with
  | .sram k => [k]
  | .dram ch a mir => Key.dram ch a :: (match mir with
    | some (ch2, a2) => [Key.dram ch2 a2]
    | none => [])
  | _ => []

/-- The memory cells that a store of `n` bytes at address `a` through capability `x` on gallery `p` goes to (R306, R310, R312): local store, or
where the translation of the instance address leads, on the device or in a host's memory; the staging window takes no store. -/
def State.storeCells (s : State) (p : Fin 136) (x : Cap) (a n : Nat) : List Nat :=
  match x.space with
  | 0 => (List.range n).map (fun j => Key.localStore p.val (a + j))
  | 1 => (match s.dev.translate x.inst a (s.dev.galleryWho p.val).tlb true with
    | .dev pa => (List.range n).flatMap (fun j => s.dev.cellsOf (pa + j))
    | .host port sp h => (List.range n).map (fun j => Key.host port sp (h + j))
    | _ => [])
  | _ => []

/-! ### Modes (R30 to R42, R56 to R63) -/

/-- What the mode arbiter always keeps: the last change of mode is one that R33 permits; OFF is exactly PWRGOOD low; QUIESCED has
something that asked for it, and nothing is asked for in any other powered mode; SERVICE, QUIESCED and the held state of a quiesce come
after SERVICE was entered; while a dump is written the dump point stands and the device has power. -/
structure CoreSt.legal (c : CoreSt) : Prop where
  permitted : c.prev.permits c.mode = true
  power : c.mode = .off ↔ c.pwrgood = false
  asked : c.mode = .quiesced → c.quiesceFor.isSome = true
  unasked : c.quiesceFor.isSome = true → c.mode = .quiesced ∨ c.mode = .off
  served : c.mode = .service ∨ c.mode = .quiesced → c.served = true
  dump : c.dumping = true → c.dumpHold = true ∧ c.dumpTaken = true ∧ c.mode ≠ .off

/-! ### Instructions of a gallery (R302, R303, R323) -/

/-- An instruction of physical gallery `p` issues: the device is powered, the core executes, no asynchronous cause is due at this
boundary, and the fetch passes its checks. -/
abbrev Issues (s : State) (p : Fin 136) : Prop :=
  s.on ∧ s.dev.executes p.val = true ∧ (s.dev.core p.val).asyncDue = none ∧ s.dev.fetchCheck p.val = none

/-- Gallery `p` with its core at `k`, past the instruction. -/
def State.past (s : State) (p : Fin 136) (k : Gallery) : State :=
  s.withDev (s.dev.setCore p.val { k with pc := (s.dev.core p.val).pc + 4 })

/-- Gallery `p` having taken an exception outside the shadow bank that VBCC can take (R322). -/
def State.taken (s : State) (p : Fin 136) (x : Exc) : State :=
  s.withDev ((s.dev.setCore p.val ((s.dev.core p.val).enter x)).count (R.galCntExc p.val))

/-- The instructions of a gallery that compute on its registers, move its PC within PCC or take an exception, and touch no memory: with their
gallery. -/
def registerOnly : Instr → Option (Fin 136)
  | .integerAlu p _ _ _ _ _ => some p
  | .multiplyDivide p _ _ _ _ _ => some p
  | .bitManipulation p _ _ _ _ => some p
  | .ccopy p _ _ => some p
  | .cstrip p _ _ => some p
  | .capInspect p _ _ _ => some p
  | .cwindow p _ _ _ => some p
  | .ckeep p _ _ _ => some p
  | .cinst p _ _ _ _ => some p
  | .cbind p _ _ _ _ => some p
  | .cunbind p _ _ _ _ => some p
  | .branch p _ _ _ _ => some p
  | .jump p _ _ => some p
  | .wfe p => some p
  | .trap p _ => some p
  | .brk p => some p
  | .setvl p _ _ _ => some p
  | .vwake p => some p
  | .svHash p _ _ _ _ => some p
  | .unassignedInstruction p => some p
  | .ccrr p _ _ _ => some p
  | .ccrw p _ _ _ => some p
  | .ccrrc p _ _ _ => some p
  | .ccrwc p _ _ _ => some p
  | .eret p => some p
  | .vsetsc p _ => some p
  | .vrdstate p _ _ => some p
  | .vectorAlu p _ _ _ _ _ _ _ => some p
  | .vectorWidenMultiply p _ _ _ _ _ _ => some p
  | .vhcrc p _ _ _ _ => some p
  | .vhmul p _ _ _ => some p
  | .vdrescale p _ _ _ => some p
  | .vdfromi p _ _ _ => some p
  | .vlacc p _ _ _ => some p
  | .vlacci p _ _ _ => some p
  | .vladd p _ _ _ _ => some p
  | .vdot4b p _ _ _ _ _ _ => some p
  | .vdot2h p _ _ _ _ _ _ => some p
  | .vdot2w p _ _ _ _ _ _ => some p
  | .vectorCompare p _ _ _ _ _ => some p
  | .vdcmp p _ _ _ _ _ => some p
  | .vlnarrow p _ _ _ => some p
  | .vectorReduction p _ _ _ _ _ _ => some p
  | .vcpop p _ _ => some p
  | .vcompress p _ _ _ => some p
  | .vexpand p _ _ _ => some p
  | .vectorPermute p _ _ _ _ _ => some p
  | .vcx p _ _ _ _ _ _ => some p
  | .vectorMove p _ _ _ _ => some p
  | .vlred p _ _ _ => some p
  | .vdadd p _ _ _ _ => some p
  | .vdsub p _ _ _ _ => some p
  | .vdmul p _ _ _ _ => some p
  | .vddiv p _ _ _ _ => some p
  | .vdmin p _ _ _ _ => some p
  | .vdmax p _ _ _ _ => some p
  | .svAlu p _ _ _ _ _ _ _ => some p
  | .svMultiply p _ _ _ _ _ _ _ _ => some p
  | .svCompare p _ _ _ _ _ => some p
  | _ => none

/-- Blocks `e` differ from blocks `d` at most in gallery `p`'s core, in registers (its counters, and what a counter that sticks sets), in pending
events and in the free values drawn. -/
def Dev.onlyGallery (d e : Dev) (p : Nat) : Prop :=
  ({ e with gals := d.gals, regs := d.regs, evt := d.evt, fresh := d.fresh } : Dev) = d ∧
  ({ e.gals with core := d.gals.core } : GalsSt) = d.gals ∧ ∀ q, q ≠ p → e.core q = d.core q

/-- A long-vector instruction of gallery `p` issues: the datapath is on and elements are left below VL (R338, R355). -/
abbrev VecIssues (s : State) (p : Fin 136) : Prop :=
  Issues s p ∧ (s.dev.core p.val).lvu = .on ∧ (s.dev.core p.val).vstart < (s.dev.core p.val).vl

/-- The blocks of `s` with gallery `p`'s core at `k`, past a long-vector instruction that moved `bytes` bytes: VSTART is zero, and the
counters of R358 count it. -/
def State.devPastVec (s : State) (p : Fin 136) (k : Gallery) (bytes : Nat) : Dev :=
  let d := s.dev.setCore p.val { k with vstart := 0, pc := (s.dev.core p.val).pc + 4 }
  (d.count (R.galVcntLinst p.val)).count (R.galVcntBytes p.val) bytes

/-- Gallery `p` with its core at `k`, past a long-vector instruction that moved `bytes` bytes. -/
def State.pastVec (s : State) (p : Fin 136) (k : Gallery) (bytes : Nat) : State := s.withDev (s.devPastVec p k bytes)

/-- Vector register `vd` with every active element `i` of `w` bits at the result of `f` on its old value; none where an element meets a
cause (R338, R350). -/
def Gallery.elemsInto (k : Gallery) (vm : Bool) (w vd : Nat) (f : Nat → Nat → Except Exc Nat) : Option Nat :=
  (k.active vm).foldl (fun (r : Option Nat) (i : Nat) => match r with
    | none => none
    | some v => (match f (elem w v i) i with
      | .ok x => some (setElem w v i x)
      | .error _ => none)) (some (k.vreg vd))

/-- The blocks, and vector register `vd`, after every active element is loaded from offset `off i` of capability register `reg`; none where
one meets a cause (R347, R350). -/
def State.elemsFrom (s : State) (p : Fin 136) (k : Gallery) (reg vd : Nat) (vm gather : Bool) (off : Nat → Nat) : Option (Dev × Nat) :=
  let x := k.getC reg
  let w := sewBits k.vtype
  (k.active vm).foldl (fun (r : Option (Dev × Nat)) (i : Nat) => match r with
    | none => none
    | some (d, v) => (match elemCheck x reg (2 ^ Perm.load) (off i) (w / 8) with
      | some _ => none
      | none => (match d.coreLoad s.core p.val x reg (x.base + off i) (w / 8) with
        | (d, .ok bs) => some (if gather then d.count (R.galVcntGselem p.val) else d, setElem w v i (ofLE bs))
        | (_, .error _) => none))) (some (s.dev, k.vreg vd))

/-- The blocks after every active element of vector register `vd` is stored at offset `off i` of capability register `reg`, one by one;
none where one meets a cause (R347, R350). -/
def State.elemsTo (s : State) (p : Fin 136) (k : Gallery) (reg vd : Nat) (vm scatter : Bool) (off : Nat → Nat) : Option Dev :=
  let x := k.getC reg
  let w := sewBits k.vtype
  (k.active vm).foldl (fun (r : Option Dev) (i : Nat) => match r with
    | none => none
    | some d => (match elemCheck x reg (2 ^ Perm.store) (off i) (w / 8) with
      | some _ => none
      | none => (match storeElem s.core p.val reg x (off i) (toLE (w / 8) (elem w (k.vreg vd) i)) d with
        | .ok d => some (if scatter then d.count (R.galVcntGselem p.val) else d)
        | .error _ => none))) (some s.dev)

/-- The blocks `d`, with gallery `p` past a long-vector instruction that moved `bytes` bytes (R338, R358). -/
def Dev.pastVec (d : Dev) (p : Fin 136) (bytes : Nat) : Dev :=
  let e := d.setCore p.val { d.core p.val with vstart := 0, pc := (d.core p.val).pc + 4 }
  (e.count (R.galVcntLinst p.val)).count (R.galVcntBytes p.val) bytes

/-- Gallery `p` with its core at `k`, past a short-vector instruction. -/
def State.pastShort (s : State) (p : Fin 136) (k : Gallery) : State :=
  s.withDev ((s.dev.setCore p.val { k with pc := (s.dev.core p.val).pc + 4 }).count (R.galVcntSinst p.val))

end Sys2Proof.Machine
end

