-- ==== Sys2Proof/Certificates/Slice0/Obligations.lean ====
section
/-!
DEFINITION. The statements about the model, for the provers: that every command completes and what it leaves (by family of the opcode table), what a step does
with the queue, the frames, the invariant that every step keeps, and rules of the spec about resets, counters, alerts, exceptions and exact arithmetic.
Each docstring names the rules of spec/ that the statement rests on and the log entries whose choices it uses.
-/

section

open Sys2Proof Sys2Proof.Machine

/-- The pins of the power sequence and the write-buffer dump complete (R33, R43, R56, R57, R60 to R62, R538): what PWRGOOD, PFAIL_N and the dump's
own happenings do in the modes that let them act, and the one stop of the model (R58: PWRGOOD falls while a dump is written). -/
def Obligations.PowerPinsComplete : Prop :=
  (∀ (s : State) (g : Bool), s.core.mode = .off → ∃ t, exec (.pwrgoodRise g) s = .next t ∧ t.core.mode = .rom ∧ t.core.prev = .off ∧
    t.core.time = 0 ∧ t.core.pwrgood = true ∧ t.core.served = false ∧ t.core.gpio0Low = g ∧ t.pending = s.pending) ∧
  (∀ s : State, s.on → s.core.dumping = false → ∃ t, exec .pwrgoodFall s = .next t ∧
    t.core = { s.core with mode := .off, prev := s.core.mode, pwrgood := false } ∧ t.pending = s.pending ∧
    t.dev.evLog = (s.dev.logEvent s.core.time 1 0 0 (toLE 1 s.core.mode.code ++ toLE 1 Mode.off.code)).evLog ∧
    t.dev.pwr = { s.dev.pwr with trip := false } ∧ t.dev.mem = s.dev.mem ∧ t.dev.acc = s.dev.acc) ∧
  (∀ s : State, s.core.dumping = true → exec .pwrgoodFall s = .fault .integratorBreach) ∧
  (∀ s : State, s.core.mode = .service → s.core.dumping = false → s.core.dumpHold = false → ∃ t u, exec .pfailNFall s = .next t ∧
    t.core = { s.core with pfailLow := true, dumping := true, dumpHold := true, dumpTaken := true } ∧
    t.dev.acc.dump = some u ∧ u.blocks = s.dev.xq.buffer ∧ u.flagged = false ∧ u.valid = false) ∧
  (∀ s : State, exec .pfailNRise s = .next (s.withAll ({ s.core with pfailLow := false }, s.dev))) ∧
  (∀ (s : State) (us : BitVec 16) (m : BitVec 19) (u : Dump), s.on → s.core.dumping = true → s.dev.acc.dump = some u → m.toNat ≤ 262144 →
    ∃ t, exec (.dumpComplete us m) s = .next t ∧ t.core = { s.core with dumping := false } ∧
      t.dev.acc.dump = some { u with valid := true } ∧
      t.dev.reg R.devPfail = BitVec.ofNat 64 (us.toNat <<< 48 + b2n u.flagged <<< 45 + (bufferUsed u.blocks + m.toNat) % 2 ^ 32)) ∧
  (∀ s : State, s.on → s.core.dumpHold = true → s.core.pfailLow = false → s.core.pwrgood = true → s.core.dumping = false →
    s.core.mode ≠ .safeStop → s.core.passDone = false → exec .dumpInvalidate s = .next (s.withAll
      ({ s.core with dumpHold := false, dumpTaken := false, lowAtRise := false }, if s.core.dumpTaken then s.dev.dropDump s.core else s.dev))) ∧
  (∀ s : State, s.core.mode = .rom → s.core.dumpHold = true → s.core.pfailLow = false → s.core.pwrgood = true → s.core.dumping = false →
    s.core.passDone = true → ∃ t, exec .dumpInvalidate s = .next t ∧
      t.core = { s.core with dumpHold := false, dumpTaken := false, lowAtRise := false, passDone := false, mode := .configure, prev := .rom }) ∧
  (∀ (s : State) (u : Dump), s.on → s.core.mode ≠ .rom → s.core.dumping = false → s.dev.acc.dump = some u → u.valid = true →
    u.flagged = false → exec .dumpReplay s = .next (s.withDev (s.dev.replayDump s.core))) ∧
  (∀ (s : State) (src : Source) (u : Dump), s.on → s.core.mode ≠ .safeStop → s.core.served = true → s.dev.isManager s.core src = true →
    s.dev.acc.dump = some u → u.valid = true → u.flagged = true → u.ordered = false →
    exec (.dumpActionReplay src) s = .next (s.withDev (({ s.dev with acc := { s.dev.acc with dump := some { u with ordered := true } } }.setFlag
      R.devStatus 9 false).replayDump s.core)) ∧
    exec (.dumpActionDiscard src) s = .next (s.withDev (s.dev.endDump s.core false)))

/-- What the boot ROM, CONFIGURE and the device resets do completes (R33, R43, R46 to R51, R55, R65): each clause names the next state, under
the mode and, for a reset, the right to ask for it. -/
def Obligations.StartupComplete : Prop :=
  (∀ (s : State) (r : RomReport), s.core.mode = .rom → s.core.passDone = false → r.fatal = none → s.core.toRecovery = false → s.core.gpio0Low = false →
    exec (.romPassDone r) s = .next (s.withAll (boot (s.core, s.dev.romFindings s.core r)))) ∧
  (∀ (s : State) (r : RomReport), s.core.mode = .rom → s.core.passDone = false → r.fatal = none → s.core.toRecovery = true ∨ s.core.gpio0Low = true →
    ∃ t, exec (.romPassDone r) s = .next t ∧ t.core = { s.core with mode := .recovery, prev := .rom } ∧ t.pending = s.pending) ∧
  (∀ (s : State) (r : RomReport) (u : UnitRef), s.core.mode = .rom → s.core.passDone = false → r.fatal = some u → s.core.served = false →
    ∃ t, exec (.romPassDone r) s = .next t ∧ t.core.mode = .safeStop ∧ t.core.prev = .rom ∧ t.dev.evLog.frozen = true ∧
      t.dev.saf.log.frozen = true) ∧
  (∀ (s : State) (r : ConfigReport), s.core.mode = .configure → s.dev.cfg = [] →
    exec (.configureRecordsDone r) s = .next (s.withAll (match configOf (s.dev.streamOf s.dev.runningSlot) with
      | some rs => (s.core, (s.dev.loadFirmware (s.dev.streamOf s.dev.runningSlot)).configureWith s.core r (s.dev.streamOf s.dev.runningSlot) rs)
      | none => slotRetry (s.core, s.dev)))) ∧
  (∀ (s : State) (r : PartnerReport), s.core.mode = .configure → s.core.served = false → s.dev.cfg ≠ [] →
    (∀ m ∈ s.dev.acc.maint, m.volume ≠ 0xFFFF) →
    ∃ t, exec (.configureComplete r) s = .next t ∧ t.core.mode = .service ∧ t.core.prev = .configure ∧ t.core.served = true ∧
      t.core.failedA = false ∧ t.core.failedB = false ∧ t.core.quiesceFor = none ∧ t.pending = s.pending) ∧
  (∀ (s : State) (src : Source), s.on → s.dev.mayRequest src = true →
    exec (.devResetCold src 0x5A3C) s = .next (s.withAll (deviceReset .cold (resetSource src) false (s.core, s.dev))) ∧
    exec (.devResetWarm src 0x5A3C) s = .next (s.withAll (deviceReset (if s.core.mode = .safeStop then .warmAsCold else .warm)
      (resetSource src) false (s.core, s.dev)))) ∧
  (∀ (s : State) (src : Source), s.on → s.dev.mayRequest src = true → s.core.mode ≠ .rom → s.core.mode ≠ .recovery →
    exec (.devResetRegistrar src 0x5A3C) s = .next (s.withDev (s.dev.restartRegistrar s.core 2)))

/-- Quiescing, resuming, recovery, the drain and the end of maintenance complete (R33, R35, R36, R65, R412, R433). -/
def Obligations.ModeRequestsComplete : Prop :=
  (∀ (s : State) (src : Source), s.core.mode = .service → s.dev.mayRequest src = true →
    ∃ t, exec (.quiesce src) s = .next t ∧ t.pending = s.pending ∧ t.core =
      { s.core with mode := .quiesced, prev := .service, quiescedAt := s.core.time.toNat, quiesceFor := some .hold, drained := false }) ∧
  (∀ (s : State) (src : Source), s.core.mode = .quiesced → s.core.quiesceFor = some .hold → s.core.served = true → s.dev.mayRequest src = true →
    ∃ t, exec (.resume src) s = .next t ∧ t.core = { s.core with mode := .service, prev := .quiesced, quiesceFor := none, drained := false }) ∧
  (∀ (s : State) (src : Source), s.on → s.dev.mayRequest src = true →
    ∃ t, exec (.enterRecovery src) s = .next t ∧ t.core.mode = .rom ∧ t.core.toRecovery = true ∧ t.core.prev = s.core.mode ∧ t.core.time = 0) ∧
  (∀ s : State, s.core.mode = .quiesced → s.core.quiesceFor = some .hold → s.core.drained = false → drainDone .hold s.dev = true →
    exec .drainComplete s = .next (s.withAll ({ s.core with drained := true }, s.dev))) ∧
  (∀ (s : State) (i q cid : Nat) (x : Cmd) (m : Maint) (a : Bool) (b : Nat), s.core.mode = .quiesced → s.core.drained = false →
    s.core.quiesceFor = some (.maintenance (i, q, cid) a b) → drainDone (.maintenance (i, q, cid) a b) s.dev = true →
    s.dev.cmd i q cid = some x → maintOf x = some m →
    ∃ t, exec .drainComplete s = .next t ∧ t.core = { s.core with mode := .maintenance, prev := .quiesced, quiesceFor := none, drained := false }) ∧
  (∀ (s : State) (cmd : Option (Nat × Nat × Nat)) (p : Bool), s.core.mode = .quiesced → s.core.drained = false → s.core.served = true →
    s.core.quiesceFor = some (.activate cmd p) → drainDone (.activate cmd p) s.dev = true → stillWaits (.activate cmd p) s.dev = true →
    ∃ t, exec .drainComplete s = .next t ∧ t.core = { s.core with mode := .service, prev := .quiesced, quiesceFor := none, drained := false }) ∧
  (∀ (s : State) (q : QuiesceFor), s.core.mode = .quiesced → s.core.drained = false → s.core.quiesceFor = some q → s.core.served = true →
    ∃ t, exec .drainTimeout s = .next t ∧ t.core = { s.core with mode := .service, prev := .quiesced, quiesceFor := none, drained := false }) ∧
  (∀ s : State, s.core.mode = .quiesced → s.core.quiesceFor = some .hold → s.core.drained = true → s.core.served = true →
    ∃ t, exec .holdTimeout s = .next t ∧ t.core = { s.core with mode := .service, prev := .quiesced, quiesceFor := none, drained := false }) ∧
  (∀ (s : State) (m : Maint), s.core.mode = .maintenance → s.core.served = true → s.dev.wholeMaintDone = some m →
    ∃ t, exec .maintenanceComplete s = .next t ∧
      t.core = { s.core with mode := .service, prev := .maintenance, quiesceFor := none, drained := false })

/-- What happens on the host ports and their functions completes (R43, R51, R53, R411, R498, R502, R542, R550). -/
def Obligations.HostPortsComplete : Prop :=
  (∀ (s : State) (p : Fin 4) (perst : Bool), ∃ t, exec (.hostPortReset p perst) s = .next t ∧ t.core = s.core ∧ t.pending = s.pending ∧
    (t.dev.port p.val).linkUp = false ∧ (t.dev.port p.val).vfs = 0 ∧ (t.dev.port p.val).turn = none ∧
    (perst = true → (t.dev.port p.val).perstLow = true)) ∧
  (∀ (s : State) (p : Fin 4), ∃ t, exec (.perstNDeassert p) s = .next t ∧ t.core = s.core ∧
    t.dev.port p.val = { s.dev.port p.val with perstLow := false }) ∧
  (∀ (s : State) (p : Fin 4) (speed : BitVec 4) (width : BitVec 8) (flit : Bool), s.on → (s.dev.port p.val).perstLow = false →
    (s.dev.port p.val).linkUp = false → ∃ t, exec (.hostLinkUp p speed width flit) s = .next t ∧ t.core = s.core ∧ t.dev.port p.val =
      { s.dev.port p.val with linkUp := true, speed := speed.toNat, width := min (s.dev.port p.val).lanes width.toNat, flit := flit || speed == 6 }) ∧
  (∀ (s : State) (p : Fin 4) (fn : Fin 65) (i : Nat), s.on → s.dev.presented p.val fn.val = some i → exec (.functionReset p fn) s = .next (s.withDev
    ({ s.dev with xq := { s.dev.xq with funcs := del s.dev.xq.funcs (p.val * 65 + fn.val) } }.functionReset i))) ∧
  (∀ (s : State) (p : Fin 4) (fn : Fin 65), s.on →
    (∀ r, (s.dev.port p.val).linkUp = true → ∃ t, exec (.pcieConfigRequest p fn (.read r)) s = .next t ∧ t.core = s.core ∧
      t.dev.xq.answers = (p.val, fn.val, r.toNat, s.dev.configRead p.val fn.val r.toNat) :: s.dev.xq.answers) ∧
    (∀ r v, ∃ t, exec (.pcieConfigRequest p fn (.write r v)) s = .next t ∧
      find (t.dev.func p.val fn.val).config r.toNat = some v.toNat) ∧
    (∀ e m, ∃ t, exec (.pcieConfigRequest p fn (.msix e m)) s = .next t ∧
      t.dev.func p.val fn.val = { s.dev.func p.val fn.val with msixEnable := e, funcMask := m }) ∧
    (∀ e, ∃ t, exec (.pcieConfigRequest p fn (.ats e)) s = .next t ∧ t.dev.func p.val fn.val = { s.dev.func p.val fn.val with ats := e }) ∧
    (∀ n, fn.val = 0 → ∃ t, exec (.pcieConfigRequest p fn (.numVfs n)) s = .next t ∧ (t.dev.port p.val).vfs = n.val)) ∧
  (∀ (s : State) (p : Fin 4) (fn : Fin 65), exec (.atsInvalidation p fn) s = .next s) ∧
  (∀ (s : State) (k : Fin 19), s.core.mode.canStop = true → ∃ t, exec (.thermalTrip k) s = .next t ∧ t.core.mode = .safeStop ∧
    t.core.prev = s.core.mode ∧ t.dev.pwr.trip = true) ∧
  (∀ s : State, s.core.mode.canStop = true → s.core.pwrgood = true → ∃ t, exec .sysrefLost s = .next t ∧ t.core.mode = .safeStop ∧
    t.core.prev = s.core.mode)

/-- Doorbells, enabling, resets and the fetch of submission entries complete (R389 to R394, R397, R411). -/
def Obligations.QueueFetchComplete : Prop :=
  (∀ (s : State) (i : BitVec 8) (q : Fin 64) (v : BitVec 64) (p : Pair), s.on → s.dev.windowOpen s.core i.toNat = true →
    s.dev.pair i.toNat q.val = some p → p.stopped = false → fld v 15 0 < p.size →
    exec (.sqDoorbell i q v) s = .next (s.withDev (s.dev.setPair i.toNat q.val { p with sqTail := fld v 15 0 }))) ∧
  (∀ (s : State) (i : BitVec 8) (q : Fin 64) (v : BitVec 64) (p : Pair), s.on → s.dev.windowOpen s.core i.toNat = true →
    s.dev.pair i.toNat q.val = some p → p.stopped = false → fld v 15 0 < p.size →
    (fld v 15 0 + p.size - p.cqHead) % p.size ≤ p.posted →
    exec (.cqDoorbell i q v) s = .next (s.withDev (s.dev.setPair i.toNat q.val
      { p with cqHead := fld v 15 0, posted := p.posted - (fld v 15 0 + p.size - p.cqHead) % p.size }))) ∧
  (∀ (s : State) (i : BitVec 8), s.on → s.dev.windowOpen s.core i.toNat = true → s.dev.flag (R.xqWCc i.toNat) 0 = false →
    i.toNat ∈ s.dev.xq.resetting → exec (.xqEnable i) s = .next (s.withDev (s.dev.setFlag (R.xqWCc i.toNat) 0 true))) ∧
  (∀ (s : State) (i : BitVec 8), s.on → s.dev.windowOpen s.core i.toNat = true → s.dev.flag (R.xqWCc i.toNat) 0 = false →
    i.toNat ∉ s.dev.xq.resetting → 2 ≤ s.dev.getF (R.xqWAqa i.toNat) 12 0 → s.dev.getF (R.xqWAqa i.toNat) 12 0 ≤ 4096 →
    ∃ t p, exec (.xqEnable i) s = .next t ∧ t.dev.pair i.toNat 0 = some p ∧ p.size = s.dev.getF (R.xqWAqa i.toNat) 12 0 ∧
      p.sq = (s.dev.reg (R.xqWAsq i.toNat)).toNat ∧ p.cq = (s.dev.reg (R.xqWAcq i.toNat)).toNat ∧ p.sqHead = 0 ∧ p.sqTail = 0 ∧
      p.cqHead = 0 ∧ p.cqTail = 0 ∧ p.phase = true ∧ p.stopped = false) ∧
  (∀ (s : State) (i : BitVec 8), s.core.mode = .service ∨ s.core.mode = .maintenance → s.dev.flag (R.xqWCc i.toNat) 0 = true →
    s.dev.flag (R.xqWCsts i.toNat) 2 = false → i.toNat ∉ s.dev.xq.resetting → (s.dev.pair i.toNat 0).isSome = true →
    exec (.xqReady i) s = .next (s.withDev ((s.dev.setFlag (R.xqWCsts i.toNat) 0 true).setFlag (R.xqInst i.toNat) 63 true))) ∧
  (∀ (s : State) (i : BitVec 8), s.on → s.dev.windowOpen s.core i.toNat = true → s.dev.flag (R.xqWCc i.toNat) 0 = true →
    exec (.controllerReset i) s = .next (s.withDev (s.dev.controllerReset s.core i.toNat))) ∧
  (∀ (s : State) (p : Fin 4) (i q : Nat) (qs : List Nat), s.on → fetchOpen s.core = true → (s.dev.port p.val).turn = none →
    (s.dev.port p.val).linkUp = true → s.dev.nextInstance p.val = some i → s.dev.pairOrder p.val i = q :: qs →
    ∃ t, exec (.fetchTurn p) s = .next t ∧ t.core = s.core ∧ (t.dev.port p.val).turn = some (i, q, s.dev.fetchable i q) ∧
      (t.dev.port p.val).rrInst = i) ∧
  (∀ (s : State) (p : Fin 4) (i q n : Nat), s.on → (s.dev.port p.val).turn = some (i, q, n) →
    exec (.entryFetched p) s = .next (s.withDev ((List.range n).foldl (fun d _ => d.entryArrives s.core i q)
      (s.dev.setPort p.val { s.dev.port p.val with turn := none })))) ∧
  (∀ (s : State) (ref : CmdRef) (w : BitVec 16) (x : Cmd), s.on → s.dev.cmd ref.inst.toNat ref.pair.val ref.cid.toNat = some x →
    x.started = false → 0x90 ≤ x.op → exec (.adminBusyTimeout ref w) s =
      .next (s.withDev ((s.dev.count R.xqCntAdmbusy).finish s.core x (max 1 (min 1000 w.toNat)) 0x0500)))

/-- The storage commands complete (R398 to R410): admission, the checks, the fetch of a write's data, insertion, the data of a read, a
flush, a deallocation and the drain. -/
def Obligations.StorageComplete : Prop :=
  (∀ (s : State) (ref : CmdRef) (x : Cmd), s.on → s.dev.xq.cmds.find? (fun x => x.inst == ref.inst.toNat && x.pair == ref.pair.val &&
      !x.started && isStorageOp x.op) = some x → x.cid = ref.cid.toNat →
    ∃ t, exec (.ouAdmit ref) s = .next t ∧ t.dev.xq = { (s.dev.startCmd x.inst x.pair x.cid).xq with ou := s.dev.xq.ou ++ [s.dev.ouOf x] }) ∧
  (∀ (s : State) (ref : CmdRef) (x : Cmd) (o : OuCmd) (g : List (Nat × Nat)) (b : Bool), s.on →
    s.dev.cmd ref.inst.toNat ref.pair.val ref.cid.toNat = some x → s.dev.ouCmd ref.inst.toNat ref.pair.val ref.cid.toNat = some o →
    o.op = 1 → o.checked = false → s.dev.checkRw x o true = .ok (g, b) →
    exec (.read ref) s = .next (s.withDev (s.dev.setOu { o with checked := true, segs := g, truncated := b }))) ∧
  (∀ (s : State) (ref : CmdRef) (x : Cmd) (o : OuCmd) (e : Dev) (bs : Bytes), s.on →
    s.dev.cmd ref.inst.toNat ref.pair.val ref.cid.toNat = some x → s.dev.ouCmd ref.inst.toNat ref.pair.val ref.cid.toNat = some o →
    o.op = 2 → o.data = none → o.checked = true → s.dev.waitsRead o = false →
    s.dev.readSegs s.core o.who o.inst o.segs = (e, .ok (bs, false)) →
    exec (.write ref) s = .next (s.withDev (e.setOu { o with data := some bs }).ouFlags)) ∧
  (∀ (s : State) (ref : CmdRef) (x : Cmd) (o y : OuCmd) (e : Dev) (g : List (Nat × Nat)) (b : Bool) (bs : Bytes), s.on →
    s.dev.cmd ref.inst.toNat ref.pair.val ref.cid.toNat = some x → s.dev.ouCmd ref.inst.toNat ref.pair.val ref.cid.toNat = some o →
    o.op = 2 → o.data = none → o.checked = false → s.dev.checkRw x o false = .ok (g, b) →
    y = { o with checked := true, segs := g, truncated := b } → (s.dev.setOu y).waitsRead y = false →
    (s.dev.setOu y).readSegs s.core y.who y.inst y.segs = (e, .ok (bs, false)) →
    exec (.write ref) s = .next (s.withDev (e.setOu { y with data := some bs }).ouFlags)) ∧
  (∀ (s : State) (ref : CmdRef) (o : OuCmd), s.on → s.dev.ouCmd ref.inst.toNat ref.pair.val ref.cid.toNat = some o → o.op = 3 →
    o.checked = false → o.volume = 0xFFFF ∨ s.dev.volumeCheck o.inst o.volume 0 0 = none →
    exec (.flush ref) s = .next (s.withDev ((s.dev.setOu { o with checked := true }).settleOu s.core))) ∧
  (∀ (s : State) (ref : CmdRef) (o : OuCmd), s.on → s.dev.ouCmd ref.inst.toNat ref.pair.val ref.cid.toNat = some o → o.op = 4 →
    o.checked = false → o.blocks ≠ 0 → s.dev.volumeCheck o.inst o.volume o.lba o.blocks = none → s.dev.failedVolume o.volume = false →
    exec (.deallocate ref) s = .next (s.withDev (s.dev.setOu { o with checked := true, data := some [] }))) ∧
  (∀ (s : State) (ref : CmdRef) (o : OuCmd) (bs : Bytes), s.on → s.dev.ouCmd ref.inst.toNat ref.pair.val ref.cid.toNat = some o →
    o.data = some bs → o.writes = true → o.inserted = none → s.dev.waitsWrite o = false → s.dev.waitsRead o = false →
    s.core.dumpHold = false → bufferUsed s.dev.xq.buffer + bs.length ≤ Config.writeBuffer → s.dev.failedVolume o.volume = false →
    exec (.writeInsert ref) s = .next (s.withDev (if o.fua then
        (o.chunks.foldl (fun d ch => d.drainChunk o.volume ch []) (s.dev.insertBlocks o bs)).settleOu s.core
      else (s.dev.insertBlocks o bs).endOu s.core (o.insertedAt s.dev.xq.inserted bs) (if o.truncated then 1 else 0)))) ∧
  (∀ (s : State) (ref : CmdRef) (bad : List (Fin 16 × Nat)) (o : OuCmd) (d e : Dev) (bs : Bytes), s.on →
    s.dev.ouCmd ref.inst.toNat ref.pair.val ref.cid.toNat = some o → o.op = 1 → o.checked = true → s.dev.waitsWrite o = false →
    s.dev.takeBlocks o bad = some (d, .ok bs) → d.writeSegs s.core o.who o.inst bs o.segs = (e, none) →
    exec (.readDataTaken ref bad) s = .next (s.withDev
      (((e.count R.volCntRdblk o.blocks).endOu s.core o (if o.truncated then 1 else 0)).settleOu s.core))) ∧
  (∀ (s : State) (bad : List (Fin 16 × Nat)) (e : BufBlock) (x : Vol), s.on → s.dev.xq.buffer.head? = some e →
    s.dev.volume e.volume = some x → s.dev.stripeFree e.volume x (x.stripe (e.first / 16)) = true → x.state ∈ [1, 2, 3] →
    exec (.drainStep bad) s = .next (s.withDev (s.dev.drainChunk e.volume (e.first / 16) (bad.map (fun b => (b.1.val, b.2))))))

/-- The admin commands that no other chapter has complete (R401 to R404): queues made and deleted, IDENTIFY, the logs, the counters, the
trace. -/
def Obligations.AdminComplete : Prop :=
  (∀ (s : State) (ref : CmdRef) (x : Cmd), s.adminTakes ref 0x80 x → le x.area 0x14 1 ≠ 0 → le x.area 0x14 1 ≤ 63 →
    (s.started x).pair x.inst (le x.area 0x14 1) = none → 2 ≤ le x.area 0x10 4 → le x.area 0x10 4 ≤ 65536 →
    le x.area 0 8 % 4096 = 0 → le x.area 8 8 % 4096 = 0 → le x.area 0x15 1 ≤ 63 →
    ∃ p : Pair, p.size = le x.area 0x10 4 ∧ p.sq = le x.area 0 8 ∧ p.cq = le x.area 8 8 ∧ p.vector = le x.area 0x15 1 ∧
      p.ien = bit (le x.area 0x16 1) 0 ∧ p.sqHead = 0 ∧ p.sqTail = 0 ∧ p.cqHead = 0 ∧ p.cqTail = 0 ∧ p.phase = true ∧
      exec (.createQueue ref) s = .next (s.withDev (((s.started x).setPair x.inst (le x.area 0x14 1) p).finish s.core x 0 0))) ∧
  (∀ (s : State) (ref : CmdRef) (x : Cmd) (p : Pair), s.adminTakes ref 0x81 x → le x.area 0 1 ≠ 0 →
    (s.started x).pair x.inst (le x.area 0 1) = some p → p.deleter = none →
    exec (.deleteQueue ref) s = .next (s.withDev (((((s.started x).setPair x.inst (le x.area 0 1)
      { p with stopped := true, deleter := some x.cid }).abortUnstarted s.core (fun y => y.inst == x.inst && y.pair == le x.area 0 1)).cancelRuns
        false (fun r => r.inst == x.inst && (match r.cmd with | some (q, _) => q == le x.area 0 1 | none => false))).settleDelete s.core
            x.inst (le x.area 0 1)))) ∧
  (∀ (s : State) (ref : CmdRef) (x : Cmd), s.adminTakes ref 0x88 x →
    (le x.area 8 1 = 0 → exec (.identify ref) s =
      .next (s.withDev ((s.started x).adminWrite s.core x (le x.area 0 8) ((s.started x).identifyDevice s.core) 0 0))) ∧
    (le x.area 8 1 = 1 → exec (.identify ref) s =
      .next (s.withDev ((s.started x).adminWrite s.core x (le x.area 0 8) ((s.started x).identifyInstance x.inst) 0 0)))) ∧
  (∀ (s : State) (ref : CmdRef) (x : Cmd) (n : Nat), s.adminTakes ref 0xC0 x → le x.area 0x14 1 ≤ 4 →
    x.inst = 0 ∨ le x.area 0x14 1 = 1 → n = min (le x.area 0x10 4) (logLength (le x.area 0x14 1) - le x.area 8 8) →
    exec (.logRead ref) s = .next (s.withDev ((s.started x).adminWrite s.core x (le x.area 0 8)
      ((s.started x).logBytes x.inst (le x.area 0x14 1) (le x.area 8 8) n) n
      (if logLength (le x.area 0x14 1) < le x.area 8 8 + le x.area 0x10 4 then 1 else 0)))) ∧
  (∀ (s : State) (ref : CmdRef) (x : Cmd), s.adminTakes ref 0xC1 x → le x.area 0xC 2 ≠ 0 → le x.area 0xC 2 ≤ 512 →
    le x.area 8 4 % 8 = 0 → (∀ k < le x.area 0xC 2, isCounter (le x.area 8 4 + 8 * k) = true) →
    exec (.counterRead ref) s = .next (s.withDev ((s.started x).adminWrite s.core x (le x.area 0 8)
      ((s.started x).counterWords s.core (le x.area 8 4) (le x.area 0xC 2)) 0 0))) ∧
  (∀ (s : State) (ref : CmdRef) (x : Cmd), s.adminTakes ref 0xC2 x → le x.area 0x10 1 = 0 →
    exec (.traceConfig ref) s = .next (s.withDev ((((s.started x).storeReg s.core .registrar R.docTraceBase
      (BitVec.ofNat 64 (le x.area 0 8))).storeReg s.core .registrar R.docTraceCtrl (BitVec.ofNat 64 (le x.area 8 8))).finish s.core x 0 0)))

/-- The pipeline commands complete (R124 to R130, R151): a load, an unload, a run, a cancel, a read of results. -/
def Obligations.PipelineCommandsComplete : Prop :=
  (∀ (s : State) (ref : CmdRef) (x : Cmd), s.on → s.dev.take ref 0x10 isDocentOp = some x → le x.area 0xC 1 ≤ 63 →
    s.dev.slotBusy x.inst (le x.area 0xC 1) = false → le x.area 8 4 = 0 →
    exec (.pipelineLoad ref) s = .next (s.withDev (({ s.dev with doc := { s.dev.doc with
      programs := del s.dev.doc.programs (64 * x.inst + le x.area 0xC 1) } }).finish s.core x 0 0))) ∧
  (∀ (s : State) (ref : CmdRef) (x : Cmd) (d d' : Dev) (h i : Bytes) (a : Nat), s.on → s.dev.take ref 0x10 isDocentOp = some x →
    le x.area 0xC 1 ≤ 63 → s.dev.slotBusy x.inst (le x.area 0xC 1) = false → 128 ≤ le x.area 8 4 →
    s.dev.docRead s.core x 0 (le x.area 0 8) 128 = (d, .ok h) → Image.imageBytes h ≤ le x.area 8 4 → Image.headerOk h = true →
    d.docRead s.core x 0 (le x.area 0 8) (Image.imageBytes h) = (d', .ok i) → Image.check i (le x.area 8 4) = none →
    d'.atriumUsed x.inst + Image.imageBytes i ≤ 1024 * (d'.inst x.inst).share.atriumKib → d'.atriumPlace (Image.imageBytes i) = some a →
    exec (.pipelineLoad ref) s = .next (s.withDev (({ d' with
        mem := d'.mem.setN (Key.atrium a) (i.take (Image.imageBytes i))
        doc := { d'.doc with programs := put d'.doc.programs (64 * x.inst + le x.area 0xC 1) { addr := a, bytes := Image.imageBytes i } } }).finish
      s.core x (Image.imageBytes i) (if Image.imageBytes i < le x.area 8 4 then 0x0001 else 0)))) ∧
  (∀ (s : State) (ref : CmdRef) (x : Cmd) (i : Image) (d : Dev) (params : Bytes) (h first : Nat) (places : List (Nat × Nat × Nat)),
    s.on → s.dev.take ref 0x11 isDocentOp = some x → le x.area 0xC 1 ≤ 63 → s.dev.image x.inst (le x.area 0xC 1) = some i →
    (∀ e ∈ s.dev.doc.runs, e.2.inst = x.inst → e.2.runId ≠ le x.area 0xE 2) → le x.area 0xD 1 < 8 ∨ le x.area 0xD 1 = 0xFF →
    i.paramBytes ≤ le x.area 8 4 → (s.dev.live.filter (fun (e : Nat × Run) => e.2.inst == x.inst)).length < Config.instRuns →
    s.dev.freeHandle.isSome = true → s.dev.docRead s.core x (le x.area 0xE 2) (le x.area 0 8) i.paramBytes = (d, .ok params) →
    d.boundFault (docWho (le x.area 0xE 2)) x.inst i params = none → i.runOk params = true → d.runShareOk x.inst i = true →
    d.freeHandle = some h → d.contextPlace i.contexts = some first → d.placeBuffers i (i.scratches ++ i.results) [] = some places →
    ∃ r : Run, r.inst = x.inst ∧ r.runId = le x.area 0xE 2 ∧ r.slot = le x.area 0xC 1 ∧
      r.prio = (if le x.area 0xD 1 = 0xFF then i.defaultPriority else le x.area 0xD 1) ∧ r.cmd = some (x.pair, x.cid) ∧ r.params = params ∧
      r.first = first ∧ r.contexts = i.contexts ∧ r.order = d.doc.accepted + 1 ∧
      r.scratch = places.filter (fun (p : Nat × Nat × Nat) => i.scratches.contains p.1) ∧
      r.results = places.filter (fun (p : Nat × Nat × Nat) => i.results.contains p.1) ∧
      exec (.pipelineRun ref) s = .next (s.withDev ((({ d.startCmd x.inst x.pair x.cid with
        doc := { d.doc with accepted := d.doc.accepted + 1 } }).setRun h r).settleRun s.core h))) ∧
  (∀ (s : State) (ref : CmdRef) (x : Cmd), s.on → s.dev.take ref 0x12 isDocentOp = some x →
    (∀ h, s.dev.liveRun x.inst (le x.area 0 2) = some h → exec (.pipelineCancel ref) s =
      .next (s.withDev { s.started x with doc := { s.dev.doc with
        cancels := s.dev.doc.cancels ++ [{ run := h, cmd := some (x.inst, x.pair, x.cid) }] } })) ∧
    (s.dev.liveRun x.inst (le x.area 0 2) = none → exec (.pipelineCancel ref) s = .next (s.withDev
      (s.dev.finish s.core x (if (s.dev.retained x.inst (le x.area 0 2)).isSome then 1 else 2) 0)))) ∧
  (∀ (s : State) (ref : CmdRef) (x : Cmd) (key n : Nat) (r : Run) (d : Dev) (bs : Bytes) (e : Who × Dev) (f : Dev), s.on →
    s.dev.take ref 0x13 isDocentOp = some x → s.dev.retained x.inst (le x.area 0x14 2) = some (key, r) →
    (∃ b ∈ r.results, b.1 = le x.area 0x16 1) →
    n = min (le x.area 0x10 4) (total ((r.ordered (le x.area 0x16 1)).map (fun (e : Extent) => e.bytes)) - le x.area 8 8) →
    d = each (spans (le x.area 8 8) n (r.ordered (le x.area 0x16 1))) (fun (e : Nat × Nat) (d : Dev) => d.acceptRange s.core false 1 e.1 e.2)
      s.dev →
    e = d.deviceChannel (le x.area 0x14 2) → e.2.readSpans (spans (le x.area 8 8) n (r.ordered (le x.area 0x16 1))) = .ok bs →
    e.2.writeInst s.core { e.1 with job := x.job } x.inst (le x.area 0 8) bs = (f, none) →
    exec (.resultRead ref) s = .next (s.withDev ((if bit (le x.area 0x17 1) 0 then f.releaseRun key else f).finish s.core x n
      (if total ((r.ordered (le x.area 0x16 1)).map (fun (e : Extent) => e.bytes)) < le x.area 8 8 + le x.area 0x10 4 then 0x0001 else 0)))) ∧
  (∀ (s : State) (src : Source) (v : BitVec 64), s.on → s.dev.isManager s.core src = true →
    exec (.docTcancel src v) s = .next (s.withDev (match s.dev.liveRun (fld v 63 56) (fld v 55 40) with
      | some h => { s.dev with doc := { s.dev.doc with cancels := s.dev.doc.cancels ++ [{ run := h, task := some (fld v 20 0) }] } }
      | none => s.dev.setFlag R.docStatus 2 true)))

/-- The commands of the Docent and of the galleries that no instruction makes complete (R129, R138, R143, R239 to R242, R321, R329 to R333,
R501, R544). -/
def Obligations.DocentComplete : Prop :=
  (∀ s : State, s.on → s.dev.flag R.docStatus 0 = true → exec .docentDecision s = .next (s.withDev
    ((((((({ s.dev with doc := { s.dev.doc with decision := s.dev.doc.decision + 1 } }).noticeStep s.core).cancelStep s.core).completionStep
      s.core).verdictStep s.core).releaseStep s.core).expandStep s.core |>.dispatchStep s.core))) ∧
  (∀ (s : State) (p : Fin 136) (v : BitVec 64) (w : TaskResult) (g key : Nat) (t : Task) (e : TaskEnv) (x : TaskEnd) (d f : Dev) (bad : Option Nat),
    s.on → (s.dev.core p.val).st = .done → (s.dev.core p.val).doneWrite = some v → s.dev.writesOut p.val = false →
    s.dev.taskEnv p.val = some (g, key, t, e) → s.dev.completing e.run key = false →
    ((0x100 ≤ fld v 15 0 ∨ e.i.customGroup t.template = true) ∧ d = s.dev ∧
        x = { status := if 0x100 ≤ fld v 15 0 then fld v 15 0 else e.mustFail.getD (fld v 15 0), op := w.op.toNat, rows := w.rows, written := w.written }) ∨
      (fld v 15 0 < 0x100 ∧ e.i.customGroup t.template = false ∧ ∃ u st, e.work = .error u ∧ e.mustFail = some st ∧ d = s.dev ∧
        x = { status := st, op := if u.status = 0 then e.partitionOp else u.op }) ∨
      (fld v 15 0 < 0x100 ∧ e.i.customGroup t.template = false ∧ ∃ u, e.work = .error u ∧ e.mustFail = none ∧ u.status ≠ 0 ∧ d = s.dev ∧
        x = { status := u.status, op := u.op }) ∨
      (fld v 15 0 < 0x100 ∧ e.i.customGroup t.template = false ∧ ∃ u st, e.work = .ok u ∧ e.mustFail = some st ∧ d = s.dev ∧
        x = { status := st, op := e.wants u }) ∨
      (fld v 15 0 < 0x100 ∧ e.i.customGroup t.template = false ∧ ∃ u q, e.work = .ok u ∧ e.mustFail = none ∧ e.stagedAll u = true ∧
        s.dev.takeSpill p.val e.r.inst u.need = some q ∧ d = (q.updRun e.run (fun r => { r with typing := r.typing.add u.ty })).draw.2 ∧
        x = e.finished (fld v 15 0) u) →
    d.putResults s.core e.who e.run key e.r x.written = (f, bad) → f.awaits e.who = false →
    ∃ y : Completion, y.gal = g ∧ y.run = e.run ∧ y.task = key ∧ y.status = (if 0x100 ≤ x.status then x.status else bad.getD x.status) ∧
      y.rows = x.rows ∧ y.op = x.op ∧ y.check = (if t.ledger then e.i.checkRecord t.template y.status x.written else []) ∧
      exec (.taskdone p v w) s = .next (s.withDev (f.offer y))) ∧
  (∀ (s : State) (g : Fin 128) (h key : Nat) (r : Run) (t : Task), s.on → find s.dev.doc.task g.val = some (h, key) →
    s.dev.run h = some r → find r.tasks key = some t → t.cancelReq = true → s.dev.completing h key = false →
    ∃ d, d = s.dev.loadCore (s.dev.phys g.val) ∧ exec (.cancelTimeout g) s = .next (s.withDev
      { d with doc := { d.doc with notices := d.doc.notices ++ [.coreReset g.val] } })) ∧
  (∀ s : State, s.on → exec .shareEpoch s = .next (s.withDev ({ s.dev with ins := { s.dev.ins with
    inst := s.dev.ins.inst.map (fun (e : Nat × Inst) => match e.2.nextShare with
      | some n => (e.1, { e.2 with share := n, nextShare := none })
      | none => e) } }).dmaBalance)) ∧
  (∀ (s : State) (run : Fin 1024) (task : BitVec 21) (r : Run) (i : Image) (v : Verdict) (d : Dev), s.on → s.dev.run run.val = some r →
    s.dev.runImage run.val = some i → task.toNat + 1 < r.contexts → (r.task i task.toNat).copy = 0 → (r.task i task.toNat).ledger = true →
    (∀ x ∈ s.dev.doc.verdicts, x.1 = run.val → x.2.1 ≠ task.toNat) →
    ledgerVerdictOf (r.task i task.toNat) (r.task i (task.toNat + 1)) (find r.tasks (thirdKey task.toNat)) = some v →
    d = { s.dev with doc := { s.dev.doc with verdicts := s.dev.doc.verdicts ++ [(run.val, task.toNat, v)] } } →
    exec (.ledgerVerdict run task) s = .next (s.withDev (match (find r.tasks (thirdKey task.toNat)).bind (fun t =>
        outvoted (r.task i task.toNat) (r.task i (task.toNat + 1)) t v) with
      | some g => d.outvote s.core (d.phys g)
      | none => d))) ∧
  (∀ (s : State) (p : Fin 136) (g : Nat) (d : Dev) (k : Gallery), s.on → (s.dev.logicalOf p.val).getD 0xFF = g → g ∈ s.dev.doc.tcancels →
    d = { s.dev with doc := { s.dev.doc with tcancels := s.dev.doc.tcancels.erase g } } → s.dev.core p.val = k →
    (k.st = .asleep → exec (.taskCancel p) s = .next (s.withDev (d.setCore p.val { k with st := .waking, cancelPending := true }))) ∧
    (k.st = .waking → exec (.taskCancel p) s = .next (s.withDev (d.setCore p.val { k with cancelPending := true }))) ∧
    (k.st = .run ∨ k.st = .wfe → k.shadow = true →
      exec (.taskCancel p) s = .next (s.withDev (d.setCore p.val { k with st := .run, cancelPending := true }))) ∧
    (k.st = .run ∨ k.st = .wfe → k.shadow = false → vbccFault k.vbcc Cause.taskCancel = none →
      exec (.taskCancel p) s = .next (s.withDev ((d.setCore p.val
        (({ k with st := .run, cancelPending := false } : Gallery).enter (asyncExc Cause.taskCancel))).count (R.galCntExc p.val))))) ∧
  (∀ (s : State) (p : Fin 136), s.on → s.dev.executes p.val = true → (s.dev.core p.val).asyncDue = some Cause.event →
    vbccFault (s.dev.core p.val).vbcc Cause.event = none →
    exec (.takeEvent p) s = .next (s.withDev ((s.dev.setCore p.val ((s.dev.core p.val).enter (asyncExc Cause.event))).count
      (R.galCntExc p.val)))) ∧
  (∀ (s : State) (p : Fin 136) (g : Nat) (bs : Bytes) (e d : Dev), s.on → s.dev.logicalOf p.val = some g → find s.dev.doc.msgs g = some bs →
    g ∉ s.dev.doc.notes → e = s.dev.localWrite p.val Config.mailbox bs →
    d = ({ e with doc := { e.doc with msgs := del e.doc.msgs g } }).startTask p.val g bs →
    exec (.dispatchMessage p) s = .next (s.withDev (d.setCore p.val
      { d.core p.val with st := match (d.core p.val).st with | .wfe => .run | .asleep => .waking | st => st }))) ∧
  (∀ (s : State) (p : Fin 136) (g : Nat) (d : Dev), s.on → (s.dev.core p.val).st = .waking → s.dev.logicalOf p.val = some g →
    d = s.dev.setCore p.val { s.dev.core p.val with mhz := s.dev.speedOf p.val, st := .run, evtPending := !(s.dev.deliveredTo g).isEmpty } →
    exec (.galleryWakeDone p) s = .next (s.withDev { d with evt := { d.evt with gal := put d.evt.gal g .active } })) ∧
  (∀ (s : State) (p : Fin 136) (g : Nat), s.on → s.dev.logicalOf p.val = some g → (s.dev.core p.val).st = .wfe →
    find s.dev.doc.task g = none → s.dev.getF R.pwrCtrl 63 48 ≠ 0 →
    (s.dev.core p.val).wfeAt + 1000 * s.dev.getF R.pwrCtrl 63 48 ≤ s.core.time.toNat →
    ∃ t, exec (.galleryPark p) s = .next t ∧ (t.dev.core p.val).st = .asleep ∧ (t.dev.core p.val).lvu = .off ∧
      fld (t.dev.viewGallery t.core p.val (R.galFreq p.val) 0) 31 0 = 550 * 2 ^ 16 ∧ find t.dev.evt.gal g = some .asleep) ∧
  (∀ (s : State) (p : Fin 136) (addr : BitVec 64) (reason : BusReason), s.on →
    exec (.postedWriteError p addr reason) s = .next (s.withDev (match (s.dev.core p.val).postErr with
      | none => s.dev.setCore p.val { s.dev.core p.val with postErr := some (addr.toNat, busCode reason) }
      | some _ => s.dev.count (R.galCntExc p.val))))

/-- The integer instructions and CAP_INSPECT complete (R302, R317, R318): where they issue and do not overflow in a trapping form, the
destination register has the result, PC is past the instruction, and nothing else changes. A division whose result no rule states gives
the free value of log entry 1; the wide multiply writes the pair of log entry 22. -/
def Obligations.IntegerComplete : Prop :=
  ∀ (s : State) (p : Fin 136) (k : Gallery), Issues s p → s.dev.core p.val = k →
  (∀ (op : IntOp) (trap : Bool) (d a : BitVec 5) (b : RegImm),
    trap = false ∨ (intOp op (k.getG a.toNat) (k.regImm b)).2 = false →
    exec (.integerAlu p op trap d a b) s = .next (s.past p (k.setG d.toNat (intOp op (k.getG a.toNat) (k.regImm b)).1))) ∧
  (∀ (op : MulOp) (trap : Bool) (d a b : BitVec 5) (x y : Word), x = k.getG a.toNat → y = k.getG b.toNat →
    (op = .mul → trap = false ∨ -(2 ^ 63) ≤ x.toInt * y.toInt ∧ x.toInt * y.toInt < 2 ^ 63 →
      exec (.multiplyDivide p op trap d a b) s = .next (s.past p (k.setG d.toNat (BitVec.ofInt 64 (x.toInt * y.toInt))))) ∧
    (op = .mulU → trap = false ∨ x.toNat * y.toNat < 2 ^ 64 →
      exec (.multiplyDivide p op trap d a b) s = .next (s.past p (k.setG d.toNat (BitVec.ofInt 64 (x.toNat * y.toNat : Nat))))) ∧
    (op = .mulWide → exec (.multiplyDivide p op trap d a b) s = .next (s.past p ((k.setG d.toNat (BitVec.ofInt 64 (x.toInt * y.toInt))).setG
      ((d.toNat + 1) % 32) (BitVec.ofInt 64 (x.toInt * y.toInt / 2 ^ 64))))) ∧
    (op = .mulWideU → exec (.multiplyDivide p op trap d a b) s = .next (s.past p ((k.setG d.toNat
      (BitVec.ofInt 64 (x.toNat * y.toNat : Nat))).setG ((d.toNat + 1) % 32) (BitVec.ofInt 64 ((x.toNat * y.toNat : Nat) / 2 ^ 64))))) ∧
    (op = .div → y ≠ 0 → ¬ (x.toInt = -(2 ^ 63) ∧ y.toInt = -1) →
      exec (.multiplyDivide p op trap d a b) s = .next (s.past p (k.setG d.toNat (BitVec.ofInt 64 (x.toInt.tdiv y.toInt))))) ∧
    (op = .rem → y ≠ 0 → ¬ (x.toInt = -(2 ^ 63) ∧ y.toInt = -1) →
      exec (.multiplyDivide p op trap d a b) s = .next (s.past p (k.setG d.toNat (BitVec.ofInt 64 (x.toInt.tmod y.toInt))))) ∧
    (op = .divU → y ≠ 0 →
      exec (.multiplyDivide p op trap d a b) s = .next (s.past p (k.setG d.toNat (BitVec.ofNat 64 (x.toNat / y.toNat))))) ∧
    (op = .remU → y ≠ 0 →
      exec (.multiplyDivide p op trap d a b) s = .next (s.past p (k.setG d.toNat (BitVec.ofNat 64 (x.toNat % y.toNat))))) ∧
    (op ∈ [.div, .divU, .rem, .remU] → y = 0 ∨ op ∈ [.div, .rem] ∧ x.toInt = -(2 ^ 63) ∧ y.toInt = -1 →
      ∃ v, exec (.multiplyDivide p op trap d a b) s = .next (s.past p (k.setG d.toNat v)))) ∧
  (∀ (op : BitOp) (d a b : BitVec 5),
    exec (.bitManipulation p op d a b) s = .next (s.past p (k.setG d.toNat (bitOp op (k.getG a.toNat) (k.getG b.toNat))))) ∧
  (∀ (f : CapField) (d : BitVec 5) (c : BitVec 4) (x : Cap), x = k.getC c.toNat →
    exec (.capInspect p f d c) s = .next (s.past p (k.setG d.toNat (BitVec.ofNat 64 (match f with
      | .base => x.base
      | .length => x.len
      | .perms => x.perms
      | .otype => x.otype
      | .inst => x.inst
      | .tag => b2n x.tag
      | .space => x.space)))))

/-- The loads, stores and atomics of a gallery complete (R306, R308, R310 to R313, R316, R321): where they issue and pass their checks. A
store to a place that answers it with an error response completes too: the response is held. -/
def Obligations.MemoryAccessComplete : Prop :=
  ∀ (s : State) (p : Fin 136) (k : Gallery) (c : BitVec 4) (x : Cap), Issues s p → s.dev.core p.val = k → k.getC c.toNat = x →
  (∀ (off : MemOff) (o : Nat), k.offset off = o →
    (∀ (d : BitVec 5) (size : MemSize) (sx : Bool) (n : Nat) (e : Dev) (bs : Bytes), n = sizeBytes size →
      capCheck x c.toNat (2 ^ Perm.load) o n n = none → s.dev.coreLoad s.core p.val x c.toNat (x.base + o) n = (e, .ok bs) →
      exec (.integerLoad p d c size sx off) s = .next (s.withDev ((e.setCore p.val (k.setG d.toNat
        (if sx then sext (8 * n) (ofLE bs) else BitVec.ofNat 64 (ofLE bs)))).advance p.val))) ∧
    (∀ (d : BitVec 4) (e : Dev) (bs : Bytes), capCheck x c.toNat (2 ^ Perm.load) o 16 16 = none →
      s.dev.coreLoad s.core p.val x c.toNat (x.base + o) 16 = (e, .ok bs) →
      exec (.ldc p d c off) s = .next (s.withDev ((e.setCore p.val (k.setC d.toNat (Cap.ofBits
        (x.space == 0 && bit x.perms Perm.loadCap && k.tags.contains ((x.base + o) / 16)) (ofLE bs)))).advance p.val))) ∧
    (∀ (i : Instr) (bs : Bytes) (tag : Bool) (a : Nat), a = x.base + o →
      (∃ d size, i = .integerStore p d c size off ∧ bs = toLE (sizeBytes size) (k.getG d.toNat).toNat ∧ tag = false) ∨
        (∃ d, i = .stc p d c off ∧ bs = toLE 16 (k.getC d.toNat).toBits ∧ tag = (k.getC d.toNat).tag) →
      capCheck x c.toNat (2 ^ Perm.store + (if x.space = 0 ∧ tag = true then 2 ^ Perm.storeCap else 0)) o bs.length bs.length = none →
      (∀ e, x.space = 0 → a + bs.length ≤ Config.localBytes → e = s.dev.localWrite p.val a bs →
        exec i s = .next (s.withDev ((if tag then e.setCore p.val { e.core p.val with tags := (a / 16) :: (e.core p.val).tags } else e).advance
          p.val))) ∧
      (∀ e, x.space = 1 → s.dev.coreStoreInst s.core p.val x c.toNat a bs = (e, none) → exec i s = .next (s.withDev (e.advance p.val))) ∧
      (∀ e r, x.space = 2 → s.dev.portWrite s.core p.val a false bs = (e, r) → k.postErr = none ∨ ¬ (a = 0 ∧ bs.length = 8) →
        (r = .ok → exec i s = .next (s.withDev (e.advance p.val))) ∧
        (∀ b, r = .err b → exec i s = .next (s.withDev ((e.postError p.val a (busCode b)).advance p.val)))) ∧
      (x.space = 3 → exec i s = .next (s.withDev ((s.dev.postError p.val a 0).advance p.val))))) ∧
  (∀ (op : AtomicOp) (d b : BitVec 5) (old : Word), capCheck x c.toNat (2 ^ Perm.load + 2 ^ Perm.store) 0 8 8 = none → x.space = 0 →
    x.base + 8 ≤ Config.localBytes → s.dev.localBad p.val x.base 8 = false → old = BitVec.ofNat 64 (ofLE (s.dev.localRead p.val x.base 8)) →
    (∀ v e, op = .swap ∧ v = k.getG b.toNat ∨ op = .add ∧ v = old + k.getG b.toNat ∨ op = .cas ∧ old = k.getG d.toNat ∧ v = k.getG b.toNat →
      e = s.dev.localWrite p.val x.base (toLE 8 v.toNat) →
      exec (.atomic p op d c b) s = .next (s.withDev ((e.setCore p.val ((e.core p.val).setG d.toNat old)).advance p.val))) ∧
    (op = .cas → old ≠ k.getG d.toNat → exec (.atomic p op d c b) s = .next (s.past p (k.setG d.toNat old))))

/-- The capability instructions complete (R306, R307, R317): where they issue and their checks pass, the destination capability register has
the derived capability, PC is past the instruction, and nothing else changes. -/
def Obligations.CapabilitiesComplete : Prop :=
  ∀ (s : State) (p : Fin 136) (k : Gallery) (d c : BitVec 4) (x : Cap), Issues s p → s.dev.core p.val = k → k.getC c.toNat = x →
  (exec (.ccopy p d c) s = .next (s.past p (k.setC d.toNat x))) ∧
  (exec (.cstrip p d c) s = .next (s.past p (k.setC d.toNat { x with tag := false }))) ∧
  (∀ (b : BitVec 5) (o n : Nat), x.tag = true → x.otype = 0 →
    (b.toNat % 2 = 0 → o = (k.getG b.toNat).toNat % 2 ^ 48 → n = (k.getG (b.toNat + 1)).toNat → o + n ≤ x.len →
      exec (.cwindow p d c b) s = .next (s.past p (k.setC d.toNat { x with base := (x.base + o) % 2 ^ 48, len := n }))) ∧
    (exec (.ckeep p d c b) s = .next (s.past p (k.setC d.toNat { x with perms := x.perms &&& (k.getG b.toNat).toNat % 256 })))) ∧
  (∀ (b : BitVec 5) (auth : BitVec 4), x.tag = true → x.otype = 0 → authCheck (k.getC auth.toNat) auth.toNat Perm.system = none →
    exec (.cinst p d c b auth) s = .next (s.past p (k.setC d.toNat { x with inst := (k.getG b.toNat).toNat % 256 }))) ∧
  (∀ (b : BitVec 5) (auth : BitVec 4) (t : Nat) (y : Cap), x.tag = true → x.otype = 0 → y = k.getC auth.toNat → t = (k.getG b.toNat).toNat →
    authCheck y auth.toNat Perm.sealing = none → y.base ≤ t → t < y.base + y.len → 1 ≤ t → t ≤ 4095 →
    exec (.cbind p d c b auth) s = .next (s.past p (k.setC d.toNat { x with otype := t }))) ∧
  (∀ (auth : BitVec 4) (y : Cap), x.tag = true → x.otype ≠ 0 → y = k.getC auth.toNat → authCheck y auth.toNat Perm.unsealing = none →
    y.base ≤ x.otype → x.otype < y.base + y.len →
    exec (.cunbind p d c 0 auth) s = .next (s.past p (k.setC d.toNat { x with otype := 0 })))

/-- Branches, jumps, the core control registers, the return, the barrier, waiting and sleep complete (R319, R321, R324, R325, R332 to R334). -/
def Obligations.ControlComplete : Prop :=
  ∀ (s : State) (p : Fin 136) (k : Gallery), Issues s p → s.dev.core p.val = k →
  (∀ (cond : Cond) (a b : BitVec 5) (off : BitVec 15) (t : Int), t = (k.pc : Int) + 4 * off.toInt →
    (condHolds cond (k.getG a.toNat) (k.getG b.toNat) = false → exec (.branch p cond a b off) s = .next (s.past p k)) ∧
    (condHolds cond (k.getG a.toNat) (k.getG b.toNat) = true → 0 ≤ t → t + 4 ≤ k.pcc.len →
      exec (.branch p cond a b off) s = .next (s.withDev (s.dev.setCore p.val { k with pc := t.toNat })))) ∧
  (∀ (off : BitVec 25) (t : Int), t = (k.pc : Int) + 4 * off.toInt → 0 ≤ t → t + 4 ≤ k.pcc.len →
    exec (.jump p false off) s = .next (s.withDev (s.dev.setCore p.val { k with pc := t.toNat })) ∧
    exec (.jump p true off) s = .next (s.withDev (s.dev.setCore p.val (({ k with pc := t.toNat } : Gallery).setG 31 (BitVec.ofNat 64 (k.pc + 4)))))) ∧
  (∀ (c d : BitVec 4) (a gd : BitVec 5) (x : Cap) (o : Nat), k.getC c.toNat = x → o = (k.getG a.toNat).toNat →
    capCheck x c.toNat (2 ^ Perm.exec) o 4 4 = none →
    (x.space = 1 → ∀ r h, s.dev.translate x.inst (x.base + o) (s.dev.galleryWho p.val).tlb false ≠ .viol r h) →
    exec (.jc p c a) s = .next (s.withDev (s.dev.setCore p.val { k with pcc := x, pc := o })) ∧
    exec (.jcl p d gd c a) s = .next (s.withDev (s.dev.setCore p.val
      { (k.setC d.toNat k.pcc).setG gd.toNat (BitVec.ofNat 64 (k.pc + 4)) with pcc := x, pc := o }))) ∧
  (∀ (auth : BitVec 4) (num : BitVec 12), authCheck (k.getC auth.toNat) auth.toNat Perm.system = none →
    (∀ (d : BitVec 5) (v : Word) (e : Dev), s.dev.ccrRead s.core p.val num.toNat k = some (v, e) →
      exec (.ccrr p d auth num) s = .next (s.withDev ((e.setCore p.val (k.setG d.toNat v)).advance p.val))) ∧
    (∀ (d : BitVec 5) (k' : Gallery), k.ccrWrite num.toNat (k.getG d.toNat) = some k' →
      exec (.ccrw p d auth num) s = .next (s.withDev ((s.dev.setCore p.val k').advance p.val))) ∧
    (∀ (d : BitVec 4) (x : Cap), k.ccrCap num.toNat = some x → exec (.ccrrc p d auth num) s = .next (s.past p (k.setC d.toNat x))) ∧
    (∀ (d : BitVec 4) (k' : Gallery), k.setCcrCap num.toNat (k.getC d.toNat) = some k' →
      exec (.ccrwc p d auth num) s = .next (s.withDev ((s.dev.setCore p.val k').advance p.val))) ∧
    (k.shadow = true → exec (.sleep p auth) s = .next (s.past p k)) ∧
    (k.shadow = false → exec (.sleep p auth) s = .next (s.withDev ((s.dev.sleepCore s.core p.val).advance p.val)))) ∧
  (k.shadow = true → k.epcc.tag = true → k.cancelPending = false →
    exec (.eret p) s = .next (s.withDev (s.dev.setCore p.val { k with pcc := k.epcc, pc := k.epc, shadow := false }))) ∧
  (s.dev.writesOut p.val = false → k.postErr = none → exec (.fence p) s = .next (s.past p k)) ∧
  (k.shadow || k.evtPending || k.cancelPending → exec (.wfe p) s = .next (s.past p k)) ∧
  (k.shadow = false → k.evtPending = false → k.cancelPending = false → exec (.wfe p) s = .next (s.past p { k with st := .wfe, wfeAt := s.core.time.toNat }))

/-- The instructions whose effect is an exception take it (R317, R320, R322, R327): outside the shadow bank, with a VBCC that can take it,
ECAUSE, EPC, EADDR and EPCC are written, the shadow bank is in use, and PC is at 16 times the cause of VBCC. -/
def Obligations.TrapsComplete : Prop :=
  ∀ (s : State) (p : Fin 136) (k : Gallery), Issues s p → s.dev.core p.val = k → k.shadow = false →
  (∀ n : BitVec 5, vbccFault k.vbcc (0x20 + n.toNat) = none → ∃ k' : Gallery, k' = { k with ecause := k'.ecause, epc := k.pc + 4, eaddr := BitVec.ofNat 64 n.toNat, epcc := k.pcc, shadow := true, pcc := k.vbcc, pc := 16 * (0x20 + n.toNat) } ∧
    fld k'.ecause 5 0 = 0x20 + n.toNat ∧ exec (.trap p n) s = .next (s.withDev ((s.dev.setCore p.val k').count (R.galCntExc p.val)))) ∧
  (vbccFault k.vbcc Cause.brk = none → ∃ k' : Gallery, k' = { k with ecause := k'.ecause, epc := k.pc, eaddr := 0, epcc := k.pcc, shadow := true, pcc := k.vbcc, pc := 16 * Cause.brk } ∧
    fld k'.ecause 5 0 = Cause.brk ∧ exec (.brk p) s = .next (s.withDev ((s.dev.setCore p.val k').count (R.galCntExc p.val)))) ∧
  (wordIllegal (s.dev.fetchWord s.core p.val) = true → vbccFault k.vbcc Cause.illegal = none → ∃ k' : Gallery, k' = { k with ecause := k'.ecause, epc := k.pc, eaddr := BitVec.ofNat 64 (s.dev.fetchWord s.core p.val), epcc := k.pcc, shadow := true, pcc := k.vbcc, pc := 16 * Cause.illegal } ∧
    fld k'.ecause 5 0 = Cause.illegal ∧ exec (.unassignedInstruction p) s = .next (s.withDev ((s.dev.setCore p.val k').count (R.galCntExc p.val))))

/-- The vector state instructions, the power of the long-vector datapath and the element-wise integer instructions complete (R337, R338,
R341 to R344, R354, R355): where an element-wise instruction issues and no active element meets a cause, VD has every active element's
result and every other bit of it as before, VSTART is zero, PC is past the instruction, the counters of R358 count, and nothing else
changes. -/
def Obligations.VectorIntegerComplete : Prop :=
  (∀ (s : State) (p : Fin 136) (k : Gallery), Issues s p → s.dev.core p.val = k →
    (∀ (gd ga : BitVec 5) (sew : BitVec 3) (n : Nat), sew.toNat < 6 → n = min (k.getG ga.toNat).toNat (vlMax sew.toNat) →
      exec (.setvl p gd ga sew) s = .next (s.withDev ((s.dev.setCore p.val
        { k.setG gd.toNat (BitVec.ofNat 64 n) with vtype := sew.toNat, vl := n, vstart := 0, pc := k.pc + 4 }).count (R.galVcntLinst p.val)))) ∧
    (∀ (gs : BitVec 5) (v : Word), v = BitVec.ofNat 64 (fld (k.getG gs.toNat) 25 0) →
      exec (.vsetsc p gs) s = .next (s.withDev ((s.dev.setCore p.val
        { k with vscale := setFld (setFld (setFld (setFld v 63 26 0) 23 22 0) 15 14 0) 7 6 0, pc := k.pc + 4 }).count (R.galVcntLinst p.val)))) ∧
    (∀ (gd : BitVec 5) (n : BitVec 2), exec (.vrdstate p gd n) s = .next (s.withDev ((s.dev.setCore p.val
      { k.setG gd.toNat (match n.toNat with
          | 0 => BitVec.ofNat 64 k.vl
          | 1 => BitVec.ofNat 64 k.vtype
          | 2 => BitVec.ofNat 64 k.vstart
          | _ => k.vscale) with pc := k.pc + 4 }).count (R.galVcntLinst p.val)))) ∧
    (exec (.vwake p) s = .next (s.withDev (((s.dev.startWake p.val false).count (R.galVcntLinst p.val)).advance p.val)))) ∧
  (∀ (s : State) (p : Fin 136) (k : Gallery), s.on → s.dev.core p.val = k →
    (∀ e : Dev, k.lvu = .on → k.vpwr ≠ 0 → e = s.dev.countOn s.core p.val →
      exec (.lvuPowerOff p) s = .next (s.withDev (e.setCore p.val { e.core p.val with lvu := .off }))) ∧
    (k.lvu = .waking → k.stalled = false →
      exec (.lvuWakeDone p) s = .next (s.withDev (s.dev.setCore p.val { k with lvu := .on, lvuSince := s.core.time.toNat, stalled := false }))) ∧
    (k.lvu = .waking → k.stalled = true → ∃ v, v ≤ 4800 ∧ exec (.lvuWakeDone p) s = .next (s.withDev
      ({ s.dev.setCore p.val { k with lvu := .on, lvuSince := s.core.time.toNat, stalled := false } with fresh := s.dev.fresh + 1 }.count
        (R.galVcntWakecyc p.val) v)))) ∧
  (∀ (s : State) (p : Fin 136) (k : Gallery) (vd va vb : BitVec 5) (vm u trap : Bool) (w n v : Nat), VecIssues s p → s.dev.core p.val = k →
    w = sewBits k.vtype → n = k.vl * w / 8 →
    (∀ op, k.vtype ≤ 4 → k.elemsInto vm w vd.toNat (fun _ i =>
        vecOp op trap u w (elem w (k.vreg va.toNat) i) (elem w (k.vreg vb.toNat) i) (bit (k.vreg 0) i)) = some v →
      exec (.vectorAlu p op trap u vd va vb vm) s = .next (s.pastVec p (k.setV vd.toNat v) n)) ∧
    (∀ (src : BitVec 2) (x : Nat), k.vtype = src.toNat + 1 → x = sewBits src.toNat → k.elemsInto vm w vd.toNat (fun _ i =>
        .ok (ofSigned (2 * x) (elemVal u x (elem x (k.vreg va.toNat) i) * elemVal u x (elem x (k.vreg vb.toNat) i)))) = some v →
      exec (.vectorWidenMultiply p src u vd va vb vm) s = .next (s.pastVec p (k.setV vd.toNat v) n)) ∧
    (∀ (i : Instr) (m x : Nat), (i = .vdot4b p trap u vd va vb vm ∧ m = 4 ∧ x = 8 ∧ k.vtype = 2) ∨
        (i = .vdot2h p trap u vd va vb vm ∧ m = 2 ∧ x = 16 ∧ k.vtype = 3) ∨ (i = .vdot2w p trap u vd va vb vm ∧ m = 2 ∧ x = 32 ∧ k.vtype = 4) →
      k.elemsInto vm w vd.toNat (fun old i => elemResult trap u w (elemVal u w old + (List.range m).foldl (fun acc j =>
        acc + elemVal u x (elem x (k.vreg va.toNat) (m * i + j)) * elemVal u x (elem x (k.vreg vb.toNat) (m * i + j))) 0)) = some v →
      exec i s = .next (s.pastVec p (k.setV vd.toNat v) n)) ∧
    (∀ o, k.elemsInto vm 1 vd.toNat (fun _ i =>
        .ok (b2n (cmpHolds o (elemVal u w (elem w (k.vreg va.toNat) i)) (elemVal u w (elem w (k.vreg vb.toNat) i))))) = some v →
      exec (.vectorCompare p (.cmp o u) vd va vb vm) s = .next (s.pastVec p (k.setV vd.toNat v) n)) ∧
    (∀ o, k.elemsInto vm 1 vd.toNat (fun _ i => .ok (b2n (logicBit o (bit (k.vreg va.toNat) i) (bit (k.vreg vb.toNat) i)))) = some v →
      exec (.vectorCompare p (.logic o) vd va vb vm) s = .next (s.pastVec p (k.setV vd.toNat v) n)) ∧
    (∀ b : BitVec 2, k.vtype = 3 → k.elemsInto vm w vd.toNat (fun old i => .ok (crcStep (2 ^ b.toNat) old (elem 64 (k.vreg va.toNat) i))) = some v →
      exec (.vhcrc p b vd va vm) s = .next (s.pastVec p (k.setV vd.toNat v) n)) ∧
    (k.vtype = 3 → k.elemsInto vm w vd.toNat (fun _ i => .ok (hashMul (elem 64 (k.vreg va.toNat) i))) = some v →
      exec (.vhmul p vd va vm) s = .next (s.pastVec p (k.setV vd.toNat v) n)))

/-- The vector instructions that are not restartable complete (R338, R343, R346): where one issues at VSTART zero with VL not zero and meets no
cause, its destination has its whole result, PC is past it, the counters of R358 count, and nothing else changes. Where the spec states no
value (a reduction with no active element, a permute source outside the register) the value is free (log entry 1). -/
def Obligations.VectorWholeComplete : Prop :=
  ∀ (s : State) (p : Fin 136) (k : Gallery) (w n : Nat), VecIssues s p → s.dev.core p.val = k → k.vstart = 0 → w = sewBits k.vtype →
    n = k.vl * w / 8 →
    (∀ (op : RedOp) (trap u : Bool) (vd va : BitVec 5) (vm : Bool),
      (∀ r, reduce (redStep op trap u w) ((k.active vm).map (elem w (k.vreg va.toNat))) = .ok (some r) →
        exec (.vectorReduction p op trap u vd va vm) s = .next (s.pastVec p (k.setV vd.toNat (setElem w (k.vreg vd.toNat) 0 r)) n)) ∧
      (k.active vm = [] → ∃ v, exec (.vectorReduction p op trap u vd va vm) s = .next ((s.withDev { s.dev with fresh := s.dev.fresh + 1 }).pastVec p
        (k.setV vd.toNat (setElem w (k.vreg vd.toNat) 0 v)) n))) ∧
    (∀ (gd : BitVec 5) (vm : Bool), exec (.vcpop p gd vm) s = .next (s.pastVec p (k.setG gd.toNat (BitVec.ofNat 64 (k.active vm).length)) n)) ∧
    (∀ (vd va : BitVec 5) (vm : Bool) (xs : List Nat), xs = (k.active vm).map (elem w (k.vreg va.toNat)) →
      exec (.vcompress p vd va vm) s = .next (s.pastVec p (k.setV vd.toNat (putElems w (k.vreg vd.toNat) ((List.range xs.length).zip xs))) n)) ∧
    (∀ (vd va : BitVec 5) (vm : Bool), exec (.vexpand p vd va vm) s = .next (s.pastVec p (k.setV vd.toNat (putElems w (k.vreg vd.toNat)
      ((k.active vm).zip ((List.range (k.active vm).length).map (elem w (k.vreg va.toNat)))))) n)) ∧
    (∀ (op : PermOp) (vd va vb : BitVec 5) (vm : Bool) (src : Nat → Option Nat), (∀ i, src i = match op with
        | .slideUp => if (k.getG vb.toNat).toNat ≤ i then some (i - (k.getG vb.toNat).toNat) else none
        | .slideDown => some (i + (k.getG vb.toNat).toNat)
        | .permute => some (elem w (k.vreg vb.toNat) i)) →
      ∃ (ps : List (Nat × Nat)) (m : Nat), exec (.vectorPermute p op vd va vb vm) s =
          .next ((s.withDev { s.dev with fresh := s.dev.fresh + m }).pastVec p (k.setV vd.toNat (putElems w (k.vreg vd.toNat) ps)) n) ∧
        ps.map (fun e => e.1) = (k.active vm).filter (fun i => (src i).isSome) ∧
        ∀ i x j, (i, x) ∈ ps → src i = some j → j < vlMax k.vtype → x = elem w (k.vreg va.toNat) j) ∧
    (∀ (vd vb : BitVec 5) (j i : BitVec 4) (u : Bool), j.toNat ≤ 9 → 1 ≤ i.toNat → i.toNat ≤ 10 →
      ∀ r : Nat × Nat, r = (k.active false).foldl (fun (acc : Nat × Nat) (e : Nat) =>
          if bit e j.toNat || decide (min k.vl (vlMax k.vtype) ≤ e + 2 ^ j.toNat) then acc
          else if (if bit e i.toNat then decide (elemVal u w (elem w acc.1 e) < elemVal u w (elem w acc.1 (e + 2 ^ j.toNat)))
            else decide (elemVal u w (elem w acc.1 (e + 2 ^ j.toNat)) < elemVal u w (elem w acc.1 e))) then
            (swapElems w acc.1 e (e + 2 ^ j.toNat), swapElems w acc.2 e (e + 2 ^ j.toNat))
          else acc) (k.vreg vd.toNat, k.vreg vb.toNat) →
      exec (.vcx p vd vb j i u false) s = .next (s.pastVec p ((if vb.toNat = 0 then k else k.setV vb.toNat r.2).setV vd.toNat r.1) n)) ∧
    (∀ (d a : BitVec 5) (vm : Bool) (e : Nat), e = elem w (k.vreg a.toNat) 0 →
      (exec (.vectorMove p .copy d a vm) s = .next (s.pastVec p (k.setV d.toNat (putElems w (k.vreg d.toNat)
        ((k.active vm).map (fun i => (i, elem w (k.vreg a.toNat) i))))) n)) ∧
      (∀ zx, exec (.vectorMove p (.bcastG zx) d a vm) s = .next (s.pastVec p (k.setV d.toNat (putElems w (k.vreg d.toNat)
        ((k.active vm).map (fun i => (i, widenG zx w (k.getG a.toNat)))))) n)) ∧
      (exec (.vectorMove p .bcastV d a vm) s = .next (s.pastVec p (k.setV d.toNat (putElems w (k.vreg d.toNat)
        ((k.active vm).map (fun i => (i, e))))) n)) ∧
      (∀ zx, exec (.vectorMove p (.toG zx) d a vm) s = .next (s.pastVec p (if 0 ∈ k.active vm then
        k.setG d.toNat (if zx then BitVec.ofNat 64 e else BitVec.ofInt 64 (toSigned w e)) else k) n)) ∧
      (exec (.vectorMove p .toS d a vm) s = .next (s.pastVec p (k.setS (d.toNat % 16) (putElems w (k.sreg (d.toNat % 16))
        (((k.active vm).filter (fun i => decide (i < 256 / w))).map (fun i => (i, elem w (k.vreg a.toNat) i))))) n)) ∧
      (exec (.vectorMove p .fromS d a vm) s = .next (s.pastVec p (k.setV d.toNat (putElems w (k.vreg d.toNat)
        (((k.active vm).filter (fun i => decide (i < 256 / w))).map (fun i => (i, elem w (k.sreg (a.toNat % 16)) i))))) n))) ∧
    (∀ (vd va : BitVec 5) (vm : Bool) (x : Int), k.vtype = 5 → k.vl ≤ 32 →
      (k.active vm).foldl (fun (acc : Option Int) i => acc.bind (fun x => laneAdd x (k.lane va.toNat i))) (some 0) = some x →
      exec (.vlred p vd va vm) s = .next (s.pastVec p (k.setV vd.toNat (setElem 256 (k.vreg vd.toNat) 0 (ofSigned 256 x))) n))

/-- The DEC128 instructions and the ledger lanes complete (R345, R346): where one issues with scales that it may use and no active element
leaves its format, VD has every active element's result and every other bit of it as before, VSTART is zero, PC is past the instruction,
the counters of R358 count, and nothing else changes. -/
def Obligations.VectorDecimalComplete : Prop :=
  ∀ (s : State) (p : Fin 136) (k : Gallery) (vd va vb : BitVec 5) (vm : Bool) (v : Nat), VecIssues s p → s.dev.core p.val = k →
  (∀ (i : Instr) (f : Int → Int → Option Int), k.decLegal true true true = true →
    ((i = .vdadd p vd va vb vm ∧ f = decAdd k.rm k.sa k.sb k.st_ false) ∨ (i = .vdsub p vd va vb vm ∧ f = decAdd k.rm k.sa k.sb k.st_ true) ∨
      (i = .vdmul p vd va vb vm ∧ f = decMul k.rm k.sa k.sb k.st_) ∨ (i = .vddiv p vd va vb vm ∧ f = decDiv k.rm k.sa k.sb k.st_) ∨
      (i = .vdmin p vd va vb vm ∧ f = decPick k.rm k.sa k.sb k.st_ false) ∨ (i = .vdmax p vd va vb vm ∧ f = decPick k.rm k.sa k.sb k.st_ true)) →
    k.elemsInto vm 128 vd.toNat (fun _ i => if decOperands (k.dec va.toNat i) (k.dec vb.toNat i) then
      decElem (f (k.dec va.toNat i) (k.dec vb.toNat i)) else .error overflowExc) = some v →
    exec i s = .next (s.pastVec p (k.setV vd.toNat v) (k.vl * 128 / 8))) ∧
  (k.decLegal true false true = true → k.elemsInto vm 128 vd.toNat (fun _ i => if decOk (k.dec va.toNat i) then
      decElem (decResult (rescaleRaw k.rm k.sa k.st_ (k.dec va.toNat i))) else .error overflowExc) = some v →
    exec (.vdrescale p vd va vm) s = .next (s.pastVec p (k.setV vd.toNat v) (k.vl * 128 / 8))) ∧
  (k.decLegal false false true = true → k.elemsInto vm 128 vd.toNat (fun _ i =>
      decElem (decResult (rescaleRaw k.rm 0 k.st_ (k.dec va.toNat i)))) = some v →
    exec (.vdfromi p vd va vm) s = .next (s.pastVec p (k.setV vd.toNat v) (k.vl * 128 / 8))) ∧
  (∀ op, k.decLegal true true false = true → k.elemsInto vm 1 vd.toNat (fun _ i => (if !decOperands (k.dec va.toNat i) (k.dec vb.toNat i) then
      .error overflowExc else match alignTwo (k.dec va.toNat i) (k.dec vb.toNat i) k.sa k.sb with
        | some (x, y) => .ok (cmpHolds op x y)
        | none => .error overflowExc : Except Exc Bool).map b2n) = some v →
    exec (.vdcmp p op vd va vb vm) s = .next (s.pastVec p (k.setV vd.toNat v) (k.vl * 128 / 8))) ∧
  (k.vtype = 5 → k.vl ≤ 32 →
    (k.sa ≤ k.st_ → k.st_ ≤ 38 → k.elemsInto vm 256 vd.toNat (fun old i =>
        laneElem ((alignUp (k.dec va.toNat i) (k.st_ - k.sa)).bind (laneAdd (toSigned 256 old)))) = some v →
      exec (.vlacc p vd va vm) s = .next (s.pastVec p (k.setV vd.toNat v) (k.vl * 256 / 8))) ∧
    (k.st_ ≤ 38 → k.elemsInto vm 256 vd.toNat (fun old i =>
        laneElem ((alignUp (k.dec va.toNat i) k.st_).bind (laneAdd (toSigned 256 old)))) = some v →
      exec (.vlacci p vd va vm) s = .next (s.pastVec p (k.setV vd.toNat v) (k.vl * 256 / 8))) ∧
    (k.elemsInto vm 256 vd.toNat (fun _ i => laneElem (laneAdd (k.lane va.toNat i) (k.lane vb.toNat i))) = some v →
      exec (.vladd p vd va vb vm) s = .next (s.pastVec p (k.setV vd.toNat v) (k.vl * 256 / 8)))) ∧
  (k.vtype = 4 → k.vl ≤ 32 → k.elemsInto vm 128 vd.toNat (fun _ i => decElem (laneNarrow (k.lane va.toNat i))) = some v →
    exec (.vlnarrow p vd va vm) s = .next (s.pastVec p (k.setV vd.toNat v) (k.vl * 256 / 8)))

/-- The vector loads and stores complete (R338, R347 to R349): where one issues and no active element meets a cause, every active element is
loaded or stored, VSTART is zero, PC is past the instruction, the counters of R358 count, and nothing else changes. A store to the
port window makes 64-byte writes of them. -/
def Obligations.VectorMemoryComplete : Prop :=
  ∀ (s : State) (p : Fin 136) (k : Gallery) (vd vb : BitVec 5) (c : BitVec 4) (vm : Bool) (shift : BitVec 2) (n : Nat), VecIssues s p →
    s.dev.core p.val = k → n = k.vl * sewBits k.vtype / 8 →
  (∀ (d : Dev) (v : Nat), s.elemsFrom p k c.toNat vd.toNat vm false (unitOffset k vb.toNat shift.toNat (sewBits k.vtype)) = some (d, v) →
    exec (.vld p vd c vb vm shift) s = .next (s.withDev ((d.setCore p.val (k.setV vd.toNat v)).pastVec p n))) ∧
  (∀ (wide : Bool) (d : Dev) (v : Nat), indexOk wide k = true →
    s.elemsFrom p k c.toNat vd.toNat vm true (indexOffset k vb.toNat shift.toNat wide) = some (d, v) →
    exec (.vgath p vd c vb vm shift wide) s = .next (s.withDev ((d.setCore p.val (k.setV vd.toNat v)).pastVec p n))) ∧
  (∀ d : Dev, (k.getC c.toNat).space ≠ 2 →
    s.elemsTo p k c.toNat vd.toNat vm false (unitOffset k vb.toNat shift.toNat (sewBits k.vtype)) = some d →
    exec (.vst p vd c vb vm shift) s = .next (s.withDev (d.pastVec p n))) ∧
  ((k.getC c.toNat).space = 2 →
    (∀ i ∈ k.active vm, elemCheck (k.getC c.toNat) c.toNat (2 ^ Perm.store) (unitOffset k vb.toNat shift.toNat (sewBits k.vtype) i)
      (sewBits k.vtype / 8) = none) →
    exec (.vst p vd c vb vm shift) s = .next (s.withDev ((portWrites s.core p.val ((k.active vm).map (fun i =>
      ((k.getC c.toNat).base + unitOffset k vb.toNat shift.toNat (sewBits k.vtype) i,
        toLE (sewBits k.vtype / 8) (elem (sewBits k.vtype) (k.vreg vd.toNat) i)))) s.dev).pastVec p n))) ∧
  (∀ (wide : Bool) (d : Dev), (k.getC c.toNat).space ≠ 2 → indexOk wide k = true →
    s.elemsTo p k c.toNat vd.toNat vm true (indexOffset k vb.toNat shift.toNat wide) = some d →
    exec (.vscat p vd c vb vm shift wide) s = .next (s.withDev (d.pastVec p n))) ∧
  (∀ wide : Bool, (k.getC c.toNat).space = 2 → indexOk wide k = true →
    (∀ i ∈ k.active vm, elemCheck (k.getC c.toNat) c.toNat (2 ^ Perm.store) (indexOffset k vb.toNat shift.toNat wide i)
      (sewBits k.vtype / 8) = none) →
    exec (.vscat p vd c vb vm shift wide) s = .next (s.withDev ((portWrites s.core p.val ((k.active vm).map (fun i =>
      ((k.getC c.toNat).base + indexOffset k vb.toNat shift.toNat wide i,
        toLE (sewBits k.vtype / 8) (elem (sewBits k.vtype) (k.vreg vd.toNat) i))))
          (each (k.active vm) (fun _ d => d.count (R.galVcntGselem p.val)) s.dev)).pastVec p n)))

/-- The short-vector instructions complete (R353; the forms of log entry 30): where one issues and no lane meets a cause, its destination has
its whole result, PC is past it, the counter of R358 counts, and nothing else changes. -/
def Obligations.ShortVectorComplete : Prop :=
  ∀ (s : State) (p : Fin 136) (k : Gallery) (esw : BitVec 2) (sd sa sb : BitVec 4) (trap u : Bool) (w a b : Nat), Issues s p →
    s.dev.core p.val = k → w = eswBits esw → a = k.sreg sa.toNat → b = k.sreg sb.toNat →
  (∀ op r, shortLanes w (fun i => vecOp (svVec op) trap u w (elem w a i) (elem w b i) false) = .ok r →
    exec (.svAlu p op esw trap u sd sa sb) s = .next (s.pastShort p (k.setS sd.toNat r))) ∧
  (∀ (high : Bool) (o r : Nat), o = (if high then 128 / w else 0) →
    (shortLanes (2 * w) (fun i => .ok (ofSigned (2 * w) (elemVal u w (elem w a (o + i)) * elemVal u w (elem w b (o + i))))) = .ok r →
      exec (.svMultiply p true high esw trap u sd sa sb) s = .next (s.pastShort p (k.setS sd.toNat r))) ∧
    (shortLanes w (fun i => vecOp .mul trap u w (elem w a i) (elem w b i) false) = .ok r →
      exec (.svMultiply p false high esw trap u sd sa sb) s = .next (s.pastShort p (k.setS sd.toNat r)))) ∧
  (∀ o, exec (.svCompare p (.cmp o u) esw sd sa sb) s = .next (s.pastShort p (k.setG sd.toNat (BitVec.ofNat 64 (total ((List.range (256 / w)).map
    (fun i => (b2n (cmpHolds o (elemVal u w (elem w a i)) (elemVal u w (elem w b i)))) <<< i))))))) ∧
  (∀ r, shortLanes w (fun i => .ok (if elem w (k.sreg sd.toNat) i ≠ 0 then elem w a i else elem w b i)) = .ok r →
    exec (.svCompare p .select esw sd sa sb) s = .next (s.pastShort p (k.setS sd.toNat r))) ∧
  (∀ r, shortLanes 8 (fun i => .ok (elem 8 a (elem 8 b i % 32))) = .ok r →
    exec (.svCompare p .shuffle esw sd sa sb) s = .next (s.pastShort p (k.setS sd.toNat r))) ∧
  (∀ (crc : Option (BitVec 2)) (r : Nat), esw = 3 → shortLanes 64 (fun i => .ok (match crc with
      | some n => crcStep (2 ^ n.toNat) (elem 64 (k.sreg sd.toNat) i) (elem 64 a i)
      | none => hashMul (elem 64 a i))) = .ok r →
    exec (.svHash p crc esw sd sa) s = .next (s.pastShort p (k.setS sd.toNat r))) ∧
  (∀ (ra rb : BitVec 5) (reg o : Nat) (x : Cap), reg = ra.toNat % 16 → x = k.getC reg → o = (k.getG rb.toNat).toNat →
    (∀ e bs, capCheck x reg (2 ^ Perm.load) o 32 32 = none → s.dev.coreLoad s.core p.val x reg (x.base + o) 32 = (e, .ok bs) →
      exec (.svLoadStore p .load sd ra rb) s = .next ((s.withDev e).pastShort p (k.setS sd.toNat (ofLE bs)))) ∧
    (∀ e, capCheck x reg (2 ^ Perm.store) o 32 32 = none → storeElem s.core p.val reg x o (toLE 32 (k.sreg sd.toNat)) s.dev = .ok e →
      exec (.svLoadStore p .store sd ra rb) s = .next (s.withDev ((e.count (R.galVcntSinst p.val)).advance p.val))) ∧
    (∀ lane : Fin 4, exec (.svLoadStore p (.gToS lane) sd ra rb) s = .next (s.pastShort p (k.setS sd.toNat
        (setElem 64 (k.sreg sd.toNat) lane.val (k.getG ra.toNat).toNat))) ∧
      exec (.svLoadStore p (.sToG lane) sd ra rb) s = .next (s.pastShort p (k.setG ra.toNat
        (BitVec.ofNat 64 (elem 64 (k.sreg sd.toNat) lane.val))))) ∧
    (exec (.svLoadStore p .vToS sd ra rb) s = .next (s.pastShort p (k.setS sd.toNat (k.vreg ra.toNat % 2 ^ 256)))) ∧
    (exec (.svLoadStore p .sToV sd ra rb) s = .next (s.pastShort p (k.setV ra.toNat
      (setElem 256 (k.vreg ra.toNat) 0 (k.sreg sd.toNat))))))

/-- The commands of the stack filters complete (R178 to R192): a submission, ring space given back, an abort, a start, one turn, and the end
that a write error makes. -/
def Obligations.FiltersComplete : Prop :=
  (∀ (s : State) (f : Fin 8) (p : Fin 136) (v : BitVec 64) (w : Who) (x : SflDesc), s.on → localOk v.toNat 128 128 = true →
    (s.dev.filter f.val).flight.length + (s.dev.filter f.val).waiting.length < 64 → w = s.dev.galleryWho p.val →
    x = { gal := p.val, inst := fld (s.dev.core p.val).task 63 56, run := w.run, task := w.task, bytes := s.dev.localRead p.val v.toNat 128 } →
    exec (.sflSubmit f p v) s = .next (s.withDev (s.dev.setFilter f.val
      { s.dev.filter f.val with waiting := (s.dev.filter f.val).waiting ++ [x] }))) ∧
  (∀ (s : State) (f : Fin 8) (p : Fin 136) (v : BitVec 64) (x : SflDesc) (e : Dev) (y : Option SflDesc), s.on →
    (s.dev.filter f.val).flight.find? (SflDesc.is p.val (bits v.toNat 63 48)) = some x →
    s.dev.sflShip s.core f.val { x with consumed := min x.put (x.consumed +
      (bits v.toNat 47 0 + 2 ^ 48 - x.consumed % 2 ^ 48) % 2 ^ 48) } = (e, y) →
    exec (.sflGet f p v) s = .next (s.withDev (e.setFilter f.val { e.filter f.val with
      flight := updFirst (SflDesc.is p.val (bits v.toNat 63 48)) (fun _ => y) (e.filter f.val).flight }))) ∧
  (∀ (s : State) (f : Fin 8) (p : Fin 136) (v : BitVec 64) (x : SflDesc) (e : Dev) (y : Option SflDesc) (u : Sfl), s.on →
    u = s.dev.filter f.val →
    (u.flight.find? (SflDesc.is p.val (bits v.toNat 15 0)) = some x → x.recorded = false →
      s.dev.sflEnd s.core f.val x (match x.ended with
        | some n => if n < 0x100 ∧ s.dev.awaits (x.who f.val) = false then 0x0002 else if n < 0x100 then 0x0100 else n
        | none => 0x0100) = (e, y) →
      exec (.sflAbort f p v) s = .next (s.withDev (e.setFilter f.val { e.filter f.val with
        flight := updFirst (SflDesc.is p.val (bits v.toNat 15 0)) (fun _ => y) (e.filter f.val).flight }))) ∧
    (u.flight.find? (SflDesc.is p.val (bits v.toNat 15 0)) = none →
      u.waiting.find? (SflDesc.is p.val (bits v.toNat 15 0)) = some x →
      (s.dev.setFilter f.val { u with
        waiting := updFirst (SflDesc.is p.val (bits v.toNat 15 0)) (fun _ => none) u.waiting }).sflComplete s.core f.val x 0x0100 = (e, y) →
      exec (.sflAbort f p v) s = .next (s.withDev (e.sflBack f.val y)))) ∧
  (∀ (s : State) (f : Fin 8) (x : SflDesc) (xs rest : List SflDesc), s.on → s.dev.filter f.val = { flight := xs, waiting := x :: rest } →
    xs.length < max 1 (s.dev.getF (R.sflCtrl f.val) 12 8) → x.off = true ∨ s.dev.sflCheck f.val x xs = none →
    exec (.sflDescriptorStart f) s = .next (s.withDev (((s.dev.setFilter f.val
      { flight := xs ++ [s.dev.sflFetched f.val x], waiting := rest }).sflRequests s.core f.val x (s.dev.sflStartReads f.val x)).ackLost
        (x.who f.val)))) ∧
  (∀ (s : State) (f : Fin 8) (x y : SflDesc) (xs rest : List SflDesc) (d e : Dev) (r : RgRes) (maps bl : List Nat) (z : Dev × Option SflDesc),
    s.on → s.dev.filter f.val = { flight := x :: rest, waiting := xs } → x.ended = none → x.cur = none →
    d = s.dev.setFilter f.val { flight := rest, waiting := xs } → d.lostBytes (x.who f.val) = 0 → d.awaits (x.who f.val) = false →
    d.sflEval f.val x (x.rowGroup x.next) = (r, maps, bl) →
    e = (d.sflRequests s.core f.val x (maps.map (fun a => (a, 8)) ++ bl.map (fun a => (a, 4096)))).count (R.sflCntRead f.val)
      (4096 * bl.length) → y = { x with read := x.read + 4096 * bl.length } →
    z = (match r with
      | .fail st h => (match h with
          | some h => e.recordFail s.core (x.who f.val) y.inst false h
          | none => e).sflEnd s.core f.val y st
      | .skipped h => (e.rowGroupRecord y 1 (x.rowGroup x.next) (some h) []).1.sflShip s.core f.val
          { y with cur := some 1, head := h, out := [(e.rowGroupRecord y 1 (x.rowGroup x.next) (some h) []).2] }
      | .redirected b h gs => (e.rowGroupRecord y (2 + 4 * b2n b) (x.rowGroup x.next) h gs).1.sflShip s.core f.val
          { y with cur := some 2, head := h.getD [], out := [(e.rowGroupRecord y (2 + 4 * b2n b) (x.rowGroup x.next) h gs).2] }
      | .done h rs => e.sflShip s.core f.val { y with cur := some 0, head := h, out := rs }) →
    exec (.sflRowgroupEval f) s = .next (s.withDev (z.1.sflBack f.val z.2))) ∧
  (∀ (s : State) (f : Fin 8) (x : SflDesc) (xs rest : List SflDesc) (d : Dev) (st : Nat) (z : Dev × Option SflDesc), s.on →
    s.dev.filter f.val = { flight := x :: rest, waiting := xs } → x.ended = some st → d = s.dev.setFilter f.val { flight := rest, waiting := xs } →
    d.lostBytes (x.who f.val) = 0 → d.awaits (x.who f.val) = false →
    z = (if x.recorded then (d.sflDone f.val x, none) else d.sflEnd s.core f.val x st) →
    exec (.sflRowgroupEval f) s = .next (s.withDev (z.1.sflBack f.val z.2))) ∧
  (∀ (s : State) (f : Fin 8) (p : Fin 136) (tag : BitVec 16), s.on →
    exec (.sflWriteError f p tag) s = .next (s.withDev (s.dev.setFilter f.val { s.dev.filter f.val with
      flight := updFirst (SflDesc.is p.val tag.toNat) (fun _ => none) (s.dev.filter f.val).flight })))

/-- The commands of the Exchange complete (R197 to R214): the arbiter's turn at a gallery's first write, a write that waits for a page, the
time-out of the wait, a NEXT request, and the Docent's four notices. -/
def Obligations.ExchangeComplete : Prop :=
  (∀ (s : State) (p : Fin 136) (k : Fin 7), s.on → s.dev.sendEnded p.val = false → s.dev.sendSince p.val = none →
    exec (.excSend p k) s = .next (s.withDev (match s.dev.sendLook p.val (8 * 2 ^ k.val) with
      | (d, .idle) => d
      | (d, .bad n part fails) => d.sendBad p.val n part fails
      | (d, .ready n new rows) => d.sendStage s.core p.val n new rows
      | (d, .blocked n inst run pool true) => d.sendFail p.val n inst run pool
      | (d, .blocked n _ _ _ false) => d.sendWaits p.val n s.core.time.toNat))) ∧
  (∀ (s : State) (p : Fin 136) (k : Fin 7), s.on → s.dev.sendEnded p.val = true →
    exec (.excSend p k) s = .next (s.withDev (s.dev.sendsTaken p.val 1))) ∧
  (∀ (s : State) (p : Fin 136) (k : Fin 7) (t : Nat), s.on → s.dev.sendSince p.val = some t →
    exec (.excSendResume p k) s = .next (s.withDev (match s.dev.sendLook p.val (8 * 2 ^ k.val) with
      | (d, .bad n part fails) => d.sendBad p.val n part fails
      | (d, .ready n new rows) => d.sendStage s.core p.val n new rows
      | (d, _) => d))) ∧
  (∀ (s : State) (p : Fin 136) (t : Nat) (x : ExcSend), s.on → s.dev.sendSince p.val = some t →
    s.dev.exc.ingress.find? (fun (x : ExcSend) => x.gal == p.val) = some x → t + 1000 * s.dev.getF R.excCtrl 31 16 ≤ s.core.time.toNat →
    exec (.excAllocTimeout p) s = .next (s.withDev (match s.dev.sendEdge x.task with
      | some (_, _, pool, _) => s.dev.sendFail p.val x.span (ctInst x.task) (ctRun x.task) pool
      | none => s.dev.sendBad p.val x.span x.part true))) ∧
  (∀ (s : State) (p : Fin 136) (w : Word) (t : Nat) (d : Dev), s.on → s.dev.exc.ingress.find? (fun (x : ExcSend) => x.gal == p) = none →
    find s.dev.exc.stall p.val = some (w, t) → t / 4 + 1000 * s.dev.getF R.excCtrl 31 16 ≤ s.core.time.toNat →
    d = (s.dev.allocFail (ctInst w) (ctRun w) ((s.dev.logicalOf p.val).getD 0) (t % 4)).taskMustFail p.val w 0x0501 →
    exec (.excAllocTimeout p) s = .next (s.withDev { d with exc := { d.exc with stall := del d.exc.stall p.val } })) ∧
  (∀ (s : State) (p : Fin 136) (v : BitVec 64) (d : Dev) (e : Bool), s.on → s.dev.nextWrite p.val v.toNat = (d, e) →
    exec (.excNext p v) s = .next (s.withDev (if e then d.postError p.val 0x40000 0 else d))) ∧
  (∀ (s : State) (run task attempt : Nat) (xs rest : List ExcNotice), s.on → s.dev.exc.notices = xs ++ .publish run task attempt :: rest →
    (∀ n ∈ xs, ∀ r t a, n ≠ .publish r t a) → s.dev.excEnding run = false →
    exec .excPublish s = .next (s.withDev
      (({ s.dev with exc := { s.dev.exc with notices := xs ++ rest } } : Dev).publish s.core run task attempt))) ∧
  (∀ (s : State) (run task attempt : Nat) (rest : List ExcNotice) (d : Dev) (late : ExcSend → Bool), s.on →
    s.dev.exc.notices = .void run task attempt :: rest →
    late = (fun x => ctRun x.task == run && ctNum x.task == task && ctAttempt x.task == attempt) →
    d = { s.dev with exc := { s.dev.exc with
      notices := rest
      chains := s.dev.exc.chains.filter (fun x => !(x.run == run && x.task == task && x.attempt == attempt))
      ingress := s.dev.exc.ingress.filter (fun x => !late x)
      next := s.dev.exc.next.filter (fun x => !(ctRun x.task == run && ctNum x.task == task && ctAttempt x.task == attempt))
      late := s.dev.exc.late.filter (fun x => !(ctRun x.task == run && ctNum x.task == task && ctAttempt x.task == attempt)) } } →
    exec .excVoid s = .next (s.withDev
      ((each (s.dev.exc.ingress.filter late) (fun x d => d.postError x.gal (0x100000 + 64 * x.part) 0) d).count R.excCntVoid
        (s.dev.exc.chains.filter (fun x => x.run == run && x.task == task && x.attempt == attempt)).length).grants)) ∧
  (∀ (s : State) (run t l : Nat) (rest : List ExcNotice) (d : Dev) (i : Image) (r : Run), s.on →
    s.dev.exc.notices = .release run t l :: rest → s.dev.excEnding run = false →
    d = { s.dev with exc := { s.dev.exc with notices := rest } } → d.runImage run = some i → d.run run = some r →
    exec .excRelease s = .next (s.withDev (each (List.range i.streams.length) (fun edge (d : Dev) =>
      match i.streams[edge]? with
      | none => d
      | some e =>
        if (i.op e.dst).template ≠ t then d
        else if (i.edgeMode edge).1 = 3 then
          if (List.range (i.logicalTasks t)).all (r.finished i t) then
            { d with exc := { d.exc with lists := del d.exc.lists (excKey run edge 0) } }
          else d
        else { d with exc := { d.exc with lists := del d.exc.lists (excKey run edge l) } }) d))) ∧
  (∀ (s : State) (run : Nat) (rest : List ExcNotice), s.on → s.dev.exc.notices = .runEnd run :: rest →
    exec .excRunEnd s = .next (s.withDev { s.dev with exc := { s.dev.exc with
      notices := rest.filter (fun n => match n with
        | .void r _ _ => r != run
        | .runEnd _ => true
        | .publish r _ _ => r != run
        | .release r _ _ => r != run)
      chains := s.dev.exc.chains.filter (fun x => x.run != run)
      lists := s.dev.exc.lists.filter (fun e => e.1 / 16384 != run)
      heads := s.dev.exc.heads.filter (fun h => h.1 != run)
      ingress := s.dev.exc.ingress.filter (fun x => ctRun x.task != run)
      next := s.dev.exc.next.filter (fun x => ctRun x.task != run)
      late := s.dev.exc.late.filter (fun x => ctRun x.task != run)
      cursor := s.dev.exc.cursor.filter (fun e => ctRun e.2.1 != run) } }))

/-- The commands of the Catalogue complete (R251 to R277): a search at the port, the close of a batch, a slot of passes and gaps, a batch of
operations and each operation, and a group's enable, disable and refill. -/
def Obligations.CatalogueComplete : Prop :=
  (∀ (s : State) (p : Fin 136) (req : BitVec 128) (b : Bytes) (x : CatSet) (k : Nat), s.on → b = toLE 16 req.toNat →
    (s.dev.cat.reqs.filter (fun (r : CatReq) => r.gal == p.val)).length < 16 → s.dev.cat.held = [] → le b 0xD 1 < 64 →
    k = ctInst (s.dev.core p.val).task * 64 + le b 0xD 1 → find s.dev.cat.sets k = some x →
    0 < le b 0xC 1 → le b 0xC 1 ≤ 64 → le b 0xE 1 < 2 → le b 0 4 % 16 = 0 → le b 4 4 % 16 = 0 → le b 8 4 % 8 = 0 →
    le b 0 4 + 8 * x.width * le b 0xC 1 ≤ Config.localBytes → le b 4 4 + recordBytes x.width (le b 0xE 1 == 1) * le b 0xC 1 ≤ Config.localBytes →
    le b 8 4 + 8 ≤ Config.localBytes →
    exec (.catSearchPort p req) s = .next (s.withDev
      (({ s.dev with cat := { s.dev.cat with
          reqs := s.dev.cat.reqs ++ [{ id := s.dev.cat.nextReq, gal := p.val, result := le b 4 4, done := le b 8 4, tag := le b 0xF 1, left := le b 0xC 1 }]
          nextReq := s.dev.cat.nextReq + 1 } } : Dev).catIntake s.core k ((List.range (le b 0xC 1)).map (fun j =>
        { src := .gal s.dev.cat.nextReq j, key := ofLE (s.dev.localRead p.val (le b 0 4 + 8 * x.width * j) (8 * x.width)), all := le b 0xE 1 == 1,
          time := s.core.time.toNat }))))) ∧
  (∀ (s : State) (owner : BitVec 8) (set : Fin 64) (x : CatKey) (xs : List CatKey) (k n : Nat) (g : CatGrp), s.on → k = owner.toNat * 64 + set.val →
    look s.dev.cat.intake k [] = x :: xs → s.dev.catPick k = some n → find s.dev.cat.grp n = some g →
    (64 ≤ (x :: xs).length ∨ x.time + s.dev.getF R.catCtrl 31 16 ≤ s.core.time.toNat) →
    exec (.catBatchClose owner set) s = .next (s.withDev { s.dev with cat := { s.dev.cat with
      intake := put s.dev.cat.intake k ((x :: xs).drop 64)
      grp := put s.dev.cat.grp n { g with queue := g.queue ++ [(x :: xs).take 64] } } })) ∧
  (∀ (s : State) (d1 d2 d2' d3 : Dev) (refilling : List Nat), s.on →
    d1 = each (sortNat (keys s.dev.cat.grp)) (fun n (d : Dev) => d.catPass s.core n) s.dev →
    refilling = keys (d1.cat.grp.filter (fun (e : Nat × CatGrp) => match e.2.st with | .refill _ => true | _ => false)) →
    d2 = each (sortNat (keys d1.cat.sets)) (fun k (d : Dev) => d.catGap s.core k (1 + ((d.catSet k).map (fun (s : CatSet) => s.upd.length)).getD 0)) d1 →
    d2' = each (keys d2.cat.resend) (fun k (d : Dev) => d.catResend s.core k (look d.cat.resend k [])) d2 →
    d3 = each refilling (fun n (d : Dev) => match find d.cat.grp n with
      | some g => (match g.st with | .refill m => d.setGrp n { g with st := .refill (m + 1) } | _ => d)
      | none => d) d2' →
    exec .catPassSlot s = .next (s.withDev
      ((each d3.cat.jobs (fun (j : CatJob) (d : Dev) => d.catSkip s.core j.inst j.pair j.cid (j.count + 1)) d3).catUnhold s.core))) ∧
  (∀ (s : State) (r : CmdRef) (x : Cmd) (n : Nat) (j : CatJob), s.on → s.dev.take r 0x20 isCatOp = some x → n = le x.area 0x10 4 → 0 < n →
    n ≤ 65536 → le x.area 0x18 1 ≤ 3 → 128 * n ≤ le x.area 0x14 4 →
    j = { inst := x.inst, pair := x.pair, cid := x.cid, ops := le x.area 0 8, results := le x.area 8 8, count := n, stride := le x.area 0x18 1, stop := bit (le x.area 0x19 1) 0, excess := decide (128 * n < le x.area 0x14 4) } →
    exec (.catalogueBatch r) s = .next (s.withDev
      (({ s.dev.startCmd x.inst x.pair x.cid with cat := { s.dev.cat with jobs := s.dev.cat.jobs ++ [j] } } : Dev).catSkip
        s.core x.inst x.pair x.cid (n + 1)))) ∧
  (∀ (s : State) (r : CmdRef) (j j' : CatJob) (bs : Bytes) (set k : Nat) (x : CatSet) (d : Dev), s.on →
    s.dev.catJob r.inst.toNat r.pair.val r.cid.toNat = some j → s.dev.catRecord j = some (.ok bs) → set = le bs 1 1 → set < 64 → k = j.inst * 64 + set →
    ((∀ (op : Nat) (i : Instr) (y : CatKey), (op, i) ∈ [(1, Instr.searchFirst r), (2, .searchAll r), (0x14, .catRead r)] → le bs 0 1 = op →
        j.out.any (fun (o : Nat × Nat × Bool) => o.2.1 == set && !o.2.2) = false →
        j' = { j with next := j.next + 1, out := j.out ++ [(j.next, set, true)] } → d = s.dev.setJob j' → d.catSet k = some x →
        y = { src := .job j.inst j.pair j.cid j.next, key := le bs 0x10 (8 * x.width), all := op == 2, time := s.core.time.toNat } →
        exec i s = .next (s.withDev ((if op = 0x14 then d.catRead s.core j' k x j.next (le bs 4 4) else d.catIntake s.core k [y]).catSkip s.core j.inst j.pair j.cid (j.count + 1)))) ∧
      (∀ (op : Nat) (i : Instr) (e : CatEntry) (u : CatUpd), (op, i) ∈ [(0x10, Instr.append r), (0x11, .insert r), (0x12, .catWrite r), (0x13, .delete r), (0x15, .clear r)] →
        le bs 0 1 = op → j.out.any (fun (o : Nat × Nat × Bool) => o.2.1 == set && o.2.2) = false →
        j' = { j with next := j.next + 1, out := j.out ++ [(j.next, set, false)] } → d = s.dev.setJob j' → d.catSet k = some x → d.catReady k ≠ [] →
        e = { valid := true, key := le bs 0x10 (8 * x.width), care := le bs 0x30 (8 * x.width), data := le bs 0x50 (8 * x.width - 1) } →
        u = { src := .job j.inst j.pair j.cid j.next, op := op, rank := le bs 4 4, entry := e } →
        exec i s = .next (s.withDev ((d.setCatSet k { x with upd := x.upd ++ [u] }).catSkip s.core j.inst j.pair j.cid (j.count + 1)))))) ∧
  (∀ (s : State) (src : Source) (n : BitVec 7) (v : BitVec 63), s.on → s.dev.isManager s.core src = true →
    exec (.catGroupEnable src n v) s = .next (s.withDev (s.dev.catEnable n.toNat (BitVec.ofNat 64 (2 ^ 63 + v.toNat)))) ∧
    exec (.catGroupDisable src n v) s = .next (s.withDev (match find s.dev.cat.grp n.toNat with
      | none => s.dev.writeReg (R.catGroup n.toNat) (BitVec.ofNat 64 v.toNat)
      | some g => (s.dev.setFlag (R.catGroup n.toNat) 63 false).setGrp n.toNat { g with disabling := true }))) ∧
  (∀ (s : State) (n : BitVec 7) (g : CatGrp) (x : CatSet), s.on → find s.dev.cat.grp n.toNat = some g → g.disabling = true → g.queue = [] →
    s.dev.catSet (catKey g.owner g.set) = some x → x.prog = .idle →
    exec (.catDisableEffect n) s = .next (s.withDev
      ((({ s.dev with cat := { s.dev.cat with grp := del s.dev.cat.grp n.toNat } } : Dev).catStrand s.core (catKey g.owner g.set)).dropGrp n.toNat g))) ∧
  (∀ (s : State) (n : BitVec 7) (g : CatGrp) (x : CatSet) (gaps : Nat), s.on → find s.dev.cat.grp n.toNat = some g → g.st = .refill gaps →
    s.dev.catSet (catKey g.owner g.set) = some x → ceilDiv (min x.count (bankEntries x.width) * x.width) 64 ≤ gaps →
    s.dev.catReady (catKey g.owner g.set) ≠ [] →
    exec (.catRefillDone n) s = .next (s.withDev ((s.dev.setGrp n.toNat { g with st := .ready }).count R.catCntMove (x.count * x.width))))

/-- The commands of the Folio engines complete (R278 to R299): a submission, an append, an abort, a descriptor's start, a strip, the notice of a
task's end, a write error and a role. -/
def Obligations.FolioComplete : Prop :=
  (∀ (s : State) (p : Fin 136) (v : BitVec 64) (bs : Bytes) (e : Nat) (x : FolChain), s.on → localOk v.toNat 64 64 = true →
    bs = s.dev.localRead p.val v.toNat 64 → s.dev.folPlace = some e →
    x = { gal := p.val, task := (s.dev.core p.val).task, tag := le bs 4 2, addr := v.toNat, order := s.dev.fol.submitted } →
    exec (.folSubmit p v) s = .next (s.withDev
      (({ s.dev with fol := { s.dev.fol with submitted := s.dev.fol.submitted + 1 } } : Dev).setFol e (s.dev.folChains e ++ [x])))) ∧
  (∀ (s : State) (p : Fin 136) (v : BitVec 64), s.on → localOk v.toNat 64 64 = false →
    exec (.folSubmit p v) s = .next (s.withDev (s.dev.postError p.val 0x20000 0))) ∧
  (∀ (s : State) (p : Fin 136) (v : BitVec 64) (e : Nat) (x : FolChain), s.on → s.dev.folFind p.val (bits v.toNat 15 0) = some (e, x) →
    exec (.folAppend p v) s = .next (s.withDev (s.dev.folUpdate e p.val x.tag
      (if x.st = .parked then
        if bit (le (s.dev.localRead p.val x.addr 64) 3 1) 2 = false then some x
        else if localOk (le (s.dev.localRead p.val x.addr 64) 0x30 8) 64 64 then
          some { x with addr := le (s.dev.localRead p.val x.addr 64) 0x30 8, st := .ready, bytes := [] }
        else none
      else some { x with append := true })))) ∧
  (∀ (s : State) (p : Fin 136) (v : BitVec 64) (e : Nat) (x : FolChain), s.on → s.dev.folFind p.val (bits v.toNat 15 0) = some (e, x) →
    (∀ (r : FolRun) (st : Nat), x.st = .running r →
      st = (match r.ended with
        | some n => if 0x100 ≤ n then n else if s.dev.awaits (x.who e s.dev) then 0x0100 else 0x0002
        | none => 0x0100) →
      exec (.folAbort p v) s = .next (s.withDev (s.dev.folUpdate e p.val x.tag
        (some { x with st := .running { r with ended := some st, last := true } })))) ∧
    (x.st = .ready ∨ x.st = .parked → exec (.folAbort p v) s = .next (s.withDev (s.dev.folUpdate e p.val x.tag none)))) ∧
  (∀ (s : State) (e : Fin 16) (x y : FolChain) (d : Dev), s.on → s.dev.folTake e.val FolChain.isReady = some (x, d) →
    y = { x with bytes := d.localRead x.gal x.addr 64 } →
    (∀ r e1, d.folCheck e.val y = .ok r → e1 = d.folCheckReads s.core e.val y →
      exec (.folDescriptorStart e) s = .next (s.withDev (e1.setFol e.val (e1.folChains e.val ++ [{ y with st := .running r }])))) ∧
    (∀ st f, d.folCheck e.val y = .error (st, f) →
      exec (.folDescriptorStart e) s = .next (s.withDev
        (((d.folCheckReads s.core e.val y).folAccess s.core e.val y f).folComplete s.core e.val y {} st)))) ∧
  (∀ (s : State) (e : Fin 16) (x : FolChain) (d d' : Dev) (r : FolRun), s.on →
    s.dev.folTake e.val (s.dev.folDue e.val) = some (x, d) → x.st = .running r →
    (∀ st, r.ended = some st → exec (.folStrip e) s = .next (s.withDev (d.folComplete s.core e.val x r st))) ∧
    (∀ z, r.ended = none → (if x.compress then d.folEncode s.core e.val x r else d.folDecode s.core e.val x r) = (d', z) →
      exec (.folStrip e) s = .next (s.withDev (match z with
        | .go r => d'.setFol e.val (d'.folChains e.val ++ [{ x with st := .running r }])
        | .ended r st => d'.setFol e.val (d'.folChains e.val ++ [{ x with st := .running { r with ended := some st } }])
        | .failed r f wr => (d'.recordFail s.core (x.who e.val d') x.inst wr f).setFol e.val
            (if wr && f.closed then d'.folChains e.val
             else d'.folChains e.val ++ [{ x with st := .running { r with ended := some f.status } }]))))) ∧
  (∀ (s : State) (n : TaskNote) (ns : List TaskNote), s.on → s.dev.fol.notices = n :: ns →
    exec .folTaskNotice s = .next (s.withDev { s.dev with fol := { s.dev.fol with
      notices := ns
      eng := s.dev.fol.eng.map (fun e => (e.1, e.2.filter (fun x => !(x.gal == n.gal && x.task == n.task)))) } })) ∧
  (∀ (s : State) (e : Fin 16) (p : Fin 136) (tag : BitVec 16), s.on →
    exec (.folWriteError e p tag) s = .next (s.withDev (s.dev.folUpdate e.val p.val tag.toNat none))) ∧
  (∀ (s : State) (src : Source) (e : Fin 16) (role : BitVec 2), s.on → s.dev.isManager s.core src = true →
    exec (.folRoleWrite src e role) s = .next (s.withDev
      (if role.toNat = 3 then s.dev
       else if s.dev.folChains e.val = [] then s.dev.setF (R.folEng e.val) 63 62 role.toNat
       else s.dev.setFlag R.folStatus 1 true)))

/-- The commands of the DMA channels complete (R436 to R452): a gallery's five port writes, a descriptor's start, a turn of its transfer, its
record, a host error, the notice of a task's end and a write error. -/
def Obligations.DmaComplete : Prop :=
  (∀ (s : State) (p : Fin 136) (v : BitVec 64) (q : DmaCq) (bs : Bytes) (ch : Nat) (x : DmaChain), s.on → localOk v.toNat 64 64 = true →
    find s.dev.dma.cq p.val = some q → bs = s.dev.localRead p.val v.toNat 64 →
    best (fun a b => decide ((s.dev.dmaChains a).length < (s.dev.dmaChains b).length))
      (((s.dev.dmaOwned (ctInst (s.dev.core p.val).task)).filter (fun ch => !s.dev.isFenced Blk.dma ch)).filter
        (fun ch => decide ((s.dev.dmaChains ch).length < 16))) = some ch →
    x = { gal := p.val, task := (s.dev.core p.val).task, tag := le bs 4 2, addr := v.toNat } →
    exec (.dmaSubmit p v) s = .next (s.withDev (s.dev.setDma ch (s.dev.dmaChains ch ++ [x])))) ∧
  (∀ (s : State) (p : Fin 136) (v : BitVec 64), s.on → find s.dev.dma.cq p.val = none →
    exec (.dmaSubmit p v) s = .next (s.withDev (s.dev.postError p.val 0x70000 0))) ∧
  (∀ (s : State) (p : Fin 136) (v : BitVec 64) (ch : Nat) (x : DmaChain) (tail : Bytes), s.on →
    s.dev.dmaFind p.val (bits v.toNat 15 0) = some (ch, x) → tail = s.dev.localRead p.val x.addr 64 →
    exec (.dmaAppend p v) s = .next (s.withDev (s.dev.dmaUpdate ch p.val x.tag
      (if x.st = .parked then
        if bit (le tail 1 1) 1 = false then some x
        else if localOk (le tail 0x30 8) 64 64 then some { x with addr := le tail 0x30 8, st := .ready, bytes := [], append := false }
        else none
      else some { x with append := true })))) ∧
  (∀ (s : State) (p : Fin 136) (v : BitVec 64) (ch : Nat) (x : DmaChain), s.on → s.dev.dmaFind p.val (bits v.toNat 15 0) = some (ch, x) →
    (∀ r : DmaRun, x.st = .running r → exec (.dmaAbort p v) s = .next (s.withDev (s.dev.dmaUpdate ch p.val x.tag (some
      { x with st := .running { r with last := true, ended := some (match r.ended with
        | some st => if 0x100 ≤ st then st else if s.dev.awaits (x.who ch s.dev) then 0x0100 else 0x0002
        | none => 0x0100) } })))) ∧
    (x.st = .ready ∨ x.st = .parked → exec (.dmaAbort p v) s = .next (s.withDev (s.dev.dmaUpdate ch p.val x.tag none)))) ∧
  (∀ (s : State) (p : Fin 136) (v : BitVec 64) (n base : Nat), s.on → n = 2 ^ bits v.toNat 27 24 → base = bits v.toNat 20 0 →
    s.dev.dma.chan.any (fun (e : Nat × List DmaChain) => e.2.any (fun (x : DmaChain) => x.gal == p.val)) = false →
    4 ≤ bits v.toNat 27 24 → bits v.toNat 27 24 ≤ 10 → base % (32 * n) = 0 →
    exec (.cqCfg p v) s = .next (s.withDev { s.dev with dma := { s.dev.dma with cq := put s.dev.dma.cq p.val { base := base, size := n } } })) ∧
  (∀ (s : State) (p : Fin 136) (v : BitVec 64) (q : DmaCq) (h n : Nat), s.on → find s.dev.dma.cq p.val = some q → h = bits v.toNat 15 0 →
    n = (h + q.size - q.head) % q.size → h < q.size → n ≤ q.posted →
    exec (.cqHead p v) s = .next (s.withDev { s.dev with dma := { s.dev.dma with
      cq := put s.dev.dma.cq p.val { q with head := h, posted := q.posted - n } } })) ∧
  (∀ (s : State) (ch : Fin 64) (x y : DmaChain) (d d' : Dev), s.on → s.dev.dmaTake ch.val DmaChain.isReady = some (x, d) →
    y = { x with bytes := d.localRead x.gal x.addr 64 } →
    (∀ r e, d.dmaCheck s.core ch.val y = (d', .ok r) → e = (if r.down then d'.count R.dmaCntMove else d') →
      exec (.dmaDescriptorStart ch) s = .next (s.withDev (e.setDma ch.val (e.dmaChains ch.val ++ [{ y with st := .running r }])))) ∧
    (∀ st f d1 e, d.dmaCheck s.core ch.val y = (d', .error (st, f)) →
      (f = none ∧ d1 = d') ∨ (∃ g, f = some g ∧ d1 = d'.recordFail s.core (y.who ch.val d') y.inst false g) → e = (if st = 0x0202 then d1.count R.dmaCntReject else d1) →
      exec (.dmaDescriptorStart ch) s = .next (s.withDev (e.setDma ch.val (e.dmaChains ch.val ++ [{ y with st := .running { ended := some st } }]))))) ∧
  (∀ (s : State) (ch : Fin 64) (x : DmaChain) (r r1 : DmaRun) (r' : Option DmaRun) (d d1 d' : Dev), s.on →
    s.dev.dmaTake ch.val DmaChain.isMoving = some (x, d) → x.st = .running r → d.dmaLost ch.val x r = (d1, r1) →
    (r1.ended.isSome = true ∧ d' = d1 ∧ r' = some r1) ∨ (r1.ended = none ∧ d1.dmaTurn s.core ch.val x r1 = (d', r')) →
    exec (.dmaTransfer ch) s = .next (s.withDev (d'.setDma ch.val (d'.dmaChains ch.val ++ (match r' with
      | some r => [{ x with st := .running r }]
      | none => []))))) ∧
  (∀ (s : State) (ch : Fin 64) (p : Fin 136) (tag : BitVec 16) (x : DmaChain) (r : DmaRun), s.on →
    (s.dev.dmaChains ch.val).find? (fun (x : DmaChain) => x.gal == p.val && x.tag == tag.toNat) = some x → x.st = .running r → r.ended = none →
    exec (.dmaHostError ch p tag) s = .next (s.withDev (s.dev.dmaUpdate ch.val p.val tag.toNat (some
      { x with st := .running (r.fail (.bus 0 .host)) })))) ∧
  (∀ (s : State) (ch : Fin 64) (x : DmaChain) (r : DmaRun) (st : Nat) (d d0 d1 d2 d3 : Dev), s.on →
    s.dev.dmaTake ch.val (fun x => x.isEnded && s.dev.cqFree x.gal && !s.dev.awaits (x.who ch.val s.dev)) = some (x, d) →
    d.isFenced Blk.gal x.gal = false → (∃ r0, x.st = .running r0 ∧ d.dmaLost ch.val x r0 = (d0, r)) → r.ended = some st →
    d1 = d0.cqPost x.gal (fun ph => dmaRecord st (ph + 2 * b2n r.down + 4 * b2n r.hostErr) x.descTag ch.val r.done
      (if st < 0x100 then 0 else x.length - r.done) s.core.time.toNat) →
    d2 = (if x.event then d1.raiseDirected (1024 + ch.val) ((d1.logicalOf x.gal).getD 0) else d1) →
    d3 = (if 0x100 ≤ st then d2.setReg R.dmaFault (BitVec.ofNat 64 (st <<< 48 + x.inst <<< 40 + ((d1.logicalOf x.gal).getD 0) <<< 32 +
      ch.val <<< 26 + x.descTag)) else d2).count R.dmaCntDesc →
    ∃ d4, d4 = (if st = 0x0100 then d3.count R.dmaCntAbort else if st = 0x0002 then d3.count R.dmaCntLate else d3) ∧
      exec (.dmaRecordPost ch) s = .next (s.withDev (d4.setDma ch.val (d4.dmaChains ch.val ++ (
        if r.last then none
        else if x.linkValid then x.goTo x.next
        else if x.append && bit (le (d4.localRead x.gal x.addr 64) 1 1) 1 then x.goTo (le (d4.localRead x.gal x.addr 64) 0x30 8)
        else some { x with st := .parked, append := false } : Option DmaChain).toList)))) ∧
  (∀ (s : State) (n : TaskNote) (ns : List TaskNote), s.on → s.dev.dma.notices = n :: ns →
    exec .dmaTaskNotice s = .next (s.withDev
      (({ s.dev with dma := { s.dev.dma with notices := ns } } : Dev).dmaDrop (fun x => x.gal == n.gal && x.task == n.task)))) ∧
  (∀ (s : State) (p : Fin 136), s.on →
    exec (.dmaWriteError p) s = .next (s.withDev (s.dev.dmaDrop (fun x => x.gal == p.val))))

/-- The commands of the event controller complete (R453 to R473): a gallery's raise and claim, the register writes that raise, route, withdraw and
coalesce, the MSI-X table, a monitor's raise, a cycle of the arbiter, a profile's time and the two notices. -/
def Obligations.EventsComplete : Prop :=
  (∀ (s : State) (p : Fin 136) (v : BitVec 64) (n : Nat), s.on → n = 2048 + bits v.toNat 10 0 →
    exec (.evtRaisePort p v) s = .next (s.withDev
      (if s.dev.owner n = fld (s.dev.core p.val).task 63 56 then s.dev.raiseEvent n
       else (s.dev.count R.evtCntRaiserej).setFlag R.evtStatus 2 true))) ∧
  (∀ (s : State) (p : Fin 136) (v : BitVec 64) (g key : Nat) (n : Option Nat) (d e : Dev), s.on → bits v.toNat 20 0 % 8 = 0 →
    bits v.toNat 47 21 = 0 → s.dev.logicalOf p.val = some g → n = s.dev.claimed g (bits v.toNat 63 48) →
    d = (match n with
      | some n => if isDirected n then
          { s.dev with evt := { s.dev.evt with directed := upd s.dev.evt.directed (n * 128 + g) {} (fun x => { x with deliv := none }) } }
        else { s.dev with evt := { s.dev.evt with routed := upd s.dev.evt.routed n {} (fun x => { x with deliv := none }) } }
      | none => s.dev.count R.evtCntSpurious) →
    key = Key.localStore p.val (bits v.toNat 20 0) →
    e = ({ d with
      mem := d.mem.setN key (toLE 8 (d.claimWord n (d.deliveredTo g).length))
      evt := { d.evt with lastClaim := put d.evt.lastClaim g (n.getD 0xFFFF) } } : Dev).clearTags key 8 →
    exec (.evtClaim p v) s = .next (s.withDev
      (e.setCore p.val { e.core p.val with evtPending := decide (0 < (d.deliveredTo g).length) }))) ∧
  (∀ (s : State) (p : Fin 136) (v : BitVec 64), s.on → bits v.toNat 20 0 % 8 ≠ 0 ∨ bits v.toNat 47 21 ≠ 0 →
    exec (.evtClaim p v) s = .next (s.withDev (s.dev.postError p.val 0x50008 0))) ∧
  (∀ (s : State) (src : Source) (v : BitVec 64) (n : BitVec 13) (k : BitVec 7) (j : BitVec 4), s.on → s.dev.isManager s.core src = true →
    exec (.evtRaise src v) s = .next (s.withDev
      (if 2048 ≤ fld v 12 0 ∧ fld v 12 0 < 4096 then s.dev.raiseEvent (fld v 12 0) else s.dev.setFlag R.evtStatus 2 true)) ∧
    exec (.evtRouteWrite src n v) s = .next (s.withDev (s.dev.writeRoute n.toNat v)) ∧
    exec (.evtPendWithdraw src k v) s = .next (s.withDev { s.dev with evt := { s.dev.evt with
      routed := s.dev.evt.routed.map (fun e => if e.1 / 64 == k.toNat && bit v.toNat (e.1 % 64) then
        (e.1, { e.2 with pend := false, count := 0, ripe := false }) else e)
      directed := s.dev.evt.directed.map (fun e => if e.1 / 128 / 64 == k.toNat && bit v.toNat (e.1 / 128 % 64) then
        (e.1, { e.2 with pend := false, count := 0, ripe := false }) else e) } }) ∧
    exec (.evtCoalWrite src j v) s = .next (s.withDev
      (if j.toNat = 0 then s.dev else s.dev.writeReg (R.evtCoal j.toNat) (if fld v 7 0 = 0 then setFld v 7 0 1 else v))) ∧
    exec (.evtHoldWrite src v) s = .next (s.withDev (s.dev.writeReg R.evtCtrl v))) ∧
  (∀ (s : State) (i : BitVec 8) (off : BitVec 10) (wide : Bool) (v : BitVec 64), s.on → s.core.served = true →
    (s.dev.presenter i.toNat).isSome = true → off.toNat % (if wide then 8 else 4) = 0 →
    exec (.msixTableWrite i off wide v) s = .next (s.withDev { s.dev with evt := { s.dev.evt with
      msix := upd s.dev.evt.msix (i.toNat * 64 + off.toNat / 16) {} (fun m =>
        if wide then (m.write (off.toNat % 16 / 4) (bits v.toNat 31 0)).write (off.toNat % 16 / 4 + 1) (bits v.toNat 63 32)
        else m.write (off.toNat % 16 / 4) (bits v.toNat 31 0)) } })) ∧
  (∀ (s : State) (n : BitVec 13) (g : Fin 128), s.on →
    exec (.eventRaise n g) s = .next (s.withDev
      (if isDirected n.toNat then s.dev.raiseDirected n.toNat g.val else if isSource n.toNat then s.dev.raiseEvent n.toNat else s.dev))) ∧
  (∀ (s : State) (ts : List Nat) (d : Dev), s.on → s.dev.flag R.evtCtrl 0 = false → ts = (s.dev.readyTargets s.core).take 4 →
    d = ts.foldl Dev.deliverTarget s.dev →
    exec .evtArbiterCycle s = .next (s.withDev (match ts.getLast? with
      | some t => { d with evt := { d.evt with rot := t + 1 } }
      | none => d))) ∧
  (∀ (s : State) (n : BitVec 13) (g : Fin 128) (i : BitVec 8) (v : BitVec 6) (f : EvtSlot → EvtSlot), s.on →
    f = (fun x => if x.pend && x.limit != 0 then { x with ripe := true } else x) →
    exec (.evtCoalTimeout (.routed n)) s = .next (s.withDev { s.dev with evt := { s.dev.evt with
      routed := upd s.dev.evt.routed n.toNat {} f } }) ∧
    exec (.evtCoalTimeout (.directed n g)) s = .next (s.withDev { s.dev with evt := { s.dev.evt with
      directed := upd s.dev.evt.directed (n.toNat * 128 + g.val) {} f } }) ∧
    exec (.evtCoalTimeout (.vector i v)) s = .next (s.withDev { s.dev with evt := { s.dev.evt with
      vectors := upd s.dev.evt.vectors (i.toNat * 64 + v.toNat) {} f } })) ∧
  (∀ (s : State) (g : Fin 128), s.on →
    (g.val ∈ s.dev.doc.notes → exec (.evtTaskNotice g) s = .next (s.withDev { s.dev.taskNotice g.val with doc := { (s.dev.taskNotice g.val).doc with
      notes := (s.dev.taskNotice g.val).doc.notes.filter (· != g.val) } })) ∧
    (s.dev.isFenced Blk.gal (s.dev.phys g.val) = true →
      exec (.evtFenceNotice g) s = .next (s.withDev { s.dev.taskNotice g.val with evt := { (s.dev.taskNotice g.val).evt with
        gal := put (s.dev.taskNotice g.val).evt.gal g.val .withdrawn } })))

/-- The commands of the Provenance engine complete (R474 to R491): the five requests from a host command and from a gallery's port, a lane's block,
a comparison's end, an OPEN that waited and the notice of a task's end. -/
def Obligations.ProvenanceComplete : Prop :=
  (∀ (s : State) (ref : CmdRef) (x : Cmd) (r : PrvReq) (op : Nat) (i : Instr), s.on → s.dev.take ref 0x28 isDigestOp = some x →
    r = { host := some (x.inst, x.pair, x.cid), inst := x.inst, bytes := padTo 128 (x.area.take 0x30) } →
    (op, i) ∈ [(1, Instr.digestOpen (.host ref)), (2, .digestUpdate (.host ref)), (3, .digestSave (.host ref)), (4, .digestRestore (.host ref)),
      (5, .digestClose (.host ref))] → r.op = op →
    exec i s = .next (s.withDev (match op with
      | 1 => (s.dev.startCmd x.inst x.pair x.cid).prvOpen s.core r
      | 4 => (s.dev.startCmd x.inst x.pair x.cid).prvRestore s.core r
      | 5 => (s.dev.startCmd x.inst x.pair x.cid).prvClose s.core r
      | _ => (s.dev.startCmd x.inst x.pair x.cid).prvQueue s.core r))) ∧
  (∀ (s : State) (p : Fin 136) (v : BitVec 64) (r : PrvReq) (op : Nat) (i : Instr), s.on → s.dev.prvPortReq p.val v.toNat = some r →
    (op, i) ∈ [(1, Instr.digestOpen (.port p v)), (2, .digestUpdate (.port p v)), (3, .digestSave (.port p v)), (4, .digestRestore (.port p v)),
      (5, .digestClose (.port p v))] → r.op = op →
    exec i s = .next (s.withDev (match op with
      | 1 => s.dev.prvOpen s.core r
      | 4 => s.dev.prvRestore s.core r
      | 5 => s.dev.prvClose s.core r
      | _ => s.dev.prvQueue s.core r))) ∧
  (∀ (s : State) (p : Fin 136) (v : BitVec 64) (i : Instr), s.on → s.dev.prvPortReq p.val v.toNat = none →
    i ∈ [Instr.digestOpen (.port p v), .digestUpdate (.port p v), .digestSave (.port p v), .digestRestore (.port p v), .digestClose (.port p v)] →
    exec i s = .next (s.withDev (s.dev.postError p.val 0x60000 0))) ∧
  (∀ (s : State) (ref : CmdRef) (x : Cmd) (r : PrvReq), s.on → s.dev.take ref 0x28 isDigestOp = some x →
    r = { host := some (x.inst, x.pair, x.cid), inst := x.inst, bytes := padTo 128 (x.area.take 0x30) } → r.op = 0 ∨ 5 < r.op →
    exec (.digestOpen (.host ref)) s = .next (s.withDev ((s.dev.startCmd x.inst x.pair x.cid).prvComplete s.core r none false 0 0x0201))) ∧
  (∀ (s : State) (l : Fin 8) (k : Nat) (x : PrvCtx) (n : Nat), s.on → s.dev.isFenced Blk.prv l.val = false →
    ((List.range 256).map (fun j => (s.dev.prv.last + 1 + j) % 256)).find? (fun k => match s.dev.prvCtx k with
      | some x => x.ready
      | none => false) = some k → s.dev.prvCtx k = some x → n = x.algo.blockBytes →
    exec (.prvLaneBlock l) s = .next (s.withDev
      (((({ s.dev with prv := { s.dev.prv with last := k } } : Dev).setPrv k
        { x with chain := x.algo.absorb x.chain (x.buf.take n), buf := x.buf.drop n, lane := l.val }).count R.prvCntBlocks).prvAdvance s.core k 40))) ∧
  (∀ (s : State) (k : BitVec 8) (agree : Bool) (x : PrvCtx) (r : PrvReq) (rs : List PrvReq) (st : Nat) (result : Bytes), s.on →
    s.dev.prvCtx k.toNat = some x → x.queue = r :: rs → x.step = .compare st result →
    exec (.prvCompareDone k agree) s = .next (s.withDev (s.dev.prvVerdict s.core k.toNat x r st result agree))) ∧
  (∀ (s : State) (k : Nat) (r : PrvReq) (a : DigestAlg), s.on → s.dev.prvFree = some k →
    s.dev.prv.waiting.find? (fun (r : PrvReq) => s.dev.prvRoom r.inst) = some r → digestAlg r.alg = some a →
    exec .prvOpenResume s = .next (s.withDev
      (({ s.dev with prv := { s.dev.prv with waiting := s.dev.prv.waiting.erase r } } : Dev).prvBind s.core k r a))) ∧
  (∀ (s : State) (n : TaskNote) (ns : List TaskNote), s.on → s.dev.prv.notices = n :: ns →
    exec .prvTaskNotice s = .next (s.withDev
      (each ((s.dev.prv.ctx.filter (fun (e : Nat × PrvCtx) => e.2.port && e.2.gal == n.gal && e.2.task == n.task)).map (fun e => e.1))
        (fun k (d : Dev) => d.prvCloseCtx s.core k false)
        { s.dev with prv := { s.dev.prv with
          notices := ns
          waiting := s.dev.prv.waiting.filter (fun (r : PrvReq) => !(r.gal == n.gal && r.task == n.task))
          owed := s.dev.prv.owed.filter (fun e => e.1.host.isSome || !(e.1.gal == n.gal && e.1.task == n.task)) } })))

/-- The commands of the memory system complete (R361 to R384): a request's issue, a read's return, a frozen channel's release, a promotion by age, a
refresh, a temperature sample, a row-disturbance window, a scrub, a soft repair and a set descriptor. -/
def Obligations.MemorySystemComplete : Prop :=
  (∀ (s : State) (ch : Fin 520) (x : Chan) (r : MemReq) (d : Dev), s.on → x = s.dev.chan ch.val → x.st = .active →
    best (x.before ch.val) (x.queue.filter (x.issuable ch.val)) = some r →
    d = (if x.hit ch.val r then s.dev
      else s.dev.activate s.core ch.val (Config.dramBank ch.val r.block) (Config.dramRow ch.val r.block) (r.cls + if r.promoted then 4 else 0)) →
    exec (.memRequestIssue ch) s = .next (s.withDev (d.setChan ch.val
      ((((d.chan ch.val).issue ch.val r).enterCmd
        { time := s.core.time.toNat, cmd := if r.write then 2 else 1, cls := r.cls + (if r.promoted then 4 else 0),
          bank := Config.dramBank ch.val r.block, row := Config.dramRow ch.val r.block, column := r.block % 65536 }).makeUp s.core)))) ∧
  (∀ (s : State) (ch : Fin 520) (block : Nat), s.on →
    (∀ (wrong : List Nat) (d : Dev), d = (if (s.dev.chan ch.val).st = .active then s.dev.correctedError s.core ch.val block else s.dev) →
      (s.dev.codeOf ch.val wrong = .clean → exec (.memReadReturn ch block (.bits wrong)) s = .next s) ∧
      (s.dev.codeOf ch.val wrong = .corrected → exec (.memReadReturn ch block (.bits wrong)) s = .next (s.withDev d)) ∧
      (s.dev.codeOf ch.val wrong = .detected →
        exec (.memReadReturn ch block (.bits wrong)) s = .next (s.withDev (s.dev.freezeChannel s.core ch.val block 0))) ∧
      (s.dev.codeOf ch.val wrong = .beyond → ∃ e : Dev, e = { s.dev with fresh := s.dev.fresh + 1 } ∧
        (exec (.memReadReturn ch block (.bits wrong)) s = .next (s.withDev e) ∨
          exec (.memReadReturn ch block (.bits wrong)) s = .next (s.withDev (if (e.chan ch.val).st = .active then e.correctedError s.core ch.val block
            else e)) ∨
          exec (.memReadReturn ch block (.bits wrong)) s = .next (s.withDev (e.freezeChannel s.core ch.val block 0))))) ∧
    exec (.memReadReturn ch block .parity) s =
      .next (s.withDev (if ch.val < 512 then s.dev else s.dev.freezeChannel s.core ch.val block 1))) ∧
  (∀ (s : State) (ch : Fin 520), s.on →
    (s.dev.registrarUp = true → exec (.memChannelRelease ch) s = .next (s.withDev 
      (((s.dev.copyCapture s.core ch.val).releaseChannel s.core ch.val).settleOwed s.core))) ∧
    (s.dev.registrarUp = false → exec (.memReleaseTimeout ch) s = .next (s.withDev
      ((s.dev.releaseChannel s.core ch.val).settleOwed s.core)))) ∧
  (∀ (s : State) (ch : Fin 520) (order : Nat), s.on →
    (s.dev.chan ch.val).queue.any (fun r => r.order == order && !r.promoted && r.cls != 0 &&
      decide (r.since + s.dev.ageLimit r.cls < s.core.time.toNat)) = true →
    exec (.memAgePromote ch order) s = .next (s.withDev ((s.dev.setChan ch.val { s.dev.chan ch.val with
      queue := (s.dev.chan ch.val).queue.map (fun r => if r.order = order then { r with promoted := true } else r) }).count R.memCntPromote))) ∧
  (∀ (s : State) (ch : Fin 520) (x : Chan), s.on → x = s.dev.chan ch.val → x.st = .active →
    exec (.memRefreshDue ch) s = .next (s.withDev (s.dev.setChan ch.val
      (if x.urgent then
        if x.postponed < x.postponeLimit ch.val then { x with postponed := x.postponed + 1 } else x.refreshes s.core 1
      else (x.refreshes s.core 1).makeUp s.core)))) ∧
  (∀ (s : State) (ch : Fin 520) (celsius : Nat) (mr4 : Fin 3), s.on →
    exec (.memTempSample ch celsius mr4) s = .next (s.withDev (s.dev.setChan ch.val { s.dev.chan ch.val with
      rate := nextRate (s.dev.chan ch.val).rate celsius, mr4 := if ch.val < 512 then 0 else mr4.val }))) ∧
  (∀ (s : State) (ch : Fin 520) (x y : Chan) (high kset kmin : Nat), s.on → x = s.dev.chan ch.val → y = { x with acts := [] } →
    high = s.dev.getF R.memRh 47 32 → kset = s.dev.getF R.memRh 20 16 → kmin = min (s.dev.getF R.memRh 12 8) kset →
    exec (.memRhWindow ch) s = .next (s.withDev (s.dev.setChan ch.val
      (if s.dev.flag R.memRh 0 = false then y
      else if x.acts.any (fun e => decide (high < e.2)) then { y with k := min x.k (max kmin (x.k - 1)), quiet := 0 }
      else if x.acts.all (fun e => decide (2 * e.2 < high)) = false then { y with quiet := 0 }
      else if x.quiet + 1 = 32 then { y with k := max x.k (min kset (x.k + 1)), quiet := 0 }
      else { y with quiet := x.quiet + 1 })))) ∧
  (∀ (s : State) (ch : Fin 520) (block : Nat) (err : MemErrKind) (x : Chan), s.on → x = s.dev.chan ch.val →
    s.dev.flag R.memCtrl 0 = true → x.st = .active → 64 * block < x.bytes →
    exec (.patrolScrub ch block err) s = .next (s.withDev
      ((s.dev.enqueue s.core false 3 ch.val (64 * block)).readReturn s.core ch.val block err))) ∧
  (∀ (s : State) (ch : Fin 520) (row : Nat) (pct : BitVec 8) (x : Chan) (d : Dev) (e : SafEntry) (copy : Bool → Dev → Dev), s.on → x = s.dev.chan ch.val →
    x.due.contains row = true → x.st = .active →
    d = s.dev.setChan ch.val { x with due := x.due.filter (· != row), rowCe := x.rowCe.filter (fun e => e.1 != row) } →
    e = { action := 4, mech := 1, block := Blk.mem, unit := ch.val, detail := toLE 8 row } →
    copy = (fun write d => each (Config.rowBlocks ch.val row) (fun b d => d.enqueue s.core write 3 ch.val (64 * b)) d) →
    exec (.sppr ch row (some pct)) s = .next (s.withDev
      (((((copy true (copy false { d with saf := { d.saf with repairLog := (Blk.mem, ch.val, row) :: d.saf.repairLog } })).safetyLog
        s.core.time e).count R.memCntSppr).count R.safCntRepair).setF R.safReserve 55 48 pct.toNat)) ∧
    exec (.sppr ch row none) s = .next (s.withDev ((d.safetyLog s.core.time { e with action := 0 }).setF R.safReserve 55 48 0))) ∧
  (∀ (s : State) (src : Source) (n : Fin 16) (v : BitVec 64), s.on → s.dev.isManager s.core src = true →
    exec (.memSetMapWrite src n v) s = .next (s.withDev (s.dev.writeSetMap s.core src n.val v)))

/-- The commands of the SSDs and volumes complete (R416 to R434): an SSD found, identified and removed, an NVMe command's end and time-outs, the
assembly's end, a rebuilt stripe, the roles, volumes made and deleted, and maintenance. -/
def Obligations.VolumesComplete : Prop :=
  (∀ (s : State) (n : Fin 16) (w sp : BitVec 4), s.on → (s.dev.ssd n.val).st = .absent → s.core.mode ≠ .rom →
    exec (.ssdLinkUp n w sp) s = .next (s.withDev (s.dev.setSsd n.val { s.dev.ssd n.val with st := .init, width := w.toNat, speed := sp.toNat }))) ∧
  (∀ (s : State) (n : Fin 16) (info : SsdInfo) (x : Ssd) (d : Dev), s.on → x = s.dev.ssd n.val →
    (x.resetting = false → x.st = .init →
      d = s.dev.setSsd n.val { x with capacity := info.capacity.toNat, pct := info.pct.toNat, serial := info.serial } →
      exec (.ssdIdentifyDone n info) s = .next (s.withDev
        (((if info.fourK || d.owesFormat info.serial then (d.owedAction n.val info.serial).adoptSsd s.core n.val
          else (d.owedAction n.val info.serial).setSsd n.val { (d.owedAction n.val info.serial).ssd n.val with st := .needsFormat }).partner s.core true .ssd n.val).startRebuilds s.core))) ∧
    (x.resetting = true → x.cmds.any (·.again) = false →
      exec (.ssdIdentifyDone n info) s = .next (s.withDev (s.dev.setSsd n.val
        { x with resetting := false, cmds := x.cmds.map (fun (m : NvmeCmd) => { m with abort := false, again := true }) })))) ∧
  (∀ (s : State) (n : Fin 16), s.on → (s.dev.ssd n.val).st ≠ .absent →
    exec (.ssdRemoval n) s = .next (s.withDev
      ((((s.dev.setSsd n.val { st := .absent, serial := (s.dev.ssd n.val).serial }).loseSsd s.core n.val).partner s.core false .ssd n.val).nvmeOver
        s.core (fun w => w.1 == n.val)))) ∧
  (∀ (s : State) (n : Fin 16) (id : Nat) (x : Ssd) (k : NvmeCmd) (d : Dev), s.on → x = s.dev.ssd n.val → x.resetting = false →
    x.cmds.find? (·.id == id) = some k → d = s.dev.setSsd n.val { x with cmds := x.cmds.filter (·.id != id) } →
    exec (.nvmeCompletion n id true) s = .next (s.withDev ((match k.data with
      | some bs => d.setSectors n.val k.lba bs
      | none => d).nvmeOver s.core (fun w => w == (n.val, id)))) ∧
    exec (.nvmeCompletion n id false) s = .next (s.withDev ((d.count R.volCntNvmerr).failSsd s.core n.val))) ∧
  (∀ (s : State) (n : Fin 16) (id : Nat) (x : Ssd), s.on → x = s.dev.ssd n.val →
    (x.resetting = false → x.cmds.any (fun k => k.id == id && !k.abort) = true →
      exec (.nvmeTimeout n id) s = .next (s.withDev ((s.dev.setSsd n.val { x with
        cmds := x.cmds.map (fun (k : NvmeCmd) => if k.id == id then { k with abort := true } else k) }).count R.volCntNvmerr))) ∧
    (x.resetting = false → x.cmds.any (fun k => k.id == id && k.abort) = true →
      exec (.nvmeAbortTimeout n id) s = .next (s.withDev (s.dev.setSsd n.val { x with resetting := true }))) ∧
    (x.resetting = true → exec (.ssdReadyTimeout n) s = .next (s.withDev ((s.dev.count R.volCntNvmerr).failSsd s.core n.val)))) ∧
  (∀ (s : State), s.on → s.core.served = true → 1000000 * s.dev.getF R.volCtrl 47 32 ≤ s.core.time.toNat →
    exec .assembleTimeout s = .next (s.withDev
    ((sortNat (keys s.dev.vol.vols)).foldl (fun d v => d.bringOnline s.core v) { s.dev with vol := { s.dev.vol with assembled := true } }))) ∧
  (∀ (s : State) (v : Fin 64) (bad : List (Fin 16 × Nat)) (x y : Vol) (p n : Nat) (ds : List (Option Bytes)) (pu qu : Option Bytes)
      (us : List Bytes) (d : Dev), s.on → s.dev.volume v.val = some x → x.rebuild = some (p, n) → x.state = 3 →
    s.dev.vol.drains.any (fun r => r.volume == v.val && x.stripe r.chunk == x.watermark) = false →
    s.dev.stripeUnits x x.watermark (bad.map (fun (b : Fin 16 × Nat) => (b.1.val, b.2))) = (ds, pu, qu) → recoverData ds pu qu = some us →
    d = s.dev.setSectors n (x.start + 17 * x.watermark) (memberUnit x p x.watermark us) → y = { x with watermark := x.watermark + 1 } →
    exec (.rebuildStripe v bad) s = .next (s.withDev
      (if x.stripes ≤ x.watermark + 1 then d.endRebuild s.core v.val y p n
       else (({ d with acc := { d.acc with rebuild := put d.acc.rebuild v.val (p, n, x.watermark + 1) } } : Dev).setVol v.val y).settleVol
         s.core v.val))) ∧
  (∀ (s : State) (src : Source) (n : Fin 16), s.on → s.dev.isManager s.core src = true →
    exec (.roleReqSpare src n) s = .next (s.withDev
      (if (s.dev.ssd n.val).st = .free then ((s.dev.setSsd n.val { s.dev.ssd n.val with st := .spare }).writeLabel n.val).startRebuilds s.core
       else s.dev.setFlag R.volStatus 3 true)) ∧
    exec (.roleReqFree src n) s = .next (s.withDev
      (if (s.dev.ssd n.val).st = .spare then ((s.dev.setSsd n.val { s.dev.ssd n.val with st := .free }).writeLabel n.val).startRebuilds s.core
       else s.dev.setFlag R.volStatus 3 true)) ∧
    exec (.wipeLabel src n) s = .next (s.withDev
      (if (s.dev.ssd n.val).st = .failed ∨ (s.dev.ssd n.val).st = .foreign then
        ((s.dev.setSsd n.val { s.dev.ssd n.val with st := .free }).writeLabel n.val).startRebuilds s.core
       else s.dev.setFlag R.volStatus 3 true))) ∧
  (∀ (s : State) (ref : CmdRef) (x : Cmd), s.adminTakes ref 0xA2 x →
    exec (.volumeCreate ref) s = .next (s.withDev ((s.started x).volumeCreate s.core x))) ∧
  (∀ (s : State) (ref : CmdRef) (x : Cmd) (y : Vol), s.adminTakes ref 0xA3 x → (s.started x).volume (le x.area 0 2) = some y →
    (s.started x).volumeBusy (le x.area 0 2) y = false →
    exec (.volumeDelete ref) s = .next (s.withDev (((s.started x).removeVolume s.core (le x.area 0 2)).finish s.core x 0 0))) ∧
  (∀ (s : State) (ref : CmdRef) (x : Cmd) (m : Maint) (op : Nat) (i : Instr), (op, i) ∈ [(0xA1, Instr.formatVolume ref), (0xA0, .sanitise ref)] →
    s.adminTakes ref op x → maintOf x = some m →
    (m.volume = 0xFFFF → (s.started x).acc.maint.any (·.volume == 0xFFFF) = false → s.core.mode = .service → ∃ t, exec i s = .next t ∧
      t.core.mode = .quiesced ∧ t.core.quiesceFor = some (.maintenance (x.inst, x.pair, x.cid) m.sanitise m.method)) ∧
    (m.volume ≠ 0xFFFF → ((s.started x).volume m.volume).isSome = true → ¬(m.sanitise ∧ m.method = 1) →
      (s.started x).acc.maint.any (·.volume == m.volume) = false →
      exec i s = .next (s.withDev (((s.started x).startVolMaint s.core m).finish s.core x 0 0)))) ∧
  (∀ (s : State) (v : BitVec 16) (n : Fin 16) (m : Maint), s.on → s.dev.acc.maint.find? (·.volume == v.toNat) = some m →
    (m.volume = 0xFFFF → s.core.mode = .maintenance → s.dev.presentSsds.contains n.val = true → look m.ports n.val 0 ≠ 2 → ∀ d m',
      d = s.dev.trimAll n.val → m' = { m with ports := put m.ports n.val 2 } →
      exec (.maintenanceStep v n) s = .next (s.withDev ((d.setMaint m').maintReg m'
        (d.presentSsds.countP (fun k => look m'.ports k 0 == 2)) d.presentSsds.length))) ∧
    (m.volume ≠ 0xFFFF → s.core.mode = .service →
      exec (.maintenanceStep v n) s = .next (s.withDev (s.dev.volMaintStep s.core m n.val))))

/-- The commands of instances complete (R495 to R507, R574): creation, shares, freezing, export and import, destruction, the edits of an instance's
tables with the TLBs' acknowledgements, the manager's claim and the domain key. -/
def Obligations.InstancesComplete : Prop :=
  (∀ (s : State) (ref : CmdRef) (x : Cmd) (i : Nat) (b : Bytes) (d : Dev), s.adminTakes ref 0x90 x → d = s.started x →
    i = le x.area 8 1 → i ≠ 0 → (d.inst i).st = .free → le x.area 9 1 ≤ 3 → le x.area 10 1 ≠ 0 → le x.area 10 1 ≤ 64 →
    d.boundTo (le x.area 9 1) (le x.area 10 1) = none → d.adminRead s.core x (le x.area 0 8) 1024 = .ok b → shareOk b = true →
    exec (.instanceCreate ref) s = .next (s.withDev
      (if d.totalsOk i (shareOf b) then
        (((d.setInst i { st := .active, bound := some (le x.area 9 1, le x.area 10 1), share := shareOf b }).instanceRoutes i).dmaBalance).finish
          s.core x i 0
       else d.finish s.core x 0 0x0501))) ∧
  (∀ (s : State) (ref : CmdRef) (x : Cmd) (i : Nat) (b : Bytes) (d : Dev), s.adminTakes ref 0x91 x → d = s.started x →
    i = le x.area 8 1 → (d.inst i).gone = false → d.adminRead s.core x (le x.area 0 8) 1024 = .ok b → shareOk b = true →
    exec (.instanceShare ref) s = .next (s.withDev
      (if d.totalsOk i (shareOf b) then (d.setInst i { d.inst i with nextShare := some (shareOf b) }).finish s.core x 0 0
       else d.finish s.core x 0 0x0501))) ∧
  (∀ (s : State) (ref : CmdRef) (x : Cmd) (i : Nat) (d : Dev), s.adminTakes ref 0x92 x → d = s.started x → i = le x.area 0 1 → i ≠ 0 →
    (d.inst i).gone = false →
    (le x.area 1 1 = 0 → (d.inst i).st = .active → exec (.instanceFreeze ref) s = .next (s.withDev
      (d.setInst i { d.inst i with st := .freezing, freezeCmd := some (x.inst, x.pair, x.cid), freezeAt := s.core.time.toNat }))) ∧
    (le x.area 1 1 = 1 → (d.inst i).st = .frozen → exec (.instanceFreeze ref) s = .next (s.withDev
      ((d.setInst i { d.inst i with st := .active }).finish s.core x 0 0)))) ∧
  (∀ (s : State) (i : BitVec 8) (y : Inst) (a q cid : Nat), s.on → y = s.dev.inst i.toNat → y.st = .freezing → y.freezeCmd = some (a, q, cid) →
    (s.dev.nothingRuns i.toNat = true → exec (.freezeDrainDone i) s = .next (s.withDev
      ((s.dev.setInst i.toNat { y with st := .frozen, freezeCmd := none }).complete s.core a q cid 0 0))) ∧
    (y.freezeAt + 1000000 * s.dev.getF R.insCtrl 31 16 ≤ s.core.time.toNat → exec (.freezeTimeout i) s = .next (s.withDev
      ((s.dev.setInst i.toNat { y with st := .active, freezeCmd := none }).complete s.core a q cid 0 0x0500)))) ∧
  (∀ (s : State) (ref : CmdRef) (x : Cmd) (i : Nat) (d : Dev) (domain keyId : Bytes), s.adminTakes ref 0x93 x → d = s.started x →
    i = le x.area 0x10 1 → (d.inst i).st = .frozen → (d.inst i).gone = false → d.vol.vols.any (fun (e : Nat × Vol) => e.2.owner == i) = false →
    d.ins.migKey = some (domain, keyId) →
    exec (.instanceExport ref) s = .next (s.withDev (match d.sections i domain with
      | .error _ => d.finish s.core x 0 0x0401
      | .ok (secs, e) =>
        let size := 128 + (secs.map (fun b => b.length)).foldl (· + ·) 0 + 48
        if le x.area 8 8 < size then d.finish s.core x (ceilDiv size 1048576) (if le x.area 8 8 = 0 then 0 else 0x0200)
        else
          let (nonce, e) := e.drawBytes 16
          match e.writeInst s.core { registrarWho with job := x.job } x.inst (le x.area 0 8) (e.blob i domain keyId nonce secs) with
          | (e, none) => e.finish s.core x (ceilDiv size 1048576) 0
          | (e, some f) => (e.recordFail s.core registrarWho x.inst true f).finish s.core x 0 f.status))) ∧
  (∀ (s : State) (ref : CmdRef) (x : Cmd) (d : Dev) (h b : Bytes) (n : Nat), s.adminTakes ref 0x94 x → d = s.started x → 128 ≤ le x.area 8 8 →
    d.adminRead s.core x (le x.area 0 8) 128 = .ok h → n = le h 8 8 → n ≤ le x.area 8 8 → le h 0 4 = 0x47494D58 → le h 4 2 = 1 →
    d.adminRead s.core x (le x.area 0 8) n = .ok b →
    exec (.instanceImport ref) s = .next (s.withDev (match d.importBlob s.core x b with
      | .error st => d.finish s.core x 0 st
      | .ok e => e.finish s.core x 0 (if n < le x.area 8 8 then 1 else 0)))) ∧
  (∀ (s : State) (ref : CmdRef) (x : Cmd) (i : Nat) (d : Dev), s.adminTakes ref 0x95 x → d = s.started x → i = le x.area 0 1 → i ≠ 0 →
    (d.inst i).gone = false → d.vol.vols.any (fun (e : Nat × Vol) => e.2.owner == i) = false → (d.inst i).freezeCmd = none →
    exec (.instanceDestroy ref) s = .next (s.withDev
      (((d.setInst i { d.inst i with destroyCmd := some (x.inst, x.pair, x.cid) }).functionReset i).settleDestroy s.core i))) ∧
  (∀ (s : State) (src : Source) (w : BitVec 64) (v : Nat → Word) (d : Nat → Dev), s.on → s.dev.isManager s.core src = true →
    s.dev.flag R.insMapStatus 63 = false → v = (fun op => setFld (setFld w 63 63 1) 62 61 op) → d = (fun op => s.dev.writeReg R.insMapCtrl (v op)) →
    exec (.map src w) s = .next (s.withDev ((d 0).doMap (mapReq (v 0)))) ∧
    exec (.unmap src w) s = .next (s.withDev ((d 1).doUnmap (mapReq (v 1)))) ∧
    exec (.setPasid src w) s = .next (s.withDev ((d 2).doSetPasid (mapReq (v 2))))) ∧
  (∀ (s : State) (src : Source) (w : BitVec 64) (i : Instr), s.on → s.dev.isManager s.core src = true → s.dev.flag R.insMapStatus 63 = true →
    i ∈ [Instr.map src w, .unmap src w, .setPasid src w] → exec i s = .next (s.withDev (s.dev.setFlag R.insStatus 1 true))) ∧
  (∀ (s : State) (u : TlbUnit) (v : Inval) (left : List Nat), s.on →
    s.dev.ins.inval.find? (fun (v : Inval) => v.waiting.contains (s.dev.tlbOf u)) = some v → left = v.waiting.filter (· != s.dev.tlbOf u) →
    (left ≠ [] → exec (.tlbInvalAck u) s = .next (s.withDev { s.dev with ins := { s.dev.ins with
      inval := s.dev.ins.inval.map (fun (w : Inval) => if w == v then { v with waiting := left } else w) } })) ∧
    (left = [] → ∀ d, d = ({ s.dev with ins := { s.dev.ins with inval := s.dev.ins.inval.erase v } } : Dev).count R.insCntInval →
      exec (.tlbInvalAck u) s = .next (s.withDev (if v.request then d.mapDone 0 else d.destroyed s.core v.inst)))) ∧
  (∀ (s : State) (p : Fin 4) (key : List (BitVec 8)), s.on → s.dev.mgmtUp s.core = true → (s.dev.port p.val).linkUp = true →
    (s.dev.ins.managers.contains key = true → s.dev.ins.holder = none → exec (.managerClaim p key) s = .next (s.withDev
      ((({ s.dev with ins := { s.dev.ins with claimed := s.dev.ins.claimed || s.core.served } } : Dev).setHolder s.core (some p.val)).reply
        (.vendor 1 0)))) ∧
    (s.dev.ins.managers.contains key = true → s.dev.ins.holder ≠ none →
      exec (.managerClaim p key) s = .next (s.withDev (s.dev.reply .unexpectedRequest))) ∧
    (s.dev.ins.managers.contains key = false → exec (.managerClaim p key) s = .next (s.withDev (s.dev.reply (.vendor 1 0x0700))))) ∧
  (∀ (s : State) (h key id : List (BitVec 8)), s.on → s.dev.mgmtUp s.core = true →
    (s.dev.ins.managers.contains h = true → key.length = 32 → id.length = 16 → allZero id = false →
      exec (.migkeyInstall h key id) s = .next (s.withDev
        ((((({ s.dev with ins := { s.dev.ins with migKey := some (key, id) } } : Dev).setReg (R.insMigkeyId 0) (BitVec.ofNat 64 (le id 0 8))).setReg
          (R.insMigkeyId 1) (BitVec.ofNat 64 (le id 8 8))).setFlag R.insStatus 2 true).reply (.vendor 2 0)))) ∧
    (s.dev.ins.managers.contains h = true → key.length ≠ 32 ∨ id.length ≠ 16 ∨ allZero id = true →
      exec (.migkeyInstall h key id) s = .next (s.withDev (s.dev.reply (.vendor 2 0x0201)))) ∧
    (s.dev.ins.managers.contains h = false → exec (.migkeyInstall h key id) s = .next (s.withDev (s.dev.reply (.vendor 2 0x0700)))))

/-- The commands of the Conservator complete (R29, R518 to R533): a fault's report, a reserve's swap, a checker's injection and its time-out, the
structural tests, a unit's retest, the watchdogs, the Registrar's restart, the lanes, ageing and the preparation for return. -/
def Obligations.SafetyComplete : Prop :=
  (∀ (s : State) (f : FaultReport), s.on → exec (.faultReport f) s = .next (s.withAll (faultAnswer f (s.core, s.dev)))) ∧
  (∀ (s : State) (p : Fin 136) (g : Nat), s.on → s.dev.logicalOf p.val = some g → s.dev.gals.retired.contains p.val = true →
    find s.dev.doc.task g = none → look s.dev.doc.gal g .idle = .fenced →
    (∀ q, s.dev.reserveOf (p.val / 34) = some q → exec (.reserveSwap p) s = .next (s.withDev
      ((((({ s.dev with gals := { s.dev.gals with map := put s.dev.gals.map g q } } : Dev).safetyLog s.core.time
        { action := 3, mech := 10, block := Blk.gal, unit := p.val, detail := toLE 2 q }).loadCore q).returnGallery g).unfence s.core Blk.gal p.val))) ∧
    (s.dev.reserveOf (p.val / 34) = none → exec (.reserveSwap p) s = .next (s.withDev { s.dev with
      gals := { s.dev.gals with absent := g :: s.dev.gals.absent }
      doc := { s.dev.doc with notices := s.dev.doc.notices ++ [.absent g] } }))) ∧
  (∀ (s : State) (u : UnitRef) (d : Dev), s.on → d = s.dev.count R.safCntInject →
    exec (.checkerInject u) s = .next (s.withDev { d with saf := { d.saf with
      injected := (u.block.toNat, u.unit.toNat) :: s.dev.saf.injected.filter (· != (u.block.toNat, u.unit.toNat)) } })) ∧
  (∀ (s : State) (u : UnitRef) (d : Dev), s.on → s.dev.saf.injected.contains (u.block.toNat, u.unit.toNat) = true →
    d = (((({ s.dev with saf := { s.dev.saf with
      injected := s.dev.saf.injected.filter (· != (u.block.toNat, u.unit.toNat)) } } : Dev).count R.safCntInjfail).setFlag R.safStatus 2 true).safetyLog
        s.core.time { action := 9, mech := 13, block := u.block.toNat, unit := u.unit.toNat }) →
    exec (.injectTimeout u) s = .next (s.withAll (blockFault 13 u.block.toNat u.unit.toNat (s.core, d)))) ∧
  (∀ (s : State) (p : Fin 136), s.on → s.core.served = true → exec (.testClaim p) s = .next (s.withDev (s.dev.claimTest s.core p.val false))) ∧
  (∀ (s : State) (p : Fin 136) (g : Nat), s.on → s.dev.logicalOf p.val = some g → look s.dev.doc.gal g .idle = .testPending →
    s.dev.saf.claims.any (fun (x : TestClaim) => x.gallery == p.val && !x.late && decide (x.since + 500000000 ≤ s.core.time.toNat)) = true →
    exec (.testLate p) s = .next (s.withDev ((({ s.dev with saf := { s.dev.saf with
      claims := s.dev.saf.claims.map (fun (x : TestClaim) => if x.gallery = p.val then { x with late := true } else x) } } : Dev).setFlag
        R.safStatus 3 true).count R.safCntTestlate))) ∧
  (∀ (s : State) (p : Fin 136) (pass : Bool) (left : Option (BitVec 8)), s.on → s.dev.inTest p.val = true →
    exec (.structuralTestDone p pass left) s = .next (s.withDev (s.dev.testDone s.core p.val pass (left.map (·.toNat))))) ∧
  (∀ (s : State) (u : UnitRef) (d : Dev) (b n : Nat), s.on → b = u.block.toNat → n = u.unit.toNat → s.dev.saf.retest.contains (b, n) = true →
    d = { s.dev.count R.safCntInject with saf := { (s.dev.count R.safCntInject).saf with retest := s.dev.saf.retest.filter (· != (b, n)) } } →
    exec (.unitRetest u true) s = .next (s.withDev ((d.safetyLog s.core.time { action := 10, mech := 13, block := b, unit := n }).unfence s.core b n)) ∧
    exec (.unitRetest u false) s = .next (s.withDev (d.safetyLog s.core.time { action := 8, mech := 13, block := b, unit := n }))) ∧
  (∀ (s : State), s.on →
    (s.dev.registrarUp = true →
      exec .registrarHeartbeat s = .next (s.withDev { s.dev with saf := { s.dev.saf with heartbeat := s.core.time.toNat } })) ∧
    (s.dev.saf.heartbeat + 50000000 ≤ s.core.time.toNat →
      exec .heartbeatTimeout s = .next (s.withDev (s.dev.restartRegistrar s.core 0))) ∧
    exec .watchdogKick s = .next (s.withDev { s.dev with saf := { s.dev.saf with kick := s.core.time.toNat } }) ∧
    (s.dev.saf.kick + 5000000 ≤ s.core.time.toNat →
      exec .watchdogTimeout s = .next (s.withAll (safeStopFault 12 Blk.saf 0 (s.core, s.dev)))) ∧
    (s.dev.saf.regRestart = true → exec .registrarRestartDone s = .next (s.withDev { s.dev with saf := { s.dev.saf with
      regRestart := false, heartbeat := s.core.time.toNat } }))) ∧
  (∀ (s : State) (l : Fin 15) (g : BitVec 8), s.on →
    exec (.laneFail l g) s = .next (s.withDev (s.dev.laneFail s.core 11 l.val g.toNat)) ∧
    exec (.flitParityError l g) s = .next (s.withDev (s.dev.flitError s.core l.val g.toNat)) ∧
    exec (.linkRetrainDone l) s = .next (s.withDev { s.dev with saf := { s.dev.saf with
      retraining := s.dev.saf.retraining.filter (· != l.val) } })) ∧
  (∀ (s : State) (r : AgeReport), s.on → exec (.safAgeUpdate r) s = .next (s.withDev
    ((({ s.dev with saf := { s.dev.saf with history := (r.mean.toNat, 1) :: s.dev.saf.history } } : Dev).setF R.safAge 9 0 r.lifePct.toNat).setF
      R.safAge 31 16 r.marginMv.toNat))) ∧
  (∀ (s : State) (src : Source) (v : BitVec 64), s.on → s.dev.isManagerOrMgmt s.core src = true → fld v 63 48 = 0xA55A → fld v 0 0 = 1 →
    exec (.returnPrepare src v) s = .next (s.withDev
      (if s.dev.flag R.devStatus 8 || s.dev.flag R.devStatus 9 || decide (0 < bufferUsed s.dev.xq.buffer) then s.dev.setFlag R.safStatus 6 true
       else ({ s.dev with acc := { s.dev.acc with dump := none }, saf := { s.dev.saf with returnRecord := true } } : Dev).setFlag R.safStatus 5 true)))

/-- The commands of power and clocks complete (R528, R536, R545 to R554): a canary loop, a rail's sample, the arbiter's evaluation and the cap. -/
def Obligations.PowerComplete : Prop :=
  (∀ (s : State) (r : CanaryReport) (f : BitVec 16) (mv : Nat), s.on → r.permits = some f → mv = max 550 (min 950 r.mv.toNat) →
    (r.unit.block.toNat = Blk.gal → (s.dev.core r.unit.unit.toNat).st ≠ .asleep → ∀ d,
      d = (s.dev.setF (R.safGal r.unit.unit.toNat) 47 32 r.mv.toNat).setCore r.unit.unit.toNat { s.dev.core r.unit.unit.toNat with
        limit := max 1000 (min 2400 (f.toNat / 100 * 100)), mv := mv } →
      exec (.canaryLoop r) s = .next (s.withDev (d.setCore r.unit.unit.toNat { d.core r.unit.unit.toNat with mhz := d.speedOf r.unit.unit.toNat }))) ∧
    (r.unit.block.toNat ≠ Blk.gal → exec (.canaryLoop r) s = .next (s.withDev { s.dev with pwr := { s.dev.pwr with
      volts := put s.dev.pwr.volts (65536 * r.unit.block.toNat + r.unit.unit.toNat) mv } }))) ∧
  (∀ (s : State) (r : CanaryReport), s.on → r.permits = none →
    exec (.canaryLoop r) s = .next (s.withAll (blockFault 11 r.unit.block.toNat r.unit.unit.toNat (s.core, s.dev)))) ∧
  (∀ (s : State) (n : Fin 4) (mv da : BitVec 16), s.on → exec (.railSample n mv da) s = .next (s.withDev (s.dev.railSample n.val mv.toNat da.toNat))) ∧
  (∀ (s : State) (r : ThermalReport) (d : Dev), s.on →
    d = (each (List.range 128) (fun g (d : Dev) => d.hotEvaluate r.galleries g)
      (each (List.range 4) (fun k (d : Dev) => d.thermEvaluate r.groups k) ((s.dev.reportTemps r.groups).capEvaluate s.core))).applySpeeds →
    ∃ e, e = d.setFlag R.pwrStatus 5 (decide (d.capCeiling < 2400)) ∧
      exec (.powerEvaluation r) s = .next (s.withDev
        (((e.setFlag R.pwrStatus 4 ((List.range 4).any (fun k => decide (e.getF (R.pwrCeil k) 31 16 < 2400)))).setFlag R.pwrStatus 3
          (!d.doc.hot.isEmpty)).pwrAlert))) ∧
  (∀ (s : State) (src : Source) (v : BitVec 64), s.on → s.dev.isManagerOrMgmt s.core src = true →
    exec (.pwrCapWrite src v) s = .next (s.withDev (s.dev.setF R.pwrCap 15 0 (max 400 (min 750 (fld v 15 0))))))

/-- The commands of firmware updates and settings complete (R559 to R567): a piece's acceptance and its turns, the commit, the activation, the
confirmation, the settings. -/
def Obligations.FirmwareComplete : Prop :=
  (∀ (s : State) (ref : CmdRef) (x : Cmd) (id off len img : Nat) (d e : Dev), s.adminTakes ref 0xB0 x → s.dev.pieceNow = none →
    d = s.started x → id = le x.area 8 8 → off = le x.area 0x10 4 → len = le x.area 0x14 4 → img = le x.area 0x18 4 →
    d.unconfirmed = false → id ≠ 0 → off % 4096 = 0 → len % 4096 = 0 → 4096 ≤ len → len ≤ 1048576 → imageBytesOk img = true → off < img →
    (d.updateOpen = true → d.updateId = id → d.acc.fw.imageBytes = img) → d.heldByOther s.core 1 = false →
    e = (if d.updateOpen && d.updateOwner == 1 && d.updateId == id then d else d.openUpdate 1 id img).setFw
      (fun (f : FwUpdate) => { f with last := s.core.time.toNat }) →
    exec (.fwPiece ref) s = .next (s.withDev { e with mgmt := { e.mgmt with piece := some {
      cmd := (x.inst, x.pair, x.cid), next := off, stop := min (off + len) img, cut := decide (img < off + len) } } })) ∧
  (∀ (s : State) (ref : CmdRef) (x : Cmd) (t : PieceTurn), s.on → s.dev.pieceNow = some t →
    s.dev.cmd ref.inst.toNat ref.pair.val ref.cid.toNat = some x → t.cmd = (x.inst, x.pair, x.cid) → x.op = 0xB0 →
    exec (.fwPiece ref) s = .next (s.withDev (s.dev.pieceTurn s.core x t))) ∧
  (∀ (s : State) (ref : CmdRef) (x : Cmd) (d : Dev) (result status : Nat), s.adminTakes ref 0xB1 x →
    (s.started x).commitUpdate (le x.area 0 8) = (d, result, status) →
    exec (.fwCommit ref) s = .next (s.withDev (d.finish s.core x result status))) ∧
  (∀ (s : State) (ref : CmdRef) (x : Cmd) (d : Dev), s.adminTakes ref 0xB2 x → d = s.started x → d.updateOpen = true → d.committed = true →
    d.updateId = le x.area 0 8 →
    (le x.area 8 1 = 1 → exec (.fwActivate ref) s = .next (s.withDev ((d.selectPending d.targetSlot).finish s.core x 0 0))) ∧
    (le x.area 8 1 = 0 → s.core.mode = .service → ∃ t, exec (.fwActivate ref) s = .next t ∧
      if d.stagingOk then t.core.mode = .quiesced ∧ t.core.quiesceFor = some (.activate (some (x.inst, x.pair, x.cid)) false)
      else t = s.withDev (d.finish s.core x 0 0x0402))) ∧
  (∀ (s : State) (ref : CmdRef) (x : Cmd), s.adminTakes ref 0xB3 x → (s.started x).unconfirmed = true →
    exec (.fwConfirm ref) s = .next (s.withDev ((s.started x).confirm.finish s.core x 0 0))) ∧
  (∀ (s : State) (src : Source), s.on → s.dev.isManager s.core src = true → s.dev.registrarUp = true →
    exec (.settingsSave src) s = .next (s.withDev s.dev.saveSettings) ∧
    exec (.settingsClear src) s = .next (s.withDev ((s.dev.eraseFlash (bankBase false) 4194304).eraseFlash (bankBase true) 4194304)))

/-- The commands of RECOVERY complete (R568 to R571): a port's block and its finish, the UART's three frames and its change of speed, and the
management bus's dynamic address. -/
def Obligations.RecoveryComplete : Prop :=
  (∀ (s : State) (p : Fin 4) (slot : Bool) (block : BitVec 12) (d : Dev), s.core.mode = .recovery → (s.dev.port p.val).linkUp = true →
    s.dev.rcvOwns 1 p.val = true → d = (s.dev.rcvTake 1 p.val) →
    (block.toNat ≤ 1791 → ∀ e, e = (d.eraseSector slot block.toNat).program_ (slotBase slot + 65536 * block.toNat) d.windowBytes →
      exec (.recoveryGo p slot block) s = .next (s.withDev
        (e.rcvDone (if blockOk (e.slotBlock slot block.toNat) then 0 else 0x0402)))) ∧
    exec (.recoveryFinish p slot) s = .next (match d.slotStatus slot with
      | some st => s.withDev (d.rcvDone st)
      | none => s.withAll (deviceReset .cold 5 false (s.core, (d.rcvDone 0).selectActive slot)))) ∧
  (∀ (s : State) (p : Fin 4) (slot : Bool) (block : BitVec 12), s.core.mode = .recovery → (s.dev.port p.val).linkUp = true →
    s.dev.rcvOwns 1 p.val = false →
    exec (.recoveryGo p slot block) s = .next (s.withDev s.dev.rcvRefuse) ∧ exec (.recoveryFinish p slot) s = .next (s.withDev s.dev.rcvRefuse)) ∧
  (∀ (s : State) (frame p : Bytes) (seq ty : Nat) (d : Dev), s.core.mode = .recovery → uartFrame frame = some (ty, seq, p, true) →
    s.dev.mgmt.uartSeq = none ∨ s.dev.mgmt.uartSeq = some seq → s.dev.rcvOwns 2 0 = true → d = s.dev.rcvTake 2 0 →
    (ty = 1 → p.length = 4104 → le p 0 1 ≤ 1 → le p 4 4 % 4096 = 0 → le p 4 4 < slotBytes →
      ∀ e st, d.recoverUnit (le p 0 1 == 1) (le p 4 4) (slice p 8 4096) = (e, st) →
      exec (.uartData frame) s = .next (s.withDev (if st = 0 then (e.rcvDone 0).uartAck seq 0 else (e.rcvDone st).uartNak seq st))) ∧
    (ty = 2 → p.length = 1 → le p 0 1 ≤ 1 → exec (.uartFinish frame) s = .next (match d.slotStatus (le p 0 1 == 1) with
      | some st => s.withDev ((d.rcvDone st).uartAck seq st)
      | none => s.withAll (deviceReset .cold 5 false (s.core, ((d.uartAck seq 0).rcvDone 0).selectActive (le p 0 1 == 1))))) ∧
    (ty = 3 → p.length = 1 → le p 0 1 = 1 ∨ le p 0 1 = 2 → ∀ e, e = (d.rcvDone 0).uartAck seq 0 →
      exec (.uartSpeed frame) s = .next (s.withDev { e with mgmt := { e.mgmt with uartNext := some (le p 0 1) } }))) ∧
  (∀ (s : State) (v : Nat), s.on → s.dev.mgmt.uartNext = some v →
    exec .uartSpeedChange s = .next (s.withDev { s.dev with mgmt := { s.dev.mgmt with uartSpeed := v, uartNext := none } })) ∧
  (∀ (s : State) (a : BitVec 7), s.on →
    exec (.i3cDynamicAddress a) s = .next (s.withDev { s.dev with mgmt := { s.dev.mgmt with i3c := some a.toNat } }))

/-- The commands of the management endpoint complete (R571 to R573): MCTP control, PLDM base, monitoring and firmware update, SPDM. -/
def Obligations.ManagementComplete : Prop :=
  (∀ (s : State) (bus : MgmtBus), s.hears bus →
    (∀ (op : BitVec 2) (eid : BitVec 8) (v : Nat), s.dev.newEid op.toNat eid.toNat = some v →
      exec (.setEndpointId bus op eid) s =
        .next (s.withDev (({ s.dev with mgmt := { s.dev.mgmt with eid := v } }).reply (.eid v)))) ∧
    exec (.getEndpointId bus) s = .next (s.answers (.eid s.dev.mgmt.eid)) ∧
    exec (.getMctpVersionSupport bus) s = .next (s.answers (.text (Config.mgmtText 0 0))) ∧
    exec (.getMessageTypeSupport bus) s = .next (s.answers (.kinds [0, 1, 5, 6])) ∧
    exec (.getEndpointUuid bus) s = .next (s.answers (.uuid Config.uuid)) ∧
    exec (.gettid bus) s = .next (s.answers (.tid s.dev.mgmt.tid)) ∧
    (∀ tid : BitVec 8, tid.toNat ≠ 0 → tid.toNat ≠ 255 →
      exec (.settid bus tid) s = .next (s.withDev (({ s.dev with mgmt := { s.dev.mgmt with tid := tid.toNat } }).reply .done))) ∧
    exec (.getpldmtypes bus) s = .next (s.answers (.kinds [0, 2, 5])) ∧
    (∀ (type : BitVec 6) (cs : List Nat), pldmCommands type.toNat = some cs →
      exec (.getpldmversion bus type) s = .next (s.answers (.text (Config.mgmtText 1 type.toNat))) ∧
      exec (.getpldmcommands bus type) s = .next (s.answers (.commands cs))) ∧
    (∀ handle : BitVec 32, exec (.getpdr bus handle) s = .next (s.answers (.text (Config.mgmtText 2 handle.toNat)))) ∧
    (∀ sensor : NumSensor, exec (.getsensorreading bus sensor) s = .next (s.answers (.reading (s.dev.sensor sensor)))) ∧
    (∀ sensor : StateSensor,
      exec (.getstatesensorreadings bus sensor) s = .next (s.answers (.state_ (s.dev.stateSensor s.core sensor)))) ∧
    (∀ (e : NumEffecter) (v : BitVec 16),
      exec (.setnumericeffectervalue bus e v) s = .next (s.withDev ((s.dev.setEffecter e v.toNat).reply .done))) ∧
    exec (.setstateeffecterstates bus .coldReset) s =
      .next (s.withAll (deviceReset .cold 2 false (s.core, s.dev.reply .done))) ∧
    exec (.setstateeffecterstates bus .enterRecovery) s =
      .next (s.withAll (deviceReset .cold 6 true (s.core, s.dev.reply .done))) ∧
    (s.dev.unconfirmed = true →
      exec (.setstateeffecterstates bus .fwConfirm) s = .next (s.withDev (s.dev.confirm.reply .done))) ∧
    exec (.setstateeffecterstates bus .returnPrepare) s = .next (s.withDev ((s.dev.returnPrepare returnWord).reply .done)) ∧
    exec (.querydeviceidentifiers bus) s = .next (s.answers (.text (Config.mgmtText 3 0))) ∧
    exec (.getfirmwareparameters bus) s = .next (s.answers (.versions (fwVersion s.dev.firmware)
      (if s.dev.pendingValid then fwVersion (s.dev.slotHeader s.dev.pendingSlot) else 0))) ∧
    exec (.getstatus bus) s = .next (s.answers (.progress s.dev.mgmt.pldm.code
      (100 * s.dev.acc.fw.units.length / max 1 (s.dev.acc.fw.imageBytes / 4096))))) ∧
  (∀ (s : State) (bus : MgmtBus) (version : Bytes) (n : BitVec 32) (id : Nat) (d : Dev), s.hears bus → s.dev.mgmt.pldm = .idle →
    s.dev.unconfirmed = false → imageBytesOk n.toNat = true → s.dev.heldByOther s.core 2 = false → id = pldmUpdateId version n.toNat →
    d = (if s.dev.updateOpen && s.dev.updateOwner == 2 && s.dev.updateId == id then s.dev else s.dev.openUpdate 2 id n.toNat) →
    exec (.requestupdate bus version n) s = .next (s.withDev
      (((d.setFw (fun (f : FwUpdate) => { f with last := s.core.time.toNat })).setPldm .learn).reply .done))) ∧
  (∀ (s : State) (bus : MgmtBus), s.hears bus → s.dev.updateOwner = 2 → s.dev.updateOpen = true →
    (s.dev.mgmt.pldm = .learn → exec (.passcomponenttable bus) s = .next (s.withDev ((s.dev.setPldm .readyXfer).reply .done))) ∧
    (s.dev.mgmt.pldm = .readyXfer → exec (.updatecomponent bus) s = .next (s.withDev ((s.dev.setPldm .download).reply .done))) ∧
    (s.dev.mgmt.pldm = .download → ∀ (u : Nat) (data : Bytes), s.dev.nextUnit = some u → data.length = 4096 →
      exec (.requestfirmwaredata bus data) s =
        .next (s.withDev ((s.dev.reply (.request (4096 * u) 4096)).takeFirmware s.core u data))) ∧
    (s.dev.mgmt.pldm = .download → s.dev.unitsMissing = 0 →
      exec (.transfercomplete bus) s = .next (s.withDev ((s.dev.setPldm .verify).reply .done))) ∧
    (s.dev.mgmt.pldm = .verify → ∀ (d : Dev) (r st : Nat), s.dev.commitUpdate s.dev.updateId = (d, r, st) →
      exec (.verifycomplete bus) s = .next (s.withDev (if st = 0 then (d.setPldm .apply).reply .done
        else (d.setPldm (if d.updateOpen then .readyXfer else .idle)).reply (.failed st)))) ∧
    (s.dev.mgmt.pldm = .apply → exec (.applycomplete bus) s = .next (s.withDev ((s.dev.setPldm .readyXfer).reply .done))) ∧
    (s.dev.mgmt.pldm = .readyXfer → s.dev.committed = true →
      exec (.activatefirmware bus false) s =
        .next (s.withDev (((s.dev.selectPending s.dev.targetSlot).setPldm .idle).reply .done)) ∧
      (s.core.mode = .service → exec (.activatefirmware bus true) s = .next (if s.dev.stagingOk
        then s.withAll (startActivation none (s.core, (s.dev.setPldm .activate).reply .done))
        else s.withDev (s.dev.reply (.failed 0x0402))))) ∧
    (s.dev.mgmt.pldm = .download ∨ s.dev.mgmt.pldm = .verify ∨ s.dev.mgmt.pldm = .apply →
      exec (.cancelupdatecomponent bus) s = .next (s.withDev ((s.dev.setPldm .readyXfer).reply .done))) ∧
    (s.dev.mgmt.pldm ≠ .idle → s.dev.mgmt.pldm ≠ .activate →
      exec (.cancelupdate bus) s = .next (s.withDev (((s.dev.closeUpdate.setFw (fun _ => {})).setPldm .idle).reply .done)))) ∧
  (∀ (s : State) (msg : Bytes) (d : Dev), s.on → s.dev.mgmtUp s.core = true →
    d = (({ s.dev with fresh := s.dev.fresh + 1 } : Dev).reply (.text (Config.spdmResponse s.dev.fresh s.dev.measurements msg))) →
    (∀ p : Fin 4, (s.dev.port p.val).linkUp = true → exec (.spdmRequest (.doe p) msg) s = .next (s.withDev d)) ∧
    (∀ bus : MgmtBus, s.dev.busTaken bus = true → msg.length ≤ 4224 → exec (.spdmRequest (.mctp bus) msg) s = .next (s.withDev d)))

/-- Register writes complete (R53, R387, R568, R578, R582): a counter's clearing, the queue doorbells and MSI-X table of a window, a manager's
and a role's 8-byte writes. -/
def Obligations.RegisterWritesComplete : Prop :=
  (∀ (s : State) (p : Fin 4) (off : BitVec 26) (v : Word), s.on → s.core.mode ≠ .recovery → off.toNat % 8 = 0 → off.toNat < 0x2000000 →
    off.toNat ≠ R.devModeReq → off.toNat ≠ R.devReset →
    (s.dev.isManager s.core (.pf p) = true → 0x100000 ≤ off.toNat → off.toNat ≠ R.pwrCap → off.toNat ≠ R.pwrTherm →
      off.toNat ≠ R.safReturn → off.toNat ≠ R.fwuCtrl →
      exec (.registerWrite (.pf p) off 8 v) s = .next (s.withDev (s.dev.storeReg s.core (.pf p) off.toNat v)) ∧
      (isCounter off.toNat = true →
        exec (.counterWrite (.pf p) off v) s = .next (s.withDev (s.dev.storeReg s.core (.pf p) off.toNat v)))) ∧
    (s.dev.holdsRole (.pf p) = true → off.toNat < 0x100000 →
      exec (.registerWrite (.pf p) off 8 v) s = .next (s.withDev (s.dev.storeReg s.core (.pf p) off.toNat v)) ∧
      (isCounter off.toNat = true →
        exec (.counterWrite (.pf p) off v) s = .next (s.withDev (s.dev.storeReg s.core (.pf p) off.toNat v))))) ∧
  (∀ (s : State) (i : BitVec 8) (off : BitVec 26) (size : Nat) (v : Word), s.on → i.toNat ≠ 0 → s.dev.windowOpen s.core i.toNat = true →
    size = 4 ∨ size = 8 → off.toNat % size = 0 →
    (off.toNat < 0x1000 → size = 8 → exec (.registerWrite (.vf i) off size v) s =
      .next (s.withDev (s.dev.storeReg s.core (.vf i) (0x4000000 + 0x40000 * i.toNat + off.toNat) v))) ∧
    (∀ pair, pair < 64 → off.toNat = 0x1000 + 16 * pair →
      exec (.registerWrite (.vf i) off size v) s = .next (s.withDev (s.dev.sqDoorbell i.toNat pair (fld v 15 0)))) ∧
    (∀ pair, pair < 64 → off.toNat = 0x1008 + 16 * pair →
      exec (.registerWrite (.vf i) off size v) s = .next (s.withDev (s.dev.cqDoorbell i.toNat pair (fld v 15 0)))) ∧
    (0x10000 ≤ off.toNat → off.toNat < 0x10400 →
      exec (.registerWrite (.vf i) off size v) s = .next (s.withDev (s.dev.writeMsix i.toNat (off.toNat - 0x10000) (size == 8) v))))

/-- One step with command `c` at the front of the queue is `exec` of `c` on the state with the queue's rest; on an empty queue it is one idle cycle,
which counts DEV_TIME while the device is powered (log entry 4) and changes nothing else. -/
def Obligations.StepRunsFront : Prop :=
  (∀ (s : State) (c : Instr) (rest : List Instr), s.pending = c :: rest → step s = exec c { s with pending := rest }) ∧
  (∀ s : State, s.pending = [] →
    (s.core.mode = .off → step s = .next s) ∧
    (s.on → step s = .next { s with core := { s.core with time := s.core.time + 1 } }))

/-- The queue is first in, first out: a step takes the front command and no other, and no command's effect reads, reorders or fills the queue. -/
def Obligations.QueueIsFifo : Prop :=
  (∀ s t : State, step s = .next t → t.pending = s.pending.tail) ∧
  (∀ (c : Instr) (s t : State) (q : List Instr), exec c s = .next t → exec c { s with pending := q } = .next { t with pending := q })

/-- Every command answers a next state in every state, but for one: PWRGOOD_FALL while the dump is written, which breaks the limit of R58, so that R10
guarantees nothing. No command is refused. -/
def Obligations.CommandsAnswer : Prop :=
  (∀ (c : Instr) (s : State), c ≠ .pwrgoodFall ∨ s.core.dumping = false → ∃ t, exec c s = .next t) ∧
  (∀ s : State, s.core.dumping = true → exec .pwrgoodFall s = .fault .integratorBreach) ∧
  (∀ (c : Instr) (s : State) (r : Refusal), exec c s ≠ .refused r)

/-- Without power only the pins act: in OFF every command but those of PWRGOOD, PFAIL_N and PERST_N and of a port's reset leaves the whole state as it
is. -/
def Obligations.OffInert : Prop :=
  ∀ (c : Instr) (s : State), s.core.mode = .off → actsOff c = false → exec c s = .next s

/-- Only the commands of `movesMode` change the mode arbiter: mode, DEV_TIME, the reasons for a quiesce, the dump point and the latched pins stand
after every other command, in every state. -/
def Obligations.ModeFrame : Prop :=
  ∀ (c : Instr) (s t : State), movesMode c = false → exec c s = .next t → t.core = s.core

/-- An invariant of every step, for all commands and in every state that has it, not only those a run reaches: the last change of mode is one that
R33 permits, OFF is exactly PWRGOOD low, something asked for every QUIESCED and nothing is asked for in another powered mode, SERVICE and QUIESCED come
after SERVICE was entered, and a dump is written only with power and behind its dump point. -/
def Obligations.StepKeepsLegal : Prop := ∀ s t : State, s.core.legal → step s = .next t → t.core.legal

/-- The state right after reset has that invariant, and its memory is canonical. -/
def Obligations.ResetIsLegal : Prop := State.reset.core.legal ∧ State.reset.memOk

/-- R42: the device leaves SAFE-STOP only through a power-on or a cold reset (or loses power, from which a power-on reset leads), and a warm reset
requested in SAFE-STOP is performed as a cold one, with DEV_RESET_CAUSE.KIND 3. -/
def Obligations.SafeStopExits : Prop :=
  (∀ (c : Instr) (s t : State), s.core.mode = .safeStop → exec c s = .next t → t.core.mode = .safeStop ∨
    (c = .pwrgoodFall ∧ t.core.mode = .off) ∨
    (t.core.mode = .rom ∧ (t.dev.getF R.devResetCause 2 0 = 1 ∨ t.dev.getF R.devResetCause 2 0 = 3))) ∧
  (∀ (s : State) (src : Source), s.core.mode = .safeStop → s.dev.mayRequest src = true → ∃ t, exec (.devResetWarm src 0x5A3C) s = .next t ∧
    t.core.mode = .rom ∧ t.dev.getF R.devResetCause 2 0 = 3)

/-- R41: FAULT_N, as its state sensor reads, is low exactly in SAFE-STOP; and a fatal self-test fault in ROM reaches it through SAFE-STOP. -/
def Obligations.FaultNTellsSafeStop : Prop :=
  (∀ (s : State) (bus : MgmtBus), s.hears bus → ∃ v, exec (.getstatesensorreadings bus .faultN) s = .next (s.answers (.state_ v)) ∧
    (v = 0 ↔ s.core.mode = .safeStop)) ∧
  (∀ (s : State) (r : RomReport), s.core.mode = .rom → s.core.passDone = false → r.fatal.isSome = true → ∃ t, exec (.romPassDone r) s = .next t ∧ t.core.mode = .safeStop ∧
    t.dev.stateSensor t.core .faultN = 0)

/-- The frame of the instructions that touch no memory (`registerOnly`: integer, capability, branch, control, trap and vector arithmetic): whether one
completes, waits or takes an exception, the mode arbiter, the queue and every block stand as they are but for gallery `p`'s own core, the counters and
events that count it, and free values drawn; every byte of memory reads as before. A double fault (R325) adds its own effect after that. -/
def Obligations.GalleryFrame : Prop :=
  ∀ (i : Instr) (p : Fin 136) (s t : State), registerOnly i = some p → (s.dev.core p.val).pcc.space ≠ 1 → exec i s = .next t →
    t.core = s.core ∧ t.pending = s.pending ∧
    (s.dev.onlyGallery t.dev p.val ∨
      ∃ (d : Dev) (a b pc : Nat), s.dev.onlyGallery d p.val ∧ d.mem = s.dev.mem ∧ t.dev = d.doubleFault s.core p.val a b pc)

/-- Where a store goes: an integer or capability store that passes its checks and completes changes the memory cells that its address names (`storeCells`,
computed from the capability, the offset and the translation) and no other byte of any store of the device or of a host; in local store the bytes read
back as stored. -/
def Obligations.StoreFrame : Prop :=
  ∀ (s t : State) (p : Fin 136) (k : Gallery) (c : BitVec 4) (x : Cap) (off : MemOff) (i : Instr) (bs : Bytes) (tag : Bool) (a : Nat),
    Issues s p → s.dev.core p.val = k → k.getC c.toNat = x → a = x.base + k.offset off → s.memOk →
    (∃ d size, i = .integerStore p d c size off ∧ bs = toLE (sizeBytes size) (k.getG d.toNat).toNat ∧ tag = false) ∨
      (∃ d, i = .stc p d c off ∧ bs = toLE 16 (k.getC d.toNat).toBits ∧ tag = (k.getC d.toNat).tag) →
    capCheck x c.toNat (2 ^ Perm.store + (if x.space = 0 ∧ tag = true then 2 ^ Perm.storeCap else 0)) (k.offset off) bs.length bs.length = none →
    (x.space = 0 → a + bs.length ≤ Config.localBytes) → (x.space = 1 → (s.dev.coreStoreInst s.core p.val x c.toNat a bs).2 = none) →
    x.space ≠ 2 → exec i s = .next t →
    (∀ key, key ∉ s.storeCells p x a bs.length → t.dev.mem.get key = s.dev.mem.get key) ∧
    (x.space = 0 → t.dev.mem.getN (Key.localStore p.val a) bs.length = bs)

/-- Control flow stays in bounds (R319): a branch that is taken or a relative jump whose target leaves PCC raises CAP_BOUNDS at itself, and writes no
register; JC and JCL check their capability for EXEC at the offset, n = 4, and a SPACE 1 target's translation, then set PCC and PC, and JCL writes the old
PCC and the offset of the next instruction. The exceptions are taken where VBCC can take them, outside the shadow bank. That a target is counted from the
branch's own PC, and that one below 0 leaves PCC, is the model's reading (log entry 24). -/
def Obligations.BranchBounds : Prop :=
  ∀ (s : State) (p : Fin 136) (k : Gallery), Issues s p → s.dev.core p.val = k → k.shadow = false →
  (vbccFault k.vbcc Cause.capBounds = none →
    (∀ (cond : Cond) (a b : BitVec 5) (off : BitVec 15) (t : Int), t = (k.pc : Int) + 4 * off.toInt → condHolds cond (k.getG a.toNat) (k.getG b.toNat) = true →
      (t < 0 ∨ (k.pcc.len : Int) < t + 4) →
      exec (.branch p cond a b off) s = .next (s.taken p { cause := Cause.capBounds, eaddr := ((k.pcc.base : Int) + t).toNat })) ∧
    (∀ (link : Bool) (off : BitVec 25) (t : Int), t = (k.pc : Int) + 4 * off.toInt → (t < 0 ∨ (k.pcc.len : Int) < t + 4) →
      exec (.jump p link off) s = .next (s.taken p { cause := Cause.capBounds, eaddr := ((k.pcc.base : Int) + t).toNat }))) ∧
  (∀ (c d : BitVec 4) (a gd : BitVec 5), let x := k.getC c.toNat
    let o := (k.getG a.toNat).toNat
    (∀ e, capCheck x c.toNat (2 ^ Perm.exec) o 4 4 = some e → vbccFault k.vbcc e.cause = none →
      exec (.jc p c a) s = .next (s.taken p e) ∧ exec (.jcl p d gd c a) s = .next (s.taken p e)) ∧
    (∀ r h, capCheck x c.toNat (2 ^ Perm.exec) o 4 4 = none → x.space = 1 →
      s.dev.translate x.inst (x.base + o) (s.dev.galleryWho p.val).tlb false = .viol r h → ∃ e : Dev,
      exec (.jc p c a) s = .next (s.withDev (e.takeExc s.core p.val { cause := Cause.translation, eaddr := x.base + o, capreg := c.toNat })) ∧
      exec (.jcl p d gd c a) s = .next (s.withDev (e.takeExc s.core p.val { cause := Cause.translation, eaddr := x.base + o, capreg := c.toNat }))) ∧
    (capCheck x c.toNat (2 ^ Perm.exec) o 4 4 = none →
      (x.space = 1 → ∀ r h, s.dev.translate x.inst (x.base + o) (s.dev.galleryWho p.val).tlb false ≠ .viol r h) →
      exec (.jc p c a) s = .next (s.withDev (s.dev.setCore p.val { k with pcc := x, pc := o })) ∧
      exec (.jcl p d gd c a) s = .next (s.withDev (s.dev.setCore p.val
        { (k.setC d.toNat k.pcc).setG gd.toNat (BitVec.ofNat 64 (k.pc + 4)) with pcc := x, pc := o }))))

/-- ERET (R324): in the primary bank it is ILLEGAL; with EPCC tagged it sets PCC and PC and returns to the primary bank, where a deferred TASK_CANCEL is
taken before the first instruction; with EPCC untagged the core takes RETURN_UNTAGGED in place, in the shadow bank, and the untagged value does not become
PCC; where VBCC cannot take that entry it is a double fault (R325). CCRWC of EPCC copies the source's tag as it stands. -/
def Obligations.EretReturns : Prop :=
  ∀ (s : State) (p : Fin 136) (k : Gallery), Issues s p → s.dev.core p.val = k →
  (k.shadow = false → vbccFault k.vbcc Cause.illegal = none →
    exec (.eret p) s = .next (s.taken p { cause := Cause.illegal, eaddr := s.dev.fetchWord s.core p.val })) ∧
  (k.shadow = true → k.epcc.tag = true → k.cancelPending = false →
    exec (.eret p) s = .next (s.withDev (s.dev.setCore p.val { k with pcc := k.epcc, pc := k.epc, shadow := false }))) ∧
  (k.shadow = true → k.epcc.tag = true → k.cancelPending = true → vbccFault k.vbcc Cause.taskCancel = none →
    exec (.eret p) s = .next (s.withDev ((s.dev.setCore p.val
      (Gallery.enter { k with pcc := k.epcc, pc := k.epc, shadow := false, cancelPending := false } (asyncExc Cause.taskCancel))).count (R.galCntExc p.val)))) ∧
  (∀ f, k.shadow = true → k.epcc.tag = false → vbccFault k.vbcc Cause.returnUntagged = some f →
    exec (.eret p) s = .next (s.withDev (s.dev.doubleFault s.core p.val Cause.returnUntagged f k.pc))) ∧
  (k.shadow = true → k.epcc.tag = false → vbccFault k.vbcc Cause.returnUntagged = none → ∃ k' : Gallery,
    k' = { k with ecause := k'.ecause, eaddr := BitVec.ofNat 64 k.pc, pcc := k.vbcc, pc := 0xE0 } ∧ fld k'.ecause 7 0 = Cause.returnUntagged ∧
    exec (.eret p) s = .next (s.withDev ((s.dev.setCore p.val k').count (R.galCntExc p.val)))) ∧
  (∀ (auth d : BitVec 4), authCheck (k.getC auth.toNat) auth.toNat Perm.system = none →
    exec (.ccrwc p d auth 8) s = .next (s.past p { k with epcc := k.getC d.toNat }))

/-- The shadow bank (R325): EVENT is not taken and stays pending, TASK_CANCEL waits, WFE and SLEEP complete at once, and a synchronous cause is a double
fault; so is, in either bank, a cause that VBCC cannot take. -/
def Obligations.ShadowBank : Prop :=
  ∀ (s : State) (p : Fin 136) (k : Gallery), Issues s p → s.dev.core p.val = k →
  (k.shadow = true →
    exec (.takeEvent p) s = .next s ∧
    (∀ g, g = (s.dev.logicalOf p.val).getD 0xFF → s.dev.doc.tcancels.contains g = true →
      exec (.taskCancel p) s = .next (s.withDev (({ s.dev with doc := { s.dev.doc with tcancels := s.dev.doc.tcancels.erase g } } : Dev).setCore p.val
        { k with cancelPending := true }))) ∧
    exec (.wfe p) s = .next (s.past p k) ∧
    (∀ auth : BitVec 4, authCheck (k.getC auth.toNat) auth.toNat Perm.system = none → exec (.sleep p auth) s = .next (s.past p k)) ∧
    (∀ n : BitVec 5, exec (.trap p n) s = .next (s.withDev (s.dev.doubleFault s.core p.val (fld k.ecause 5 0) (0x20 + n.toNat) k.pc))) ∧
    exec (.brk p) s = .next (s.withDev (s.dev.doubleFault s.core p.val (fld k.ecause 5 0) Cause.brk k.pc))) ∧
  (k.shadow = false →
    (∀ (n : BitVec 5) (f : Nat), vbccFault k.vbcc (0x20 + n.toNat) = some f →
      exec (.trap p n) s = .next (s.withDev (s.dev.doubleFault s.core p.val (0x20 + n.toNat) f k.pc))) ∧
    (k.vbcc.tag = false ∨ k.vbcc.otype ≠ 0 ∨ bit k.vbcc.perms Perm.exec = false ∨ k.vbcc.len < 16 * Cause.brk + 16 →
      ∃ f, exec (.brk p) s = .next (s.withDev (s.dev.doubleFault s.core p.val Cause.brk f k.pc))))

/-- Rescaling (R91), as the DEC128 operations do it on a coefficient `c` with the rounding mode they name. To a lower scale HALF_EVEN and HALF_AWAY give
the nearest coefficient, and at exactly half the even one or the one away from zero; TRUNCATE goes toward zero. To a higher scale it multiplies by a power
of ten and never rounds: a result that does not fit 256 bits is none (ARITH_OVERFLOW). -/
def Obligations.RescaleRounds : Prop :=
  ∀ (s t : Nat) (c : Int),
  (t < s → let p : Int := 10 ^ (s - t)
    (∃ r, rescaleRaw 0 s t c = some r ∧ 2 * (c - r * p).natAbs ≤ p.natAbs ∧ (2 * (c - r * p).natAbs = p.natAbs → r % 2 = 0)) ∧
    (∃ r, rescaleRaw 1 s t c = some r ∧ 2 * (c - r * p).natAbs ≤ p.natAbs ∧ (2 * (c - r * p).natAbs = p.natAbs → c.natAbs < (r * p).natAbs)) ∧
    (∃ r, rescaleRaw 2 s t c = some r ∧ (c - r * p).natAbs < p.natAbs ∧ (r * p).natAbs ≤ c.natAbs ∧ (0 ≤ c → 0 ≤ r) ∧ (c ≤ 0 → r ≤ 0))) ∧
  (s ≤ t → ∀ mode, (-(2 ^ 255) ≤ c * 10 ^ (t - s) ∧ c * 10 ^ (t - s) < 2 ^ 255 → rescaleRaw mode s t c = some (c * 10 ^ (t - s))) ∧
    (¬ (-(2 ^ 255) ≤ c * 10 ^ (t - s) ∧ c * 10 ^ (t - s) < 2 ^ 255) → rescaleRaw mode s t c = none))

/-- An entry matches a key (R251) when its VALID bit is 1 and the key agrees with it in every bit whose care bit is 1; a care mask of zeros matches every
key. -/
def Obligations.EntryMatches : Prop :=
  ∀ (e : CatEntry) (key : Nat),
  (e.hits key = true ↔ e.valid = true ∧ ∀ i, e.care.testBit i = true → key.testBit i = e.key.testBit i) ∧
  (e.valid = true → e.care = 0 → e.hits key = true)

/-- What a search of a set finds (R252): the ranks it counts are those of the matching entries, rising, and the record's RANK is the lowest of them, or
0xFFFF_FFFF when none matches. -/
def Obligations.LowestRankWins : Prop :=
  ∀ (x : CatSet) (key : Nat),
  (∀ r, r ∈ x.matches key ↔ ∃ e, (r, e) ∈ x.entries ∧ e.hits key = true) ∧ (x.matches key).Pairwise (· ≤ ·) ∧
  (∀ all, ∃ rest, x.record key all = toLE 2 0 ++ toLE 1 (b2n (1 ≤ (x.matches key).length) + 2 * b2n (2 ≤ (x.matches key).length)) ++ toLE 1 0 ++
    toLE 4 ((x.matches key).headD 0xFFFFFFFF) ++ toLE 4 (x.matches key).length ++ rest) ∧
  (∀ r, (x.matches key).head? = some r → ∀ q ∈ x.matches key, r ≤ q)

/-- A circular end of a DMA transfer (R439): byte `b` of the end lies at the ring's base plus (start + b) mod 2^L, where the base is the end's address with
its low L bits cleared and the start is the address mod 2^L. -/
def Obligations.RingBytes : Prop :=
  ∀ addr log n : Nat, n ≤ 2 ^ log →
  (ringSegs addr log n).flatMap (fun (x : Nat × Nat) => (List.range x.2).map (fun j => x.1 + j)) =
    (List.range n).map (fun b => (addr - addr % 2 ^ log) + (addr % 2 ^ log + b) % 2 ^ log)

/-- zigzag (R283): on values of `b` bits it is (r << 1) XOR (r >> (b - 1)) with an arithmetic shift, and a decoder that inverts it (R284) rebuilds the residue. -/
def Obligations.ZigzagInverts : Prop :=
  ∀ (b : Nat) (r : BitVec b), 0 < b →
  BitVec.ofNat b (zigzag b r.toNat) = (r <<< 1) ^^^ (r.sshiftRight (b - 1)) ∧ zigzag b r.toNat < 2 ^ b ∧ unzigzag b (zigzag b r.toNat) = r.toNat

/-- Interleaving (R362) gives each byte of a set's window a place of its own: two offsets with the same member and the same member address are one. -/
def Obligations.InterleaveInjective : Prop := ∀ (x : MemSet) (i j : Nat), x.member i = x.member j → i = j

/-- What a device reset reaches (R43): a power-on, a cold or a warm reset leaves the mode ROM, DEV_TIME at zero and KIND naming it, SRAM cleared (every byte below
the keys of the hosts, the SSDs and the flash, which are kept), the cores, the engines and the volumes' tables as at the start, and keeps the accession log's
freeze records and fence history. The registers but those that the reset itself writes read their reset values, and a register held in the accession log keeps its bits. -/
def Obligations.ResetReach : Prop :=
  ∀ (s : State), s.memOk →
  (∀ src, s.on → s.dev.mayRequest src = true →
    (∃ t, exec (.devResetCold src 0x5A3C) s = .next t ∧ s.resetTo t ∧ t.dev.getF R.devResetCause 2 0 = 1) ∧
    (∃ t, exec (.devResetWarm src 0x5A3C) s = .next t ∧ s.resetTo t ∧
      t.dev.getF R.devResetCause 2 0 = if s.core.mode = .safeStop then 3 else 2)) ∧
  (∀ g, s.core.mode = .off → ∃ t, exec (.pwrgoodRise g) s = .next t ∧ s.resetTo t ∧ t.core.pwrgood = true ∧ t.dev.getF R.devResetCause 2 0 = 0)

/-- Counters (R582): an amount that fits is added; one that would pass all-ones leaves all-ones, sets the counter's SAT bit and, when it sticks with SAT_EVENT at 1,
raises COUNTER_SAT; clearing (a write of zero) clears the counter and its SAT bit. -/
def Obligations.CountersStick : Prop :=
  ∀ (d : Dev) (off k sat b ev eb : Nat), cntSat off = some (sat, b, ev, eb) →
  ((d.reg off).toNat + k < 2 ^ 64 → d.count off k = d.setReg off (BitVec.ofNat 64 ((d.reg off).toNat + k))) ∧
  (2 ^ 64 ≤ (d.reg off).toNat + k → ∃ e : Dev, e = (d.setReg off (BitVec.ofNat 64 (2 ^ 64 - 1))).setFlag sat b true ∧ e.reg off = BitVec.ofNat 64 (2 ^ 64 - 1) ∧
    e.flag sat b = true ∧ d.count off k = if !d.flag sat b && d.flag ev eb then e.raiseEvent 2 else e) ∧
  (d.clearCounter off).reg off = 0 ∧ (d.clearCounter off).flag sat b = false

/-- ALERT_N (R551), whose pin state is PWR_STATUS bit 1 of the model: after a rail sample and after a power evaluation it is asserted exactly while a condition
among PWR_STATUS bits 3 to 7 is true and enabled; and RAIL_WARN is true while any rail's WARN is 1. -/
def Obligations.AlertFollows : Prop :=
  ∀ (s : State), s.on →
  (∀ (rail : Fin 4) (mv da : BitVec 16), ∃ t, exec (.railSample rail mv da) s = .next t ∧ t.dev.alertOk ∧
    (t.dev.flag R.pwrStatus 7 = true ↔ ∃ k < 4, t.dev.flag (R.pwrRail k) 0 = true)) ∧
  (∀ r, ∃ t, exec (.powerEvaluation r) s = .next t ∧ t.dev.alertOk)

/-- R195: the canonical form of a key value. A number is 0x01, its sign, the lowest scale that holds it, 0x00 and the magnitude there on 16 bytes; a string
is 0x02 on four bytes, its length on four, and its bytes; null is 0x03 on four bytes. Two numbers of at most 128 bits of magnitude, at scales that DEC128
allows, have one form exactly where they are equal by value; two strings of fewer than 2^32 bytes exactly where they are one string. -/
def Obligations.KeysByValue : Prop :=
  (∀ (s : Nat) (v : Int), ∃ (c : Int) (t : Nat), t ≤ s ∧ v = c * 10 ^ (s - t) ∧ (t = 0 ∨ ¬ (10 ∣ c)) ∧
    canon s (some (.num v)) = toLE 1 1 ++ toLE 1 (if c < 0 then 1 else 0) ++ toLE 1 t ++ toLE 1 0 ++ toLE 16 c.natAbs) ∧
  (∀ (s : Nat) (b : Bytes), canon s (some (.str b)) = toLE 4 2 ++ toLE 4 b.length ++ b ∧ canon s none = toLE 4 3) ∧
  (∀ (sa sb : Nat) (a b : Int), sa ≤ 38 → sb ≤ 38 → a.natAbs < 2 ^ 128 → b.natAbs < 2 ^ 128 →
    (canon sa (some (.num a)) = canon sb (some (.num b)) ↔ a * 10 ^ sb = b * 10 ^ sa)) ∧
  (∀ (sa sb : Nat) (x y : Bytes), x.length < 2 ^ 32 → y.length < 2 ^ 32 → (canon sa (some (.str x)) = canon sb (some (.str y)) ↔ x = y)) ∧
  (∀ (sa sb : Nat) (a : Int) (x : Bytes), canon sa (some (.num a)) ≠ canon sb (some (.str x)) ∧ canon sa (some (.num a)) ≠ canon sb none ∧
    canon sa (some (.str x)) ≠ canon sb none)

/-- R97 and R98: an addition to a lane that would leave 256 bits traps at that addition, and else is exact; and two ways to order the addends of a ledger
sum, to split them among tasks and to merge the partial lanes deliver one sum where neither traps. -/
def Obligations.LedgerSumAnyOrder : Prop :=
  (∀ a x : Int, laneInto (some a) x = if -(2 ^ 255) ≤ a + x ∧ a + x < 2 ^ 255 then some (a + x) else none) ∧
  (∀ (xs : List Int) (s : Int), laneSum xs = some s → s = xs.sum) ∧
  (∀ parts parts' : List (List Int), parts.flatten.Perm parts'.flatten → (laneMerge parts).isSome = true → (laneMerge parts').isSome = true →
    laneMerge parts = laneMerge parts' ∧ ledgerSum parts = ledgerSum parts')

end
end

