-- ==== Sys2Proof/Laws/Exec.lean ====
section
/-!
SUPPORT. What exec is on each command: one equation for each constructor, so that no proof unfolds the whole of exec.
-/

set_option Elab.async false

namespace Sys2Proof.Machine

theorem exec_pwrgoodRise (s : State) : ∀ gpio0Low, exec (.pwrgoodRise gpio0Low) s = execPwrgoodRise gpio0Low s := by intros; rfl
theorem exec_pwrgoodFall (s : State) : exec .pwrgoodFall s = execPwrgoodFall s := rfl
theorem exec_pfailNFall (s : State) : exec .pfailNFall s = execPfailNFall s := rfl
theorem exec_dumpComplete (s : State) : ∀ us metaBytes, exec (.dumpComplete us metaBytes) s = execDumpComplete us metaBytes s := by intros; rfl
theorem exec_pfailNRise (s : State) : exec .pfailNRise s = execPfailNRise s := rfl
theorem exec_dumpInvalidate (s : State) : exec .dumpInvalidate s = execDumpInvalidate s := rfl
theorem exec_dumpReplay (s : State) : exec .dumpReplay s = execDumpReplay s := rfl
theorem exec_dumpActionReplay (s : State) : ∀ src, exec (.dumpActionReplay src) s = execDumpActionReplay src s := by intros; rfl
theorem exec_dumpActionDiscard (s : State) : ∀ src, exec (.dumpActionDiscard src) s = execDumpActionDiscard src s := by intros; rfl
theorem exec_romPassDone (s : State) : ∀ r, exec (.romPassDone r) s = execRomPassDone r s := by intros; rfl
theorem exec_configureRecordsDone (s : State) : ∀ r, exec (.configureRecordsDone r) s = execConfigureRecordsDone r s := by intros; rfl
theorem exec_configureComplete (s : State) : ∀ r, exec (.configureComplete r) s = execConfigureComplete r s := by intros; rfl
theorem exec_devResetCold (s : State) : ∀ src key, exec (.devResetCold src key) s = execDevResetCold src key s := by intros; rfl
theorem exec_devResetWarm (s : State) : ∀ src key, exec (.devResetWarm src key) s = execDevResetWarm src key s := by intros; rfl
theorem exec_devResetRegistrar (s : State) : ∀ src key, exec (.devResetRegistrar src key) s = execDevResetRegistrar src key s := by intros; rfl
theorem exec_quiesce (s : State) : ∀ src, exec (.quiesce src) s = execQuiesce src s := by intros; rfl
theorem exec_resume (s : State) : ∀ src, exec (.resume src) s = execResume src s := by intros; rfl
theorem exec_enterRecovery (s : State) : ∀ src, exec (.enterRecovery src) s = execEnterRecovery src s := by intros; rfl
theorem exec_drainComplete (s : State) : exec .drainComplete s = execDrainComplete s := rfl
theorem exec_drainTimeout (s : State) : exec .drainTimeout s = execDrainTimeout s := rfl
theorem exec_holdTimeout (s : State) : exec .holdTimeout s = execHoldTimeout s := rfl
theorem exec_maintenanceComplete (s : State) : exec .maintenanceComplete s = execMaintenanceComplete s := rfl
theorem exec_hostPortReset (s : State) : ∀ port perst, exec (.hostPortReset port perst) s = execHostPortReset port perst s := by intros; rfl
theorem exec_hostLinkUp (s : State) : ∀ port speed width flit, exec (.hostLinkUp port speed width flit) s = execHostLinkUp port speed width flit s := by intros; rfl
theorem exec_functionReset (s : State) : ∀ port fn, exec (.functionReset port fn) s = execFunctionReset port fn s := by intros; rfl
theorem exec_pcieConfigRequest (s : State) : ∀ port fn req, exec (.pcieConfigRequest port fn req) s = execPcieConfigRequest port fn req s := by intros; rfl
theorem exec_atsInvalidation (s : State) : ∀ port fn, exec (.atsInvalidation port fn) s = execAtsInvalidation port fn s := by intros; rfl
theorem exec_thermalTrip (s : State) : ∀ sensor, exec (.thermalTrip sensor) s = execThermalTrip sensor s := by intros; rfl
theorem exec_sysrefLost (s : State) : exec .sysrefLost s = execSysrefLost s := rfl
theorem exec_sqDoorbell (s : State) : ∀ inst q v, exec (.sqDoorbell inst q v) s = execSqDoorbell inst q v s := by intros; rfl
theorem exec_cqDoorbell (s : State) : ∀ inst q v, exec (.cqDoorbell inst q v) s = execCqDoorbell inst q v s := by intros; rfl
theorem exec_xqEnable (s : State) : ∀ inst, exec (.xqEnable inst) s = execXqEnable inst s := by intros; rfl
theorem exec_xqReady (s : State) : ∀ inst, exec (.xqReady inst) s = execXqReady inst s := by intros; rfl
theorem exec_controllerReset (s : State) : ∀ inst, exec (.controllerReset inst) s = execControllerReset inst s := by intros; rfl
theorem exec_fetchTurn (s : State) : ∀ port, exec (.fetchTurn port) s = execFetchTurn port s := by intros; rfl
theorem exec_entryFetched (s : State) : ∀ port, exec (.entryFetched port) s = execEntryFetched port s := by intros; rfl
theorem exec_adminBusyTimeout (s : State) : ∀ ref waitMs, exec (.adminBusyTimeout ref waitMs) s = execAdminBusyTimeout ref waitMs s := by intros; rfl
theorem exec_read (s : State) : ∀ ref, exec (.read ref) s = execRead ref s := by intros; rfl
theorem exec_write (s : State) : ∀ ref, exec (.write ref) s = execWrite ref s := by intros; rfl
theorem exec_flush (s : State) : ∀ ref, exec (.flush ref) s = execFlush ref s := by intros; rfl
theorem exec_deallocate (s : State) : ∀ ref, exec (.deallocate ref) s = execDeallocate ref s := by intros; rfl
theorem exec_ouAdmit (s : State) : ∀ ref, exec (.ouAdmit ref) s = execOuAdmit ref s := by intros; rfl
theorem exec_writeInsert (s : State) : ∀ ref, exec (.writeInsert ref) s = execWriteInsert ref s := by intros; rfl
theorem exec_readDataTaken (s : State) : ∀ ref bad, exec (.readDataTaken ref bad) s = execReadDataTaken ref bad s := by intros; rfl
theorem exec_drainStep (s : State) : ∀ bad, exec (.drainStep bad) s = execDrainStep bad s := by intros; rfl
theorem exec_createQueue (s : State) : ∀ ref, exec (.createQueue ref) s = execCreateQueue ref s := by intros; rfl
theorem exec_deleteQueue (s : State) : ∀ ref, exec (.deleteQueue ref) s = execDeleteQueue ref s := by intros; rfl
theorem exec_identify (s : State) : ∀ ref, exec (.identify ref) s = execIdentify ref s := by intros; rfl
theorem exec_logRead (s : State) : ∀ ref, exec (.logRead ref) s = execLogRead ref s := by intros; rfl
theorem exec_counterRead (s : State) : ∀ ref, exec (.counterRead ref) s = execCounterRead ref s := by intros; rfl
theorem exec_traceConfig (s : State) : ∀ ref, exec (.traceConfig ref) s = execTraceConfig ref s := by intros; rfl
theorem exec_pipelineLoad (s : State) : ∀ ref, exec (.pipelineLoad ref) s = execPipelineLoad ref s := by intros; rfl
theorem exec_pipelineRun (s : State) : ∀ ref, exec (.pipelineRun ref) s = execPipelineRun ref s := by intros; rfl
theorem exec_pipelineCancel (s : State) : ∀ ref, exec (.pipelineCancel ref) s = execPipelineCancel ref s := by intros; rfl
theorem exec_resultRead (s : State) : ∀ ref, exec (.resultRead ref) s = execResultRead ref s := by intros; rfl
theorem exec_docentDecision (s : State) : exec .docentDecision s = execDocentDecision s := rfl
theorem exec_docTcancel (s : State) : ∀ src v, exec (.docTcancel src v) s = execDocTcancel src v s := by intros; rfl
theorem exec_taskdone (s : State) : ∀ p v r, exec (.taskdone p v r) s = execTaskdone p v r s := by intros; rfl
theorem exec_cancelTimeout (s : State) : ∀ g, exec (.cancelTimeout g) s = execCancelTimeout g s := by intros; rfl
theorem exec_shareEpoch (s : State) : exec .shareEpoch s = execShareEpoch s := rfl
theorem exec_ledgerVerdict (s : State) : ∀ run task, exec (.ledgerVerdict run task) s = execLedgerVerdict run task s := by intros; rfl
theorem exec_taskCancel (s : State) : ∀ p, exec (.taskCancel p) s = execTaskCancel p s := by intros; rfl
theorem exec_takeEvent (s : State) : ∀ p, exec (.takeEvent p) s = execTakeEvent p s := by intros; rfl
theorem exec_dispatchMessage (s : State) : ∀ p, exec (.dispatchMessage p) s = execDispatchMessage p s := by intros; rfl
theorem exec_galleryWakeDone (s : State) : ∀ p, exec (.galleryWakeDone p) s = execGalleryWakeDone p s := by intros; rfl
theorem exec_galleryPark (s : State) : ∀ p, exec (.galleryPark p) s = execGalleryPark p s := by intros; rfl
theorem exec_postedWriteError (s : State) : ∀ p addr reason, exec (.postedWriteError p addr reason) s = execPostedWriteError p addr reason s := by intros; rfl
theorem exec_integerAlu (s : State) : ∀ p op trap d a b, exec (.integerAlu p op trap d a b) s = execIntegerAlu p op trap d a b s := by intros; rfl
theorem exec_multiplyDivide (s : State) : ∀ p op trap d a b, exec (.multiplyDivide p op trap d a b) s = execMultiplyDivide p op trap d a b s := by intros; rfl
theorem exec_bitManipulation (s : State) : ∀ p op d a b, exec (.bitManipulation p op d a b) s = execBitManipulation p op d a b s := by intros; rfl
theorem exec_integerLoad (s : State) : ∀ p d c size sx off, exec (.integerLoad p d c size sx off) s = execIntegerLoad p d c size sx off s := by intros; rfl
theorem exec_integerStore (s : State) : ∀ p d c size off, exec (.integerStore p d c size off) s = execIntegerStore p d c size off s := by intros; rfl
theorem exec_ldc (s : State) : ∀ p d c off, exec (.ldc p d c off) s = execLdc p d c off s := by intros; rfl
theorem exec_stc (s : State) : ∀ p d c off, exec (.stc p d c off) s = execStc p d c off s := by intros; rfl
theorem exec_atomic (s : State) : ∀ p op d c b, exec (.atomic p op d c b) s = execAtomic p op d c b s := by intros; rfl
theorem exec_cwindow (s : State) : ∀ p d c b, exec (.cwindow p d c b) s = execCwindow p d c b s := by intros; rfl
theorem exec_ckeep (s : State) : ∀ p d c b, exec (.ckeep p d c b) s = execCkeep p d c b s := by intros; rfl
theorem exec_ccopy (s : State) : ∀ p d c, exec (.ccopy p d c) s = execCcopy p d c s := by intros; rfl
theorem exec_cstrip (s : State) : ∀ p d c, exec (.cstrip p d c) s = execCstrip p d c s := by intros; rfl
theorem exec_cinst (s : State) : ∀ p d c b auth, exec (.cinst p d c b auth) s = execCinst p d c b auth s := by intros; rfl
theorem exec_cbind (s : State) : ∀ p d c b auth, exec (.cbind p d c b auth) s = execCbind p d c b auth s := by intros; rfl
theorem exec_cunbind (s : State) : ∀ p d c b auth, exec (.cunbind p d c b auth) s = execCunbind p d c b auth s := by intros; rfl
theorem exec_capInspect (s : State) : ∀ p f d c, exec (.capInspect p f d c) s = execCapInspect p f d c s := by intros; rfl
theorem exec_branch (s : State) : ∀ p cond a b off, exec (.branch p cond a b off) s = execBranch p cond a b off s := by intros; rfl
theorem exec_jump (s : State) : ∀ p link off, exec (.jump p link off) s = execJump p link off s := by intros; rfl
theorem exec_jc (s : State) : ∀ p c a, exec (.jc p c a) s = execJc p c a s := by intros; rfl
theorem exec_jcl (s : State) : ∀ p d gd c a, exec (.jcl p d gd c a) s = execJcl p d gd c a s := by intros; rfl
theorem exec_ccrr (s : State) : ∀ p d auth num, exec (.ccrr p d auth num) s = execCcrr p d auth num s := by intros; rfl
theorem exec_ccrw (s : State) : ∀ p d auth num, exec (.ccrw p d auth num) s = execCcrw p d auth num s := by intros; rfl
theorem exec_ccrrc (s : State) : ∀ p d auth num, exec (.ccrrc p d auth num) s = execCcrrc p d auth num s := by intros; rfl
theorem exec_ccrwc (s : State) : ∀ p d auth num, exec (.ccrwc p d auth num) s = execCcrwc p d auth num s := by intros; rfl
theorem exec_eret (s : State) : ∀ p, exec (.eret p) s = execEret p s := by intros; rfl
theorem exec_fence (s : State) : ∀ p, exec (.fence p) s = execFence p s := by intros; rfl
theorem exec_wfe (s : State) : ∀ p, exec (.wfe p) s = execWfe p s := by intros; rfl
theorem exec_sleep (s : State) : ∀ p auth, exec (.sleep p auth) s = execSleep p auth s := by intros; rfl
theorem exec_trap (s : State) : ∀ p n, exec (.trap p n) s = execTrap p n s := by intros; rfl
theorem exec_brk (s : State) : ∀ p, exec (.brk p) s = execBrk p s := by intros; rfl
theorem exec_setvl (s : State) : ∀ p gd ga sew, exec (.setvl p gd ga sew) s = execSetvl p gd ga sew s := by intros; rfl
theorem exec_vsetsc (s : State) : ∀ p gs, exec (.vsetsc p gs) s = execVsetsc p gs s := by intros; rfl
theorem exec_vrdstate (s : State) : ∀ p gd n, exec (.vrdstate p gd n) s = execVrdstate p gd n s := by intros; rfl
theorem exec_vwake (s : State) : ∀ p, exec (.vwake p) s = execVwake p s := by intros; rfl
theorem exec_vectorAlu (s : State) : ∀ p op trap u vd va vb vm, exec (.vectorAlu p op trap u vd va vb vm) s = execVectorAlu p op trap u vd va vb vm s := by intros; rfl
theorem exec_vectorWidenMultiply (s : State) : ∀ p src u vd va vb vm, exec (.vectorWidenMultiply p src u vd va vb vm) s = execVectorWidenMultiply p src u vd va vb vm s := by intros; rfl
theorem exec_vdot4b (s : State) : ∀ p trap u vd va vb vm, exec (.vdot4b p trap u vd va vb vm) s = execVdot4b p trap u vd va vb vm s := by intros; rfl
theorem exec_vdot2h (s : State) : ∀ p trap u vd va vb vm, exec (.vdot2h p trap u vd va vb vm) s = execVdot2h p trap u vd va vb vm s := by intros; rfl
theorem exec_vdot2w (s : State) : ∀ p trap u vd va vb vm, exec (.vdot2w p trap u vd va vb vm) s = execVdot2w p trap u vd va vb vm s := by intros; rfl
theorem exec_vectorCompare (s : State) : ∀ p op vd va vb vm, exec (.vectorCompare p op vd va vb vm) s = execVectorCompare p op vd va vb vm s := by intros; rfl
theorem exec_vectorReduction (s : State) : ∀ p op trap u vd va vm, exec (.vectorReduction p op trap u vd va vm) s = execVectorReduction p op trap u vd va vm s := by intros; rfl
theorem exec_vcpop (s : State) : ∀ p gd vm, exec (.vcpop p gd vm) s = execVcpop p gd vm s := by intros; rfl
theorem exec_vcompress (s : State) : ∀ p vd va vm, exec (.vcompress p vd va vm) s = execVcompress p vd va vm s := by intros; rfl
theorem exec_vexpand (s : State) : ∀ p vd va vm, exec (.vexpand p vd va vm) s = execVexpand p vd va vm s := by intros; rfl
theorem exec_vectorPermute (s : State) : ∀ p op vd va vb vm, exec (.vectorPermute p op vd va vb vm) s = execVectorPermute p op vd va vb vm s := by intros; rfl
theorem exec_vcx (s : State) : ∀ p vd vb j k u vm, exec (.vcx p vd vb j k u vm) s = execVcx p vd vb j k u vm s := by intros; rfl
theorem exec_vhcrc (s : State) : ∀ p n vd va vm, exec (.vhcrc p n vd va vm) s = execVhcrc p n vd va vm s := by intros; rfl
theorem exec_vhmul (s : State) : ∀ p vd va vm, exec (.vhmul p vd va vm) s = execVhmul p vd va vm s := by intros; rfl
theorem exec_vectorMove (s : State) : ∀ p op d a vm, exec (.vectorMove p op d a vm) s = execVectorMove p op d a vm s := by intros; rfl
theorem exec_vdadd (s : State) : ∀ p vd va vb vm, exec (.vdadd p vd va vb vm) s = execVdadd p vd va vb vm s := by intros; rfl
theorem exec_vdsub (s : State) : ∀ p vd va vb vm, exec (.vdsub p vd va vb vm) s = execVdsub p vd va vb vm s := by intros; rfl
theorem exec_vdmul (s : State) : ∀ p vd va vb vm, exec (.vdmul p vd va vb vm) s = execVdmul p vd va vb vm s := by intros; rfl
theorem exec_vddiv (s : State) : ∀ p vd va vb vm, exec (.vddiv p vd va vb vm) s = execVddiv p vd va vb vm s := by intros; rfl
theorem exec_vdrescale (s : State) : ∀ p vd va vm, exec (.vdrescale p vd va vm) s = execVdrescale p vd va vm s := by intros; rfl
theorem exec_vdmin (s : State) : ∀ p vd va vb vm, exec (.vdmin p vd va vb vm) s = execVdmin p vd va vb vm s := by intros; rfl
theorem exec_vdmax (s : State) : ∀ p vd va vb vm, exec (.vdmax p vd va vb vm) s = execVdmax p vd va vb vm s := by intros; rfl
theorem exec_vdcmp (s : State) : ∀ p op vd va vb vm, exec (.vdcmp p op vd va vb vm) s = execVdcmp p op vd va vb vm s := by intros; rfl
theorem exec_vdfromi (s : State) : ∀ p vd va vm, exec (.vdfromi p vd va vm) s = execVdfromi p vd va vm s := by intros; rfl
theorem exec_vlacc (s : State) : ∀ p vd va vm, exec (.vlacc p vd va vm) s = execVlacc p vd va vm s := by intros; rfl
theorem exec_vlacci (s : State) : ∀ p vd va vm, exec (.vlacci p vd va vm) s = execVlacci p vd va vm s := by intros; rfl
theorem exec_vladd (s : State) : ∀ p vd va vb vm, exec (.vladd p vd va vb vm) s = execVladd p vd va vb vm s := by intros; rfl
theorem exec_vlnarrow (s : State) : ∀ p vd va vm, exec (.vlnarrow p vd va vm) s = execVlnarrow p vd va vm s := by intros; rfl
theorem exec_vlred (s : State) : ∀ p vd va vm, exec (.vlred p vd va vm) s = execVlred p vd va vm s := by intros; rfl
theorem exec_vld (s : State) : ∀ p vd c gb vm shift, exec (.vld p vd c gb vm shift) s = execVld p vd c gb vm shift s := by intros; rfl
theorem exec_vst (s : State) : ∀ p vd c gb vm shift, exec (.vst p vd c gb vm shift) s = execVst p vd c gb vm shift s := by intros; rfl
theorem exec_vgath (s : State) : ∀ p vd c vb vm shift wide, exec (.vgath p vd c vb vm shift wide) s = execVgath p vd c vb vm shift wide s := by intros; rfl
theorem exec_vscat (s : State) : ∀ p vd c vb vm shift wide, exec (.vscat p vd c vb vm shift wide) s = execVscat p vd c vb vm shift wide s := by intros; rfl
theorem exec_svAlu (s : State) : ∀ p op esw trap u sd sa sb, exec (.svAlu p op esw trap u sd sa sb) s = execSvAlu p op esw trap u sd sa sb s := by intros; rfl
theorem exec_svMultiply (s : State) : ∀ p wide high esw trap u sd sa sb, exec (.svMultiply p wide high esw trap u sd sa sb) s = execSvMultiply p wide high esw trap u sd sa sb s := by intros; rfl
theorem exec_svCompare (s : State) : ∀ p op esw sd sa sb, exec (.svCompare p op esw sd sa sb) s = execSvCompare p op esw sd sa sb s := by intros; rfl
theorem exec_svHash (s : State) : ∀ p crc esw sd sa, exec (.svHash p crc esw sd sa) s = execSvHash p crc esw sd sa s := by intros; rfl
theorem exec_svLoadStore (s : State) : ∀ p op sd a b, exec (.svLoadStore p op sd a b) s = execSvLoadStore p op sd a b s := by intros; rfl
theorem exec_lvuPowerOff (s : State) : ∀ p, exec (.lvuPowerOff p) s = execLvuPowerOff p s := by intros; rfl
theorem exec_lvuWakeDone (s : State) : ∀ p, exec (.lvuWakeDone p) s = execLvuWakeDone p s := by intros; rfl
theorem exec_sflSubmit (s : State) : ∀ f p v, exec (.sflSubmit f p v) s = execSflSubmit f p v s := by intros; rfl
theorem exec_sflGet (s : State) : ∀ f p v, exec (.sflGet f p v) s = execSflGet f p v s := by intros; rfl
theorem exec_sflAbort (s : State) : ∀ f p v, exec (.sflAbort f p v) s = execSflAbort f p v s := by intros; rfl
theorem exec_sflDescriptorStart (s : State) : ∀ f, exec (.sflDescriptorStart f) s = execSflDescriptorStart f s := by intros; rfl
theorem exec_sflRowgroupEval (s : State) : ∀ f, exec (.sflRowgroupEval f) s = execSflRowgroupEval f s := by intros; rfl
theorem exec_sflWriteError (s : State) : ∀ f p tag, exec (.sflWriteError f p tag) s = execSflWriteError f p tag s := by intros; rfl
theorem exec_excSend (s : State) : ∀ p stride, exec (.excSend p stride) s = execExcSend p stride s := by intros; rfl
theorem exec_excSendResume (s : State) : ∀ p stride, exec (.excSendResume p stride) s = execExcSendResume p stride s := by intros; rfl
theorem exec_excAllocTimeout (s : State) : ∀ p, exec (.excAllocTimeout p) s = execExcAllocTimeout p s := by intros; rfl
theorem exec_excNext (s : State) : ∀ p v, exec (.excNext p v) s = execExcNext p v s := by intros; rfl
theorem exec_excPublish (s : State) : exec .excPublish s = execExcPublish s := rfl
theorem exec_excVoid (s : State) : exec .excVoid s = execExcVoid s := rfl
theorem exec_excRelease (s : State) : exec .excRelease s = execExcRelease s := rfl
theorem exec_excRunEnd (s : State) : exec .excRunEnd s = execExcRunEnd s := rfl
theorem exec_catSearchPort (s : State) : ∀ p req, exec (.catSearchPort p req) s = execCatSearchPort p req s := by intros; rfl
theorem exec_catBatchClose (s : State) : ∀ owner set, exec (.catBatchClose owner set) s = execCatBatchClose owner set s := by intros; rfl
theorem exec_catPassSlot (s : State) : exec .catPassSlot s = execCatPassSlot s := rfl
theorem exec_catalogueBatch (s : State) : ∀ ref, exec (.catalogueBatch ref) s = execCatalogueBatch ref s := by intros; rfl
theorem exec_searchFirst (s : State) : ∀ ref, exec (.searchFirst ref) s = execSearchFirst ref s := by intros; rfl
theorem exec_searchAll (s : State) : ∀ ref, exec (.searchAll ref) s = execSearchAll ref s := by intros; rfl
theorem exec_append (s : State) : ∀ ref, exec (.append ref) s = execAppend ref s := by intros; rfl
theorem exec_insert (s : State) : ∀ ref, exec (.insert ref) s = execInsert ref s := by intros; rfl
theorem exec_catWrite (s : State) : ∀ ref, exec (.catWrite ref) s = execCatWrite ref s := by intros; rfl
theorem exec_delete (s : State) : ∀ ref, exec (.delete ref) s = execDelete ref s := by intros; rfl
theorem exec_catRead (s : State) : ∀ ref, exec (.catRead ref) s = execCatRead ref s := by intros; rfl
theorem exec_clear (s : State) : ∀ ref, exec (.clear ref) s = execClear ref s := by intros; rfl
theorem exec_catGroupEnable (s : State) : ∀ src n v, exec (.catGroupEnable src n v) s = execCatGroupEnable src n v s := by intros; rfl
theorem exec_catGroupDisable (s : State) : ∀ src n v, exec (.catGroupDisable src n v) s = execCatGroupDisable src n v s := by intros; rfl
theorem exec_catDisableEffect (s : State) : ∀ n, exec (.catDisableEffect n) s = execCatDisableEffect n s := by intros; rfl
theorem exec_catRefillDone (s : State) : ∀ n, exec (.catRefillDone n) s = execCatRefillDone n s := by intros; rfl
theorem exec_folSubmit (s : State) : ∀ p v, exec (.folSubmit p v) s = execFolSubmit p v s := by intros; rfl
theorem exec_folAppend (s : State) : ∀ p v, exec (.folAppend p v) s = execFolAppend p v s := by intros; rfl
theorem exec_folAbort (s : State) : ∀ p v, exec (.folAbort p v) s = execFolAbort p v s := by intros; rfl
theorem exec_folDescriptorStart (s : State) : ∀ e, exec (.folDescriptorStart e) s = execFolDescriptorStart e s := by intros; rfl
theorem exec_folStrip (s : State) : ∀ e, exec (.folStrip e) s = execFolStrip e s := by intros; rfl
theorem exec_folTaskNotice (s : State) : exec .folTaskNotice s = execFolTaskNotice s := rfl
theorem exec_folWriteError (s : State) : ∀ e p tag, exec (.folWriteError e p tag) s = execFolWriteError e p tag s := by intros; rfl
theorem exec_folRoleWrite (s : State) : ∀ src e role, exec (.folRoleWrite src e role) s = execFolRoleWrite src e role s := by intros; rfl
theorem exec_dmaSubmit (s : State) : ∀ p v, exec (.dmaSubmit p v) s = execDmaSubmit p v s := by intros; rfl
theorem exec_dmaAppend (s : State) : ∀ p v, exec (.dmaAppend p v) s = execDmaAppend p v s := by intros; rfl
theorem exec_dmaAbort (s : State) : ∀ p v, exec (.dmaAbort p v) s = execDmaAbort p v s := by intros; rfl
theorem exec_cqCfg (s : State) : ∀ p v, exec (.cqCfg p v) s = execCqCfg p v s := by intros; rfl
theorem exec_cqHead (s : State) : ∀ p v, exec (.cqHead p v) s = execCqHead p v s := by intros; rfl
theorem exec_dmaDescriptorStart (s : State) : ∀ ch, exec (.dmaDescriptorStart ch) s = execDmaDescriptorStart ch s := by intros; rfl
theorem exec_dmaTransfer (s : State) : ∀ ch, exec (.dmaTransfer ch) s = execDmaTransfer ch s := by intros; rfl
theorem exec_dmaRecordPost (s : State) : ∀ ch, exec (.dmaRecordPost ch) s = execDmaRecordPost ch s := by intros; rfl
theorem exec_dmaHostError (s : State) : ∀ ch p tag, exec (.dmaHostError ch p tag) s = execDmaHostError ch p tag s := by intros; rfl
theorem exec_dmaTaskNotice (s : State) : exec .dmaTaskNotice s = execDmaTaskNotice s := rfl
theorem exec_dmaWriteError (s : State) : ∀ p, exec (.dmaWriteError p) s = execDmaWriteError p s := by intros; rfl
theorem exec_evtRaisePort (s : State) : ∀ p v, exec (.evtRaisePort p v) s = execEvtRaisePort p v s := by intros; rfl
theorem exec_evtClaim (s : State) : ∀ p v, exec (.evtClaim p v) s = execEvtClaim p v s := by intros; rfl
theorem exec_evtRaise (s : State) : ∀ src v, exec (.evtRaise src v) s = execEvtRaise src v s := by intros; rfl
theorem exec_evtRouteWrite (s : State) : ∀ src n v, exec (.evtRouteWrite src n v) s = execEvtRouteWrite src n v s := by intros; rfl
theorem exec_evtPendWithdraw (s : State) : ∀ src n v, exec (.evtPendWithdraw src n v) s = execEvtPendWithdraw src n v s := by intros; rfl
theorem exec_evtCoalWrite (s : State) : ∀ src k v, exec (.evtCoalWrite src k v) s = execEvtCoalWrite src k v s := by intros; rfl
theorem exec_evtHoldWrite (s : State) : ∀ src v, exec (.evtHoldWrite src v) s = execEvtHoldWrite src v s := by intros; rfl
theorem exec_msixTableWrite (s : State) : ∀ inst off wide v, exec (.msixTableWrite inst off wide v) s = execMsixTableWrite inst off wide v s := by intros; rfl
theorem exec_eventRaise (s : State) : ∀ n g, exec (.eventRaise n g) s = execEventRaise n g s := by intros; rfl
theorem exec_evtArbiterCycle (s : State) : exec .evtArbiterCycle s = execEvtArbiterCycle s := rfl
theorem exec_evtCoalTimeout (s : State) : ∀ slot, exec (.evtCoalTimeout slot) s = execEvtCoalTimeout slot s := by intros; rfl
theorem exec_evtTaskNotice (s : State) : ∀ g, exec (.evtTaskNotice g) s = execEvtTaskNotice g s := by intros; rfl
theorem exec_evtFenceNotice (s : State) : ∀ g, exec (.evtFenceNotice g) s = execEvtFenceNotice g s := by intros; rfl
theorem exec_digestOpen (s : State) : ∀ src, exec (.digestOpen src) s = execDigestOpen src s := by intros; rfl
theorem exec_digestUpdate (s : State) : ∀ src, exec (.digestUpdate src) s = execDigestUpdate src s := by intros; rfl
theorem exec_digestSave (s : State) : ∀ src, exec (.digestSave src) s = execDigestSave src s := by intros; rfl
theorem exec_digestRestore (s : State) : ∀ src, exec (.digestRestore src) s = execDigestRestore src s := by intros; rfl
theorem exec_digestClose (s : State) : ∀ src, exec (.digestClose src) s = execDigestClose src s := by intros; rfl
theorem exec_prvLaneBlock (s : State) : ∀ l, exec (.prvLaneBlock l) s = execPrvLaneBlock l s := by intros; rfl
theorem exec_prvCompareDone (s : State) : ∀ k agree, exec (.prvCompareDone k agree) s = execPrvCompareDone k agree s := by intros; rfl
theorem exec_prvOpenResume (s : State) : exec .prvOpenResume s = execPrvOpenResume s := rfl
theorem exec_prvTaskNotice (s : State) : exec .prvTaskNotice s = execPrvTaskNotice s := rfl
theorem exec_memRequestIssue (s : State) : ∀ ch, exec (.memRequestIssue ch) s = execMemRequestIssue ch s := by intros; rfl
theorem exec_memReadReturn (s : State) : ∀ ch block err, exec (.memReadReturn ch block err) s = execMemReadReturn ch block err s := by intros; rfl
theorem exec_memChannelRelease (s : State) : ∀ ch, exec (.memChannelRelease ch) s = execMemChannelRelease ch s := by intros; rfl
theorem exec_memReleaseTimeout (s : State) : ∀ ch, exec (.memReleaseTimeout ch) s = execMemReleaseTimeout ch s := by intros; rfl
theorem exec_memAgePromote (s : State) : ∀ ch order, exec (.memAgePromote ch order) s = execMemAgePromote ch order s := by intros; rfl
theorem exec_memRefreshDue (s : State) : ∀ ch, exec (.memRefreshDue ch) s = execMemRefreshDue ch s := by intros; rfl
theorem exec_memTempSample (s : State) : ∀ ch celsius mr4, exec (.memTempSample ch celsius mr4) s = execMemTempSample ch celsius mr4 s := by intros; rfl
theorem exec_memRhWindow (s : State) : ∀ ch, exec (.memRhWindow ch) s = execMemRhWindow ch s := by intros; rfl
theorem exec_patrolScrub (s : State) : ∀ ch block err, exec (.patrolScrub ch block err) s = execPatrolScrub ch block err s := by intros; rfl
theorem exec_sppr (s : State) : ∀ ch row left, exec (.sppr ch row left) s = execSppr ch row left s := by intros; rfl
theorem exec_memSetMapWrite (s : State) : ∀ src n v, exec (.memSetMapWrite src n v) s = execMemSetMapWrite src n v s := by intros; rfl
theorem exec_ssdLinkUp (s : State) : ∀ n width speed, exec (.ssdLinkUp n width speed) s = execSsdLinkUp n width speed s := by intros; rfl
theorem exec_ssdIdentifyDone (s : State) : ∀ n info, exec (.ssdIdentifyDone n info) s = execSsdIdentifyDone n info s := by intros; rfl
theorem exec_ssdRemoval (s : State) : ∀ n, exec (.ssdRemoval n) s = execSsdRemoval n s := by intros; rfl
theorem exec_nvmeCompletion (s : State) : ∀ n id ok, exec (.nvmeCompletion n id ok) s = execNvmeCompletion n id ok s := by intros; rfl
theorem exec_nvmeTimeout (s : State) : ∀ n id, exec (.nvmeTimeout n id) s = execNvmeTimeout n id s := by intros; rfl
theorem exec_nvmeAbortTimeout (s : State) : ∀ n id, exec (.nvmeAbortTimeout n id) s = execNvmeAbortTimeout n id s := by intros; rfl
theorem exec_ssdReadyTimeout (s : State) : ∀ n, exec (.ssdReadyTimeout n) s = execSsdReadyTimeout n s := by intros; rfl
theorem exec_assembleTimeout (s : State) : exec .assembleTimeout s = execAssembleTimeout s := rfl
theorem exec_rebuildStripe (s : State) : ∀ v bad, exec (.rebuildStripe v bad) s = execRebuildStripe v bad s := by intros; rfl
theorem exec_roleReqSpare (s : State) : ∀ src n, exec (.roleReqSpare src n) s = execRoleReqSpare src n s := by intros; rfl
theorem exec_roleReqFree (s : State) : ∀ src n, exec (.roleReqFree src n) s = execRoleReqFree src n s := by intros; rfl
theorem exec_wipeLabel (s : State) : ∀ src n, exec (.wipeLabel src n) s = execWipeLabel src n s := by intros; rfl
theorem exec_volumeCreate (s : State) : ∀ ref, exec (.volumeCreate ref) s = execVolumeCreate ref s := by intros; rfl
theorem exec_volumeDelete (s : State) : ∀ ref, exec (.volumeDelete ref) s = execVolumeDelete ref s := by intros; rfl
theorem exec_formatVolume (s : State) : ∀ ref, exec (.formatVolume ref) s = execFormatVolume ref s := by intros; rfl
theorem exec_sanitise (s : State) : ∀ ref, exec (.sanitise ref) s = execSanitise ref s := by intros; rfl
theorem exec_maintenanceStep (s : State) : ∀ v n, exec (.maintenanceStep v n) s = execMaintenanceStep v n s := by intros; rfl
theorem exec_instanceCreate (s : State) : ∀ ref, exec (.instanceCreate ref) s = execInstanceCreate ref s := by intros; rfl
theorem exec_instanceShare (s : State) : ∀ ref, exec (.instanceShare ref) s = execInstanceShare ref s := by intros; rfl
theorem exec_instanceFreeze (s : State) : ∀ ref, exec (.instanceFreeze ref) s = execInstanceFreeze ref s := by intros; rfl
theorem exec_freezeDrainDone (s : State) : ∀ inst, exec (.freezeDrainDone inst) s = execFreezeDrainDone inst s := by intros; rfl
theorem exec_freezeTimeout (s : State) : ∀ inst, exec (.freezeTimeout inst) s = execFreezeTimeout inst s := by intros; rfl
theorem exec_instanceExport (s : State) : ∀ ref, exec (.instanceExport ref) s = execInstanceExport ref s := by intros; rfl
theorem exec_instanceImport (s : State) : ∀ ref, exec (.instanceImport ref) s = execInstanceImport ref s := by intros; rfl
theorem exec_instanceDestroy (s : State) : ∀ ref, exec (.instanceDestroy ref) s = execInstanceDestroy ref s := by intros; rfl
theorem exec_map (s : State) : ∀ src ctrl, exec (.map src ctrl) s = execMap src ctrl s := by intros; rfl
theorem exec_unmap (s : State) : ∀ src ctrl, exec (.unmap src ctrl) s = execUnmap src ctrl s := by intros; rfl
theorem exec_setPasid (s : State) : ∀ src ctrl, exec (.setPasid src ctrl) s = execSetPasid src ctrl s := by intros; rfl
theorem exec_tlbInvalAck (s : State) : ∀ unit, exec (.tlbInvalAck unit) s = execTlbInvalAck unit s := by intros; rfl
theorem exec_faultReport (s : State) : ∀ f, exec (.faultReport f) s = execFaultReport f s := by intros; rfl
theorem exec_reserveSwap (s : State) : ∀ p, exec (.reserveSwap p) s = execReserveSwap p s := by intros; rfl
theorem exec_checkerInject (s : State) : ∀ unit, exec (.checkerInject unit) s = execCheckerInject unit s := by intros; rfl
theorem exec_injectTimeout (s : State) : ∀ unit, exec (.injectTimeout unit) s = execInjectTimeout unit s := by intros; rfl
theorem exec_testClaim (s : State) : ∀ p, exec (.testClaim p) s = execTestClaim p s := by intros; rfl
theorem exec_testLate (s : State) : ∀ p, exec (.testLate p) s = execTestLate p s := by intros; rfl
theorem exec_structuralTestDone (s : State) : ∀ p pass left, exec (.structuralTestDone p pass left) s = execStructuralTestDone p pass left s := by intros; rfl
theorem exec_unitRetest (s : State) : ∀ unit pass, exec (.unitRetest unit pass) s = execUnitRetest unit pass s := by intros; rfl
theorem exec_registrarHeartbeat (s : State) : exec .registrarHeartbeat s = execRegistrarHeartbeat s := rfl
theorem exec_heartbeatTimeout (s : State) : exec .heartbeatTimeout s = execHeartbeatTimeout s := rfl
theorem exec_watchdogKick (s : State) : exec .watchdogKick s = execWatchdogKick s := rfl
theorem exec_watchdogTimeout (s : State) : exec .watchdogTimeout s = execWatchdogTimeout s := rfl
theorem exec_laneFail (s : State) : ∀ link group, exec (.laneFail link group) s = execLaneFail link group s := by intros; rfl
theorem exec_flitParityError (s : State) : ∀ link group, exec (.flitParityError link group) s = execFlitParityError link group s := by intros; rfl
theorem exec_returnPrepare (s : State) : ∀ src v, exec (.returnPrepare src v) s = execReturnPrepare src v s := by intros; rfl
theorem exec_canaryLoop (s : State) : ∀ r, exec (.canaryLoop r) s = execCanaryLoop r s := by intros; rfl
theorem exec_railSample (s : State) : ∀ rail mv deciamps, exec (.railSample rail mv deciamps) s = execRailSample rail mv deciamps s := by intros; rfl
theorem exec_powerEvaluation (s : State) : ∀ r, exec (.powerEvaluation r) s = execPowerEvaluation r s := by intros; rfl
theorem exec_pwrCapWrite (s : State) : ∀ src v, exec (.pwrCapWrite src v) s = execPwrCapWrite src v s := by intros; rfl
theorem exec_fwPiece (s : State) : ∀ ref, exec (.fwPiece ref) s = execFwPiece ref s := by intros; rfl
theorem exec_fwCommit (s : State) : ∀ ref, exec (.fwCommit ref) s = execFwCommit ref s := by intros; rfl
theorem exec_fwActivate (s : State) : ∀ ref, exec (.fwActivate ref) s = execFwActivate ref s := by intros; rfl
theorem exec_fwConfirm (s : State) : ∀ ref, exec (.fwConfirm ref) s = execFwConfirm ref s := by intros; rfl
theorem exec_settingsSave (s : State) : ∀ src, exec (.settingsSave src) s = execSettingsSave src s := by intros; rfl
theorem exec_settingsClear (s : State) : ∀ src, exec (.settingsClear src) s = execSettingsClear src s := by intros; rfl
theorem exec_recoveryGo (s : State) : ∀ port slot block, exec (.recoveryGo port slot block) s = execRecoveryGo port slot block s := by intros; rfl
theorem exec_recoveryFinish (s : State) : ∀ port slot, exec (.recoveryFinish port slot) s = execRecoveryFinish port slot s := by intros; rfl
theorem exec_uartData (s : State) : ∀ frame, exec (.uartData frame) s = execUartData frame s := by intros; rfl
theorem exec_uartFinish (s : State) : ∀ frame, exec (.uartFinish frame) s = execUartFinish frame s := by intros; rfl
theorem exec_uartSpeed (s : State) : ∀ frame, exec (.uartSpeed frame) s = execUartSpeed frame s := by intros; rfl
theorem exec_i3cDynamicAddress (s : State) : ∀ addr, exec (.i3cDynamicAddress addr) s = execI3cDynamicAddress addr s := by intros; rfl
theorem exec_setEndpointId (s : State) : ∀ bus op eid, exec (.setEndpointId bus op eid) s = execSetEndpointId bus op eid s := by intros; rfl
theorem exec_getEndpointId (s : State) : ∀ bus, exec (.getEndpointId bus) s = execGetEndpointId bus s := by intros; rfl
theorem exec_getMctpVersionSupport (s : State) : ∀ bus, exec (.getMctpVersionSupport bus) s = execGetMctpVersionSupport bus s := by intros; rfl
theorem exec_getMessageTypeSupport (s : State) : ∀ bus, exec (.getMessageTypeSupport bus) s = execGetMessageTypeSupport bus s := by intros; rfl
theorem exec_getEndpointUuid (s : State) : ∀ bus, exec (.getEndpointUuid bus) s = execGetEndpointUuid bus s := by intros; rfl
theorem exec_gettid (s : State) : ∀ bus, exec (.gettid bus) s = execGettid bus s := by intros; rfl
theorem exec_settid (s : State) : ∀ bus tid, exec (.settid bus tid) s = execSettid bus tid s := by intros; rfl
theorem exec_getpldmversion (s : State) : ∀ bus type, exec (.getpldmversion bus type) s = execGetpldmversion bus type s := by intros; rfl
theorem exec_getpldmtypes (s : State) : ∀ bus, exec (.getpldmtypes bus) s = execGetpldmtypes bus s := by intros; rfl
theorem exec_getpldmcommands (s : State) : ∀ bus type, exec (.getpldmcommands bus type) s = execGetpldmcommands bus type s := by intros; rfl
theorem exec_getpdr (s : State) : ∀ bus handle, exec (.getpdr bus handle) s = execGetpdr bus handle s := by intros; rfl
theorem exec_getsensorreading (s : State) : ∀ bus sensor, exec (.getsensorreading bus sensor) s = execGetsensorreading bus sensor s := by intros; rfl
theorem exec_getstatesensorreadings (s : State) : ∀ bus sensor, exec (.getstatesensorreadings bus sensor) s = execGetstatesensorreadings bus sensor s := by intros; rfl
theorem exec_setnumericeffectervalue (s : State) : ∀ bus effecter v, exec (.setnumericeffectervalue bus effecter v) s = execSetnumericeffectervalue bus effecter v s := by intros; rfl
theorem exec_setstateeffecterstates (s : State) : ∀ bus effecter, exec (.setstateeffecterstates bus effecter) s = execSetstateeffecterstates bus effecter s := by intros; rfl
theorem exec_querydeviceidentifiers (s : State) : ∀ bus, exec (.querydeviceidentifiers bus) s = execQuerydeviceidentifiers bus s := by intros; rfl
theorem exec_getfirmwareparameters (s : State) : ∀ bus, exec (.getfirmwareparameters bus) s = execGetfirmwareparameters bus s := by intros; rfl
theorem exec_requestupdate (s : State) : ∀ bus version imageBytes, exec (.requestupdate bus version imageBytes) s = execRequestupdate bus version imageBytes s := by intros; rfl
theorem exec_passcomponenttable (s : State) : ∀ bus, exec (.passcomponenttable bus) s = execPasscomponenttable bus s := by intros; rfl
theorem exec_updatecomponent (s : State) : ∀ bus, exec (.updatecomponent bus) s = execUpdatecomponent bus s := by intros; rfl
theorem exec_requestfirmwaredata (s : State) : ∀ bus data, exec (.requestfirmwaredata bus data) s = execRequestfirmwaredata bus data s := by intros; rfl
theorem exec_transfercomplete (s : State) : ∀ bus, exec (.transfercomplete bus) s = execTransfercomplete bus s := by intros; rfl
theorem exec_verifycomplete (s : State) : ∀ bus, exec (.verifycomplete bus) s = execVerifycomplete bus s := by intros; rfl
theorem exec_applycomplete (s : State) : ∀ bus, exec (.applycomplete bus) s = execApplycomplete bus s := by intros; rfl
theorem exec_activatefirmware (s : State) : ∀ bus selfContained, exec (.activatefirmware bus selfContained) s = execActivatefirmware bus selfContained s := by intros; rfl
theorem exec_getstatus (s : State) : ∀ bus, exec (.getstatus bus) s = execGetstatus bus s := by intros; rfl
theorem exec_cancelupdatecomponent (s : State) : ∀ bus, exec (.cancelupdatecomponent bus) s = execCancelupdatecomponent bus s := by intros; rfl
theorem exec_cancelupdate (s : State) : ∀ bus, exec (.cancelupdate bus) s = execCancelupdate bus s := by intros; rfl
theorem exec_spdmRequest (s : State) : ∀ path msg, exec (.spdmRequest path msg) s = execSpdmRequest path msg s := by intros; rfl
theorem exec_managerClaim (s : State) : ∀ port keyHash, exec (.managerClaim port keyHash) s = execManagerClaim port keyHash s := by intros; rfl
theorem exec_migkeyInstall (s : State) : ∀ keyHash key keyId, exec (.migkeyInstall keyHash key keyId) s = execMigkeyInstall keyHash key keyId s := by intros; rfl
theorem exec_counterWrite (s : State) : ∀ src off v, exec (.counterWrite src off v) s = execCounterWrite src off v s := by intros; rfl
theorem exec_registerWrite (s : State) : ∀ src off size v, exec (.registerWrite src off size v) s = execRegisterWrite src off size v s := by intros; rfl
theorem exec_perstNDeassert (s : State) : ∀ port, exec (.perstNDeassert port) s = execPerstNDeassert port s := by intros; rfl
theorem exec_registrarRestartDone (s : State) : exec .registrarRestartDone s = execRegistrarRestartDone s := rfl
theorem exec_linkRetrainDone (s : State) : ∀ link, exec (.linkRetrainDone link) s = execLinkRetrainDone link s := by intros; rfl
theorem exec_uartSpeedChange (s : State) : exec .uartSpeedChange s = execUartSpeedChange s := rfl
theorem exec_safAgeUpdate (s : State) : ∀ r, exec (.safAgeUpdate r) s = execSafAgeUpdate r s := by intros; rfl
theorem exec_unassignedInstruction (s : State) : ∀ p, exec (.unassignedInstruction p) s = execUnassignedInstruction p s := by intros; rfl

end Sys2Proof.Machine
end

