-- ==== Sys2Proof/Laws/State.lean ====
section
/-!
SUPPORT. The fields that each update of the state leaves alone, one lemma for each field of each update, and what the update puts into
the field it writes.
-/

set_option Elab.async false

namespace Sys2Proof.Machine

/-! ### The whole state -/

@[simp] theorem State.withDev_core (s : State) (d : Dev) : (s.withDev d).core = s.core := rfl
@[simp] theorem State.withDev_dev (s : State) (d : Dev) : (s.withDev d).dev = d := rfl
@[simp] theorem State.withDev_pending (s : State) (d : Dev) : (s.withDev d).pending = s.pending := rfl
@[simp] theorem State.withAll_core (s : State) (x : CoreSt × Dev) : (s.withAll x).core = x.1 := rfl
@[simp] theorem State.withAll_dev (s : State) (x : CoreSt × Dev) : (s.withAll x).dev = x.2 := rfl
@[simp] theorem State.withAll_pending (s : State) (x : CoreSt × Dev) : (s.withAll x).pending = s.pending := rfl
@[simp] theorem State.withDev_self (s : State) : s.withDev s.dev = s := rfl

/-! ### The blocks -/

@[simp] theorem Dev.setReg_mem (d : Dev) (off : Nat) (v : Word) : (d.setReg off v).mem = d.mem := rfl
@[simp] theorem Dev.setReg_evLog (d : Dev) (off : Nat) (v : Word) : (d.setReg off v).evLog = d.evLog := rfl
@[simp] theorem Dev.setReg_freezeLog (d : Dev) (off : Nat) (v : Word) : (d.setReg off v).freezeLog = d.freezeLog := rfl
@[simp] theorem Dev.setReg_evt (d : Dev) (off : Nat) (v : Word) : (d.setReg off v).evt = d.evt := rfl
@[simp] theorem Dev.setReg_ins (d : Dev) (off : Nat) (v : Word) : (d.setReg off v).ins = d.ins := rfl
@[simp] theorem Dev.setReg_dram (d : Dev) (off : Nat) (v : Word) : (d.setReg off v).dram = d.dram := rfl
@[simp] theorem Dev.setReg_saf (d : Dev) (off : Nat) (v : Word) : (d.setReg off v).saf = d.saf := rfl
@[simp] theorem Dev.setReg_xq (d : Dev) (off : Nat) (v : Word) : (d.setReg off v).xq = d.xq := rfl
@[simp] theorem Dev.setReg_doc (d : Dev) (off : Nat) (v : Word) : (d.setReg off v).doc = d.doc := rfl
@[simp] theorem Dev.setReg_gals (d : Dev) (off : Nat) (v : Word) : (d.setReg off v).gals = d.gals := rfl
@[simp] theorem Dev.setReg_sfl (d : Dev) (off : Nat) (v : Word) : (d.setReg off v).sfl = d.sfl := rfl
@[simp] theorem Dev.setReg_exc (d : Dev) (off : Nat) (v : Word) : (d.setReg off v).exc = d.exc := rfl
@[simp] theorem Dev.setReg_fol (d : Dev) (off : Nat) (v : Word) : (d.setReg off v).fol = d.fol := rfl
@[simp] theorem Dev.setReg_dma (d : Dev) (off : Nat) (v : Word) : (d.setReg off v).dma = d.dma := rfl
@[simp] theorem Dev.setReg_prv (d : Dev) (off : Nat) (v : Word) : (d.setReg off v).prv = d.prv := rfl
@[simp] theorem Dev.setReg_cat (d : Dev) (off : Nat) (v : Word) : (d.setReg off v).cat = d.cat := rfl
@[simp] theorem Dev.setReg_vol (d : Dev) (off : Nat) (v : Word) : (d.setReg off v).vol = d.vol := rfl
@[simp] theorem Dev.setReg_acc (d : Dev) (off : Nat) (v : Word) : (d.setReg off v).acc = d.acc := rfl
@[simp] theorem Dev.setReg_pwr (d : Dev) (off : Nat) (v : Word) : (d.setReg off v).pwr = d.pwr := rfl
@[simp] theorem Dev.setReg_cfg (d : Dev) (off : Nat) (v : Word) : (d.setReg off v).cfg = d.cfg := rfl
@[simp] theorem Dev.setReg_firmware (d : Dev) (off : Nat) (v : Word) : (d.setReg off v).firmware = d.firmware := rfl
@[simp] theorem Dev.setReg_phy (d : Dev) (off : Nat) (v : Word) : (d.setReg off v).phy = d.phy := rfl
@[simp] theorem Dev.setReg_mgmt (d : Dev) (off : Nat) (v : Word) : (d.setReg off v).mgmt = d.mgmt := rfl
@[simp] theorem Dev.setReg_fresh (d : Dev) (off : Nat) (v : Word) : (d.setReg off v).fresh = d.fresh := rfl
@[simp] theorem Dev.setF_mem (d : Dev) (off hi lo x : Nat) : (d.setF off hi lo x).mem = d.mem := rfl
@[simp] theorem Dev.setF_evLog (d : Dev) (off hi lo x : Nat) : (d.setF off hi lo x).evLog = d.evLog := rfl
@[simp] theorem Dev.setF_freezeLog (d : Dev) (off hi lo x : Nat) : (d.setF off hi lo x).freezeLog = d.freezeLog := rfl
@[simp] theorem Dev.setF_evt (d : Dev) (off hi lo x : Nat) : (d.setF off hi lo x).evt = d.evt := rfl
@[simp] theorem Dev.setF_ins (d : Dev) (off hi lo x : Nat) : (d.setF off hi lo x).ins = d.ins := rfl
@[simp] theorem Dev.setF_dram (d : Dev) (off hi lo x : Nat) : (d.setF off hi lo x).dram = d.dram := rfl
@[simp] theorem Dev.setF_saf (d : Dev) (off hi lo x : Nat) : (d.setF off hi lo x).saf = d.saf := rfl
@[simp] theorem Dev.setF_xq (d : Dev) (off hi lo x : Nat) : (d.setF off hi lo x).xq = d.xq := rfl
@[simp] theorem Dev.setF_doc (d : Dev) (off hi lo x : Nat) : (d.setF off hi lo x).doc = d.doc := rfl
@[simp] theorem Dev.setF_gals (d : Dev) (off hi lo x : Nat) : (d.setF off hi lo x).gals = d.gals := rfl
@[simp] theorem Dev.setF_sfl (d : Dev) (off hi lo x : Nat) : (d.setF off hi lo x).sfl = d.sfl := rfl
@[simp] theorem Dev.setF_exc (d : Dev) (off hi lo x : Nat) : (d.setF off hi lo x).exc = d.exc := rfl
@[simp] theorem Dev.setF_fol (d : Dev) (off hi lo x : Nat) : (d.setF off hi lo x).fol = d.fol := rfl
@[simp] theorem Dev.setF_dma (d : Dev) (off hi lo x : Nat) : (d.setF off hi lo x).dma = d.dma := rfl
@[simp] theorem Dev.setF_prv (d : Dev) (off hi lo x : Nat) : (d.setF off hi lo x).prv = d.prv := rfl
@[simp] theorem Dev.setF_cat (d : Dev) (off hi lo x : Nat) : (d.setF off hi lo x).cat = d.cat := rfl
@[simp] theorem Dev.setF_vol (d : Dev) (off hi lo x : Nat) : (d.setF off hi lo x).vol = d.vol := rfl
@[simp] theorem Dev.setF_acc (d : Dev) (off hi lo x : Nat) : (d.setF off hi lo x).acc = d.acc := rfl
@[simp] theorem Dev.setF_pwr (d : Dev) (off hi lo x : Nat) : (d.setF off hi lo x).pwr = d.pwr := rfl
@[simp] theorem Dev.setF_cfg (d : Dev) (off hi lo x : Nat) : (d.setF off hi lo x).cfg = d.cfg := rfl
@[simp] theorem Dev.setF_firmware (d : Dev) (off hi lo x : Nat) : (d.setF off hi lo x).firmware = d.firmware := rfl
@[simp] theorem Dev.setF_phy (d : Dev) (off hi lo x : Nat) : (d.setF off hi lo x).phy = d.phy := rfl
@[simp] theorem Dev.setF_mgmt (d : Dev) (off hi lo x : Nat) : (d.setF off hi lo x).mgmt = d.mgmt := rfl
@[simp] theorem Dev.setF_fresh (d : Dev) (off hi lo x : Nat) : (d.setF off hi lo x).fresh = d.fresh := rfl
@[simp] theorem Dev.setFlag_mem (d : Dev) (off n : Nat) (b : Bool) : (d.setFlag off n b).mem = d.mem := rfl
@[simp] theorem Dev.setFlag_evLog (d : Dev) (off n : Nat) (b : Bool) : (d.setFlag off n b).evLog = d.evLog := rfl
@[simp] theorem Dev.setFlag_freezeLog (d : Dev) (off n : Nat) (b : Bool) : (d.setFlag off n b).freezeLog = d.freezeLog := rfl
@[simp] theorem Dev.setFlag_evt (d : Dev) (off n : Nat) (b : Bool) : (d.setFlag off n b).evt = d.evt := rfl
@[simp] theorem Dev.setFlag_ins (d : Dev) (off n : Nat) (b : Bool) : (d.setFlag off n b).ins = d.ins := rfl
@[simp] theorem Dev.setFlag_dram (d : Dev) (off n : Nat) (b : Bool) : (d.setFlag off n b).dram = d.dram := rfl
@[simp] theorem Dev.setFlag_saf (d : Dev) (off n : Nat) (b : Bool) : (d.setFlag off n b).saf = d.saf := rfl
@[simp] theorem Dev.setFlag_xq (d : Dev) (off n : Nat) (b : Bool) : (d.setFlag off n b).xq = d.xq := rfl
@[simp] theorem Dev.setFlag_doc (d : Dev) (off n : Nat) (b : Bool) : (d.setFlag off n b).doc = d.doc := rfl
@[simp] theorem Dev.setFlag_gals (d : Dev) (off n : Nat) (b : Bool) : (d.setFlag off n b).gals = d.gals := rfl
@[simp] theorem Dev.setFlag_sfl (d : Dev) (off n : Nat) (b : Bool) : (d.setFlag off n b).sfl = d.sfl := rfl
@[simp] theorem Dev.setFlag_exc (d : Dev) (off n : Nat) (b : Bool) : (d.setFlag off n b).exc = d.exc := rfl
@[simp] theorem Dev.setFlag_fol (d : Dev) (off n : Nat) (b : Bool) : (d.setFlag off n b).fol = d.fol := rfl
@[simp] theorem Dev.setFlag_dma (d : Dev) (off n : Nat) (b : Bool) : (d.setFlag off n b).dma = d.dma := rfl
@[simp] theorem Dev.setFlag_prv (d : Dev) (off n : Nat) (b : Bool) : (d.setFlag off n b).prv = d.prv := rfl
@[simp] theorem Dev.setFlag_cat (d : Dev) (off n : Nat) (b : Bool) : (d.setFlag off n b).cat = d.cat := rfl
@[simp] theorem Dev.setFlag_vol (d : Dev) (off n : Nat) (b : Bool) : (d.setFlag off n b).vol = d.vol := rfl
@[simp] theorem Dev.setFlag_acc (d : Dev) (off n : Nat) (b : Bool) : (d.setFlag off n b).acc = d.acc := rfl
@[simp] theorem Dev.setFlag_pwr (d : Dev) (off n : Nat) (b : Bool) : (d.setFlag off n b).pwr = d.pwr := rfl
@[simp] theorem Dev.setFlag_cfg (d : Dev) (off n : Nat) (b : Bool) : (d.setFlag off n b).cfg = d.cfg := rfl
@[simp] theorem Dev.setFlag_firmware (d : Dev) (off n : Nat) (b : Bool) : (d.setFlag off n b).firmware = d.firmware := rfl
@[simp] theorem Dev.setFlag_phy (d : Dev) (off n : Nat) (b : Bool) : (d.setFlag off n b).phy = d.phy := rfl
@[simp] theorem Dev.setFlag_mgmt (d : Dev) (off n : Nat) (b : Bool) : (d.setFlag off n b).mgmt = d.mgmt := rfl
@[simp] theorem Dev.setFlag_fresh (d : Dev) (off n : Nat) (b : Bool) : (d.setFlag off n b).fresh = d.fresh := rfl
@[simp] theorem Dev.setCore_regs (d : Dev) (p : Nat) (k : Gallery) : (d.setCore p k).regs = d.regs := rfl
@[simp] theorem Dev.setCore_mem (d : Dev) (p : Nat) (k : Gallery) : (d.setCore p k).mem = d.mem := rfl
@[simp] theorem Dev.setCore_evLog (d : Dev) (p : Nat) (k : Gallery) : (d.setCore p k).evLog = d.evLog := rfl
@[simp] theorem Dev.setCore_freezeLog (d : Dev) (p : Nat) (k : Gallery) : (d.setCore p k).freezeLog = d.freezeLog := rfl
@[simp] theorem Dev.setCore_evt (d : Dev) (p : Nat) (k : Gallery) : (d.setCore p k).evt = d.evt := rfl
@[simp] theorem Dev.setCore_ins (d : Dev) (p : Nat) (k : Gallery) : (d.setCore p k).ins = d.ins := rfl
@[simp] theorem Dev.setCore_dram (d : Dev) (p : Nat) (k : Gallery) : (d.setCore p k).dram = d.dram := rfl
@[simp] theorem Dev.setCore_saf (d : Dev) (p : Nat) (k : Gallery) : (d.setCore p k).saf = d.saf := rfl
@[simp] theorem Dev.setCore_xq (d : Dev) (p : Nat) (k : Gallery) : (d.setCore p k).xq = d.xq := rfl
@[simp] theorem Dev.setCore_doc (d : Dev) (p : Nat) (k : Gallery) : (d.setCore p k).doc = d.doc := rfl
@[simp] theorem Dev.setCore_sfl (d : Dev) (p : Nat) (k : Gallery) : (d.setCore p k).sfl = d.sfl := rfl
@[simp] theorem Dev.setCore_exc (d : Dev) (p : Nat) (k : Gallery) : (d.setCore p k).exc = d.exc := rfl
@[simp] theorem Dev.setCore_fol (d : Dev) (p : Nat) (k : Gallery) : (d.setCore p k).fol = d.fol := rfl
@[simp] theorem Dev.setCore_dma (d : Dev) (p : Nat) (k : Gallery) : (d.setCore p k).dma = d.dma := rfl
@[simp] theorem Dev.setCore_prv (d : Dev) (p : Nat) (k : Gallery) : (d.setCore p k).prv = d.prv := rfl
@[simp] theorem Dev.setCore_cat (d : Dev) (p : Nat) (k : Gallery) : (d.setCore p k).cat = d.cat := rfl
@[simp] theorem Dev.setCore_vol (d : Dev) (p : Nat) (k : Gallery) : (d.setCore p k).vol = d.vol := rfl
@[simp] theorem Dev.setCore_acc (d : Dev) (p : Nat) (k : Gallery) : (d.setCore p k).acc = d.acc := rfl
@[simp] theorem Dev.setCore_pwr (d : Dev) (p : Nat) (k : Gallery) : (d.setCore p k).pwr = d.pwr := rfl
@[simp] theorem Dev.setCore_cfg (d : Dev) (p : Nat) (k : Gallery) : (d.setCore p k).cfg = d.cfg := rfl
@[simp] theorem Dev.setCore_firmware (d : Dev) (p : Nat) (k : Gallery) : (d.setCore p k).firmware = d.firmware := rfl
@[simp] theorem Dev.setCore_phy (d : Dev) (p : Nat) (k : Gallery) : (d.setCore p k).phy = d.phy := rfl
@[simp] theorem Dev.setCore_mgmt (d : Dev) (p : Nat) (k : Gallery) : (d.setCore p k).mgmt = d.mgmt := rfl
@[simp] theorem Dev.setCore_fresh (d : Dev) (p : Nat) (k : Gallery) : (d.setCore p k).fresh = d.fresh := rfl
@[simp] theorem Dev.setChan_regs (d : Dev) (ch : Nat) (x : Chan) : (d.setChan ch x).regs = d.regs := rfl
@[simp] theorem Dev.setChan_mem (d : Dev) (ch : Nat) (x : Chan) : (d.setChan ch x).mem = d.mem := rfl
@[simp] theorem Dev.setChan_evLog (d : Dev) (ch : Nat) (x : Chan) : (d.setChan ch x).evLog = d.evLog := rfl
@[simp] theorem Dev.setChan_freezeLog (d : Dev) (ch : Nat) (x : Chan) : (d.setChan ch x).freezeLog = d.freezeLog := rfl
@[simp] theorem Dev.setChan_evt (d : Dev) (ch : Nat) (x : Chan) : (d.setChan ch x).evt = d.evt := rfl
@[simp] theorem Dev.setChan_ins (d : Dev) (ch : Nat) (x : Chan) : (d.setChan ch x).ins = d.ins := rfl
@[simp] theorem Dev.setChan_saf (d : Dev) (ch : Nat) (x : Chan) : (d.setChan ch x).saf = d.saf := rfl
@[simp] theorem Dev.setChan_xq (d : Dev) (ch : Nat) (x : Chan) : (d.setChan ch x).xq = d.xq := rfl
@[simp] theorem Dev.setChan_doc (d : Dev) (ch : Nat) (x : Chan) : (d.setChan ch x).doc = d.doc := rfl
@[simp] theorem Dev.setChan_gals (d : Dev) (ch : Nat) (x : Chan) : (d.setChan ch x).gals = d.gals := rfl
@[simp] theorem Dev.setChan_sfl (d : Dev) (ch : Nat) (x : Chan) : (d.setChan ch x).sfl = d.sfl := rfl
@[simp] theorem Dev.setChan_exc (d : Dev) (ch : Nat) (x : Chan) : (d.setChan ch x).exc = d.exc := rfl
@[simp] theorem Dev.setChan_fol (d : Dev) (ch : Nat) (x : Chan) : (d.setChan ch x).fol = d.fol := rfl
@[simp] theorem Dev.setChan_dma (d : Dev) (ch : Nat) (x : Chan) : (d.setChan ch x).dma = d.dma := rfl
@[simp] theorem Dev.setChan_prv (d : Dev) (ch : Nat) (x : Chan) : (d.setChan ch x).prv = d.prv := rfl
@[simp] theorem Dev.setChan_cat (d : Dev) (ch : Nat) (x : Chan) : (d.setChan ch x).cat = d.cat := rfl
@[simp] theorem Dev.setChan_vol (d : Dev) (ch : Nat) (x : Chan) : (d.setChan ch x).vol = d.vol := rfl
@[simp] theorem Dev.setChan_acc (d : Dev) (ch : Nat) (x : Chan) : (d.setChan ch x).acc = d.acc := rfl
@[simp] theorem Dev.setChan_pwr (d : Dev) (ch : Nat) (x : Chan) : (d.setChan ch x).pwr = d.pwr := rfl
@[simp] theorem Dev.setChan_cfg (d : Dev) (ch : Nat) (x : Chan) : (d.setChan ch x).cfg = d.cfg := rfl
@[simp] theorem Dev.setChan_firmware (d : Dev) (ch : Nat) (x : Chan) : (d.setChan ch x).firmware = d.firmware := rfl
@[simp] theorem Dev.setChan_phy (d : Dev) (ch : Nat) (x : Chan) : (d.setChan ch x).phy = d.phy := rfl
@[simp] theorem Dev.setChan_mgmt (d : Dev) (ch : Nat) (x : Chan) : (d.setChan ch x).mgmt = d.mgmt := rfl
@[simp] theorem Dev.setChan_fresh (d : Dev) (ch : Nat) (x : Chan) : (d.setChan ch x).fresh = d.fresh := rfl
@[simp] theorem Dev.setInst_regs (d : Dev) (i : Nat) (x : Inst) : (d.setInst i x).regs = d.regs := rfl
@[simp] theorem Dev.setInst_mem (d : Dev) (i : Nat) (x : Inst) : (d.setInst i x).mem = d.mem := rfl
@[simp] theorem Dev.setInst_evLog (d : Dev) (i : Nat) (x : Inst) : (d.setInst i x).evLog = d.evLog := rfl
@[simp] theorem Dev.setInst_freezeLog (d : Dev) (i : Nat) (x : Inst) : (d.setInst i x).freezeLog = d.freezeLog := rfl
@[simp] theorem Dev.setInst_evt (d : Dev) (i : Nat) (x : Inst) : (d.setInst i x).evt = d.evt := rfl
@[simp] theorem Dev.setInst_dram (d : Dev) (i : Nat) (x : Inst) : (d.setInst i x).dram = d.dram := rfl
@[simp] theorem Dev.setInst_saf (d : Dev) (i : Nat) (x : Inst) : (d.setInst i x).saf = d.saf := rfl
@[simp] theorem Dev.setInst_xq (d : Dev) (i : Nat) (x : Inst) : (d.setInst i x).xq = d.xq := rfl
@[simp] theorem Dev.setInst_doc (d : Dev) (i : Nat) (x : Inst) : (d.setInst i x).doc = d.doc := rfl
@[simp] theorem Dev.setInst_gals (d : Dev) (i : Nat) (x : Inst) : (d.setInst i x).gals = d.gals := rfl
@[simp] theorem Dev.setInst_sfl (d : Dev) (i : Nat) (x : Inst) : (d.setInst i x).sfl = d.sfl := rfl
@[simp] theorem Dev.setInst_exc (d : Dev) (i : Nat) (x : Inst) : (d.setInst i x).exc = d.exc := rfl
@[simp] theorem Dev.setInst_fol (d : Dev) (i : Nat) (x : Inst) : (d.setInst i x).fol = d.fol := rfl
@[simp] theorem Dev.setInst_dma (d : Dev) (i : Nat) (x : Inst) : (d.setInst i x).dma = d.dma := rfl
@[simp] theorem Dev.setInst_prv (d : Dev) (i : Nat) (x : Inst) : (d.setInst i x).prv = d.prv := rfl
@[simp] theorem Dev.setInst_cat (d : Dev) (i : Nat) (x : Inst) : (d.setInst i x).cat = d.cat := rfl
@[simp] theorem Dev.setInst_vol (d : Dev) (i : Nat) (x : Inst) : (d.setInst i x).vol = d.vol := rfl
@[simp] theorem Dev.setInst_acc (d : Dev) (i : Nat) (x : Inst) : (d.setInst i x).acc = d.acc := rfl
@[simp] theorem Dev.setInst_pwr (d : Dev) (i : Nat) (x : Inst) : (d.setInst i x).pwr = d.pwr := rfl
@[simp] theorem Dev.setInst_cfg (d : Dev) (i : Nat) (x : Inst) : (d.setInst i x).cfg = d.cfg := rfl
@[simp] theorem Dev.setInst_firmware (d : Dev) (i : Nat) (x : Inst) : (d.setInst i x).firmware = d.firmware := rfl
@[simp] theorem Dev.setInst_phy (d : Dev) (i : Nat) (x : Inst) : (d.setInst i x).phy = d.phy := rfl
@[simp] theorem Dev.setInst_mgmt (d : Dev) (i : Nat) (x : Inst) : (d.setInst i x).mgmt = d.mgmt := rfl
@[simp] theorem Dev.setInst_fresh (d : Dev) (i : Nat) (x : Inst) : (d.setInst i x).fresh = d.fresh := rfl
@[simp] theorem Dev.setPort_regs (d : Dev) (p : Nat) (x : Port) : (d.setPort p x).regs = d.regs := rfl
@[simp] theorem Dev.setPort_mem (d : Dev) (p : Nat) (x : Port) : (d.setPort p x).mem = d.mem := rfl
@[simp] theorem Dev.setPort_evLog (d : Dev) (p : Nat) (x : Port) : (d.setPort p x).evLog = d.evLog := rfl
@[simp] theorem Dev.setPort_freezeLog (d : Dev) (p : Nat) (x : Port) : (d.setPort p x).freezeLog = d.freezeLog := rfl
@[simp] theorem Dev.setPort_evt (d : Dev) (p : Nat) (x : Port) : (d.setPort p x).evt = d.evt := rfl
@[simp] theorem Dev.setPort_ins (d : Dev) (p : Nat) (x : Port) : (d.setPort p x).ins = d.ins := rfl
@[simp] theorem Dev.setPort_dram (d : Dev) (p : Nat) (x : Port) : (d.setPort p x).dram = d.dram := rfl
@[simp] theorem Dev.setPort_saf (d : Dev) (p : Nat) (x : Port) : (d.setPort p x).saf = d.saf := rfl
@[simp] theorem Dev.setPort_doc (d : Dev) (p : Nat) (x : Port) : (d.setPort p x).doc = d.doc := rfl
@[simp] theorem Dev.setPort_gals (d : Dev) (p : Nat) (x : Port) : (d.setPort p x).gals = d.gals := rfl
@[simp] theorem Dev.setPort_sfl (d : Dev) (p : Nat) (x : Port) : (d.setPort p x).sfl = d.sfl := rfl
@[simp] theorem Dev.setPort_exc (d : Dev) (p : Nat) (x : Port) : (d.setPort p x).exc = d.exc := rfl
@[simp] theorem Dev.setPort_fol (d : Dev) (p : Nat) (x : Port) : (d.setPort p x).fol = d.fol := rfl
@[simp] theorem Dev.setPort_dma (d : Dev) (p : Nat) (x : Port) : (d.setPort p x).dma = d.dma := rfl
@[simp] theorem Dev.setPort_prv (d : Dev) (p : Nat) (x : Port) : (d.setPort p x).prv = d.prv := rfl
@[simp] theorem Dev.setPort_cat (d : Dev) (p : Nat) (x : Port) : (d.setPort p x).cat = d.cat := rfl
@[simp] theorem Dev.setPort_vol (d : Dev) (p : Nat) (x : Port) : (d.setPort p x).vol = d.vol := rfl
@[simp] theorem Dev.setPort_acc (d : Dev) (p : Nat) (x : Port) : (d.setPort p x).acc = d.acc := rfl
@[simp] theorem Dev.setPort_pwr (d : Dev) (p : Nat) (x : Port) : (d.setPort p x).pwr = d.pwr := rfl
@[simp] theorem Dev.setPort_cfg (d : Dev) (p : Nat) (x : Port) : (d.setPort p x).cfg = d.cfg := rfl
@[simp] theorem Dev.setPort_firmware (d : Dev) (p : Nat) (x : Port) : (d.setPort p x).firmware = d.firmware := rfl
@[simp] theorem Dev.setPort_phy (d : Dev) (p : Nat) (x : Port) : (d.setPort p x).phy = d.phy := rfl
@[simp] theorem Dev.setPort_mgmt (d : Dev) (p : Nat) (x : Port) : (d.setPort p x).mgmt = d.mgmt := rfl
@[simp] theorem Dev.setPort_fresh (d : Dev) (p : Nat) (x : Port) : (d.setPort p x).fresh = d.fresh := rfl
@[simp] theorem Dev.setPair_regs (d : Dev) (i q : Nat) (x : Pair) : (d.setPair i q x).regs = d.regs := rfl
@[simp] theorem Dev.setPair_mem (d : Dev) (i q : Nat) (x : Pair) : (d.setPair i q x).mem = d.mem := rfl
@[simp] theorem Dev.setPair_evLog (d : Dev) (i q : Nat) (x : Pair) : (d.setPair i q x).evLog = d.evLog := rfl
@[simp] theorem Dev.setPair_freezeLog (d : Dev) (i q : Nat) (x : Pair) : (d.setPair i q x).freezeLog = d.freezeLog := rfl
@[simp] theorem Dev.setPair_evt (d : Dev) (i q : Nat) (x : Pair) : (d.setPair i q x).evt = d.evt := rfl
@[simp] theorem Dev.setPair_ins (d : Dev) (i q : Nat) (x : Pair) : (d.setPair i q x).ins = d.ins := rfl
@[simp] theorem Dev.setPair_dram (d : Dev) (i q : Nat) (x : Pair) : (d.setPair i q x).dram = d.dram := rfl
@[simp] theorem Dev.setPair_saf (d : Dev) (i q : Nat) (x : Pair) : (d.setPair i q x).saf = d.saf := rfl
@[simp] theorem Dev.setPair_doc (d : Dev) (i q : Nat) (x : Pair) : (d.setPair i q x).doc = d.doc := rfl
@[simp] theorem Dev.setPair_gals (d : Dev) (i q : Nat) (x : Pair) : (d.setPair i q x).gals = d.gals := rfl
@[simp] theorem Dev.setPair_sfl (d : Dev) (i q : Nat) (x : Pair) : (d.setPair i q x).sfl = d.sfl := rfl
@[simp] theorem Dev.setPair_exc (d : Dev) (i q : Nat) (x : Pair) : (d.setPair i q x).exc = d.exc := rfl
@[simp] theorem Dev.setPair_fol (d : Dev) (i q : Nat) (x : Pair) : (d.setPair i q x).fol = d.fol := rfl
@[simp] theorem Dev.setPair_dma (d : Dev) (i q : Nat) (x : Pair) : (d.setPair i q x).dma = d.dma := rfl
@[simp] theorem Dev.setPair_prv (d : Dev) (i q : Nat) (x : Pair) : (d.setPair i q x).prv = d.prv := rfl
@[simp] theorem Dev.setPair_cat (d : Dev) (i q : Nat) (x : Pair) : (d.setPair i q x).cat = d.cat := rfl
@[simp] theorem Dev.setPair_vol (d : Dev) (i q : Nat) (x : Pair) : (d.setPair i q x).vol = d.vol := rfl
@[simp] theorem Dev.setPair_acc (d : Dev) (i q : Nat) (x : Pair) : (d.setPair i q x).acc = d.acc := rfl
@[simp] theorem Dev.setPair_pwr (d : Dev) (i q : Nat) (x : Pair) : (d.setPair i q x).pwr = d.pwr := rfl
@[simp] theorem Dev.setPair_cfg (d : Dev) (i q : Nat) (x : Pair) : (d.setPair i q x).cfg = d.cfg := rfl
@[simp] theorem Dev.setPair_firmware (d : Dev) (i q : Nat) (x : Pair) : (d.setPair i q x).firmware = d.firmware := rfl
@[simp] theorem Dev.setPair_phy (d : Dev) (i q : Nat) (x : Pair) : (d.setPair i q x).phy = d.phy := rfl
@[simp] theorem Dev.setPair_mgmt (d : Dev) (i q : Nat) (x : Pair) : (d.setPair i q x).mgmt = d.mgmt := rfl
@[simp] theorem Dev.setPair_fresh (d : Dev) (i q : Nat) (x : Pair) : (d.setPair i q x).fresh = d.fresh := rfl
@[simp] theorem Dev.dropPair_regs (d : Dev) (i q : Nat) : (d.dropPair i q).regs = d.regs := rfl
@[simp] theorem Dev.dropPair_mem (d : Dev) (i q : Nat) : (d.dropPair i q).mem = d.mem := rfl
@[simp] theorem Dev.dropPair_evLog (d : Dev) (i q : Nat) : (d.dropPair i q).evLog = d.evLog := rfl
@[simp] theorem Dev.dropPair_freezeLog (d : Dev) (i q : Nat) : (d.dropPair i q).freezeLog = d.freezeLog := rfl
@[simp] theorem Dev.dropPair_evt (d : Dev) (i q : Nat) : (d.dropPair i q).evt = d.evt := rfl
@[simp] theorem Dev.dropPair_ins (d : Dev) (i q : Nat) : (d.dropPair i q).ins = d.ins := rfl
@[simp] theorem Dev.dropPair_dram (d : Dev) (i q : Nat) : (d.dropPair i q).dram = d.dram := rfl
@[simp] theorem Dev.dropPair_saf (d : Dev) (i q : Nat) : (d.dropPair i q).saf = d.saf := rfl
@[simp] theorem Dev.dropPair_doc (d : Dev) (i q : Nat) : (d.dropPair i q).doc = d.doc := rfl
@[simp] theorem Dev.dropPair_gals (d : Dev) (i q : Nat) : (d.dropPair i q).gals = d.gals := rfl
@[simp] theorem Dev.dropPair_sfl (d : Dev) (i q : Nat) : (d.dropPair i q).sfl = d.sfl := rfl
@[simp] theorem Dev.dropPair_exc (d : Dev) (i q : Nat) : (d.dropPair i q).exc = d.exc := rfl
@[simp] theorem Dev.dropPair_fol (d : Dev) (i q : Nat) : (d.dropPair i q).fol = d.fol := rfl
@[simp] theorem Dev.dropPair_dma (d : Dev) (i q : Nat) : (d.dropPair i q).dma = d.dma := rfl
@[simp] theorem Dev.dropPair_prv (d : Dev) (i q : Nat) : (d.dropPair i q).prv = d.prv := rfl
@[simp] theorem Dev.dropPair_cat (d : Dev) (i q : Nat) : (d.dropPair i q).cat = d.cat := rfl
@[simp] theorem Dev.dropPair_vol (d : Dev) (i q : Nat) : (d.dropPair i q).vol = d.vol := rfl
@[simp] theorem Dev.dropPair_acc (d : Dev) (i q : Nat) : (d.dropPair i q).acc = d.acc := rfl
@[simp] theorem Dev.dropPair_pwr (d : Dev) (i q : Nat) : (d.dropPair i q).pwr = d.pwr := rfl
@[simp] theorem Dev.dropPair_cfg (d : Dev) (i q : Nat) : (d.dropPair i q).cfg = d.cfg := rfl
@[simp] theorem Dev.dropPair_firmware (d : Dev) (i q : Nat) : (d.dropPair i q).firmware = d.firmware := rfl
@[simp] theorem Dev.dropPair_phy (d : Dev) (i q : Nat) : (d.dropPair i q).phy = d.phy := rfl
@[simp] theorem Dev.dropPair_mgmt (d : Dev) (i q : Nat) : (d.dropPair i q).mgmt = d.mgmt := rfl
@[simp] theorem Dev.dropPair_fresh (d : Dev) (i q : Nat) : (d.dropPair i q).fresh = d.fresh := rfl
@[simp] theorem Dev.dropCmd_regs (d : Dev) (i q cid : Nat) : (d.dropCmd i q cid).regs = d.regs := rfl
@[simp] theorem Dev.dropCmd_mem (d : Dev) (i q cid : Nat) : (d.dropCmd i q cid).mem = d.mem := rfl
@[simp] theorem Dev.dropCmd_evLog (d : Dev) (i q cid : Nat) : (d.dropCmd i q cid).evLog = d.evLog := rfl
@[simp] theorem Dev.dropCmd_freezeLog (d : Dev) (i q cid : Nat) : (d.dropCmd i q cid).freezeLog = d.freezeLog := rfl
@[simp] theorem Dev.dropCmd_evt (d : Dev) (i q cid : Nat) : (d.dropCmd i q cid).evt = d.evt := rfl
@[simp] theorem Dev.dropCmd_ins (d : Dev) (i q cid : Nat) : (d.dropCmd i q cid).ins = d.ins := rfl
@[simp] theorem Dev.dropCmd_dram (d : Dev) (i q cid : Nat) : (d.dropCmd i q cid).dram = d.dram := rfl
@[simp] theorem Dev.dropCmd_saf (d : Dev) (i q cid : Nat) : (d.dropCmd i q cid).saf = d.saf := rfl
@[simp] theorem Dev.dropCmd_doc (d : Dev) (i q cid : Nat) : (d.dropCmd i q cid).doc = d.doc := rfl
@[simp] theorem Dev.dropCmd_gals (d : Dev) (i q cid : Nat) : (d.dropCmd i q cid).gals = d.gals := rfl
@[simp] theorem Dev.dropCmd_sfl (d : Dev) (i q cid : Nat) : (d.dropCmd i q cid).sfl = d.sfl := rfl
@[simp] theorem Dev.dropCmd_exc (d : Dev) (i q cid : Nat) : (d.dropCmd i q cid).exc = d.exc := rfl
@[simp] theorem Dev.dropCmd_fol (d : Dev) (i q cid : Nat) : (d.dropCmd i q cid).fol = d.fol := rfl
@[simp] theorem Dev.dropCmd_dma (d : Dev) (i q cid : Nat) : (d.dropCmd i q cid).dma = d.dma := rfl
@[simp] theorem Dev.dropCmd_prv (d : Dev) (i q cid : Nat) : (d.dropCmd i q cid).prv = d.prv := rfl
@[simp] theorem Dev.dropCmd_cat (d : Dev) (i q cid : Nat) : (d.dropCmd i q cid).cat = d.cat := rfl
@[simp] theorem Dev.dropCmd_vol (d : Dev) (i q cid : Nat) : (d.dropCmd i q cid).vol = d.vol := rfl
@[simp] theorem Dev.dropCmd_acc (d : Dev) (i q cid : Nat) : (d.dropCmd i q cid).acc = d.acc := rfl
@[simp] theorem Dev.dropCmd_pwr (d : Dev) (i q cid : Nat) : (d.dropCmd i q cid).pwr = d.pwr := rfl
@[simp] theorem Dev.dropCmd_cfg (d : Dev) (i q cid : Nat) : (d.dropCmd i q cid).cfg = d.cfg := rfl
@[simp] theorem Dev.dropCmd_firmware (d : Dev) (i q cid : Nat) : (d.dropCmd i q cid).firmware = d.firmware := rfl
@[simp] theorem Dev.dropCmd_phy (d : Dev) (i q cid : Nat) : (d.dropCmd i q cid).phy = d.phy := rfl
@[simp] theorem Dev.dropCmd_mgmt (d : Dev) (i q cid : Nat) : (d.dropCmd i q cid).mgmt = d.mgmt := rfl
@[simp] theorem Dev.dropCmd_fresh (d : Dev) (i q cid : Nat) : (d.dropCmd i q cid).fresh = d.fresh := rfl
@[simp] theorem Dev.startCmd_regs (d : Dev) (i q cid : Nat) : (d.startCmd i q cid).regs = d.regs := rfl
@[simp] theorem Dev.startCmd_mem (d : Dev) (i q cid : Nat) : (d.startCmd i q cid).mem = d.mem := rfl
@[simp] theorem Dev.startCmd_evLog (d : Dev) (i q cid : Nat) : (d.startCmd i q cid).evLog = d.evLog := rfl
@[simp] theorem Dev.startCmd_freezeLog (d : Dev) (i q cid : Nat) : (d.startCmd i q cid).freezeLog = d.freezeLog := rfl
@[simp] theorem Dev.startCmd_evt (d : Dev) (i q cid : Nat) : (d.startCmd i q cid).evt = d.evt := rfl
@[simp] theorem Dev.startCmd_ins (d : Dev) (i q cid : Nat) : (d.startCmd i q cid).ins = d.ins := rfl
@[simp] theorem Dev.startCmd_dram (d : Dev) (i q cid : Nat) : (d.startCmd i q cid).dram = d.dram := rfl
@[simp] theorem Dev.startCmd_saf (d : Dev) (i q cid : Nat) : (d.startCmd i q cid).saf = d.saf := rfl
@[simp] theorem Dev.startCmd_doc (d : Dev) (i q cid : Nat) : (d.startCmd i q cid).doc = d.doc := rfl
@[simp] theorem Dev.startCmd_gals (d : Dev) (i q cid : Nat) : (d.startCmd i q cid).gals = d.gals := rfl
@[simp] theorem Dev.startCmd_sfl (d : Dev) (i q cid : Nat) : (d.startCmd i q cid).sfl = d.sfl := rfl
@[simp] theorem Dev.startCmd_exc (d : Dev) (i q cid : Nat) : (d.startCmd i q cid).exc = d.exc := rfl
@[simp] theorem Dev.startCmd_fol (d : Dev) (i q cid : Nat) : (d.startCmd i q cid).fol = d.fol := rfl
@[simp] theorem Dev.startCmd_dma (d : Dev) (i q cid : Nat) : (d.startCmd i q cid).dma = d.dma := rfl
@[simp] theorem Dev.startCmd_prv (d : Dev) (i q cid : Nat) : (d.startCmd i q cid).prv = d.prv := rfl
@[simp] theorem Dev.startCmd_cat (d : Dev) (i q cid : Nat) : (d.startCmd i q cid).cat = d.cat := rfl
@[simp] theorem Dev.startCmd_vol (d : Dev) (i q cid : Nat) : (d.startCmd i q cid).vol = d.vol := rfl
@[simp] theorem Dev.startCmd_acc (d : Dev) (i q cid : Nat) : (d.startCmd i q cid).acc = d.acc := rfl
@[simp] theorem Dev.startCmd_pwr (d : Dev) (i q cid : Nat) : (d.startCmd i q cid).pwr = d.pwr := rfl
@[simp] theorem Dev.startCmd_cfg (d : Dev) (i q cid : Nat) : (d.startCmd i q cid).cfg = d.cfg := rfl
@[simp] theorem Dev.startCmd_firmware (d : Dev) (i q cid : Nat) : (d.startCmd i q cid).firmware = d.firmware := rfl
@[simp] theorem Dev.startCmd_phy (d : Dev) (i q cid : Nat) : (d.startCmd i q cid).phy = d.phy := rfl
@[simp] theorem Dev.startCmd_mgmt (d : Dev) (i q cid : Nat) : (d.startCmd i q cid).mgmt = d.mgmt := rfl
@[simp] theorem Dev.startCmd_fresh (d : Dev) (i q cid : Nat) : (d.startCmd i q cid).fresh = d.fresh := rfl
@[simp] theorem Dev.setRun_regs (d : Dev) (h : Nat) (r : Run) : (d.setRun h r).regs = d.regs := rfl
@[simp] theorem Dev.setRun_mem (d : Dev) (h : Nat) (r : Run) : (d.setRun h r).mem = d.mem := rfl
@[simp] theorem Dev.setRun_evLog (d : Dev) (h : Nat) (r : Run) : (d.setRun h r).evLog = d.evLog := rfl
@[simp] theorem Dev.setRun_freezeLog (d : Dev) (h : Nat) (r : Run) : (d.setRun h r).freezeLog = d.freezeLog := rfl
@[simp] theorem Dev.setRun_evt (d : Dev) (h : Nat) (r : Run) : (d.setRun h r).evt = d.evt := rfl
@[simp] theorem Dev.setRun_ins (d : Dev) (h : Nat) (r : Run) : (d.setRun h r).ins = d.ins := rfl
@[simp] theorem Dev.setRun_dram (d : Dev) (h : Nat) (r : Run) : (d.setRun h r).dram = d.dram := rfl
@[simp] theorem Dev.setRun_saf (d : Dev) (h : Nat) (r : Run) : (d.setRun h r).saf = d.saf := rfl
@[simp] theorem Dev.setRun_xq (d : Dev) (h : Nat) (r : Run) : (d.setRun h r).xq = d.xq := rfl
@[simp] theorem Dev.setRun_gals (d : Dev) (h : Nat) (r : Run) : (d.setRun h r).gals = d.gals := rfl
@[simp] theorem Dev.setRun_sfl (d : Dev) (h : Nat) (r : Run) : (d.setRun h r).sfl = d.sfl := rfl
@[simp] theorem Dev.setRun_exc (d : Dev) (h : Nat) (r : Run) : (d.setRun h r).exc = d.exc := rfl
@[simp] theorem Dev.setRun_fol (d : Dev) (h : Nat) (r : Run) : (d.setRun h r).fol = d.fol := rfl
@[simp] theorem Dev.setRun_dma (d : Dev) (h : Nat) (r : Run) : (d.setRun h r).dma = d.dma := rfl
@[simp] theorem Dev.setRun_prv (d : Dev) (h : Nat) (r : Run) : (d.setRun h r).prv = d.prv := rfl
@[simp] theorem Dev.setRun_cat (d : Dev) (h : Nat) (r : Run) : (d.setRun h r).cat = d.cat := rfl
@[simp] theorem Dev.setRun_vol (d : Dev) (h : Nat) (r : Run) : (d.setRun h r).vol = d.vol := rfl
@[simp] theorem Dev.setRun_acc (d : Dev) (h : Nat) (r : Run) : (d.setRun h r).acc = d.acc := rfl
@[simp] theorem Dev.setRun_pwr (d : Dev) (h : Nat) (r : Run) : (d.setRun h r).pwr = d.pwr := rfl
@[simp] theorem Dev.setRun_cfg (d : Dev) (h : Nat) (r : Run) : (d.setRun h r).cfg = d.cfg := rfl
@[simp] theorem Dev.setRun_firmware (d : Dev) (h : Nat) (r : Run) : (d.setRun h r).firmware = d.firmware := rfl
@[simp] theorem Dev.setRun_phy (d : Dev) (h : Nat) (r : Run) : (d.setRun h r).phy = d.phy := rfl
@[simp] theorem Dev.setRun_mgmt (d : Dev) (h : Nat) (r : Run) : (d.setRun h r).mgmt = d.mgmt := rfl
@[simp] theorem Dev.setRun_fresh (d : Dev) (h : Nat) (r : Run) : (d.setRun h r).fresh = d.fresh := rfl
@[simp] theorem Dev.setReady_regs (d : Dev) (l : Nat) (xs : List (Nat × Nat)) : (d.setReady l xs).regs = d.regs := rfl
@[simp] theorem Dev.setReady_mem (d : Dev) (l : Nat) (xs : List (Nat × Nat)) : (d.setReady l xs).mem = d.mem := rfl
@[simp] theorem Dev.setReady_evLog (d : Dev) (l : Nat) (xs : List (Nat × Nat)) : (d.setReady l xs).evLog = d.evLog := rfl
@[simp] theorem Dev.setReady_freezeLog (d : Dev) (l : Nat) (xs : List (Nat × Nat)) : (d.setReady l xs).freezeLog = d.freezeLog := rfl
@[simp] theorem Dev.setReady_evt (d : Dev) (l : Nat) (xs : List (Nat × Nat)) : (d.setReady l xs).evt = d.evt := rfl
@[simp] theorem Dev.setReady_ins (d : Dev) (l : Nat) (xs : List (Nat × Nat)) : (d.setReady l xs).ins = d.ins := rfl
@[simp] theorem Dev.setReady_dram (d : Dev) (l : Nat) (xs : List (Nat × Nat)) : (d.setReady l xs).dram = d.dram := rfl
@[simp] theorem Dev.setReady_saf (d : Dev) (l : Nat) (xs : List (Nat × Nat)) : (d.setReady l xs).saf = d.saf := rfl
@[simp] theorem Dev.setReady_xq (d : Dev) (l : Nat) (xs : List (Nat × Nat)) : (d.setReady l xs).xq = d.xq := rfl
@[simp] theorem Dev.setReady_gals (d : Dev) (l : Nat) (xs : List (Nat × Nat)) : (d.setReady l xs).gals = d.gals := rfl
@[simp] theorem Dev.setReady_sfl (d : Dev) (l : Nat) (xs : List (Nat × Nat)) : (d.setReady l xs).sfl = d.sfl := rfl
@[simp] theorem Dev.setReady_exc (d : Dev) (l : Nat) (xs : List (Nat × Nat)) : (d.setReady l xs).exc = d.exc := rfl
@[simp] theorem Dev.setReady_fol (d : Dev) (l : Nat) (xs : List (Nat × Nat)) : (d.setReady l xs).fol = d.fol := rfl
@[simp] theorem Dev.setReady_dma (d : Dev) (l : Nat) (xs : List (Nat × Nat)) : (d.setReady l xs).dma = d.dma := rfl
@[simp] theorem Dev.setReady_prv (d : Dev) (l : Nat) (xs : List (Nat × Nat)) : (d.setReady l xs).prv = d.prv := rfl
@[simp] theorem Dev.setReady_cat (d : Dev) (l : Nat) (xs : List (Nat × Nat)) : (d.setReady l xs).cat = d.cat := rfl
@[simp] theorem Dev.setReady_vol (d : Dev) (l : Nat) (xs : List (Nat × Nat)) : (d.setReady l xs).vol = d.vol := rfl
@[simp] theorem Dev.setReady_acc (d : Dev) (l : Nat) (xs : List (Nat × Nat)) : (d.setReady l xs).acc = d.acc := rfl
@[simp] theorem Dev.setReady_pwr (d : Dev) (l : Nat) (xs : List (Nat × Nat)) : (d.setReady l xs).pwr = d.pwr := rfl
@[simp] theorem Dev.setReady_cfg (d : Dev) (l : Nat) (xs : List (Nat × Nat)) : (d.setReady l xs).cfg = d.cfg := rfl
@[simp] theorem Dev.setReady_firmware (d : Dev) (l : Nat) (xs : List (Nat × Nat)) : (d.setReady l xs).firmware = d.firmware := rfl
@[simp] theorem Dev.setReady_phy (d : Dev) (l : Nat) (xs : List (Nat × Nat)) : (d.setReady l xs).phy = d.phy := rfl
@[simp] theorem Dev.setReady_mgmt (d : Dev) (l : Nat) (xs : List (Nat × Nat)) : (d.setReady l xs).mgmt = d.mgmt := rfl
@[simp] theorem Dev.setReady_fresh (d : Dev) (l : Nat) (xs : List (Nat × Nat)) : (d.setReady l xs).fresh = d.fresh := rfl
@[simp] theorem Dev.setChain_regs (d : Dev) (l : Nat) (xs : List (Nat × Nat)) : (d.setChain l xs).regs = d.regs := rfl
@[simp] theorem Dev.setChain_mem (d : Dev) (l : Nat) (xs : List (Nat × Nat)) : (d.setChain l xs).mem = d.mem := rfl
@[simp] theorem Dev.setChain_evLog (d : Dev) (l : Nat) (xs : List (Nat × Nat)) : (d.setChain l xs).evLog = d.evLog := rfl
@[simp] theorem Dev.setChain_freezeLog (d : Dev) (l : Nat) (xs : List (Nat × Nat)) : (d.setChain l xs).freezeLog = d.freezeLog := rfl
@[simp] theorem Dev.setChain_evt (d : Dev) (l : Nat) (xs : List (Nat × Nat)) : (d.setChain l xs).evt = d.evt := rfl
@[simp] theorem Dev.setChain_ins (d : Dev) (l : Nat) (xs : List (Nat × Nat)) : (d.setChain l xs).ins = d.ins := rfl
@[simp] theorem Dev.setChain_dram (d : Dev) (l : Nat) (xs : List (Nat × Nat)) : (d.setChain l xs).dram = d.dram := rfl
@[simp] theorem Dev.setChain_saf (d : Dev) (l : Nat) (xs : List (Nat × Nat)) : (d.setChain l xs).saf = d.saf := rfl
@[simp] theorem Dev.setChain_xq (d : Dev) (l : Nat) (xs : List (Nat × Nat)) : (d.setChain l xs).xq = d.xq := rfl
@[simp] theorem Dev.setChain_gals (d : Dev) (l : Nat) (xs : List (Nat × Nat)) : (d.setChain l xs).gals = d.gals := rfl
@[simp] theorem Dev.setChain_sfl (d : Dev) (l : Nat) (xs : List (Nat × Nat)) : (d.setChain l xs).sfl = d.sfl := rfl
@[simp] theorem Dev.setChain_exc (d : Dev) (l : Nat) (xs : List (Nat × Nat)) : (d.setChain l xs).exc = d.exc := rfl
@[simp] theorem Dev.setChain_fol (d : Dev) (l : Nat) (xs : List (Nat × Nat)) : (d.setChain l xs).fol = d.fol := rfl
@[simp] theorem Dev.setChain_dma (d : Dev) (l : Nat) (xs : List (Nat × Nat)) : (d.setChain l xs).dma = d.dma := rfl
@[simp] theorem Dev.setChain_prv (d : Dev) (l : Nat) (xs : List (Nat × Nat)) : (d.setChain l xs).prv = d.prv := rfl
@[simp] theorem Dev.setChain_cat (d : Dev) (l : Nat) (xs : List (Nat × Nat)) : (d.setChain l xs).cat = d.cat := rfl
@[simp] theorem Dev.setChain_vol (d : Dev) (l : Nat) (xs : List (Nat × Nat)) : (d.setChain l xs).vol = d.vol := rfl
@[simp] theorem Dev.setChain_acc (d : Dev) (l : Nat) (xs : List (Nat × Nat)) : (d.setChain l xs).acc = d.acc := rfl
@[simp] theorem Dev.setChain_pwr (d : Dev) (l : Nat) (xs : List (Nat × Nat)) : (d.setChain l xs).pwr = d.pwr := rfl
@[simp] theorem Dev.setChain_cfg (d : Dev) (l : Nat) (xs : List (Nat × Nat)) : (d.setChain l xs).cfg = d.cfg := rfl
@[simp] theorem Dev.setChain_firmware (d : Dev) (l : Nat) (xs : List (Nat × Nat)) : (d.setChain l xs).firmware = d.firmware := rfl
@[simp] theorem Dev.setChain_phy (d : Dev) (l : Nat) (xs : List (Nat × Nat)) : (d.setChain l xs).phy = d.phy := rfl
@[simp] theorem Dev.setChain_mgmt (d : Dev) (l : Nat) (xs : List (Nat × Nat)) : (d.setChain l xs).mgmt = d.mgmt := rfl
@[simp] theorem Dev.setChain_fresh (d : Dev) (l : Nat) (xs : List (Nat × Nat)) : (d.setChain l xs).fresh = d.fresh := rfl
@[simp] theorem Dev.setGrp_regs (d : Dev) (n : Nat) (g : CatGrp) : (d.setGrp n g).regs = d.regs := rfl
@[simp] theorem Dev.setGrp_mem (d : Dev) (n : Nat) (g : CatGrp) : (d.setGrp n g).mem = d.mem := rfl
@[simp] theorem Dev.setGrp_evLog (d : Dev) (n : Nat) (g : CatGrp) : (d.setGrp n g).evLog = d.evLog := rfl
@[simp] theorem Dev.setGrp_freezeLog (d : Dev) (n : Nat) (g : CatGrp) : (d.setGrp n g).freezeLog = d.freezeLog := rfl
@[simp] theorem Dev.setGrp_evt (d : Dev) (n : Nat) (g : CatGrp) : (d.setGrp n g).evt = d.evt := rfl
@[simp] theorem Dev.setGrp_ins (d : Dev) (n : Nat) (g : CatGrp) : (d.setGrp n g).ins = d.ins := rfl
@[simp] theorem Dev.setGrp_dram (d : Dev) (n : Nat) (g : CatGrp) : (d.setGrp n g).dram = d.dram := rfl
@[simp] theorem Dev.setGrp_saf (d : Dev) (n : Nat) (g : CatGrp) : (d.setGrp n g).saf = d.saf := rfl
@[simp] theorem Dev.setGrp_xq (d : Dev) (n : Nat) (g : CatGrp) : (d.setGrp n g).xq = d.xq := rfl
@[simp] theorem Dev.setGrp_doc (d : Dev) (n : Nat) (g : CatGrp) : (d.setGrp n g).doc = d.doc := rfl
@[simp] theorem Dev.setGrp_gals (d : Dev) (n : Nat) (g : CatGrp) : (d.setGrp n g).gals = d.gals := rfl
@[simp] theorem Dev.setGrp_sfl (d : Dev) (n : Nat) (g : CatGrp) : (d.setGrp n g).sfl = d.sfl := rfl
@[simp] theorem Dev.setGrp_exc (d : Dev) (n : Nat) (g : CatGrp) : (d.setGrp n g).exc = d.exc := rfl
@[simp] theorem Dev.setGrp_fol (d : Dev) (n : Nat) (g : CatGrp) : (d.setGrp n g).fol = d.fol := rfl
@[simp] theorem Dev.setGrp_dma (d : Dev) (n : Nat) (g : CatGrp) : (d.setGrp n g).dma = d.dma := rfl
@[simp] theorem Dev.setGrp_prv (d : Dev) (n : Nat) (g : CatGrp) : (d.setGrp n g).prv = d.prv := rfl
@[simp] theorem Dev.setGrp_vol (d : Dev) (n : Nat) (g : CatGrp) : (d.setGrp n g).vol = d.vol := rfl
@[simp] theorem Dev.setGrp_acc (d : Dev) (n : Nat) (g : CatGrp) : (d.setGrp n g).acc = d.acc := rfl
@[simp] theorem Dev.setGrp_pwr (d : Dev) (n : Nat) (g : CatGrp) : (d.setGrp n g).pwr = d.pwr := rfl
@[simp] theorem Dev.setGrp_cfg (d : Dev) (n : Nat) (g : CatGrp) : (d.setGrp n g).cfg = d.cfg := rfl
@[simp] theorem Dev.setGrp_firmware (d : Dev) (n : Nat) (g : CatGrp) : (d.setGrp n g).firmware = d.firmware := rfl
@[simp] theorem Dev.setGrp_phy (d : Dev) (n : Nat) (g : CatGrp) : (d.setGrp n g).phy = d.phy := rfl
@[simp] theorem Dev.setGrp_mgmt (d : Dev) (n : Nat) (g : CatGrp) : (d.setGrp n g).mgmt = d.mgmt := rfl
@[simp] theorem Dev.setGrp_fresh (d : Dev) (n : Nat) (g : CatGrp) : (d.setGrp n g).fresh = d.fresh := rfl
@[simp] theorem Dev.setCatSet_regs (d : Dev) (k : Nat) (x : CatSet) : (d.setCatSet k x).regs = d.regs := rfl
@[simp] theorem Dev.setCatSet_mem (d : Dev) (k : Nat) (x : CatSet) : (d.setCatSet k x).mem = d.mem := rfl
@[simp] theorem Dev.setCatSet_evLog (d : Dev) (k : Nat) (x : CatSet) : (d.setCatSet k x).evLog = d.evLog := rfl
@[simp] theorem Dev.setCatSet_freezeLog (d : Dev) (k : Nat) (x : CatSet) : (d.setCatSet k x).freezeLog = d.freezeLog := rfl
@[simp] theorem Dev.setCatSet_evt (d : Dev) (k : Nat) (x : CatSet) : (d.setCatSet k x).evt = d.evt := rfl
@[simp] theorem Dev.setCatSet_ins (d : Dev) (k : Nat) (x : CatSet) : (d.setCatSet k x).ins = d.ins := rfl
@[simp] theorem Dev.setCatSet_dram (d : Dev) (k : Nat) (x : CatSet) : (d.setCatSet k x).dram = d.dram := rfl
@[simp] theorem Dev.setCatSet_saf (d : Dev) (k : Nat) (x : CatSet) : (d.setCatSet k x).saf = d.saf := rfl
@[simp] theorem Dev.setCatSet_xq (d : Dev) (k : Nat) (x : CatSet) : (d.setCatSet k x).xq = d.xq := rfl
@[simp] theorem Dev.setCatSet_doc (d : Dev) (k : Nat) (x : CatSet) : (d.setCatSet k x).doc = d.doc := rfl
@[simp] theorem Dev.setCatSet_gals (d : Dev) (k : Nat) (x : CatSet) : (d.setCatSet k x).gals = d.gals := rfl
@[simp] theorem Dev.setCatSet_sfl (d : Dev) (k : Nat) (x : CatSet) : (d.setCatSet k x).sfl = d.sfl := rfl
@[simp] theorem Dev.setCatSet_exc (d : Dev) (k : Nat) (x : CatSet) : (d.setCatSet k x).exc = d.exc := rfl
@[simp] theorem Dev.setCatSet_fol (d : Dev) (k : Nat) (x : CatSet) : (d.setCatSet k x).fol = d.fol := rfl
@[simp] theorem Dev.setCatSet_dma (d : Dev) (k : Nat) (x : CatSet) : (d.setCatSet k x).dma = d.dma := rfl
@[simp] theorem Dev.setCatSet_prv (d : Dev) (k : Nat) (x : CatSet) : (d.setCatSet k x).prv = d.prv := rfl
@[simp] theorem Dev.setCatSet_vol (d : Dev) (k : Nat) (x : CatSet) : (d.setCatSet k x).vol = d.vol := rfl
@[simp] theorem Dev.setCatSet_acc (d : Dev) (k : Nat) (x : CatSet) : (d.setCatSet k x).acc = d.acc := rfl
@[simp] theorem Dev.setCatSet_pwr (d : Dev) (k : Nat) (x : CatSet) : (d.setCatSet k x).pwr = d.pwr := rfl
@[simp] theorem Dev.setCatSet_cfg (d : Dev) (k : Nat) (x : CatSet) : (d.setCatSet k x).cfg = d.cfg := rfl
@[simp] theorem Dev.setCatSet_firmware (d : Dev) (k : Nat) (x : CatSet) : (d.setCatSet k x).firmware = d.firmware := rfl
@[simp] theorem Dev.setCatSet_phy (d : Dev) (k : Nat) (x : CatSet) : (d.setCatSet k x).phy = d.phy := rfl
@[simp] theorem Dev.setCatSet_mgmt (d : Dev) (k : Nat) (x : CatSet) : (d.setCatSet k x).mgmt = d.mgmt := rfl
@[simp] theorem Dev.setCatSet_fresh (d : Dev) (k : Nat) (x : CatSet) : (d.setCatSet k x).fresh = d.fresh := rfl
@[simp] theorem Dev.setFol_regs (d : Dev) (e : Nat) (xs : List FolChain) : (d.setFol e xs).regs = d.regs := rfl
@[simp] theorem Dev.setFol_mem (d : Dev) (e : Nat) (xs : List FolChain) : (d.setFol e xs).mem = d.mem := rfl
@[simp] theorem Dev.setFol_evLog (d : Dev) (e : Nat) (xs : List FolChain) : (d.setFol e xs).evLog = d.evLog := rfl
@[simp] theorem Dev.setFol_freezeLog (d : Dev) (e : Nat) (xs : List FolChain) : (d.setFol e xs).freezeLog = d.freezeLog := rfl
@[simp] theorem Dev.setFol_evt (d : Dev) (e : Nat) (xs : List FolChain) : (d.setFol e xs).evt = d.evt := rfl
@[simp] theorem Dev.setFol_ins (d : Dev) (e : Nat) (xs : List FolChain) : (d.setFol e xs).ins = d.ins := rfl
@[simp] theorem Dev.setFol_dram (d : Dev) (e : Nat) (xs : List FolChain) : (d.setFol e xs).dram = d.dram := rfl
@[simp] theorem Dev.setFol_saf (d : Dev) (e : Nat) (xs : List FolChain) : (d.setFol e xs).saf = d.saf := rfl
@[simp] theorem Dev.setFol_xq (d : Dev) (e : Nat) (xs : List FolChain) : (d.setFol e xs).xq = d.xq := rfl
@[simp] theorem Dev.setFol_doc (d : Dev) (e : Nat) (xs : List FolChain) : (d.setFol e xs).doc = d.doc := rfl
@[simp] theorem Dev.setFol_gals (d : Dev) (e : Nat) (xs : List FolChain) : (d.setFol e xs).gals = d.gals := rfl
@[simp] theorem Dev.setFol_sfl (d : Dev) (e : Nat) (xs : List FolChain) : (d.setFol e xs).sfl = d.sfl := rfl
@[simp] theorem Dev.setFol_exc (d : Dev) (e : Nat) (xs : List FolChain) : (d.setFol e xs).exc = d.exc := rfl
@[simp] theorem Dev.setFol_dma (d : Dev) (e : Nat) (xs : List FolChain) : (d.setFol e xs).dma = d.dma := rfl
@[simp] theorem Dev.setFol_prv (d : Dev) (e : Nat) (xs : List FolChain) : (d.setFol e xs).prv = d.prv := rfl
@[simp] theorem Dev.setFol_cat (d : Dev) (e : Nat) (xs : List FolChain) : (d.setFol e xs).cat = d.cat := rfl
@[simp] theorem Dev.setFol_vol (d : Dev) (e : Nat) (xs : List FolChain) : (d.setFol e xs).vol = d.vol := rfl
@[simp] theorem Dev.setFol_acc (d : Dev) (e : Nat) (xs : List FolChain) : (d.setFol e xs).acc = d.acc := rfl
@[simp] theorem Dev.setFol_pwr (d : Dev) (e : Nat) (xs : List FolChain) : (d.setFol e xs).pwr = d.pwr := rfl
@[simp] theorem Dev.setFol_cfg (d : Dev) (e : Nat) (xs : List FolChain) : (d.setFol e xs).cfg = d.cfg := rfl
@[simp] theorem Dev.setFol_firmware (d : Dev) (e : Nat) (xs : List FolChain) : (d.setFol e xs).firmware = d.firmware := rfl
@[simp] theorem Dev.setFol_phy (d : Dev) (e : Nat) (xs : List FolChain) : (d.setFol e xs).phy = d.phy := rfl
@[simp] theorem Dev.setFol_mgmt (d : Dev) (e : Nat) (xs : List FolChain) : (d.setFol e xs).mgmt = d.mgmt := rfl
@[simp] theorem Dev.setFol_fresh (d : Dev) (e : Nat) (xs : List FolChain) : (d.setFol e xs).fresh = d.fresh := rfl
@[simp] theorem Dev.setVol_regs (d : Dev) (v : Nat) (x : Vol) : (d.setVol v x).regs = d.regs := rfl
@[simp] theorem Dev.setVol_mem (d : Dev) (v : Nat) (x : Vol) : (d.setVol v x).mem = d.mem := rfl
@[simp] theorem Dev.setVol_evLog (d : Dev) (v : Nat) (x : Vol) : (d.setVol v x).evLog = d.evLog := rfl
@[simp] theorem Dev.setVol_freezeLog (d : Dev) (v : Nat) (x : Vol) : (d.setVol v x).freezeLog = d.freezeLog := rfl
@[simp] theorem Dev.setVol_evt (d : Dev) (v : Nat) (x : Vol) : (d.setVol v x).evt = d.evt := rfl
@[simp] theorem Dev.setVol_ins (d : Dev) (v : Nat) (x : Vol) : (d.setVol v x).ins = d.ins := rfl
@[simp] theorem Dev.setVol_dram (d : Dev) (v : Nat) (x : Vol) : (d.setVol v x).dram = d.dram := rfl
@[simp] theorem Dev.setVol_saf (d : Dev) (v : Nat) (x : Vol) : (d.setVol v x).saf = d.saf := rfl
@[simp] theorem Dev.setVol_xq (d : Dev) (v : Nat) (x : Vol) : (d.setVol v x).xq = d.xq := rfl
@[simp] theorem Dev.setVol_doc (d : Dev) (v : Nat) (x : Vol) : (d.setVol v x).doc = d.doc := rfl
@[simp] theorem Dev.setVol_gals (d : Dev) (v : Nat) (x : Vol) : (d.setVol v x).gals = d.gals := rfl
@[simp] theorem Dev.setVol_sfl (d : Dev) (v : Nat) (x : Vol) : (d.setVol v x).sfl = d.sfl := rfl
@[simp] theorem Dev.setVol_exc (d : Dev) (v : Nat) (x : Vol) : (d.setVol v x).exc = d.exc := rfl
@[simp] theorem Dev.setVol_fol (d : Dev) (v : Nat) (x : Vol) : (d.setVol v x).fol = d.fol := rfl
@[simp] theorem Dev.setVol_dma (d : Dev) (v : Nat) (x : Vol) : (d.setVol v x).dma = d.dma := rfl
@[simp] theorem Dev.setVol_prv (d : Dev) (v : Nat) (x : Vol) : (d.setVol v x).prv = d.prv := rfl
@[simp] theorem Dev.setVol_cat (d : Dev) (v : Nat) (x : Vol) : (d.setVol v x).cat = d.cat := rfl
@[simp] theorem Dev.setVol_acc (d : Dev) (v : Nat) (x : Vol) : (d.setVol v x).acc = d.acc := rfl
@[simp] theorem Dev.setVol_pwr (d : Dev) (v : Nat) (x : Vol) : (d.setVol v x).pwr = d.pwr := rfl
@[simp] theorem Dev.setVol_cfg (d : Dev) (v : Nat) (x : Vol) : (d.setVol v x).cfg = d.cfg := rfl
@[simp] theorem Dev.setVol_firmware (d : Dev) (v : Nat) (x : Vol) : (d.setVol v x).firmware = d.firmware := rfl
@[simp] theorem Dev.setVol_phy (d : Dev) (v : Nat) (x : Vol) : (d.setVol v x).phy = d.phy := rfl
@[simp] theorem Dev.setVol_mgmt (d : Dev) (v : Nat) (x : Vol) : (d.setVol v x).mgmt = d.mgmt := rfl
@[simp] theorem Dev.setVol_fresh (d : Dev) (v : Nat) (x : Vol) : (d.setVol v x).fresh = d.fresh := rfl
@[simp] theorem Dev.setPrv_regs (d : Dev) (k : Nat) (x : PrvCtx) : (d.setPrv k x).regs = d.regs := rfl
@[simp] theorem Dev.setPrv_mem (d : Dev) (k : Nat) (x : PrvCtx) : (d.setPrv k x).mem = d.mem := rfl
@[simp] theorem Dev.setPrv_evLog (d : Dev) (k : Nat) (x : PrvCtx) : (d.setPrv k x).evLog = d.evLog := rfl
@[simp] theorem Dev.setPrv_freezeLog (d : Dev) (k : Nat) (x : PrvCtx) : (d.setPrv k x).freezeLog = d.freezeLog := rfl
@[simp] theorem Dev.setPrv_evt (d : Dev) (k : Nat) (x : PrvCtx) : (d.setPrv k x).evt = d.evt := rfl
@[simp] theorem Dev.setPrv_ins (d : Dev) (k : Nat) (x : PrvCtx) : (d.setPrv k x).ins = d.ins := rfl
@[simp] theorem Dev.setPrv_dram (d : Dev) (k : Nat) (x : PrvCtx) : (d.setPrv k x).dram = d.dram := rfl
@[simp] theorem Dev.setPrv_saf (d : Dev) (k : Nat) (x : PrvCtx) : (d.setPrv k x).saf = d.saf := rfl
@[simp] theorem Dev.setPrv_xq (d : Dev) (k : Nat) (x : PrvCtx) : (d.setPrv k x).xq = d.xq := rfl
@[simp] theorem Dev.setPrv_doc (d : Dev) (k : Nat) (x : PrvCtx) : (d.setPrv k x).doc = d.doc := rfl
@[simp] theorem Dev.setPrv_gals (d : Dev) (k : Nat) (x : PrvCtx) : (d.setPrv k x).gals = d.gals := rfl
@[simp] theorem Dev.setPrv_sfl (d : Dev) (k : Nat) (x : PrvCtx) : (d.setPrv k x).sfl = d.sfl := rfl
@[simp] theorem Dev.setPrv_exc (d : Dev) (k : Nat) (x : PrvCtx) : (d.setPrv k x).exc = d.exc := rfl
@[simp] theorem Dev.setPrv_fol (d : Dev) (k : Nat) (x : PrvCtx) : (d.setPrv k x).fol = d.fol := rfl
@[simp] theorem Dev.setPrv_dma (d : Dev) (k : Nat) (x : PrvCtx) : (d.setPrv k x).dma = d.dma := rfl
@[simp] theorem Dev.setPrv_cat (d : Dev) (k : Nat) (x : PrvCtx) : (d.setPrv k x).cat = d.cat := rfl
@[simp] theorem Dev.setPrv_vol (d : Dev) (k : Nat) (x : PrvCtx) : (d.setPrv k x).vol = d.vol := rfl
@[simp] theorem Dev.setPrv_acc (d : Dev) (k : Nat) (x : PrvCtx) : (d.setPrv k x).acc = d.acc := rfl
@[simp] theorem Dev.setPrv_pwr (d : Dev) (k : Nat) (x : PrvCtx) : (d.setPrv k x).pwr = d.pwr := rfl
@[simp] theorem Dev.setPrv_cfg (d : Dev) (k : Nat) (x : PrvCtx) : (d.setPrv k x).cfg = d.cfg := rfl
@[simp] theorem Dev.setPrv_firmware (d : Dev) (k : Nat) (x : PrvCtx) : (d.setPrv k x).firmware = d.firmware := rfl
@[simp] theorem Dev.setPrv_phy (d : Dev) (k : Nat) (x : PrvCtx) : (d.setPrv k x).phy = d.phy := rfl
@[simp] theorem Dev.setPrv_mgmt (d : Dev) (k : Nat) (x : PrvCtx) : (d.setPrv k x).mgmt = d.mgmt := rfl
@[simp] theorem Dev.setPrv_fresh (d : Dev) (k : Nat) (x : PrvCtx) : (d.setPrv k x).fresh = d.fresh := rfl
@[simp] theorem Dev.setFilter_regs (d : Dev) (f : Nat) (x : Sfl) : (d.setFilter f x).regs = d.regs := rfl
@[simp] theorem Dev.setFilter_mem (d : Dev) (f : Nat) (x : Sfl) : (d.setFilter f x).mem = d.mem := rfl
@[simp] theorem Dev.setFilter_evLog (d : Dev) (f : Nat) (x : Sfl) : (d.setFilter f x).evLog = d.evLog := rfl
@[simp] theorem Dev.setFilter_freezeLog (d : Dev) (f : Nat) (x : Sfl) : (d.setFilter f x).freezeLog = d.freezeLog := rfl
@[simp] theorem Dev.setFilter_evt (d : Dev) (f : Nat) (x : Sfl) : (d.setFilter f x).evt = d.evt := rfl
@[simp] theorem Dev.setFilter_ins (d : Dev) (f : Nat) (x : Sfl) : (d.setFilter f x).ins = d.ins := rfl
@[simp] theorem Dev.setFilter_dram (d : Dev) (f : Nat) (x : Sfl) : (d.setFilter f x).dram = d.dram := rfl
@[simp] theorem Dev.setFilter_saf (d : Dev) (f : Nat) (x : Sfl) : (d.setFilter f x).saf = d.saf := rfl
@[simp] theorem Dev.setFilter_xq (d : Dev) (f : Nat) (x : Sfl) : (d.setFilter f x).xq = d.xq := rfl
@[simp] theorem Dev.setFilter_doc (d : Dev) (f : Nat) (x : Sfl) : (d.setFilter f x).doc = d.doc := rfl
@[simp] theorem Dev.setFilter_gals (d : Dev) (f : Nat) (x : Sfl) : (d.setFilter f x).gals = d.gals := rfl
@[simp] theorem Dev.setFilter_exc (d : Dev) (f : Nat) (x : Sfl) : (d.setFilter f x).exc = d.exc := rfl
@[simp] theorem Dev.setFilter_fol (d : Dev) (f : Nat) (x : Sfl) : (d.setFilter f x).fol = d.fol := rfl
@[simp] theorem Dev.setFilter_dma (d : Dev) (f : Nat) (x : Sfl) : (d.setFilter f x).dma = d.dma := rfl
@[simp] theorem Dev.setFilter_prv (d : Dev) (f : Nat) (x : Sfl) : (d.setFilter f x).prv = d.prv := rfl
@[simp] theorem Dev.setFilter_cat (d : Dev) (f : Nat) (x : Sfl) : (d.setFilter f x).cat = d.cat := rfl
@[simp] theorem Dev.setFilter_vol (d : Dev) (f : Nat) (x : Sfl) : (d.setFilter f x).vol = d.vol := rfl
@[simp] theorem Dev.setFilter_acc (d : Dev) (f : Nat) (x : Sfl) : (d.setFilter f x).acc = d.acc := rfl
@[simp] theorem Dev.setFilter_pwr (d : Dev) (f : Nat) (x : Sfl) : (d.setFilter f x).pwr = d.pwr := rfl
@[simp] theorem Dev.setFilter_cfg (d : Dev) (f : Nat) (x : Sfl) : (d.setFilter f x).cfg = d.cfg := rfl
@[simp] theorem Dev.setFilter_firmware (d : Dev) (f : Nat) (x : Sfl) : (d.setFilter f x).firmware = d.firmware := rfl
@[simp] theorem Dev.setFilter_phy (d : Dev) (f : Nat) (x : Sfl) : (d.setFilter f x).phy = d.phy := rfl
@[simp] theorem Dev.setFilter_mgmt (d : Dev) (f : Nat) (x : Sfl) : (d.setFilter f x).mgmt = d.mgmt := rfl
@[simp] theorem Dev.setFilter_fresh (d : Dev) (f : Nat) (x : Sfl) : (d.setFilter f x).fresh = d.fresh := rfl
@[simp] theorem Dev.setPldm_regs (d : Dev) (x : PldmSt) : (d.setPldm x).regs = d.regs := rfl
@[simp] theorem Dev.setPldm_mem (d : Dev) (x : PldmSt) : (d.setPldm x).mem = d.mem := rfl
@[simp] theorem Dev.setPldm_evLog (d : Dev) (x : PldmSt) : (d.setPldm x).evLog = d.evLog := rfl
@[simp] theorem Dev.setPldm_freezeLog (d : Dev) (x : PldmSt) : (d.setPldm x).freezeLog = d.freezeLog := rfl
@[simp] theorem Dev.setPldm_evt (d : Dev) (x : PldmSt) : (d.setPldm x).evt = d.evt := rfl
@[simp] theorem Dev.setPldm_ins (d : Dev) (x : PldmSt) : (d.setPldm x).ins = d.ins := rfl
@[simp] theorem Dev.setPldm_dram (d : Dev) (x : PldmSt) : (d.setPldm x).dram = d.dram := rfl
@[simp] theorem Dev.setPldm_saf (d : Dev) (x : PldmSt) : (d.setPldm x).saf = d.saf := rfl
@[simp] theorem Dev.setPldm_xq (d : Dev) (x : PldmSt) : (d.setPldm x).xq = d.xq := rfl
@[simp] theorem Dev.setPldm_doc (d : Dev) (x : PldmSt) : (d.setPldm x).doc = d.doc := rfl
@[simp] theorem Dev.setPldm_gals (d : Dev) (x : PldmSt) : (d.setPldm x).gals = d.gals := rfl
@[simp] theorem Dev.setPldm_sfl (d : Dev) (x : PldmSt) : (d.setPldm x).sfl = d.sfl := rfl
@[simp] theorem Dev.setPldm_exc (d : Dev) (x : PldmSt) : (d.setPldm x).exc = d.exc := rfl
@[simp] theorem Dev.setPldm_fol (d : Dev) (x : PldmSt) : (d.setPldm x).fol = d.fol := rfl
@[simp] theorem Dev.setPldm_dma (d : Dev) (x : PldmSt) : (d.setPldm x).dma = d.dma := rfl
@[simp] theorem Dev.setPldm_prv (d : Dev) (x : PldmSt) : (d.setPldm x).prv = d.prv := rfl
@[simp] theorem Dev.setPldm_cat (d : Dev) (x : PldmSt) : (d.setPldm x).cat = d.cat := rfl
@[simp] theorem Dev.setPldm_vol (d : Dev) (x : PldmSt) : (d.setPldm x).vol = d.vol := rfl
@[simp] theorem Dev.setPldm_acc (d : Dev) (x : PldmSt) : (d.setPldm x).acc = d.acc := rfl
@[simp] theorem Dev.setPldm_pwr (d : Dev) (x : PldmSt) : (d.setPldm x).pwr = d.pwr := rfl
@[simp] theorem Dev.setPldm_cfg (d : Dev) (x : PldmSt) : (d.setPldm x).cfg = d.cfg := rfl
@[simp] theorem Dev.setPldm_firmware (d : Dev) (x : PldmSt) : (d.setPldm x).firmware = d.firmware := rfl
@[simp] theorem Dev.setPldm_phy (d : Dev) (x : PldmSt) : (d.setPldm x).phy = d.phy := rfl
@[simp] theorem Dev.setPldm_fresh (d : Dev) (x : PldmSt) : (d.setPldm x).fresh = d.fresh := rfl
@[simp] theorem Dev.reply_regs (d : Dev) (r : MgmtReply) : (d.reply r).regs = d.regs := rfl
@[simp] theorem Dev.reply_mem (d : Dev) (r : MgmtReply) : (d.reply r).mem = d.mem := rfl
@[simp] theorem Dev.reply_evLog (d : Dev) (r : MgmtReply) : (d.reply r).evLog = d.evLog := rfl
@[simp] theorem Dev.reply_freezeLog (d : Dev) (r : MgmtReply) : (d.reply r).freezeLog = d.freezeLog := rfl
@[simp] theorem Dev.reply_evt (d : Dev) (r : MgmtReply) : (d.reply r).evt = d.evt := rfl
@[simp] theorem Dev.reply_ins (d : Dev) (r : MgmtReply) : (d.reply r).ins = d.ins := rfl
@[simp] theorem Dev.reply_dram (d : Dev) (r : MgmtReply) : (d.reply r).dram = d.dram := rfl
@[simp] theorem Dev.reply_saf (d : Dev) (r : MgmtReply) : (d.reply r).saf = d.saf := rfl
@[simp] theorem Dev.reply_xq (d : Dev) (r : MgmtReply) : (d.reply r).xq = d.xq := rfl
@[simp] theorem Dev.reply_doc (d : Dev) (r : MgmtReply) : (d.reply r).doc = d.doc := rfl
@[simp] theorem Dev.reply_gals (d : Dev) (r : MgmtReply) : (d.reply r).gals = d.gals := rfl
@[simp] theorem Dev.reply_sfl (d : Dev) (r : MgmtReply) : (d.reply r).sfl = d.sfl := rfl
@[simp] theorem Dev.reply_exc (d : Dev) (r : MgmtReply) : (d.reply r).exc = d.exc := rfl
@[simp] theorem Dev.reply_fol (d : Dev) (r : MgmtReply) : (d.reply r).fol = d.fol := rfl
@[simp] theorem Dev.reply_dma (d : Dev) (r : MgmtReply) : (d.reply r).dma = d.dma := rfl
@[simp] theorem Dev.reply_prv (d : Dev) (r : MgmtReply) : (d.reply r).prv = d.prv := rfl
@[simp] theorem Dev.reply_cat (d : Dev) (r : MgmtReply) : (d.reply r).cat = d.cat := rfl
@[simp] theorem Dev.reply_vol (d : Dev) (r : MgmtReply) : (d.reply r).vol = d.vol := rfl
@[simp] theorem Dev.reply_acc (d : Dev) (r : MgmtReply) : (d.reply r).acc = d.acc := rfl
@[simp] theorem Dev.reply_pwr (d : Dev) (r : MgmtReply) : (d.reply r).pwr = d.pwr := rfl
@[simp] theorem Dev.reply_cfg (d : Dev) (r : MgmtReply) : (d.reply r).cfg = d.cfg := rfl
@[simp] theorem Dev.reply_firmware (d : Dev) (r : MgmtReply) : (d.reply r).firmware = d.firmware := rfl
@[simp] theorem Dev.reply_phy (d : Dev) (r : MgmtReply) : (d.reply r).phy = d.phy := rfl
@[simp] theorem Dev.reply_fresh (d : Dev) (r : MgmtReply) : (d.reply r).fresh = d.fresh := rfl
@[simp] theorem Dev.notify_regs (d : Dev) (a b : Nat) : (d.notify a b).regs = d.regs := rfl
@[simp] theorem Dev.notify_mem (d : Dev) (a b : Nat) : (d.notify a b).mem = d.mem := rfl
@[simp] theorem Dev.notify_evLog (d : Dev) (a b : Nat) : (d.notify a b).evLog = d.evLog := rfl
@[simp] theorem Dev.notify_freezeLog (d : Dev) (a b : Nat) : (d.notify a b).freezeLog = d.freezeLog := rfl
@[simp] theorem Dev.notify_evt (d : Dev) (a b : Nat) : (d.notify a b).evt = d.evt := rfl
@[simp] theorem Dev.notify_ins (d : Dev) (a b : Nat) : (d.notify a b).ins = d.ins := rfl
@[simp] theorem Dev.notify_dram (d : Dev) (a b : Nat) : (d.notify a b).dram = d.dram := rfl
@[simp] theorem Dev.notify_saf (d : Dev) (a b : Nat) : (d.notify a b).saf = d.saf := rfl
@[simp] theorem Dev.notify_xq (d : Dev) (a b : Nat) : (d.notify a b).xq = d.xq := rfl
@[simp] theorem Dev.notify_doc (d : Dev) (a b : Nat) : (d.notify a b).doc = d.doc := rfl
@[simp] theorem Dev.notify_gals (d : Dev) (a b : Nat) : (d.notify a b).gals = d.gals := rfl
@[simp] theorem Dev.notify_sfl (d : Dev) (a b : Nat) : (d.notify a b).sfl = d.sfl := rfl
@[simp] theorem Dev.notify_exc (d : Dev) (a b : Nat) : (d.notify a b).exc = d.exc := rfl
@[simp] theorem Dev.notify_fol (d : Dev) (a b : Nat) : (d.notify a b).fol = d.fol := rfl
@[simp] theorem Dev.notify_dma (d : Dev) (a b : Nat) : (d.notify a b).dma = d.dma := rfl
@[simp] theorem Dev.notify_prv (d : Dev) (a b : Nat) : (d.notify a b).prv = d.prv := rfl
@[simp] theorem Dev.notify_cat (d : Dev) (a b : Nat) : (d.notify a b).cat = d.cat := rfl
@[simp] theorem Dev.notify_vol (d : Dev) (a b : Nat) : (d.notify a b).vol = d.vol := rfl
@[simp] theorem Dev.notify_acc (d : Dev) (a b : Nat) : (d.notify a b).acc = d.acc := rfl
@[simp] theorem Dev.notify_pwr (d : Dev) (a b : Nat) : (d.notify a b).pwr = d.pwr := rfl
@[simp] theorem Dev.notify_cfg (d : Dev) (a b : Nat) : (d.notify a b).cfg = d.cfg := rfl
@[simp] theorem Dev.notify_firmware (d : Dev) (a b : Nat) : (d.notify a b).firmware = d.firmware := rfl
@[simp] theorem Dev.notify_phy (d : Dev) (a b : Nat) : (d.notify a b).phy = d.phy := rfl
@[simp] theorem Dev.notify_fresh (d : Dev) (a b : Nat) : (d.notify a b).fresh = d.fresh := rfl
@[simp] theorem Dev.safetyLog_regs (d : Dev) (t : Word) (e : SafEntry) : (d.safetyLog t e).regs = d.regs := rfl
@[simp] theorem Dev.safetyLog_mem (d : Dev) (t : Word) (e : SafEntry) : (d.safetyLog t e).mem = d.mem := rfl
@[simp] theorem Dev.safetyLog_evLog (d : Dev) (t : Word) (e : SafEntry) : (d.safetyLog t e).evLog = d.evLog := rfl
@[simp] theorem Dev.safetyLog_freezeLog (d : Dev) (t : Word) (e : SafEntry) : (d.safetyLog t e).freezeLog = d.freezeLog := rfl
@[simp] theorem Dev.safetyLog_evt (d : Dev) (t : Word) (e : SafEntry) : (d.safetyLog t e).evt = d.evt := rfl
@[simp] theorem Dev.safetyLog_ins (d : Dev) (t : Word) (e : SafEntry) : (d.safetyLog t e).ins = d.ins := rfl
@[simp] theorem Dev.safetyLog_dram (d : Dev) (t : Word) (e : SafEntry) : (d.safetyLog t e).dram = d.dram := rfl
@[simp] theorem Dev.safetyLog_xq (d : Dev) (t : Word) (e : SafEntry) : (d.safetyLog t e).xq = d.xq := rfl
@[simp] theorem Dev.safetyLog_doc (d : Dev) (t : Word) (e : SafEntry) : (d.safetyLog t e).doc = d.doc := rfl
@[simp] theorem Dev.safetyLog_gals (d : Dev) (t : Word) (e : SafEntry) : (d.safetyLog t e).gals = d.gals := rfl
@[simp] theorem Dev.safetyLog_sfl (d : Dev) (t : Word) (e : SafEntry) : (d.safetyLog t e).sfl = d.sfl := rfl
@[simp] theorem Dev.safetyLog_exc (d : Dev) (t : Word) (e : SafEntry) : (d.safetyLog t e).exc = d.exc := rfl
@[simp] theorem Dev.safetyLog_fol (d : Dev) (t : Word) (e : SafEntry) : (d.safetyLog t e).fol = d.fol := rfl
@[simp] theorem Dev.safetyLog_dma (d : Dev) (t : Word) (e : SafEntry) : (d.safetyLog t e).dma = d.dma := rfl
@[simp] theorem Dev.safetyLog_prv (d : Dev) (t : Word) (e : SafEntry) : (d.safetyLog t e).prv = d.prv := rfl
@[simp] theorem Dev.safetyLog_cat (d : Dev) (t : Word) (e : SafEntry) : (d.safetyLog t e).cat = d.cat := rfl
@[simp] theorem Dev.safetyLog_vol (d : Dev) (t : Word) (e : SafEntry) : (d.safetyLog t e).vol = d.vol := rfl
@[simp] theorem Dev.safetyLog_acc (d : Dev) (t : Word) (e : SafEntry) : (d.safetyLog t e).acc = d.acc := rfl
@[simp] theorem Dev.safetyLog_pwr (d : Dev) (t : Word) (e : SafEntry) : (d.safetyLog t e).pwr = d.pwr := rfl
@[simp] theorem Dev.safetyLog_cfg (d : Dev) (t : Word) (e : SafEntry) : (d.safetyLog t e).cfg = d.cfg := rfl
@[simp] theorem Dev.safetyLog_firmware (d : Dev) (t : Word) (e : SafEntry) : (d.safetyLog t e).firmware = d.firmware := rfl
@[simp] theorem Dev.safetyLog_phy (d : Dev) (t : Word) (e : SafEntry) : (d.safetyLog t e).phy = d.phy := rfl
@[simp] theorem Dev.safetyLog_mgmt (d : Dev) (t : Word) (e : SafEntry) : (d.safetyLog t e).mgmt = d.mgmt := rfl
@[simp] theorem Dev.safetyLog_fresh (d : Dev) (t : Word) (e : SafEntry) : (d.safetyLog t e).fresh = d.fresh := rfl
@[simp] theorem Dev.setSectors_regs (d : Dev) (n lba : Nat) (bs : Bytes) : (d.setSectors n lba bs).regs = d.regs := rfl
@[simp] theorem Dev.setSectors_evLog (d : Dev) (n lba : Nat) (bs : Bytes) : (d.setSectors n lba bs).evLog = d.evLog := rfl
@[simp] theorem Dev.setSectors_freezeLog (d : Dev) (n lba : Nat) (bs : Bytes) : (d.setSectors n lba bs).freezeLog = d.freezeLog := rfl
@[simp] theorem Dev.setSectors_evt (d : Dev) (n lba : Nat) (bs : Bytes) : (d.setSectors n lba bs).evt = d.evt := rfl
@[simp] theorem Dev.setSectors_ins (d : Dev) (n lba : Nat) (bs : Bytes) : (d.setSectors n lba bs).ins = d.ins := rfl
@[simp] theorem Dev.setSectors_dram (d : Dev) (n lba : Nat) (bs : Bytes) : (d.setSectors n lba bs).dram = d.dram := rfl
@[simp] theorem Dev.setSectors_saf (d : Dev) (n lba : Nat) (bs : Bytes) : (d.setSectors n lba bs).saf = d.saf := rfl
@[simp] theorem Dev.setSectors_xq (d : Dev) (n lba : Nat) (bs : Bytes) : (d.setSectors n lba bs).xq = d.xq := rfl
@[simp] theorem Dev.setSectors_doc (d : Dev) (n lba : Nat) (bs : Bytes) : (d.setSectors n lba bs).doc = d.doc := rfl
@[simp] theorem Dev.setSectors_gals (d : Dev) (n lba : Nat) (bs : Bytes) : (d.setSectors n lba bs).gals = d.gals := rfl
@[simp] theorem Dev.setSectors_sfl (d : Dev) (n lba : Nat) (bs : Bytes) : (d.setSectors n lba bs).sfl = d.sfl := rfl
@[simp] theorem Dev.setSectors_exc (d : Dev) (n lba : Nat) (bs : Bytes) : (d.setSectors n lba bs).exc = d.exc := rfl
@[simp] theorem Dev.setSectors_fol (d : Dev) (n lba : Nat) (bs : Bytes) : (d.setSectors n lba bs).fol = d.fol := rfl
@[simp] theorem Dev.setSectors_dma (d : Dev) (n lba : Nat) (bs : Bytes) : (d.setSectors n lba bs).dma = d.dma := rfl
@[simp] theorem Dev.setSectors_prv (d : Dev) (n lba : Nat) (bs : Bytes) : (d.setSectors n lba bs).prv = d.prv := rfl
@[simp] theorem Dev.setSectors_cat (d : Dev) (n lba : Nat) (bs : Bytes) : (d.setSectors n lba bs).cat = d.cat := rfl
@[simp] theorem Dev.setSectors_vol (d : Dev) (n lba : Nat) (bs : Bytes) : (d.setSectors n lba bs).vol = d.vol := rfl
@[simp] theorem Dev.setSectors_acc (d : Dev) (n lba : Nat) (bs : Bytes) : (d.setSectors n lba bs).acc = d.acc := rfl
@[simp] theorem Dev.setSectors_pwr (d : Dev) (n lba : Nat) (bs : Bytes) : (d.setSectors n lba bs).pwr = d.pwr := rfl
@[simp] theorem Dev.setSectors_cfg (d : Dev) (n lba : Nat) (bs : Bytes) : (d.setSectors n lba bs).cfg = d.cfg := rfl
@[simp] theorem Dev.setSectors_firmware (d : Dev) (n lba : Nat) (bs : Bytes) : (d.setSectors n lba bs).firmware = d.firmware := rfl
@[simp] theorem Dev.setSectors_phy (d : Dev) (n lba : Nat) (bs : Bytes) : (d.setSectors n lba bs).phy = d.phy := rfl
@[simp] theorem Dev.setSectors_mgmt (d : Dev) (n lba : Nat) (bs : Bytes) : (d.setSectors n lba bs).mgmt = d.mgmt := rfl
@[simp] theorem Dev.setSectors_fresh (d : Dev) (n lba : Nat) (bs : Bytes) : (d.setSectors n lba bs).fresh = d.fresh := rfl

end Sys2Proof.Machine
end

