-- ==== Sys2Proof/Laws/Ops.lean ====
section
/-!
SUPPORT. What the shared operations can do, said once: tables read after a write, the frame of a command that acts on the blocks, the
registers, the cores of the galleries, and counting.
-/

set_option Elab.async false

namespace Sys2Proof.Machine

/-! ### Commands -/

theorem State.onDev_of_on (s : State) (f : CoreSt → Dev → Dev) (h : s.on) : s.onDev f = .next (s.withDev (f s.core s.dev)) := by
  simp [State.onDev, State.withDev, h]

theorem State.onDev_off (s : State) (f : CoreSt → Dev → Dev) (h : s.core.mode = .off) : s.onDev f = .next s := by
  simp [State.onDev, h]

theorem State.onAll_of_on (s : State) (f : CoreSt × Dev → CoreSt × Dev) (h : s.on) :
    s.onAll f = .next (s.withAll (f (s.core, s.dev))) := by
  simp [State.onAll, State.withAll, h]

theorem State.onAll_off (s : State) (f : CoreSt × Dev → CoreSt × Dev) (h : s.core.mode = .off) : s.onAll f = .next s := by
  simp [State.onAll, h]

theorem State.onPin_eq (s : State) (f : CoreSt × Dev → CoreSt × Dev) : s.onPin f = .next (s.withAll (f (s.core, s.dev))) := rfl

/-- A command on the blocks answers a next state with the mode arbiter and the queue unchanged. -/
theorem State.onDev_next (s t : State) (f : CoreSt → Dev → Dev) (h : s.onDev f = .next t) :
    t.core = s.core ∧ t.pending = s.pending ∧ (t.dev = s.dev ∨ s.on ∧ t.dev = f s.core s.dev) := by
  by_cases hm : s.core.mode = .off
  · rw [s.onDev_off f hm] at h; cases h; exact ⟨rfl, rfl, Or.inl rfl⟩
  · rw [s.onDev_of_on f hm] at h; cases h; exact ⟨rfl, rfl, Or.inr ⟨hm, rfl⟩⟩

/-- An admin command that is taken up has its own effect. -/
theorem State.admin_of_takes (s : State) (ref : CmdRef) (op : Nat) (x : Cmd) (f : Cmd → Dev → Dev) (h : s.adminTakes ref op x) :
    s.dev.admin s.core ref op f = f x (s.started x) := by
  obtain ⟨_, h2, h3⟩ := h
  unfold Dev.admin State.started
  rw [h2]
  rcases h3 with h3 | ⟨h3, h4⟩
  · have : decide (0x90 ≤ op) = false := by simp; omega
    simp [this]
  · simp [h3, h4]

/-! ### Tables -/

section tables
variable {α : Type}

theorem find?_del (t : Tbl α) (k j : Nat) (h : j ≠ k) :
    (del t k).find? (fun e => e.1 == j) = t.find? (fun e => e.1 == j) := by
  induction t with
  | nil => rfl
  | cons e t ih =>
    by_cases hk : e.1 = k
    · have hj : (e.1 == j) = false := by simp; omega
      have : del (e :: t) k = del t k := by simp [del, hk]
      rw [this, ih]; simp [hj]
    · have : del (e :: t) k = e :: del t k := by simp [del, hk]
      rw [this]; simp only [List.find?_cons]; rw [ih]

@[simp] theorem look_put_self (t : Tbl α) (k : Nat) (v d : α) : look (put t k v) k d = v := by simp [look, put]
@[simp] theorem find_put_self (t : Tbl α) (k : Nat) (v : α) : find (put t k v) k = some v := by simp [find, put]
theorem look_put_ne (t : Tbl α) (k j : Nat) (v d : α) (h : j ≠ k) : look (put t k v) j d = look t j d := by
  have hk : ¬ k = j := fun e => h e.symm
  simp [look, put, hk, find?_del t k j h]
theorem find_put_ne (t : Tbl α) (k j : Nat) (v : α) (h : j ≠ k) : find (put t k v) j = find t j := by
  have hk : ¬ k = j := fun e => h e.symm
  simp [find, put, hk, find?_del t k j h]

end tables

/-- What every step of a fold keeps, the fold keeps. -/
theorem foldl_keeps {σ ι β : Type} (P : σ → β) (f : σ → ι → σ) (h : ∀ s x, P (f s x) = P s) (xs : List ι) (s : σ) :
    P (xs.foldl f s) = P s := by
  induction xs generalizing s with
  | nil => rfl
  | cons x xs ih => rw [List.foldl_cons, ih, h]

/-! ### Registers -/

@[simp] theorem Dev.reg_setReg_self (d : Dev) (off : Nat) (v : Word) : (d.setReg off v).reg off = v := by
  simp [Dev.reg, Dev.setReg]
theorem Dev.reg_setReg_ne (d : Dev) (off o : Nat) (v : Word) (h : o ≠ off) : (d.setReg off v).reg o = d.reg o := by
  simp [Dev.reg, Dev.setReg, find_put_ne _ _ _ _ h]
theorem Dev.reg_setF_ne (d : Dev) (off hi lo x o : Nat) (h : o ≠ off) : (d.setF off hi lo x).reg o = d.reg o :=
  d.reg_setReg_ne off o _ h
theorem Dev.reg_setFlag_ne (d : Dev) (off n o : Nat) (b : Bool) (h : o ≠ off) : (d.setFlag off n b).reg o = d.reg o :=
  d.reg_setReg_ne off o _ h
theorem Dev.getF_setReg_ne (d : Dev) (off o hi lo : Nat) (v : Word) (h : o ≠ off) : (d.setReg off v).getF o hi lo = d.getF o hi lo := by
  simp [Dev.getF, d.reg_setReg_ne off o v h]

/-! ### Cores, instances, channels -/

@[simp] theorem Dev.core_setCore_self (d : Dev) (p : Nat) (k : Gallery) : (d.setCore p k).core p = k := by
  simp [Dev.core, Dev.setCore]
theorem Dev.core_setCore_ne (d : Dev) (p q : Nat) (k : Gallery) (h : q ≠ p) : (d.setCore p k).core q = d.core q := by
  simp [Dev.core, Dev.setCore, look_put_ne _ _ _ _ _ h]
@[simp] theorem Dev.setCore_setCore (d : Dev) (p : Nat) (k l : Gallery) : (d.setCore p k).setCore p l = d.setCore p l := by
  simp [Dev.setCore, put, del, List.filter_filter]
@[simp] theorem Dev.inst_setInst_self (d : Dev) (i : Nat) (x : Inst) : (d.setInst i x).inst i = x := by
  simp [Dev.inst, Dev.setInst]
@[simp] theorem Dev.chan_setChan_self (d : Dev) (ch : Nat) (x : Chan) : (d.setChan ch x).chan ch = x := by
  simp [Dev.chan, Dev.setChan]
@[simp] theorem Dev.pair_setPair_self (d : Dev) (i q : Nat) (x : Pair) : (d.setPair i q x).pair i q = some x := by
  simp [Dev.pair, Dev.setPair]

/-! ### Counting touches the registers and the event controller, and nothing else -/

theorem Dev.bump0_rest (d : Dev) (off k : Nat) : { d.bump0 off k with regs := d.regs } = d := by
  unfold Dev.bump0; simp only []; split
  · rfl
  · split <;> rfl

theorem Dev.countEvt_rest (d : Dev) (off : Nat) : { d.countEvt off with regs := d.regs, evt := d.evt } = d := by
  have h := d.bump0_rest off 1
  unfold Dev.countEvt; simp only []
  split
  · have : { (d.bump0 off 1).pendRouted 2 with regs := d.regs, evt := d.evt } = { { d.bump0 off 1 with regs := d.regs } with evt := d.evt } := rfl
    rw [this, h]
  · have : { d.bump0 off 1 with regs := d.regs, evt := d.evt } = { { d.bump0 off 1 with regs := d.regs } with evt := d.evt } := rfl
    rw [this, h]

theorem Dev.raiseEvent_rest (d : Dev) (n : Nat) : { d.raiseEvent n with regs := d.regs, evt := d.evt } = d := by
  have h1 := (d.pendRouted n).countEvt_rest R.evtCntRaise
  have e1 : ∀ x : Dev, { x with regs := (d.pendRouted n).regs, evt := (d.pendRouted n).evt } = d.pendRouted n →
      { x with regs := d.regs, evt := d.evt } = d := by
    intro x hx
    have : { x with regs := d.regs, evt := d.evt } =
      { { x with regs := (d.pendRouted n).regs, evt := (d.pendRouted n).evt } with regs := d.regs, evt := d.evt } := rfl
    rw [this, hx]; rfl
  unfold Dev.raiseEvent; simp only []
  split
  · have h2 := ((d.pendRouted n).countEvt R.evtCntRaise).countEvt_rest R.evtCntMerge
    apply e1
    have : ∀ y : Dev, { y with regs := (d.pendRouted n).regs, evt := (d.pendRouted n).evt } =
      { { y with regs := ((d.pendRouted n).countEvt R.evtCntRaise).regs, evt := ((d.pendRouted n).countEvt R.evtCntRaise).evt } with
        regs := (d.pendRouted n).regs, evt := (d.pendRouted n).evt } := fun _ => rfl
    rw [this, h2, h1]
  · exact e1 _ h1

theorem Dev.count_rest (d : Dev) (off k : Nat) : { d.count off k with regs := d.regs, evt := d.evt } = d := by
  have h := d.bump0_rest off k
  have e (x : Dev) (hx : { x with regs := (d.bump0 off k).regs, evt := (d.bump0 off k).evt } = d.bump0 off k) :
      { x with regs := d.regs, evt := d.evt } = d := by
    have : { x with regs := d.regs, evt := d.evt } =
      { { x with regs := (d.bump0 off k).regs, evt := (d.bump0 off k).evt } with regs := d.regs, evt := d.evt } := rfl
    rw [this, hx]
    have : { d.bump0 off k with regs := d.regs, evt := d.evt } = { { d.bump0 off k with regs := d.regs } with evt := d.evt } := rfl
    rw [this, h]
  unfold Dev.count; simp only []
  split
  · exact e _ ((d.bump0 off k).raiseEvent_rest 2)
  · exact e _ rfl

@[simp] theorem Dev.count_mem (d : Dev) (off k : Nat) : (d.count off k).mem = d.mem := by
  have h := congrArg Dev.mem (d.count_rest off k); exact h
@[simp] theorem Dev.count_evLog (d : Dev) (off k : Nat) : (d.count off k).evLog = d.evLog := by
  have h := congrArg Dev.evLog (d.count_rest off k); exact h
@[simp] theorem Dev.count_freezeLog (d : Dev) (off k : Nat) : (d.count off k).freezeLog = d.freezeLog := by
  have h := congrArg Dev.freezeLog (d.count_rest off k); exact h
@[simp] theorem Dev.count_ins (d : Dev) (off k : Nat) : (d.count off k).ins = d.ins := by
  have h := congrArg Dev.ins (d.count_rest off k); exact h
@[simp] theorem Dev.count_dram (d : Dev) (off k : Nat) : (d.count off k).dram = d.dram := by
  have h := congrArg Dev.dram (d.count_rest off k); exact h
@[simp] theorem Dev.count_saf (d : Dev) (off k : Nat) : (d.count off k).saf = d.saf := by
  have h := congrArg Dev.saf (d.count_rest off k); exact h
@[simp] theorem Dev.count_xq (d : Dev) (off k : Nat) : (d.count off k).xq = d.xq := by
  have h := congrArg Dev.xq (d.count_rest off k); exact h
@[simp] theorem Dev.count_doc (d : Dev) (off k : Nat) : (d.count off k).doc = d.doc := by
  have h := congrArg Dev.doc (d.count_rest off k); exact h
@[simp] theorem Dev.count_gals (d : Dev) (off k : Nat) : (d.count off k).gals = d.gals := by
  have h := congrArg Dev.gals (d.count_rest off k); exact h
@[simp] theorem Dev.count_sfl (d : Dev) (off k : Nat) : (d.count off k).sfl = d.sfl := by
  have h := congrArg Dev.sfl (d.count_rest off k); exact h
@[simp] theorem Dev.count_exc (d : Dev) (off k : Nat) : (d.count off k).exc = d.exc := by
  have h := congrArg Dev.exc (d.count_rest off k); exact h
@[simp] theorem Dev.count_fol (d : Dev) (off k : Nat) : (d.count off k).fol = d.fol := by
  have h := congrArg Dev.fol (d.count_rest off k); exact h
@[simp] theorem Dev.count_dma (d : Dev) (off k : Nat) : (d.count off k).dma = d.dma := by
  have h := congrArg Dev.dma (d.count_rest off k); exact h
@[simp] theorem Dev.count_prv (d : Dev) (off k : Nat) : (d.count off k).prv = d.prv := by
  have h := congrArg Dev.prv (d.count_rest off k); exact h
@[simp] theorem Dev.count_cat (d : Dev) (off k : Nat) : (d.count off k).cat = d.cat := by
  have h := congrArg Dev.cat (d.count_rest off k); exact h
@[simp] theorem Dev.count_vol (d : Dev) (off k : Nat) : (d.count off k).vol = d.vol := by
  have h := congrArg Dev.vol (d.count_rest off k); exact h
@[simp] theorem Dev.count_acc (d : Dev) (off k : Nat) : (d.count off k).acc = d.acc := by
  have h := congrArg Dev.acc (d.count_rest off k); exact h
@[simp] theorem Dev.count_pwr (d : Dev) (off k : Nat) : (d.count off k).pwr = d.pwr := by
  have h := congrArg Dev.pwr (d.count_rest off k); exact h
@[simp] theorem Dev.count_cfg (d : Dev) (off k : Nat) : (d.count off k).cfg = d.cfg := by
  have h := congrArg Dev.cfg (d.count_rest off k); exact h
@[simp] theorem Dev.count_firmware (d : Dev) (off k : Nat) : (d.count off k).firmware = d.firmware := by
  have h := congrArg Dev.firmware (d.count_rest off k); exact h
@[simp] theorem Dev.count_phy (d : Dev) (off k : Nat) : (d.count off k).phy = d.phy := by
  have h := congrArg Dev.phy (d.count_rest off k); exact h
@[simp] theorem Dev.count_mgmt (d : Dev) (off k : Nat) : (d.count off k).mgmt = d.mgmt := by
  have h := congrArg Dev.mgmt (d.count_rest off k); exact h
@[simp] theorem Dev.count_fresh (d : Dev) (off k : Nat) : (d.count off k).fresh = d.fresh := by
  have h := congrArg Dev.fresh (d.count_rest off k); exact h

@[simp] theorem Dev.raiseEvent_mem (d : Dev) (n : Nat) : (d.raiseEvent n).mem = d.mem := by
  have h := congrArg Dev.mem (d.raiseEvent_rest n); exact h
@[simp] theorem Dev.raiseEvent_evLog (d : Dev) (n : Nat) : (d.raiseEvent n).evLog = d.evLog := by
  have h := congrArg Dev.evLog (d.raiseEvent_rest n); exact h
@[simp] theorem Dev.raiseEvent_freezeLog (d : Dev) (n : Nat) : (d.raiseEvent n).freezeLog = d.freezeLog := by
  have h := congrArg Dev.freezeLog (d.raiseEvent_rest n); exact h
@[simp] theorem Dev.raiseEvent_ins (d : Dev) (n : Nat) : (d.raiseEvent n).ins = d.ins := by
  have h := congrArg Dev.ins (d.raiseEvent_rest n); exact h
@[simp] theorem Dev.raiseEvent_dram (d : Dev) (n : Nat) : (d.raiseEvent n).dram = d.dram := by
  have h := congrArg Dev.dram (d.raiseEvent_rest n); exact h
@[simp] theorem Dev.raiseEvent_saf (d : Dev) (n : Nat) : (d.raiseEvent n).saf = d.saf := by
  have h := congrArg Dev.saf (d.raiseEvent_rest n); exact h
@[simp] theorem Dev.raiseEvent_xq (d : Dev) (n : Nat) : (d.raiseEvent n).xq = d.xq := by
  have h := congrArg Dev.xq (d.raiseEvent_rest n); exact h
@[simp] theorem Dev.raiseEvent_doc (d : Dev) (n : Nat) : (d.raiseEvent n).doc = d.doc := by
  have h := congrArg Dev.doc (d.raiseEvent_rest n); exact h
@[simp] theorem Dev.raiseEvent_gals (d : Dev) (n : Nat) : (d.raiseEvent n).gals = d.gals := by
  have h := congrArg Dev.gals (d.raiseEvent_rest n); exact h
@[simp] theorem Dev.raiseEvent_sfl (d : Dev) (n : Nat) : (d.raiseEvent n).sfl = d.sfl := by
  have h := congrArg Dev.sfl (d.raiseEvent_rest n); exact h
@[simp] theorem Dev.raiseEvent_exc (d : Dev) (n : Nat) : (d.raiseEvent n).exc = d.exc := by
  have h := congrArg Dev.exc (d.raiseEvent_rest n); exact h
@[simp] theorem Dev.raiseEvent_fol (d : Dev) (n : Nat) : (d.raiseEvent n).fol = d.fol := by
  have h := congrArg Dev.fol (d.raiseEvent_rest n); exact h
@[simp] theorem Dev.raiseEvent_dma (d : Dev) (n : Nat) : (d.raiseEvent n).dma = d.dma := by
  have h := congrArg Dev.dma (d.raiseEvent_rest n); exact h
@[simp] theorem Dev.raiseEvent_prv (d : Dev) (n : Nat) : (d.raiseEvent n).prv = d.prv := by
  have h := congrArg Dev.prv (d.raiseEvent_rest n); exact h
@[simp] theorem Dev.raiseEvent_cat (d : Dev) (n : Nat) : (d.raiseEvent n).cat = d.cat := by
  have h := congrArg Dev.cat (d.raiseEvent_rest n); exact h
@[simp] theorem Dev.raiseEvent_vol (d : Dev) (n : Nat) : (d.raiseEvent n).vol = d.vol := by
  have h := congrArg Dev.vol (d.raiseEvent_rest n); exact h
@[simp] theorem Dev.raiseEvent_acc (d : Dev) (n : Nat) : (d.raiseEvent n).acc = d.acc := by
  have h := congrArg Dev.acc (d.raiseEvent_rest n); exact h
@[simp] theorem Dev.raiseEvent_pwr (d : Dev) (n : Nat) : (d.raiseEvent n).pwr = d.pwr := by
  have h := congrArg Dev.pwr (d.raiseEvent_rest n); exact h
@[simp] theorem Dev.raiseEvent_cfg (d : Dev) (n : Nat) : (d.raiseEvent n).cfg = d.cfg := by
  have h := congrArg Dev.cfg (d.raiseEvent_rest n); exact h
@[simp] theorem Dev.raiseEvent_firmware (d : Dev) (n : Nat) : (d.raiseEvent n).firmware = d.firmware := by
  have h := congrArg Dev.firmware (d.raiseEvent_rest n); exact h
@[simp] theorem Dev.raiseEvent_phy (d : Dev) (n : Nat) : (d.raiseEvent n).phy = d.phy := by
  have h := congrArg Dev.phy (d.raiseEvent_rest n); exact h
@[simp] theorem Dev.raiseEvent_mgmt (d : Dev) (n : Nat) : (d.raiseEvent n).mgmt = d.mgmt := by
  have h := congrArg Dev.mgmt (d.raiseEvent_rest n); exact h
@[simp] theorem Dev.raiseEvent_fresh (d : Dev) (n : Nat) : (d.raiseEvent n).fresh = d.fresh := by
  have h := congrArg Dev.fresh (d.raiseEvent_rest n); exact h

@[simp] theorem Dev.countEvt_mem (d : Dev) (off : Nat) : (d.countEvt off).mem = d.mem := by
  have h := congrArg Dev.mem (d.countEvt_rest off); exact h
@[simp] theorem Dev.countEvt_evLog (d : Dev) (off : Nat) : (d.countEvt off).evLog = d.evLog := by
  have h := congrArg Dev.evLog (d.countEvt_rest off); exact h
@[simp] theorem Dev.countEvt_freezeLog (d : Dev) (off : Nat) : (d.countEvt off).freezeLog = d.freezeLog := by
  have h := congrArg Dev.freezeLog (d.countEvt_rest off); exact h
@[simp] theorem Dev.countEvt_ins (d : Dev) (off : Nat) : (d.countEvt off).ins = d.ins := by
  have h := congrArg Dev.ins (d.countEvt_rest off); exact h
@[simp] theorem Dev.countEvt_dram (d : Dev) (off : Nat) : (d.countEvt off).dram = d.dram := by
  have h := congrArg Dev.dram (d.countEvt_rest off); exact h
@[simp] theorem Dev.countEvt_saf (d : Dev) (off : Nat) : (d.countEvt off).saf = d.saf := by
  have h := congrArg Dev.saf (d.countEvt_rest off); exact h
@[simp] theorem Dev.countEvt_xq (d : Dev) (off : Nat) : (d.countEvt off).xq = d.xq := by
  have h := congrArg Dev.xq (d.countEvt_rest off); exact h
@[simp] theorem Dev.countEvt_doc (d : Dev) (off : Nat) : (d.countEvt off).doc = d.doc := by
  have h := congrArg Dev.doc (d.countEvt_rest off); exact h
@[simp] theorem Dev.countEvt_gals (d : Dev) (off : Nat) : (d.countEvt off).gals = d.gals := by
  have h := congrArg Dev.gals (d.countEvt_rest off); exact h
@[simp] theorem Dev.countEvt_sfl (d : Dev) (off : Nat) : (d.countEvt off).sfl = d.sfl := by
  have h := congrArg Dev.sfl (d.countEvt_rest off); exact h
@[simp] theorem Dev.countEvt_exc (d : Dev) (off : Nat) : (d.countEvt off).exc = d.exc := by
  have h := congrArg Dev.exc (d.countEvt_rest off); exact h
@[simp] theorem Dev.countEvt_fol (d : Dev) (off : Nat) : (d.countEvt off).fol = d.fol := by
  have h := congrArg Dev.fol (d.countEvt_rest off); exact h
@[simp] theorem Dev.countEvt_dma (d : Dev) (off : Nat) : (d.countEvt off).dma = d.dma := by
  have h := congrArg Dev.dma (d.countEvt_rest off); exact h
@[simp] theorem Dev.countEvt_prv (d : Dev) (off : Nat) : (d.countEvt off).prv = d.prv := by
  have h := congrArg Dev.prv (d.countEvt_rest off); exact h
@[simp] theorem Dev.countEvt_cat (d : Dev) (off : Nat) : (d.countEvt off).cat = d.cat := by
  have h := congrArg Dev.cat (d.countEvt_rest off); exact h
@[simp] theorem Dev.countEvt_vol (d : Dev) (off : Nat) : (d.countEvt off).vol = d.vol := by
  have h := congrArg Dev.vol (d.countEvt_rest off); exact h
@[simp] theorem Dev.countEvt_acc (d : Dev) (off : Nat) : (d.countEvt off).acc = d.acc := by
  have h := congrArg Dev.acc (d.countEvt_rest off); exact h
@[simp] theorem Dev.countEvt_pwr (d : Dev) (off : Nat) : (d.countEvt off).pwr = d.pwr := by
  have h := congrArg Dev.pwr (d.countEvt_rest off); exact h
@[simp] theorem Dev.countEvt_cfg (d : Dev) (off : Nat) : (d.countEvt off).cfg = d.cfg := by
  have h := congrArg Dev.cfg (d.countEvt_rest off); exact h
@[simp] theorem Dev.countEvt_firmware (d : Dev) (off : Nat) : (d.countEvt off).firmware = d.firmware := by
  have h := congrArg Dev.firmware (d.countEvt_rest off); exact h
@[simp] theorem Dev.countEvt_phy (d : Dev) (off : Nat) : (d.countEvt off).phy = d.phy := by
  have h := congrArg Dev.phy (d.countEvt_rest off); exact h
@[simp] theorem Dev.countEvt_mgmt (d : Dev) (off : Nat) : (d.countEvt off).mgmt = d.mgmt := by
  have h := congrArg Dev.mgmt (d.countEvt_rest off); exact h
@[simp] theorem Dev.countEvt_fresh (d : Dev) (off : Nat) : (d.countEvt off).fresh = d.fresh := by
  have h := congrArg Dev.fresh (d.countEvt_rest off); exact h

@[simp] theorem Dev.core_count (d : Dev) (off k p : Nat) : (d.count off k).core p = d.core p := by simp [Dev.core]
@[simp] theorem Dev.core_raiseEvent (d : Dev) (n p : Nat) : (d.raiseEvent n).core p = d.core p := by simp [Dev.core]
@[simp] theorem Dev.inst_count (d : Dev) (off k i : Nat) : (d.count off k).inst i = d.inst i := by simp [Dev.inst]
@[simp] theorem Dev.chan_count (d : Dev) (off k c : Nat) : (d.count off k).chan c = d.chan c := by simp [Dev.chan]
@[simp] theorem Dev.core_setReg (d : Dev) (off p : Nat) (v : Word) : (d.setReg off v).core p = d.core p := rfl

end Sys2Proof.Machine
end

