-- ==== Sys2Proof/Laws/Frames.lean ====
section
/-!
SUPPORT. The fields that the operations built on the updates leave alone: logging, fencing, partners, violations, host errors, memory requests,
held writes, completion of a host command.
-/

set_option Elab.async false

namespace Sys2Proof.Machine

@[simp] theorem Dev.logEvent_regs (d : Dev) (t : Word) (k i st : Nat) (bs : Bytes) : (d.logEvent t k i st bs).regs = d.regs := by
  unfold Dev.logEvent; (try simp only []); (repeat' split) <;> first | (simp; done) | rfl | (simp; rfl)
@[simp] theorem Dev.logEvent_mem (d : Dev) (t : Word) (k i st : Nat) (bs : Bytes) : (d.logEvent t k i st bs).mem = d.mem := by
  unfold Dev.logEvent; (try simp only []); (repeat' split) <;> first | (simp; done) | rfl | (simp; rfl)
@[simp] theorem Dev.logEvent_freezeLog (d : Dev) (t : Word) (k i st : Nat) (bs : Bytes) : (d.logEvent t k i st bs).freezeLog = d.freezeLog := by
  unfold Dev.logEvent; (try simp only []); (repeat' split) <;> first | (simp; done) | rfl | (simp; rfl)
@[simp] theorem Dev.logEvent_evt (d : Dev) (t : Word) (k i st : Nat) (bs : Bytes) : (d.logEvent t k i st bs).evt = d.evt := by
  unfold Dev.logEvent; (try simp only []); (repeat' split) <;> first | (simp; done) | rfl | (simp; rfl)
@[simp] theorem Dev.logEvent_ins (d : Dev) (t : Word) (k i st : Nat) (bs : Bytes) : (d.logEvent t k i st bs).ins = d.ins := by
  unfold Dev.logEvent; (try simp only []); (repeat' split) <;> first | (simp; done) | rfl | (simp; rfl)
@[simp] theorem Dev.logEvent_dram (d : Dev) (t : Word) (k i st : Nat) (bs : Bytes) : (d.logEvent t k i st bs).dram = d.dram := by
  unfold Dev.logEvent; (try simp only []); (repeat' split) <;> first | (simp; done) | rfl | (simp; rfl)
@[simp] theorem Dev.logEvent_saf (d : Dev) (t : Word) (k i st : Nat) (bs : Bytes) : (d.logEvent t k i st bs).saf = d.saf := by
  unfold Dev.logEvent; (try simp only []); (repeat' split) <;> first | (simp; done) | rfl | (simp; rfl)
@[simp] theorem Dev.logEvent_xq (d : Dev) (t : Word) (k i st : Nat) (bs : Bytes) : (d.logEvent t k i st bs).xq = d.xq := by
  unfold Dev.logEvent; (try simp only []); (repeat' split) <;> first | (simp; done) | rfl | (simp; rfl)
@[simp] theorem Dev.logEvent_doc (d : Dev) (t : Word) (k i st : Nat) (bs : Bytes) : (d.logEvent t k i st bs).doc = d.doc := by
  unfold Dev.logEvent; (try simp only []); (repeat' split) <;> first | (simp; done) | rfl | (simp; rfl)
@[simp] theorem Dev.logEvent_gals (d : Dev) (t : Word) (k i st : Nat) (bs : Bytes) : (d.logEvent t k i st bs).gals = d.gals := by
  unfold Dev.logEvent; (try simp only []); (repeat' split) <;> first | (simp; done) | rfl | (simp; rfl)
@[simp] theorem Dev.logEvent_sfl (d : Dev) (t : Word) (k i st : Nat) (bs : Bytes) : (d.logEvent t k i st bs).sfl = d.sfl := by
  unfold Dev.logEvent; (try simp only []); (repeat' split) <;> first | (simp; done) | rfl | (simp; rfl)
@[simp] theorem Dev.logEvent_exc (d : Dev) (t : Word) (k i st : Nat) (bs : Bytes) : (d.logEvent t k i st bs).exc = d.exc := by
  unfold Dev.logEvent; (try simp only []); (repeat' split) <;> first | (simp; done) | rfl | (simp; rfl)
@[simp] theorem Dev.logEvent_fol (d : Dev) (t : Word) (k i st : Nat) (bs : Bytes) : (d.logEvent t k i st bs).fol = d.fol := by
  unfold Dev.logEvent; (try simp only []); (repeat' split) <;> first | (simp; done) | rfl | (simp; rfl)
@[simp] theorem Dev.logEvent_dma (d : Dev) (t : Word) (k i st : Nat) (bs : Bytes) : (d.logEvent t k i st bs).dma = d.dma := by
  unfold Dev.logEvent; (try simp only []); (repeat' split) <;> first | (simp; done) | rfl | (simp; rfl)
@[simp] theorem Dev.logEvent_prv (d : Dev) (t : Word) (k i st : Nat) (bs : Bytes) : (d.logEvent t k i st bs).prv = d.prv := by
  unfold Dev.logEvent; (try simp only []); (repeat' split) <;> first | (simp; done) | rfl | (simp; rfl)
@[simp] theorem Dev.logEvent_cat (d : Dev) (t : Word) (k i st : Nat) (bs : Bytes) : (d.logEvent t k i st bs).cat = d.cat := by
  unfold Dev.logEvent; (try simp only []); (repeat' split) <;> first | (simp; done) | rfl | (simp; rfl)
@[simp] theorem Dev.logEvent_vol (d : Dev) (t : Word) (k i st : Nat) (bs : Bytes) : (d.logEvent t k i st bs).vol = d.vol := by
  unfold Dev.logEvent; (try simp only []); (repeat' split) <;> first | (simp; done) | rfl | (simp; rfl)
@[simp] theorem Dev.logEvent_acc (d : Dev) (t : Word) (k i st : Nat) (bs : Bytes) : (d.logEvent t k i st bs).acc = d.acc := by
  unfold Dev.logEvent; (try simp only []); (repeat' split) <;> first | (simp; done) | rfl | (simp; rfl)
@[simp] theorem Dev.logEvent_pwr (d : Dev) (t : Word) (k i st : Nat) (bs : Bytes) : (d.logEvent t k i st bs).pwr = d.pwr := by
  unfold Dev.logEvent; (try simp only []); (repeat' split) <;> first | (simp; done) | rfl | (simp; rfl)
@[simp] theorem Dev.logEvent_cfg (d : Dev) (t : Word) (k i st : Nat) (bs : Bytes) : (d.logEvent t k i st bs).cfg = d.cfg := by
  unfold Dev.logEvent; (try simp only []); (repeat' split) <;> first | (simp; done) | rfl | (simp; rfl)
@[simp] theorem Dev.logEvent_firmware (d : Dev) (t : Word) (k i st : Nat) (bs : Bytes) : (d.logEvent t k i st bs).firmware = d.firmware := by
  unfold Dev.logEvent; (try simp only []); (repeat' split) <;> first | (simp; done) | rfl | (simp; rfl)
@[simp] theorem Dev.logEvent_phy (d : Dev) (t : Word) (k i st : Nat) (bs : Bytes) : (d.logEvent t k i st bs).phy = d.phy := by
  unfold Dev.logEvent; (try simp only []); (repeat' split) <;> first | (simp; done) | rfl | (simp; rfl)
@[simp] theorem Dev.logEvent_mgmt (d : Dev) (t : Word) (k i st : Nat) (bs : Bytes) : (d.logEvent t k i st bs).mgmt = d.mgmt := by
  unfold Dev.logEvent; (try simp only []); (repeat' split) <;> first | (simp; done) | rfl | (simp; rfl)
@[simp] theorem Dev.logEvent_fresh (d : Dev) (t : Word) (k i st : Nat) (bs : Bytes) : (d.logEvent t k i st bs).fresh = d.fresh := by
  unfold Dev.logEvent; (try simp only []); (repeat' split) <;> first | (simp; done) | rfl | (simp; rfl)
@[simp] theorem Dev.setDegraded_mem (d : Dev) (t : Word) (want : Bool) (b u : Nat) : (d.setDegraded t want b u).mem = d.mem := by
  unfold Dev.setDegraded; (try simp only []); (repeat' split) <;> first | (simp; done) | rfl | (simp; rfl)
@[simp] theorem Dev.setDegraded_freezeLog (d : Dev) (t : Word) (want : Bool) (b u : Nat) : (d.setDegraded t want b u).freezeLog = d.freezeLog := by
  unfold Dev.setDegraded; (try simp only []); (repeat' split) <;> first | (simp; done) | rfl | (simp; rfl)
@[simp] theorem Dev.setDegraded_ins (d : Dev) (t : Word) (want : Bool) (b u : Nat) : (d.setDegraded t want b u).ins = d.ins := by
  unfold Dev.setDegraded; (try simp only []); (repeat' split) <;> first | (simp; done) | rfl | (simp; rfl)
@[simp] theorem Dev.setDegraded_dram (d : Dev) (t : Word) (want : Bool) (b u : Nat) : (d.setDegraded t want b u).dram = d.dram := by
  unfold Dev.setDegraded; (try simp only []); (repeat' split) <;> first | (simp; done) | rfl | (simp; rfl)
@[simp] theorem Dev.setDegraded_saf (d : Dev) (t : Word) (want : Bool) (b u : Nat) : (d.setDegraded t want b u).saf = d.saf := by
  unfold Dev.setDegraded; (try simp only []); (repeat' split) <;> first | (simp; done) | rfl | (simp; rfl)
@[simp] theorem Dev.setDegraded_xq (d : Dev) (t : Word) (want : Bool) (b u : Nat) : (d.setDegraded t want b u).xq = d.xq := by
  unfold Dev.setDegraded; (try simp only []); (repeat' split) <;> first | (simp; done) | rfl | (simp; rfl)
@[simp] theorem Dev.setDegraded_doc (d : Dev) (t : Word) (want : Bool) (b u : Nat) : (d.setDegraded t want b u).doc = d.doc := by
  unfold Dev.setDegraded; (try simp only []); (repeat' split) <;> first | (simp; done) | rfl | (simp; rfl)
@[simp] theorem Dev.setDegraded_gals (d : Dev) (t : Word) (want : Bool) (b u : Nat) : (d.setDegraded t want b u).gals = d.gals := by
  unfold Dev.setDegraded; (try simp only []); (repeat' split) <;> first | (simp; done) | rfl | (simp; rfl)
@[simp] theorem Dev.setDegraded_sfl (d : Dev) (t : Word) (want : Bool) (b u : Nat) : (d.setDegraded t want b u).sfl = d.sfl := by
  unfold Dev.setDegraded; (try simp only []); (repeat' split) <;> first | (simp; done) | rfl | (simp; rfl)
@[simp] theorem Dev.setDegraded_exc (d : Dev) (t : Word) (want : Bool) (b u : Nat) : (d.setDegraded t want b u).exc = d.exc := by
  unfold Dev.setDegraded; (try simp only []); (repeat' split) <;> first | (simp; done) | rfl | (simp; rfl)
@[simp] theorem Dev.setDegraded_fol (d : Dev) (t : Word) (want : Bool) (b u : Nat) : (d.setDegraded t want b u).fol = d.fol := by
  unfold Dev.setDegraded; (try simp only []); (repeat' split) <;> first | (simp; done) | rfl | (simp; rfl)
@[simp] theorem Dev.setDegraded_dma (d : Dev) (t : Word) (want : Bool) (b u : Nat) : (d.setDegraded t want b u).dma = d.dma := by
  unfold Dev.setDegraded; (try simp only []); (repeat' split) <;> first | (simp; done) | rfl | (simp; rfl)
@[simp] theorem Dev.setDegraded_prv (d : Dev) (t : Word) (want : Bool) (b u : Nat) : (d.setDegraded t want b u).prv = d.prv := by
  unfold Dev.setDegraded; (try simp only []); (repeat' split) <;> first | (simp; done) | rfl | (simp; rfl)
@[simp] theorem Dev.setDegraded_cat (d : Dev) (t : Word) (want : Bool) (b u : Nat) : (d.setDegraded t want b u).cat = d.cat := by
  unfold Dev.setDegraded; (try simp only []); (repeat' split) <;> first | (simp; done) | rfl | (simp; rfl)
@[simp] theorem Dev.setDegraded_vol (d : Dev) (t : Word) (want : Bool) (b u : Nat) : (d.setDegraded t want b u).vol = d.vol := by
  unfold Dev.setDegraded; (try simp only []); (repeat' split) <;> first | (simp; done) | rfl | (simp; rfl)
@[simp] theorem Dev.setDegraded_acc (d : Dev) (t : Word) (want : Bool) (b u : Nat) : (d.setDegraded t want b u).acc = d.acc := by
  unfold Dev.setDegraded; (try simp only []); (repeat' split) <;> first | (simp; done) | rfl | (simp; rfl)
@[simp] theorem Dev.setDegraded_pwr (d : Dev) (t : Word) (want : Bool) (b u : Nat) : (d.setDegraded t want b u).pwr = d.pwr := by
  unfold Dev.setDegraded; (try simp only []); (repeat' split) <;> first | (simp; done) | rfl | (simp; rfl)
@[simp] theorem Dev.setDegraded_cfg (d : Dev) (t : Word) (want : Bool) (b u : Nat) : (d.setDegraded t want b u).cfg = d.cfg := by
  unfold Dev.setDegraded; (try simp only []); (repeat' split) <;> first | (simp; done) | rfl | (simp; rfl)
@[simp] theorem Dev.setDegraded_firmware (d : Dev) (t : Word) (want : Bool) (b u : Nat) : (d.setDegraded t want b u).firmware = d.firmware := by
  unfold Dev.setDegraded; (try simp only []); (repeat' split) <;> first | (simp; done) | rfl | (simp; rfl)
@[simp] theorem Dev.setDegraded_phy (d : Dev) (t : Word) (want : Bool) (b u : Nat) : (d.setDegraded t want b u).phy = d.phy := by
  unfold Dev.setDegraded; (try simp only []); (repeat' split) <;> first | (simp; done) | rfl | (simp; rfl)
@[simp] theorem Dev.setDegraded_fresh (d : Dev) (t : Word) (want : Bool) (b u : Nat) : (d.setDegraded t want b u).fresh = d.fresh := by
  unfold Dev.setDegraded; (try simp only []); (repeat' split) <;> first | (simp; done) | rfl | (simp; rfl)
@[simp] theorem Dev.degraded_mem (d : Dev) (c : CoreSt) (b u : Nat) : (d.degraded c b u).mem = d.mem := by
  unfold Dev.degraded; (try simp only []); (repeat' split) <;> first | (simp; done) | rfl | (simp; rfl)
@[simp] theorem Dev.degraded_freezeLog (d : Dev) (c : CoreSt) (b u : Nat) : (d.degraded c b u).freezeLog = d.freezeLog := by
  unfold Dev.degraded; (try simp only []); (repeat' split) <;> first | (simp; done) | rfl | (simp; rfl)
@[simp] theorem Dev.degraded_ins (d : Dev) (c : CoreSt) (b u : Nat) : (d.degraded c b u).ins = d.ins := by
  unfold Dev.degraded; (try simp only []); (repeat' split) <;> first | (simp; done) | rfl | (simp; rfl)
@[simp] theorem Dev.degraded_dram (d : Dev) (c : CoreSt) (b u : Nat) : (d.degraded c b u).dram = d.dram := by
  unfold Dev.degraded; (try simp only []); (repeat' split) <;> first | (simp; done) | rfl | (simp; rfl)
@[simp] theorem Dev.degraded_saf (d : Dev) (c : CoreSt) (b u : Nat) : (d.degraded c b u).saf = d.saf := by
  unfold Dev.degraded; (try simp only []); (repeat' split) <;> first | (simp; done) | rfl | (simp; rfl)
@[simp] theorem Dev.degraded_xq (d : Dev) (c : CoreSt) (b u : Nat) : (d.degraded c b u).xq = d.xq := by
  unfold Dev.degraded; (try simp only []); (repeat' split) <;> first | (simp; done) | rfl | (simp; rfl)
@[simp] theorem Dev.degraded_doc (d : Dev) (c : CoreSt) (b u : Nat) : (d.degraded c b u).doc = d.doc := by
  unfold Dev.degraded; (try simp only []); (repeat' split) <;> first | (simp; done) | rfl | (simp; rfl)
@[simp] theorem Dev.degraded_gals (d : Dev) (c : CoreSt) (b u : Nat) : (d.degraded c b u).gals = d.gals := by
  unfold Dev.degraded; (try simp only []); (repeat' split) <;> first | (simp; done) | rfl | (simp; rfl)
@[simp] theorem Dev.degraded_sfl (d : Dev) (c : CoreSt) (b u : Nat) : (d.degraded c b u).sfl = d.sfl := by
  unfold Dev.degraded; (try simp only []); (repeat' split) <;> first | (simp; done) | rfl | (simp; rfl)
@[simp] theorem Dev.degraded_exc (d : Dev) (c : CoreSt) (b u : Nat) : (d.degraded c b u).exc = d.exc := by
  unfold Dev.degraded; (try simp only []); (repeat' split) <;> first | (simp; done) | rfl | (simp; rfl)
@[simp] theorem Dev.degraded_fol (d : Dev) (c : CoreSt) (b u : Nat) : (d.degraded c b u).fol = d.fol := by
  unfold Dev.degraded; (try simp only []); (repeat' split) <;> first | (simp; done) | rfl | (simp; rfl)
@[simp] theorem Dev.degraded_dma (d : Dev) (c : CoreSt) (b u : Nat) : (d.degraded c b u).dma = d.dma := by
  unfold Dev.degraded; (try simp only []); (repeat' split) <;> first | (simp; done) | rfl | (simp; rfl)
@[simp] theorem Dev.degraded_prv (d : Dev) (c : CoreSt) (b u : Nat) : (d.degraded c b u).prv = d.prv := by
  unfold Dev.degraded; (try simp only []); (repeat' split) <;> first | (simp; done) | rfl | (simp; rfl)
@[simp] theorem Dev.degraded_cat (d : Dev) (c : CoreSt) (b u : Nat) : (d.degraded c b u).cat = d.cat := by
  unfold Dev.degraded; (try simp only []); (repeat' split) <;> first | (simp; done) | rfl | (simp; rfl)
@[simp] theorem Dev.degraded_vol (d : Dev) (c : CoreSt) (b u : Nat) : (d.degraded c b u).vol = d.vol := by
  unfold Dev.degraded; (try simp only []); (repeat' split) <;> first | (simp; done) | rfl | (simp; rfl)
@[simp] theorem Dev.degraded_acc (d : Dev) (c : CoreSt) (b u : Nat) : (d.degraded c b u).acc = d.acc := by
  unfold Dev.degraded; (try simp only []); (repeat' split) <;> first | (simp; done) | rfl | (simp; rfl)
@[simp] theorem Dev.degraded_pwr (d : Dev) (c : CoreSt) (b u : Nat) : (d.degraded c b u).pwr = d.pwr := by
  unfold Dev.degraded; (try simp only []); (repeat' split) <;> first | (simp; done) | rfl | (simp; rfl)
@[simp] theorem Dev.degraded_cfg (d : Dev) (c : CoreSt) (b u : Nat) : (d.degraded c b u).cfg = d.cfg := by
  unfold Dev.degraded; (try simp only []); (repeat' split) <;> first | (simp; done) | rfl | (simp; rfl)
@[simp] theorem Dev.degraded_firmware (d : Dev) (c : CoreSt) (b u : Nat) : (d.degraded c b u).firmware = d.firmware := by
  unfold Dev.degraded; (try simp only []); (repeat' split) <;> first | (simp; done) | rfl | (simp; rfl)
@[simp] theorem Dev.degraded_phy (d : Dev) (c : CoreSt) (b u : Nat) : (d.degraded c b u).phy = d.phy := by
  unfold Dev.degraded; (try simp only []); (repeat' split) <;> first | (simp; done) | rfl | (simp; rfl)
@[simp] theorem Dev.degraded_fresh (d : Dev) (c : CoreSt) (b u : Nat) : (d.degraded c b u).fresh = d.fresh := by
  unfold Dev.degraded; (try simp only []); (repeat' split) <;> first | (simp; done) | rfl | (simp; rfl)
@[simp] theorem Dev.fence_mem (d : Dev) (c : CoreSt) (b u : Nat) : (d.fence c b u).mem = d.mem := by
  unfold Dev.fence; (try simp only []); (repeat' split) <;> first | (simp; done) | rfl | (simp; rfl)
@[simp] theorem Dev.fence_freezeLog (d : Dev) (c : CoreSt) (b u : Nat) : (d.fence c b u).freezeLog = d.freezeLog := by
  unfold Dev.fence; (try simp only []); (repeat' split) <;> first | (simp; done) | rfl | (simp; rfl)
@[simp] theorem Dev.fence_ins (d : Dev) (c : CoreSt) (b u : Nat) : (d.fence c b u).ins = d.ins := by
  unfold Dev.fence; (try simp only []); (repeat' split) <;> first | (simp; done) | rfl | (simp; rfl)
@[simp] theorem Dev.fence_dram (d : Dev) (c : CoreSt) (b u : Nat) : (d.fence c b u).dram = d.dram := by
  unfold Dev.fence; (try simp only []); (repeat' split) <;> first | (simp; done) | rfl | (simp; rfl)
@[simp] theorem Dev.fence_xq (d : Dev) (c : CoreSt) (b u : Nat) : (d.fence c b u).xq = d.xq := by
  unfold Dev.fence; (try simp only []); (repeat' split) <;> first | (simp; done) | rfl | (simp; rfl)
@[simp] theorem Dev.fence_doc (d : Dev) (c : CoreSt) (b u : Nat) : (d.fence c b u).doc = d.doc := by
  unfold Dev.fence; (try simp only []); (repeat' split) <;> first | (simp; done) | rfl | (simp; rfl)
@[simp] theorem Dev.fence_gals (d : Dev) (c : CoreSt) (b u : Nat) : (d.fence c b u).gals = d.gals := by
  unfold Dev.fence; (try simp only []); (repeat' split) <;> first | (simp; done) | rfl | (simp; rfl)
@[simp] theorem Dev.fence_sfl (d : Dev) (c : CoreSt) (b u : Nat) : (d.fence c b u).sfl = d.sfl := by
  unfold Dev.fence; (try simp only []); (repeat' split) <;> first | (simp; done) | rfl | (simp; rfl)
@[simp] theorem Dev.fence_exc (d : Dev) (c : CoreSt) (b u : Nat) : (d.fence c b u).exc = d.exc := by
  unfold Dev.fence; (try simp only []); (repeat' split) <;> first | (simp; done) | rfl | (simp; rfl)
@[simp] theorem Dev.fence_fol (d : Dev) (c : CoreSt) (b u : Nat) : (d.fence c b u).fol = d.fol := by
  unfold Dev.fence; (try simp only []); (repeat' split) <;> first | (simp; done) | rfl | (simp; rfl)
@[simp] theorem Dev.fence_dma (d : Dev) (c : CoreSt) (b u : Nat) : (d.fence c b u).dma = d.dma := by
  unfold Dev.fence; (try simp only []); (repeat' split) <;> first | (simp; done) | rfl | (simp; rfl)
@[simp] theorem Dev.fence_prv (d : Dev) (c : CoreSt) (b u : Nat) : (d.fence c b u).prv = d.prv := by
  unfold Dev.fence; (try simp only []); (repeat' split) <;> first | (simp; done) | rfl | (simp; rfl)
@[simp] theorem Dev.fence_cat (d : Dev) (c : CoreSt) (b u : Nat) : (d.fence c b u).cat = d.cat := by
  unfold Dev.fence; (try simp only []); (repeat' split) <;> first | (simp; done) | rfl | (simp; rfl)
@[simp] theorem Dev.fence_vol (d : Dev) (c : CoreSt) (b u : Nat) : (d.fence c b u).vol = d.vol := by
  unfold Dev.fence; (try simp only []); (repeat' split) <;> first | (simp; done) | rfl | (simp; rfl)
@[simp] theorem Dev.fence_acc (d : Dev) (c : CoreSt) (b u : Nat) : (d.fence c b u).acc = d.acc := by
  unfold Dev.fence; (try simp only []); (repeat' split) <;> first | (simp; done) | rfl | (simp; rfl)
@[simp] theorem Dev.fence_pwr (d : Dev) (c : CoreSt) (b u : Nat) : (d.fence c b u).pwr = d.pwr := by
  unfold Dev.fence; (try simp only []); (repeat' split) <;> first | (simp; done) | rfl | (simp; rfl)
@[simp] theorem Dev.fence_cfg (d : Dev) (c : CoreSt) (b u : Nat) : (d.fence c b u).cfg = d.cfg := by
  unfold Dev.fence; (try simp only []); (repeat' split) <;> first | (simp; done) | rfl | (simp; rfl)
@[simp] theorem Dev.fence_firmware (d : Dev) (c : CoreSt) (b u : Nat) : (d.fence c b u).firmware = d.firmware := by
  unfold Dev.fence; (try simp only []); (repeat' split) <;> first | (simp; done) | rfl | (simp; rfl)
@[simp] theorem Dev.fence_phy (d : Dev) (c : CoreSt) (b u : Nat) : (d.fence c b u).phy = d.phy := by
  unfold Dev.fence; (try simp only []); (repeat' split) <;> first | (simp; done) | rfl | (simp; rfl)
@[simp] theorem Dev.fence_fresh (d : Dev) (c : CoreSt) (b u : Nat) : (d.fence c b u).fresh = d.fresh := by
  unfold Dev.fence; (try simp only []); (repeat' split) <;> first | (simp; done) | rfl | (simp; rfl)
@[simp] theorem Dev.unfence_mem (d : Dev) (c : CoreSt) (b u : Nat) : (d.unfence c b u).mem = d.mem := by
  unfold Dev.unfence; (try simp only []); (repeat' split) <;> first | (simp; done) | rfl | (simp; rfl)
@[simp] theorem Dev.unfence_freezeLog (d : Dev) (c : CoreSt) (b u : Nat) : (d.unfence c b u).freezeLog = d.freezeLog := by
  unfold Dev.unfence; (try simp only []); (repeat' split) <;> first | (simp; done) | rfl | (simp; rfl)
@[simp] theorem Dev.unfence_ins (d : Dev) (c : CoreSt) (b u : Nat) : (d.unfence c b u).ins = d.ins := by
  unfold Dev.unfence; (try simp only []); (repeat' split) <;> first | (simp; done) | rfl | (simp; rfl)
@[simp] theorem Dev.unfence_dram (d : Dev) (c : CoreSt) (b u : Nat) : (d.unfence c b u).dram = d.dram := by
  unfold Dev.unfence; (try simp only []); (repeat' split) <;> first | (simp; done) | rfl | (simp; rfl)
@[simp] theorem Dev.unfence_xq (d : Dev) (c : CoreSt) (b u : Nat) : (d.unfence c b u).xq = d.xq := by
  unfold Dev.unfence; (try simp only []); (repeat' split) <;> first | (simp; done) | rfl | (simp; rfl)
@[simp] theorem Dev.unfence_doc (d : Dev) (c : CoreSt) (b u : Nat) : (d.unfence c b u).doc = d.doc := by
  unfold Dev.unfence; (try simp only []); (repeat' split) <;> first | (simp; done) | rfl | (simp; rfl)
@[simp] theorem Dev.unfence_gals (d : Dev) (c : CoreSt) (b u : Nat) : (d.unfence c b u).gals = d.gals := by
  unfold Dev.unfence; (try simp only []); (repeat' split) <;> first | (simp; done) | rfl | (simp; rfl)
@[simp] theorem Dev.unfence_sfl (d : Dev) (c : CoreSt) (b u : Nat) : (d.unfence c b u).sfl = d.sfl := by
  unfold Dev.unfence; (try simp only []); (repeat' split) <;> first | (simp; done) | rfl | (simp; rfl)
@[simp] theorem Dev.unfence_exc (d : Dev) (c : CoreSt) (b u : Nat) : (d.unfence c b u).exc = d.exc := by
  unfold Dev.unfence; (try simp only []); (repeat' split) <;> first | (simp; done) | rfl | (simp; rfl)
@[simp] theorem Dev.unfence_fol (d : Dev) (c : CoreSt) (b u : Nat) : (d.unfence c b u).fol = d.fol := by
  unfold Dev.unfence; (try simp only []); (repeat' split) <;> first | (simp; done) | rfl | (simp; rfl)
@[simp] theorem Dev.unfence_dma (d : Dev) (c : CoreSt) (b u : Nat) : (d.unfence c b u).dma = d.dma := by
  unfold Dev.unfence; (try simp only []); (repeat' split) <;> first | (simp; done) | rfl | (simp; rfl)
@[simp] theorem Dev.unfence_prv (d : Dev) (c : CoreSt) (b u : Nat) : (d.unfence c b u).prv = d.prv := by
  unfold Dev.unfence; (try simp only []); (repeat' split) <;> first | (simp; done) | rfl | (simp; rfl)
@[simp] theorem Dev.unfence_cat (d : Dev) (c : CoreSt) (b u : Nat) : (d.unfence c b u).cat = d.cat := by
  unfold Dev.unfence; (try simp only []); (repeat' split) <;> first | (simp; done) | rfl | (simp; rfl)
@[simp] theorem Dev.unfence_vol (d : Dev) (c : CoreSt) (b u : Nat) : (d.unfence c b u).vol = d.vol := by
  unfold Dev.unfence; (try simp only []); (repeat' split) <;> first | (simp; done) | rfl | (simp; rfl)
@[simp] theorem Dev.unfence_acc (d : Dev) (c : CoreSt) (b u : Nat) : (d.unfence c b u).acc = d.acc := by
  unfold Dev.unfence; (try simp only []); (repeat' split) <;> first | (simp; done) | rfl | (simp; rfl)
@[simp] theorem Dev.unfence_pwr (d : Dev) (c : CoreSt) (b u : Nat) : (d.unfence c b u).pwr = d.pwr := by
  unfold Dev.unfence; (try simp only []); (repeat' split) <;> first | (simp; done) | rfl | (simp; rfl)
@[simp] theorem Dev.unfence_cfg (d : Dev) (c : CoreSt) (b u : Nat) : (d.unfence c b u).cfg = d.cfg := by
  unfold Dev.unfence; (try simp only []); (repeat' split) <;> first | (simp; done) | rfl | (simp; rfl)
@[simp] theorem Dev.unfence_firmware (d : Dev) (c : CoreSt) (b u : Nat) : (d.unfence c b u).firmware = d.firmware := by
  unfold Dev.unfence; (try simp only []); (repeat' split) <;> first | (simp; done) | rfl | (simp; rfl)
@[simp] theorem Dev.unfence_phy (d : Dev) (c : CoreSt) (b u : Nat) : (d.unfence c b u).phy = d.phy := by
  unfold Dev.unfence; (try simp only []); (repeat' split) <;> first | (simp; done) | rfl | (simp; rfl)
@[simp] theorem Dev.unfence_fresh (d : Dev) (c : CoreSt) (b u : Nat) : (d.unfence c b u).fresh = d.fresh := by
  unfold Dev.unfence; (try simp only []); (repeat' split) <;> first | (simp; done) | rfl | (simp; rfl)
@[simp] theorem Dev.faultReport_mem (d : Dev) (c : CoreSt) (e : SafEntry) : (d.faultReport c e).mem = d.mem := by
  unfold Dev.faultReport; (try simp only []); (repeat' split) <;> first | (simp; done) | rfl | (simp; rfl)
@[simp] theorem Dev.faultReport_evLog (d : Dev) (c : CoreSt) (e : SafEntry) : (d.faultReport c e).evLog = d.evLog := by
  unfold Dev.faultReport; (try simp only []); (repeat' split) <;> first | (simp; done) | rfl | (simp; rfl)
@[simp] theorem Dev.faultReport_freezeLog (d : Dev) (c : CoreSt) (e : SafEntry) : (d.faultReport c e).freezeLog = d.freezeLog := by
  unfold Dev.faultReport; (try simp only []); (repeat' split) <;> first | (simp; done) | rfl | (simp; rfl)
@[simp] theorem Dev.faultReport_ins (d : Dev) (c : CoreSt) (e : SafEntry) : (d.faultReport c e).ins = d.ins := by
  unfold Dev.faultReport; (try simp only []); (repeat' split) <;> first | (simp; done) | rfl | (simp; rfl)
@[simp] theorem Dev.faultReport_dram (d : Dev) (c : CoreSt) (e : SafEntry) : (d.faultReport c e).dram = d.dram := by
  unfold Dev.faultReport; (try simp only []); (repeat' split) <;> first | (simp; done) | rfl | (simp; rfl)
@[simp] theorem Dev.faultReport_xq (d : Dev) (c : CoreSt) (e : SafEntry) : (d.faultReport c e).xq = d.xq := by
  unfold Dev.faultReport; (try simp only []); (repeat' split) <;> first | (simp; done) | rfl | (simp; rfl)
@[simp] theorem Dev.faultReport_doc (d : Dev) (c : CoreSt) (e : SafEntry) : (d.faultReport c e).doc = d.doc := by
  unfold Dev.faultReport; (try simp only []); (repeat' split) <;> first | (simp; done) | rfl | (simp; rfl)
@[simp] theorem Dev.faultReport_gals (d : Dev) (c : CoreSt) (e : SafEntry) : (d.faultReport c e).gals = d.gals := by
  unfold Dev.faultReport; (try simp only []); (repeat' split) <;> first | (simp; done) | rfl | (simp; rfl)
@[simp] theorem Dev.faultReport_sfl (d : Dev) (c : CoreSt) (e : SafEntry) : (d.faultReport c e).sfl = d.sfl := by
  unfold Dev.faultReport; (try simp only []); (repeat' split) <;> first | (simp; done) | rfl | (simp; rfl)
@[simp] theorem Dev.faultReport_exc (d : Dev) (c : CoreSt) (e : SafEntry) : (d.faultReport c e).exc = d.exc := by
  unfold Dev.faultReport; (try simp only []); (repeat' split) <;> first | (simp; done) | rfl | (simp; rfl)
@[simp] theorem Dev.faultReport_fol (d : Dev) (c : CoreSt) (e : SafEntry) : (d.faultReport c e).fol = d.fol := by
  unfold Dev.faultReport; (try simp only []); (repeat' split) <;> first | (simp; done) | rfl | (simp; rfl)
@[simp] theorem Dev.faultReport_dma (d : Dev) (c : CoreSt) (e : SafEntry) : (d.faultReport c e).dma = d.dma := by
  unfold Dev.faultReport; (try simp only []); (repeat' split) <;> first | (simp; done) | rfl | (simp; rfl)
@[simp] theorem Dev.faultReport_prv (d : Dev) (c : CoreSt) (e : SafEntry) : (d.faultReport c e).prv = d.prv := by
  unfold Dev.faultReport; (try simp only []); (repeat' split) <;> first | (simp; done) | rfl | (simp; rfl)
@[simp] theorem Dev.faultReport_cat (d : Dev) (c : CoreSt) (e : SafEntry) : (d.faultReport c e).cat = d.cat := by
  unfold Dev.faultReport; (try simp only []); (repeat' split) <;> first | (simp; done) | rfl | (simp; rfl)
@[simp] theorem Dev.faultReport_vol (d : Dev) (c : CoreSt) (e : SafEntry) : (d.faultReport c e).vol = d.vol := by
  unfold Dev.faultReport; (try simp only []); (repeat' split) <;> first | (simp; done) | rfl | (simp; rfl)
@[simp] theorem Dev.faultReport_acc (d : Dev) (c : CoreSt) (e : SafEntry) : (d.faultReport c e).acc = d.acc := by
  unfold Dev.faultReport; (try simp only []); (repeat' split) <;> first | (simp; done) | rfl | (simp; rfl)
@[simp] theorem Dev.faultReport_pwr (d : Dev) (c : CoreSt) (e : SafEntry) : (d.faultReport c e).pwr = d.pwr := by
  unfold Dev.faultReport; (try simp only []); (repeat' split) <;> first | (simp; done) | rfl | (simp; rfl)
@[simp] theorem Dev.faultReport_cfg (d : Dev) (c : CoreSt) (e : SafEntry) : (d.faultReport c e).cfg = d.cfg := by
  unfold Dev.faultReport; (try simp only []); (repeat' split) <;> first | (simp; done) | rfl | (simp; rfl)
@[simp] theorem Dev.faultReport_firmware (d : Dev) (c : CoreSt) (e : SafEntry) : (d.faultReport c e).firmware = d.firmware := by
  unfold Dev.faultReport; (try simp only []); (repeat' split) <;> first | (simp; done) | rfl | (simp; rfl)
@[simp] theorem Dev.faultReport_phy (d : Dev) (c : CoreSt) (e : SafEntry) : (d.faultReport c e).phy = d.phy := by
  unfold Dev.faultReport; (try simp only []); (repeat' split) <;> first | (simp; done) | rfl | (simp; rfl)
@[simp] theorem Dev.faultReport_mgmt (d : Dev) (c : CoreSt) (e : SafEntry) : (d.faultReport c e).mgmt = d.mgmt := by
  unfold Dev.faultReport; (try simp only []); (repeat' split) <;> first | (simp; done) | rfl | (simp; rfl)
@[simp] theorem Dev.faultReport_fresh (d : Dev) (c : CoreSt) (e : SafEntry) : (d.faultReport c e).fresh = d.fresh := by
  unfold Dev.faultReport; (try simp only []); (repeat' split) <;> first | (simp; done) | rfl | (simp; rfl)
@[simp] theorem Dev.fenceUnit_mem (d : Dev) (c : CoreSt) (m b u st : Nat) : (d.fenceUnit c m b u st).mem = d.mem := by
  unfold Dev.fenceUnit; (try simp only []); (repeat' split) <;> first | (simp; done) | rfl | (simp; rfl)
@[simp] theorem Dev.fenceUnit_freezeLog (d : Dev) (c : CoreSt) (m b u st : Nat) : (d.fenceUnit c m b u st).freezeLog = d.freezeLog := by
  unfold Dev.fenceUnit; (try simp only []); (repeat' split) <;> first | (simp; done) | rfl | (simp; rfl)
@[simp] theorem Dev.fenceUnit_ins (d : Dev) (c : CoreSt) (m b u st : Nat) : (d.fenceUnit c m b u st).ins = d.ins := by
  unfold Dev.fenceUnit; (try simp only []); (repeat' split) <;> first | (simp; done) | rfl | (simp; rfl)
@[simp] theorem Dev.fenceUnit_dram (d : Dev) (c : CoreSt) (m b u st : Nat) : (d.fenceUnit c m b u st).dram = d.dram := by
  unfold Dev.fenceUnit; (try simp only []); (repeat' split) <;> first | (simp; done) | rfl | (simp; rfl)
@[simp] theorem Dev.fenceUnit_xq (d : Dev) (c : CoreSt) (m b u st : Nat) : (d.fenceUnit c m b u st).xq = d.xq := by
  unfold Dev.fenceUnit; (try simp only []); (repeat' split) <;> first | (simp; done) | rfl | (simp; rfl)
@[simp] theorem Dev.fenceUnit_doc (d : Dev) (c : CoreSt) (m b u st : Nat) : (d.fenceUnit c m b u st).doc = d.doc := by
  unfold Dev.fenceUnit; (try simp only []); (repeat' split) <;> first | (simp; done) | rfl | (simp; rfl)
@[simp] theorem Dev.fenceUnit_gals (d : Dev) (c : CoreSt) (m b u st : Nat) : (d.fenceUnit c m b u st).gals = d.gals := by
  unfold Dev.fenceUnit; (try simp only []); (repeat' split) <;> first | (simp; done) | rfl | (simp; rfl)
@[simp] theorem Dev.fenceUnit_sfl (d : Dev) (c : CoreSt) (m b u st : Nat) : (d.fenceUnit c m b u st).sfl = d.sfl := by
  unfold Dev.fenceUnit; (try simp only []); (repeat' split) <;> first | (simp; done) | rfl | (simp; rfl)
@[simp] theorem Dev.fenceUnit_exc (d : Dev) (c : CoreSt) (m b u st : Nat) : (d.fenceUnit c m b u st).exc = d.exc := by
  unfold Dev.fenceUnit; (try simp only []); (repeat' split) <;> first | (simp; done) | rfl | (simp; rfl)
@[simp] theorem Dev.fenceUnit_fol (d : Dev) (c : CoreSt) (m b u st : Nat) : (d.fenceUnit c m b u st).fol = d.fol := by
  unfold Dev.fenceUnit; (try simp only []); (repeat' split) <;> first | (simp; done) | rfl | (simp; rfl)
@[simp] theorem Dev.fenceUnit_dma (d : Dev) (c : CoreSt) (m b u st : Nat) : (d.fenceUnit c m b u st).dma = d.dma := by
  unfold Dev.fenceUnit; (try simp only []); (repeat' split) <;> first | (simp; done) | rfl | (simp; rfl)
@[simp] theorem Dev.fenceUnit_prv (d : Dev) (c : CoreSt) (m b u st : Nat) : (d.fenceUnit c m b u st).prv = d.prv := by
  unfold Dev.fenceUnit; (try simp only []); (repeat' split) <;> first | (simp; done) | rfl | (simp; rfl)
@[simp] theorem Dev.fenceUnit_cat (d : Dev) (c : CoreSt) (m b u st : Nat) : (d.fenceUnit c m b u st).cat = d.cat := by
  unfold Dev.fenceUnit; (try simp only []); (repeat' split) <;> first | (simp; done) | rfl | (simp; rfl)
@[simp] theorem Dev.fenceUnit_vol (d : Dev) (c : CoreSt) (m b u st : Nat) : (d.fenceUnit c m b u st).vol = d.vol := by
  unfold Dev.fenceUnit; (try simp only []); (repeat' split) <;> first | (simp; done) | rfl | (simp; rfl)
@[simp] theorem Dev.fenceUnit_acc (d : Dev) (c : CoreSt) (m b u st : Nat) : (d.fenceUnit c m b u st).acc = d.acc := by
  unfold Dev.fenceUnit; (try simp only []); (repeat' split) <;> first | (simp; done) | rfl | (simp; rfl)
@[simp] theorem Dev.fenceUnit_pwr (d : Dev) (c : CoreSt) (m b u st : Nat) : (d.fenceUnit c m b u st).pwr = d.pwr := by
  unfold Dev.fenceUnit; (try simp only []); (repeat' split) <;> first | (simp; done) | rfl | (simp; rfl)
@[simp] theorem Dev.fenceUnit_cfg (d : Dev) (c : CoreSt) (m b u st : Nat) : (d.fenceUnit c m b u st).cfg = d.cfg := by
  unfold Dev.fenceUnit; (try simp only []); (repeat' split) <;> first | (simp; done) | rfl | (simp; rfl)
@[simp] theorem Dev.fenceUnit_firmware (d : Dev) (c : CoreSt) (m b u st : Nat) : (d.fenceUnit c m b u st).firmware = d.firmware := by
  unfold Dev.fenceUnit; (try simp only []); (repeat' split) <;> first | (simp; done) | rfl | (simp; rfl)
@[simp] theorem Dev.fenceUnit_phy (d : Dev) (c : CoreSt) (m b u st : Nat) : (d.fenceUnit c m b u st).phy = d.phy := by
  unfold Dev.fenceUnit; (try simp only []); (repeat' split) <;> first | (simp; done) | rfl | (simp; rfl)
@[simp] theorem Dev.fenceUnit_fresh (d : Dev) (c : CoreSt) (m b u st : Nat) : (d.fenceUnit c m b u st).fresh = d.fresh := by
  unfold Dev.fenceUnit; (try simp only []); (repeat' split) <;> first | (simp; done) | rfl | (simp; rfl)
@[simp] theorem Dev.memFlags_mem (d : Dev) : d.memFlags.mem = d.mem := by
  unfold Dev.memFlags; (try simp only []); (repeat' split) <;> first | (simp; done) | rfl | (simp; rfl)
@[simp] theorem Dev.memFlags_evLog (d : Dev) : d.memFlags.evLog = d.evLog := by
  unfold Dev.memFlags; (try simp only []); (repeat' split) <;> first | (simp; done) | rfl | (simp; rfl)
@[simp] theorem Dev.memFlags_freezeLog (d : Dev) : d.memFlags.freezeLog = d.freezeLog := by
  unfold Dev.memFlags; (try simp only []); (repeat' split) <;> first | (simp; done) | rfl | (simp; rfl)
@[simp] theorem Dev.memFlags_evt (d : Dev) : d.memFlags.evt = d.evt := by
  unfold Dev.memFlags; (try simp only []); (repeat' split) <;> first | (simp; done) | rfl | (simp; rfl)
@[simp] theorem Dev.memFlags_ins (d : Dev) : d.memFlags.ins = d.ins := by
  unfold Dev.memFlags; (try simp only []); (repeat' split) <;> first | (simp; done) | rfl | (simp; rfl)
@[simp] theorem Dev.memFlags_dram (d : Dev) : d.memFlags.dram = d.dram := by
  unfold Dev.memFlags; (try simp only []); (repeat' split) <;> first | (simp; done) | rfl | (simp; rfl)
@[simp] theorem Dev.memFlags_saf (d : Dev) : d.memFlags.saf = d.saf := by
  unfold Dev.memFlags; (try simp only []); (repeat' split) <;> first | (simp; done) | rfl | (simp; rfl)
@[simp] theorem Dev.memFlags_xq (d : Dev) : d.memFlags.xq = d.xq := by
  unfold Dev.memFlags; (try simp only []); (repeat' split) <;> first | (simp; done) | rfl | (simp; rfl)
@[simp] theorem Dev.memFlags_doc (d : Dev) : d.memFlags.doc = d.doc := by
  unfold Dev.memFlags; (try simp only []); (repeat' split) <;> first | (simp; done) | rfl | (simp; rfl)
@[simp] theorem Dev.memFlags_gals (d : Dev) : d.memFlags.gals = d.gals := by
  unfold Dev.memFlags; (try simp only []); (repeat' split) <;> first | (simp; done) | rfl | (simp; rfl)
@[simp] theorem Dev.memFlags_sfl (d : Dev) : d.memFlags.sfl = d.sfl := by
  unfold Dev.memFlags; (try simp only []); (repeat' split) <;> first | (simp; done) | rfl | (simp; rfl)
@[simp] theorem Dev.memFlags_exc (d : Dev) : d.memFlags.exc = d.exc := by
  unfold Dev.memFlags; (try simp only []); (repeat' split) <;> first | (simp; done) | rfl | (simp; rfl)
@[simp] theorem Dev.memFlags_fol (d : Dev) : d.memFlags.fol = d.fol := by
  unfold Dev.memFlags; (try simp only []); (repeat' split) <;> first | (simp; done) | rfl | (simp; rfl)
@[simp] theorem Dev.memFlags_dma (d : Dev) : d.memFlags.dma = d.dma := by
  unfold Dev.memFlags; (try simp only []); (repeat' split) <;> first | (simp; done) | rfl | (simp; rfl)
@[simp] theorem Dev.memFlags_prv (d : Dev) : d.memFlags.prv = d.prv := by
  unfold Dev.memFlags; (try simp only []); (repeat' split) <;> first | (simp; done) | rfl | (simp; rfl)
@[simp] theorem Dev.memFlags_cat (d : Dev) : d.memFlags.cat = d.cat := by
  unfold Dev.memFlags; (try simp only []); (repeat' split) <;> first | (simp; done) | rfl | (simp; rfl)
@[simp] theorem Dev.memFlags_vol (d : Dev) : d.memFlags.vol = d.vol := by
  unfold Dev.memFlags; (try simp only []); (repeat' split) <;> first | (simp; done) | rfl | (simp; rfl)
@[simp] theorem Dev.memFlags_acc (d : Dev) : d.memFlags.acc = d.acc := by
  unfold Dev.memFlags; (try simp only []); (repeat' split) <;> first | (simp; done) | rfl | (simp; rfl)
@[simp] theorem Dev.memFlags_pwr (d : Dev) : d.memFlags.pwr = d.pwr := by
  unfold Dev.memFlags; (try simp only []); (repeat' split) <;> first | (simp; done) | rfl | (simp; rfl)
@[simp] theorem Dev.memFlags_cfg (d : Dev) : d.memFlags.cfg = d.cfg := by
  unfold Dev.memFlags; (try simp only []); (repeat' split) <;> first | (simp; done) | rfl | (simp; rfl)
@[simp] theorem Dev.memFlags_firmware (d : Dev) : d.memFlags.firmware = d.firmware := by
  unfold Dev.memFlags; (try simp only []); (repeat' split) <;> first | (simp; done) | rfl | (simp; rfl)
@[simp] theorem Dev.memFlags_phy (d : Dev) : d.memFlags.phy = d.phy := by
  unfold Dev.memFlags; (try simp only []); (repeat' split) <;> first | (simp; done) | rfl | (simp; rfl)
@[simp] theorem Dev.memFlags_mgmt (d : Dev) : d.memFlags.mgmt = d.mgmt := by
  unfold Dev.memFlags; (try simp only []); (repeat' split) <;> first | (simp; done) | rfl | (simp; rfl)
@[simp] theorem Dev.memFlags_fresh (d : Dev) : d.memFlags.fresh = d.fresh := by
  unfold Dev.memFlags; (try simp only []); (repeat' split) <;> first | (simp; done) | rfl | (simp; rfl)
@[simp] theorem Dev.postError_mem (d : Dev) (p a r : Nat) : (d.postError p a r).mem = d.mem := by
  unfold Dev.postError; (try simp only []); (repeat' split) <;> first | (simp; done) | rfl | (simp; rfl)
@[simp] theorem Dev.postError_evLog (d : Dev) (p a r : Nat) : (d.postError p a r).evLog = d.evLog := by
  unfold Dev.postError; (try simp only []); (repeat' split) <;> first | (simp; done) | rfl | (simp; rfl)
@[simp] theorem Dev.postError_freezeLog (d : Dev) (p a r : Nat) : (d.postError p a r).freezeLog = d.freezeLog := by
  unfold Dev.postError; (try simp only []); (repeat' split) <;> first | (simp; done) | rfl | (simp; rfl)
@[simp] theorem Dev.postError_ins (d : Dev) (p a r : Nat) : (d.postError p a r).ins = d.ins := by
  unfold Dev.postError; (try simp only []); (repeat' split) <;> first | (simp; done) | rfl | (simp; rfl)
@[simp] theorem Dev.postError_dram (d : Dev) (p a r : Nat) : (d.postError p a r).dram = d.dram := by
  unfold Dev.postError; (try simp only []); (repeat' split) <;> first | (simp; done) | rfl | (simp; rfl)
@[simp] theorem Dev.postError_saf (d : Dev) (p a r : Nat) : (d.postError p a r).saf = d.saf := by
  unfold Dev.postError; (try simp only []); (repeat' split) <;> first | (simp; done) | rfl | (simp; rfl)
@[simp] theorem Dev.postError_xq (d : Dev) (p a r : Nat) : (d.postError p a r).xq = d.xq := by
  unfold Dev.postError; (try simp only []); (repeat' split) <;> first | (simp; done) | rfl | (simp; rfl)
@[simp] theorem Dev.postError_doc (d : Dev) (p a r : Nat) : (d.postError p a r).doc = d.doc := by
  unfold Dev.postError; (try simp only []); (repeat' split) <;> first | (simp; done) | rfl | (simp; rfl)
@[simp] theorem Dev.postError_sfl (d : Dev) (p a r : Nat) : (d.postError p a r).sfl = d.sfl := by
  unfold Dev.postError; (try simp only []); (repeat' split) <;> first | (simp; done) | rfl | (simp; rfl)
@[simp] theorem Dev.postError_exc (d : Dev) (p a r : Nat) : (d.postError p a r).exc = d.exc := by
  unfold Dev.postError; (try simp only []); (repeat' split) <;> first | (simp; done) | rfl | (simp; rfl)
@[simp] theorem Dev.postError_fol (d : Dev) (p a r : Nat) : (d.postError p a r).fol = d.fol := by
  unfold Dev.postError; (try simp only []); (repeat' split) <;> first | (simp; done) | rfl | (simp; rfl)
@[simp] theorem Dev.postError_dma (d : Dev) (p a r : Nat) : (d.postError p a r).dma = d.dma := by
  unfold Dev.postError; (try simp only []); (repeat' split) <;> first | (simp; done) | rfl | (simp; rfl)
@[simp] theorem Dev.postError_prv (d : Dev) (p a r : Nat) : (d.postError p a r).prv = d.prv := by
  unfold Dev.postError; (try simp only []); (repeat' split) <;> first | (simp; done) | rfl | (simp; rfl)
@[simp] theorem Dev.postError_cat (d : Dev) (p a r : Nat) : (d.postError p a r).cat = d.cat := by
  unfold Dev.postError; (try simp only []); (repeat' split) <;> first | (simp; done) | rfl | (simp; rfl)
@[simp] theorem Dev.postError_vol (d : Dev) (p a r : Nat) : (d.postError p a r).vol = d.vol := by
  unfold Dev.postError; (try simp only []); (repeat' split) <;> first | (simp; done) | rfl | (simp; rfl)
@[simp] theorem Dev.postError_acc (d : Dev) (p a r : Nat) : (d.postError p a r).acc = d.acc := by
  unfold Dev.postError; (try simp only []); (repeat' split) <;> first | (simp; done) | rfl | (simp; rfl)
@[simp] theorem Dev.postError_pwr (d : Dev) (p a r : Nat) : (d.postError p a r).pwr = d.pwr := by
  unfold Dev.postError; (try simp only []); (repeat' split) <;> first | (simp; done) | rfl | (simp; rfl)
@[simp] theorem Dev.postError_cfg (d : Dev) (p a r : Nat) : (d.postError p a r).cfg = d.cfg := by
  unfold Dev.postError; (try simp only []); (repeat' split) <;> first | (simp; done) | rfl | (simp; rfl)
@[simp] theorem Dev.postError_firmware (d : Dev) (p a r : Nat) : (d.postError p a r).firmware = d.firmware := by
  unfold Dev.postError; (try simp only []); (repeat' split) <;> first | (simp; done) | rfl | (simp; rfl)
@[simp] theorem Dev.postError_phy (d : Dev) (p a r : Nat) : (d.postError p a r).phy = d.phy := by
  unfold Dev.postError; (try simp only []); (repeat' split) <;> first | (simp; done) | rfl | (simp; rfl)
@[simp] theorem Dev.postError_mgmt (d : Dev) (p a r : Nat) : (d.postError p a r).mgmt = d.mgmt := by
  unfold Dev.postError; (try simp only []); (repeat' split) <;> first | (simp; done) | rfl | (simp; rfl)
@[simp] theorem Dev.postError_fresh (d : Dev) (p a r : Nat) : (d.postError p a r).fresh = d.fresh := by
  unfold Dev.postError; (try simp only []); (repeat' split) <;> first | (simp; done) | rfl | (simp; rfl)
@[simp] theorem Dev.askRepair_regs (d : Dev) (ch row : Nat) : (d.askRepair ch row).regs = d.regs := by
  unfold Dev.askRepair; (try simp only []); (repeat' split) <;> first | (simp; done) | rfl | (simp; rfl)
@[simp] theorem Dev.askRepair_mem (d : Dev) (ch row : Nat) : (d.askRepair ch row).mem = d.mem := by
  unfold Dev.askRepair; (try simp only []); (repeat' split) <;> first | (simp; done) | rfl | (simp; rfl)
@[simp] theorem Dev.askRepair_evLog (d : Dev) (ch row : Nat) : (d.askRepair ch row).evLog = d.evLog := by
  unfold Dev.askRepair; (try simp only []); (repeat' split) <;> first | (simp; done) | rfl | (simp; rfl)
@[simp] theorem Dev.askRepair_freezeLog (d : Dev) (ch row : Nat) : (d.askRepair ch row).freezeLog = d.freezeLog := by
  unfold Dev.askRepair; (try simp only []); (repeat' split) <;> first | (simp; done) | rfl | (simp; rfl)
@[simp] theorem Dev.askRepair_evt (d : Dev) (ch row : Nat) : (d.askRepair ch row).evt = d.evt := by
  unfold Dev.askRepair; (try simp only []); (repeat' split) <;> first | (simp; done) | rfl | (simp; rfl)
@[simp] theorem Dev.askRepair_ins (d : Dev) (ch row : Nat) : (d.askRepair ch row).ins = d.ins := by
  unfold Dev.askRepair; (try simp only []); (repeat' split) <;> first | (simp; done) | rfl | (simp; rfl)
@[simp] theorem Dev.askRepair_saf (d : Dev) (ch row : Nat) : (d.askRepair ch row).saf = d.saf := by
  unfold Dev.askRepair; (try simp only []); (repeat' split) <;> first | (simp; done) | rfl | (simp; rfl)
@[simp] theorem Dev.askRepair_xq (d : Dev) (ch row : Nat) : (d.askRepair ch row).xq = d.xq := by
  unfold Dev.askRepair; (try simp only []); (repeat' split) <;> first | (simp; done) | rfl | (simp; rfl)
@[simp] theorem Dev.askRepair_doc (d : Dev) (ch row : Nat) : (d.askRepair ch row).doc = d.doc := by
  unfold Dev.askRepair; (try simp only []); (repeat' split) <;> first | (simp; done) | rfl | (simp; rfl)
@[simp] theorem Dev.askRepair_gals (d : Dev) (ch row : Nat) : (d.askRepair ch row).gals = d.gals := by
  unfold Dev.askRepair; (try simp only []); (repeat' split) <;> first | (simp; done) | rfl | (simp; rfl)
@[simp] theorem Dev.askRepair_sfl (d : Dev) (ch row : Nat) : (d.askRepair ch row).sfl = d.sfl := by
  unfold Dev.askRepair; (try simp only []); (repeat' split) <;> first | (simp; done) | rfl | (simp; rfl)
@[simp] theorem Dev.askRepair_exc (d : Dev) (ch row : Nat) : (d.askRepair ch row).exc = d.exc := by
  unfold Dev.askRepair; (try simp only []); (repeat' split) <;> first | (simp; done) | rfl | (simp; rfl)
@[simp] theorem Dev.askRepair_fol (d : Dev) (ch row : Nat) : (d.askRepair ch row).fol = d.fol := by
  unfold Dev.askRepair; (try simp only []); (repeat' split) <;> first | (simp; done) | rfl | (simp; rfl)
@[simp] theorem Dev.askRepair_dma (d : Dev) (ch row : Nat) : (d.askRepair ch row).dma = d.dma := by
  unfold Dev.askRepair; (try simp only []); (repeat' split) <;> first | (simp; done) | rfl | (simp; rfl)
@[simp] theorem Dev.askRepair_prv (d : Dev) (ch row : Nat) : (d.askRepair ch row).prv = d.prv := by
  unfold Dev.askRepair; (try simp only []); (repeat' split) <;> first | (simp; done) | rfl | (simp; rfl)
@[simp] theorem Dev.askRepair_cat (d : Dev) (ch row : Nat) : (d.askRepair ch row).cat = d.cat := by
  unfold Dev.askRepair; (try simp only []); (repeat' split) <;> first | (simp; done) | rfl | (simp; rfl)
@[simp] theorem Dev.askRepair_vol (d : Dev) (ch row : Nat) : (d.askRepair ch row).vol = d.vol := by
  unfold Dev.askRepair; (try simp only []); (repeat' split) <;> first | (simp; done) | rfl | (simp; rfl)
@[simp] theorem Dev.askRepair_acc (d : Dev) (ch row : Nat) : (d.askRepair ch row).acc = d.acc := by
  unfold Dev.askRepair; (try simp only []); (repeat' split) <;> first | (simp; done) | rfl | (simp; rfl)
@[simp] theorem Dev.askRepair_pwr (d : Dev) (ch row : Nat) : (d.askRepair ch row).pwr = d.pwr := by
  unfold Dev.askRepair; (try simp only []); (repeat' split) <;> first | (simp; done) | rfl | (simp; rfl)
@[simp] theorem Dev.askRepair_cfg (d : Dev) (ch row : Nat) : (d.askRepair ch row).cfg = d.cfg := by
  unfold Dev.askRepair; (try simp only []); (repeat' split) <;> first | (simp; done) | rfl | (simp; rfl)
@[simp] theorem Dev.askRepair_firmware (d : Dev) (ch row : Nat) : (d.askRepair ch row).firmware = d.firmware := by
  unfold Dev.askRepair; (try simp only []); (repeat' split) <;> first | (simp; done) | rfl | (simp; rfl)
@[simp] theorem Dev.askRepair_phy (d : Dev) (ch row : Nat) : (d.askRepair ch row).phy = d.phy := by
  unfold Dev.askRepair; (try simp only []); (repeat' split) <;> first | (simp; done) | rfl | (simp; rfl)
@[simp] theorem Dev.askRepair_mgmt (d : Dev) (ch row : Nat) : (d.askRepair ch row).mgmt = d.mgmt := by
  unfold Dev.askRepair; (try simp only []); (repeat' split) <;> first | (simp; done) | rfl | (simp; rfl)
@[simp] theorem Dev.askRepair_fresh (d : Dev) (ch row : Nat) : (d.askRepair ch row).fresh = d.fresh := by
  unfold Dev.askRepair; (try simp only []); (repeat' split) <;> first | (simp; done) | rfl | (simp; rfl)
@[simp] theorem Dev.answerLost_mem (d : Dev) (h : HeldWrite) : (d.answerLost h).mem = d.mem := by
  unfold Dev.answerLost; (try simp only []); (repeat' split) <;> first | (simp; done) | rfl | (simp; rfl)
@[simp] theorem Dev.answerLost_evLog (d : Dev) (h : HeldWrite) : (d.answerLost h).evLog = d.evLog := by
  unfold Dev.answerLost; (try simp only []); (repeat' split) <;> first | (simp; done) | rfl | (simp; rfl)
@[simp] theorem Dev.answerLost_freezeLog (d : Dev) (h : HeldWrite) : (d.answerLost h).freezeLog = d.freezeLog := by
  unfold Dev.answerLost; (try simp only []); (repeat' split) <;> first | (simp; done) | rfl | (simp; rfl)
@[simp] theorem Dev.answerLost_ins (d : Dev) (h : HeldWrite) : (d.answerLost h).ins = d.ins := by
  unfold Dev.answerLost; (try simp only []); (repeat' split) <;> first | (simp; done) | rfl | (simp; rfl)
@[simp] theorem Dev.answerLost_saf (d : Dev) (h : HeldWrite) : (d.answerLost h).saf = d.saf := by
  unfold Dev.answerLost; (try simp only []); (repeat' split) <;> first | (simp; done) | rfl | (simp; rfl)
@[simp] theorem Dev.answerLost_doc (d : Dev) (h : HeldWrite) : (d.answerLost h).doc = d.doc := by
  unfold Dev.answerLost; (try simp only []); (repeat' split) <;> first | (simp; done) | rfl | (simp; rfl)
@[simp] theorem Dev.answerLost_sfl (d : Dev) (h : HeldWrite) : (d.answerLost h).sfl = d.sfl := by
  unfold Dev.answerLost; (try simp only []); (repeat' split) <;> first | (simp; done) | rfl | (simp; rfl)
@[simp] theorem Dev.answerLost_exc (d : Dev) (h : HeldWrite) : (d.answerLost h).exc = d.exc := by
  unfold Dev.answerLost; (try simp only []); (repeat' split) <;> first | (simp; done) | rfl | (simp; rfl)
@[simp] theorem Dev.answerLost_fol (d : Dev) (h : HeldWrite) : (d.answerLost h).fol = d.fol := by
  unfold Dev.answerLost; (try simp only []); (repeat' split) <;> first | (simp; done) | rfl | (simp; rfl)
@[simp] theorem Dev.answerLost_dma (d : Dev) (h : HeldWrite) : (d.answerLost h).dma = d.dma := by
  unfold Dev.answerLost; (try simp only []); (repeat' split) <;> first | (simp; done) | rfl | (simp; rfl)
@[simp] theorem Dev.answerLost_prv (d : Dev) (h : HeldWrite) : (d.answerLost h).prv = d.prv := by
  unfold Dev.answerLost; (try simp only []); (repeat' split) <;> first | (simp; done) | rfl | (simp; rfl)
@[simp] theorem Dev.answerLost_cat (d : Dev) (h : HeldWrite) : (d.answerLost h).cat = d.cat := by
  unfold Dev.answerLost; (try simp only []); (repeat' split) <;> first | (simp; done) | rfl | (simp; rfl)
@[simp] theorem Dev.answerLost_vol (d : Dev) (h : HeldWrite) : (d.answerLost h).vol = d.vol := by
  unfold Dev.answerLost; (try simp only []); (repeat' split) <;> first | (simp; done) | rfl | (simp; rfl)
@[simp] theorem Dev.answerLost_acc (d : Dev) (h : HeldWrite) : (d.answerLost h).acc = d.acc := by
  unfold Dev.answerLost; (try simp only []); (repeat' split) <;> first | (simp; done) | rfl | (simp; rfl)
@[simp] theorem Dev.answerLost_pwr (d : Dev) (h : HeldWrite) : (d.answerLost h).pwr = d.pwr := by
  unfold Dev.answerLost; (try simp only []); (repeat' split) <;> first | (simp; done) | rfl | (simp; rfl)
@[simp] theorem Dev.answerLost_cfg (d : Dev) (h : HeldWrite) : (d.answerLost h).cfg = d.cfg := by
  unfold Dev.answerLost; (try simp only []); (repeat' split) <;> first | (simp; done) | rfl | (simp; rfl)
@[simp] theorem Dev.answerLost_firmware (d : Dev) (h : HeldWrite) : (d.answerLost h).firmware = d.firmware := by
  unfold Dev.answerLost; (try simp only []); (repeat' split) <;> first | (simp; done) | rfl | (simp; rfl)
@[simp] theorem Dev.answerLost_phy (d : Dev) (h : HeldWrite) : (d.answerLost h).phy = d.phy := by
  unfold Dev.answerLost; (try simp only []); (repeat' split) <;> first | (simp; done) | rfl | (simp; rfl)
@[simp] theorem Dev.answerLost_mgmt (d : Dev) (h : HeldWrite) : (d.answerLost h).mgmt = d.mgmt := by
  unfold Dev.answerLost; (try simp only []); (repeat' split) <;> first | (simp; done) | rfl | (simp; rfl)
@[simp] theorem Dev.answerLost_fresh (d : Dev) (h : HeldWrite) : (d.answerLost h).fresh = d.fresh := by
  unfold Dev.answerLost; (try simp only []); (repeat' split) <;> first | (simp; done) | rfl | (simp; rfl)
@[simp] theorem Dev.foldl_answerLost_mem (hs : List HeldWrite) (d : Dev) : (hs.foldl Dev.answerLost d).mem = d.mem :=
  foldl_keeps Dev.mem _ (fun s x => by simp) _ _
@[simp] theorem Dev.foldl_answerLost_evLog (hs : List HeldWrite) (d : Dev) : (hs.foldl Dev.answerLost d).evLog = d.evLog :=
  foldl_keeps Dev.evLog _ (fun s x => by simp) _ _
@[simp] theorem Dev.foldl_answerLost_freezeLog (hs : List HeldWrite) (d : Dev) : (hs.foldl Dev.answerLost d).freezeLog = d.freezeLog :=
  foldl_keeps Dev.freezeLog _ (fun s x => by simp) _ _
@[simp] theorem Dev.foldl_answerLost_ins (hs : List HeldWrite) (d : Dev) : (hs.foldl Dev.answerLost d).ins = d.ins :=
  foldl_keeps Dev.ins _ (fun s x => by simp) _ _
@[simp] theorem Dev.foldl_answerLost_saf (hs : List HeldWrite) (d : Dev) : (hs.foldl Dev.answerLost d).saf = d.saf :=
  foldl_keeps Dev.saf _ (fun s x => by simp) _ _
@[simp] theorem Dev.foldl_answerLost_doc (hs : List HeldWrite) (d : Dev) : (hs.foldl Dev.answerLost d).doc = d.doc :=
  foldl_keeps Dev.doc _ (fun s x => by simp) _ _
@[simp] theorem Dev.foldl_answerLost_sfl (hs : List HeldWrite) (d : Dev) : (hs.foldl Dev.answerLost d).sfl = d.sfl :=
  foldl_keeps Dev.sfl _ (fun s x => by simp) _ _
@[simp] theorem Dev.foldl_answerLost_exc (hs : List HeldWrite) (d : Dev) : (hs.foldl Dev.answerLost d).exc = d.exc :=
  foldl_keeps Dev.exc _ (fun s x => by simp) _ _
@[simp] theorem Dev.foldl_answerLost_fol (hs : List HeldWrite) (d : Dev) : (hs.foldl Dev.answerLost d).fol = d.fol :=
  foldl_keeps Dev.fol _ (fun s x => by simp) _ _
@[simp] theorem Dev.foldl_answerLost_dma (hs : List HeldWrite) (d : Dev) : (hs.foldl Dev.answerLost d).dma = d.dma :=
  foldl_keeps Dev.dma _ (fun s x => by simp) _ _
@[simp] theorem Dev.foldl_answerLost_prv (hs : List HeldWrite) (d : Dev) : (hs.foldl Dev.answerLost d).prv = d.prv :=
  foldl_keeps Dev.prv _ (fun s x => by simp) _ _
@[simp] theorem Dev.foldl_answerLost_cat (hs : List HeldWrite) (d : Dev) : (hs.foldl Dev.answerLost d).cat = d.cat :=
  foldl_keeps Dev.cat _ (fun s x => by simp) _ _
@[simp] theorem Dev.foldl_answerLost_vol (hs : List HeldWrite) (d : Dev) : (hs.foldl Dev.answerLost d).vol = d.vol :=
  foldl_keeps Dev.vol _ (fun s x => by simp) _ _
@[simp] theorem Dev.foldl_answerLost_acc (hs : List HeldWrite) (d : Dev) : (hs.foldl Dev.answerLost d).acc = d.acc :=
  foldl_keeps Dev.acc _ (fun s x => by simp) _ _
@[simp] theorem Dev.foldl_answerLost_pwr (hs : List HeldWrite) (d : Dev) : (hs.foldl Dev.answerLost d).pwr = d.pwr :=
  foldl_keeps Dev.pwr _ (fun s x => by simp) _ _
@[simp] theorem Dev.foldl_answerLost_cfg (hs : List HeldWrite) (d : Dev) : (hs.foldl Dev.answerLost d).cfg = d.cfg :=
  foldl_keeps Dev.cfg _ (fun s x => by simp) _ _
@[simp] theorem Dev.foldl_answerLost_firmware (hs : List HeldWrite) (d : Dev) : (hs.foldl Dev.answerLost d).firmware = d.firmware :=
  foldl_keeps Dev.firmware _ (fun s x => by simp) _ _
@[simp] theorem Dev.foldl_answerLost_phy (hs : List HeldWrite) (d : Dev) : (hs.foldl Dev.answerLost d).phy = d.phy :=
  foldl_keeps Dev.phy _ (fun s x => by simp) _ _
@[simp] theorem Dev.foldl_answerLost_mgmt (hs : List HeldWrite) (d : Dev) : (hs.foldl Dev.answerLost d).mgmt = d.mgmt :=
  foldl_keeps Dev.mgmt _ (fun s x => by simp) _ _
@[simp] theorem Dev.foldl_answerLost_fresh (hs : List HeldWrite) (d : Dev) : (hs.foldl Dev.answerLost d).fresh = d.fresh :=
  foldl_keeps Dev.fresh _ (fun s x => by simp) _ _
@[simp] theorem Dev.fenceChannel_mem (d : Dev) (c : CoreSt) (ch : Nat) : (d.fenceChannel c ch).mem = d.mem := by
  unfold Dev.fenceChannel; (try simp only []); (repeat' split) <;> first | (simp; done) | rfl | (simp; rfl)
@[simp] theorem Dev.fenceChannel_freezeLog (d : Dev) (c : CoreSt) (ch : Nat) : (d.fenceChannel c ch).freezeLog = d.freezeLog := by
  unfold Dev.fenceChannel; (try simp only []); (repeat' split) <;> first | (simp; done) | rfl | (simp; rfl)
@[simp] theorem Dev.fenceChannel_ins (d : Dev) (c : CoreSt) (ch : Nat) : (d.fenceChannel c ch).ins = d.ins := by
  unfold Dev.fenceChannel; (try simp only []); (repeat' split) <;> first | (simp; done) | rfl | (simp; rfl)
@[simp] theorem Dev.fenceChannel_doc (d : Dev) (c : CoreSt) (ch : Nat) : (d.fenceChannel c ch).doc = d.doc := by
  unfold Dev.fenceChannel; (try simp only []); (repeat' split) <;> first | (simp; done) | rfl | (simp; rfl)
@[simp] theorem Dev.fenceChannel_sfl (d : Dev) (c : CoreSt) (ch : Nat) : (d.fenceChannel c ch).sfl = d.sfl := by
  unfold Dev.fenceChannel; (try simp only []); (repeat' split) <;> first | (simp; done) | rfl | (simp; rfl)
@[simp] theorem Dev.fenceChannel_exc (d : Dev) (c : CoreSt) (ch : Nat) : (d.fenceChannel c ch).exc = d.exc := by
  unfold Dev.fenceChannel; (try simp only []); (repeat' split) <;> first | (simp; done) | rfl | (simp; rfl)
@[simp] theorem Dev.fenceChannel_fol (d : Dev) (c : CoreSt) (ch : Nat) : (d.fenceChannel c ch).fol = d.fol := by
  unfold Dev.fenceChannel; (try simp only []); (repeat' split) <;> first | (simp; done) | rfl | (simp; rfl)
@[simp] theorem Dev.fenceChannel_dma (d : Dev) (c : CoreSt) (ch : Nat) : (d.fenceChannel c ch).dma = d.dma := by
  unfold Dev.fenceChannel; (try simp only []); (repeat' split) <;> first | (simp; done) | rfl | (simp; rfl)
@[simp] theorem Dev.fenceChannel_prv (d : Dev) (c : CoreSt) (ch : Nat) : (d.fenceChannel c ch).prv = d.prv := by
  unfold Dev.fenceChannel; (try simp only []); (repeat' split) <;> first | (simp; done) | rfl | (simp; rfl)
@[simp] theorem Dev.fenceChannel_cat (d : Dev) (c : CoreSt) (ch : Nat) : (d.fenceChannel c ch).cat = d.cat := by
  unfold Dev.fenceChannel; (try simp only []); (repeat' split) <;> first | (simp; done) | rfl | (simp; rfl)
@[simp] theorem Dev.fenceChannel_vol (d : Dev) (c : CoreSt) (ch : Nat) : (d.fenceChannel c ch).vol = d.vol := by
  unfold Dev.fenceChannel; (try simp only []); (repeat' split) <;> first | (simp; done) | rfl | (simp; rfl)
@[simp] theorem Dev.fenceChannel_acc (d : Dev) (c : CoreSt) (ch : Nat) : (d.fenceChannel c ch).acc = d.acc := by
  unfold Dev.fenceChannel; (try simp only []); (repeat' split) <;> first | (simp; done) | rfl | (simp; rfl)
@[simp] theorem Dev.fenceChannel_pwr (d : Dev) (c : CoreSt) (ch : Nat) : (d.fenceChannel c ch).pwr = d.pwr := by
  unfold Dev.fenceChannel; (try simp only []); (repeat' split) <;> first | (simp; done) | rfl | (simp; rfl)
@[simp] theorem Dev.fenceChannel_cfg (d : Dev) (c : CoreSt) (ch : Nat) : (d.fenceChannel c ch).cfg = d.cfg := by
  unfold Dev.fenceChannel; (try simp only []); (repeat' split) <;> first | (simp; done) | rfl | (simp; rfl)
@[simp] theorem Dev.fenceChannel_firmware (d : Dev) (c : CoreSt) (ch : Nat) : (d.fenceChannel c ch).firmware = d.firmware := by
  unfold Dev.fenceChannel; (try simp only []); (repeat' split) <;> first | (simp; done) | rfl | (simp; rfl)
@[simp] theorem Dev.fenceChannel_phy (d : Dev) (c : CoreSt) (ch : Nat) : (d.fenceChannel c ch).phy = d.phy := by
  unfold Dev.fenceChannel; (try simp only []); (repeat' split) <;> first | (simp; done) | rfl | (simp; rfl)
@[simp] theorem Dev.fenceChannel_fresh (d : Dev) (c : CoreSt) (ch : Nat) : (d.fenceChannel c ch).fresh = d.fresh := by
  unfold Dev.fenceChannel; (try simp only []); (repeat' split) <;> first | (simp; done) | rfl | (simp; rfl)
@[simp] theorem Dev.freezeChannel_mem (d : Dev) (c : CoreSt) (ch b k : Nat) : (d.freezeChannel c ch b k).mem = d.mem := by
  simp only [Dev.freezeChannel]; split
  · rfl
  · split <;> simp
@[simp] theorem Dev.freezeChannel_freezeLog (d : Dev) (c : CoreSt) (ch b k : Nat) : (d.freezeChannel c ch b k).freezeLog = d.freezeLog := by
  simp only [Dev.freezeChannel]; split
  · rfl
  · split <;> simp
@[simp] theorem Dev.freezeChannel_ins (d : Dev) (c : CoreSt) (ch b k : Nat) : (d.freezeChannel c ch b k).ins = d.ins := by
  simp only [Dev.freezeChannel]; split
  · rfl
  · split <;> simp
@[simp] theorem Dev.freezeChannel_doc (d : Dev) (c : CoreSt) (ch b k : Nat) : (d.freezeChannel c ch b k).doc = d.doc := by
  simp only [Dev.freezeChannel]; split
  · rfl
  · split <;> simp
@[simp] theorem Dev.freezeChannel_sfl (d : Dev) (c : CoreSt) (ch b k : Nat) : (d.freezeChannel c ch b k).sfl = d.sfl := by
  simp only [Dev.freezeChannel]; split
  · rfl
  · split <;> simp
@[simp] theorem Dev.freezeChannel_exc (d : Dev) (c : CoreSt) (ch b k : Nat) : (d.freezeChannel c ch b k).exc = d.exc := by
  simp only [Dev.freezeChannel]; split
  · rfl
  · split <;> simp
@[simp] theorem Dev.freezeChannel_fol (d : Dev) (c : CoreSt) (ch b k : Nat) : (d.freezeChannel c ch b k).fol = d.fol := by
  simp only [Dev.freezeChannel]; split
  · rfl
  · split <;> simp
@[simp] theorem Dev.freezeChannel_dma (d : Dev) (c : CoreSt) (ch b k : Nat) : (d.freezeChannel c ch b k).dma = d.dma := by
  simp only [Dev.freezeChannel]; split
  · rfl
  · split <;> simp
@[simp] theorem Dev.freezeChannel_prv (d : Dev) (c : CoreSt) (ch b k : Nat) : (d.freezeChannel c ch b k).prv = d.prv := by
  simp only [Dev.freezeChannel]; split
  · rfl
  · split <;> simp
@[simp] theorem Dev.freezeChannel_cat (d : Dev) (c : CoreSt) (ch b k : Nat) : (d.freezeChannel c ch b k).cat = d.cat := by
  simp only [Dev.freezeChannel]; split
  · rfl
  · split <;> simp
@[simp] theorem Dev.freezeChannel_vol (d : Dev) (c : CoreSt) (ch b k : Nat) : (d.freezeChannel c ch b k).vol = d.vol := by
  simp only [Dev.freezeChannel]; split
  · rfl
  · split <;> simp
@[simp] theorem Dev.freezeChannel_acc (d : Dev) (c : CoreSt) (ch b k : Nat) : (d.freezeChannel c ch b k).acc = d.acc := by
  simp only [Dev.freezeChannel]; split
  · rfl
  · split <;> simp
@[simp] theorem Dev.freezeChannel_pwr (d : Dev) (c : CoreSt) (ch b k : Nat) : (d.freezeChannel c ch b k).pwr = d.pwr := by
  simp only [Dev.freezeChannel]; split
  · rfl
  · split <;> simp
@[simp] theorem Dev.freezeChannel_cfg (d : Dev) (c : CoreSt) (ch b k : Nat) : (d.freezeChannel c ch b k).cfg = d.cfg := by
  simp only [Dev.freezeChannel]; split
  · rfl
  · split <;> simp
@[simp] theorem Dev.freezeChannel_firmware (d : Dev) (c : CoreSt) (ch b k : Nat) : (d.freezeChannel c ch b k).firmware = d.firmware := by
  simp only [Dev.freezeChannel]; split
  · rfl
  · split <;> simp
@[simp] theorem Dev.freezeChannel_phy (d : Dev) (c : CoreSt) (ch b k : Nat) : (d.freezeChannel c ch b k).phy = d.phy := by
  simp only [Dev.freezeChannel]; split
  · rfl
  · split <;> simp
@[simp] theorem Dev.freezeChannel_fresh (d : Dev) (c : CoreSt) (ch b k : Nat) : (d.freezeChannel c ch b k).fresh = d.fresh := by
  simp only [Dev.freezeChannel]; split
  · rfl
  · split <;> simp
@[simp] theorem Dev.raiseDirected_mem (d : Dev) (n g : Nat) : (d.raiseDirected n g).mem = d.mem := by
  unfold Dev.raiseDirected; (try simp only []); (repeat' split) <;> first | (simp; done) | rfl | (simp; rfl)
@[simp] theorem Dev.raiseDirected_evLog (d : Dev) (n g : Nat) : (d.raiseDirected n g).evLog = d.evLog := by
  unfold Dev.raiseDirected; (try simp only []); (repeat' split) <;> first | (simp; done) | rfl | (simp; rfl)
@[simp] theorem Dev.raiseDirected_freezeLog (d : Dev) (n g : Nat) : (d.raiseDirected n g).freezeLog = d.freezeLog := by
  unfold Dev.raiseDirected; (try simp only []); (repeat' split) <;> first | (simp; done) | rfl | (simp; rfl)
@[simp] theorem Dev.raiseDirected_ins (d : Dev) (n g : Nat) : (d.raiseDirected n g).ins = d.ins := by
  unfold Dev.raiseDirected; (try simp only []); (repeat' split) <;> first | (simp; done) | rfl | (simp; rfl)
@[simp] theorem Dev.raiseDirected_dram (d : Dev) (n g : Nat) : (d.raiseDirected n g).dram = d.dram := by
  unfold Dev.raiseDirected; (try simp only []); (repeat' split) <;> first | (simp; done) | rfl | (simp; rfl)
@[simp] theorem Dev.raiseDirected_saf (d : Dev) (n g : Nat) : (d.raiseDirected n g).saf = d.saf := by
  unfold Dev.raiseDirected; (try simp only []); (repeat' split) <;> first | (simp; done) | rfl | (simp; rfl)
@[simp] theorem Dev.raiseDirected_xq (d : Dev) (n g : Nat) : (d.raiseDirected n g).xq = d.xq := by
  unfold Dev.raiseDirected; (try simp only []); (repeat' split) <;> first | (simp; done) | rfl | (simp; rfl)
@[simp] theorem Dev.raiseDirected_doc (d : Dev) (n g : Nat) : (d.raiseDirected n g).doc = d.doc := by
  unfold Dev.raiseDirected; (try simp only []); (repeat' split) <;> first | (simp; done) | rfl | (simp; rfl)
@[simp] theorem Dev.raiseDirected_gals (d : Dev) (n g : Nat) : (d.raiseDirected n g).gals = d.gals := by
  unfold Dev.raiseDirected; (try simp only []); (repeat' split) <;> first | (simp; done) | rfl | (simp; rfl)
@[simp] theorem Dev.raiseDirected_sfl (d : Dev) (n g : Nat) : (d.raiseDirected n g).sfl = d.sfl := by
  unfold Dev.raiseDirected; (try simp only []); (repeat' split) <;> first | (simp; done) | rfl | (simp; rfl)
@[simp] theorem Dev.raiseDirected_exc (d : Dev) (n g : Nat) : (d.raiseDirected n g).exc = d.exc := by
  unfold Dev.raiseDirected; (try simp only []); (repeat' split) <;> first | (simp; done) | rfl | (simp; rfl)
@[simp] theorem Dev.raiseDirected_fol (d : Dev) (n g : Nat) : (d.raiseDirected n g).fol = d.fol := by
  unfold Dev.raiseDirected; (try simp only []); (repeat' split) <;> first | (simp; done) | rfl | (simp; rfl)
@[simp] theorem Dev.raiseDirected_dma (d : Dev) (n g : Nat) : (d.raiseDirected n g).dma = d.dma := by
  unfold Dev.raiseDirected; (try simp only []); (repeat' split) <;> first | (simp; done) | rfl | (simp; rfl)
@[simp] theorem Dev.raiseDirected_prv (d : Dev) (n g : Nat) : (d.raiseDirected n g).prv = d.prv := by
  unfold Dev.raiseDirected; (try simp only []); (repeat' split) <;> first | (simp; done) | rfl | (simp; rfl)
@[simp] theorem Dev.raiseDirected_cat (d : Dev) (n g : Nat) : (d.raiseDirected n g).cat = d.cat := by
  unfold Dev.raiseDirected; (try simp only []); (repeat' split) <;> first | (simp; done) | rfl | (simp; rfl)
@[simp] theorem Dev.raiseDirected_vol (d : Dev) (n g : Nat) : (d.raiseDirected n g).vol = d.vol := by
  unfold Dev.raiseDirected; (try simp only []); (repeat' split) <;> first | (simp; done) | rfl | (simp; rfl)
@[simp] theorem Dev.raiseDirected_acc (d : Dev) (n g : Nat) : (d.raiseDirected n g).acc = d.acc := by
  unfold Dev.raiseDirected; (try simp only []); (repeat' split) <;> first | (simp; done) | rfl | (simp; rfl)
@[simp] theorem Dev.raiseDirected_pwr (d : Dev) (n g : Nat) : (d.raiseDirected n g).pwr = d.pwr := by
  unfold Dev.raiseDirected; (try simp only []); (repeat' split) <;> first | (simp; done) | rfl | (simp; rfl)
@[simp] theorem Dev.raiseDirected_cfg (d : Dev) (n g : Nat) : (d.raiseDirected n g).cfg = d.cfg := by
  unfold Dev.raiseDirected; (try simp only []); (repeat' split) <;> first | (simp; done) | rfl | (simp; rfl)
@[simp] theorem Dev.raiseDirected_firmware (d : Dev) (n g : Nat) : (d.raiseDirected n g).firmware = d.firmware := by
  unfold Dev.raiseDirected; (try simp only []); (repeat' split) <;> first | (simp; done) | rfl | (simp; rfl)
@[simp] theorem Dev.raiseDirected_phy (d : Dev) (n g : Nat) : (d.raiseDirected n g).phy = d.phy := by
  unfold Dev.raiseDirected; (try simp only []); (repeat' split) <;> first | (simp; done) | rfl | (simp; rfl)
@[simp] theorem Dev.raiseDirected_mgmt (d : Dev) (n g : Nat) : (d.raiseDirected n g).mgmt = d.mgmt := by
  unfold Dev.raiseDirected; (try simp only []); (repeat' split) <;> first | (simp; done) | rfl | (simp; rfl)
@[simp] theorem Dev.raiseDirected_fresh (d : Dev) (n g : Nat) : (d.raiseDirected n g).fresh = d.fresh := by
  unfold Dev.raiseDirected; (try simp only []); (repeat' split) <;> first | (simp; done) | rfl | (simp; rfl)
@[simp] theorem Dev.raiseVector_mem (d : Dev) (i v : Nat) : (d.raiseVector i v).mem = d.mem := by
  unfold Dev.raiseVector; (try simp only []); (repeat' split) <;> first | (simp; done) | rfl | (simp; rfl)
@[simp] theorem Dev.raiseVector_evLog (d : Dev) (i v : Nat) : (d.raiseVector i v).evLog = d.evLog := by
  unfold Dev.raiseVector; (try simp only []); (repeat' split) <;> first | (simp; done) | rfl | (simp; rfl)
@[simp] theorem Dev.raiseVector_freezeLog (d : Dev) (i v : Nat) : (d.raiseVector i v).freezeLog = d.freezeLog := by
  unfold Dev.raiseVector; (try simp only []); (repeat' split) <;> first | (simp; done) | rfl | (simp; rfl)
@[simp] theorem Dev.raiseVector_ins (d : Dev) (i v : Nat) : (d.raiseVector i v).ins = d.ins := by
  unfold Dev.raiseVector; (try simp only []); (repeat' split) <;> first | (simp; done) | rfl | (simp; rfl)
@[simp] theorem Dev.raiseVector_dram (d : Dev) (i v : Nat) : (d.raiseVector i v).dram = d.dram := by
  unfold Dev.raiseVector; (try simp only []); (repeat' split) <;> first | (simp; done) | rfl | (simp; rfl)
@[simp] theorem Dev.raiseVector_saf (d : Dev) (i v : Nat) : (d.raiseVector i v).saf = d.saf := by
  unfold Dev.raiseVector; (try simp only []); (repeat' split) <;> first | (simp; done) | rfl | (simp; rfl)
@[simp] theorem Dev.raiseVector_xq (d : Dev) (i v : Nat) : (d.raiseVector i v).xq = d.xq := by
  unfold Dev.raiseVector; (try simp only []); (repeat' split) <;> first | (simp; done) | rfl | (simp; rfl)
@[simp] theorem Dev.raiseVector_doc (d : Dev) (i v : Nat) : (d.raiseVector i v).doc = d.doc := by
  unfold Dev.raiseVector; (try simp only []); (repeat' split) <;> first | (simp; done) | rfl | (simp; rfl)
@[simp] theorem Dev.raiseVector_gals (d : Dev) (i v : Nat) : (d.raiseVector i v).gals = d.gals := by
  unfold Dev.raiseVector; (try simp only []); (repeat' split) <;> first | (simp; done) | rfl | (simp; rfl)
@[simp] theorem Dev.raiseVector_sfl (d : Dev) (i v : Nat) : (d.raiseVector i v).sfl = d.sfl := by
  unfold Dev.raiseVector; (try simp only []); (repeat' split) <;> first | (simp; done) | rfl | (simp; rfl)
@[simp] theorem Dev.raiseVector_exc (d : Dev) (i v : Nat) : (d.raiseVector i v).exc = d.exc := by
  unfold Dev.raiseVector; (try simp only []); (repeat' split) <;> first | (simp; done) | rfl | (simp; rfl)
@[simp] theorem Dev.raiseVector_fol (d : Dev) (i v : Nat) : (d.raiseVector i v).fol = d.fol := by
  unfold Dev.raiseVector; (try simp only []); (repeat' split) <;> first | (simp; done) | rfl | (simp; rfl)
@[simp] theorem Dev.raiseVector_dma (d : Dev) (i v : Nat) : (d.raiseVector i v).dma = d.dma := by
  unfold Dev.raiseVector; (try simp only []); (repeat' split) <;> first | (simp; done) | rfl | (simp; rfl)
@[simp] theorem Dev.raiseVector_prv (d : Dev) (i v : Nat) : (d.raiseVector i v).prv = d.prv := by
  unfold Dev.raiseVector; (try simp only []); (repeat' split) <;> first | (simp; done) | rfl | (simp; rfl)
@[simp] theorem Dev.raiseVector_cat (d : Dev) (i v : Nat) : (d.raiseVector i v).cat = d.cat := by
  unfold Dev.raiseVector; (try simp only []); (repeat' split) <;> first | (simp; done) | rfl | (simp; rfl)
@[simp] theorem Dev.raiseVector_vol (d : Dev) (i v : Nat) : (d.raiseVector i v).vol = d.vol := by
  unfold Dev.raiseVector; (try simp only []); (repeat' split) <;> first | (simp; done) | rfl | (simp; rfl)
@[simp] theorem Dev.raiseVector_acc (d : Dev) (i v : Nat) : (d.raiseVector i v).acc = d.acc := by
  unfold Dev.raiseVector; (try simp only []); (repeat' split) <;> first | (simp; done) | rfl | (simp; rfl)
@[simp] theorem Dev.raiseVector_pwr (d : Dev) (i v : Nat) : (d.raiseVector i v).pwr = d.pwr := by
  unfold Dev.raiseVector; (try simp only []); (repeat' split) <;> first | (simp; done) | rfl | (simp; rfl)
@[simp] theorem Dev.raiseVector_cfg (d : Dev) (i v : Nat) : (d.raiseVector i v).cfg = d.cfg := by
  unfold Dev.raiseVector; (try simp only []); (repeat' split) <;> first | (simp; done) | rfl | (simp; rfl)
@[simp] theorem Dev.raiseVector_firmware (d : Dev) (i v : Nat) : (d.raiseVector i v).firmware = d.firmware := by
  unfold Dev.raiseVector; (try simp only []); (repeat' split) <;> first | (simp; done) | rfl | (simp; rfl)
@[simp] theorem Dev.raiseVector_phy (d : Dev) (i v : Nat) : (d.raiseVector i v).phy = d.phy := by
  unfold Dev.raiseVector; (try simp only []); (repeat' split) <;> first | (simp; done) | rfl | (simp; rfl)
@[simp] theorem Dev.raiseVector_mgmt (d : Dev) (i v : Nat) : (d.raiseVector i v).mgmt = d.mgmt := by
  unfold Dev.raiseVector; (try simp only []); (repeat' split) <;> first | (simp; done) | rfl | (simp; rfl)
@[simp] theorem Dev.raiseVector_fresh (d : Dev) (i v : Nat) : (d.raiseVector i v).fresh = d.fresh := by
  unfold Dev.raiseVector; (try simp only []); (repeat' split) <;> first | (simp; done) | rfl | (simp; rfl)
@[simp] theorem Dev.partner_mem (d : Dev) (c : CoreSt) (a : Bool) (k : Partner) (n : Nat) : (d.partner c a k n).mem = d.mem := by
  unfold Dev.partner; (try simp only []); (repeat' split) <;> first | (simp; done) | rfl | (simp; rfl)
@[simp] theorem Dev.partner_freezeLog (d : Dev) (c : CoreSt) (a : Bool) (k : Partner) (n : Nat) : (d.partner c a k n).freezeLog = d.freezeLog := by
  unfold Dev.partner; (try simp only []); (repeat' split) <;> first | (simp; done) | rfl | (simp; rfl)
@[simp] theorem Dev.partner_ins (d : Dev) (c : CoreSt) (a : Bool) (k : Partner) (n : Nat) : (d.partner c a k n).ins = d.ins := by
  unfold Dev.partner; (try simp only []); (repeat' split) <;> first | (simp; done) | rfl | (simp; rfl)
@[simp] theorem Dev.partner_dram (d : Dev) (c : CoreSt) (a : Bool) (k : Partner) (n : Nat) : (d.partner c a k n).dram = d.dram := by
  unfold Dev.partner; (try simp only []); (repeat' split) <;> first | (simp; done) | rfl | (simp; rfl)
@[simp] theorem Dev.partner_saf (d : Dev) (c : CoreSt) (a : Bool) (k : Partner) (n : Nat) : (d.partner c a k n).saf = d.saf := by
  unfold Dev.partner; (try simp only []); (repeat' split) <;> first | (simp; done) | rfl | (simp; rfl)
@[simp] theorem Dev.partner_xq (d : Dev) (c : CoreSt) (a : Bool) (k : Partner) (n : Nat) : (d.partner c a k n).xq = d.xq := by
  unfold Dev.partner; (try simp only []); (repeat' split) <;> first | (simp; done) | rfl | (simp; rfl)
@[simp] theorem Dev.partner_doc (d : Dev) (c : CoreSt) (a : Bool) (k : Partner) (n : Nat) : (d.partner c a k n).doc = d.doc := by
  unfold Dev.partner; (try simp only []); (repeat' split) <;> first | (simp; done) | rfl | (simp; rfl)
@[simp] theorem Dev.partner_gals (d : Dev) (c : CoreSt) (a : Bool) (k : Partner) (n : Nat) : (d.partner c a k n).gals = d.gals := by
  unfold Dev.partner; (try simp only []); (repeat' split) <;> first | (simp; done) | rfl | (simp; rfl)
@[simp] theorem Dev.partner_sfl (d : Dev) (c : CoreSt) (a : Bool) (k : Partner) (n : Nat) : (d.partner c a k n).sfl = d.sfl := by
  unfold Dev.partner; (try simp only []); (repeat' split) <;> first | (simp; done) | rfl | (simp; rfl)
@[simp] theorem Dev.partner_exc (d : Dev) (c : CoreSt) (a : Bool) (k : Partner) (n : Nat) : (d.partner c a k n).exc = d.exc := by
  unfold Dev.partner; (try simp only []); (repeat' split) <;> first | (simp; done) | rfl | (simp; rfl)
@[simp] theorem Dev.partner_fol (d : Dev) (c : CoreSt) (a : Bool) (k : Partner) (n : Nat) : (d.partner c a k n).fol = d.fol := by
  unfold Dev.partner; (try simp only []); (repeat' split) <;> first | (simp; done) | rfl | (simp; rfl)
@[simp] theorem Dev.partner_dma (d : Dev) (c : CoreSt) (a : Bool) (k : Partner) (n : Nat) : (d.partner c a k n).dma = d.dma := by
  unfold Dev.partner; (try simp only []); (repeat' split) <;> first | (simp; done) | rfl | (simp; rfl)
@[simp] theorem Dev.partner_prv (d : Dev) (c : CoreSt) (a : Bool) (k : Partner) (n : Nat) : (d.partner c a k n).prv = d.prv := by
  unfold Dev.partner; (try simp only []); (repeat' split) <;> first | (simp; done) | rfl | (simp; rfl)
@[simp] theorem Dev.partner_cat (d : Dev) (c : CoreSt) (a : Bool) (k : Partner) (n : Nat) : (d.partner c a k n).cat = d.cat := by
  unfold Dev.partner; (try simp only []); (repeat' split) <;> first | (simp; done) | rfl | (simp; rfl)
@[simp] theorem Dev.partner_vol (d : Dev) (c : CoreSt) (a : Bool) (k : Partner) (n : Nat) : (d.partner c a k n).vol = d.vol := by
  unfold Dev.partner; (try simp only []); (repeat' split) <;> first | (simp; done) | rfl | (simp; rfl)
@[simp] theorem Dev.partner_acc (d : Dev) (c : CoreSt) (a : Bool) (k : Partner) (n : Nat) : (d.partner c a k n).acc = d.acc := by
  unfold Dev.partner; (try simp only []); (repeat' split) <;> first | (simp; done) | rfl | (simp; rfl)
@[simp] theorem Dev.partner_pwr (d : Dev) (c : CoreSt) (a : Bool) (k : Partner) (n : Nat) : (d.partner c a k n).pwr = d.pwr := by
  unfold Dev.partner; (try simp only []); (repeat' split) <;> first | (simp; done) | rfl | (simp; rfl)
@[simp] theorem Dev.partner_cfg (d : Dev) (c : CoreSt) (a : Bool) (k : Partner) (n : Nat) : (d.partner c a k n).cfg = d.cfg := by
  unfold Dev.partner; (try simp only []); (repeat' split) <;> first | (simp; done) | rfl | (simp; rfl)
@[simp] theorem Dev.partner_firmware (d : Dev) (c : CoreSt) (a : Bool) (k : Partner) (n : Nat) : (d.partner c a k n).firmware = d.firmware := by
  unfold Dev.partner; (try simp only []); (repeat' split) <;> first | (simp; done) | rfl | (simp; rfl)
@[simp] theorem Dev.partner_phy (d : Dev) (c : CoreSt) (a : Bool) (k : Partner) (n : Nat) : (d.partner c a k n).phy = d.phy := by
  unfold Dev.partner; (try simp only []); (repeat' split) <;> first | (simp; done) | rfl | (simp; rfl)
@[simp] theorem Dev.partner_fresh (d : Dev) (c : CoreSt) (a : Bool) (k : Partner) (n : Nat) : (d.partner c a k n).fresh = d.fresh := by
  unfold Dev.partner; (try simp only []); (repeat' split) <;> first | (simp; done) | rfl | (simp; rfl)
@[simp] theorem Dev.violation_mem (d : Dev) (c : CoreSt) (w : Who) (i a k r : Nat) : (d.violation c w i a k r).mem = d.mem := by
  unfold Dev.violation; (try simp only []); (repeat' split) <;> first | (simp; done) | rfl | (simp; rfl)
@[simp] theorem Dev.violation_evLog (d : Dev) (c : CoreSt) (w : Who) (i a k r : Nat) : (d.violation c w i a k r).evLog = d.evLog := by
  unfold Dev.violation; (try simp only []); (repeat' split) <;> first | (simp; done) | rfl | (simp; rfl)
@[simp] theorem Dev.violation_freezeLog (d : Dev) (c : CoreSt) (w : Who) (i a k r : Nat) : (d.violation c w i a k r).freezeLog = d.freezeLog := by
  unfold Dev.violation; (try simp only []); (repeat' split) <;> first | (simp; done) | rfl | (simp; rfl)
@[simp] theorem Dev.violation_dram (d : Dev) (c : CoreSt) (w : Who) (i a k r : Nat) : (d.violation c w i a k r).dram = d.dram := by
  unfold Dev.violation; (try simp only []); (repeat' split) <;> first | (simp; done) | rfl | (simp; rfl)
@[simp] theorem Dev.violation_saf (d : Dev) (c : CoreSt) (w : Who) (i a k r : Nat) : (d.violation c w i a k r).saf = d.saf := by
  unfold Dev.violation; (try simp only []); (repeat' split) <;> first | (simp; done) | rfl | (simp; rfl)
@[simp] theorem Dev.violation_xq (d : Dev) (c : CoreSt) (w : Who) (i a k r : Nat) : (d.violation c w i a k r).xq = d.xq := by
  unfold Dev.violation; (try simp only []); (repeat' split) <;> first | (simp; done) | rfl | (simp; rfl)
@[simp] theorem Dev.violation_doc (d : Dev) (c : CoreSt) (w : Who) (i a k r : Nat) : (d.violation c w i a k r).doc = d.doc := by
  unfold Dev.violation; (try simp only []); (repeat' split) <;> first | (simp; done) | rfl | (simp; rfl)
@[simp] theorem Dev.violation_gals (d : Dev) (c : CoreSt) (w : Who) (i a k r : Nat) : (d.violation c w i a k r).gals = d.gals := by
  unfold Dev.violation; (try simp only []); (repeat' split) <;> first | (simp; done) | rfl | (simp; rfl)
@[simp] theorem Dev.violation_sfl (d : Dev) (c : CoreSt) (w : Who) (i a k r : Nat) : (d.violation c w i a k r).sfl = d.sfl := by
  unfold Dev.violation; (try simp only []); (repeat' split) <;> first | (simp; done) | rfl | (simp; rfl)
@[simp] theorem Dev.violation_exc (d : Dev) (c : CoreSt) (w : Who) (i a k r : Nat) : (d.violation c w i a k r).exc = d.exc := by
  unfold Dev.violation; (try simp only []); (repeat' split) <;> first | (simp; done) | rfl | (simp; rfl)
@[simp] theorem Dev.violation_fol (d : Dev) (c : CoreSt) (w : Who) (i a k r : Nat) : (d.violation c w i a k r).fol = d.fol := by
  unfold Dev.violation; (try simp only []); (repeat' split) <;> first | (simp; done) | rfl | (simp; rfl)
@[simp] theorem Dev.violation_dma (d : Dev) (c : CoreSt) (w : Who) (i a k r : Nat) : (d.violation c w i a k r).dma = d.dma := by
  unfold Dev.violation; (try simp only []); (repeat' split) <;> first | (simp; done) | rfl | (simp; rfl)
@[simp] theorem Dev.violation_prv (d : Dev) (c : CoreSt) (w : Who) (i a k r : Nat) : (d.violation c w i a k r).prv = d.prv := by
  unfold Dev.violation; (try simp only []); (repeat' split) <;> first | (simp; done) | rfl | (simp; rfl)
@[simp] theorem Dev.violation_cat (d : Dev) (c : CoreSt) (w : Who) (i a k r : Nat) : (d.violation c w i a k r).cat = d.cat := by
  unfold Dev.violation; (try simp only []); (repeat' split) <;> first | (simp; done) | rfl | (simp; rfl)
@[simp] theorem Dev.violation_vol (d : Dev) (c : CoreSt) (w : Who) (i a k r : Nat) : (d.violation c w i a k r).vol = d.vol := by
  unfold Dev.violation; (try simp only []); (repeat' split) <;> first | (simp; done) | rfl | (simp; rfl)
@[simp] theorem Dev.violation_acc (d : Dev) (c : CoreSt) (w : Who) (i a k r : Nat) : (d.violation c w i a k r).acc = d.acc := by
  unfold Dev.violation; (try simp only []); (repeat' split) <;> first | (simp; done) | rfl | (simp; rfl)
@[simp] theorem Dev.violation_pwr (d : Dev) (c : CoreSt) (w : Who) (i a k r : Nat) : (d.violation c w i a k r).pwr = d.pwr := by
  unfold Dev.violation; (try simp only []); (repeat' split) <;> first | (simp; done) | rfl | (simp; rfl)
@[simp] theorem Dev.violation_cfg (d : Dev) (c : CoreSt) (w : Who) (i a k r : Nat) : (d.violation c w i a k r).cfg = d.cfg := by
  unfold Dev.violation; (try simp only []); (repeat' split) <;> first | (simp; done) | rfl | (simp; rfl)
@[simp] theorem Dev.violation_firmware (d : Dev) (c : CoreSt) (w : Who) (i a k r : Nat) : (d.violation c w i a k r).firmware = d.firmware := by
  unfold Dev.violation; (try simp only []); (repeat' split) <;> first | (simp; done) | rfl | (simp; rfl)
@[simp] theorem Dev.violation_phy (d : Dev) (c : CoreSt) (w : Who) (i a k r : Nat) : (d.violation c w i a k r).phy = d.phy := by
  unfold Dev.violation; (try simp only []); (repeat' split) <;> first | (simp; done) | rfl | (simp; rfl)
@[simp] theorem Dev.violation_mgmt (d : Dev) (c : CoreSt) (w : Who) (i a k r : Nat) : (d.violation c w i a k r).mgmt = d.mgmt := by
  unfold Dev.violation; (try simp only []); (repeat' split) <;> first | (simp; done) | rfl | (simp; rfl)
@[simp] theorem Dev.violation_fresh (d : Dev) (c : CoreSt) (w : Who) (i a k r : Nat) : (d.violation c w i a k r).fresh = d.fresh := by
  unfold Dev.violation; (try simp only []); (repeat' split) <;> first | (simp; done) | rfl | (simp; rfl)
@[simp] theorem Dev.devViolation_mem (d : Dev) (c : CoreSt) (w : Who) (i a k : Nat) : (d.devViolation c w i a k).mem = d.mem := by
  unfold Dev.devViolation; (try simp only []); (repeat' split) <;> first | (simp; done) | rfl | (simp; rfl)
@[simp] theorem Dev.devViolation_evLog (d : Dev) (c : CoreSt) (w : Who) (i a k : Nat) : (d.devViolation c w i a k).evLog = d.evLog := by
  unfold Dev.devViolation; (try simp only []); (repeat' split) <;> first | (simp; done) | rfl | (simp; rfl)
@[simp] theorem Dev.devViolation_freezeLog (d : Dev) (c : CoreSt) (w : Who) (i a k : Nat) : (d.devViolation c w i a k).freezeLog = d.freezeLog := by
  unfold Dev.devViolation; (try simp only []); (repeat' split) <;> first | (simp; done) | rfl | (simp; rfl)
@[simp] theorem Dev.devViolation_dram (d : Dev) (c : CoreSt) (w : Who) (i a k : Nat) : (d.devViolation c w i a k).dram = d.dram := by
  unfold Dev.devViolation; (try simp only []); (repeat' split) <;> first | (simp; done) | rfl | (simp; rfl)
@[simp] theorem Dev.devViolation_saf (d : Dev) (c : CoreSt) (w : Who) (i a k : Nat) : (d.devViolation c w i a k).saf = d.saf := by
  unfold Dev.devViolation; (try simp only []); (repeat' split) <;> first | (simp; done) | rfl | (simp; rfl)
@[simp] theorem Dev.devViolation_xq (d : Dev) (c : CoreSt) (w : Who) (i a k : Nat) : (d.devViolation c w i a k).xq = d.xq := by
  unfold Dev.devViolation; (try simp only []); (repeat' split) <;> first | (simp; done) | rfl | (simp; rfl)
@[simp] theorem Dev.devViolation_doc (d : Dev) (c : CoreSt) (w : Who) (i a k : Nat) : (d.devViolation c w i a k).doc = d.doc := by
  unfold Dev.devViolation; (try simp only []); (repeat' split) <;> first | (simp; done) | rfl | (simp; rfl)
@[simp] theorem Dev.devViolation_gals (d : Dev) (c : CoreSt) (w : Who) (i a k : Nat) : (d.devViolation c w i a k).gals = d.gals := by
  unfold Dev.devViolation; (try simp only []); (repeat' split) <;> first | (simp; done) | rfl | (simp; rfl)
@[simp] theorem Dev.devViolation_sfl (d : Dev) (c : CoreSt) (w : Who) (i a k : Nat) : (d.devViolation c w i a k).sfl = d.sfl := by
  unfold Dev.devViolation; (try simp only []); (repeat' split) <;> first | (simp; done) | rfl | (simp; rfl)
@[simp] theorem Dev.devViolation_exc (d : Dev) (c : CoreSt) (w : Who) (i a k : Nat) : (d.devViolation c w i a k).exc = d.exc := by
  unfold Dev.devViolation; (try simp only []); (repeat' split) <;> first | (simp; done) | rfl | (simp; rfl)
@[simp] theorem Dev.devViolation_fol (d : Dev) (c : CoreSt) (w : Who) (i a k : Nat) : (d.devViolation c w i a k).fol = d.fol := by
  unfold Dev.devViolation; (try simp only []); (repeat' split) <;> first | (simp; done) | rfl | (simp; rfl)
@[simp] theorem Dev.devViolation_dma (d : Dev) (c : CoreSt) (w : Who) (i a k : Nat) : (d.devViolation c w i a k).dma = d.dma := by
  unfold Dev.devViolation; (try simp only []); (repeat' split) <;> first | (simp; done) | rfl | (simp; rfl)
@[simp] theorem Dev.devViolation_prv (d : Dev) (c : CoreSt) (w : Who) (i a k : Nat) : (d.devViolation c w i a k).prv = d.prv := by
  unfold Dev.devViolation; (try simp only []); (repeat' split) <;> first | (simp; done) | rfl | (simp; rfl)
@[simp] theorem Dev.devViolation_cat (d : Dev) (c : CoreSt) (w : Who) (i a k : Nat) : (d.devViolation c w i a k).cat = d.cat := by
  unfold Dev.devViolation; (try simp only []); (repeat' split) <;> first | (simp; done) | rfl | (simp; rfl)
@[simp] theorem Dev.devViolation_vol (d : Dev) (c : CoreSt) (w : Who) (i a k : Nat) : (d.devViolation c w i a k).vol = d.vol := by
  unfold Dev.devViolation; (try simp only []); (repeat' split) <;> first | (simp; done) | rfl | (simp; rfl)
@[simp] theorem Dev.devViolation_acc (d : Dev) (c : CoreSt) (w : Who) (i a k : Nat) : (d.devViolation c w i a k).acc = d.acc := by
  unfold Dev.devViolation; (try simp only []); (repeat' split) <;> first | (simp; done) | rfl | (simp; rfl)
@[simp] theorem Dev.devViolation_pwr (d : Dev) (c : CoreSt) (w : Who) (i a k : Nat) : (d.devViolation c w i a k).pwr = d.pwr := by
  unfold Dev.devViolation; (try simp only []); (repeat' split) <;> first | (simp; done) | rfl | (simp; rfl)
@[simp] theorem Dev.devViolation_cfg (d : Dev) (c : CoreSt) (w : Who) (i a k : Nat) : (d.devViolation c w i a k).cfg = d.cfg := by
  unfold Dev.devViolation; (try simp only []); (repeat' split) <;> first | (simp; done) | rfl | (simp; rfl)
@[simp] theorem Dev.devViolation_firmware (d : Dev) (c : CoreSt) (w : Who) (i a k : Nat) : (d.devViolation c w i a k).firmware = d.firmware := by
  unfold Dev.devViolation; (try simp only []); (repeat' split) <;> first | (simp; done) | rfl | (simp; rfl)
@[simp] theorem Dev.devViolation_phy (d : Dev) (c : CoreSt) (w : Who) (i a k : Nat) : (d.devViolation c w i a k).phy = d.phy := by
  unfold Dev.devViolation; (try simp only []); (repeat' split) <;> first | (simp; done) | rfl | (simp; rfl)
@[simp] theorem Dev.devViolation_mgmt (d : Dev) (c : CoreSt) (w : Who) (i a k : Nat) : (d.devViolation c w i a k).mgmt = d.mgmt := by
  unfold Dev.devViolation; (try simp only []); (repeat' split) <;> first | (simp; done) | rfl | (simp; rfl)
@[simp] theorem Dev.devViolation_fresh (d : Dev) (c : CoreSt) (w : Who) (i a k : Nat) : (d.devViolation c w i a k).fresh = d.fresh := by
  unfold Dev.devViolation; (try simp only []); (repeat' split) <;> first | (simp; done) | rfl | (simp; rfl)
@[simp] theorem Dev.recordFail_mem (d : Dev) (c : CoreSt) (w : Who) (i : Nat) (wr : Bool) (f : AccFail) : (d.recordFail c w i wr f).mem = d.mem := by
  unfold Dev.recordFail; (try simp only []); (repeat' split) <;> first | (simp; done) | rfl | (simp; rfl)
@[simp] theorem Dev.recordFail_evLog (d : Dev) (c : CoreSt) (w : Who) (i : Nat) (wr : Bool) (f : AccFail) : (d.recordFail c w i wr f).evLog = d.evLog := by
  unfold Dev.recordFail; (try simp only []); (repeat' split) <;> first | (simp; done) | rfl | (simp; rfl)
@[simp] theorem Dev.recordFail_freezeLog (d : Dev) (c : CoreSt) (w : Who) (i : Nat) (wr : Bool) (f : AccFail) : (d.recordFail c w i wr f).freezeLog = d.freezeLog := by
  unfold Dev.recordFail; (try simp only []); (repeat' split) <;> first | (simp; done) | rfl | (simp; rfl)
@[simp] theorem Dev.recordFail_dram (d : Dev) (c : CoreSt) (w : Who) (i : Nat) (wr : Bool) (f : AccFail) : (d.recordFail c w i wr f).dram = d.dram := by
  unfold Dev.recordFail; (try simp only []); (repeat' split) <;> first | (simp; done) | rfl | (simp; rfl)
@[simp] theorem Dev.recordFail_saf (d : Dev) (c : CoreSt) (w : Who) (i : Nat) (wr : Bool) (f : AccFail) : (d.recordFail c w i wr f).saf = d.saf := by
  unfold Dev.recordFail; (try simp only []); (repeat' split) <;> first | (simp; done) | rfl | (simp; rfl)
@[simp] theorem Dev.recordFail_xq (d : Dev) (c : CoreSt) (w : Who) (i : Nat) (wr : Bool) (f : AccFail) : (d.recordFail c w i wr f).xq = d.xq := by
  unfold Dev.recordFail; (try simp only []); (repeat' split) <;> first | (simp; done) | rfl | (simp; rfl)
@[simp] theorem Dev.recordFail_doc (d : Dev) (c : CoreSt) (w : Who) (i : Nat) (wr : Bool) (f : AccFail) : (d.recordFail c w i wr f).doc = d.doc := by
  unfold Dev.recordFail; (try simp only []); (repeat' split) <;> first | (simp; done) | rfl | (simp; rfl)
@[simp] theorem Dev.recordFail_gals (d : Dev) (c : CoreSt) (w : Who) (i : Nat) (wr : Bool) (f : AccFail) : (d.recordFail c w i wr f).gals = d.gals := by
  unfold Dev.recordFail; (try simp only []); (repeat' split) <;> first | (simp; done) | rfl | (simp; rfl)
@[simp] theorem Dev.recordFail_sfl (d : Dev) (c : CoreSt) (w : Who) (i : Nat) (wr : Bool) (f : AccFail) : (d.recordFail c w i wr f).sfl = d.sfl := by
  unfold Dev.recordFail; (try simp only []); (repeat' split) <;> first | (simp; done) | rfl | (simp; rfl)
@[simp] theorem Dev.recordFail_exc (d : Dev) (c : CoreSt) (w : Who) (i : Nat) (wr : Bool) (f : AccFail) : (d.recordFail c w i wr f).exc = d.exc := by
  unfold Dev.recordFail; (try simp only []); (repeat' split) <;> first | (simp; done) | rfl | (simp; rfl)
@[simp] theorem Dev.recordFail_fol (d : Dev) (c : CoreSt) (w : Who) (i : Nat) (wr : Bool) (f : AccFail) : (d.recordFail c w i wr f).fol = d.fol := by
  unfold Dev.recordFail; (try simp only []); (repeat' split) <;> first | (simp; done) | rfl | (simp; rfl)
@[simp] theorem Dev.recordFail_dma (d : Dev) (c : CoreSt) (w : Who) (i : Nat) (wr : Bool) (f : AccFail) : (d.recordFail c w i wr f).dma = d.dma := by
  unfold Dev.recordFail; (try simp only []); (repeat' split) <;> first | (simp; done) | rfl | (simp; rfl)
@[simp] theorem Dev.recordFail_prv (d : Dev) (c : CoreSt) (w : Who) (i : Nat) (wr : Bool) (f : AccFail) : (d.recordFail c w i wr f).prv = d.prv := by
  unfold Dev.recordFail; (try simp only []); (repeat' split) <;> first | (simp; done) | rfl | (simp; rfl)
@[simp] theorem Dev.recordFail_cat (d : Dev) (c : CoreSt) (w : Who) (i : Nat) (wr : Bool) (f : AccFail) : (d.recordFail c w i wr f).cat = d.cat := by
  unfold Dev.recordFail; (try simp only []); (repeat' split) <;> first | (simp; done) | rfl | (simp; rfl)
@[simp] theorem Dev.recordFail_vol (d : Dev) (c : CoreSt) (w : Who) (i : Nat) (wr : Bool) (f : AccFail) : (d.recordFail c w i wr f).vol = d.vol := by
  unfold Dev.recordFail; (try simp only []); (repeat' split) <;> first | (simp; done) | rfl | (simp; rfl)
@[simp] theorem Dev.recordFail_acc (d : Dev) (c : CoreSt) (w : Who) (i : Nat) (wr : Bool) (f : AccFail) : (d.recordFail c w i wr f).acc = d.acc := by
  unfold Dev.recordFail; (try simp only []); (repeat' split) <;> first | (simp; done) | rfl | (simp; rfl)
@[simp] theorem Dev.recordFail_pwr (d : Dev) (c : CoreSt) (w : Who) (i : Nat) (wr : Bool) (f : AccFail) : (d.recordFail c w i wr f).pwr = d.pwr := by
  unfold Dev.recordFail; (try simp only []); (repeat' split) <;> first | (simp; done) | rfl | (simp; rfl)
@[simp] theorem Dev.recordFail_cfg (d : Dev) (c : CoreSt) (w : Who) (i : Nat) (wr : Bool) (f : AccFail) : (d.recordFail c w i wr f).cfg = d.cfg := by
  unfold Dev.recordFail; (try simp only []); (repeat' split) <;> first | (simp; done) | rfl | (simp; rfl)
@[simp] theorem Dev.recordFail_firmware (d : Dev) (c : CoreSt) (w : Who) (i : Nat) (wr : Bool) (f : AccFail) : (d.recordFail c w i wr f).firmware = d.firmware := by
  unfold Dev.recordFail; (try simp only []); (repeat' split) <;> first | (simp; done) | rfl | (simp; rfl)
@[simp] theorem Dev.recordFail_phy (d : Dev) (c : CoreSt) (w : Who) (i : Nat) (wr : Bool) (f : AccFail) : (d.recordFail c w i wr f).phy = d.phy := by
  unfold Dev.recordFail; (try simp only []); (repeat' split) <;> first | (simp; done) | rfl | (simp; rfl)
@[simp] theorem Dev.recordFail_mgmt (d : Dev) (c : CoreSt) (w : Who) (i : Nat) (wr : Bool) (f : AccFail) : (d.recordFail c w i wr f).mgmt = d.mgmt := by
  unfold Dev.recordFail; (try simp only []); (repeat' split) <;> first | (simp; done) | rfl | (simp; rfl)
@[simp] theorem Dev.recordFail_fresh (d : Dev) (c : CoreSt) (w : Who) (i : Nat) (wr : Bool) (f : AccFail) : (d.recordFail c w i wr f).fresh = d.fresh := by
  unfold Dev.recordFail; (try simp only []); (repeat' split) <;> first | (simp; done) | rfl | (simp; rfl)
@[simp] theorem Dev.clearTags_regs (d : Dev) (k n : Nat) : (d.clearTags k n).regs = d.regs := by
  unfold Dev.clearTags; (try simp only []); (repeat' split) <;> first | (simp; done) | rfl | (simp; rfl)
@[simp] theorem Dev.clearTags_mem (d : Dev) (k n : Nat) : (d.clearTags k n).mem = d.mem := by
  unfold Dev.clearTags; (try simp only []); (repeat' split) <;> first | (simp; done) | rfl | (simp; rfl)
@[simp] theorem Dev.clearTags_evLog (d : Dev) (k n : Nat) : (d.clearTags k n).evLog = d.evLog := by
  unfold Dev.clearTags; (try simp only []); (repeat' split) <;> first | (simp; done) | rfl | (simp; rfl)
@[simp] theorem Dev.clearTags_freezeLog (d : Dev) (k n : Nat) : (d.clearTags k n).freezeLog = d.freezeLog := by
  unfold Dev.clearTags; (try simp only []); (repeat' split) <;> first | (simp; done) | rfl | (simp; rfl)
@[simp] theorem Dev.clearTags_evt (d : Dev) (k n : Nat) : (d.clearTags k n).evt = d.evt := by
  unfold Dev.clearTags; (try simp only []); (repeat' split) <;> first | (simp; done) | rfl | (simp; rfl)
@[simp] theorem Dev.clearTags_ins (d : Dev) (k n : Nat) : (d.clearTags k n).ins = d.ins := by
  unfold Dev.clearTags; (try simp only []); (repeat' split) <;> first | (simp; done) | rfl | (simp; rfl)
@[simp] theorem Dev.clearTags_dram (d : Dev) (k n : Nat) : (d.clearTags k n).dram = d.dram := by
  unfold Dev.clearTags; (try simp only []); (repeat' split) <;> first | (simp; done) | rfl | (simp; rfl)
@[simp] theorem Dev.clearTags_saf (d : Dev) (k n : Nat) : (d.clearTags k n).saf = d.saf := by
  unfold Dev.clearTags; (try simp only []); (repeat' split) <;> first | (simp; done) | rfl | (simp; rfl)
@[simp] theorem Dev.clearTags_xq (d : Dev) (k n : Nat) : (d.clearTags k n).xq = d.xq := by
  unfold Dev.clearTags; (try simp only []); (repeat' split) <;> first | (simp; done) | rfl | (simp; rfl)
@[simp] theorem Dev.clearTags_doc (d : Dev) (k n : Nat) : (d.clearTags k n).doc = d.doc := by
  unfold Dev.clearTags; (try simp only []); (repeat' split) <;> first | (simp; done) | rfl | (simp; rfl)
@[simp] theorem Dev.clearTags_sfl (d : Dev) (k n : Nat) : (d.clearTags k n).sfl = d.sfl := by
  unfold Dev.clearTags; (try simp only []); (repeat' split) <;> first | (simp; done) | rfl | (simp; rfl)
@[simp] theorem Dev.clearTags_exc (d : Dev) (k n : Nat) : (d.clearTags k n).exc = d.exc := by
  unfold Dev.clearTags; (try simp only []); (repeat' split) <;> first | (simp; done) | rfl | (simp; rfl)
@[simp] theorem Dev.clearTags_fol (d : Dev) (k n : Nat) : (d.clearTags k n).fol = d.fol := by
  unfold Dev.clearTags; (try simp only []); (repeat' split) <;> first | (simp; done) | rfl | (simp; rfl)
@[simp] theorem Dev.clearTags_dma (d : Dev) (k n : Nat) : (d.clearTags k n).dma = d.dma := by
  unfold Dev.clearTags; (try simp only []); (repeat' split) <;> first | (simp; done) | rfl | (simp; rfl)
@[simp] theorem Dev.clearTags_prv (d : Dev) (k n : Nat) : (d.clearTags k n).prv = d.prv := by
  unfold Dev.clearTags; (try simp only []); (repeat' split) <;> first | (simp; done) | rfl | (simp; rfl)
@[simp] theorem Dev.clearTags_cat (d : Dev) (k n : Nat) : (d.clearTags k n).cat = d.cat := by
  unfold Dev.clearTags; (try simp only []); (repeat' split) <;> first | (simp; done) | rfl | (simp; rfl)
@[simp] theorem Dev.clearTags_vol (d : Dev) (k n : Nat) : (d.clearTags k n).vol = d.vol := by
  unfold Dev.clearTags; (try simp only []); (repeat' split) <;> first | (simp; done) | rfl | (simp; rfl)
@[simp] theorem Dev.clearTags_acc (d : Dev) (k n : Nat) : (d.clearTags k n).acc = d.acc := by
  unfold Dev.clearTags; (try simp only []); (repeat' split) <;> first | (simp; done) | rfl | (simp; rfl)
@[simp] theorem Dev.clearTags_pwr (d : Dev) (k n : Nat) : (d.clearTags k n).pwr = d.pwr := by
  unfold Dev.clearTags; (try simp only []); (repeat' split) <;> first | (simp; done) | rfl | (simp; rfl)
@[simp] theorem Dev.clearTags_cfg (d : Dev) (k n : Nat) : (d.clearTags k n).cfg = d.cfg := by
  unfold Dev.clearTags; (try simp only []); (repeat' split) <;> first | (simp; done) | rfl | (simp; rfl)
@[simp] theorem Dev.clearTags_firmware (d : Dev) (k n : Nat) : (d.clearTags k n).firmware = d.firmware := by
  unfold Dev.clearTags; (try simp only []); (repeat' split) <;> first | (simp; done) | rfl | (simp; rfl)
@[simp] theorem Dev.clearTags_phy (d : Dev) (k n : Nat) : (d.clearTags k n).phy = d.phy := by
  unfold Dev.clearTags; (try simp only []); (repeat' split) <;> first | (simp; done) | rfl | (simp; rfl)
@[simp] theorem Dev.clearTags_mgmt (d : Dev) (k n : Nat) : (d.clearTags k n).mgmt = d.mgmt := by
  unfold Dev.clearTags; (try simp only []); (repeat' split) <;> first | (simp; done) | rfl | (simp; rfl)
@[simp] theorem Dev.clearTags_fresh (d : Dev) (k n : Nat) : (d.clearTags k n).fresh = d.fresh := by
  unfold Dev.clearTags; (try simp only []); (repeat' split) <;> first | (simp; done) | rfl | (simp; rfl)
@[simp] theorem Dev.localWrite_regs (d : Dev) (p a : Nat) (bs : Bytes) : (d.localWrite p a bs).regs = d.regs := by
  unfold Dev.localWrite; (try simp only []); (repeat' split) <;> first | (simp; done) | rfl | (simp; rfl)
@[simp] theorem Dev.localWrite_evLog (d : Dev) (p a : Nat) (bs : Bytes) : (d.localWrite p a bs).evLog = d.evLog := by
  unfold Dev.localWrite; (try simp only []); (repeat' split) <;> first | (simp; done) | rfl | (simp; rfl)
@[simp] theorem Dev.localWrite_freezeLog (d : Dev) (p a : Nat) (bs : Bytes) : (d.localWrite p a bs).freezeLog = d.freezeLog := by
  unfold Dev.localWrite; (try simp only []); (repeat' split) <;> first | (simp; done) | rfl | (simp; rfl)
@[simp] theorem Dev.localWrite_evt (d : Dev) (p a : Nat) (bs : Bytes) : (d.localWrite p a bs).evt = d.evt := by
  unfold Dev.localWrite; (try simp only []); (repeat' split) <;> first | (simp; done) | rfl | (simp; rfl)
@[simp] theorem Dev.localWrite_ins (d : Dev) (p a : Nat) (bs : Bytes) : (d.localWrite p a bs).ins = d.ins := by
  unfold Dev.localWrite; (try simp only []); (repeat' split) <;> first | (simp; done) | rfl | (simp; rfl)
@[simp] theorem Dev.localWrite_dram (d : Dev) (p a : Nat) (bs : Bytes) : (d.localWrite p a bs).dram = d.dram := by
  unfold Dev.localWrite; (try simp only []); (repeat' split) <;> first | (simp; done) | rfl | (simp; rfl)
@[simp] theorem Dev.localWrite_saf (d : Dev) (p a : Nat) (bs : Bytes) : (d.localWrite p a bs).saf = d.saf := by
  unfold Dev.localWrite; (try simp only []); (repeat' split) <;> first | (simp; done) | rfl | (simp; rfl)
@[simp] theorem Dev.localWrite_xq (d : Dev) (p a : Nat) (bs : Bytes) : (d.localWrite p a bs).xq = d.xq := by
  unfold Dev.localWrite; (try simp only []); (repeat' split) <;> first | (simp; done) | rfl | (simp; rfl)
@[simp] theorem Dev.localWrite_doc (d : Dev) (p a : Nat) (bs : Bytes) : (d.localWrite p a bs).doc = d.doc := by
  unfold Dev.localWrite; (try simp only []); (repeat' split) <;> first | (simp; done) | rfl | (simp; rfl)
@[simp] theorem Dev.localWrite_sfl (d : Dev) (p a : Nat) (bs : Bytes) : (d.localWrite p a bs).sfl = d.sfl := by
  unfold Dev.localWrite; (try simp only []); (repeat' split) <;> first | (simp; done) | rfl | (simp; rfl)
@[simp] theorem Dev.localWrite_exc (d : Dev) (p a : Nat) (bs : Bytes) : (d.localWrite p a bs).exc = d.exc := by
  unfold Dev.localWrite; (try simp only []); (repeat' split) <;> first | (simp; done) | rfl | (simp; rfl)
@[simp] theorem Dev.localWrite_fol (d : Dev) (p a : Nat) (bs : Bytes) : (d.localWrite p a bs).fol = d.fol := by
  unfold Dev.localWrite; (try simp only []); (repeat' split) <;> first | (simp; done) | rfl | (simp; rfl)
@[simp] theorem Dev.localWrite_dma (d : Dev) (p a : Nat) (bs : Bytes) : (d.localWrite p a bs).dma = d.dma := by
  unfold Dev.localWrite; (try simp only []); (repeat' split) <;> first | (simp; done) | rfl | (simp; rfl)
@[simp] theorem Dev.localWrite_prv (d : Dev) (p a : Nat) (bs : Bytes) : (d.localWrite p a bs).prv = d.prv := by
  unfold Dev.localWrite; (try simp only []); (repeat' split) <;> first | (simp; done) | rfl | (simp; rfl)
@[simp] theorem Dev.localWrite_cat (d : Dev) (p a : Nat) (bs : Bytes) : (d.localWrite p a bs).cat = d.cat := by
  unfold Dev.localWrite; (try simp only []); (repeat' split) <;> first | (simp; done) | rfl | (simp; rfl)
@[simp] theorem Dev.localWrite_vol (d : Dev) (p a : Nat) (bs : Bytes) : (d.localWrite p a bs).vol = d.vol := by
  unfold Dev.localWrite; (try simp only []); (repeat' split) <;> first | (simp; done) | rfl | (simp; rfl)
@[simp] theorem Dev.localWrite_acc (d : Dev) (p a : Nat) (bs : Bytes) : (d.localWrite p a bs).acc = d.acc := by
  unfold Dev.localWrite; (try simp only []); (repeat' split) <;> first | (simp; done) | rfl | (simp; rfl)
@[simp] theorem Dev.localWrite_pwr (d : Dev) (p a : Nat) (bs : Bytes) : (d.localWrite p a bs).pwr = d.pwr := by
  unfold Dev.localWrite; (try simp only []); (repeat' split) <;> first | (simp; done) | rfl | (simp; rfl)
@[simp] theorem Dev.localWrite_cfg (d : Dev) (p a : Nat) (bs : Bytes) : (d.localWrite p a bs).cfg = d.cfg := by
  unfold Dev.localWrite; (try simp only []); (repeat' split) <;> first | (simp; done) | rfl | (simp; rfl)
@[simp] theorem Dev.localWrite_firmware (d : Dev) (p a : Nat) (bs : Bytes) : (d.localWrite p a bs).firmware = d.firmware := by
  unfold Dev.localWrite; (try simp only []); (repeat' split) <;> first | (simp; done) | rfl | (simp; rfl)
@[simp] theorem Dev.localWrite_phy (d : Dev) (p a : Nat) (bs : Bytes) : (d.localWrite p a bs).phy = d.phy := by
  unfold Dev.localWrite; (try simp only []); (repeat' split) <;> first | (simp; done) | rfl | (simp; rfl)
@[simp] theorem Dev.localWrite_mgmt (d : Dev) (p a : Nat) (bs : Bytes) : (d.localWrite p a bs).mgmt = d.mgmt := by
  unfold Dev.localWrite; (try simp only []); (repeat' split) <;> first | (simp; done) | rfl | (simp; rfl)
@[simp] theorem Dev.localWrite_fresh (d : Dev) (p a : Nat) (bs : Bytes) : (d.localWrite p a bs).fresh = d.fresh := by
  unfold Dev.localWrite; (try simp only []); (repeat' split) <;> first | (simp; done) | rfl | (simp; rfl)
@[simp] theorem Dev.enqueue_regs (d : Dev) (c : CoreSt) (w : Bool) (cls ch a : Nat) : (d.enqueue c w cls ch a).regs = d.regs := by
  unfold Dev.enqueue; (try simp only []); (repeat' split) <;> first | (simp; done) | rfl | (simp; rfl)
@[simp] theorem Dev.enqueue_mem (d : Dev) (c : CoreSt) (w : Bool) (cls ch a : Nat) : (d.enqueue c w cls ch a).mem = d.mem := by
  unfold Dev.enqueue; (try simp only []); (repeat' split) <;> first | (simp; done) | rfl | (simp; rfl)
@[simp] theorem Dev.enqueue_evLog (d : Dev) (c : CoreSt) (w : Bool) (cls ch a : Nat) : (d.enqueue c w cls ch a).evLog = d.evLog := by
  unfold Dev.enqueue; (try simp only []); (repeat' split) <;> first | (simp; done) | rfl | (simp; rfl)
@[simp] theorem Dev.enqueue_freezeLog (d : Dev) (c : CoreSt) (w : Bool) (cls ch a : Nat) : (d.enqueue c w cls ch a).freezeLog = d.freezeLog := by
  unfold Dev.enqueue; (try simp only []); (repeat' split) <;> first | (simp; done) | rfl | (simp; rfl)
@[simp] theorem Dev.enqueue_evt (d : Dev) (c : CoreSt) (w : Bool) (cls ch a : Nat) : (d.enqueue c w cls ch a).evt = d.evt := by
  unfold Dev.enqueue; (try simp only []); (repeat' split) <;> first | (simp; done) | rfl | (simp; rfl)
@[simp] theorem Dev.enqueue_ins (d : Dev) (c : CoreSt) (w : Bool) (cls ch a : Nat) : (d.enqueue c w cls ch a).ins = d.ins := by
  unfold Dev.enqueue; (try simp only []); (repeat' split) <;> first | (simp; done) | rfl | (simp; rfl)
@[simp] theorem Dev.enqueue_saf (d : Dev) (c : CoreSt) (w : Bool) (cls ch a : Nat) : (d.enqueue c w cls ch a).saf = d.saf := by
  unfold Dev.enqueue; (try simp only []); (repeat' split) <;> first | (simp; done) | rfl | (simp; rfl)
@[simp] theorem Dev.enqueue_xq (d : Dev) (c : CoreSt) (w : Bool) (cls ch a : Nat) : (d.enqueue c w cls ch a).xq = d.xq := by
  unfold Dev.enqueue; (try simp only []); (repeat' split) <;> first | (simp; done) | rfl | (simp; rfl)
@[simp] theorem Dev.enqueue_doc (d : Dev) (c : CoreSt) (w : Bool) (cls ch a : Nat) : (d.enqueue c w cls ch a).doc = d.doc := by
  unfold Dev.enqueue; (try simp only []); (repeat' split) <;> first | (simp; done) | rfl | (simp; rfl)
@[simp] theorem Dev.enqueue_gals (d : Dev) (c : CoreSt) (w : Bool) (cls ch a : Nat) : (d.enqueue c w cls ch a).gals = d.gals := by
  unfold Dev.enqueue; (try simp only []); (repeat' split) <;> first | (simp; done) | rfl | (simp; rfl)
@[simp] theorem Dev.enqueue_sfl (d : Dev) (c : CoreSt) (w : Bool) (cls ch a : Nat) : (d.enqueue c w cls ch a).sfl = d.sfl := by
  unfold Dev.enqueue; (try simp only []); (repeat' split) <;> first | (simp; done) | rfl | (simp; rfl)
@[simp] theorem Dev.enqueue_exc (d : Dev) (c : CoreSt) (w : Bool) (cls ch a : Nat) : (d.enqueue c w cls ch a).exc = d.exc := by
  unfold Dev.enqueue; (try simp only []); (repeat' split) <;> first | (simp; done) | rfl | (simp; rfl)
@[simp] theorem Dev.enqueue_fol (d : Dev) (c : CoreSt) (w : Bool) (cls ch a : Nat) : (d.enqueue c w cls ch a).fol = d.fol := by
  unfold Dev.enqueue; (try simp only []); (repeat' split) <;> first | (simp; done) | rfl | (simp; rfl)
@[simp] theorem Dev.enqueue_dma (d : Dev) (c : CoreSt) (w : Bool) (cls ch a : Nat) : (d.enqueue c w cls ch a).dma = d.dma := by
  unfold Dev.enqueue; (try simp only []); (repeat' split) <;> first | (simp; done) | rfl | (simp; rfl)
@[simp] theorem Dev.enqueue_prv (d : Dev) (c : CoreSt) (w : Bool) (cls ch a : Nat) : (d.enqueue c w cls ch a).prv = d.prv := by
  unfold Dev.enqueue; (try simp only []); (repeat' split) <;> first | (simp; done) | rfl | (simp; rfl)
@[simp] theorem Dev.enqueue_cat (d : Dev) (c : CoreSt) (w : Bool) (cls ch a : Nat) : (d.enqueue c w cls ch a).cat = d.cat := by
  unfold Dev.enqueue; (try simp only []); (repeat' split) <;> first | (simp; done) | rfl | (simp; rfl)
@[simp] theorem Dev.enqueue_vol (d : Dev) (c : CoreSt) (w : Bool) (cls ch a : Nat) : (d.enqueue c w cls ch a).vol = d.vol := by
  unfold Dev.enqueue; (try simp only []); (repeat' split) <;> first | (simp; done) | rfl | (simp; rfl)
@[simp] theorem Dev.enqueue_acc (d : Dev) (c : CoreSt) (w : Bool) (cls ch a : Nat) : (d.enqueue c w cls ch a).acc = d.acc := by
  unfold Dev.enqueue; (try simp only []); (repeat' split) <;> first | (simp; done) | rfl | (simp; rfl)
@[simp] theorem Dev.enqueue_pwr (d : Dev) (c : CoreSt) (w : Bool) (cls ch a : Nat) : (d.enqueue c w cls ch a).pwr = d.pwr := by
  unfold Dev.enqueue; (try simp only []); (repeat' split) <;> first | (simp; done) | rfl | (simp; rfl)
@[simp] theorem Dev.enqueue_cfg (d : Dev) (c : CoreSt) (w : Bool) (cls ch a : Nat) : (d.enqueue c w cls ch a).cfg = d.cfg := by
  unfold Dev.enqueue; (try simp only []); (repeat' split) <;> first | (simp; done) | rfl | (simp; rfl)
@[simp] theorem Dev.enqueue_firmware (d : Dev) (c : CoreSt) (w : Bool) (cls ch a : Nat) : (d.enqueue c w cls ch a).firmware = d.firmware := by
  unfold Dev.enqueue; (try simp only []); (repeat' split) <;> first | (simp; done) | rfl | (simp; rfl)
@[simp] theorem Dev.enqueue_phy (d : Dev) (c : CoreSt) (w : Bool) (cls ch a : Nat) : (d.enqueue c w cls ch a).phy = d.phy := by
  unfold Dev.enqueue; (try simp only []); (repeat' split) <;> first | (simp; done) | rfl | (simp; rfl)
@[simp] theorem Dev.enqueue_mgmt (d : Dev) (c : CoreSt) (w : Bool) (cls ch a : Nat) : (d.enqueue c w cls ch a).mgmt = d.mgmt := by
  unfold Dev.enqueue; (try simp only []); (repeat' split) <;> first | (simp; done) | rfl | (simp; rfl)
@[simp] theorem Dev.enqueue_fresh (d : Dev) (c : CoreSt) (w : Bool) (cls ch a : Nat) : (d.enqueue c w cls ch a).fresh = d.fresh := by
  unfold Dev.enqueue; (try simp only []); (repeat' split) <;> first | (simp; done) | rfl | (simp; rfl)
@[simp] theorem Dev.accept_regs (d : Dev) (c : CoreSt) (w : Bool) (cls pa : Nat) : (d.accept c w cls pa).regs = d.regs := by
  unfold Dev.accept; (try simp only []); (repeat' split) <;> first | (simp; done) | rfl | (simp; rfl)
@[simp] theorem Dev.accept_mem (d : Dev) (c : CoreSt) (w : Bool) (cls pa : Nat) : (d.accept c w cls pa).mem = d.mem := by
  unfold Dev.accept; (try simp only []); (repeat' split) <;> first | (simp; done) | rfl | (simp; rfl)
@[simp] theorem Dev.accept_evLog (d : Dev) (c : CoreSt) (w : Bool) (cls pa : Nat) : (d.accept c w cls pa).evLog = d.evLog := by
  unfold Dev.accept; (try simp only []); (repeat' split) <;> first | (simp; done) | rfl | (simp; rfl)
@[simp] theorem Dev.accept_freezeLog (d : Dev) (c : CoreSt) (w : Bool) (cls pa : Nat) : (d.accept c w cls pa).freezeLog = d.freezeLog := by
  unfold Dev.accept; (try simp only []); (repeat' split) <;> first | (simp; done) | rfl | (simp; rfl)
@[simp] theorem Dev.accept_evt (d : Dev) (c : CoreSt) (w : Bool) (cls pa : Nat) : (d.accept c w cls pa).evt = d.evt := by
  unfold Dev.accept; (try simp only []); (repeat' split) <;> first | (simp; done) | rfl | (simp; rfl)
@[simp] theorem Dev.accept_ins (d : Dev) (c : CoreSt) (w : Bool) (cls pa : Nat) : (d.accept c w cls pa).ins = d.ins := by
  unfold Dev.accept; (try simp only []); (repeat' split) <;> first | (simp; done) | rfl | (simp; rfl)
@[simp] theorem Dev.accept_saf (d : Dev) (c : CoreSt) (w : Bool) (cls pa : Nat) : (d.accept c w cls pa).saf = d.saf := by
  unfold Dev.accept; (try simp only []); (repeat' split) <;> first | (simp; done) | rfl | (simp; rfl)
@[simp] theorem Dev.accept_xq (d : Dev) (c : CoreSt) (w : Bool) (cls pa : Nat) : (d.accept c w cls pa).xq = d.xq := by
  unfold Dev.accept; (try simp only []); (repeat' split) <;> first | (simp; done) | rfl | (simp; rfl)
@[simp] theorem Dev.accept_doc (d : Dev) (c : CoreSt) (w : Bool) (cls pa : Nat) : (d.accept c w cls pa).doc = d.doc := by
  unfold Dev.accept; (try simp only []); (repeat' split) <;> first | (simp; done) | rfl | (simp; rfl)
@[simp] theorem Dev.accept_gals (d : Dev) (c : CoreSt) (w : Bool) (cls pa : Nat) : (d.accept c w cls pa).gals = d.gals := by
  unfold Dev.accept; (try simp only []); (repeat' split) <;> first | (simp; done) | rfl | (simp; rfl)
@[simp] theorem Dev.accept_sfl (d : Dev) (c : CoreSt) (w : Bool) (cls pa : Nat) : (d.accept c w cls pa).sfl = d.sfl := by
  unfold Dev.accept; (try simp only []); (repeat' split) <;> first | (simp; done) | rfl | (simp; rfl)
@[simp] theorem Dev.accept_exc (d : Dev) (c : CoreSt) (w : Bool) (cls pa : Nat) : (d.accept c w cls pa).exc = d.exc := by
  unfold Dev.accept; (try simp only []); (repeat' split) <;> first | (simp; done) | rfl | (simp; rfl)
@[simp] theorem Dev.accept_fol (d : Dev) (c : CoreSt) (w : Bool) (cls pa : Nat) : (d.accept c w cls pa).fol = d.fol := by
  unfold Dev.accept; (try simp only []); (repeat' split) <;> first | (simp; done) | rfl | (simp; rfl)
@[simp] theorem Dev.accept_dma (d : Dev) (c : CoreSt) (w : Bool) (cls pa : Nat) : (d.accept c w cls pa).dma = d.dma := by
  unfold Dev.accept; (try simp only []); (repeat' split) <;> first | (simp; done) | rfl | (simp; rfl)
@[simp] theorem Dev.accept_prv (d : Dev) (c : CoreSt) (w : Bool) (cls pa : Nat) : (d.accept c w cls pa).prv = d.prv := by
  unfold Dev.accept; (try simp only []); (repeat' split) <;> first | (simp; done) | rfl | (simp; rfl)
@[simp] theorem Dev.accept_cat (d : Dev) (c : CoreSt) (w : Bool) (cls pa : Nat) : (d.accept c w cls pa).cat = d.cat := by
  unfold Dev.accept; (try simp only []); (repeat' split) <;> first | (simp; done) | rfl | (simp; rfl)
@[simp] theorem Dev.accept_vol (d : Dev) (c : CoreSt) (w : Bool) (cls pa : Nat) : (d.accept c w cls pa).vol = d.vol := by
  unfold Dev.accept; (try simp only []); (repeat' split) <;> first | (simp; done) | rfl | (simp; rfl)
@[simp] theorem Dev.accept_acc (d : Dev) (c : CoreSt) (w : Bool) (cls pa : Nat) : (d.accept c w cls pa).acc = d.acc := by
  unfold Dev.accept; (try simp only []); (repeat' split) <;> first | (simp; done) | rfl | (simp; rfl)
@[simp] theorem Dev.accept_pwr (d : Dev) (c : CoreSt) (w : Bool) (cls pa : Nat) : (d.accept c w cls pa).pwr = d.pwr := by
  unfold Dev.accept; (try simp only []); (repeat' split) <;> first | (simp; done) | rfl | (simp; rfl)
@[simp] theorem Dev.accept_cfg (d : Dev) (c : CoreSt) (w : Bool) (cls pa : Nat) : (d.accept c w cls pa).cfg = d.cfg := by
  unfold Dev.accept; (try simp only []); (repeat' split) <;> first | (simp; done) | rfl | (simp; rfl)
@[simp] theorem Dev.accept_firmware (d : Dev) (c : CoreSt) (w : Bool) (cls pa : Nat) : (d.accept c w cls pa).firmware = d.firmware := by
  unfold Dev.accept; (try simp only []); (repeat' split) <;> first | (simp; done) | rfl | (simp; rfl)
@[simp] theorem Dev.accept_phy (d : Dev) (c : CoreSt) (w : Bool) (cls pa : Nat) : (d.accept c w cls pa).phy = d.phy := by
  unfold Dev.accept; (try simp only []); (repeat' split) <;> first | (simp; done) | rfl | (simp; rfl)
@[simp] theorem Dev.accept_mgmt (d : Dev) (c : CoreSt) (w : Bool) (cls pa : Nat) : (d.accept c w cls pa).mgmt = d.mgmt := by
  unfold Dev.accept; (try simp only []); (repeat' split) <;> first | (simp; done) | rfl | (simp; rfl)
@[simp] theorem Dev.accept_fresh (d : Dev) (c : CoreSt) (w : Bool) (cls pa : Nat) : (d.accept c w cls pa).fresh = d.fresh := by
  unfold Dev.accept; (try simp only []); (repeat' split) <;> first | (simp; done) | rfl | (simp; rfl)
@[simp] theorem Dev.acceptRange_regs (d : Dev) (c : CoreSt) (w : Bool) (cls pa n : Nat) : (d.acceptRange c w cls pa n).regs = d.regs := by
  unfold Dev.acceptRange each
  exact foldl_keeps Dev.regs _ (fun s x => by simp) _ _
@[simp] theorem Dev.acceptRange_mem (d : Dev) (c : CoreSt) (w : Bool) (cls pa n : Nat) : (d.acceptRange c w cls pa n).mem = d.mem := by
  unfold Dev.acceptRange each
  exact foldl_keeps Dev.mem _ (fun s x => by simp) _ _
@[simp] theorem Dev.acceptRange_evLog (d : Dev) (c : CoreSt) (w : Bool) (cls pa n : Nat) : (d.acceptRange c w cls pa n).evLog = d.evLog := by
  unfold Dev.acceptRange each
  exact foldl_keeps Dev.evLog _ (fun s x => by simp) _ _
@[simp] theorem Dev.acceptRange_freezeLog (d : Dev) (c : CoreSt) (w : Bool) (cls pa n : Nat) : (d.acceptRange c w cls pa n).freezeLog = d.freezeLog := by
  unfold Dev.acceptRange each
  exact foldl_keeps Dev.freezeLog _ (fun s x => by simp) _ _
@[simp] theorem Dev.acceptRange_evt (d : Dev) (c : CoreSt) (w : Bool) (cls pa n : Nat) : (d.acceptRange c w cls pa n).evt = d.evt := by
  unfold Dev.acceptRange each
  exact foldl_keeps Dev.evt _ (fun s x => by simp) _ _
@[simp] theorem Dev.acceptRange_ins (d : Dev) (c : CoreSt) (w : Bool) (cls pa n : Nat) : (d.acceptRange c w cls pa n).ins = d.ins := by
  unfold Dev.acceptRange each
  exact foldl_keeps Dev.ins _ (fun s x => by simp) _ _
@[simp] theorem Dev.acceptRange_saf (d : Dev) (c : CoreSt) (w : Bool) (cls pa n : Nat) : (d.acceptRange c w cls pa n).saf = d.saf := by
  unfold Dev.acceptRange each
  exact foldl_keeps Dev.saf _ (fun s x => by simp) _ _
@[simp] theorem Dev.acceptRange_xq (d : Dev) (c : CoreSt) (w : Bool) (cls pa n : Nat) : (d.acceptRange c w cls pa n).xq = d.xq := by
  unfold Dev.acceptRange each
  exact foldl_keeps Dev.xq _ (fun s x => by simp) _ _
@[simp] theorem Dev.acceptRange_doc (d : Dev) (c : CoreSt) (w : Bool) (cls pa n : Nat) : (d.acceptRange c w cls pa n).doc = d.doc := by
  unfold Dev.acceptRange each
  exact foldl_keeps Dev.doc _ (fun s x => by simp) _ _
@[simp] theorem Dev.acceptRange_gals (d : Dev) (c : CoreSt) (w : Bool) (cls pa n : Nat) : (d.acceptRange c w cls pa n).gals = d.gals := by
  unfold Dev.acceptRange each
  exact foldl_keeps Dev.gals _ (fun s x => by simp) _ _
@[simp] theorem Dev.acceptRange_sfl (d : Dev) (c : CoreSt) (w : Bool) (cls pa n : Nat) : (d.acceptRange c w cls pa n).sfl = d.sfl := by
  unfold Dev.acceptRange each
  exact foldl_keeps Dev.sfl _ (fun s x => by simp) _ _
@[simp] theorem Dev.acceptRange_exc (d : Dev) (c : CoreSt) (w : Bool) (cls pa n : Nat) : (d.acceptRange c w cls pa n).exc = d.exc := by
  unfold Dev.acceptRange each
  exact foldl_keeps Dev.exc _ (fun s x => by simp) _ _
@[simp] theorem Dev.acceptRange_fol (d : Dev) (c : CoreSt) (w : Bool) (cls pa n : Nat) : (d.acceptRange c w cls pa n).fol = d.fol := by
  unfold Dev.acceptRange each
  exact foldl_keeps Dev.fol _ (fun s x => by simp) _ _
@[simp] theorem Dev.acceptRange_dma (d : Dev) (c : CoreSt) (w : Bool) (cls pa n : Nat) : (d.acceptRange c w cls pa n).dma = d.dma := by
  unfold Dev.acceptRange each
  exact foldl_keeps Dev.dma _ (fun s x => by simp) _ _
@[simp] theorem Dev.acceptRange_prv (d : Dev) (c : CoreSt) (w : Bool) (cls pa n : Nat) : (d.acceptRange c w cls pa n).prv = d.prv := by
  unfold Dev.acceptRange each
  exact foldl_keeps Dev.prv _ (fun s x => by simp) _ _
@[simp] theorem Dev.acceptRange_cat (d : Dev) (c : CoreSt) (w : Bool) (cls pa n : Nat) : (d.acceptRange c w cls pa n).cat = d.cat := by
  unfold Dev.acceptRange each
  exact foldl_keeps Dev.cat _ (fun s x => by simp) _ _
@[simp] theorem Dev.acceptRange_vol (d : Dev) (c : CoreSt) (w : Bool) (cls pa n : Nat) : (d.acceptRange c w cls pa n).vol = d.vol := by
  unfold Dev.acceptRange each
  exact foldl_keeps Dev.vol _ (fun s x => by simp) _ _
@[simp] theorem Dev.acceptRange_acc (d : Dev) (c : CoreSt) (w : Bool) (cls pa n : Nat) : (d.acceptRange c w cls pa n).acc = d.acc := by
  unfold Dev.acceptRange each
  exact foldl_keeps Dev.acc _ (fun s x => by simp) _ _
@[simp] theorem Dev.acceptRange_pwr (d : Dev) (c : CoreSt) (w : Bool) (cls pa n : Nat) : (d.acceptRange c w cls pa n).pwr = d.pwr := by
  unfold Dev.acceptRange each
  exact foldl_keeps Dev.pwr _ (fun s x => by simp) _ _
@[simp] theorem Dev.acceptRange_cfg (d : Dev) (c : CoreSt) (w : Bool) (cls pa n : Nat) : (d.acceptRange c w cls pa n).cfg = d.cfg := by
  unfold Dev.acceptRange each
  exact foldl_keeps Dev.cfg _ (fun s x => by simp) _ _
@[simp] theorem Dev.acceptRange_firmware (d : Dev) (c : CoreSt) (w : Bool) (cls pa n : Nat) : (d.acceptRange c w cls pa n).firmware = d.firmware := by
  unfold Dev.acceptRange each
  exact foldl_keeps Dev.firmware _ (fun s x => by simp) _ _
@[simp] theorem Dev.acceptRange_phy (d : Dev) (c : CoreSt) (w : Bool) (cls pa n : Nat) : (d.acceptRange c w cls pa n).phy = d.phy := by
  unfold Dev.acceptRange each
  exact foldl_keeps Dev.phy _ (fun s x => by simp) _ _
@[simp] theorem Dev.acceptRange_mgmt (d : Dev) (c : CoreSt) (w : Bool) (cls pa n : Nat) : (d.acceptRange c w cls pa n).mgmt = d.mgmt := by
  unfold Dev.acceptRange each
  exact foldl_keeps Dev.mgmt _ (fun s x => by simp) _ _
@[simp] theorem Dev.acceptRange_fresh (d : Dev) (c : CoreSt) (w : Bool) (cls pa n : Nat) : (d.acceptRange c w cls pa n).fresh = d.fresh := by
  unfold Dev.acceptRange each
  exact foldl_keeps Dev.fresh _ (fun s x => by simp) _ _
@[simp] theorem Dev.walkRequests_mem (d : Dev) (c : CoreSt) (i va : Nat) : (d.walkRequests c i va).mem = d.mem := by
  unfold Dev.walkRequests; split
  · rfl
  · unfold each; rw [Dev.count_mem]; exact foldl_keeps Dev.mem _ (fun s x => by simp) _ _
@[simp] theorem Dev.walkRequests_evLog (d : Dev) (c : CoreSt) (i va : Nat) : (d.walkRequests c i va).evLog = d.evLog := by
  unfold Dev.walkRequests; split
  · rfl
  · unfold each; rw [Dev.count_evLog]; exact foldl_keeps Dev.evLog _ (fun s x => by simp) _ _
@[simp] theorem Dev.walkRequests_freezeLog (d : Dev) (c : CoreSt) (i va : Nat) : (d.walkRequests c i va).freezeLog = d.freezeLog := by
  unfold Dev.walkRequests; split
  · rfl
  · unfold each; rw [Dev.count_freezeLog]; exact foldl_keeps Dev.freezeLog _ (fun s x => by simp) _ _
@[simp] theorem Dev.walkRequests_ins (d : Dev) (c : CoreSt) (i va : Nat) : (d.walkRequests c i va).ins = d.ins := by
  unfold Dev.walkRequests; split
  · rfl
  · unfold each; rw [Dev.count_ins]; exact foldl_keeps Dev.ins _ (fun s x => by simp) _ _
@[simp] theorem Dev.walkRequests_saf (d : Dev) (c : CoreSt) (i va : Nat) : (d.walkRequests c i va).saf = d.saf := by
  unfold Dev.walkRequests; split
  · rfl
  · unfold each; rw [Dev.count_saf]; exact foldl_keeps Dev.saf _ (fun s x => by simp) _ _
@[simp] theorem Dev.walkRequests_xq (d : Dev) (c : CoreSt) (i va : Nat) : (d.walkRequests c i va).xq = d.xq := by
  unfold Dev.walkRequests; split
  · rfl
  · unfold each; rw [Dev.count_xq]; exact foldl_keeps Dev.xq _ (fun s x => by simp) _ _
@[simp] theorem Dev.walkRequests_doc (d : Dev) (c : CoreSt) (i va : Nat) : (d.walkRequests c i va).doc = d.doc := by
  unfold Dev.walkRequests; split
  · rfl
  · unfold each; rw [Dev.count_doc]; exact foldl_keeps Dev.doc _ (fun s x => by simp) _ _
@[simp] theorem Dev.walkRequests_gals (d : Dev) (c : CoreSt) (i va : Nat) : (d.walkRequests c i va).gals = d.gals := by
  unfold Dev.walkRequests; split
  · rfl
  · unfold each; rw [Dev.count_gals]; exact foldl_keeps Dev.gals _ (fun s x => by simp) _ _
@[simp] theorem Dev.walkRequests_sfl (d : Dev) (c : CoreSt) (i va : Nat) : (d.walkRequests c i va).sfl = d.sfl := by
  unfold Dev.walkRequests; split
  · rfl
  · unfold each; rw [Dev.count_sfl]; exact foldl_keeps Dev.sfl _ (fun s x => by simp) _ _
@[simp] theorem Dev.walkRequests_exc (d : Dev) (c : CoreSt) (i va : Nat) : (d.walkRequests c i va).exc = d.exc := by
  unfold Dev.walkRequests; split
  · rfl
  · unfold each; rw [Dev.count_exc]; exact foldl_keeps Dev.exc _ (fun s x => by simp) _ _
@[simp] theorem Dev.walkRequests_fol (d : Dev) (c : CoreSt) (i va : Nat) : (d.walkRequests c i va).fol = d.fol := by
  unfold Dev.walkRequests; split
  · rfl
  · unfold each; rw [Dev.count_fol]; exact foldl_keeps Dev.fol _ (fun s x => by simp) _ _
@[simp] theorem Dev.walkRequests_dma (d : Dev) (c : CoreSt) (i va : Nat) : (d.walkRequests c i va).dma = d.dma := by
  unfold Dev.walkRequests; split
  · rfl
  · unfold each; rw [Dev.count_dma]; exact foldl_keeps Dev.dma _ (fun s x => by simp) _ _
@[simp] theorem Dev.walkRequests_prv (d : Dev) (c : CoreSt) (i va : Nat) : (d.walkRequests c i va).prv = d.prv := by
  unfold Dev.walkRequests; split
  · rfl
  · unfold each; rw [Dev.count_prv]; exact foldl_keeps Dev.prv _ (fun s x => by simp) _ _
@[simp] theorem Dev.walkRequests_cat (d : Dev) (c : CoreSt) (i va : Nat) : (d.walkRequests c i va).cat = d.cat := by
  unfold Dev.walkRequests; split
  · rfl
  · unfold each; rw [Dev.count_cat]; exact foldl_keeps Dev.cat _ (fun s x => by simp) _ _
@[simp] theorem Dev.walkRequests_vol (d : Dev) (c : CoreSt) (i va : Nat) : (d.walkRequests c i va).vol = d.vol := by
  unfold Dev.walkRequests; split
  · rfl
  · unfold each; rw [Dev.count_vol]; exact foldl_keeps Dev.vol _ (fun s x => by simp) _ _
@[simp] theorem Dev.walkRequests_acc (d : Dev) (c : CoreSt) (i va : Nat) : (d.walkRequests c i va).acc = d.acc := by
  unfold Dev.walkRequests; split
  · rfl
  · unfold each; rw [Dev.count_acc]; exact foldl_keeps Dev.acc _ (fun s x => by simp) _ _
@[simp] theorem Dev.walkRequests_pwr (d : Dev) (c : CoreSt) (i va : Nat) : (d.walkRequests c i va).pwr = d.pwr := by
  unfold Dev.walkRequests; split
  · rfl
  · unfold each; rw [Dev.count_pwr]; exact foldl_keeps Dev.pwr _ (fun s x => by simp) _ _
@[simp] theorem Dev.walkRequests_cfg (d : Dev) (c : CoreSt) (i va : Nat) : (d.walkRequests c i va).cfg = d.cfg := by
  unfold Dev.walkRequests; split
  · rfl
  · unfold each; rw [Dev.count_cfg]; exact foldl_keeps Dev.cfg _ (fun s x => by simp) _ _
@[simp] theorem Dev.walkRequests_firmware (d : Dev) (c : CoreSt) (i va : Nat) : (d.walkRequests c i va).firmware = d.firmware := by
  unfold Dev.walkRequests; split
  · rfl
  · unfold each; rw [Dev.count_firmware]; exact foldl_keeps Dev.firmware _ (fun s x => by simp) _ _
@[simp] theorem Dev.walkRequests_phy (d : Dev) (c : CoreSt) (i va : Nat) : (d.walkRequests c i va).phy = d.phy := by
  unfold Dev.walkRequests; split
  · rfl
  · unfold each; rw [Dev.count_phy]; exact foldl_keeps Dev.phy _ (fun s x => by simp) _ _
@[simp] theorem Dev.walkRequests_mgmt (d : Dev) (c : CoreSt) (i va : Nat) : (d.walkRequests c i va).mgmt = d.mgmt := by
  unfold Dev.walkRequests; split
  · rfl
  · unfold each; rw [Dev.count_mgmt]; exact foldl_keeps Dev.mgmt _ (fun s x => by simp) _ _
@[simp] theorem Dev.walkRequests_fresh (d : Dev) (c : CoreSt) (i va : Nat) : (d.walkRequests c i va).fresh = d.fresh := by
  unfold Dev.walkRequests; split
  · rfl
  · unfold each; rw [Dev.count_fresh]; exact foldl_keeps Dev.fresh _ (fun s x => by simp) _ _
@[simp] theorem Dev.requests_mem (d : Dev) (c : CoreSt) (w : Who) (i va n : Nat) (wr : Bool) : (d.requests c w i va n wr).mem = d.mem := by
  unfold Dev.requests each
  refine foldl_keeps Dev.mem _ (fun s x => ?_) _ _
  dsimp only; split <;> simp
@[simp] theorem Dev.requests_evLog (d : Dev) (c : CoreSt) (w : Who) (i va n : Nat) (wr : Bool) : (d.requests c w i va n wr).evLog = d.evLog := by
  unfold Dev.requests each
  refine foldl_keeps Dev.evLog _ (fun s x => ?_) _ _
  dsimp only; split <;> simp
@[simp] theorem Dev.requests_freezeLog (d : Dev) (c : CoreSt) (w : Who) (i va n : Nat) (wr : Bool) : (d.requests c w i va n wr).freezeLog = d.freezeLog := by
  unfold Dev.requests each
  refine foldl_keeps Dev.freezeLog _ (fun s x => ?_) _ _
  dsimp only; split <;> simp
@[simp] theorem Dev.requests_ins (d : Dev) (c : CoreSt) (w : Who) (i va n : Nat) (wr : Bool) : (d.requests c w i va n wr).ins = d.ins := by
  unfold Dev.requests each
  refine foldl_keeps Dev.ins _ (fun s x => ?_) _ _
  dsimp only; split <;> simp
@[simp] theorem Dev.requests_saf (d : Dev) (c : CoreSt) (w : Who) (i va n : Nat) (wr : Bool) : (d.requests c w i va n wr).saf = d.saf := by
  unfold Dev.requests each
  refine foldl_keeps Dev.saf _ (fun s x => ?_) _ _
  dsimp only; split <;> simp
@[simp] theorem Dev.requests_xq (d : Dev) (c : CoreSt) (w : Who) (i va n : Nat) (wr : Bool) : (d.requests c w i va n wr).xq = d.xq := by
  unfold Dev.requests each
  refine foldl_keeps Dev.xq _ (fun s x => ?_) _ _
  dsimp only; split <;> simp
@[simp] theorem Dev.requests_doc (d : Dev) (c : CoreSt) (w : Who) (i va n : Nat) (wr : Bool) : (d.requests c w i va n wr).doc = d.doc := by
  unfold Dev.requests each
  refine foldl_keeps Dev.doc _ (fun s x => ?_) _ _
  dsimp only; split <;> simp
@[simp] theorem Dev.requests_gals (d : Dev) (c : CoreSt) (w : Who) (i va n : Nat) (wr : Bool) : (d.requests c w i va n wr).gals = d.gals := by
  unfold Dev.requests each
  refine foldl_keeps Dev.gals _ (fun s x => ?_) _ _
  dsimp only; split <;> simp
@[simp] theorem Dev.requests_sfl (d : Dev) (c : CoreSt) (w : Who) (i va n : Nat) (wr : Bool) : (d.requests c w i va n wr).sfl = d.sfl := by
  unfold Dev.requests each
  refine foldl_keeps Dev.sfl _ (fun s x => ?_) _ _
  dsimp only; split <;> simp
@[simp] theorem Dev.requests_exc (d : Dev) (c : CoreSt) (w : Who) (i va n : Nat) (wr : Bool) : (d.requests c w i va n wr).exc = d.exc := by
  unfold Dev.requests each
  refine foldl_keeps Dev.exc _ (fun s x => ?_) _ _
  dsimp only; split <;> simp
@[simp] theorem Dev.requests_fol (d : Dev) (c : CoreSt) (w : Who) (i va n : Nat) (wr : Bool) : (d.requests c w i va n wr).fol = d.fol := by
  unfold Dev.requests each
  refine foldl_keeps Dev.fol _ (fun s x => ?_) _ _
  dsimp only; split <;> simp
@[simp] theorem Dev.requests_dma (d : Dev) (c : CoreSt) (w : Who) (i va n : Nat) (wr : Bool) : (d.requests c w i va n wr).dma = d.dma := by
  unfold Dev.requests each
  refine foldl_keeps Dev.dma _ (fun s x => ?_) _ _
  dsimp only; split <;> simp
@[simp] theorem Dev.requests_prv (d : Dev) (c : CoreSt) (w : Who) (i va n : Nat) (wr : Bool) : (d.requests c w i va n wr).prv = d.prv := by
  unfold Dev.requests each
  refine foldl_keeps Dev.prv _ (fun s x => ?_) _ _
  dsimp only; split <;> simp
@[simp] theorem Dev.requests_cat (d : Dev) (c : CoreSt) (w : Who) (i va n : Nat) (wr : Bool) : (d.requests c w i va n wr).cat = d.cat := by
  unfold Dev.requests each
  refine foldl_keeps Dev.cat _ (fun s x => ?_) _ _
  dsimp only; split <;> simp
@[simp] theorem Dev.requests_vol (d : Dev) (c : CoreSt) (w : Who) (i va n : Nat) (wr : Bool) : (d.requests c w i va n wr).vol = d.vol := by
  unfold Dev.requests each
  refine foldl_keeps Dev.vol _ (fun s x => ?_) _ _
  dsimp only; split <;> simp
@[simp] theorem Dev.requests_acc (d : Dev) (c : CoreSt) (w : Who) (i va n : Nat) (wr : Bool) : (d.requests c w i va n wr).acc = d.acc := by
  unfold Dev.requests each
  refine foldl_keeps Dev.acc _ (fun s x => ?_) _ _
  dsimp only; split <;> simp
@[simp] theorem Dev.requests_pwr (d : Dev) (c : CoreSt) (w : Who) (i va n : Nat) (wr : Bool) : (d.requests c w i va n wr).pwr = d.pwr := by
  unfold Dev.requests each
  refine foldl_keeps Dev.pwr _ (fun s x => ?_) _ _
  dsimp only; split <;> simp
@[simp] theorem Dev.requests_cfg (d : Dev) (c : CoreSt) (w : Who) (i va n : Nat) (wr : Bool) : (d.requests c w i va n wr).cfg = d.cfg := by
  unfold Dev.requests each
  refine foldl_keeps Dev.cfg _ (fun s x => ?_) _ _
  dsimp only; split <;> simp
@[simp] theorem Dev.requests_firmware (d : Dev) (c : CoreSt) (w : Who) (i va n : Nat) (wr : Bool) : (d.requests c w i va n wr).firmware = d.firmware := by
  unfold Dev.requests each
  refine foldl_keeps Dev.firmware _ (fun s x => ?_) _ _
  dsimp only; split <;> simp
@[simp] theorem Dev.requests_phy (d : Dev) (c : CoreSt) (w : Who) (i va n : Nat) (wr : Bool) : (d.requests c w i va n wr).phy = d.phy := by
  unfold Dev.requests each
  refine foldl_keeps Dev.phy _ (fun s x => ?_) _ _
  dsimp only; split <;> simp
@[simp] theorem Dev.requests_mgmt (d : Dev) (c : CoreSt) (w : Who) (i va n : Nat) (wr : Bool) : (d.requests c w i va n wr).mgmt = d.mgmt := by
  unfold Dev.requests each
  refine foldl_keeps Dev.mgmt _ (fun s x => ?_) _ _
  dsimp only; split <;> simp
@[simp] theorem Dev.requests_fresh (d : Dev) (c : CoreSt) (w : Who) (i va n : Nat) (wr : Bool) : (d.requests c w i va n wr).fresh = d.fresh := by
  unfold Dev.requests each
  refine foldl_keeps Dev.fresh _ (fun s x => ?_) _ _
  dsimp only; split <;> simp
@[simp] theorem Dev.healBlock_regs (d : Dev) (pa : Nat) : (d.healBlock pa).regs = d.regs := by
  unfold Dev.healBlock; (try simp only []); (repeat' split) <;> first | (simp; done) | rfl | (simp; rfl)
@[simp] theorem Dev.healBlock_mem (d : Dev) (pa : Nat) : (d.healBlock pa).mem = d.mem := by
  unfold Dev.healBlock; (try simp only []); (repeat' split) <;> first | (simp; done) | rfl | (simp; rfl)
@[simp] theorem Dev.healBlock_evLog (d : Dev) (pa : Nat) : (d.healBlock pa).evLog = d.evLog := by
  unfold Dev.healBlock; (try simp only []); (repeat' split) <;> first | (simp; done) | rfl | (simp; rfl)
@[simp] theorem Dev.healBlock_freezeLog (d : Dev) (pa : Nat) : (d.healBlock pa).freezeLog = d.freezeLog := by
  unfold Dev.healBlock; (try simp only []); (repeat' split) <;> first | (simp; done) | rfl | (simp; rfl)
@[simp] theorem Dev.healBlock_evt (d : Dev) (pa : Nat) : (d.healBlock pa).evt = d.evt := by
  unfold Dev.healBlock; (try simp only []); (repeat' split) <;> first | (simp; done) | rfl | (simp; rfl)
@[simp] theorem Dev.healBlock_ins (d : Dev) (pa : Nat) : (d.healBlock pa).ins = d.ins := by
  unfold Dev.healBlock; (try simp only []); (repeat' split) <;> first | (simp; done) | rfl | (simp; rfl)
@[simp] theorem Dev.healBlock_saf (d : Dev) (pa : Nat) : (d.healBlock pa).saf = d.saf := by
  unfold Dev.healBlock; (try simp only []); (repeat' split) <;> first | (simp; done) | rfl | (simp; rfl)
@[simp] theorem Dev.healBlock_xq (d : Dev) (pa : Nat) : (d.healBlock pa).xq = d.xq := by
  unfold Dev.healBlock; (try simp only []); (repeat' split) <;> first | (simp; done) | rfl | (simp; rfl)
@[simp] theorem Dev.healBlock_doc (d : Dev) (pa : Nat) : (d.healBlock pa).doc = d.doc := by
  unfold Dev.healBlock; (try simp only []); (repeat' split) <;> first | (simp; done) | rfl | (simp; rfl)
@[simp] theorem Dev.healBlock_gals (d : Dev) (pa : Nat) : (d.healBlock pa).gals = d.gals := by
  unfold Dev.healBlock; (try simp only []); (repeat' split) <;> first | (simp; done) | rfl | (simp; rfl)
@[simp] theorem Dev.healBlock_sfl (d : Dev) (pa : Nat) : (d.healBlock pa).sfl = d.sfl := by
  unfold Dev.healBlock; (try simp only []); (repeat' split) <;> first | (simp; done) | rfl | (simp; rfl)
@[simp] theorem Dev.healBlock_exc (d : Dev) (pa : Nat) : (d.healBlock pa).exc = d.exc := by
  unfold Dev.healBlock; (try simp only []); (repeat' split) <;> first | (simp; done) | rfl | (simp; rfl)
@[simp] theorem Dev.healBlock_fol (d : Dev) (pa : Nat) : (d.healBlock pa).fol = d.fol := by
  unfold Dev.healBlock; (try simp only []); (repeat' split) <;> first | (simp; done) | rfl | (simp; rfl)
@[simp] theorem Dev.healBlock_dma (d : Dev) (pa : Nat) : (d.healBlock pa).dma = d.dma := by
  unfold Dev.healBlock; (try simp only []); (repeat' split) <;> first | (simp; done) | rfl | (simp; rfl)
@[simp] theorem Dev.healBlock_prv (d : Dev) (pa : Nat) : (d.healBlock pa).prv = d.prv := by
  unfold Dev.healBlock; (try simp only []); (repeat' split) <;> first | (simp; done) | rfl | (simp; rfl)
@[simp] theorem Dev.healBlock_cat (d : Dev) (pa : Nat) : (d.healBlock pa).cat = d.cat := by
  unfold Dev.healBlock; (try simp only []); (repeat' split) <;> first | (simp; done) | rfl | (simp; rfl)
@[simp] theorem Dev.healBlock_vol (d : Dev) (pa : Nat) : (d.healBlock pa).vol = d.vol := by
  unfold Dev.healBlock; (try simp only []); (repeat' split) <;> first | (simp; done) | rfl | (simp; rfl)
@[simp] theorem Dev.healBlock_acc (d : Dev) (pa : Nat) : (d.healBlock pa).acc = d.acc := by
  unfold Dev.healBlock; (try simp only []); (repeat' split) <;> first | (simp; done) | rfl | (simp; rfl)
@[simp] theorem Dev.healBlock_pwr (d : Dev) (pa : Nat) : (d.healBlock pa).pwr = d.pwr := by
  unfold Dev.healBlock; (try simp only []); (repeat' split) <;> first | (simp; done) | rfl | (simp; rfl)
@[simp] theorem Dev.healBlock_cfg (d : Dev) (pa : Nat) : (d.healBlock pa).cfg = d.cfg := by
  unfold Dev.healBlock; (try simp only []); (repeat' split) <;> first | (simp; done) | rfl | (simp; rfl)
@[simp] theorem Dev.healBlock_firmware (d : Dev) (pa : Nat) : (d.healBlock pa).firmware = d.firmware := by
  unfold Dev.healBlock; (try simp only []); (repeat' split) <;> first | (simp; done) | rfl | (simp; rfl)
@[simp] theorem Dev.healBlock_phy (d : Dev) (pa : Nat) : (d.healBlock pa).phy = d.phy := by
  unfold Dev.healBlock; (try simp only []); (repeat' split) <;> first | (simp; done) | rfl | (simp; rfl)
@[simp] theorem Dev.healBlock_mgmt (d : Dev) (pa : Nat) : (d.healBlock pa).mgmt = d.mgmt := by
  unfold Dev.healBlock; (try simp only []); (repeat' split) <;> first | (simp; done) | rfl | (simp; rfl)
@[simp] theorem Dev.healBlock_fresh (d : Dev) (pa : Nat) : (d.healBlock pa).fresh = d.fresh := by
  unfold Dev.healBlock; (try simp only []); (repeat' split) <;> first | (simp; done) | rfl | (simp; rfl)
@[simp] theorem Dev.postEntry_evLog (d : Dev) (i q h cid r st : Nat) : (d.postEntry i q h cid r st).evLog = d.evLog := by
  unfold Dev.postEntry; (try simp only []); (repeat' split) <;> first | (simp; done) | rfl | (simp; rfl)
@[simp] theorem Dev.postEntry_freezeLog (d : Dev) (i q h cid r st : Nat) : (d.postEntry i q h cid r st).freezeLog = d.freezeLog := by
  unfold Dev.postEntry; (try simp only []); (repeat' split) <;> first | (simp; done) | rfl | (simp; rfl)
@[simp] theorem Dev.postEntry_ins (d : Dev) (i q h cid r st : Nat) : (d.postEntry i q h cid r st).ins = d.ins := by
  unfold Dev.postEntry; (try simp only []); (repeat' split) <;> first | (simp; done) | rfl | (simp; rfl)
@[simp] theorem Dev.postEntry_dram (d : Dev) (i q h cid r st : Nat) : (d.postEntry i q h cid r st).dram = d.dram := by
  unfold Dev.postEntry; (try simp only []); (repeat' split) <;> first | (simp; done) | rfl | (simp; rfl)
@[simp] theorem Dev.postEntry_saf (d : Dev) (i q h cid r st : Nat) : (d.postEntry i q h cid r st).saf = d.saf := by
  unfold Dev.postEntry; (try simp only []); (repeat' split) <;> first | (simp; done) | rfl | (simp; rfl)
@[simp] theorem Dev.postEntry_doc (d : Dev) (i q h cid r st : Nat) : (d.postEntry i q h cid r st).doc = d.doc := by
  unfold Dev.postEntry; (try simp only []); (repeat' split) <;> first | (simp; done) | rfl | (simp; rfl)
@[simp] theorem Dev.postEntry_gals (d : Dev) (i q h cid r st : Nat) : (d.postEntry i q h cid r st).gals = d.gals := by
  unfold Dev.postEntry; (try simp only []); (repeat' split) <;> first | (simp; done) | rfl | (simp; rfl)
@[simp] theorem Dev.postEntry_sfl (d : Dev) (i q h cid r st : Nat) : (d.postEntry i q h cid r st).sfl = d.sfl := by
  unfold Dev.postEntry; (try simp only []); (repeat' split) <;> first | (simp; done) | rfl | (simp; rfl)
@[simp] theorem Dev.postEntry_exc (d : Dev) (i q h cid r st : Nat) : (d.postEntry i q h cid r st).exc = d.exc := by
  unfold Dev.postEntry; (try simp only []); (repeat' split) <;> first | (simp; done) | rfl | (simp; rfl)
@[simp] theorem Dev.postEntry_fol (d : Dev) (i q h cid r st : Nat) : (d.postEntry i q h cid r st).fol = d.fol := by
  unfold Dev.postEntry; (try simp only []); (repeat' split) <;> first | (simp; done) | rfl | (simp; rfl)
@[simp] theorem Dev.postEntry_dma (d : Dev) (i q h cid r st : Nat) : (d.postEntry i q h cid r st).dma = d.dma := by
  unfold Dev.postEntry; (try simp only []); (repeat' split) <;> first | (simp; done) | rfl | (simp; rfl)
@[simp] theorem Dev.postEntry_prv (d : Dev) (i q h cid r st : Nat) : (d.postEntry i q h cid r st).prv = d.prv := by
  unfold Dev.postEntry; (try simp only []); (repeat' split) <;> first | (simp; done) | rfl | (simp; rfl)
@[simp] theorem Dev.postEntry_cat (d : Dev) (i q h cid r st : Nat) : (d.postEntry i q h cid r st).cat = d.cat := by
  unfold Dev.postEntry; (try simp only []); (repeat' split) <;> first | (simp; done) | rfl | (simp; rfl)
@[simp] theorem Dev.postEntry_vol (d : Dev) (i q h cid r st : Nat) : (d.postEntry i q h cid r st).vol = d.vol := by
  unfold Dev.postEntry; (try simp only []); (repeat' split) <;> first | (simp; done) | rfl | (simp; rfl)
@[simp] theorem Dev.postEntry_acc (d : Dev) (i q h cid r st : Nat) : (d.postEntry i q h cid r st).acc = d.acc := by
  unfold Dev.postEntry; (try simp only []); (repeat' split) <;> first | (simp; done) | rfl | (simp; rfl)
@[simp] theorem Dev.postEntry_pwr (d : Dev) (i q h cid r st : Nat) : (d.postEntry i q h cid r st).pwr = d.pwr := by
  unfold Dev.postEntry; (try simp only []); (repeat' split) <;> first | (simp; done) | rfl | (simp; rfl)
@[simp] theorem Dev.postEntry_cfg (d : Dev) (i q h cid r st : Nat) : (d.postEntry i q h cid r st).cfg = d.cfg := by
  unfold Dev.postEntry; (try simp only []); (repeat' split) <;> first | (simp; done) | rfl | (simp; rfl)
@[simp] theorem Dev.postEntry_firmware (d : Dev) (i q h cid r st : Nat) : (d.postEntry i q h cid r st).firmware = d.firmware := by
  unfold Dev.postEntry; (try simp only []); (repeat' split) <;> first | (simp; done) | rfl | (simp; rfl)
@[simp] theorem Dev.postEntry_phy (d : Dev) (i q h cid r st : Nat) : (d.postEntry i q h cid r st).phy = d.phy := by
  unfold Dev.postEntry; (try simp only []); (repeat' split) <;> first | (simp; done) | rfl | (simp; rfl)
@[simp] theorem Dev.postEntry_mgmt (d : Dev) (i q h cid r st : Nat) : (d.postEntry i q h cid r st).mgmt = d.mgmt := by
  unfold Dev.postEntry; (try simp only []); (repeat' split) <;> first | (simp; done) | rfl | (simp; rfl)
@[simp] theorem Dev.postEntry_fresh (d : Dev) (i q h cid r st : Nat) : (d.postEntry i q h cid r st).fresh = d.fresh := by
  unfold Dev.postEntry; (try simp only []); (repeat' split) <;> first | (simp; done) | rfl | (simp; rfl)
@[simp] theorem Dev.settleDelete_evLog (d : Dev) (c : CoreSt) (i q : Nat) : (d.settleDelete c i q).evLog = d.evLog := by
  unfold Dev.settleDelete; (try simp only []); (repeat' split) <;> first | (simp; done) | rfl | (simp; rfl)
@[simp] theorem Dev.settleDelete_freezeLog (d : Dev) (c : CoreSt) (i q : Nat) : (d.settleDelete c i q).freezeLog = d.freezeLog := by
  unfold Dev.settleDelete; (try simp only []); (repeat' split) <;> first | (simp; done) | rfl | (simp; rfl)
@[simp] theorem Dev.settleDelete_ins (d : Dev) (c : CoreSt) (i q : Nat) : (d.settleDelete c i q).ins = d.ins := by
  unfold Dev.settleDelete; (try simp only []); (repeat' split) <;> first | (simp; done) | rfl | (simp; rfl)
@[simp] theorem Dev.settleDelete_dram (d : Dev) (c : CoreSt) (i q : Nat) : (d.settleDelete c i q).dram = d.dram := by
  unfold Dev.settleDelete; (try simp only []); (repeat' split) <;> first | (simp; done) | rfl | (simp; rfl)
@[simp] theorem Dev.settleDelete_saf (d : Dev) (c : CoreSt) (i q : Nat) : (d.settleDelete c i q).saf = d.saf := by
  unfold Dev.settleDelete; (try simp only []); (repeat' split) <;> first | (simp; done) | rfl | (simp; rfl)
@[simp] theorem Dev.settleDelete_doc (d : Dev) (c : CoreSt) (i q : Nat) : (d.settleDelete c i q).doc = d.doc := by
  unfold Dev.settleDelete; (try simp only []); (repeat' split) <;> first | (simp; done) | rfl | (simp; rfl)
@[simp] theorem Dev.settleDelete_gals (d : Dev) (c : CoreSt) (i q : Nat) : (d.settleDelete c i q).gals = d.gals := by
  unfold Dev.settleDelete; (try simp only []); (repeat' split) <;> first | (simp; done) | rfl | (simp; rfl)
@[simp] theorem Dev.settleDelete_sfl (d : Dev) (c : CoreSt) (i q : Nat) : (d.settleDelete c i q).sfl = d.sfl := by
  unfold Dev.settleDelete; (try simp only []); (repeat' split) <;> first | (simp; done) | rfl | (simp; rfl)
@[simp] theorem Dev.settleDelete_exc (d : Dev) (c : CoreSt) (i q : Nat) : (d.settleDelete c i q).exc = d.exc := by
  unfold Dev.settleDelete; (try simp only []); (repeat' split) <;> first | (simp; done) | rfl | (simp; rfl)
@[simp] theorem Dev.settleDelete_fol (d : Dev) (c : CoreSt) (i q : Nat) : (d.settleDelete c i q).fol = d.fol := by
  unfold Dev.settleDelete; (try simp only []); (repeat' split) <;> first | (simp; done) | rfl | (simp; rfl)
@[simp] theorem Dev.settleDelete_dma (d : Dev) (c : CoreSt) (i q : Nat) : (d.settleDelete c i q).dma = d.dma := by
  unfold Dev.settleDelete; (try simp only []); (repeat' split) <;> first | (simp; done) | rfl | (simp; rfl)
@[simp] theorem Dev.settleDelete_prv (d : Dev) (c : CoreSt) (i q : Nat) : (d.settleDelete c i q).prv = d.prv := by
  unfold Dev.settleDelete; (try simp only []); (repeat' split) <;> first | (simp; done) | rfl | (simp; rfl)
@[simp] theorem Dev.settleDelete_cat (d : Dev) (c : CoreSt) (i q : Nat) : (d.settleDelete c i q).cat = d.cat := by
  unfold Dev.settleDelete; (try simp only []); (repeat' split) <;> first | (simp; done) | rfl | (simp; rfl)
@[simp] theorem Dev.settleDelete_vol (d : Dev) (c : CoreSt) (i q : Nat) : (d.settleDelete c i q).vol = d.vol := by
  unfold Dev.settleDelete; (try simp only []); (repeat' split) <;> first | (simp; done) | rfl | (simp; rfl)
@[simp] theorem Dev.settleDelete_acc (d : Dev) (c : CoreSt) (i q : Nat) : (d.settleDelete c i q).acc = d.acc := by
  unfold Dev.settleDelete; (try simp only []); (repeat' split) <;> first | (simp; done) | rfl | (simp; rfl)
@[simp] theorem Dev.settleDelete_pwr (d : Dev) (c : CoreSt) (i q : Nat) : (d.settleDelete c i q).pwr = d.pwr := by
  unfold Dev.settleDelete; (try simp only []); (repeat' split) <;> first | (simp; done) | rfl | (simp; rfl)
@[simp] theorem Dev.settleDelete_cfg (d : Dev) (c : CoreSt) (i q : Nat) : (d.settleDelete c i q).cfg = d.cfg := by
  unfold Dev.settleDelete; (try simp only []); (repeat' split) <;> first | (simp; done) | rfl | (simp; rfl)
@[simp] theorem Dev.settleDelete_firmware (d : Dev) (c : CoreSt) (i q : Nat) : (d.settleDelete c i q).firmware = d.firmware := by
  unfold Dev.settleDelete; (try simp only []); (repeat' split) <;> first | (simp; done) | rfl | (simp; rfl)
@[simp] theorem Dev.settleDelete_phy (d : Dev) (c : CoreSt) (i q : Nat) : (d.settleDelete c i q).phy = d.phy := by
  unfold Dev.settleDelete; (try simp only []); (repeat' split) <;> first | (simp; done) | rfl | (simp; rfl)
@[simp] theorem Dev.settleDelete_mgmt (d : Dev) (c : CoreSt) (i q : Nat) : (d.settleDelete c i q).mgmt = d.mgmt := by
  unfold Dev.settleDelete; (try simp only []); (repeat' split) <;> first | (simp; done) | rfl | (simp; rfl)
@[simp] theorem Dev.settleDelete_fresh (d : Dev) (c : CoreSt) (i q : Nat) : (d.settleDelete c i q).fresh = d.fresh := by
  unfold Dev.settleDelete; (try simp only []); (repeat' split) <;> first | (simp; done) | rfl | (simp; rfl)
@[simp] theorem Dev.startQueues_mem (d : Dev) (i : Nat) : (d.startQueues i).mem = d.mem := by
  unfold Dev.startQueues; (try simp only []); (repeat' split) <;> first | (simp; done) | rfl | (simp; rfl)
@[simp] theorem Dev.startQueues_evLog (d : Dev) (i : Nat) : (d.startQueues i).evLog = d.evLog := by
  unfold Dev.startQueues; (try simp only []); (repeat' split) <;> first | (simp; done) | rfl | (simp; rfl)
@[simp] theorem Dev.startQueues_freezeLog (d : Dev) (i : Nat) : (d.startQueues i).freezeLog = d.freezeLog := by
  unfold Dev.startQueues; (try simp only []); (repeat' split) <;> first | (simp; done) | rfl | (simp; rfl)
@[simp] theorem Dev.startQueues_evt (d : Dev) (i : Nat) : (d.startQueues i).evt = d.evt := by
  unfold Dev.startQueues; (try simp only []); (repeat' split) <;> first | (simp; done) | rfl | (simp; rfl)
@[simp] theorem Dev.startQueues_ins (d : Dev) (i : Nat) : (d.startQueues i).ins = d.ins := by
  unfold Dev.startQueues; (try simp only []); (repeat' split) <;> first | (simp; done) | rfl | (simp; rfl)
@[simp] theorem Dev.startQueues_dram (d : Dev) (i : Nat) : (d.startQueues i).dram = d.dram := by
  unfold Dev.startQueues; (try simp only []); (repeat' split) <;> first | (simp; done) | rfl | (simp; rfl)
@[simp] theorem Dev.startQueues_saf (d : Dev) (i : Nat) : (d.startQueues i).saf = d.saf := by
  unfold Dev.startQueues; (try simp only []); (repeat' split) <;> first | (simp; done) | rfl | (simp; rfl)
@[simp] theorem Dev.startQueues_doc (d : Dev) (i : Nat) : (d.startQueues i).doc = d.doc := by
  unfold Dev.startQueues; (try simp only []); (repeat' split) <;> first | (simp; done) | rfl | (simp; rfl)
@[simp] theorem Dev.startQueues_gals (d : Dev) (i : Nat) : (d.startQueues i).gals = d.gals := by
  unfold Dev.startQueues; (try simp only []); (repeat' split) <;> first | (simp; done) | rfl | (simp; rfl)
@[simp] theorem Dev.startQueues_sfl (d : Dev) (i : Nat) : (d.startQueues i).sfl = d.sfl := by
  unfold Dev.startQueues; (try simp only []); (repeat' split) <;> first | (simp; done) | rfl | (simp; rfl)
@[simp] theorem Dev.startQueues_exc (d : Dev) (i : Nat) : (d.startQueues i).exc = d.exc := by
  unfold Dev.startQueues; (try simp only []); (repeat' split) <;> first | (simp; done) | rfl | (simp; rfl)
@[simp] theorem Dev.startQueues_fol (d : Dev) (i : Nat) : (d.startQueues i).fol = d.fol := by
  unfold Dev.startQueues; (try simp only []); (repeat' split) <;> first | (simp; done) | rfl | (simp; rfl)
@[simp] theorem Dev.startQueues_dma (d : Dev) (i : Nat) : (d.startQueues i).dma = d.dma := by
  unfold Dev.startQueues; (try simp only []); (repeat' split) <;> first | (simp; done) | rfl | (simp; rfl)
@[simp] theorem Dev.startQueues_prv (d : Dev) (i : Nat) : (d.startQueues i).prv = d.prv := by
  unfold Dev.startQueues; (try simp only []); (repeat' split) <;> first | (simp; done) | rfl | (simp; rfl)
@[simp] theorem Dev.startQueues_cat (d : Dev) (i : Nat) : (d.startQueues i).cat = d.cat := by
  unfold Dev.startQueues; (try simp only []); (repeat' split) <;> first | (simp; done) | rfl | (simp; rfl)
@[simp] theorem Dev.startQueues_vol (d : Dev) (i : Nat) : (d.startQueues i).vol = d.vol := by
  unfold Dev.startQueues; (try simp only []); (repeat' split) <;> first | (simp; done) | rfl | (simp; rfl)
@[simp] theorem Dev.startQueues_acc (d : Dev) (i : Nat) : (d.startQueues i).acc = d.acc := by
  unfold Dev.startQueues; (try simp only []); (repeat' split) <;> first | (simp; done) | rfl | (simp; rfl)
@[simp] theorem Dev.startQueues_pwr (d : Dev) (i : Nat) : (d.startQueues i).pwr = d.pwr := by
  unfold Dev.startQueues; (try simp only []); (repeat' split) <;> first | (simp; done) | rfl | (simp; rfl)
@[simp] theorem Dev.startQueues_cfg (d : Dev) (i : Nat) : (d.startQueues i).cfg = d.cfg := by
  unfold Dev.startQueues; (try simp only []); (repeat' split) <;> first | (simp; done) | rfl | (simp; rfl)
@[simp] theorem Dev.startQueues_firmware (d : Dev) (i : Nat) : (d.startQueues i).firmware = d.firmware := by
  unfold Dev.startQueues; (try simp only []); (repeat' split) <;> first | (simp; done) | rfl | (simp; rfl)
@[simp] theorem Dev.startQueues_phy (d : Dev) (i : Nat) : (d.startQueues i).phy = d.phy := by
  unfold Dev.startQueues; (try simp only []); (repeat' split) <;> first | (simp; done) | rfl | (simp; rfl)
@[simp] theorem Dev.startQueues_mgmt (d : Dev) (i : Nat) : (d.startQueues i).mgmt = d.mgmt := by
  unfold Dev.startQueues; (try simp only []); (repeat' split) <;> first | (simp; done) | rfl | (simp; rfl)
@[simp] theorem Dev.startQueues_fresh (d : Dev) (i : Nat) : (d.startQueues i).fresh = d.fresh := by
  unfold Dev.startQueues; (try simp only []); (repeat' split) <;> first | (simp; done) | rfl | (simp; rfl)
@[simp] theorem Dev.settleReset_mem (d : Dev) (i : Nat) : (d.settleReset i).mem = d.mem := by
  unfold Dev.settleReset; (try simp only []); (repeat' split) <;> first | (simp; done) | rfl | (simp; rfl)
@[simp] theorem Dev.settleReset_evLog (d : Dev) (i : Nat) : (d.settleReset i).evLog = d.evLog := by
  unfold Dev.settleReset; (try simp only []); (repeat' split) <;> first | (simp; done) | rfl | (simp; rfl)
@[simp] theorem Dev.settleReset_freezeLog (d : Dev) (i : Nat) : (d.settleReset i).freezeLog = d.freezeLog := by
  unfold Dev.settleReset; (try simp only []); (repeat' split) <;> first | (simp; done) | rfl | (simp; rfl)
@[simp] theorem Dev.settleReset_evt (d : Dev) (i : Nat) : (d.settleReset i).evt = d.evt := by
  unfold Dev.settleReset; (try simp only []); (repeat' split) <;> first | (simp; done) | rfl | (simp; rfl)
@[simp] theorem Dev.settleReset_ins (d : Dev) (i : Nat) : (d.settleReset i).ins = d.ins := by
  unfold Dev.settleReset; (try simp only []); (repeat' split) <;> first | (simp; done) | rfl | (simp; rfl)
@[simp] theorem Dev.settleReset_dram (d : Dev) (i : Nat) : (d.settleReset i).dram = d.dram := by
  unfold Dev.settleReset; (try simp only []); (repeat' split) <;> first | (simp; done) | rfl | (simp; rfl)
@[simp] theorem Dev.settleReset_saf (d : Dev) (i : Nat) : (d.settleReset i).saf = d.saf := by
  unfold Dev.settleReset; (try simp only []); (repeat' split) <;> first | (simp; done) | rfl | (simp; rfl)
@[simp] theorem Dev.settleReset_doc (d : Dev) (i : Nat) : (d.settleReset i).doc = d.doc := by
  unfold Dev.settleReset; (try simp only []); (repeat' split) <;> first | (simp; done) | rfl | (simp; rfl)
@[simp] theorem Dev.settleReset_gals (d : Dev) (i : Nat) : (d.settleReset i).gals = d.gals := by
  unfold Dev.settleReset; (try simp only []); (repeat' split) <;> first | (simp; done) | rfl | (simp; rfl)
@[simp] theorem Dev.settleReset_sfl (d : Dev) (i : Nat) : (d.settleReset i).sfl = d.sfl := by
  unfold Dev.settleReset; (try simp only []); (repeat' split) <;> first | (simp; done) | rfl | (simp; rfl)
@[simp] theorem Dev.settleReset_exc (d : Dev) (i : Nat) : (d.settleReset i).exc = d.exc := by
  unfold Dev.settleReset; (try simp only []); (repeat' split) <;> first | (simp; done) | rfl | (simp; rfl)
@[simp] theorem Dev.settleReset_fol (d : Dev) (i : Nat) : (d.settleReset i).fol = d.fol := by
  unfold Dev.settleReset; (try simp only []); (repeat' split) <;> first | (simp; done) | rfl | (simp; rfl)
@[simp] theorem Dev.settleReset_dma (d : Dev) (i : Nat) : (d.settleReset i).dma = d.dma := by
  unfold Dev.settleReset; (try simp only []); (repeat' split) <;> first | (simp; done) | rfl | (simp; rfl)
@[simp] theorem Dev.settleReset_prv (d : Dev) (i : Nat) : (d.settleReset i).prv = d.prv := by
  unfold Dev.settleReset; (try simp only []); (repeat' split) <;> first | (simp; done) | rfl | (simp; rfl)
@[simp] theorem Dev.settleReset_cat (d : Dev) (i : Nat) : (d.settleReset i).cat = d.cat := by
  unfold Dev.settleReset; (try simp only []); (repeat' split) <;> first | (simp; done) | rfl | (simp; rfl)
@[simp] theorem Dev.settleReset_vol (d : Dev) (i : Nat) : (d.settleReset i).vol = d.vol := by
  unfold Dev.settleReset; (try simp only []); (repeat' split) <;> first | (simp; done) | rfl | (simp; rfl)
@[simp] theorem Dev.settleReset_acc (d : Dev) (i : Nat) : (d.settleReset i).acc = d.acc := by
  unfold Dev.settleReset; (try simp only []); (repeat' split) <;> first | (simp; done) | rfl | (simp; rfl)
@[simp] theorem Dev.settleReset_pwr (d : Dev) (i : Nat) : (d.settleReset i).pwr = d.pwr := by
  unfold Dev.settleReset; (try simp only []); (repeat' split) <;> first | (simp; done) | rfl | (simp; rfl)
@[simp] theorem Dev.settleReset_cfg (d : Dev) (i : Nat) : (d.settleReset i).cfg = d.cfg := by
  unfold Dev.settleReset; (try simp only []); (repeat' split) <;> first | (simp; done) | rfl | (simp; rfl)
@[simp] theorem Dev.settleReset_firmware (d : Dev) (i : Nat) : (d.settleReset i).firmware = d.firmware := by
  unfold Dev.settleReset; (try simp only []); (repeat' split) <;> first | (simp; done) | rfl | (simp; rfl)
@[simp] theorem Dev.settleReset_phy (d : Dev) (i : Nat) : (d.settleReset i).phy = d.phy := by
  unfold Dev.settleReset; (try simp only []); (repeat' split) <;> first | (simp; done) | rfl | (simp; rfl)
@[simp] theorem Dev.settleReset_mgmt (d : Dev) (i : Nat) : (d.settleReset i).mgmt = d.mgmt := by
  unfold Dev.settleReset; (try simp only []); (repeat' split) <;> first | (simp; done) | rfl | (simp; rfl)
@[simp] theorem Dev.settleReset_fresh (d : Dev) (i : Nat) : (d.settleReset i).fresh = d.fresh := by
  unfold Dev.settleReset; (try simp only []); (repeat' split) <;> first | (simp; done) | rfl | (simp; rfl)
@[simp] theorem Dev.complete_evLog (d : Dev) (c : CoreSt) (i q cid r st : Nat) : (d.complete c i q cid r st).evLog = d.evLog := by
  unfold Dev.complete; (try simp only []); (repeat' split) <;> first | (simp; done) | rfl | (simp; rfl)
@[simp] theorem Dev.complete_freezeLog (d : Dev) (c : CoreSt) (i q cid r st : Nat) : (d.complete c i q cid r st).freezeLog = d.freezeLog := by
  unfold Dev.complete; (try simp only []); (repeat' split) <;> first | (simp; done) | rfl | (simp; rfl)
@[simp] theorem Dev.complete_ins (d : Dev) (c : CoreSt) (i q cid r st : Nat) : (d.complete c i q cid r st).ins = d.ins := by
  unfold Dev.complete; (try simp only []); (repeat' split) <;> first | (simp; done) | rfl | (simp; rfl)
@[simp] theorem Dev.complete_dram (d : Dev) (c : CoreSt) (i q cid r st : Nat) : (d.complete c i q cid r st).dram = d.dram := by
  unfold Dev.complete; (try simp only []); (repeat' split) <;> first | (simp; done) | rfl | (simp; rfl)
@[simp] theorem Dev.complete_saf (d : Dev) (c : CoreSt) (i q cid r st : Nat) : (d.complete c i q cid r st).saf = d.saf := by
  unfold Dev.complete; (try simp only []); (repeat' split) <;> first | (simp; done) | rfl | (simp; rfl)
@[simp] theorem Dev.complete_doc (d : Dev) (c : CoreSt) (i q cid r st : Nat) : (d.complete c i q cid r st).doc = d.doc := by
  unfold Dev.complete; (try simp only []); (repeat' split) <;> first | (simp; done) | rfl | (simp; rfl)
@[simp] theorem Dev.complete_gals (d : Dev) (c : CoreSt) (i q cid r st : Nat) : (d.complete c i q cid r st).gals = d.gals := by
  unfold Dev.complete; (try simp only []); (repeat' split) <;> first | (simp; done) | rfl | (simp; rfl)
@[simp] theorem Dev.complete_sfl (d : Dev) (c : CoreSt) (i q cid r st : Nat) : (d.complete c i q cid r st).sfl = d.sfl := by
  unfold Dev.complete; (try simp only []); (repeat' split) <;> first | (simp; done) | rfl | (simp; rfl)
@[simp] theorem Dev.complete_exc (d : Dev) (c : CoreSt) (i q cid r st : Nat) : (d.complete c i q cid r st).exc = d.exc := by
  unfold Dev.complete; (try simp only []); (repeat' split) <;> first | (simp; done) | rfl | (simp; rfl)
@[simp] theorem Dev.complete_fol (d : Dev) (c : CoreSt) (i q cid r st : Nat) : (d.complete c i q cid r st).fol = d.fol := by
  unfold Dev.complete; (try simp only []); (repeat' split) <;> first | (simp; done) | rfl | (simp; rfl)
@[simp] theorem Dev.complete_dma (d : Dev) (c : CoreSt) (i q cid r st : Nat) : (d.complete c i q cid r st).dma = d.dma := by
  unfold Dev.complete; (try simp only []); (repeat' split) <;> first | (simp; done) | rfl | (simp; rfl)
@[simp] theorem Dev.complete_prv (d : Dev) (c : CoreSt) (i q cid r st : Nat) : (d.complete c i q cid r st).prv = d.prv := by
  unfold Dev.complete; (try simp only []); (repeat' split) <;> first | (simp; done) | rfl | (simp; rfl)
@[simp] theorem Dev.complete_cat (d : Dev) (c : CoreSt) (i q cid r st : Nat) : (d.complete c i q cid r st).cat = d.cat := by
  unfold Dev.complete; (try simp only []); (repeat' split) <;> first | (simp; done) | rfl | (simp; rfl)
@[simp] theorem Dev.complete_vol (d : Dev) (c : CoreSt) (i q cid r st : Nat) : (d.complete c i q cid r st).vol = d.vol := by
  unfold Dev.complete; (try simp only []); (repeat' split) <;> first | (simp; done) | rfl | (simp; rfl)
@[simp] theorem Dev.complete_acc (d : Dev) (c : CoreSt) (i q cid r st : Nat) : (d.complete c i q cid r st).acc = d.acc := by
  unfold Dev.complete; (try simp only []); (repeat' split) <;> first | (simp; done) | rfl | (simp; rfl)
@[simp] theorem Dev.complete_pwr (d : Dev) (c : CoreSt) (i q cid r st : Nat) : (d.complete c i q cid r st).pwr = d.pwr := by
  unfold Dev.complete; (try simp only []); (repeat' split) <;> first | (simp; done) | rfl | (simp; rfl)
@[simp] theorem Dev.complete_cfg (d : Dev) (c : CoreSt) (i q cid r st : Nat) : (d.complete c i q cid r st).cfg = d.cfg := by
  unfold Dev.complete; (try simp only []); (repeat' split) <;> first | (simp; done) | rfl | (simp; rfl)
@[simp] theorem Dev.complete_firmware (d : Dev) (c : CoreSt) (i q cid r st : Nat) : (d.complete c i q cid r st).firmware = d.firmware := by
  unfold Dev.complete; (try simp only []); (repeat' split) <;> first | (simp; done) | rfl | (simp; rfl)
@[simp] theorem Dev.complete_phy (d : Dev) (c : CoreSt) (i q cid r st : Nat) : (d.complete c i q cid r st).phy = d.phy := by
  unfold Dev.complete; (try simp only []); (repeat' split) <;> first | (simp; done) | rfl | (simp; rfl)
@[simp] theorem Dev.complete_mgmt (d : Dev) (c : CoreSt) (i q cid r st : Nat) : (d.complete c i q cid r st).mgmt = d.mgmt := by
  unfold Dev.complete; (try simp only []); (repeat' split) <;> first | (simp; done) | rfl | (simp; rfl)
@[simp] theorem Dev.complete_fresh (d : Dev) (c : CoreSt) (i q cid r st : Nat) : (d.complete c i q cid r st).fresh = d.fresh := by
  unfold Dev.complete; (try simp only []); (repeat' split) <;> first | (simp; done) | rfl | (simp; rfl)
@[simp] theorem Dev.finish_evLog (d : Dev) (c : CoreSt) (x : Cmd) (r st : Nat) : (d.finish c x r st).evLog = d.evLog := by
  unfold Dev.finish; (try simp only []); (repeat' split) <;> first | (simp; done) | rfl | (simp; rfl)
@[simp] theorem Dev.finish_freezeLog (d : Dev) (c : CoreSt) (x : Cmd) (r st : Nat) : (d.finish c x r st).freezeLog = d.freezeLog := by
  unfold Dev.finish; (try simp only []); (repeat' split) <;> first | (simp; done) | rfl | (simp; rfl)
@[simp] theorem Dev.finish_ins (d : Dev) (c : CoreSt) (x : Cmd) (r st : Nat) : (d.finish c x r st).ins = d.ins := by
  unfold Dev.finish; (try simp only []); (repeat' split) <;> first | (simp; done) | rfl | (simp; rfl)
@[simp] theorem Dev.finish_dram (d : Dev) (c : CoreSt) (x : Cmd) (r st : Nat) : (d.finish c x r st).dram = d.dram := by
  unfold Dev.finish; (try simp only []); (repeat' split) <;> first | (simp; done) | rfl | (simp; rfl)
@[simp] theorem Dev.finish_saf (d : Dev) (c : CoreSt) (x : Cmd) (r st : Nat) : (d.finish c x r st).saf = d.saf := by
  unfold Dev.finish; (try simp only []); (repeat' split) <;> first | (simp; done) | rfl | (simp; rfl)
@[simp] theorem Dev.finish_doc (d : Dev) (c : CoreSt) (x : Cmd) (r st : Nat) : (d.finish c x r st).doc = d.doc := by
  unfold Dev.finish; (try simp only []); (repeat' split) <;> first | (simp; done) | rfl | (simp; rfl)
@[simp] theorem Dev.finish_gals (d : Dev) (c : CoreSt) (x : Cmd) (r st : Nat) : (d.finish c x r st).gals = d.gals := by
  unfold Dev.finish; (try simp only []); (repeat' split) <;> first | (simp; done) | rfl | (simp; rfl)
@[simp] theorem Dev.finish_sfl (d : Dev) (c : CoreSt) (x : Cmd) (r st : Nat) : (d.finish c x r st).sfl = d.sfl := by
  unfold Dev.finish; (try simp only []); (repeat' split) <;> first | (simp; done) | rfl | (simp; rfl)
@[simp] theorem Dev.finish_exc (d : Dev) (c : CoreSt) (x : Cmd) (r st : Nat) : (d.finish c x r st).exc = d.exc := by
  unfold Dev.finish; (try simp only []); (repeat' split) <;> first | (simp; done) | rfl | (simp; rfl)
@[simp] theorem Dev.finish_fol (d : Dev) (c : CoreSt) (x : Cmd) (r st : Nat) : (d.finish c x r st).fol = d.fol := by
  unfold Dev.finish; (try simp only []); (repeat' split) <;> first | (simp; done) | rfl | (simp; rfl)
@[simp] theorem Dev.finish_dma (d : Dev) (c : CoreSt) (x : Cmd) (r st : Nat) : (d.finish c x r st).dma = d.dma := by
  unfold Dev.finish; (try simp only []); (repeat' split) <;> first | (simp; done) | rfl | (simp; rfl)
@[simp] theorem Dev.finish_prv (d : Dev) (c : CoreSt) (x : Cmd) (r st : Nat) : (d.finish c x r st).prv = d.prv := by
  unfold Dev.finish; (try simp only []); (repeat' split) <;> first | (simp; done) | rfl | (simp; rfl)
@[simp] theorem Dev.finish_cat (d : Dev) (c : CoreSt) (x : Cmd) (r st : Nat) : (d.finish c x r st).cat = d.cat := by
  unfold Dev.finish; (try simp only []); (repeat' split) <;> first | (simp; done) | rfl | (simp; rfl)
@[simp] theorem Dev.finish_vol (d : Dev) (c : CoreSt) (x : Cmd) (r st : Nat) : (d.finish c x r st).vol = d.vol := by
  unfold Dev.finish; (try simp only []); (repeat' split) <;> first | (simp; done) | rfl | (simp; rfl)
@[simp] theorem Dev.finish_acc (d : Dev) (c : CoreSt) (x : Cmd) (r st : Nat) : (d.finish c x r st).acc = d.acc := by
  unfold Dev.finish; (try simp only []); (repeat' split) <;> first | (simp; done) | rfl | (simp; rfl)
@[simp] theorem Dev.finish_pwr (d : Dev) (c : CoreSt) (x : Cmd) (r st : Nat) : (d.finish c x r st).pwr = d.pwr := by
  unfold Dev.finish; (try simp only []); (repeat' split) <;> first | (simp; done) | rfl | (simp; rfl)
@[simp] theorem Dev.finish_cfg (d : Dev) (c : CoreSt) (x : Cmd) (r st : Nat) : (d.finish c x r st).cfg = d.cfg := by
  unfold Dev.finish; (try simp only []); (repeat' split) <;> first | (simp; done) | rfl | (simp; rfl)
@[simp] theorem Dev.finish_firmware (d : Dev) (c : CoreSt) (x : Cmd) (r st : Nat) : (d.finish c x r st).firmware = d.firmware := by
  unfold Dev.finish; (try simp only []); (repeat' split) <;> first | (simp; done) | rfl | (simp; rfl)
@[simp] theorem Dev.finish_phy (d : Dev) (c : CoreSt) (x : Cmd) (r st : Nat) : (d.finish c x r st).phy = d.phy := by
  unfold Dev.finish; (try simp only []); (repeat' split) <;> first | (simp; done) | rfl | (simp; rfl)
@[simp] theorem Dev.finish_mgmt (d : Dev) (c : CoreSt) (x : Cmd) (r st : Nat) : (d.finish c x r st).mgmt = d.mgmt := by
  unfold Dev.finish; (try simp only []); (repeat' split) <;> first | (simp; done) | rfl | (simp; rfl)
@[simp] theorem Dev.finish_fresh (d : Dev) (c : CoreSt) (x : Cmd) (r st : Nat) : (d.finish c x r st).fresh = d.fresh := by
  unfold Dev.finish; (try simp only []); (repeat' split) <;> first | (simp; done) | rfl | (simp; rfl)

/-- What an entry makes of the event log depends on the log alone (R588). -/
theorem Dev.logEvent_log (d e : Dev) (h : d.evLog = e.evLog) (t : Word) (k i st : Nat) (bs : Bytes) :
    (d.logEvent t k i st bs).evLog = (e.logEvent t k i st bs).evLog := by
  unfold Dev.logEvent; rw [h]; dsimp only; split
  · exact h
  · rfl

end Sys2Proof.Machine
end

