-- ==== Sys2Proof/Laws/Fields.lean ====
section
/-!
SUPPORT. Bit fields, bit by bit: what a field of a number holds, and that a written field reads as written and leaves every other bit; what byte strings of
numbers spell; the range of a CRC.
-/

namespace Sys2Proof.Machine

theorem bits_testBit (v hi lo i : Nat) : (bits v hi lo).testBit i = (decide (i < hi + 1 - lo) && v.testBit (lo + i)) := by
  rw [bits, Nat.testBit_mod_two_pow, Nat.testBit_shiftRight]

theorem bits_lt (v hi lo : Nat) : bits v hi lo < 2 ^ (hi + 1 - lo) := Nat.mod_lt _ (Nat.two_pow_pos _)

theorem setBits_eq (v hi lo x : Nat) (h : lo ≤ hi) :
    setBits v hi lo x = 2 ^ lo * (2 ^ (hi + 1 - lo) * (v / 2 ^ (hi + 1)) + x % 2 ^ (hi + 1 - lo)) + v % 2 ^ lo := by
  have e : 2 ^ (hi + 1) = 2 ^ lo * 2 ^ (hi + 1 - lo) := by rw [← Nat.pow_add]; congr 1; omega
  have h1 := Nat.div_add_mod v (2 ^ lo)
  have h2 := Nat.div_add_mod (v / 2 ^ lo) (2 ^ (hi + 1 - lo))
  rw [Nat.div_div_eq_div_mul, ← e] at h2
  simp only [setBits, bits, Nat.shiftRight_eq_div_pow, Nat.shiftLeft_eq]
  have h3 : v = 2 ^ lo * (2 ^ (hi + 1 - lo) * (v / 2 ^ (hi + 1)) + v / 2 ^ lo % 2 ^ (hi + 1 - lo)) + v % 2 ^ lo := by rw [h2, h1]
  rw [Nat.mul_add] at h3 ⊢
  generalize 2 ^ lo * (2 ^ (hi + 1 - lo) * (v / 2 ^ (hi + 1))) = a at h3 ⊢
  rw [Nat.mul_comm _ (2 ^ lo), Nat.mul_comm _ (2 ^ lo)]
  generalize 2 ^ lo * (v / 2 ^ lo % 2 ^ (hi + 1 - lo)) = b at h3 ⊢
  generalize v % 2 ^ lo = r at h3 ⊢
  omega

theorem setBits_testBit (v hi lo x i : Nat) (h : lo ≤ hi) :
    (setBits v hi lo x).testBit i = if lo ≤ i ∧ i ≤ hi then x.testBit (i - lo) else v.testBit i := by
  have e : hi + 1 - lo + lo = hi + 1 := by omega
  rw [setBits_eq v hi lo x h, Nat.testBit_two_pow_mul_add _ (Nat.mod_lt _ (Nat.two_pow_pos _))]
  by_cases h1 : i < lo
  · simp [h1, Nat.testBit_mod_two_pow] <;> omega
  · rw [if_neg h1, Nat.testBit_two_pow_mul_add _ (Nat.mod_lt _ (Nat.two_pow_pos _))]
    by_cases h2 : i - lo < hi + 1 - lo
    · simp only [h2, if_true, Nat.testBit_mod_two_pow, decide_true, Bool.true_and]
      rw [if_pos (by omega)]
    · simp only [h2, if_false, Nat.testBit_div_two_pow]
      rw [if_neg (by omega)]
      congr 1; omega

theorem setBits_lt (v hi lo x n : Nat) (h : lo ≤ hi) (hh : hi < n) (hv : v < 2 ^ n) : setBits v hi lo x < 2 ^ n := by
  apply Nat.lt_pow_two_of_testBit
  intro i hi'
  rw [setBits_testBit _ _ _ _ _ h, if_neg (by omega)]
  exact Nat.testBit_lt_two_pow (Nat.lt_of_lt_of_le hv (Nat.pow_le_pow_right (by omega) hi'))

/-- A field just written reads as what was written, cut to its width. -/
theorem fld_setFld_self (v : Word) (hi lo x : Nat) (h : lo ≤ hi) (hh : hi < 64) : fld (setFld v hi lo x) hi lo = x % 2 ^ (hi + 1 - lo) := by
  have hv := v.isLt
  have e : (setFld v hi lo x).toNat = setBits v.toNat hi lo x := by
    rw [setFld, BitVec.toNat_ofNat, Nat.mod_eq_of_lt (setBits_lt _ _ _ _ 64 h hh hv)]
  rw [fld, e]
  apply Nat.eq_of_testBit_eq
  intro i
  rw [bits_testBit, setBits_testBit _ _ _ _ _ h, Nat.testBit_mod_two_pow]
  by_cases c : i < hi + 1 - lo
  · simp only [c, decide_true, Bool.true_and]
    rw [if_pos (by omega)]; congr 1; omega
  · simp [c]

/-- A field that meets none of the bits written keeps its value. -/
theorem fld_setFld_other (v : Word) (hi lo x hi' lo' : Nat) (h : lo ≤ hi) (hh : hi < 64) (hd : hi' < lo ∨ hi < lo') :
    fld (setFld v hi lo x) hi' lo' = fld v hi' lo' := by
  have hv := v.isLt
  have e : (setFld v hi lo x).toNat = setBits v.toNat hi lo x := by
    rw [setFld, BitVec.toNat_ofNat, Nat.mod_eq_of_lt (setBits_lt _ _ _ _ 64 h hh hv)]
  rw [fld, fld, e]
  apply Nat.eq_of_testBit_eq
  intro i
  rw [bits_testBit, bits_testBit, setBits_testBit _ _ _ _ _ h]
  by_cases c : i < hi' + 1 - lo'
  · simp only [c, decide_true, Bool.true_and]
    rw [if_neg (by omega)]
  · simp [c]

/-! ### Bytes and CRCs -/

theorem ofLE_toLE (n v : Nat) : ofLE (toLE n v) = v % 256 ^ n := by
  induction n generalizing v with
  | zero => simp [toLE, ofLE, Nat.mod_one]
  | succ n ih =>
    rw [toLE, ofLE, ih, BitVec.toNat_ofNat, show 256 ^ (n + 1) = 256 * 256 ^ n by rw [Nat.pow_succ, Nat.mul_comm], Nat.mod_mul]

theorem toLE_length (n v : Nat) : (toLE n v).length = n := by
  induction n generalizing v with
  | zero => rfl
  | succ n ih => simp [toLE, ih]

theorem crc32cBits_lt (n r : Nat) (h : r < 2 ^ 32) : crc32cBits n r < 2 ^ 32 := by
  induction n generalizing r with
  | zero => exact h
  | succ n ih =>
    unfold crc32cBits
    apply ih
    split
    · apply Nat.xor_lt_two_pow <;> omega
    · omega

theorem crc32c_lt (bs : Bytes) : crc32c bs < 2 ^ 32 := by
  have h : ∀ (l : Bytes) (r : Nat), r < 2 ^ 32 → l.foldl crc32cByte r < 2 ^ 32 := by
    intro l
    induction l with
    | nil => intro r hr; exact hr
    | cons b l ih =>
      intro r hr
      apply ih
      apply crc32cBits_lt
      apply Nat.xor_lt_two_pow hr
      have := b.isLt; omega
  exact Nat.xor_lt_two_pow (h _ _ (by omega)) (by omega)

end Sys2Proof.Machine
end

