-- ==== Sys2Proof/Laws/Registers.lean ====
section
/-!
SUPPORT. Flags of registers that are set, and what counting and raising an event leave of the registers.
-/

namespace Sys2Proof.Machine

/-! ### Flags of registers -/

theorem Dev.flag_setFlag_self (d : Dev) (off n : Nat) (b : Bool) (h : n < 64) : (d.setFlag off n b).flag off n = b := by
  unfold Dev.flag Dev.setFlag Dev.setF Dev.getF
  rw [Dev.reg_setReg_self, fld_setFld_self _ _ _ _ (Nat.le_refl _) h]
  cases b <;> simp [b2n]

theorem Dev.flag_setF_other (d : Dev) (off hi lo x m : Nat) (h : lo ≤ hi) (hh : hi < 64) (hd : m < lo ∨ hi < m) :
    (d.setF off hi lo x).flag off m = d.flag off m := by
  unfold Dev.flag Dev.setF Dev.getF
  rw [Dev.reg_setReg_self, fld_setFld_other _ _ _ _ _ _ h hh hd]

theorem Dev.flag_setReg_ne (d : Dev) (off o m : Nat) (v : Word) (h : o ≠ off) : (d.setReg off v).flag o m = d.flag o m := by
  unfold Dev.flag; rw [Dev.getF_setReg_ne _ _ _ _ _ _ h]

theorem Dev.flag_setF_ne (d : Dev) (off hi lo x o m : Nat) (h : o ≠ off) : (d.setF off hi lo x).flag o m = d.flag o m :=
  Dev.flag_setReg_ne _ _ _ _ _ h

theorem Dev.flag_setFlag_other (d : Dev) (off n m : Nat) (b : Bool) (h : n < 64) (hd : m ≠ n) : (d.setFlag off n b).flag off m = d.flag off m :=
  Dev.flag_setF_other d off n n _ m (Nat.le_refl _) h (by omega)

theorem Dev.flag_setFlag_ne (d : Dev) (off n o m : Nat) (b : Bool) (h : o ≠ off) : (d.setFlag off n b).flag o m = d.flag o m :=
  Dev.flag_setReg_ne _ _ _ _ _ h

/-! ### What counting and raising leave of the registers -/

theorem Dev.reg_bump0_ne (d : Dev) (off k o : Nat) (h1 : o ≠ off) (h2 : ∀ e, cntSat off = some e → o ≠ e.1) : (d.bump0 off k).reg o = d.reg o := by
  unfold Dev.bump0
  dsimp only
  split
  · exact Dev.reg_setReg_ne _ _ _ _ h1
  · split
    · rename_i e1 e2 e3 e4 he
      rw [Dev.reg_setFlag_ne _ _ _ _ _ (h2 _ he), Dev.reg_setReg_ne _ _ _ _ h1]
    · exact Dev.reg_setReg_ne _ _ _ _ h1

theorem Dev.reg_countEvt_ne (d : Dev) (off o : Nat) (h1 : o ≠ off) (h2 : ∀ e, cntSat off = some e → o ≠ e.1) : (d.countEvt off).reg o = d.reg o := by
  unfold Dev.countEvt
  dsimp only
  split
  · exact Dev.reg_bump0_ne d off 1 o h1 h2
  · exact Dev.reg_bump0_ne d off 1 o h1 h2

/-- Raising an event writes only the raise and merge counters and their SAT register (R459). -/
theorem Dev.reg_raiseEvent_ne (d : Dev) (n o : Nat) (h1 : o ≠ R.evtCntRaise) (h2 : o ≠ R.evtCntMerge) (h3 : o ≠ R.evtCntSat) :
    (d.raiseEvent n).reg o = d.reg o := by
  unfold Dev.raiseEvent
  dsimp only
  have e1 (d : Dev) : (d.countEvt R.evtCntRaise).reg o = d.reg o :=
    Dev.reg_countEvt_ne _ _ _ h1 (by intro e he; rw [show cntSat R.evtCntRaise = some (R.evtCntSat, _, _, _) from rfl] at he; cases he; exact h3)
  have e2 (d : Dev) : (d.countEvt R.evtCntMerge).reg o = d.reg o :=
    Dev.reg_countEvt_ne _ _ _ h2 (by intro e he; rw [show cntSat R.evtCntMerge = some (R.evtCntSat, _, _, _) from rfl] at he; cases he; exact h3)
  split
  · rw [e2, e1]; rfl
  · rw [e1]; rfl

end Sys2Proof.Machine
end

