-- ==== Sys2Proof/Laws/Acts.lean ====
section
/-!
SUPPORT. How each command acts, said once: on the blocks, on the mode arbiter and the blocks, or at a pin (Acts); what that leaves of the queue;
and the shared operations that leave the mode arbiter as it is.
-/

set_option Elab.async false

namespace Sys2Proof.Machine

/-- How a command acts: on the blocks, on the mode arbiter and the blocks, or at a pin; PWRGOOD_FALL has an outcome of its own. -/
def Acts (c : Instr) : Prop :=
  (∃ f, ∀ s : State, exec c s = s.onDev f) ∨ (∃ f, ∀ s : State, exec c s = s.onAll f) ∨ (∃ f, actsOff c = true ∧ ∀ s : State, exec c s = s.onPin f) ∨
  c = .pwrgoodFall

theorem acts_pwrgoodRise : ∀ a0, Acts (.pwrgoodRise a0) := by
  intro a0; apply Or.inr; apply Or.inr; apply Or.inl; apply Exists.intro; refine ⟨rfl, ?_⟩; intro s; rw [exec_pwrgoodRise, execPwrgoodRise]

theorem acts_pwrgoodFall :  Acts (.pwrgoodFall) := by
  exact .inr (.inr (.inr rfl))

theorem acts_pfailNFall :  Acts (.pfailNFall) := by
  apply Or.inr; apply Or.inr; apply Or.inl; apply Exists.intro; refine ⟨rfl, ?_⟩; intro s; rw [exec_pfailNFall, execPfailNFall]

theorem acts_dumpComplete : ∀ a0 a1, Acts (.dumpComplete a0 a1) := by
  intro a0 a1; apply Or.inr; apply Or.inl; apply Exists.intro; intro s; rw [exec_dumpComplete, execDumpComplete]

theorem acts_pfailNRise :  Acts (.pfailNRise) := by
  apply Or.inr; apply Or.inr; apply Or.inl; apply Exists.intro; refine ⟨rfl, ?_⟩; intro s; rw [exec_pfailNRise, execPfailNRise]

theorem acts_dumpInvalidate :  Acts (.dumpInvalidate) := by
  apply Or.inr; apply Or.inl; apply Exists.intro; intro s; rw [exec_dumpInvalidate, execDumpInvalidate]

theorem acts_dumpReplay :  Acts (.dumpReplay) := by
  apply Or.inl; apply Exists.intro; intro s; rw [exec_dumpReplay, execDumpReplay]

theorem acts_dumpActionReplay : ∀ a0, Acts (.dumpActionReplay a0) := by
  intro a0; apply Or.inl; apply Exists.intro; intro s; rw [exec_dumpActionReplay, execDumpActionReplay]

theorem acts_dumpActionDiscard : ∀ a0, Acts (.dumpActionDiscard a0) := by
  intro a0; apply Or.inl; apply Exists.intro; intro s; rw [exec_dumpActionDiscard, execDumpActionDiscard]

theorem acts_romPassDone : ∀ a0, Acts (.romPassDone a0) := by
  intro a0; apply Or.inr; apply Or.inl; apply Exists.intro; intro s; rw [exec_romPassDone, execRomPassDone]

theorem acts_configureRecordsDone : ∀ a0, Acts (.configureRecordsDone a0) := by
  intro a0; apply Or.inr; apply Or.inl; apply Exists.intro; intro s; rw [exec_configureRecordsDone, execConfigureRecordsDone]

theorem acts_configureComplete : ∀ a0, Acts (.configureComplete a0) := by
  intro a0; apply Or.inr; apply Or.inl; apply Exists.intro; intro s; rw [exec_configureComplete, execConfigureComplete]

theorem acts_devResetCold : ∀ a0 a1, Acts (.devResetCold a0 a1) := by
  intro a0 a1; apply Or.inr; apply Or.inl; apply Exists.intro; intro s; rw [exec_devResetCold, execDevResetCold]

theorem acts_devResetWarm : ∀ a0 a1, Acts (.devResetWarm a0 a1) := by
  intro a0 a1; apply Or.inr; apply Or.inl; apply Exists.intro; intro s; rw [exec_devResetWarm, execDevResetWarm]

theorem acts_devResetRegistrar : ∀ a0 a1, Acts (.devResetRegistrar a0 a1) := by
  intro a0 a1; apply Or.inr; apply Or.inl; apply Exists.intro; intro s; rw [exec_devResetRegistrar, execDevResetRegistrar]

theorem acts_quiesce : ∀ a0, Acts (.quiesce a0) := by
  intro a0; apply Or.inr; apply Or.inl; apply Exists.intro; intro s; rw [exec_quiesce, execQuiesce]

theorem acts_resume : ∀ a0, Acts (.resume a0) := by
  intro a0; apply Or.inr; apply Or.inl; apply Exists.intro; intro s; rw [exec_resume, execResume]

theorem acts_enterRecovery : ∀ a0, Acts (.enterRecovery a0) := by
  intro a0; apply Or.inr; apply Or.inl; apply Exists.intro; intro s; rw [exec_enterRecovery, execEnterRecovery]

theorem acts_drainComplete :  Acts (.drainComplete) := by
  apply Or.inr; apply Or.inl; apply Exists.intro; intro s; rw [exec_drainComplete, execDrainComplete]

theorem acts_drainTimeout :  Acts (.drainTimeout) := by
  apply Or.inr; apply Or.inl; apply Exists.intro; intro s; rw [exec_drainTimeout, execDrainTimeout]

theorem acts_holdTimeout :  Acts (.holdTimeout) := by
  apply Or.inr; apply Or.inl; apply Exists.intro; intro s; rw [exec_holdTimeout, execHoldTimeout]

theorem acts_maintenanceComplete :  Acts (.maintenanceComplete) := by
  apply Or.inr; apply Or.inl; apply Exists.intro; intro s; rw [exec_maintenanceComplete, execMaintenanceComplete]

theorem acts_hostPortReset : ∀ a0 a1, Acts (.hostPortReset a0 a1) := by
  intro a0 a1; apply Or.inr; apply Or.inr; apply Or.inl; apply Exists.intro; refine ⟨rfl, ?_⟩; intro s; rw [exec_hostPortReset, execHostPortReset]

theorem acts_hostLinkUp : ∀ a0 a1 a2 a3, Acts (.hostLinkUp a0 a1 a2 a3) := by
  intro a0 a1 a2 a3; apply Or.inl; apply Exists.intro; intro s; rw [exec_hostLinkUp, execHostLinkUp]

theorem acts_functionReset : ∀ a0 a1, Acts (.functionReset a0 a1) := by
  intro a0 a1; apply Or.inl; apply Exists.intro; intro s; rw [exec_functionReset, execFunctionReset]

theorem acts_pcieConfigRequest : ∀ a0 a1 a2, Acts (.pcieConfigRequest a0 a1 a2) := by
  intro a0 a1 a2; apply Or.inl; apply Exists.intro; intro s; rw [exec_pcieConfigRequest, execPcieConfigRequest]

theorem acts_atsInvalidation : ∀ a0 a1, Acts (.atsInvalidation a0 a1) := by
  intro a0 a1; apply Or.inl; apply Exists.intro; intro s; rw [exec_atsInvalidation, execAtsInvalidation]

theorem acts_thermalTrip : ∀ a0, Acts (.thermalTrip a0) := by
  intro a0; apply Or.inr; apply Or.inl; apply Exists.intro; intro s; rw [exec_thermalTrip, execThermalTrip]

theorem acts_sysrefLost :  Acts (.sysrefLost) := by
  apply Or.inr; apply Or.inl; apply Exists.intro; intro s; rw [exec_sysrefLost, execSysrefLost]

theorem acts_sqDoorbell : ∀ a0 a1 a2, Acts (.sqDoorbell a0 a1 a2) := by
  intro a0 a1 a2; apply Or.inl; apply Exists.intro; intro s; rw [exec_sqDoorbell, execSqDoorbell]

theorem acts_cqDoorbell : ∀ a0 a1 a2, Acts (.cqDoorbell a0 a1 a2) := by
  intro a0 a1 a2; apply Or.inl; apply Exists.intro; intro s; rw [exec_cqDoorbell, execCqDoorbell]

theorem acts_xqEnable : ∀ a0, Acts (.xqEnable a0) := by
  intro a0; apply Or.inl; apply Exists.intro; intro s; rw [exec_xqEnable, execXqEnable]

theorem acts_xqReady : ∀ a0, Acts (.xqReady a0) := by
  intro a0; apply Or.inl; apply Exists.intro; intro s; rw [exec_xqReady, execXqReady]

theorem acts_controllerReset : ∀ a0, Acts (.controllerReset a0) := by
  intro a0; apply Or.inl; apply Exists.intro; intro s; rw [exec_controllerReset, execControllerReset]

theorem acts_fetchTurn : ∀ a0, Acts (.fetchTurn a0) := by
  intro a0; apply Or.inl; apply Exists.intro; intro s; rw [exec_fetchTurn, execFetchTurn]

theorem acts_entryFetched : ∀ a0, Acts (.entryFetched a0) := by
  intro a0; apply Or.inl; apply Exists.intro; intro s; rw [exec_entryFetched, execEntryFetched]

theorem acts_adminBusyTimeout : ∀ a0 a1, Acts (.adminBusyTimeout a0 a1) := by
  intro a0 a1; apply Or.inl; apply Exists.intro; intro s; rw [exec_adminBusyTimeout, execAdminBusyTimeout]

theorem acts_read : ∀ a0, Acts (.read a0) := by
  intro a0; apply Or.inl; apply Exists.intro; intro s; rw [exec_read, execRead]

theorem acts_write : ∀ a0, Acts (.write a0) := by
  intro a0; apply Or.inl; apply Exists.intro; intro s; rw [exec_write, execWrite]

theorem acts_flush : ∀ a0, Acts (.flush a0) := by
  intro a0; apply Or.inl; apply Exists.intro; intro s; rw [exec_flush, execFlush]

theorem acts_deallocate : ∀ a0, Acts (.deallocate a0) := by
  intro a0; apply Or.inl; apply Exists.intro; intro s; rw [exec_deallocate, execDeallocate]

theorem acts_ouAdmit : ∀ a0, Acts (.ouAdmit a0) := by
  intro a0; apply Or.inl; apply Exists.intro; intro s; rw [exec_ouAdmit, execOuAdmit]

theorem acts_writeInsert : ∀ a0, Acts (.writeInsert a0) := by
  intro a0; apply Or.inl; apply Exists.intro; intro s; rw [exec_writeInsert, execWriteInsert]

theorem acts_readDataTaken : ∀ a0 a1, Acts (.readDataTaken a0 a1) := by
  intro a0 a1; apply Or.inl; apply Exists.intro; intro s; rw [exec_readDataTaken, execReadDataTaken]

theorem acts_drainStep : ∀ a0, Acts (.drainStep a0) := by
  intro a0; apply Or.inl; apply Exists.intro; intro s; rw [exec_drainStep, execDrainStep]

theorem acts_createQueue : ∀ a0, Acts (.createQueue a0) := by
  intro a0; apply Or.inl; apply Exists.intro; intro s; rw [exec_createQueue, execCreateQueue]

theorem acts_deleteQueue : ∀ a0, Acts (.deleteQueue a0) := by
  intro a0; apply Or.inl; apply Exists.intro; intro s; rw [exec_deleteQueue, execDeleteQueue]

theorem acts_identify : ∀ a0, Acts (.identify a0) := by
  intro a0; apply Or.inl; apply Exists.intro; intro s; rw [exec_identify, execIdentify]

theorem acts_logRead : ∀ a0, Acts (.logRead a0) := by
  intro a0; apply Or.inl; apply Exists.intro; intro s; rw [exec_logRead, execLogRead]

theorem acts_counterRead : ∀ a0, Acts (.counterRead a0) := by
  intro a0; apply Or.inl; apply Exists.intro; intro s; rw [exec_counterRead, execCounterRead]

theorem acts_traceConfig : ∀ a0, Acts (.traceConfig a0) := by
  intro a0; apply Or.inl; apply Exists.intro; intro s; rw [exec_traceConfig, execTraceConfig]

theorem acts_pipelineLoad : ∀ a0, Acts (.pipelineLoad a0) := by
  intro a0; apply Or.inl; apply Exists.intro; intro s; rw [exec_pipelineLoad, execPipelineLoad]

theorem acts_pipelineRun : ∀ a0, Acts (.pipelineRun a0) := by
  intro a0; apply Or.inl; apply Exists.intro; intro s; rw [exec_pipelineRun, execPipelineRun]

theorem acts_pipelineCancel : ∀ a0, Acts (.pipelineCancel a0) := by
  intro a0; apply Or.inl; apply Exists.intro; intro s; rw [exec_pipelineCancel, execPipelineCancel]

theorem acts_resultRead : ∀ a0, Acts (.resultRead a0) := by
  intro a0; apply Or.inl; apply Exists.intro; intro s; rw [exec_resultRead, execResultRead]

theorem acts_docentDecision :  Acts (.docentDecision) := by
  apply Or.inl; apply Exists.intro; intro s; rw [exec_docentDecision, execDocentDecision]

theorem acts_docTcancel : ∀ a0 a1, Acts (.docTcancel a0 a1) := by
  intro a0 a1; apply Or.inl; apply Exists.intro; intro s; rw [exec_docTcancel, execDocTcancel]

theorem acts_taskdone : ∀ a0 a1 a2, Acts (.taskdone a0 a1 a2) := by
  intro a0 a1 a2; apply Or.inl; apply Exists.intro; intro s; rw [exec_taskdone, execTaskdone]

theorem acts_cancelTimeout : ∀ a0, Acts (.cancelTimeout a0) := by
  intro a0; apply Or.inl; apply Exists.intro; intro s; rw [exec_cancelTimeout, execCancelTimeout]

theorem acts_shareEpoch :  Acts (.shareEpoch) := by
  apply Or.inl; apply Exists.intro; intro s; rw [exec_shareEpoch, execShareEpoch]

theorem acts_ledgerVerdict : ∀ a0 a1, Acts (.ledgerVerdict a0 a1) := by
  intro a0 a1; apply Or.inl; apply Exists.intro; intro s; rw [exec_ledgerVerdict, execLedgerVerdict]

theorem acts_taskCancel : ∀ a0, Acts (.taskCancel a0) := by
  intro a0; apply Or.inl; apply Exists.intro; intro s; rw [exec_taskCancel, execTaskCancel]

theorem acts_takeEvent : ∀ a0, Acts (.takeEvent a0) := by
  intro a0; apply Or.inl; apply Exists.intro; intro s; rw [exec_takeEvent, execTakeEvent]

theorem acts_dispatchMessage : ∀ a0, Acts (.dispatchMessage a0) := by
  intro a0; apply Or.inl; apply Exists.intro; intro s; rw [exec_dispatchMessage, execDispatchMessage]

theorem acts_galleryWakeDone : ∀ a0, Acts (.galleryWakeDone a0) := by
  intro a0; apply Or.inl; apply Exists.intro; intro s; rw [exec_galleryWakeDone, execGalleryWakeDone]

theorem acts_galleryPark : ∀ a0, Acts (.galleryPark a0) := by
  intro a0; apply Or.inl; apply Exists.intro; intro s; rw [exec_galleryPark, execGalleryPark]

theorem acts_postedWriteError : ∀ a0 a1 a2, Acts (.postedWriteError a0 a1 a2) := by
  intro a0 a1 a2; apply Or.inl; apply Exists.intro; intro s; rw [exec_postedWriteError, execPostedWriteError]

theorem acts_integerAlu : ∀ a0 a1 a2 a3 a4 a5, Acts (.integerAlu a0 a1 a2 a3 a4 a5) := by
  intro a0 a1 a2 a3 a4 a5; apply Or.inl; apply Exists.intro; intro s; rw [exec_integerAlu, execIntegerAlu]

theorem acts_multiplyDivide : ∀ a0 a1 a2 a3 a4 a5, Acts (.multiplyDivide a0 a1 a2 a3 a4 a5) := by
  intro a0 a1 a2 a3 a4 a5; apply Or.inl; apply Exists.intro; intro s; rw [exec_multiplyDivide, execMultiplyDivide]

theorem acts_bitManipulation : ∀ a0 a1 a2 a3 a4, Acts (.bitManipulation a0 a1 a2 a3 a4) := by
  intro a0 a1 a2 a3 a4; apply Or.inl; apply Exists.intro; intro s; rw [exec_bitManipulation, execBitManipulation]

theorem acts_integerLoad : ∀ a0 a1 a2 a3 a4 a5, Acts (.integerLoad a0 a1 a2 a3 a4 a5) := by
  intro a0 a1 a2 a3 a4 a5; apply Or.inl; apply Exists.intro; intro s; rw [exec_integerLoad, execIntegerLoad]

theorem acts_integerStore : ∀ a0 a1 a2 a3 a4, Acts (.integerStore a0 a1 a2 a3 a4) := by
  intro a0 a1 a2 a3 a4; apply Or.inl; apply Exists.intro; intro s; rw [exec_integerStore, execIntegerStore]

theorem acts_ldc : ∀ a0 a1 a2 a3, Acts (.ldc a0 a1 a2 a3) := by
  intro a0 a1 a2 a3; apply Or.inl; apply Exists.intro; intro s; rw [exec_ldc, execLdc]

theorem acts_stc : ∀ a0 a1 a2 a3, Acts (.stc a0 a1 a2 a3) := by
  intro a0 a1 a2 a3; apply Or.inl; apply Exists.intro; intro s; rw [exec_stc, execStc]

theorem acts_atomic : ∀ a0 a1 a2 a3 a4, Acts (.atomic a0 a1 a2 a3 a4) := by
  intro a0 a1 a2 a3 a4; apply Or.inl; apply Exists.intro; intro s; rw [exec_atomic, execAtomic]

theorem acts_cwindow : ∀ a0 a1 a2 a3, Acts (.cwindow a0 a1 a2 a3) := by
  intro a0 a1 a2 a3; apply Or.inl; apply Exists.intro; intro s; rw [exec_cwindow, execCwindow]

theorem acts_ckeep : ∀ a0 a1 a2 a3, Acts (.ckeep a0 a1 a2 a3) := by
  intro a0 a1 a2 a3; apply Or.inl; apply Exists.intro; intro s; rw [exec_ckeep, execCkeep]

theorem acts_ccopy : ∀ a0 a1 a2, Acts (.ccopy a0 a1 a2) := by
  intro a0 a1 a2; apply Or.inl; apply Exists.intro; intro s; rw [exec_ccopy, execCcopy]

theorem acts_cstrip : ∀ a0 a1 a2, Acts (.cstrip a0 a1 a2) := by
  intro a0 a1 a2; apply Or.inl; apply Exists.intro; intro s; rw [exec_cstrip, execCstrip]

theorem acts_cinst : ∀ a0 a1 a2 a3 a4, Acts (.cinst a0 a1 a2 a3 a4) := by
  intro a0 a1 a2 a3 a4; apply Or.inl; apply Exists.intro; intro s; rw [exec_cinst, execCinst]

theorem acts_cbind : ∀ a0 a1 a2 a3 a4, Acts (.cbind a0 a1 a2 a3 a4) := by
  intro a0 a1 a2 a3 a4; apply Or.inl; apply Exists.intro; intro s; rw [exec_cbind, execCbind]

theorem acts_cunbind : ∀ a0 a1 a2 a3 a4, Acts (.cunbind a0 a1 a2 a3 a4) := by
  intro a0 a1 a2 a3 a4; apply Or.inl; apply Exists.intro; intro s; rw [exec_cunbind, execCunbind]

theorem acts_capInspect : ∀ a0 a1 a2 a3, Acts (.capInspect a0 a1 a2 a3) := by
  intro a0 a1 a2 a3; apply Or.inl; apply Exists.intro; intro s; rw [exec_capInspect, execCapInspect]

theorem acts_branch : ∀ a0 a1 a2 a3 a4, Acts (.branch a0 a1 a2 a3 a4) := by
  intro a0 a1 a2 a3 a4; apply Or.inl; apply Exists.intro; intro s; rw [exec_branch, execBranch]

theorem acts_jump : ∀ a0 a1 a2, Acts (.jump a0 a1 a2) := by
  intro a0 a1 a2; apply Or.inl; apply Exists.intro; intro s; rw [exec_jump, execJump]

theorem acts_jc : ∀ a0 a1 a2, Acts (.jc a0 a1 a2) := by
  intro a0 a1 a2; apply Or.inl; apply Exists.intro; intro s; rw [exec_jc, execJc]

theorem acts_jcl : ∀ a0 a1 a2 a3 a4, Acts (.jcl a0 a1 a2 a3 a4) := by
  intro a0 a1 a2 a3 a4; apply Or.inl; apply Exists.intro; intro s; rw [exec_jcl, execJcl]

theorem acts_ccrr : ∀ a0 a1 a2 a3, Acts (.ccrr a0 a1 a2 a3) := by
  intro a0 a1 a2 a3; apply Or.inl; apply Exists.intro; intro s; rw [exec_ccrr, execCcrr]

theorem acts_ccrw : ∀ a0 a1 a2 a3, Acts (.ccrw a0 a1 a2 a3) := by
  intro a0 a1 a2 a3; apply Or.inl; apply Exists.intro; intro s; rw [exec_ccrw, execCcrw]

theorem acts_ccrrc : ∀ a0 a1 a2 a3, Acts (.ccrrc a0 a1 a2 a3) := by
  intro a0 a1 a2 a3; apply Or.inl; apply Exists.intro; intro s; rw [exec_ccrrc, execCcrrc]

theorem acts_ccrwc : ∀ a0 a1 a2 a3, Acts (.ccrwc a0 a1 a2 a3) := by
  intro a0 a1 a2 a3; apply Or.inl; apply Exists.intro; intro s; rw [exec_ccrwc, execCcrwc]

theorem acts_eret : ∀ a0, Acts (.eret a0) := by
  intro a0; apply Or.inl; apply Exists.intro; intro s; rw [exec_eret, execEret]

theorem acts_fence : ∀ a0, Acts (.fence a0) := by
  intro a0; apply Or.inl; apply Exists.intro; intro s; rw [exec_fence, execFence]

theorem acts_wfe : ∀ a0, Acts (.wfe a0) := by
  intro a0; apply Or.inl; apply Exists.intro; intro s; rw [exec_wfe, execWfe]

theorem acts_sleep : ∀ a0 a1, Acts (.sleep a0 a1) := by
  intro a0 a1; apply Or.inl; apply Exists.intro; intro s; rw [exec_sleep, execSleep]

theorem acts_trap : ∀ a0 a1, Acts (.trap a0 a1) := by
  intro a0 a1; apply Or.inl; apply Exists.intro; intro s; rw [exec_trap, execTrap]

theorem acts_brk : ∀ a0, Acts (.brk a0) := by
  intro a0; apply Or.inl; apply Exists.intro; intro s; rw [exec_brk, execBrk]

theorem acts_setvl : ∀ a0 a1 a2 a3, Acts (.setvl a0 a1 a2 a3) := by
  intro a0 a1 a2 a3; apply Or.inl; apply Exists.intro; intro s; rw [exec_setvl, execSetvl]

theorem acts_vsetsc : ∀ a0 a1, Acts (.vsetsc a0 a1) := by
  intro a0 a1; apply Or.inl; apply Exists.intro; intro s; rw [exec_vsetsc, execVsetsc]

theorem acts_vrdstate : ∀ a0 a1 a2, Acts (.vrdstate a0 a1 a2) := by
  intro a0 a1 a2; apply Or.inl; apply Exists.intro; intro s; rw [exec_vrdstate, execVrdstate]

theorem acts_vwake : ∀ a0, Acts (.vwake a0) := by
  intro a0; apply Or.inl; apply Exists.intro; intro s; rw [exec_vwake, execVwake]

theorem acts_vectorAlu : ∀ a0 a1 a2 a3 a4 a5 a6 a7, Acts (.vectorAlu a0 a1 a2 a3 a4 a5 a6 a7) := by
  intro a0 a1 a2 a3 a4 a5 a6 a7; apply Or.inl; apply Exists.intro; intro s; rw [exec_vectorAlu, execVectorAlu]

theorem acts_vectorWidenMultiply : ∀ a0 a1 a2 a3 a4 a5 a6, Acts (.vectorWidenMultiply a0 a1 a2 a3 a4 a5 a6) := by
  intro a0 a1 a2 a3 a4 a5 a6; apply Or.inl; apply Exists.intro; intro s; rw [exec_vectorWidenMultiply, execVectorWidenMultiply]

theorem acts_vdot4b : ∀ a0 a1 a2 a3 a4 a5 a6, Acts (.vdot4b a0 a1 a2 a3 a4 a5 a6) := by
  intro a0 a1 a2 a3 a4 a5 a6; apply Or.inl; apply Exists.intro; intro s; rw [exec_vdot4b, execVdot4b]

theorem acts_vdot2h : ∀ a0 a1 a2 a3 a4 a5 a6, Acts (.vdot2h a0 a1 a2 a3 a4 a5 a6) := by
  intro a0 a1 a2 a3 a4 a5 a6; apply Or.inl; apply Exists.intro; intro s; rw [exec_vdot2h, execVdot2h]

theorem acts_vdot2w : ∀ a0 a1 a2 a3 a4 a5 a6, Acts (.vdot2w a0 a1 a2 a3 a4 a5 a6) := by
  intro a0 a1 a2 a3 a4 a5 a6; apply Or.inl; apply Exists.intro; intro s; rw [exec_vdot2w, execVdot2w]

theorem acts_vectorCompare : ∀ a0 a1 a2 a3 a4 a5, Acts (.vectorCompare a0 a1 a2 a3 a4 a5) := by
  intro a0 a1 a2 a3 a4 a5; apply Or.inl; apply Exists.intro; intro s; rw [exec_vectorCompare, execVectorCompare]

theorem acts_vectorReduction : ∀ a0 a1 a2 a3 a4 a5 a6, Acts (.vectorReduction a0 a1 a2 a3 a4 a5 a6) := by
  intro a0 a1 a2 a3 a4 a5 a6; apply Or.inl; apply Exists.intro; intro s; rw [exec_vectorReduction, execVectorReduction]

theorem acts_vcpop : ∀ a0 a1 a2, Acts (.vcpop a0 a1 a2) := by
  intro a0 a1 a2; apply Or.inl; apply Exists.intro; intro s; rw [exec_vcpop, execVcpop]

theorem acts_vcompress : ∀ a0 a1 a2 a3, Acts (.vcompress a0 a1 a2 a3) := by
  intro a0 a1 a2 a3; apply Or.inl; apply Exists.intro; intro s; rw [exec_vcompress, execVcompress]

theorem acts_vexpand : ∀ a0 a1 a2 a3, Acts (.vexpand a0 a1 a2 a3) := by
  intro a0 a1 a2 a3; apply Or.inl; apply Exists.intro; intro s; rw [exec_vexpand, execVexpand]

theorem acts_vectorPermute : ∀ a0 a1 a2 a3 a4 a5, Acts (.vectorPermute a0 a1 a2 a3 a4 a5) := by
  intro a0 a1 a2 a3 a4 a5; apply Or.inl; apply Exists.intro; intro s; rw [exec_vectorPermute, execVectorPermute]

theorem acts_vcx : ∀ a0 a1 a2 a3 a4 a5 a6, Acts (.vcx a0 a1 a2 a3 a4 a5 a6) := by
  intro a0 a1 a2 a3 a4 a5 a6; apply Or.inl; apply Exists.intro; intro s; rw [exec_vcx, execVcx]

theorem acts_vhcrc : ∀ a0 a1 a2 a3 a4, Acts (.vhcrc a0 a1 a2 a3 a4) := by
  intro a0 a1 a2 a3 a4; apply Or.inl; apply Exists.intro; intro s; rw [exec_vhcrc, execVhcrc]

theorem acts_vhmul : ∀ a0 a1 a2 a3, Acts (.vhmul a0 a1 a2 a3) := by
  intro a0 a1 a2 a3; apply Or.inl; apply Exists.intro; intro s; rw [exec_vhmul, execVhmul]

theorem acts_vectorMove : ∀ a0 a1 a2 a3 a4, Acts (.vectorMove a0 a1 a2 a3 a4) := by
  intro a0 a1 a2 a3 a4; apply Or.inl; apply Exists.intro; intro s; rw [exec_vectorMove, execVectorMove]

theorem acts_vdadd : ∀ a0 a1 a2 a3 a4, Acts (.vdadd a0 a1 a2 a3 a4) := by
  intro a0 a1 a2 a3 a4; apply Or.inl; apply Exists.intro; intro s; rw [exec_vdadd, execVdadd]

theorem acts_vdsub : ∀ a0 a1 a2 a3 a4, Acts (.vdsub a0 a1 a2 a3 a4) := by
  intro a0 a1 a2 a3 a4; apply Or.inl; apply Exists.intro; intro s; rw [exec_vdsub, execVdsub]

theorem acts_vdmul : ∀ a0 a1 a2 a3 a4, Acts (.vdmul a0 a1 a2 a3 a4) := by
  intro a0 a1 a2 a3 a4; apply Or.inl; apply Exists.intro; intro s; rw [exec_vdmul, execVdmul]

theorem acts_vddiv : ∀ a0 a1 a2 a3 a4, Acts (.vddiv a0 a1 a2 a3 a4) := by
  intro a0 a1 a2 a3 a4; apply Or.inl; apply Exists.intro; intro s; rw [exec_vddiv, execVddiv]

theorem acts_vdrescale : ∀ a0 a1 a2 a3, Acts (.vdrescale a0 a1 a2 a3) := by
  intro a0 a1 a2 a3; apply Or.inl; apply Exists.intro; intro s; rw [exec_vdrescale, execVdrescale]

theorem acts_vdmin : ∀ a0 a1 a2 a3 a4, Acts (.vdmin a0 a1 a2 a3 a4) := by
  intro a0 a1 a2 a3 a4; apply Or.inl; apply Exists.intro; intro s; rw [exec_vdmin, execVdmin]

theorem acts_vdmax : ∀ a0 a1 a2 a3 a4, Acts (.vdmax a0 a1 a2 a3 a4) := by
  intro a0 a1 a2 a3 a4; apply Or.inl; apply Exists.intro; intro s; rw [exec_vdmax, execVdmax]

theorem acts_vdcmp : ∀ a0 a1 a2 a3 a4 a5, Acts (.vdcmp a0 a1 a2 a3 a4 a5) := by
  intro a0 a1 a2 a3 a4 a5; apply Or.inl; apply Exists.intro; intro s; rw [exec_vdcmp, execVdcmp]

theorem acts_vdfromi : ∀ a0 a1 a2 a3, Acts (.vdfromi a0 a1 a2 a3) := by
  intro a0 a1 a2 a3; apply Or.inl; apply Exists.intro; intro s; rw [exec_vdfromi, execVdfromi]

theorem acts_vlacc : ∀ a0 a1 a2 a3, Acts (.vlacc a0 a1 a2 a3) := by
  intro a0 a1 a2 a3; apply Or.inl; apply Exists.intro; intro s; rw [exec_vlacc, execVlacc]

theorem acts_vlacci : ∀ a0 a1 a2 a3, Acts (.vlacci a0 a1 a2 a3) := by
  intro a0 a1 a2 a3; apply Or.inl; apply Exists.intro; intro s; rw [exec_vlacci, execVlacci]

theorem acts_vladd : ∀ a0 a1 a2 a3 a4, Acts (.vladd a0 a1 a2 a3 a4) := by
  intro a0 a1 a2 a3 a4; apply Or.inl; apply Exists.intro; intro s; rw [exec_vladd, execVladd]

theorem acts_vlnarrow : ∀ a0 a1 a2 a3, Acts (.vlnarrow a0 a1 a2 a3) := by
  intro a0 a1 a2 a3; apply Or.inl; apply Exists.intro; intro s; rw [exec_vlnarrow, execVlnarrow]

theorem acts_vlred : ∀ a0 a1 a2 a3, Acts (.vlred a0 a1 a2 a3) := by
  intro a0 a1 a2 a3; apply Or.inl; apply Exists.intro; intro s; rw [exec_vlred, execVlred]

theorem acts_vld : ∀ a0 a1 a2 a3 a4 a5, Acts (.vld a0 a1 a2 a3 a4 a5) := by
  intro a0 a1 a2 a3 a4 a5; apply Or.inl; apply Exists.intro; intro s; rw [exec_vld, execVld]

theorem acts_vst : ∀ a0 a1 a2 a3 a4 a5, Acts (.vst a0 a1 a2 a3 a4 a5) := by
  intro a0 a1 a2 a3 a4 a5; apply Or.inl; apply Exists.intro; intro s; rw [exec_vst, execVst]

theorem acts_vgath : ∀ a0 a1 a2 a3 a4 a5 a6, Acts (.vgath a0 a1 a2 a3 a4 a5 a6) := by
  intro a0 a1 a2 a3 a4 a5 a6; apply Or.inl; apply Exists.intro; intro s; rw [exec_vgath, execVgath]

theorem acts_vscat : ∀ a0 a1 a2 a3 a4 a5 a6, Acts (.vscat a0 a1 a2 a3 a4 a5 a6) := by
  intro a0 a1 a2 a3 a4 a5 a6; apply Or.inl; apply Exists.intro; intro s; rw [exec_vscat, execVscat]

theorem acts_svAlu : ∀ a0 a1 a2 a3 a4 a5 a6 a7, Acts (.svAlu a0 a1 a2 a3 a4 a5 a6 a7) := by
  intro a0 a1 a2 a3 a4 a5 a6 a7; apply Or.inl; apply Exists.intro; intro s; rw [exec_svAlu, execSvAlu]

theorem acts_svMultiply : ∀ a0 a1 a2 a3 a4 a5 a6 a7 a8, Acts (.svMultiply a0 a1 a2 a3 a4 a5 a6 a7 a8) := by
  intro a0 a1 a2 a3 a4 a5 a6 a7 a8; apply Or.inl; apply Exists.intro; intro s; rw [exec_svMultiply, execSvMultiply]

theorem acts_svCompare : ∀ a0 a1 a2 a3 a4 a5, Acts (.svCompare a0 a1 a2 a3 a4 a5) := by
  intro a0 a1 a2 a3 a4 a5; apply Or.inl; apply Exists.intro; intro s; rw [exec_svCompare, execSvCompare]

theorem acts_svHash : ∀ a0 a1 a2 a3 a4, Acts (.svHash a0 a1 a2 a3 a4) := by
  intro a0 a1 a2 a3 a4; apply Or.inl; apply Exists.intro; intro s; rw [exec_svHash, execSvHash]

theorem acts_svLoadStore : ∀ a0 a1 a2 a3 a4, Acts (.svLoadStore a0 a1 a2 a3 a4) := by
  intro a0 a1 a2 a3 a4; apply Or.inl; apply Exists.intro; intro s; rw [exec_svLoadStore, execSvLoadStore]

theorem acts_lvuPowerOff : ∀ a0, Acts (.lvuPowerOff a0) := by
  intro a0; apply Or.inl; apply Exists.intro; intro s; rw [exec_lvuPowerOff, execLvuPowerOff]

theorem acts_lvuWakeDone : ∀ a0, Acts (.lvuWakeDone a0) := by
  intro a0; apply Or.inl; apply Exists.intro; intro s; rw [exec_lvuWakeDone, execLvuWakeDone]

theorem acts_sflSubmit : ∀ a0 a1 a2, Acts (.sflSubmit a0 a1 a2) := by
  intro a0 a1 a2; apply Or.inl; apply Exists.intro; intro s; rw [exec_sflSubmit, execSflSubmit]

theorem acts_sflGet : ∀ a0 a1 a2, Acts (.sflGet a0 a1 a2) := by
  intro a0 a1 a2; apply Or.inl; apply Exists.intro; intro s; rw [exec_sflGet, execSflGet]

theorem acts_sflAbort : ∀ a0 a1 a2, Acts (.sflAbort a0 a1 a2) := by
  intro a0 a1 a2; apply Or.inl; apply Exists.intro; intro s; rw [exec_sflAbort, execSflAbort]

theorem acts_sflDescriptorStart : ∀ a0, Acts (.sflDescriptorStart a0) := by
  intro a0; apply Or.inl; apply Exists.intro; intro s; rw [exec_sflDescriptorStart, execSflDescriptorStart]

theorem acts_sflRowgroupEval : ∀ a0, Acts (.sflRowgroupEval a0) := by
  intro a0; apply Or.inl; apply Exists.intro; intro s; rw [exec_sflRowgroupEval, execSflRowgroupEval]

theorem acts_sflWriteError : ∀ a0 a1 a2, Acts (.sflWriteError a0 a1 a2) := by
  intro a0 a1 a2; apply Or.inl; apply Exists.intro; intro s; rw [exec_sflWriteError, execSflWriteError]

theorem acts_excSend : ∀ a0 a1, Acts (.excSend a0 a1) := by
  intro a0 a1; apply Or.inl; apply Exists.intro; intro s; rw [exec_excSend, execExcSend]

theorem acts_excSendResume : ∀ a0 a1, Acts (.excSendResume a0 a1) := by
  intro a0 a1; apply Or.inl; apply Exists.intro; intro s; rw [exec_excSendResume, execExcSendResume]

theorem acts_excAllocTimeout : ∀ a0, Acts (.excAllocTimeout a0) := by
  intro a0; apply Or.inl; apply Exists.intro; intro s; rw [exec_excAllocTimeout, execExcAllocTimeout]

theorem acts_excNext : ∀ a0 a1, Acts (.excNext a0 a1) := by
  intro a0 a1; apply Or.inl; apply Exists.intro; intro s; rw [exec_excNext, execExcNext]

theorem acts_excPublish :  Acts (.excPublish) := by
  apply Or.inl; apply Exists.intro; intro s; rw [exec_excPublish, execExcPublish]

theorem acts_excVoid :  Acts (.excVoid) := by
  apply Or.inl; apply Exists.intro; intro s; rw [exec_excVoid, execExcVoid]

theorem acts_excRelease :  Acts (.excRelease) := by
  apply Or.inl; apply Exists.intro; intro s; rw [exec_excRelease, execExcRelease]

theorem acts_excRunEnd :  Acts (.excRunEnd) := by
  apply Or.inl; apply Exists.intro; intro s; rw [exec_excRunEnd, execExcRunEnd]

theorem acts_catSearchPort : ∀ a0 a1, Acts (.catSearchPort a0 a1) := by
  intro a0 a1; apply Or.inl; apply Exists.intro; intro s; rw [exec_catSearchPort, execCatSearchPort]

theorem acts_catBatchClose : ∀ a0 a1, Acts (.catBatchClose a0 a1) := by
  intro a0 a1; apply Or.inl; apply Exists.intro; intro s; rw [exec_catBatchClose, execCatBatchClose]

theorem acts_catPassSlot :  Acts (.catPassSlot) := by
  apply Or.inl; apply Exists.intro; intro s; rw [exec_catPassSlot, execCatPassSlot]

theorem acts_catalogueBatch : ∀ a0, Acts (.catalogueBatch a0) := by
  intro a0; apply Or.inl; apply Exists.intro; intro s; rw [exec_catalogueBatch, execCatalogueBatch]

theorem acts_searchFirst : ∀ a0, Acts (.searchFirst a0) := by
  intro a0; apply Or.inl; apply Exists.intro; intro s; rw [exec_searchFirst, execSearchFirst, catOp]

theorem acts_searchAll : ∀ a0, Acts (.searchAll a0) := by
  intro a0; apply Or.inl; apply Exists.intro; intro s; rw [exec_searchAll, execSearchAll, catOp]

theorem acts_append : ∀ a0, Acts (.append a0) := by
  intro a0; apply Or.inl; apply Exists.intro; intro s; rw [exec_append, execAppend, catOp]

theorem acts_insert : ∀ a0, Acts (.insert a0) := by
  intro a0; apply Or.inl; apply Exists.intro; intro s; rw [exec_insert, execInsert, catOp]

theorem acts_catWrite : ∀ a0, Acts (.catWrite a0) := by
  intro a0; apply Or.inl; apply Exists.intro; intro s; rw [exec_catWrite, execCatWrite, catOp]

theorem acts_delete : ∀ a0, Acts (.delete a0) := by
  intro a0; apply Or.inl; apply Exists.intro; intro s; rw [exec_delete, execDelete, catOp]

theorem acts_catRead : ∀ a0, Acts (.catRead a0) := by
  intro a0; apply Or.inl; apply Exists.intro; intro s; rw [exec_catRead, execCatRead, catOp]

theorem acts_clear : ∀ a0, Acts (.clear a0) := by
  intro a0; apply Or.inl; apply Exists.intro; intro s; rw [exec_clear, execClear, catOp]

theorem acts_catGroupEnable : ∀ a0 a1 a2, Acts (.catGroupEnable a0 a1 a2) := by
  intro a0 a1 a2; apply Or.inl; apply Exists.intro; intro s; rw [exec_catGroupEnable, execCatGroupEnable]

theorem acts_catGroupDisable : ∀ a0 a1 a2, Acts (.catGroupDisable a0 a1 a2) := by
  intro a0 a1 a2; apply Or.inl; apply Exists.intro; intro s; rw [exec_catGroupDisable, execCatGroupDisable]

theorem acts_catDisableEffect : ∀ a0, Acts (.catDisableEffect a0) := by
  intro a0; apply Or.inl; apply Exists.intro; intro s; rw [exec_catDisableEffect, execCatDisableEffect]

theorem acts_catRefillDone : ∀ a0, Acts (.catRefillDone a0) := by
  intro a0; apply Or.inl; apply Exists.intro; intro s; rw [exec_catRefillDone, execCatRefillDone]

theorem acts_folSubmit : ∀ a0 a1, Acts (.folSubmit a0 a1) := by
  intro a0 a1; apply Or.inl; apply Exists.intro; intro s; rw [exec_folSubmit, execFolSubmit]

theorem acts_folAppend : ∀ a0 a1, Acts (.folAppend a0 a1) := by
  intro a0 a1; apply Or.inl; apply Exists.intro; intro s; rw [exec_folAppend, execFolAppend]

theorem acts_folAbort : ∀ a0 a1, Acts (.folAbort a0 a1) := by
  intro a0 a1; apply Or.inl; apply Exists.intro; intro s; rw [exec_folAbort, execFolAbort]

theorem acts_folDescriptorStart : ∀ a0, Acts (.folDescriptorStart a0) := by
  intro a0; apply Or.inl; apply Exists.intro; intro s; rw [exec_folDescriptorStart, execFolDescriptorStart]

theorem acts_folStrip : ∀ a0, Acts (.folStrip a0) := by
  intro a0; apply Or.inl; apply Exists.intro; intro s; rw [exec_folStrip, execFolStrip]

theorem acts_folTaskNotice :  Acts (.folTaskNotice) := by
  apply Or.inl; apply Exists.intro; intro s; rw [exec_folTaskNotice, execFolTaskNotice]

theorem acts_folWriteError : ∀ a0 a1 a2, Acts (.folWriteError a0 a1 a2) := by
  intro a0 a1 a2; apply Or.inl; apply Exists.intro; intro s; rw [exec_folWriteError, execFolWriteError]

theorem acts_folRoleWrite : ∀ a0 a1 a2, Acts (.folRoleWrite a0 a1 a2) := by
  intro a0 a1 a2; apply Or.inl; apply Exists.intro; intro s; rw [exec_folRoleWrite, execFolRoleWrite]

theorem acts_dmaSubmit : ∀ a0 a1, Acts (.dmaSubmit a0 a1) := by
  intro a0 a1; apply Or.inl; apply Exists.intro; intro s; rw [exec_dmaSubmit, execDmaSubmit]

theorem acts_dmaAppend : ∀ a0 a1, Acts (.dmaAppend a0 a1) := by
  intro a0 a1; apply Or.inl; apply Exists.intro; intro s; rw [exec_dmaAppend, execDmaAppend]

theorem acts_dmaAbort : ∀ a0 a1, Acts (.dmaAbort a0 a1) := by
  intro a0 a1; apply Or.inl; apply Exists.intro; intro s; rw [exec_dmaAbort, execDmaAbort]

theorem acts_cqCfg : ∀ a0 a1, Acts (.cqCfg a0 a1) := by
  intro a0 a1; apply Or.inl; apply Exists.intro; intro s; rw [exec_cqCfg, execCqCfg]

theorem acts_cqHead : ∀ a0 a1, Acts (.cqHead a0 a1) := by
  intro a0 a1; apply Or.inl; apply Exists.intro; intro s; rw [exec_cqHead, execCqHead]

theorem acts_dmaDescriptorStart : ∀ a0, Acts (.dmaDescriptorStart a0) := by
  intro a0; apply Or.inl; apply Exists.intro; intro s; rw [exec_dmaDescriptorStart, execDmaDescriptorStart]

theorem acts_dmaTransfer : ∀ a0, Acts (.dmaTransfer a0) := by
  intro a0; apply Or.inl; apply Exists.intro; intro s; rw [exec_dmaTransfer, execDmaTransfer]

theorem acts_dmaRecordPost : ∀ a0, Acts (.dmaRecordPost a0) := by
  intro a0; apply Or.inl; apply Exists.intro; intro s; rw [exec_dmaRecordPost, execDmaRecordPost]

theorem acts_dmaHostError : ∀ a0 a1 a2, Acts (.dmaHostError a0 a1 a2) := by
  intro a0 a1 a2; apply Or.inl; apply Exists.intro; intro s; rw [exec_dmaHostError, execDmaHostError]

theorem acts_dmaTaskNotice :  Acts (.dmaTaskNotice) := by
  apply Or.inl; apply Exists.intro; intro s; rw [exec_dmaTaskNotice, execDmaTaskNotice]

theorem acts_dmaWriteError : ∀ a0, Acts (.dmaWriteError a0) := by
  intro a0; apply Or.inl; apply Exists.intro; intro s; rw [exec_dmaWriteError, execDmaWriteError]

theorem acts_evtRaisePort : ∀ a0 a1, Acts (.evtRaisePort a0 a1) := by
  intro a0 a1; apply Or.inl; apply Exists.intro; intro s; rw [exec_evtRaisePort, execEvtRaisePort]

theorem acts_evtClaim : ∀ a0 a1, Acts (.evtClaim a0 a1) := by
  intro a0 a1; apply Or.inl; apply Exists.intro; intro s; rw [exec_evtClaim, execEvtClaim]

theorem acts_evtRaise : ∀ a0 a1, Acts (.evtRaise a0 a1) := by
  intro a0 a1; apply Or.inl; apply Exists.intro; intro s; rw [exec_evtRaise, execEvtRaise]

theorem acts_evtRouteWrite : ∀ a0 a1 a2, Acts (.evtRouteWrite a0 a1 a2) := by
  intro a0 a1 a2; apply Or.inl; apply Exists.intro; intro s; rw [exec_evtRouteWrite, execEvtRouteWrite]

theorem acts_evtPendWithdraw : ∀ a0 a1 a2, Acts (.evtPendWithdraw a0 a1 a2) := by
  intro a0 a1 a2; apply Or.inl; apply Exists.intro; intro s; rw [exec_evtPendWithdraw, execEvtPendWithdraw]

theorem acts_evtCoalWrite : ∀ a0 a1 a2, Acts (.evtCoalWrite a0 a1 a2) := by
  intro a0 a1 a2; apply Or.inl; apply Exists.intro; intro s; rw [exec_evtCoalWrite, execEvtCoalWrite]

theorem acts_evtHoldWrite : ∀ a0 a1, Acts (.evtHoldWrite a0 a1) := by
  intro a0 a1; apply Or.inl; apply Exists.intro; intro s; rw [exec_evtHoldWrite, execEvtHoldWrite]

theorem acts_msixTableWrite : ∀ a0 a1 a2 a3, Acts (.msixTableWrite a0 a1 a2 a3) := by
  intro a0 a1 a2 a3; apply Or.inl; apply Exists.intro; intro s; rw [exec_msixTableWrite, execMsixTableWrite]

theorem acts_eventRaise : ∀ a0 a1, Acts (.eventRaise a0 a1) := by
  intro a0 a1; apply Or.inl; apply Exists.intro; intro s; rw [exec_eventRaise, execEventRaise]

theorem acts_evtArbiterCycle :  Acts (.evtArbiterCycle) := by
  apply Or.inl; apply Exists.intro; intro s; rw [exec_evtArbiterCycle, execEvtArbiterCycle]

theorem acts_evtCoalTimeout : ∀ a0, Acts (.evtCoalTimeout a0) := by
  intro a0; apply Or.inl; apply Exists.intro; intro s; rw [exec_evtCoalTimeout, execEvtCoalTimeout]

theorem acts_evtTaskNotice : ∀ a0, Acts (.evtTaskNotice a0) := by
  intro a0; apply Or.inl; apply Exists.intro; intro s; rw [exec_evtTaskNotice, execEvtTaskNotice]

theorem acts_evtFenceNotice : ∀ a0, Acts (.evtFenceNotice a0) := by
  intro a0; apply Or.inl; apply Exists.intro; intro s; rw [exec_evtFenceNotice, execEvtFenceNotice]

theorem acts_digestOpen : ∀ a0, Acts (.digestOpen a0) := by
  intro a0; apply Or.inl; apply Exists.intro; intro s; rw [exec_digestOpen, execDigestOpen, digestFrom]

theorem acts_digestUpdate : ∀ a0, Acts (.digestUpdate a0) := by
  intro a0; apply Or.inl; apply Exists.intro; intro s; rw [exec_digestUpdate, execDigestUpdate, digestFrom]

theorem acts_digestSave : ∀ a0, Acts (.digestSave a0) := by
  intro a0; apply Or.inl; apply Exists.intro; intro s; rw [exec_digestSave, execDigestSave, digestFrom]

theorem acts_digestRestore : ∀ a0, Acts (.digestRestore a0) := by
  intro a0; apply Or.inl; apply Exists.intro; intro s; rw [exec_digestRestore, execDigestRestore, digestFrom]

theorem acts_digestClose : ∀ a0, Acts (.digestClose a0) := by
  intro a0; apply Or.inl; apply Exists.intro; intro s; rw [exec_digestClose, execDigestClose, digestFrom]

theorem acts_prvLaneBlock : ∀ a0, Acts (.prvLaneBlock a0) := by
  intro a0; apply Or.inl; apply Exists.intro; intro s; rw [exec_prvLaneBlock, execPrvLaneBlock]

theorem acts_prvCompareDone : ∀ a0 a1, Acts (.prvCompareDone a0 a1) := by
  intro a0 a1; apply Or.inl; apply Exists.intro; intro s; rw [exec_prvCompareDone, execPrvCompareDone]

theorem acts_prvOpenResume :  Acts (.prvOpenResume) := by
  apply Or.inl; apply Exists.intro; intro s; rw [exec_prvOpenResume, execPrvOpenResume]

theorem acts_prvTaskNotice :  Acts (.prvTaskNotice) := by
  apply Or.inl; apply Exists.intro; intro s; rw [exec_prvTaskNotice, execPrvTaskNotice]

theorem acts_memRequestIssue : ∀ a0, Acts (.memRequestIssue a0) := by
  intro a0; apply Or.inl; apply Exists.intro; intro s; rw [exec_memRequestIssue, execMemRequestIssue]

theorem acts_memReadReturn : ∀ a0 a1 a2, Acts (.memReadReturn a0 a1 a2) := by
  intro a0 a1 a2; apply Or.inl; apply Exists.intro; intro s; rw [exec_memReadReturn, execMemReadReturn]

theorem acts_memChannelRelease : ∀ a0, Acts (.memChannelRelease a0) := by
  intro a0; apply Or.inl; apply Exists.intro; intro s; rw [exec_memChannelRelease, execMemChannelRelease]

theorem acts_memReleaseTimeout : ∀ a0, Acts (.memReleaseTimeout a0) := by
  intro a0; apply Or.inl; apply Exists.intro; intro s; rw [exec_memReleaseTimeout, execMemReleaseTimeout]

theorem acts_memAgePromote : ∀ a0 a1, Acts (.memAgePromote a0 a1) := by
  intro a0 a1; apply Or.inl; apply Exists.intro; intro s; rw [exec_memAgePromote, execMemAgePromote]

theorem acts_memRefreshDue : ∀ a0, Acts (.memRefreshDue a0) := by
  intro a0; apply Or.inl; apply Exists.intro; intro s; rw [exec_memRefreshDue, execMemRefreshDue]

theorem acts_memTempSample : ∀ a0 a1 a2, Acts (.memTempSample a0 a1 a2) := by
  intro a0 a1 a2; apply Or.inl; apply Exists.intro; intro s; rw [exec_memTempSample, execMemTempSample]

theorem acts_memRhWindow : ∀ a0, Acts (.memRhWindow a0) := by
  intro a0; apply Or.inl; apply Exists.intro; intro s; rw [exec_memRhWindow, execMemRhWindow]

theorem acts_patrolScrub : ∀ a0 a1 a2, Acts (.patrolScrub a0 a1 a2) := by
  intro a0 a1 a2; apply Or.inl; apply Exists.intro; intro s; rw [exec_patrolScrub, execPatrolScrub]

theorem acts_sppr : ∀ a0 a1 a2, Acts (.sppr a0 a1 a2) := by
  intro a0 a1 a2; apply Or.inl; apply Exists.intro; intro s; rw [exec_sppr, execSppr]

theorem acts_memSetMapWrite : ∀ a0 a1 a2, Acts (.memSetMapWrite a0 a1 a2) := by
  intro a0 a1 a2; apply Or.inl; apply Exists.intro; intro s; rw [exec_memSetMapWrite, execMemSetMapWrite]

theorem acts_ssdLinkUp : ∀ a0 a1 a2, Acts (.ssdLinkUp a0 a1 a2) := by
  intro a0 a1 a2; apply Or.inl; apply Exists.intro; intro s; rw [exec_ssdLinkUp, execSsdLinkUp]

theorem acts_ssdIdentifyDone : ∀ a0 a1, Acts (.ssdIdentifyDone a0 a1) := by
  intro a0 a1; apply Or.inl; apply Exists.intro; intro s; rw [exec_ssdIdentifyDone, execSsdIdentifyDone]

theorem acts_ssdRemoval : ∀ a0, Acts (.ssdRemoval a0) := by
  intro a0; apply Or.inl; apply Exists.intro; intro s; rw [exec_ssdRemoval, execSsdRemoval]

theorem acts_nvmeCompletion : ∀ a0 a1 a2, Acts (.nvmeCompletion a0 a1 a2) := by
  intro a0 a1 a2; apply Or.inl; apply Exists.intro; intro s; rw [exec_nvmeCompletion, execNvmeCompletion]

theorem acts_nvmeTimeout : ∀ a0 a1, Acts (.nvmeTimeout a0 a1) := by
  intro a0 a1; apply Or.inl; apply Exists.intro; intro s; rw [exec_nvmeTimeout, execNvmeTimeout]

theorem acts_nvmeAbortTimeout : ∀ a0 a1, Acts (.nvmeAbortTimeout a0 a1) := by
  intro a0 a1; apply Or.inl; apply Exists.intro; intro s; rw [exec_nvmeAbortTimeout, execNvmeAbortTimeout]

theorem acts_ssdReadyTimeout : ∀ a0, Acts (.ssdReadyTimeout a0) := by
  intro a0; apply Or.inl; apply Exists.intro; intro s; rw [exec_ssdReadyTimeout, execSsdReadyTimeout]

theorem acts_assembleTimeout :  Acts (.assembleTimeout) := by
  apply Or.inl; apply Exists.intro; intro s; rw [exec_assembleTimeout, execAssembleTimeout]

theorem acts_rebuildStripe : ∀ a0 a1, Acts (.rebuildStripe a0 a1) := by
  intro a0 a1; apply Or.inl; apply Exists.intro; intro s; rw [exec_rebuildStripe, execRebuildStripe]

theorem acts_roleReqSpare : ∀ a0 a1, Acts (.roleReqSpare a0 a1) := by
  intro a0 a1; apply Or.inl; apply Exists.intro; intro s; rw [exec_roleReqSpare, execRoleReqSpare]

theorem acts_roleReqFree : ∀ a0 a1, Acts (.roleReqFree a0 a1) := by
  intro a0 a1; apply Or.inl; apply Exists.intro; intro s; rw [exec_roleReqFree, execRoleReqFree]

theorem acts_wipeLabel : ∀ a0 a1, Acts (.wipeLabel a0 a1) := by
  intro a0 a1; apply Or.inl; apply Exists.intro; intro s; rw [exec_wipeLabel, execWipeLabel]

theorem acts_volumeCreate : ∀ a0, Acts (.volumeCreate a0) := by
  intro a0; apply Or.inl; apply Exists.intro; intro s; rw [exec_volumeCreate, execVolumeCreate]

theorem acts_volumeDelete : ∀ a0, Acts (.volumeDelete a0) := by
  intro a0; apply Or.inl; apply Exists.intro; intro s; rw [exec_volumeDelete, execVolumeDelete]

theorem acts_formatVolume : ∀ a0, Acts (.formatVolume a0) := by
  intro a0; apply Or.inr; apply Or.inl; apply Exists.intro; intro s; rw [exec_formatVolume, execFormatVolume]

theorem acts_sanitise : ∀ a0, Acts (.sanitise a0) := by
  intro a0; apply Or.inr; apply Or.inl; apply Exists.intro; intro s; rw [exec_sanitise, execSanitise]

theorem acts_maintenanceStep : ∀ a0 a1, Acts (.maintenanceStep a0 a1) := by
  intro a0 a1; apply Or.inl; apply Exists.intro; intro s; rw [exec_maintenanceStep, execMaintenanceStep]

theorem acts_instanceCreate : ∀ a0, Acts (.instanceCreate a0) := by
  intro a0; apply Or.inl; apply Exists.intro; intro s; rw [exec_instanceCreate, execInstanceCreate]

theorem acts_instanceShare : ∀ a0, Acts (.instanceShare a0) := by
  intro a0; apply Or.inl; apply Exists.intro; intro s; rw [exec_instanceShare, execInstanceShare]

theorem acts_instanceFreeze : ∀ a0, Acts (.instanceFreeze a0) := by
  intro a0; apply Or.inl; apply Exists.intro; intro s; rw [exec_instanceFreeze, execInstanceFreeze]

theorem acts_freezeDrainDone : ∀ a0, Acts (.freezeDrainDone a0) := by
  intro a0; apply Or.inl; apply Exists.intro; intro s; rw [exec_freezeDrainDone, execFreezeDrainDone]

theorem acts_freezeTimeout : ∀ a0, Acts (.freezeTimeout a0) := by
  intro a0; apply Or.inl; apply Exists.intro; intro s; rw [exec_freezeTimeout, execFreezeTimeout]

theorem acts_instanceExport : ∀ a0, Acts (.instanceExport a0) := by
  intro a0; apply Or.inl; apply Exists.intro; intro s; rw [exec_instanceExport, execInstanceExport]

theorem acts_instanceImport : ∀ a0, Acts (.instanceImport a0) := by
  intro a0; apply Or.inl; apply Exists.intro; intro s; rw [exec_instanceImport, execInstanceImport]

theorem acts_instanceDestroy : ∀ a0, Acts (.instanceDestroy a0) := by
  intro a0; apply Or.inl; apply Exists.intro; intro s; rw [exec_instanceDestroy, execInstanceDestroy]

theorem acts_map : ∀ a0 a1, Acts (.map a0 a1) := by
  intro a0 a1; apply Or.inl; apply Exists.intro; intro s; rw [exec_map, execMap]

theorem acts_unmap : ∀ a0 a1, Acts (.unmap a0 a1) := by
  intro a0 a1; apply Or.inl; apply Exists.intro; intro s; rw [exec_unmap, execUnmap]

theorem acts_setPasid : ∀ a0 a1, Acts (.setPasid a0 a1) := by
  intro a0 a1; apply Or.inl; apply Exists.intro; intro s; rw [exec_setPasid, execSetPasid]

theorem acts_tlbInvalAck : ∀ a0, Acts (.tlbInvalAck a0) := by
  intro a0; apply Or.inl; apply Exists.intro; intro s; rw [exec_tlbInvalAck, execTlbInvalAck]

theorem acts_faultReport : ∀ a0, Acts (.faultReport a0) := by
  intro a0; apply Or.inr; apply Or.inl; apply Exists.intro; intro s; rw [exec_faultReport, execFaultReport]

theorem acts_reserveSwap : ∀ a0, Acts (.reserveSwap a0) := by
  intro a0; apply Or.inl; apply Exists.intro; intro s; rw [exec_reserveSwap, execReserveSwap]

theorem acts_checkerInject : ∀ a0, Acts (.checkerInject a0) := by
  intro a0; apply Or.inl; apply Exists.intro; intro s; rw [exec_checkerInject, execCheckerInject]

theorem acts_injectTimeout : ∀ a0, Acts (.injectTimeout a0) := by
  intro a0; apply Or.inr; apply Or.inl; apply Exists.intro; intro s; rw [exec_injectTimeout, execInjectTimeout]

theorem acts_testClaim : ∀ a0, Acts (.testClaim a0) := by
  intro a0; apply Or.inl; apply Exists.intro; intro s; rw [exec_testClaim, execTestClaim]

theorem acts_testLate : ∀ a0, Acts (.testLate a0) := by
  intro a0; apply Or.inl; apply Exists.intro; intro s; rw [exec_testLate, execTestLate]

theorem acts_structuralTestDone : ∀ a0 a1 a2, Acts (.structuralTestDone a0 a1 a2) := by
  intro a0 a1 a2; apply Or.inl; apply Exists.intro; intro s; rw [exec_structuralTestDone, execStructuralTestDone]

theorem acts_unitRetest : ∀ a0 a1, Acts (.unitRetest a0 a1) := by
  intro a0 a1; apply Or.inl; apply Exists.intro; intro s; rw [exec_unitRetest, execUnitRetest]

theorem acts_registrarHeartbeat :  Acts (.registrarHeartbeat) := by
  apply Or.inl; apply Exists.intro; intro s; rw [exec_registrarHeartbeat, execRegistrarHeartbeat]

theorem acts_heartbeatTimeout :  Acts (.heartbeatTimeout) := by
  apply Or.inl; apply Exists.intro; intro s; rw [exec_heartbeatTimeout, execHeartbeatTimeout]

theorem acts_watchdogKick :  Acts (.watchdogKick) := by
  apply Or.inl; apply Exists.intro; intro s; rw [exec_watchdogKick, execWatchdogKick]

theorem acts_watchdogTimeout :  Acts (.watchdogTimeout) := by
  apply Or.inr; apply Or.inl; apply Exists.intro; intro s; rw [exec_watchdogTimeout, execWatchdogTimeout]

theorem acts_laneFail : ∀ a0 a1, Acts (.laneFail a0 a1) := by
  intro a0 a1; apply Or.inl; apply Exists.intro; intro s; rw [exec_laneFail, execLaneFail]

theorem acts_flitParityError : ∀ a0 a1, Acts (.flitParityError a0 a1) := by
  intro a0 a1; apply Or.inl; apply Exists.intro; intro s; rw [exec_flitParityError, execFlitParityError]

theorem acts_returnPrepare : ∀ a0 a1, Acts (.returnPrepare a0 a1) := by
  intro a0 a1; apply Or.inl; apply Exists.intro; intro s; rw [exec_returnPrepare, execReturnPrepare]

theorem acts_canaryLoop : ∀ a0, Acts (.canaryLoop a0) := by
  intro a0; apply Or.inr; apply Or.inl; apply Exists.intro; intro s; rw [exec_canaryLoop, execCanaryLoop]

theorem acts_railSample : ∀ a0 a1 a2, Acts (.railSample a0 a1 a2) := by
  intro a0 a1 a2; apply Or.inl; apply Exists.intro; intro s; rw [exec_railSample, execRailSample]

theorem acts_powerEvaluation : ∀ a0, Acts (.powerEvaluation a0) := by
  intro a0; apply Or.inl; apply Exists.intro; intro s; rw [exec_powerEvaluation, execPowerEvaluation]

theorem acts_pwrCapWrite : ∀ a0 a1, Acts (.pwrCapWrite a0 a1) := by
  intro a0 a1; apply Or.inl; apply Exists.intro; intro s; rw [exec_pwrCapWrite, execPwrCapWrite]

theorem acts_fwPiece : ∀ a0, Acts (.fwPiece a0) := by
  intro a0; apply Or.inl; apply Exists.intro; intro s; rw [exec_fwPiece, execFwPiece]

theorem acts_fwCommit : ∀ a0, Acts (.fwCommit a0) := by
  intro a0; apply Or.inl; apply Exists.intro; intro s; rw [exec_fwCommit, execFwCommit]

theorem acts_fwActivate : ∀ a0, Acts (.fwActivate a0) := by
  intro a0; apply Or.inr; apply Or.inl; apply Exists.intro; intro s; rw [exec_fwActivate, execFwActivate]

theorem acts_fwConfirm : ∀ a0, Acts (.fwConfirm a0) := by
  intro a0; apply Or.inl; apply Exists.intro; intro s; rw [exec_fwConfirm, execFwConfirm]

theorem acts_settingsSave : ∀ a0, Acts (.settingsSave a0) := by
  intro a0; apply Or.inl; apply Exists.intro; intro s; rw [exec_settingsSave, execSettingsSave]

theorem acts_settingsClear : ∀ a0, Acts (.settingsClear a0) := by
  intro a0; apply Or.inl; apply Exists.intro; intro s; rw [exec_settingsClear, execSettingsClear]

theorem acts_recoveryGo : ∀ a0 a1 a2, Acts (.recoveryGo a0 a1 a2) := by
  intro a0 a1 a2; apply Or.inr; apply Or.inl; apply Exists.intro; intro s; rw [exec_recoveryGo, execRecoveryGo]

theorem acts_recoveryFinish : ∀ a0 a1, Acts (.recoveryFinish a0 a1) := by
  intro a0 a1; apply Or.inr; apply Or.inl; apply Exists.intro; intro s; rw [exec_recoveryFinish, execRecoveryFinish]

theorem acts_uartData : ∀ a0, Acts (.uartData a0) := by
  intro a0; apply Or.inr; apply Or.inl; apply Exists.intro; intro s; rw [exec_uartData, execUartData]

theorem acts_uartFinish : ∀ a0, Acts (.uartFinish a0) := by
  intro a0; apply Or.inr; apply Or.inl; apply Exists.intro; intro s; rw [exec_uartFinish, execUartFinish]

theorem acts_uartSpeed : ∀ a0, Acts (.uartSpeed a0) := by
  intro a0; apply Or.inr; apply Or.inl; apply Exists.intro; intro s; rw [exec_uartSpeed, execUartSpeed]

theorem acts_i3cDynamicAddress : ∀ a0, Acts (.i3cDynamicAddress a0) := by
  intro a0; apply Or.inl; apply Exists.intro; intro s; rw [exec_i3cDynamicAddress, execI3cDynamicAddress]

theorem acts_setEndpointId : ∀ a0 a1 a2, Acts (.setEndpointId a0 a1 a2) := by
  intro a0 a1 a2; apply Or.inr; apply Or.inl; apply Exists.intro; intro s; rw [exec_setEndpointId, execSetEndpointId, State.onBus]

theorem acts_getEndpointId : ∀ a0, Acts (.getEndpointId a0) := by
  intro a0; apply Or.inr; apply Or.inl; apply Exists.intro; intro s; rw [exec_getEndpointId, execGetEndpointId, State.onBusRead, State.onBus]

theorem acts_getMctpVersionSupport : ∀ a0, Acts (.getMctpVersionSupport a0) := by
  intro a0; apply Or.inr; apply Or.inl; apply Exists.intro; intro s; rw [exec_getMctpVersionSupport, execGetMctpVersionSupport, State.onBusRead, State.onBus]

theorem acts_getMessageTypeSupport : ∀ a0, Acts (.getMessageTypeSupport a0) := by
  intro a0; apply Or.inr; apply Or.inl; apply Exists.intro; intro s; rw [exec_getMessageTypeSupport, execGetMessageTypeSupport, State.onBusRead, State.onBus]

theorem acts_getEndpointUuid : ∀ a0, Acts (.getEndpointUuid a0) := by
  intro a0; apply Or.inr; apply Or.inl; apply Exists.intro; intro s; rw [exec_getEndpointUuid, execGetEndpointUuid, State.onBusRead, State.onBus]

theorem acts_gettid : ∀ a0, Acts (.gettid a0) := by
  intro a0; apply Or.inr; apply Or.inl; apply Exists.intro; intro s; rw [exec_gettid, execGettid, State.onBusRead, State.onBus]

theorem acts_settid : ∀ a0 a1, Acts (.settid a0 a1) := by
  intro a0 a1; apply Or.inr; apply Or.inl; apply Exists.intro; intro s; rw [exec_settid, execSettid, State.onBus]

theorem acts_getpldmversion : ∀ a0 a1, Acts (.getpldmversion a0 a1) := by
  intro a0 a1; apply Or.inr; apply Or.inl; apply Exists.intro; intro s; rw [exec_getpldmversion, execGetpldmversion, State.onBusRead, State.onBus]

theorem acts_getpldmtypes : ∀ a0, Acts (.getpldmtypes a0) := by
  intro a0; apply Or.inr; apply Or.inl; apply Exists.intro; intro s; rw [exec_getpldmtypes, execGetpldmtypes, State.onBusRead, State.onBus]

theorem acts_getpldmcommands : ∀ a0 a1, Acts (.getpldmcommands a0 a1) := by
  intro a0 a1; apply Or.inr; apply Or.inl; apply Exists.intro; intro s; rw [exec_getpldmcommands, execGetpldmcommands, State.onBusRead, State.onBus]

theorem acts_getpdr : ∀ a0 a1, Acts (.getpdr a0 a1) := by
  intro a0 a1; apply Or.inr; apply Or.inl; apply Exists.intro; intro s; rw [exec_getpdr, execGetpdr, State.onBusRead, State.onBus]

theorem acts_getsensorreading : ∀ a0 a1, Acts (.getsensorreading a0 a1) := by
  intro a0 a1; apply Or.inr; apply Or.inl; apply Exists.intro; intro s; rw [exec_getsensorreading, execGetsensorreading, State.onBusRead, State.onBus]

theorem acts_getstatesensorreadings : ∀ a0 a1, Acts (.getstatesensorreadings a0 a1) := by
  intro a0 a1; apply Or.inr; apply Or.inl; apply Exists.intro; intro s; rw [exec_getstatesensorreadings, execGetstatesensorreadings, State.onBusRead, State.onBus]

theorem acts_setnumericeffectervalue : ∀ a0 a1 a2, Acts (.setnumericeffectervalue a0 a1 a2) := by
  intro a0 a1 a2; apply Or.inr; apply Or.inl; apply Exists.intro; intro s; rw [exec_setnumericeffectervalue, execSetnumericeffectervalue, State.onBus]

theorem acts_setstateeffecterstates : ∀ a0 a1, Acts (.setstateeffecterstates a0 a1) := by
  intro a0 a1; apply Or.inr; apply Or.inl; apply Exists.intro; intro s; rw [exec_setstateeffecterstates, execSetstateeffecterstates, State.onBus]

theorem acts_querydeviceidentifiers : ∀ a0, Acts (.querydeviceidentifiers a0) := by
  intro a0; apply Or.inr; apply Or.inl; apply Exists.intro; intro s; rw [exec_querydeviceidentifiers, execQuerydeviceidentifiers, State.onBusRead, State.onBus]

theorem acts_getfirmwareparameters : ∀ a0, Acts (.getfirmwareparameters a0) := by
  intro a0; apply Or.inr; apply Or.inl; apply Exists.intro; intro s; rw [exec_getfirmwareparameters, execGetfirmwareparameters, State.onBusRead, State.onBus]

theorem acts_requestupdate : ∀ a0 a1 a2, Acts (.requestupdate a0 a1 a2) := by
  intro a0 a1 a2; apply Or.inr; apply Or.inl; apply Exists.intro; intro s; rw [exec_requestupdate, execRequestupdate, State.onBus]

theorem acts_passcomponenttable : ∀ a0, Acts (.passcomponenttable a0) := by
  intro a0; apply Or.inr; apply Or.inl; apply Exists.intro; intro s; rw [exec_passcomponenttable, execPasscomponenttable, State.onBus]

theorem acts_updatecomponent : ∀ a0, Acts (.updatecomponent a0) := by
  intro a0; apply Or.inr; apply Or.inl; apply Exists.intro; intro s; rw [exec_updatecomponent, execUpdatecomponent, State.onBus]

theorem acts_requestfirmwaredata : ∀ a0 a1, Acts (.requestfirmwaredata a0 a1) := by
  intro a0 a1; apply Or.inr; apply Or.inl; apply Exists.intro; intro s; rw [exec_requestfirmwaredata, execRequestfirmwaredata, State.onBus]

theorem acts_transfercomplete : ∀ a0, Acts (.transfercomplete a0) := by
  intro a0; apply Or.inr; apply Or.inl; apply Exists.intro; intro s; rw [exec_transfercomplete, execTransfercomplete, State.onBus]

theorem acts_verifycomplete : ∀ a0, Acts (.verifycomplete a0) := by
  intro a0; apply Or.inr; apply Or.inl; apply Exists.intro; intro s; rw [exec_verifycomplete, execVerifycomplete, State.onBus]

theorem acts_applycomplete : ∀ a0, Acts (.applycomplete a0) := by
  intro a0; apply Or.inr; apply Or.inl; apply Exists.intro; intro s; rw [exec_applycomplete, execApplycomplete, State.onBus]

theorem acts_activatefirmware : ∀ a0 a1, Acts (.activatefirmware a0 a1) := by
  intro a0 a1; apply Or.inr; apply Or.inl; apply Exists.intro; intro s; rw [exec_activatefirmware, execActivatefirmware, State.onBus]

theorem acts_getstatus : ∀ a0, Acts (.getstatus a0) := by
  intro a0; apply Or.inr; apply Or.inl; apply Exists.intro; intro s; rw [exec_getstatus, execGetstatus, State.onBusRead, State.onBus]

theorem acts_cancelupdatecomponent : ∀ a0, Acts (.cancelupdatecomponent a0) := by
  intro a0; apply Or.inr; apply Or.inl; apply Exists.intro; intro s; rw [exec_cancelupdatecomponent, execCancelupdatecomponent, State.onBus]

theorem acts_cancelupdate : ∀ a0, Acts (.cancelupdate a0) := by
  intro a0; apply Or.inr; apply Or.inl; apply Exists.intro; intro s; rw [exec_cancelupdate, execCancelupdate, State.onBus]

theorem acts_spdmRequest : ∀ a0 a1, Acts (.spdmRequest a0 a1) := by
  intro a0 a1; apply Or.inl; apply Exists.intro; intro s; rw [exec_spdmRequest, execSpdmRequest]

theorem acts_managerClaim : ∀ a0 a1, Acts (.managerClaim a0 a1) := by
  intro a0 a1; apply Or.inl; apply Exists.intro; intro s; rw [exec_managerClaim, execManagerClaim]

theorem acts_migkeyInstall : ∀ a0 a1 a2, Acts (.migkeyInstall a0 a1 a2) := by
  intro a0 a1 a2; apply Or.inl; apply Exists.intro; intro s; rw [exec_migkeyInstall, execMigkeyInstall]

theorem acts_counterWrite : ∀ a0 a1 a2, Acts (.counterWrite a0 a1 a2) := by
  intro a0 a1 a2; apply Or.inr; apply Or.inl; apply Exists.intro; intro s; rw [exec_counterWrite, execCounterWrite]

theorem acts_registerWrite : ∀ a0 a1 a2 a3, Acts (.registerWrite a0 a1 a2 a3) := by
  intro a0 a1 a2 a3; apply Or.inr; apply Or.inl; apply Exists.intro; intro s; rw [exec_registerWrite, execRegisterWrite]

theorem acts_perstNDeassert : ∀ a0, Acts (.perstNDeassert a0) := by
  intro a0; apply Or.inr; apply Or.inr; apply Or.inl; apply Exists.intro; refine ⟨rfl, ?_⟩; intro s; rw [exec_perstNDeassert, execPerstNDeassert]

theorem acts_registrarRestartDone :  Acts (.registrarRestartDone) := by
  apply Or.inl; apply Exists.intro; intro s; rw [exec_registrarRestartDone, execRegistrarRestartDone]

theorem acts_linkRetrainDone : ∀ a0, Acts (.linkRetrainDone a0) := by
  intro a0; apply Or.inl; apply Exists.intro; intro s; rw [exec_linkRetrainDone, execLinkRetrainDone]

theorem acts_uartSpeedChange :  Acts (.uartSpeedChange) := by
  apply Or.inl; apply Exists.intro; intro s; rw [exec_uartSpeedChange, execUartSpeedChange]

theorem acts_safAgeUpdate : ∀ a0, Acts (.safAgeUpdate a0) := by
  intro a0; apply Or.inl; apply Exists.intro; intro s; rw [exec_safAgeUpdate, execSafAgeUpdate]

theorem acts_unassignedInstruction : ∀ a0, Acts (.unassignedInstruction a0) := by
  intro a0; apply Or.inl; apply Exists.intro; intro s; rw [exec_unassignedInstruction, execUnassignedInstruction]

theorem acts (c : Instr) : Acts c := by
  cases c
  · exact acts_pwrgoodRise _
  · exact acts_pwrgoodFall
  · exact acts_pfailNFall
  · exact acts_dumpComplete _ _
  · exact acts_pfailNRise
  · exact acts_dumpInvalidate
  · exact acts_dumpReplay
  · exact acts_dumpActionReplay _
  · exact acts_dumpActionDiscard _
  · exact acts_romPassDone _
  · exact acts_configureRecordsDone _
  · exact acts_configureComplete _
  · exact acts_devResetCold _ _
  · exact acts_devResetWarm _ _
  · exact acts_devResetRegistrar _ _
  · exact acts_quiesce _
  · exact acts_resume _
  · exact acts_enterRecovery _
  · exact acts_drainComplete
  · exact acts_drainTimeout
  · exact acts_holdTimeout
  · exact acts_maintenanceComplete
  · exact acts_hostPortReset _ _
  · exact acts_hostLinkUp _ _ _ _
  · exact acts_functionReset _ _
  · exact acts_pcieConfigRequest _ _ _
  · exact acts_atsInvalidation _ _
  · exact acts_thermalTrip _
  · exact acts_sysrefLost
  · exact acts_sqDoorbell _ _ _
  · exact acts_cqDoorbell _ _ _
  · exact acts_xqEnable _
  · exact acts_xqReady _
  · exact acts_controllerReset _
  · exact acts_fetchTurn _
  · exact acts_entryFetched _
  · exact acts_adminBusyTimeout _ _
  · exact acts_read _
  · exact acts_write _
  · exact acts_flush _
  · exact acts_deallocate _
  · exact acts_ouAdmit _
  · exact acts_writeInsert _
  · exact acts_readDataTaken _ _
  · exact acts_drainStep _
  · exact acts_createQueue _
  · exact acts_deleteQueue _
  · exact acts_identify _
  · exact acts_logRead _
  · exact acts_counterRead _
  · exact acts_traceConfig _
  · exact acts_pipelineLoad _
  · exact acts_pipelineRun _
  · exact acts_pipelineCancel _
  · exact acts_resultRead _
  · exact acts_docentDecision
  · exact acts_docTcancel _ _
  · exact acts_taskdone _ _ _
  · exact acts_cancelTimeout _
  · exact acts_shareEpoch
  · exact acts_ledgerVerdict _ _
  · exact acts_taskCancel _
  · exact acts_takeEvent _
  · exact acts_dispatchMessage _
  · exact acts_galleryWakeDone _
  · exact acts_galleryPark _
  · exact acts_postedWriteError _ _ _
  · exact acts_integerAlu _ _ _ _ _ _
  · exact acts_multiplyDivide _ _ _ _ _ _
  · exact acts_bitManipulation _ _ _ _ _
  · exact acts_integerLoad _ _ _ _ _ _
  · exact acts_integerStore _ _ _ _ _
  · exact acts_ldc _ _ _ _
  · exact acts_stc _ _ _ _
  · exact acts_atomic _ _ _ _ _
  · exact acts_cwindow _ _ _ _
  · exact acts_ckeep _ _ _ _
  · exact acts_ccopy _ _ _
  · exact acts_cstrip _ _ _
  · exact acts_cinst _ _ _ _ _
  · exact acts_cbind _ _ _ _ _
  · exact acts_cunbind _ _ _ _ _
  · exact acts_capInspect _ _ _ _
  · exact acts_branch _ _ _ _ _
  · exact acts_jump _ _ _
  · exact acts_jc _ _ _
  · exact acts_jcl _ _ _ _ _
  · exact acts_ccrr _ _ _ _
  · exact acts_ccrw _ _ _ _
  · exact acts_ccrrc _ _ _ _
  · exact acts_ccrwc _ _ _ _
  · exact acts_eret _
  · exact acts_fence _
  · exact acts_wfe _
  · exact acts_sleep _ _
  · exact acts_trap _ _
  · exact acts_brk _
  · exact acts_setvl _ _ _ _
  · exact acts_vsetsc _ _
  · exact acts_vrdstate _ _ _
  · exact acts_vwake _
  · exact acts_vectorAlu _ _ _ _ _ _ _ _
  · exact acts_vectorWidenMultiply _ _ _ _ _ _ _
  · exact acts_vdot4b _ _ _ _ _ _ _
  · exact acts_vdot2h _ _ _ _ _ _ _
  · exact acts_vdot2w _ _ _ _ _ _ _
  · exact acts_vectorCompare _ _ _ _ _ _
  · exact acts_vectorReduction _ _ _ _ _ _ _
  · exact acts_vcpop _ _ _
  · exact acts_vcompress _ _ _ _
  · exact acts_vexpand _ _ _ _
  · exact acts_vectorPermute _ _ _ _ _ _
  · exact acts_vcx _ _ _ _ _ _ _
  · exact acts_vhcrc _ _ _ _ _
  · exact acts_vhmul _ _ _ _
  · exact acts_vectorMove _ _ _ _ _
  · exact acts_vdadd _ _ _ _ _
  · exact acts_vdsub _ _ _ _ _
  · exact acts_vdmul _ _ _ _ _
  · exact acts_vddiv _ _ _ _ _
  · exact acts_vdrescale _ _ _ _
  · exact acts_vdmin _ _ _ _ _
  · exact acts_vdmax _ _ _ _ _
  · exact acts_vdcmp _ _ _ _ _ _
  · exact acts_vdfromi _ _ _ _
  · exact acts_vlacc _ _ _ _
  · exact acts_vlacci _ _ _ _
  · exact acts_vladd _ _ _ _ _
  · exact acts_vlnarrow _ _ _ _
  · exact acts_vlred _ _ _ _
  · exact acts_vld _ _ _ _ _ _
  · exact acts_vst _ _ _ _ _ _
  · exact acts_vgath _ _ _ _ _ _ _
  · exact acts_vscat _ _ _ _ _ _ _
  · exact acts_svAlu _ _ _ _ _ _ _ _
  · exact acts_svMultiply _ _ _ _ _ _ _ _ _
  · exact acts_svCompare _ _ _ _ _ _
  · exact acts_svHash _ _ _ _ _
  · exact acts_svLoadStore _ _ _ _ _
  · exact acts_lvuPowerOff _
  · exact acts_lvuWakeDone _
  · exact acts_sflSubmit _ _ _
  · exact acts_sflGet _ _ _
  · exact acts_sflAbort _ _ _
  · exact acts_sflDescriptorStart _
  · exact acts_sflRowgroupEval _
  · exact acts_sflWriteError _ _ _
  · exact acts_excSend _ _
  · exact acts_excSendResume _ _
  · exact acts_excAllocTimeout _
  · exact acts_excNext _ _
  · exact acts_excPublish
  · exact acts_excVoid
  · exact acts_excRelease
  · exact acts_excRunEnd
  · exact acts_catSearchPort _ _
  · exact acts_catBatchClose _ _
  · exact acts_catPassSlot
  · exact acts_catalogueBatch _
  · exact acts_searchFirst _
  · exact acts_searchAll _
  · exact acts_append _
  · exact acts_insert _
  · exact acts_catWrite _
  · exact acts_delete _
  · exact acts_catRead _
  · exact acts_clear _
  · exact acts_catGroupEnable _ _ _
  · exact acts_catGroupDisable _ _ _
  · exact acts_catDisableEffect _
  · exact acts_catRefillDone _
  · exact acts_folSubmit _ _
  · exact acts_folAppend _ _
  · exact acts_folAbort _ _
  · exact acts_folDescriptorStart _
  · exact acts_folStrip _
  · exact acts_folTaskNotice
  · exact acts_folWriteError _ _ _
  · exact acts_folRoleWrite _ _ _
  · exact acts_dmaSubmit _ _
  · exact acts_dmaAppend _ _
  · exact acts_dmaAbort _ _
  · exact acts_cqCfg _ _
  · exact acts_cqHead _ _
  · exact acts_dmaDescriptorStart _
  · exact acts_dmaTransfer _
  · exact acts_dmaRecordPost _
  · exact acts_dmaHostError _ _ _
  · exact acts_dmaTaskNotice
  · exact acts_dmaWriteError _
  · exact acts_evtRaisePort _ _
  · exact acts_evtClaim _ _
  · exact acts_evtRaise _ _
  · exact acts_evtRouteWrite _ _ _
  · exact acts_evtPendWithdraw _ _ _
  · exact acts_evtCoalWrite _ _ _
  · exact acts_evtHoldWrite _ _
  · exact acts_msixTableWrite _ _ _ _
  · exact acts_eventRaise _ _
  · exact acts_evtArbiterCycle
  · exact acts_evtCoalTimeout _
  · exact acts_evtTaskNotice _
  · exact acts_evtFenceNotice _
  · exact acts_digestOpen _
  · exact acts_digestUpdate _
  · exact acts_digestSave _
  · exact acts_digestRestore _
  · exact acts_digestClose _
  · exact acts_prvLaneBlock _
  · exact acts_prvCompareDone _ _
  · exact acts_prvOpenResume
  · exact acts_prvTaskNotice
  · exact acts_memRequestIssue _
  · exact acts_memReadReturn _ _ _
  · exact acts_memChannelRelease _
  · exact acts_memReleaseTimeout _
  · exact acts_memAgePromote _ _
  · exact acts_memRefreshDue _
  · exact acts_memTempSample _ _ _
  · exact acts_memRhWindow _
  · exact acts_patrolScrub _ _ _
  · exact acts_sppr _ _ _
  · exact acts_memSetMapWrite _ _ _
  · exact acts_ssdLinkUp _ _ _
  · exact acts_ssdIdentifyDone _ _
  · exact acts_ssdRemoval _
  · exact acts_nvmeCompletion _ _ _
  · exact acts_nvmeTimeout _ _
  · exact acts_nvmeAbortTimeout _ _
  · exact acts_ssdReadyTimeout _
  · exact acts_assembleTimeout
  · exact acts_rebuildStripe _ _
  · exact acts_roleReqSpare _ _
  · exact acts_roleReqFree _ _
  · exact acts_wipeLabel _ _
  · exact acts_volumeCreate _
  · exact acts_volumeDelete _
  · exact acts_formatVolume _
  · exact acts_sanitise _
  · exact acts_maintenanceStep _ _
  · exact acts_instanceCreate _
  · exact acts_instanceShare _
  · exact acts_instanceFreeze _
  · exact acts_freezeDrainDone _
  · exact acts_freezeTimeout _
  · exact acts_instanceExport _
  · exact acts_instanceImport _
  · exact acts_instanceDestroy _
  · exact acts_map _ _
  · exact acts_unmap _ _
  · exact acts_setPasid _ _
  · exact acts_tlbInvalAck _
  · exact acts_faultReport _
  · exact acts_reserveSwap _
  · exact acts_checkerInject _
  · exact acts_injectTimeout _
  · exact acts_testClaim _
  · exact acts_testLate _
  · exact acts_structuralTestDone _ _ _
  · exact acts_unitRetest _ _
  · exact acts_registrarHeartbeat
  · exact acts_heartbeatTimeout
  · exact acts_watchdogKick
  · exact acts_watchdogTimeout
  · exact acts_laneFail _ _
  · exact acts_flitParityError _ _
  · exact acts_returnPrepare _ _
  · exact acts_canaryLoop _
  · exact acts_railSample _ _ _
  · exact acts_powerEvaluation _
  · exact acts_pwrCapWrite _ _
  · exact acts_fwPiece _
  · exact acts_fwCommit _
  · exact acts_fwActivate _
  · exact acts_fwConfirm _
  · exact acts_settingsSave _
  · exact acts_settingsClear _
  · exact acts_recoveryGo _ _ _
  · exact acts_recoveryFinish _ _
  · exact acts_uartData _
  · exact acts_uartFinish _
  · exact acts_uartSpeed _
  · exact acts_i3cDynamicAddress _
  · exact acts_setEndpointId _ _ _
  · exact acts_getEndpointId _
  · exact acts_getMctpVersionSupport _
  · exact acts_getMessageTypeSupport _
  · exact acts_getEndpointUuid _
  · exact acts_gettid _
  · exact acts_settid _ _
  · exact acts_getpldmversion _ _
  · exact acts_getpldmtypes _
  · exact acts_getpldmcommands _ _
  · exact acts_getpdr _ _
  · exact acts_getsensorreading _ _
  · exact acts_getstatesensorreadings _ _
  · exact acts_setnumericeffectervalue _ _ _
  · exact acts_setstateeffecterstates _ _
  · exact acts_querydeviceidentifiers _
  · exact acts_getfirmwareparameters _
  · exact acts_requestupdate _ _ _
  · exact acts_passcomponenttable _
  · exact acts_updatecomponent _
  · exact acts_requestfirmwaredata _ _
  · exact acts_transfercomplete _
  · exact acts_verifycomplete _
  · exact acts_applycomplete _
  · exact acts_activatefirmware _ _
  · exact acts_getstatus _
  · exact acts_cancelupdatecomponent _
  · exact acts_cancelupdate _
  · exact acts_spdmRequest _ _
  · exact acts_managerClaim _ _
  · exact acts_migkeyInstall _ _ _
  · exact acts_counterWrite _ _ _
  · exact acts_registerWrite _ _ _ _
  · exact acts_perstNDeassert _
  · exact acts_registrarRestartDone
  · exact acts_linkRetrainDone _
  · exact acts_uartSpeedChange
  · exact acts_safAgeUpdate _
  · exact acts_unassignedInstruction _

theorem onDev_congr (s t : State) (f) (q : List Instr) (h : s.onDev f = .next t) :
    t.pending = s.pending ∧ State.onDev { s with pending := q } f = .next { t with pending := q } := by
  unfold State.onDev at *
  by_cases hm : s.core.mode = .off <;> simp only [hm, if_true, if_false] at * <;> cases h <;> exact ⟨rfl, rfl⟩

theorem onAll_congr (s t : State) (f) (q : List Instr) (h : s.onAll f = .next t) :
    t.pending = s.pending ∧ State.onAll { s with pending := q } f = .next { t with pending := q } := by
  unfold State.onAll at *
  by_cases hm : s.core.mode = .off <;> simp only [hm, if_true, if_false] at * <;> cases h <;> exact ⟨rfl, rfl⟩

theorem onPin_congr (s t : State) (f) (q : List Instr) (h : s.onPin f = .next t) :
    t.pending = s.pending ∧ State.onPin { s with pending := q } f = .next { t with pending := q } := by
  unfold State.onPin at *; cases h; exact ⟨rfl, rfl⟩

theorem exec_queue (c : Instr) (s t : State) (q : List Instr) (h : exec c s = .next t) :
    t.pending = s.pending ∧ exec c { s with pending := q } = .next { t with pending := q } := by
  rcases acts c with ⟨f, hf⟩ | ⟨f, hf⟩ | ⟨f, -, hf⟩ | rfl
  · rw [hf] at *; exact onDev_congr s t f q h
  · rw [hf] at *; exact onAll_congr s t f q h
  · rw [hf] at *; exact onPin_congr s t f q h
  · rw [exec_pwrgoodFall, execPwrgoodFall] at *
    by_cases hd : s.core.dumping = true
    · rw [if_pos hd] at h; cases h
    · rw [if_neg hd] at h; rw [if_neg (show ¬ _ from hd)]
      exact onPin_congr s t _ q h

theorem onAll_core (s t : State) (f) (hf : ∀ x : CoreSt × Dev, (f x).1 = x.1) (h : s.onAll f = .next t) : t.core = s.core := by
  unfold State.onAll at h
  by_cases hm : s.core.mode = .off <;> simp only [hm, if_true, if_false] at h <;> cases h
  · rfl
  · exact hf _

theorem onBus_core (s t : State) (bus f) (hf : ∀ x : CoreSt × Dev, (f x).1 = x.1) (h : s.onBus bus f = .next t) : t.core = s.core := by
  unfold State.onBus at h
  refine onAll_core s t _ ?_ h
  intro x; split
  · exact hf x
  · rfl

theorem onBusRead_core (s t : State) (bus f) (h : s.onBusRead bus f = .next t) : t.core = s.core :=
  onBus_core s t bus (fun x => (x.1, x.2.reply (f x.1 x.2))) (fun _ => rfl) h

theorem uartTake_core (ty len frame f) (hf : ∀ n p (x : CoreSt × Dev), (f n p x).1 = x.1) (x : CoreSt × Dev) : (uartTake ty len frame f x).1 = x.1 := by
  unfold uartTake
  split
  · rfl
  · split
    · rfl
    · (repeat' split) <;> first | rfl | exact hf _ _ _

theorem recoveryGo_core (p slot block) (x : CoreSt × Dev) : (recoveryGo p slot block x).1 = x.1 := by
  unfold recoveryGo; (repeat' split) <;> rfl

theorem managerWrite_core (src off v) (x : CoreSt × Dev) (h : isCounter off = true) : (managerWrite src off v x).1 = x.1 := by
  have h1 : off ≠ R.devModeReq := by rintro rfl; revert h; decide
  have h2 : off ≠ R.devReset := by rintro rfl; revert h; decide
  unfold managerWrite
  dsimp only
  rw [if_neg h1, if_neg h2]
  (repeat' split) <;> rfl

theorem recoveryWrite_core (port off v) (x : CoreSt × Dev) (h : isCounter off = true) : (recoveryWrite port off v x).1 = x.1 := by
  have h1 : off ≠ R.fwuRcvCmd := by rintro rfl; revert h; decide
  unfold recoveryWrite
  rw [if_neg h1]
  (repeat' split) <;> rfl

theorem counterWrite_core (src off v) (x : CoreSt × Dev) : (if isCounter off then regWrite src off 8 v x else x).1 = x.1 := by
  split
  · rename_i h
    unfold regWrite
    dsimp only
    (repeat' split) <;> first | rfl | exact managerWrite_core _ _ _ _ h | exact recoveryWrite_core _ _ _ _ h
  · rfl

end Sys2Proof.Machine
end

