-- ==== Sys2Proof/Laws/Galleries.lean ====
section
/-!
SUPPORT. What the instruction frame of a gallery core can do, said once: cores and logical numbers under the block operations, one
instruction that issues, and an exception that is taken.
-/

set_option Elab.async false

namespace Sys2Proof.Machine

@[simp] theorem Dev.phys_count (d : Dev) (r n g : Nat) : (d.count r n).phys g = d.phys g := by simp [Dev.phys]
@[simp] theorem Dev.logicalOf_count (d : Dev) (r n p : Nat) : (d.count r n).logicalOf p = d.logicalOf p := by simp [Dev.logicalOf]
@[simp] theorem Dev.phys_setCore (d : Dev) (q : Nat) (k : Gallery) (g : Nat) : (d.setCore q k).phys g = d.phys g := rfl
@[simp] theorem Dev.logicalOf_setCore (d : Dev) (q : Nat) (k : Gallery) (p : Nat) : (d.setCore q k).logicalOf p = d.logicalOf p := rfl

/-- Counting does not look at the galleries. -/
theorem Dev.bump0_withGals (d : Dev) (x : GalsSt) (off k : Nat) : ({ d with gals := x } : Dev).bump0 off k = { d.bump0 off k with gals := x } := by
  have e : ({ d with gals := x } : Dev).reg off = d.reg off := rfl
  unfold Dev.bump0
  simp only [e]
  by_cases h : (d.reg off).toNat + k < 2 ^ 64
  · simp only [if_pos h]; rfl
  · simp only [if_neg h]; cases cntSat off <;> rfl
theorem Dev.countEvt_withGals (d : Dev) (x : GalsSt) (off : Nat) : ({ d with gals := x } : Dev).countEvt off = { d.countEvt off with gals := x } := by
  have e : ({ d with gals := x } : Dev).sticks off 1 = d.sticks off 1 := rfl
  unfold Dev.countEvt
  simp only [e, Dev.bump0_withGals]
  cases d.sticks off 1 <;> rfl
theorem Dev.raiseEvent_withGals (d : Dev) (x : GalsSt) (n : Nat) : ({ d with gals := x } : Dev).raiseEvent n = { d.raiseEvent n with gals := x } := by
  have e : ({ d with gals := x } : Dev).pendRouted n = { d.pendRouted n with gals := x } := rfl
  unfold Dev.raiseEvent
  simp only [e, Dev.countEvt_withGals]
  cases (look d.evt.routed n {}).pend <;> rfl
theorem Dev.count_withGals (d : Dev) (x : GalsSt) (off k : Nat) : ({ d with gals := x } : Dev).count off k = { d.count off k with gals := x } := by
  have e : ({ d with gals := x } : Dev).sticks off k = d.sticks off k := rfl
  unfold Dev.count
  simp only [e, Dev.bump0_withGals]
  cases d.sticks off k
  · rfl
  · simp only [if_true, Dev.raiseEvent_withGals]
theorem Dev.setCore_count (d : Dev) (off n p : Nat) (k : Gallery) : (d.count off n).setCore p k = (d.setCore p k).count off n := by
  show ({ d.count off n with gals := { (d.count off n).gals with core := put (d.count off n).gals.core p k } } : Dev) = _
  rw [Dev.count_gals]
  exact (d.count_withGals _ off n).symm

/-! ### Loads and where an address leads -/

theorem find?_same {α : Type} (p q : α → Bool) (l : List α) (h : ∀ x ∈ l, p x = q x) : l.find? p = l.find? q := by
  induction l with
  | nil => rfl
  | cons a l ih =>
    rw [List.find?_cons, List.find?_cons, h a (List.mem_cons_self ..), ih (fun x hx => h x (List.mem_cons_of_mem _ hx))]

theorem Dev.mirrorSet_lt (d : Dev) (n : Nat) : (d.memSet n).mirrorSet < 16 := by
  have := bits_lt (d.reg (R.memSetMap n)).toNat 51 48
  exact this

/-- What a device physical address reaches depends on the fences, the galleries and the interleave sets only (R360 to R364). -/
theorem Dev.locate_congr (d e : Dev) (hg : e.gals.map = d.gals.map) (hs : e.saf = d.saf) (hr : ∀ n, n < 16 → e.memSet n = d.memSet n) (pa : Nat) :
    e.locate pa = d.locate pa := by
  have hf : ∀ b u, e.isFenced b u = d.isFenced b u := fun b u => by unfold Dev.isFenced; rw [hs]
  have hp : ∀ g, e.phys g = d.phys g := fun g => by unfold Dev.phys; rw [hg]
  unfold Dev.locate
  simp only [hf, hp]
  have : (List.range 16).find? (fun n => let s := e.memSet n; s.enable && s.role == 0 && decide (s.base ≤ pa) && decide (pa < s.base + s.size)) =
      (List.range 16).find? (fun n => let s := d.memSet n; s.enable && s.role == 0 && decide (s.base ≤ pa) && decide (pa < s.base + s.size)) :=
    find?_same _ _ _ (fun n hn => by dsimp only; rw [hr n (List.mem_range.mp hn)])
  rw [this]
  split
  · rfl
  · split
    · rfl
    · cases hn : (List.range 16).find? (fun n => let s := d.memSet n; s.enable && s.role == 0 && decide (s.base ≤ pa) && decide (pa < s.base + s.size)) with
      | none => rfl
      | some n =>
        have h16 : n < 16 := List.mem_range.mp (List.mem_of_find?_eq_some hn)
        simp only [hr n h16, hr _ (d.mirrorSet_lt n)]

theorem Dev.reg_count_ne (d : Dev) (off k o : Nat) (h : o ≠ off) (h0 : ∀ e, cntSat off = some e → o ≠ e.1) (h1 : o ≠ R.evtCntRaise)
    (h2 : o ≠ R.evtCntMerge) (h3 : o ≠ R.evtCntSat) : (d.count off k).reg o = d.reg o := by
  unfold Dev.count
  dsimp only
  split
  · rw [Dev.reg_raiseEvent_ne _ _ _ h1 h2 h3, Dev.reg_bump0_ne _ _ _ _ h h0]
  · rw [Dev.reg_bump0_ne _ _ _ _ h h0]

theorem Dev.memSet_countWalk (d : Dev) (k n : Nat) (hn : n < 16) : (d.count R.insCntWalk k).memSet n = d.memSet n := by
  have hr : ∀ o, 0xa00100 ≤ o → o < 0xa00280 → (d.count R.insCntWalk k).reg o = d.reg o := fun o h1 h2 =>
    Dev.reg_count_ne _ _ _ _ (by unfold R.insCntWalk; omega)
      (by intro e he; rw [show cntSat R.insCntWalk = some (R.insCntSat, _, _, _) from rfl] at he; cases he; show o ≠ R.insCntSat; unfold R.insCntSat; omega)
      (by unfold R.evtCntRaise; omega) (by unfold R.evtCntMerge; omega) (by unfold R.evtCntSat; omega)
  unfold Dev.memSet R.memSetBase R.memSetSize R.memSetMap
  rw [hr _ (by omega) (by omega), hr _ (by omega) (by omega), hr _ (by omega) (by omega)]

theorem Dev.locate_walkRequests (d : Dev) (c : CoreSt) (i va pa : Nat) : (d.walkRequests c i va).locate pa = d.locate pa := by
  unfold Dev.walkRequests
  split
  · rfl
  · rename_i t _
    generalize hx : each _ _ d = x
    have h : ∀ e : Dev, (e.count R.insCntWalk).locate pa = e.locate pa := fun e =>
      Dev.locate_congr _ _ (by simp) (by simp) (fun n hn => e.memSet_countWalk 1 n hn) pa
    rw [h, ← hx]; unfold each
    refine foldl_keeps (fun e : Dev => e.locate pa) _ (fun s a => ?_) _ d
    exact Dev.locate_congr _ _ (by simp) (by simp) (fun n _ => by simp [Dev.memSet, Dev.reg]) pa

theorem Dev.locate_acceptRange (d : Dev) (c : CoreSt) (w : Bool) (cls a n pa : Nat) : (d.acceptRange c w cls a n).locate pa = d.locate pa :=
  Dev.locate_congr _ _ (by simp) (by simp) (fun n _ => by simp [Dev.memSet, Dev.reg]) pa

/-- A load that succeeds leaves the galleries and every byte as they were (R306): only requests are entered. -/
theorem Dev.coreLoad_ok (d e : Dev) (c : CoreSt) (p : Nat) (x : Cap) (reg a n : Nat) (bs : Bytes) (h : d.coreLoad c p x reg a n = (e, .ok bs)) :
    e.gals = d.gals ∧ e.mem = d.mem := by
  unfold Dev.coreLoad at h
  simp only [] at h
  split at h
  · split at h
    · cases h
    · split at h <;> cases h
      exact ⟨rfl, rfl⟩
  · split at h
    · rename_i hh
      cases h
      unfold Dev.load at hh
      split at hh
      · cases hh
      · cases hh
        exact ⟨by simp, by simp⟩
    · cases h
    · cases h
  · cases h
  · split at h
    · cases h
    · split at h <;> cases h
      exact ⟨by simp, by simp⟩
theorem Dev.coreLoad_core (d e : Dev) (c : CoreSt) (p : Nat) (x : Cap) (reg a n : Nat) (bs : Bytes)
    (h : d.coreLoad c p x reg a n = (e, .ok bs)) (q : Nat) : e.core q = d.core q := by
  unfold Dev.core; rw [(d.coreLoad_ok e c p x reg a n bs h).1]

/-- An instruction that issues and completes moves PC past it. -/
theorem Dev.instr_done (s : State) (p : Fin 136) (body : Gallery → Dev → IRes) (d : Dev) (h : Issues s p)
    (hb : body (s.dev.core p.val) s.dev = .done d) : s.dev.instr s.core p.val body = d.advance p.val := by
  obtain ⟨_, h2, h3, h4⟩ := h
  simp [Dev.instr, h2, h3, h4, hb]

/-- An instruction that issues and completes with PC set. -/
theorem Dev.instr_jump (s : State) (p : Fin 136) (body : Gallery → Dev → IRes) (d : Dev) (h : Issues s p)
    (hb : body (s.dev.core p.val) s.dev = .jump d) : s.dev.instr s.core p.val body = d := by
  obtain ⟨_, h2, h3, h4⟩ := h
  simp [Dev.instr, h2, h3, h4, hb]

/-- An instruction that issues and raises an exception takes it. -/
theorem Dev.instr_exc (s : State) (p : Fin 136) (body : Gallery → Dev → IRes) (d : Dev) (x : Exc) (h : Issues s p)
    (hb : body (s.dev.core p.val) s.dev = .exc x d) : s.dev.instr s.core p.val body = d.takeExc s.core p.val x := by
  obtain ⟨_, h2, h3, h4⟩ := h
  simp [Dev.instr, h2, h3, h4, hb]

@[simp] theorem Gallery.setG_pc (k : Gallery) (n : Nat) (v : Word) : (k.setG n v).pc = k.pc := by
  unfold Gallery.setG; split
  · rfl
  · split <;> rfl
@[simp] theorem Gallery.setC_pc (k : Gallery) (n : Nat) (v : Cap) : (k.setC n v).pc = k.pc := by
  unfold Gallery.setC; split <;> rfl

/-- Past an instruction that only set the core. -/
theorem State.past_eq (s : State) (p : Fin 136) (k : Gallery) (h : k.pc = (s.dev.core p.val).pc) :
    s.withDev ((s.dev.setCore p.val k).advance p.val) = s.past p k := by
  simp [State.past, Dev.advance, h]

/-- An instruction that only computes a new core state, with PC untouched, issues and completes. -/
theorem Dev.instr_reg (s : State) (p : Fin 136) (f : Gallery → Except Exc Gallery) (k : Gallery) (h : Issues s p)
    (hf : f (s.dev.core p.val) = .ok k) (hk : k.pc = (s.dev.core p.val).pc) :
    s.onDev (fun c d => d.instr c p.val (regInstr p.val f)) = .next (s.past p k) := by
  rw [s.onDev_of_on _ h.1, Dev.instr_done s p _ (s.dev.setCore p.val k) h (by simp [regInstr, hf])]
  rw [State.past_eq s p k hk]

/-- The cause field of ECAUSE (R334). -/
theorem Exc.word_cause (x : Exc) (h : x.cause < 64) : fld x.word 5 0 = x.cause := by
  have e : ∀ n, (BitVec.ofNat 64 n).toNat % 64 = n % 64 := fun n => by rw [BitVec.toNat_ofNat]; omega
  simp only [fld, bits, Exc.word, Nat.shiftRight_zero, Nat.shiftLeft_eq]
  rw [show 2 ^ (5 + 1 - 0) = 64 by decide, e]
  omega

/-! ### Long-vector instructions (R338, R350) -/

/-- Elements computed without a cause are what `elemsInto` says. -/
theorem overElems_of_elemsInto (w : Nat) (f : Nat → Nat → Except Exc Nat) (is : List Nat) (a v : Nat)
    (h : is.foldl (fun (r : Option Nat) (i : Nat) => match r with
      | none => none
      | some v => (match f (elem w v i) i with
        | .ok x => some (setElem w v i x)
        | .error _ => none)) (some a) = some v) :
    overElems (fun i v => match f (elem w v i) i with
      | .ok x => .ok (setElem w v i x)
      | .error e => .error (v, e)) is a = (v, none) := by
  induction is generalizing a with
  | nil => simp only [List.foldl_nil, Option.some.injEq] at h; subst h; rfl
  | cons i is ih =>
    rw [List.foldl_cons] at h
    unfold overElems
    cases hf : f (elem w a i) i with
    | ok x => simp only [hf] at h ⊢; exact ih _ h
    | error e =>
      simp only [hf] at h
      exfalso
      have : ∀ l : List Nat, l.foldl (fun (r : Option Nat) (i : Nat) => match r with
          | none => none
          | some v => (match f (elem w v i) i with
            | .ok x => some (setElem w v i x)
            | .error _ => none)) none = none := by
        intro l; induction l with
        | nil => rfl
        | cons j l ihl => rw [List.foldl_cons]; exact ihl
      rw [this] at h; cases h

/-- What follows a long-vector instruction's body: VSTART zero, PC past it, the two counters of R358. -/
theorem State.pastVec_eq (s : State) (p : Fin 136) (k : Gallery) (n : Nat) (h : k.pc = (s.dev.core p.val).pc) :
    s.withDev ((((s.dev.setCore p.val { k with vstart := 0 }).count (R.galVcntLinst p.val)).count (R.galVcntBytes p.val) n).advance p.val) =
      s.pastVec p k n := by
  simp only [State.pastVec, State.devPastVec, Dev.advance, Dev.core_count, Dev.core_setCore_self, Dev.setCore_count, Dev.setCore_setCore, h]

/-- A long-vector instruction that issues and meets no cause. -/
theorem Dev.longVec_done (s : State) (p : Fin 136) (legal : Gallery → Bool) (restart : Bool) (width : Gallery → Nat)
    (body : Gallery → Dev → Dev × Option (Nat × Exc)) (k k' : Gallery) (h : VecIssues s p) (hk : s.dev.core p.val = k)
    (hl : legal k = true) (hr : restart = true ∨ k.vstart = 0) (hb : body k s.dev = (s.dev.setCore p.val k', none)) (hp : k'.pc = k.pc) :
    s.onDev (fun c dv => dv.instr c p.val (longVec c p.val legal restart width body)) = .next (s.pastVec p k' (k.vl * width k / 8)) := by
  obtain ⟨h1, h2, h3⟩ := h
  rw [hk] at h2 h3
  have c1 : (!legal k || (!restart && k.vstart != 0)) = false := by rcases hr with hr | hr <;> simp [hl, hr]
  have c2 : ¬ k.vl = 0 := by omega
  have c3 : (restart && decide (k.vl ≤ k.vstart)) = false := by simp; intro _; omega
  rw [s.onDev_of_on _ h1.1, Dev.instr_done s p _
    ((((s.dev.setCore p.val { k' with vstart := 0 }).count (R.galVcntLinst p.val)).count (R.galVcntBytes p.val) (k.vl * width k / 8))) h1]
  · rw [State.pastVec_eq s p k' _ (by rw [hp, hk])]
  · rw [hk]; unfold longVec
    simp only [c1, c2, c3, h2, hb, Bool.false_eq_true, if_false, ne_eq, not_true, Dev.core_setCore_self, Dev.setCore_setCore]

/-- An element-wise long-vector instruction that issues and meets no cause. -/
theorem Dev.elemBody_done (p vd : Nat) (vm : Bool) (w : Nat) (f : Gallery → Nat → Nat → Except Exc Nat) (k : Gallery) (d : Dev) (v : Nat)
    (h : k.elemsInto vm w vd (f k) = some v) : elemBody p vd vm w f k d = (d.setCore p (k.setV vd v), none) := by
  have := overElems_of_elemsInto w (f k) (k.active vm) (k.vreg vd) v h
  exact congrArg (fun (r : Nat × Option (Nat × Exc)) => (d.setCore p (k.setV vd r.1), r.2)) this

/-- An exception that the VBCC can take, outside the shadow bank (R322). -/
theorem Dev.takeExc_enter (d : Dev) (c : CoreSt) (p : Nat) (x : Exc) (h : (d.core p).shadow = false)
    (hv : vbccFault (d.core p).vbcc x.cause = none) :
    d.takeExc c p x = (d.setCore p ((d.core p).enter x)).count (R.galCntExc p) := by
  simp [Dev.takeExc, h, hv]

end Sys2Proof.Machine
end

