-- ==== Sys2Proof/Laws/Blocks.lean ====
section
/-!
SUPPORT. Small lemmas of single blocks that several statements use.
-/

set_option Elab.async false

namespace Sys2Proof.Machine

theorem fenceStack_acc (d : Dev) (c : CoreSt) (n : Nat) : (d.fenceStack c n).acc = d.acc := by
  unfold Dev.fenceStack
  simp only []
  rw [foldl_keeps Dev.acc _ (by intro s x; simp), foldl_keeps Dev.acc _ (by intro s x; simp)]

theorem setHolder_xq (d : Dev) (c : CoreSt) (h : Option Nat) : (d.setHolder c h).xq = d.xq := by
  unfold Dev.setHolder; split
  · rfl
  · simp only [Dev.logEvent_xq, Dev.setFlag_xq, Dev.setF_xq]
    rw [foldl_keeps Dev.xq _ (by intro s x; rfl)]

theorem port_setPort_self (d : Dev) (p : Nat) (x : Port) : (d.setPort p x).port p = x := by simp [Dev.port, Dev.setPort]

theorem port_of_xq (d e : Dev) (h : d.xq = e.xq) (p : Nat) : d.port p = e.port p := by simp [Dev.port, h]

theorem canStop_on (m : Mode) (h : m.canStop = true) : m ≠ .off := by cases m <;> simp_all [Mode.canStop]

theorem startDump_mode (b : Bool) (x : CoreSt × Dev) : (startDump b x).1.mode = x.1.mode ∧ (startDump b x).1.prev = x.1.prev ∧
  (startDump b x).2.pwr = x.2.pwr := ⟨rfl, rfl, rfl⟩

theorem enterSafeStop_mode (m b u : Nat) (x : CoreSt × Dev) : (enterSafeStop m b u x).1.mode = .safeStop ∧
   (enterSafeStop m b u x).1.prev = x.1.mode ∧ (enterSafeStop m b u x).2.pwr = x.2.pwr := by
  unfold enterSafeStop; simp only []; split <;> simp [startDump]

theorem ouFlags_xq (d : Dev) : d.ouFlags.xq = d.xq := rfl

theorem storeInstr_exec (s : State) (p : Fin 136) (k : Gallery) (c : BitVec 4) (x : Cap) (off : MemOff) (i : Instr) (bs : Bytes) (tg : Option Bool) (tag : Bool)
    (h : Issues s p) (hk : s.dev.core p.val = k) (hx : k.getC c.toNat = x) (o a : Nat) (ho : k.offset off = o) (ha : a = x.base + o)
    (ht : tg = some true ↔ tag = true) (hi : exec i s = s.onDev (fun c' dv => dv.instr c' p.val (fun k dv => storeInstr c' p.val c.toNat off bs tg k dv)))
    (hc : capCheck x c.toNat (2 ^ Perm.store + (if x.space = 0 ∧ tag = true then 2 ^ Perm.storeCap else 0)) o bs.length bs.length = none) :
      (∀ e, x.space = 0 → a + bs.length ≤ Config.localBytes → e = s.dev.localWrite p.val a bs →
        exec i s = .next (s.withDev ((if tag then e.setCore p.val { e.core p.val with tags := (a / 16) :: (e.core p.val).tags } else e).advance
          p.val))) ∧
      (∀ e, x.space = 1 → s.dev.coreStoreInst s.core p.val x c.toNat a bs = (e, none) → exec i s = .next (s.withDev (e.advance p.val))) ∧
      (∀ e r, x.space = 2 → s.dev.portWrite s.core p.val a false bs = (e, r) → k.postErr = none ∨ ¬ (a = 0 ∧ bs.length = 8) →
        (r = .ok → exec i s = .next (s.withDev (e.advance p.val))) ∧
        (∀ b, r = .err b → exec i s = .next (s.withDev ((e.postError p.val a (busCode b)).advance p.val)))) ∧
      (x.space = 3 → exec i s = .next (s.withDev ((s.dev.postError p.val a 0).advance p.val))) := by
  have hc' : capCheck (k.getC c.toNat) c.toNat (2 ^ Perm.store + (if (k.getC c.toNat).space = 0 ∧ tg = some true then 2 ^ Perm.storeCap else 0)) (k.offset off) bs.length bs.length = none := by
    rw [hx, ho]; simpa only [ht] using hc
  refine ⟨?_, ?_, ?_, ?_⟩
  · intro e h1 h2 h3
    rw [hi, s.onDev_of_on _ h.1, Dev.instr_done s p _ _ h]
    rw [hk, storeInstr, hc']; subst ha
    have c2 : (k.getC c.toNat).base + k.offset off + bs.length ≤ Config.localBytes := by rw [hx, ho]; exact h2
    simp only [hx, ho, h1, if_pos h2, ← h3]
    by_cases htt : tag = true
    · rw [if_pos (ht.mpr htt), if_pos htt]
    · rw [if_neg (fun hh => htt (ht.mp hh)), if_neg htt]
  · intro e h1 h2
    rw [hi, s.onDev_of_on _ h.1, Dev.instr_done s p _ _ h]
    rw [hk, storeInstr, hc']; subst ha
    simp only [hx, ho, h1, h2]
  · intro e r h1 h2 h3
    subst ha
    have key : ∀ y, (match (e, r) with | (d, PortRes.ok) => IRes.done d | (d, .err r) => .done (d.postError p.val (x.base + o) (busCode r)) | (d, .wait) => .jump d) = y →
       (r = .ok ∨ ∃ b, r = .err b) → storeInstr s.core p.val c.toNat off bs tg k s.dev = y := by
      intro y hy hr
      rw [storeInstr, hc']
      simp only [hx, ho, h1]
      cases hp : k.postErr with
      | none => simp only [h2]; exact hy
      | some q =>
        obtain ⟨ea, rr⟩ := q
        have h4 : ¬ (x.base + o = 0 ∧ bs.length = 8) := by rcases h3 with h3 | h3; (rw [hp] at h3; cases h3); exact h3
        simp only []
        rw [if_neg (fun hh => h4 ⟨hh.1, hh.2.1⟩), if_neg h4, h2, ← hy]
        rcases hr with rfl | ⟨b, rfl⟩ <;> rfl
    refine ⟨?_, ?_⟩
    · rintro rfl
      rw [hi, s.onDev_of_on _ h.1, Dev.instr_done s p _ _ h]
      rw [hk]; exact key _ rfl (Or.inl rfl)
    · rintro b rfl
      rw [hi, s.onDev_of_on _ h.1, Dev.instr_done s p _ _ h]
      rw [hk]; exact key _ rfl (Or.inr ⟨b, rfl⟩)
  · intro h1
    rw [hi, s.onDev_of_on _ h.1, Dev.instr_done s p _ _ h]
    rw [hk, storeInstr, hc']; subst ha
    simp only [hx, ho, h1]

theorem ret_exec (s : State) (p : Fin 136) (k k' : Gallery) (f : Gallery → Except Exc Gallery) (h : Issues s p) (hk : s.dev.core p.val = k) (hf : f k = .ok k') (hp : k'.pc = k.pc) :
    s.onDev (fun c dv => dv.instr c p.val (retained p.val f)) = .next (s.withDev ((s.dev.setCore p.val { k' with pc := k.pc + 4 }).count (R.galVcntLinst p.val))) := by
  rw [s.onDev_of_on _ h.1, Dev.instr_done s p _ ((s.dev.setCore p.val k').count (R.galVcntLinst p.val)) h (by simp [retained, hk, hf])]
  simp only [Dev.advance, Dev.core_count, Dev.core_setCore_self, Dev.setCore_count, Dev.setCore_setCore, hp]

theorem whole_done (s : State) (p : Fin 136) (legal : Gallery → Bool) (f : Gallery → Dev → Except Exc Dev) (k k' : Gallery) (m : Nat) (h : VecIssues s p) (hk : s.dev.core p.val = k)
    (hl : legal k = true) (hr : k.vstart = 0) (hb : f k s.dev = .ok ({ s.dev with fresh := s.dev.fresh + m }.setCore p.val k')) (hp : k'.pc = k.pc) :
    s.onDev (fun c dv => dv.instr c p.val (wholeInstr c p.val legal f)) = .next ((s.withDev { s.dev with fresh := s.dev.fresh + m }).pastVec p k' (k.vl * sewBits k.vtype / 8)) := by
  obtain ⟨h1, h2, h3⟩ := h
  rw [hk] at h2 h3
  have c1 : (!legal k || (!false && k.vstart != 0)) = false := by simp [hl, hr]
  have c2 : ¬ k.vl = 0 := by omega
  rw [s.onDev_of_on _ h1.1, Dev.instr_done s p _
    (((({ s.dev with fresh := s.dev.fresh + m }.setCore p.val { k' with vstart := 0 }).count (R.galVcntLinst p.val)).count (R.galVcntBytes p.val) (k.vl * sewBits k.vtype / 8))) h1]
  · exact congrArg Host.Outcome.next ((s.withDev { s.dev with fresh := s.dev.fresh + m }).pastVec_eq p k' _ (by rw [hp, ← hk]; rfl))
  · rw [hk]; unfold wholeInstr longVec
    simp only [c1, c2, h2, hb, Bool.false_eq_true, Bool.false_and, if_false, ne_eq, not_true, Dev.core_setCore_self, Dev.setCore_setCore]

theorem whole_done0 (s : State) (p : Fin 136) (legal : Gallery → Bool) (f : Gallery → Dev → Except Exc Dev) (k k' : Gallery) (h : VecIssues s p) (hk : s.dev.core p.val = k)
    (hl : legal k = true) (hr : k.vstart = 0) (hb : f k s.dev = .ok (s.dev.setCore p.val k')) (hp : k'.pc = k.pc) :
    s.onDev (fun c dv => dv.instr c p.val (wholeInstr c p.val legal f)) = .next (s.pastVec p k' (k.vl * sewBits k.vtype / 8)) :=
  whole_done s p legal f k k' 0 h hk hl hr hb hp

theorem longVec_any (s : State) (p : Fin 136) (legal : Gallery → Bool) (width : Gallery → Nat)
    (body : Gallery → Dev → Dev × Option (Nat × Exc)) (k : Gallery) (d : Dev) (h : VecIssues s p) (hk : s.dev.core p.val = k)
    (hl : legal k = true) (hb : body k s.dev = (d, none)) :
    s.onDev (fun c dv => dv.instr c p.val (longVec c p.val legal true width body)) = .next (s.withDev (d.pastVec p (k.vl * width k / 8))) := by
  obtain ⟨h1, h2, h3⟩ := h
  rw [hk] at h2 h3
  have c1 : (!legal k || (!true && k.vstart != 0)) = false := by simp [hl]
  have c2 : ¬ k.vl = 0 := by omega
  have c3 : (true && decide (k.vl ≤ k.vstart)) = false := by simp; omega
  rw [s.onDev_of_on _ h1.1, Dev.instr_done s p _
    ((((d.setCore p.val { d.core p.val with vstart := 0 }).count (R.galVcntLinst p.val)).count (R.galVcntBytes p.val) (k.vl * width k / 8))) h1]
  · simp only [Dev.pastVec, Dev.advance, Dev.core_count, Dev.core_setCore_self, Dev.setCore_count, Dev.setCore_setCore]
  · rw [hk]; unfold longVec
    simp only [c1, c2, c3, h2, hb, Bool.false_eq_true, if_false, ne_eq, not_true]

theorem foldl_none {α β : Type} (f : Option α → β → Option α) (h : ∀ i, f none i = none) (l : List β) : l.foldl f none = none := by
  induction l with
  | nil => rfl
  | cons j l ih => rw [List.foldl_cons, h]; exact ih

theorem over_load (c : CoreSt) (p reg : Nat) (x : Cap) (w : Nat) (gather : Bool) (off : Nat → Nat) (is : List Nat) (d e : Dev) (a v : Nat)
    (h : is.foldl (fun (r : Option (Dev × Nat)) (i : Nat) => match r with
      | none => none
      | some (d, v) => (match elemCheck x reg (2 ^ Perm.load) (off i) (w / 8) with
        | some _ => none
        | none => (match d.coreLoad c p x reg (x.base + off i) (w / 8) with
          | (d, .ok bs) => some (if gather then d.count (R.galVcntGselem p) else d, setElem w v i (ofLE bs))
          | (_, .error _) => none))) (some (d, a)) = some (e, v)) :
    overElems (fun (i : Nat) (s : Dev × Nat) => match elemCheck x reg (2 ^ Perm.load) (off i) (w / 8) with
      | some e => (.error (s, e) : Except ((Dev × Nat) × Exc) (Dev × Nat))
      | none =>
        match s.1.coreLoad c p x reg (x.base + off i) (w / 8) with
        | (d, .error e) => .error ((d, s.2), e)
        | (d, .ok bs) => .ok (if gather then d.count (R.galVcntGselem p) else d, setElem w s.2 i (ofLE bs))) is (d, a) = ((e, v), none) ∧
      ∀ q, e.core q = d.core q := by
  induction is generalizing d a with
  | nil => simp only [List.foldl_nil, Option.some.injEq] at h; cases h; exact ⟨rfl, fun _ => rfl⟩
  | cons i is ih =>
    rw [List.foldl_cons] at h
    unfold overElems
    cases h1 : elemCheck x reg (2 ^ Perm.load) (off i) (w / 8) with
    | some y => simp only [h1] at h; rw [foldl_none _ (by intro i; rfl)] at h; cases h
    | none =>
      cases h2 : d.coreLoad c p x reg (x.base + off i) (w / 8) with
      | mk d2 r =>
        cases r with
        | error y => simp only [h1, h2] at h; rw [foldl_none _ (by intro i; rfl)] at h; cases h
        | ok bs =>
          simp only [h1, h2] at h ⊢
          obtain ⟨e1, e2⟩ := ih _ _ h
          refine ⟨e1, fun q => (e2 q).trans ?_⟩
          have := Dev.coreLoad_core _ _ _ _ _ _ _ _ _ h2 q
          cases gather <;> simp [this]

theorem over_store (c : CoreSt) (p reg vd : Nat) (k : Gallery) (x : Cap) (w : Nat) (scatter : Bool) (off : Nat → Nat) (is : List Nat) (d e : Dev) (cs : List (Nat × Bytes))
    (h : is.foldl (fun (r : Option Dev) (i : Nat) => match r with
      | none => none
      | some d => (match elemCheck x reg (2 ^ Perm.store) (off i) (w / 8) with
        | some _ => none
        | none => (match storeElem c p reg x (off i) (toLE (w / 8) (elem w (k.vreg vd) i)) d with
          | .ok d => some (if scatter then d.count (R.galVcntGselem p) else d)
          | .error _ => none))) (some d) = some e) :
    overElems (fun (i : Nat) (s : Dev × List (Nat × Bytes)) => match elemCheck x reg (2 ^ Perm.store) (off i) (w / 8) with
      | some e => (.error (s, e) : Except ((Dev × List (Nat × Bytes)) × Exc) (Dev × List (Nat × Bytes)))
      | none =>
        if false then .ok (s.1, s.2 ++ [(x.base + off i, toLE (w / 8) (elem w (k.vreg vd) i))])
        else match storeElem c p reg x (off i) (toLE (w / 8) (elem w (k.vreg vd) i)) s.1 with
          | .error (d, e) => .error ((d, s.2), e)
          | .ok d => .ok (if scatter then d.count (R.galVcntGselem p) else d, s.2)) is (d, cs) = ((e, cs), none) := by
  induction is generalizing d with
  | nil => simp only [List.foldl_nil, Option.some.injEq] at h; cases h; rfl
  | cons i is ih =>
    rw [List.foldl_cons] at h
    unfold overElems
    cases h1 : elemCheck x reg (2 ^ Perm.store) (off i) (w / 8) with
    | some y => simp only [h1] at h; rw [foldl_none _ (by intro i; rfl)] at h; cases h
    | none =>
      cases h2 : storeElem c p reg x (off i) (toLE (w / 8) (elem w (k.vreg vd) i)) d with
      | error y => simp only [h1, h2] at h; rw [foldl_none _ (by intro i; rfl)] at h; cases h
      | ok d2 =>
        simp only [h1, h2] at h
        have := ih _ h
        exact this

theorem over_join (p reg vd : Nat) (k : Gallery) (x : Cap) (w : Nat) (off : Nat → Nat) (g : Nat → Dev × List (Nat × Bytes) → Except ((Dev × List (Nat × Bytes)) × Exc) (Dev × List (Nat × Bytes))) (is : List Nat) (d : Dev) (cs : List (Nat × Bytes))
    (h : ∀ i ∈ is, elemCheck x reg (2 ^ Perm.store) (off i) (w / 8) = none) :
    overElems (fun (i : Nat) (s : Dev × List (Nat × Bytes)) => match elemCheck x reg (2 ^ Perm.store) (off i) (w / 8) with
      | some e => (.error (s, e) : Except ((Dev × List (Nat × Bytes)) × Exc) (Dev × List (Nat × Bytes)))
      | none =>
        if true then .ok (s.1, s.2 ++ [(x.base + off i, toLE (w / 8) (elem w (k.vreg vd) i))])
        else g i s) is (d, cs) =
      ((d, cs ++ is.map (fun i => (x.base + off i, toLE (w / 8) (elem w (k.vreg vd) i)))), none) := by
  induction is generalizing cs with
  | nil => simp [overElems]
  | cons i is ih =>
    unfold overElems
    simp only [h i (List.mem_cons_self), if_true]
    exact (ih _ (fun j hj => h j (List.mem_cons_of_mem _ hj))).trans (by simp)

theorem longVec_congr (c : CoreSt) (p : Nat) (legal : Gallery → Bool) (restart : Bool) (width : Gallery → Nat)
    (body body' : Gallery → Dev → Dev × Option (Nat × Exc)) (k : Gallery) (d : Dev) (h : body k d = body' k d) :
    longVec c p legal restart width body k d = longVec c p legal restart width body' k d := by
  unfold longVec; rw [h]

theorem short_done (s : State) (p : Fin 136) (k k' : Gallery) (body : Gallery → Dev → IRes) (h : Issues s p) (hk : s.dev.core p.val = k)
    (f : Gallery → Except Exc Gallery) (hb : body k s.dev = shortVec p.val f k s.dev) (hf : f k = .ok k') (hp : k'.pc = k.pc) :
    s.onDev (fun c dv => dv.instr c p.val body) = .next (s.pastShort p k') := by
  rw [s.onDev_of_on _ h.1, Dev.instr_done s p _ ((s.dev.setCore p.val k').count (R.galVcntSinst p.val)) h (by rw [hk, hb]; simp [shortVec, hf])]
  simp only [State.pastShort, Dev.advance, Dev.core_count, Dev.core_setCore_self, Dev.setCore_count, Dev.setCore_setCore, hp, hk]

theorem takeNotice_app (pick : ExcNotice → Bool) (xs rest : List ExcNotice) (n : ExcNotice) (hn : pick n = true)
    (hx : ∀ m ∈ xs, pick m = false) : takeNotice pick (xs ++ n :: rest) = some (n, xs ++ rest) := by
  induction xs with
  | nil => simp [takeNotice, List.find?, hn]
  | cons m xs ih =>
    have hm := hx m (by simp)
    have h := ih (fun k hk => hx k (by simp [hk]))
    have hne : m ≠ n := fun e => by rw [e, hn] at hm; cases hm
    simp only [takeNotice, List.cons_append, List.find?, hm] at h ⊢
    cases hf : (xs ++ n :: rest).find? pick with
    | none => simp [hf] at h
    | some k =>
      rw [hf] at h
      simp only [Option.map_some, Option.some.injEq, Prod.mk.injEq] at h ⊢
      refine ⟨h.1, ?_⟩
      rw [h.1] at *; rw [List.erase_cons, if_neg (by simpa using hne), h.2]

theorem folRecordPost_chains (d : Dev) (c : CoreSt) (e : Nat) (w : Who) (i : Nat) (b : Bool) (f : AccFail) (e' : Nat) :
    (d.recordFail c w i b f).folChains e' = d.folChains e' := by
  simp [Dev.folChains]

theorem mapWord_go (op : Nat) (w : Word) : fld (mapWord op w) 63 63 = 1 := by
  rw [mapWord, fld_setFld_other _ _ _ _ _ _ (by omega) (by omega) (by omega), fld_setFld_self _ _ _ _ (by omega) (by omega)] <;> rfl

theorem mapWord_op (op : Nat) (w : Word) : fld (mapWord op w) 62 61 = op % 4 := by
  rw [mapWord, fld_setFld_self _ _ _ _ (by omega) (by omega)] <;> rfl

theorem slotStatus_congr (d e : Dev) (s : Bool) (h : d.mem = e.mem) : d.slotStatus s = e.slotStatus s := by
  have hf (a n : Nat) : d.flash a n = e.flash a n := by simp only [Dev.flash, h]
  have hb (k : Nat) : d.slotBlock s k = e.slotBlock s k := hf _ _
  have h1 : d.slotHeader s = e.slotHeader s := hf _ _
  have h2 : d.badBlocks s = e.badBlocks s := funext (fun n => by simp only [Dev.badBlocks, hb])
  have h3 : d.slotStream s = e.slotStream s := funext (fun n => by simp only [Dev.slotStream, hb])
  unfold Dev.slotStatus
  rw [h1, h2, h3]

theorem onBus_of_hears (s : State) (bus : MgmtBus) (f) (h : s.hears bus) : s.onBus bus f = .next (s.withAll (f (s.core, s.dev))) := by
  unfold State.onBus
  rw [s.onAll_of_on _ h.1]
  simp only [h.2.1, h.2.2, Bool.and_self, if_true]

theorem onBusRead_of_hears (s : State) (bus : MgmtBus) (f) (h : s.hears bus) :
    s.onBusRead bus f = .next (s.answers (f s.core s.dev)) := by
  unfold State.onBusRead
  rw [onBus_of_hears _ _ _ h]
  rfl

theorem inPldm_of (d : Dev) (st : PldmSt) (f) (h1 : d.mgmt.pldm = st) (h2 : st ≠ .idle) (h3 : d.updateOwner = 2) (h4 : d.updateOpen = true) :
    d.inPldm st f = f d := by
  unfold Dev.inPldm
  rw [if_neg (by rw [h1]; exact h2), if_neg (by simp [h3, h4]), if_pos h1]

theorem fin_exc (s : State) (p : Fin 136) (k : Gallery) (h : Issues s p) (hk : s.dev.core p.val = k) (hs : k.shadow = false)
    (body : CoreSt → Gallery → Dev → IRes) (x : Exc) (hv : vbccFault k.vbcc x.cause = none) (hb : body s.core k s.dev = .exc x s.dev) :
    s.onDev (fun c dv => dv.instr c p.val (body c)) = .next (s.taken p x) := by
  rw [s.onDev_of_on _ h.1, Dev.instr_exc s p _ s.dev x h (by rw [hk]; exact hb), Dev.takeExc_enter _ _ _ _ (by rw [hk]; exact hs) (by rw [hk]; exact hv)]
  rfl

end Sys2Proof.Machine
end

