-- ==== Sys2Proof/Laws/Cores.lean ====
section
/-!
SUPPORT. The frame of a gallery's instruction, in parts: the relation, and what the instruction frame, exceptions and the shared bodies keep.
-/

set_option Elab.async false

namespace Sys2Proof.Machine

theorem Dev.only_refl (d : Dev) (p : Nat) : d.onlyGallery d p := ⟨rfl, rfl, fun _ _ => rfl⟩

theorem Dev.only_trans {a b c : Dev} {p : Nat} (h1 : a.onlyGallery b p) (h2 : b.onlyGallery c p) : a.onlyGallery c p := by
  obtain ⟨x1, y1, z1⟩ := h1
  obtain ⟨x2, y2, z2⟩ := h2
  refine ⟨?_, ?_, fun q hq => (z2 q hq).trans (z1 q hq)⟩
  · have : ({ c with gals := a.gals, regs := a.regs, evt := a.evt, fresh := a.fresh } : Dev) =
      { ({ c with gals := b.gals, regs := b.regs, evt := b.evt, fresh := b.fresh } : Dev) with
        gals := a.gals, regs := a.regs, evt := a.evt, fresh := a.fresh } := rfl
    rw [this, x2, x1]
  · have : ({ c.gals with core := a.gals.core } : GalsSt) = { ({ c.gals with core := b.gals.core } : GalsSt) with core := a.gals.core } := rfl
    rw [this, y2, y1]

theorem Dev.only_setCore (d : Dev) (p : Nat) (k : Gallery) : d.onlyGallery (d.setCore p k) p :=
  ⟨rfl, rfl, fun q hq => Dev.core_setCore_ne d p q k hq⟩

theorem Dev.only_count (d : Dev) (off n p : Nat) : d.onlyGallery (d.count off n) p := by
  have hr := d.count_rest off n
  refine ⟨?_, ?_, fun q _ => Dev.core_count d off n q⟩
  · have e1 := congrArg Dev.gals hr
    have e2 := congrArg Dev.fresh hr
    have : ({ d.count off n with gals := d.gals, regs := d.regs, evt := d.evt, fresh := d.fresh } : Dev) =
        { ({ d.count off n with regs := d.regs, evt := d.evt } : Dev) with gals := d.gals, fresh := d.fresh } := rfl
    rw [this, hr]
  · rw [Dev.count_gals]

theorem Dev.only_draw (d : Dev) (p : Nat) : d.onlyGallery d.draw.2 p := ⟨rfl, rfl, fun _ _ => rfl⟩

/-- The frame with a double fault as its one exception. -/
def Framed (c : CoreSt) (p : Nat) (d e : Dev) : Prop :=
  d.onlyGallery e p ∨ ∃ (f : Dev) (a b pc : Nat), d.onlyGallery f p ∧ f.mem = d.mem ∧ e = f.doubleFault c p a b pc

theorem only_mem {d e : Dev} {p : Nat} (h : d.onlyGallery e p) : e.mem = d.mem := by
  have := congrArg Dev.mem h.1; exact this

theorem Framed.of_only {c : CoreSt} {p : Nat} {d e f : Dev} (h1 : d.onlyGallery e p) (h2 : Framed c p e f) : Framed c p d f := by
  rcases h2 with h2 | ⟨g, a, b, pc, h3, h4, h5⟩
  · exact Or.inl (Dev.only_trans h1 h2)
  · exact Or.inr ⟨g, a, b, pc, Dev.only_trans h1 h3, only_mem (Dev.only_trans h1 h3), h5⟩

theorem takeExc_framed (d : Dev) (c : CoreSt) (p : Nat) (x : Exc) : Framed c p d (d.takeExc c p x) := by
  unfold Dev.takeExc
  dsimp only
  split
  · exact Or.inr ⟨d, _, _, _, Dev.only_refl _ _, rfl, rfl⟩
  · split
    · exact Or.inr ⟨d, _, _, _, Dev.only_refl _ _, rfl, rfl⟩
    · exact Or.inl (Dev.only_trans (Dev.only_setCore _ _ _) (Dev.only_count _ _ _ _))

theorem takeAsync_framed (d : Dev) (c : CoreSt) (p cause : Nat) : Framed c p d (d.takeAsync c p cause) := by
  unfold Dev.takeAsync
  dsimp only
  split
  · exact Framed.of_only (Dev.only_setCore _ _ _) (takeExc_framed _ _ _ _)
  · exact takeExc_framed _ _ _ _

/-- What an instruction's own effect keeps. -/
def Fine (c : CoreSt) (p : Nat) (d : Dev) : IRes → Prop
  | .done e => d.onlyGallery e p
  | .jump e => Framed c p d e
  | .exc _ e => d.onlyGallery e p

theorem capCheck_cause (x : Cap) (reg need o n al : Nat) (e : Exc) (h : capCheck x reg need o n al = some e) : e.cause ≠ Cause.translation := by
  unfold capCheck at h
  dsimp only at h
  (repeat' split at h) <;> first
    | (cases h; simp [Cause.translation, Cause.capTag, Cause.capSealed, Cause.capPerm, Cause.capBounds, Cause.misaligned])
    | cases h

theorem instr_framed (d : Dev) (c : CoreSt) (p : Nat) (body) (hs : (d.core p).pcc.space ≠ 1) (h : ∀ k, Fine c p d (body k d)) :
    Framed c p d (d.instr c p body) := by
  unfold Dev.instr
  split
  · exact Or.inl (Dev.only_refl _ _)
  · split
    · exact takeAsync_framed _ _ _ _
    · split
      · rename_i x hx
        have hc : x.cause ≠ Cause.translation := by
          unfold Dev.fetchCheck at hx
          dsimp only at hx
          split at hx
          · cases hx; exact capCheck_cause _ _ _ _ _ _ _ (by assumption)
          · rw [if_neg hs] at hx; cases hx
        unfold Dev.fetchFail
        dsimp only
        rw [if_neg hc]
        exact takeExc_framed _ _ _ _
      · have hb := h (d.core p)
        split
        · rename_i e he
          rw [he] at hb
          exact Or.inl (Dev.only_trans hb (Dev.only_setCore _ _ _))
        · rename_i e he
          rw [he] at hb
          exact hb
        · rename_i x e he
          rw [he] at hb
          exact Framed.of_only hb (takeExc_framed _ _ _ _)

theorem regInstr_fine (c p f k d) : Fine c p d (regInstr p f k d) := by
  unfold regInstr; split
  · exact Dev.only_setCore _ _ _
  · exact Dev.only_refl _ _

theorem retained_fine (c p f k d) : Fine c p d (retained p f k d) := by
  unfold retained; split
  · exact Dev.only_trans (Dev.only_setCore _ _ _) (Dev.only_count _ _ _ _)
  · exact Dev.only_refl _ _

theorem shortVec_fine (c p f k d) : Fine c p d (shortVec p f k d) := by
  unfold shortVec; split
  · exact Dev.only_trans (Dev.only_setCore _ _ _) (Dev.only_count _ _ _ _)
  · exact Dev.only_refl _ _

theorem startWake_only (d : Dev) (p : Nat) (b : Bool) : d.onlyGallery (d.startWake p b) p := by
  unfold Dev.startWake; dsimp only; split
  · exact Dev.only_refl _ _
  · exact Dev.only_setCore _ _ _
  · exact Dev.only_trans (Dev.only_setCore _ _ _) (Dev.only_count _ _ _ _)

theorem longVec_fine (c p legal restart width body k d) (h : d.onlyGallery (body k d).1 p) : Fine c p d (longVec c p legal restart width body k d) := by
  unfold longVec
  dsimp only
  split
  · exact Dev.only_refl _ _
  · split
    · exact Or.inl (startWake_only _ _ _)
    · have hd (e : Dev) (n : Nat) (he : d.onlyGallery e p) :
          d.onlyGallery ((e.count (R.galVcntLinst p)).count (R.galVcntBytes p) n) p :=
        Dev.only_trans he (Dev.only_trans (Dev.only_count _ _ _ _) (Dev.only_count _ _ _ _))
      split
      · exact hd _ _ (Dev.only_refl _ _)
      · split
        · exact hd _ _ (Dev.only_setCore _ _ _)
        · split
          · rename_i e he
            rw [he] at h
            exact hd _ _ (Dev.only_trans h (Dev.only_setCore _ _ _))
          · rename_i e i x he
            rw [he] at h
            split
            · exact Dev.only_trans h (Dev.only_trans (Dev.only_setCore _ _ _) (Dev.only_count _ _ _ _))
            · exact h

theorem elemBody_only (p vd vm w f k) (d : Dev) : d.onlyGallery (elemBody p vd vm w f k d).1 p := by
  unfold elemBody; exact Dev.only_setCore _ _ _

theorem elemInstr_fine (c p vd vm legal f k d) : Fine c p d (elemInstr c p vd vm legal f k d) := by
  unfold elemInstr; exact longVec_fine _ _ _ _ _ _ _ _ (elemBody_only _ _ _ _ _ _ _)

theorem wholeInstr_fine (c p legal f k d) (h : ∀ e, f k d = .ok e → d.onlyGallery e p) : Fine c p d (wholeInstr c p legal f k d) := by
  unfold wholeInstr
  refine longVec_fine _ _ _ _ _ _ _ _ ?_
  (try dsimp only)
  split
  · exact h _ (by assumption)
  · exact Dev.only_refl _ _

theorem foldl_draw (p : Nat) {α β : Type} (f : α × Dev → β → α × Dev) (hf : ∀ (a : α × Dev) (b : β), a.2.onlyGallery (f a b).2 p) (l : List β) (a : α × Dev) :
    a.2.onlyGallery (l.foldl f a).2 p := by
  induction l generalizing a with
  | nil => exact Dev.only_refl _ _
  | cons b l ih => exact Dev.only_trans (hf a b) (ih _)

theorem derive_fine (c p a b o f k d) : Fine c p d (derive p a b o f k d) := by
  unfold derive; exact regInstr_fine _ _ _ _ _

theorem jumpRel_cases (p off k d) : (∃ e, jumpRel p off k d = .jump e ∧ d.onlyGallery e p) ∨ ∃ x, jumpRel p off k d = .exc x d := by
  unfold jumpRel; dsimp only; split
  · exact Or.inr ⟨_, rfl⟩
  · exact Or.inl ⟨_, rfl, Dev.only_setCore _ _ _⟩

theorem ccrRead_only (d : Dev) (c p num k v e) (h : d.ccrRead c p num k = some (v, e)) : d.onlyGallery e p := by
  unfold Dev.ccrRead at h
  dsimp only at h
  (repeat' split at h) <;> first
    | (simp only [Option.some.injEq, Prod.mk.injEq] at h; obtain ⟨_, rfl⟩ := h; exact Dev.only_refl _ _)
    | (simp only [Option.some.injEq] at h
       have : e = d.draw.2 := by rw [h]
       rw [this]; exact Dev.only_draw _ _)
    | cases h

theorem ccrInstr_fine (c p auth f k d) (h : ∀ e, f k d = some e → d.onlyGallery e p) : Fine c p d (ccrInstr c p auth f k d) := by
  unfold ccrInstr
  split
  · exact Dev.only_refl _ _
  · split
    · exact Dev.only_refl _ _
    · exact h _ (by assumption)

end Sys2Proof.Machine
end

