-- ==== Sys2Proof/Laws/Counters.lean ====
section
/-!
SUPPORT. Where the SAT bit of a counter stands, and the alert pin after it is computed.
-/

namespace Sys2Proof.Machine

theorem cntSat_facts (off sat b ev eb : Nat) (h : cntSat off = some (sat, b, ev, eb)) : b < 64 ∧ sat ≠ off := by
  unfold cntSat at h
  obtain ⟨c, hc, hf⟩ := List.exists_of_findSome?_eq_some h
  dsimp only at hf
  simp only [cntDefs, List.mem_cons, List.not_mem_nil, or_false] at hc
  rcases hc with rfl | rfl | rfl | rfl | rfl | rfl | rfl | rfl | rfl | rfl | rfl | rfl | rfl | rfl | rfl | rfl | rfl | rfl | rfl | rfl <;>
    · simp only [Nat.reduceEqDiff, if_true, if_false, Bool.and_eq_true, decide_eq_true_eq, beq_iff_eq] at hf
      split at hf
      · rename_i hcond
        simp only [Option.some.injEq, Prod.mk.injEq] at hf
        omega
      · cases hf

theorem pwrAlert_ok (d : Dev) : d.pwrAlert.alertOk := by
  unfold Dev.alertOk Dev.pwrAlert
  rw [Dev.flag_setFlag_self _ _ _ _ (by decide)]
  simp only [List.any_eq_true, List.mem_range, Bool.and_eq_true]
  constructor
  · rintro ⟨k, hk, h1, h2⟩
    refine ⟨k, hk, ?_, ?_⟩
    · rw [Dev.flag_setFlag_other _ _ _ _ _ (by decide) (by omega)]; exact h1
    · rw [Dev.flag_setFlag_ne _ _ _ _ _ _ (by decide)]; exact h2
  · rintro ⟨k, hk, h1, h2⟩
    refine ⟨k, hk, ?_, ?_⟩
    · rw [Dev.flag_setFlag_other _ _ _ _ _ (by decide) (by omega)] at h1; exact h1
    · rw [Dev.flag_setFlag_ne _ _ _ _ _ _ (by decide)] at h2; exact h2

end Sys2Proof.Machine
end

