-- ==== Sys2Proof/Laws/Legal.lean ====
section
/-!
SUPPORT. The operations that change the mode arbiter keep its legality (CoreSt.legal).
-/

set_option Elab.async false

namespace Sys2Proof.Machine

theorem legal_iff (c : CoreSt) : c.legal ↔ c.prev.permits c.mode = true ∧ (c.mode = .off ↔ c.pwrgood = false) ∧
    (c.mode = .quiesced → c.quiesceFor.isSome = true) ∧ (c.quiesceFor.isSome = true → c.mode = .quiesced ∨ c.mode = .off) ∧
    (c.mode = .service ∨ c.mode = .quiesced → c.served = true) ∧
    (c.dumping = true → c.dumpHold = true ∧ c.dumpTaken = true ∧ c.mode ≠ .off) :=
  ⟨fun ⟨a, b, c, d, e, f⟩ => ⟨a, b, c, d, e, f⟩, fun ⟨a, b, c, d, e, f⟩ => ⟨a, b, c, d, e, f⟩⟩

theorem changeMode_core (m : Mode) (x : CoreSt × Dev) : (changeMode m x).1 =
    if x.1.mode.permits m then { x.1 with mode := m, prev := x.1.mode, quiescedAt := if m = .quiesced then x.1.time.toNat else x.1.quiescedAt } else x.1 := by
  unfold changeMode; split <;> split <;> rfl

theorem enterService_core (x : CoreSt × Dev) : ∃ c, (enterService x).1 = c ∧ (x.1.legal → c.legal) := by
  refine ⟨_, rfl, ?_⟩
  intro h
  rw [legal_iff] at *
  obtain ⟨h1, h2, h3, h4, h5, h6⟩ := h
  unfold enterService firstService
  dsimp only
  split <;> rename_i hs <;> simp only [changeMode_core] <;> split <;> rename_i hp <;>
    simp_all <;> (cases hm : x.1.mode <;> simp_all [Mode.permits])

theorem enterService_legal (x : CoreSt × Dev) (h : x.1.legal) : (enterService x).1.legal := by
  obtain ⟨c, hc, hl⟩ := enterService_core x
  rw [hc]; exact hl h

theorem quiesce_legal (x : CoreSt × Dev) (q : QuiesceFor) (h : x.1.legal) (hm : x.1.mode = .service) :
    ({ (changeMode .quiesced x).1 with quiesceFor := some q, drained := false } : CoreSt).legal := by
  rw [legal_iff] at *
  rw [changeMode_core]
  simp_all [Mode.permits]

theorem startDump_legal (fl : Bool) (x : CoreSt × Dev) (h : x.1.legal) (hm : x.1.mode ≠ .off) : (startDump fl x).1.legal := by
  rw [legal_iff] at *
  unfold startDump
  simp_all

theorem enterSafeStop_legal (m b u : Nat) (x : CoreSt × Dev) (h : x.1.legal) (hm : x.1.mode.canStop = true ∨ x.1.mode = .rom) :
    (enterSafeStop m b u x).1.legal := by
  unfold enterSafeStop
  have hy (d : Dev) : (({ x.1 with mode := .safeStop, prev := x.1.mode, quiesceFor := none, drained := false }, d) : CoreSt × Dev).1.legal := by
    rw [legal_iff] at *
    rcases hm with hm | hm <;> cases hx : x.1.mode <;> simp_all [Mode.permits, Mode.canStop]
  dsimp only
  split
  · exact startDump_legal _ _ (hy _) (by simp)
  · exact hy _

theorem uncontained_legal (m b u : Nat) (x : CoreSt × Dev) (h : x.1.legal) : (uncontained m b u x).1.legal := by
  unfold uncontained
  split
  · exact enterSafeStop_legal _ _ _ _ h (Or.inl (by assumption))
  · exact h

theorem deviceReset_legal (k : ResetKind) (n : Nat) (b : Bool) (x : CoreSt × Dev) (hp : x.1.pwrgood = true) : (deviceReset k n b x).1.legal := by
  rw [legal_iff]
  unfold deviceReset
  cases hm : x.1.mode <;> simp_all [Mode.permits]

theorem legal_pwr {c : CoreSt} (h : c.legal) (hm : c.mode ≠ .off) : c.pwrgood = true := by
  cases hp : c.pwrgood with
  | true => rfl
  | false => exact absurd (h.power.mpr hp) hm

theorem reset_legal (k n b) (x : CoreSt × Dev) (h : x.1.legal) (hm : x.1.mode ≠ .off) : (deviceReset k n b x).1.legal :=
  deviceReset_legal _ _ _ _ (legal_pwr h hm)

theorem slotRetry_legal (x : CoreSt × Dev) (h : x.1.legal) (hm : x.1.mode ≠ .off) : (slotRetry x).1.legal := by
  unfold slotRetry
  apply deviceReset_legal
  have := legal_pwr h hm
  dsimp only; split <;> exact this

/-- A change of mode outside QUIESCED. -/
theorem changeMode_legal (m : Mode) (x : CoreSt × Dev) (h : x.1.legal) (hq : x.1.quiesceFor = none) (h1 : m ≠ .off) (h2 : m ≠ .quiesced)
    (h3 : m ≠ .service) (h4 : x.1.mode ≠ .off) : (changeMode m x).1.legal := by
  rw [legal_iff] at *
  rw [changeMode_core]
  split <;> simp_all

theorem none_of {c : CoreSt} (h : c.legal) (h1 : c.mode ≠ .quiesced) (h2 : c.mode ≠ .off) : c.quiesceFor = none := by
  cases hq : c.quiesceFor with
  | none => rfl
  | some q => rcases h.unasked (by rw [hq]; rfl) with h3 | h3
              · exact absurd h3 h1
              · exact absurd h3 h2

theorem legal_failed {c : CoreSt} (h : c.legal) (a b : Bool) : ({ c with failedA := a, failedB := b } : CoreSt).legal := by
  rw [legal_iff] at *; exact h

theorem legal_pass {c : CoreSt} (h : c.legal) (a b : Bool) : ({ c with lowAtRise := a, passDone := b } : CoreSt).legal := by
  rw [legal_iff] at *; exact h

theorem bootFirst_legal (bs : List Bool) (x : CoreSt × Dev) (h : x.1.legal) (hm : x.1.mode = .rom) : (bootFirst bs x).1.legal := by
  induction bs generalizing x with
  | nil =>
    unfold bootFirst
    exact changeMode_legal _ _ h (none_of h (by simp [hm]) (by simp [hm])) (by decide) (by decide) (by decide) (by simp [hm])
  | cons b bs ih =>
    unfold bootFirst
    dsimp only
    split
    · split
      · exact legal_pass h _ _
      · exact changeMode_legal _ _ h (none_of h (by simp [hm]) (by simp [hm])) (by decide) (by decide) (by decide) (by simp [hm])
    · apply ih
      · split
        · exact legal_failed h _ _
        · exact legal_failed h _ _
      · split <;> exact hm

theorem romPass_legal (r) (x : CoreSt × Dev) (h : x.1.legal) : (romPass r x).1.legal := by
  unfold romPass
  dsimp only
  split
  · exact h
  · rename_i hm
    have hm : x.1.mode = .rom := (by simpa using hm : x.1.mode = .rom ∧ x.1.passDone = false).1
    have hn := none_of h (by simp [hm]) (by simp [hm])
    split
    · exact enterSafeStop_legal _ _ _ _ h (Or.inr hm)
    · split
      · exact changeMode_legal .recovery (x.1, _) h hn (by decide) (by decide) (by decide) (by simp [hm])
      · unfold boot
        dsimp only
        split <;> exact bootFirst_legal _ _ h hm

theorem configureRecords_legal (r) (x : CoreSt × Dev) (h : x.1.legal) : (configureRecords r x).1.legal := by
  unfold configureRecords
  dsimp only
  split
  · exact h
  · rename_i hm
    split
    · exact slotRetry_legal _ h (by intro h0; simp [h0] at hm)
    · exact h

theorem configureComplete_legal (r) (x : CoreSt × Dev) (h : x.1.legal) : (configureComplete r x).1.legal := by
  unfold configureComplete
  dsimp only
  split
  · exact h
  · rename_i hm
    have hm : x.1.mode = .configure := by simp at hm; exact hm.1
    split
    · have key (d : Dev) : (changeMode .maintenance (x.1, d)).1.legal :=
        changeMode_legal .maintenance (x.1, d) h (none_of h (by simp [hm]) (by simp [hm])) (by decide) (by decide) (by decide) (by simp [hm])
      exact legal_failed (key _) _ _
    · exact enterService_legal _ h

theorem devReset_legal (src k a b r) (x : CoreSt × Dev) (h : x.1.legal) (hm : x.1.mode ≠ .off) : (devReset src k a b r x).1.legal := by
  unfold devReset
  dsimp only
  (repeat' split) <;> first | exact h | exact reset_legal _ _ _ _ h hm

theorem modeRequest_legal (src r) (x : CoreSt × Dev) (h : x.1.legal) (hm : x.1.mode ≠ .off) : (modeRequest src r x).1.legal := by
  unfold modeRequest
  dsimp only
  split
  · exact h
  · split
    · split
      · rename_i hs; exact quiesce_legal _ _ h hs
      · exact h
    · split
      · exact enterService_legal _ h
      · exact h
    · exact reset_legal _ _ _ _ h hm
    · exact h

theorem endWaiting_snd (c : CoreSt) (h : c.legal) (d : Dev) : ((c, d) : CoreSt × Dev).1.legal := h

theorem giveUp_core (q) (x : CoreSt × Dev) : (giveUp q x).1 = (enterService x).1 := by
  unfold giveUp; dsimp only; split <;> rfl

theorem maintenance_legal (x : CoreSt × Dev) (h : x.1.legal) (hm : x.1.mode = .quiesced) :
    ({ (changeMode .maintenance x).1 with quiesceFor := none, drained := false } : CoreSt).legal := by
  rw [legal_iff] at *
  rw [changeMode_core]
  simp_all [Mode.permits]

theorem drained_legal {c : CoreSt} (h : c.legal) (b : Bool) : ({ c with drained := b } : CoreSt).legal := by
  rw [legal_iff] at *; exact h

theorem drainComplete_legal (x : CoreSt × Dev) (h : x.1.legal) : (drainComplete x).1.legal := by
  unfold drainComplete
  dsimp only
  split
  · exact h
  · split
    · exact h
    · rename_i hm
      have hq : x.1.mode = .quiesced := by simp at hm; exact hm.1.1
      split
      · exact enterService_legal _ h
      · split
        · exact drained_legal h _
        · exact enterService_legal _ h
        · split
          · exact enterService_legal _ h
          · exact maintenance_legal (x.1, _) h hq

theorem drainTimeout_legal (x : CoreSt × Dev) (h : x.1.legal) : (drainTimeout x).1.legal := by
  unfold drainTimeout
  dsimp only
  split
  · exact h
  · split
    · exact h
    · rw [giveUp_core]; exact enterService_legal _ h

theorem pfail_legal {c : CoreSt} (h : c.legal) (b : Bool) : ({ c with pfailLow := b } : CoreSt).legal := by
  rw [legal_iff] at *; exact h

theorem hold_legal {c : CoreSt} (h : c.legal) : ({ c with dumpHold := true } : CoreSt).legal := by
  rw [legal_iff] at *
  exact ⟨h.1, h.2.1, h.2.2.1, h.2.2.2.1, h.2.2.2.2.1, fun hd => ⟨rfl, (h.2.2.2.2.2 hd).2⟩⟩

theorem enterService_on (x : CoreSt × Dev) (h : x.1.mode ≠ .off) : (enterService x).1.mode ≠ .off := by
  unfold enterService firstService
  dsimp only
  split <;> simp only [changeMode_core] <;> split <;> simp_all

theorem pfailFall_legal (x : CoreSt × Dev) (h : x.1.legal) : (pfailFall x).1.legal := by
  unfold pfailFall
  dsimp only
  have hp := pfail_legal h true
  split
  · exact hp
  · split
    · rename_i hm; exact startDump_legal _ _ hp (by simp [hm])
    · rename_i hm
      split
      · apply startDump_legal
        · rw [giveUp_core]; exact enterService_legal _ hp
        · rw [giveUp_core]; exact enterService_on _ (by simp [hm])
      · exact startDump_legal _ _ hp (by simp [hm])
    · exact hp
    · exact hp
    · exact hold_legal hp

theorem safeStopFault_legal (m b u) (x : CoreSt × Dev) (h : x.1.legal) : (safeStopFault m b u x).1.legal := by
  unfold safeStopFault; exact uncontained_legal _ _ _ _ h

theorem blockFault_legal (m b u) (x : CoreSt × Dev) (h : x.1.legal) : (blockFault m b u x).1.legal := by
  unfold blockFault
  dsimp only
  (repeat' split) <;> first | exact h | exact safeStopFault_legal _ _ _ _ h

theorem faultAnswer_legal (f) (x : CoreSt × Dev) (h : x.1.legal) : (faultAnswer f x).1.legal := by
  unfold faultAnswer
  cases f <;> dsimp only <;> (repeat' split) <;> first | exact h | exact safeStopFault_legal _ _ _ _ h | exact blockFault_legal _ _ _ _ h

theorem injectFail_legal (b u) (x : CoreSt × Dev) (h : x.1.legal) : (injectFail b u x).1.legal := by
  unfold injectFail
  dsimp only
  split
  · exact blockFault_legal _ _ _ _ h
  · exact h

theorem canaryLoop_legal (r) (x : CoreSt × Dev) (h : x.1.legal) : (canaryLoop r x).1.legal := by
  unfold canaryLoop
  dsimp only
  (repeat' split) <;> first | exact h | exact blockFault_legal _ _ _ _ h

theorem startActivation_legal (w) (x : CoreSt × Dev) (h : x.1.legal) (hm : x.1.mode = .service) : (startActivation w x).1.legal := by
  unfold startActivation; exact quiesce_legal _ _ h hm

theorem activate_legal (ref) (x : CoreSt × Dev) (h : x.1.legal) : (activate ref x).1.legal := by
  unfold activate
  dsimp only
  (repeat' split) <;> first | exact h | exact startActivation_legal _ _ h (by simp_all)

theorem maintCommand_legal (ref op) (x : CoreSt × Dev) (h : x.1.legal) : (maintCommand ref op x).1.legal := by
  unfold maintCommand
  dsimp only
  (repeat' split) <;> first | exact h | exact quiesce_legal (x.1, _) _ h (by simp_all)

theorem recoverFinish_legal (slot) (x : CoreSt × Dev) (h : x.1.legal) (hm : x.1.mode ≠ .off) : (recoverFinish slot x).1.1.legal := by
  unfold recoverFinish
  split
  · exact h
  · exact reset_legal _ _ _ _ h hm

theorem recoveryFinish_legal (p slot) (x : CoreSt × Dev) (h : x.1.legal) (hm : x.1.mode ≠ .off) : (recoveryFinish p slot x).1.legal := by
  unfold recoveryFinish
  (repeat' split) <;> first | exact h | exact recoverFinish_legal _ _ h hm

theorem uartTake_legal (ty len frame f) (x : CoreSt × Dev) (h : x.1.legal)
    (hf : ∀ n p (d : Dev), (f n p (x.1, d)).1.legal) : (uartTake ty len frame f x).1.legal := by
  unfold uartTake
  (repeat' split) <;> first | exact h | exact hf _ _ _

theorem pldmActivate_legal (b) (x : CoreSt × Dev) (h : x.1.legal) : (pldmActivate b x).1.legal := by
  unfold pldmActivate
  dsimp only
  (repeat' split) <;> first | exact h | exact startActivation_legal _ _ h (by simp_all)

theorem managerWrite_legal (src off v) (x : CoreSt × Dev) (h : x.1.legal) (hm : x.1.mode ≠ .off) : (managerWrite src off v x).1.legal := by
  unfold managerWrite
  dsimp only
  (repeat' split) <;> first | exact h | exact modeRequest_legal _ _ _ h hm | exact devReset_legal _ _ _ _ _ _ h hm

theorem recoveryWrite_legal (p off v) (x : CoreSt × Dev) (h : x.1.legal) (hm : x.1.mode ≠ .off) : (recoveryWrite p off v x).1.legal := by
  unfold recoveryWrite recoveryGo
  (repeat' split) <;> first | exact h | exact recoveryFinish_legal _ _ _ h hm

theorem regWrite_legal (src off size v) (x : CoreSt × Dev) (h : x.1.legal) (hm : x.1.mode ≠ .off) : (regWrite src off size v x).1.legal := by
  unfold regWrite
  dsimp only
  (repeat' split) <;> first | exact h | exact managerWrite_legal _ _ _ _ h hm | exact recoveryWrite_legal _ _ _ _ h hm

theorem onAll_legal (s t : State) (f) (hl : s.core.legal) (hf : ∀ x : CoreSt × Dev, x.1.legal → x.1.mode ≠ .off → (f x).1.legal)
    (h : s.onAll f = .next t) : t.core.legal := by
  by_cases hm : s.core.mode = .off
  · rw [s.onAll_off _ hm] at h; cases h; exact hl
  · rw [s.onAll_of_on _ hm] at h; cases h; exact hf _ hl hm

/-- The same of an effect that waits for a condition; the condition stays a variable, so that no check of a time is evaluated. -/
theorem onAll_legal_if (s t : State) (p : CoreSt × Dev → Bool) (f : CoreSt × Dev → CoreSt × Dev) (hl : s.core.legal) (hf : ∀ x : CoreSt × Dev, x.1.legal → (f x).1.legal)
    (h : s.onAll (fun x => if p x then f x else x) = .next t) : t.core.legal := by
  refine onAll_legal s t _ hl ?_ h
  intro x h1 _
  cases hp : p x with
  | true => simp only [if_true]; exact hf x h1
  | false => simp only [Bool.false_eq_true, if_false]; exact h1

theorem onPin_legal (s t : State) (f) (hl : s.core.legal) (hf : ∀ x : CoreSt × Dev, x.1.legal → (f x).1.legal)
    (h : s.onPin f = .next t) : t.core.legal := by
  rw [s.onPin_eq] at h; cases h; exact hf _ hl

theorem onBus_legal (s t : State) (bus f) (hl : s.core.legal) (hf : ∀ x : CoreSt × Dev, x.1.legal → x.1.mode ≠ .off → (f x).1.legal)
    (h : s.onBus bus f = .next t) : t.core.legal := by
  unfold State.onBus at h
  refine onAll_legal s t _ hl ?_ h
  intro x h1 h2; (try dsimp only); split
  · exact hf x h1 h2
  · exact h1

theorem legal_set {c : CoreSt} (h : c.legal) (hd : c.dumping = false) (a b : Bool) : ({ c with dumpHold := a, dumpTaken := b } : CoreSt).legal := by
  rw [legal_iff] at *
  exact ⟨h.1, h.2.1, h.2.2.1, h.2.2.2.1, h.2.2.2.2.1, fun h1 => absurd (show c.dumping = true from h1) (by simp [hd])⟩

end Sys2Proof.Machine
end

