-- ==== Sys2Proof/Laws/Memory.lean ====
section
/-!
SUPPORT. The laws of the memory: every operation keeps the canonical form, a read after a write gives the value written, and a write leaves
every other byte alone.
-/

namespace Sys2Proof.Machine

theorem Memory.above_mono {k l : Nat} (h : l ≤ k) : ∀ {m : Memory}, m.above k = true → m.above l = true
  | [], _ => rfl
  | c :: m, hm => by
    simp only [Memory.above, Bool.and_eq_true, decide_eq_true_eq] at hm ⊢
    exact ⟨⟨by omega, hm.1.2⟩, hm.2⟩

theorem Memory.wf_of_above {k : Nat} : ∀ {m : Memory}, m.above k = true → m.wf = true
  | [], _ => rfl
  | c :: m, h => by
    simp only [Memory.above, Bool.and_eq_true] at h
    simp only [Memory.wf, Bool.and_eq_true]
    exact ⟨h.1.2, h.2⟩

theorem Memory.wf_cons (c : Host.Cell) (m : Memory) : Memory.wf (c :: m) = true ↔ c.2 ≠ 0 ∧ m.above c.1 = true := by
  simp [Memory.wf, bne_iff_ne]

theorem Memory.above_cons (k : Nat) (c : Host.Cell) (m : Memory) : Memory.above k (c :: m) = true ↔ k < c.1 ∧ c.2 ≠ 0 ∧ m.above c.1 = true := by
  simp [Memory.above, bne_iff_ne, and_assoc]

/-- A byte at or below the bound of the rest reads as zero. -/
theorem Memory.get_above {k a : Nat} : ∀ {m : Memory}, m.above k = true → a ≤ k → m.get a = 0
  | [], _, _ => rfl
  | c :: m, h, ha => by
    rw [Memory.above_cons] at h
    unfold Memory.get
    rw [if_neg (by omega), if_pos (by omega)]

theorem Memory.set_above {k a : Nat} (b : Byte) (ha : k < a) : ∀ {m : Memory}, m.above k = true → (m.set a b).above k = true
  | [], _ => by
    unfold Memory.set
    split
    · rfl
    · rename_i h; rw [Memory.above_cons]; exact ⟨ha, h, rfl⟩
  | c :: m, h => by
    have h := (Memory.above_cons _ _ _).mp h
    unfold Memory.set
    split
    · rename_i hc
      split
      · exact Memory.above_mono (by omega) h.2.2
      · rename_i hb; rw [Memory.above_cons]; exact ⟨ha, hb, by rw [← hc]; exact h.2.2⟩
    · split
      · split
        · rw [Memory.above_cons]; exact h
        · rename_i hb; rw [Memory.above_cons, Memory.above_cons]; exact ⟨ha, hb, by omega, h.2⟩
      · rw [Memory.above_cons]
        exact ⟨h.1, h.2.1, Memory.set_above b (by omega) h.2.2⟩

/-- A write keeps the canonical form. -/
theorem Memory.set_wf (a : Nat) (b : Byte) : ∀ {m : Memory}, m.wf = true → (m.set a b).wf = true
  | [], _ => by
    unfold Memory.set
    split
    · rfl
    · rename_i h; rw [Memory.wf_cons]; exact ⟨h, rfl⟩
  | c :: m, h => by
    have h := (Memory.wf_cons _ _).mp h
    unfold Memory.set
    split
    · rename_i hc
      split
      · exact Memory.wf_of_above h.2
      · rename_i hb; rw [Memory.wf_cons]; exact ⟨hb, by rw [← hc]; exact h.2⟩
    · split
      · split
        · rw [Memory.wf_cons]; exact h
        · rename_i hb; rw [Memory.wf_cons, Memory.above_cons]; exact ⟨hb, by omega, h⟩
      · rw [Memory.wf_cons]
        exact ⟨h.1, Memory.set_above b (by omega) h.2⟩

/-- A string of writes keeps the canonical form. -/
theorem Memory.setN_wf (bs : Bytes) : ∀ (a : Nat) {m : Memory}, m.wf = true → (m.setN a bs).wf = true := by
  induction bs with
  | nil => intro a m h; exact h
  | cons b bs ih => intro a m h; exact ih _ (Memory.set_wf a b h)

theorem Memory.filter_above (f : Host.Cell → Bool) : ∀ {k : Nat} {m : Memory}, m.above k = true → Memory.above k (m.filter f) = true
  | _, [], _ => rfl
  | k, c :: m, h => by
    have h := (Memory.above_cons _ _ _).mp h
    rw [List.filter_cons]
    split
    · rw [Memory.above_cons]; exact ⟨h.1, h.2.1, Memory.filter_above f h.2.2⟩
    · exact Memory.above_mono (by omega) (Memory.filter_above f h.2.2)

/-- Clearing a range keeps the canonical form. -/
theorem Memory.clear_wf (lo hi : Nat) {m : Memory} (h : m.wf = true) : (m.clear lo hi).wf = true := by
  unfold Memory.clear
  cases m with
  | nil => rfl
  | cons c m =>
    have h := (Memory.wf_cons _ _).mp h
    rw [List.filter_cons]
    split
    · rw [Memory.wf_cons]; exact ⟨h.1, Memory.filter_above _ h.2⟩
    · exact Memory.wf_of_above (Memory.filter_above _ h.2)

theorem Memory.get_set_above {k : Nat} (a x : Nat) (b : Byte) : ∀ {m : Memory}, m.above k = true →
    (m.set a b).get x = if x = a then b else m.get x
  | [], _ => by
    unfold Memory.set
    split
    · rename_i h; subst h; unfold Memory.get; split <;> rfl
    · unfold Memory.get
      by_cases hx : x = a
      · rw [if_pos hx.symm, if_pos hx]
      · rw [if_neg (fun e => hx e.symm), if_neg hx]
        split <;> rfl
  | c :: m, h => by
    have h := (Memory.above_cons _ _ _).mp h
    unfold Memory.set
    by_cases hc : c.1 = a
    · rw [if_pos hc]
      by_cases hb : b = 0
      · rw [if_pos hb]
        by_cases hx : x = a
        · rw [if_pos hx, hx, ← hc, Memory.get_above h.2.2 (Nat.le_refl _), hb]
        · rw [if_neg hx]
          conv => rhs; unfold Memory.get
          rw [if_neg (by omega)]
          split
          · exact Memory.get_above h.2.2 (by omega)
          · rfl
      · rw [if_neg hb]
        by_cases hx : x = a
        · rw [if_pos hx]; unfold Memory.get; rw [if_pos hx.symm]
        · rw [if_neg hx]; unfold Memory.get
          rw [if_neg (fun e => hx e.symm), if_neg (show ¬ c.1 = x by omega), hc]
    · rw [if_neg hc]
      by_cases ha : a < c.1
      · rw [if_pos ha]
        by_cases hb : b = 0
        · rw [if_pos hb]
          by_cases hx : x = a
          · rw [if_pos hx]; unfold Memory.get; rw [if_neg (by omega), if_pos (by omega), hb]
          · rw [if_neg hx]
        · rw [if_neg hb]
          by_cases hx : x = a
          · rw [if_pos hx]; unfold Memory.get; rw [if_pos hx.symm]
          · rw [if_neg hx]
            conv => lhs; unfold Memory.get
            rw [if_neg (fun e => hx e.symm)]
            split
            · unfold Memory.get; rw [if_neg (by omega), if_pos (by omega)]
            · rfl
      · rw [if_neg ha]
        conv => lhs; unfold Memory.get
        by_cases hx : c.1 = x
        · rw [if_pos hx, if_neg (by omega)]
          conv => rhs; unfold Memory.get
          rw [if_pos hx]
        · rw [if_neg hx]
          by_cases hl : x < c.1
          · rw [if_pos hl, if_neg (by omega)]
            conv => rhs; unfold Memory.get
            rw [if_neg hx, if_pos hl]
          · rw [if_neg hl, Memory.get_set_above a x b h.2.2]
            conv => rhs; rhs; unfold Memory.get
            rw [if_neg hx, if_neg hl]

/-- A read after a write: the byte written at its place, and every other byte as before. -/
theorem Memory.get_set (a x : Nat) (b : Byte) {m : Memory} (h : m.wf = true) : (m.set a b).get x = if x = a then b else m.get x := by
  cases m with
  | nil => exact Memory.get_set_above (k := 0) a x b rfl
  | cons c m =>
    have h' := (Memory.wf_cons _ _).mp h
    cases hc : c.1 with
    | succ n => exact Memory.get_set_above (k := n) a x b ((Memory.above_cons _ _ _).mpr ⟨by omega, h'⟩)
    | zero =>
      unfold Memory.set
      by_cases ha : c.1 = a
      · rw [if_pos ha]
        by_cases hb : b = 0
        · rw [if_pos hb]
          by_cases hx : x = a
          · rw [if_pos hx, Memory.get_above h'.2 (by omega), hb]
          · rw [if_neg hx]; conv => rhs; unfold Memory.get
            rw [if_neg (by omega), if_neg (by omega)]
        · rw [if_neg hb]; unfold Memory.get
          by_cases hx : x = a
          · rw [if_pos hx.symm, if_pos hx]
          · rw [if_neg (fun e => hx e.symm), if_neg (by omega), if_neg hx, if_neg (by omega), if_neg (by omega)]
      · rw [if_neg ha, if_neg (by omega)]
        conv => lhs; unfold Memory.get
        by_cases hx : c.1 = x
        · rw [if_pos hx, if_neg (by omega)]; conv => rhs; unfold Memory.get
          rw [if_pos hx]
        · rw [if_neg hx, if_neg (by omega), Memory.get_set_above a x b h'.2]
          conv => rhs; unfold Memory.get
          rw [if_neg hx, if_neg (show ¬ x < c.1 by omega)]

/-- A string of writes leaves every byte outside it alone. -/
theorem Memory.get_setN_ne (bs : Bytes) : ∀ (a x : Nat) {m : Memory}, m.wf = true → x < a ∨ a + bs.length ≤ x → (m.setN a bs).get x = m.get x := by
  induction bs with
  | nil => intro a x m _ _; rfl
  | cons b bs ih =>
    intro a x m h hx
    simp only [List.length_cons] at hx
    rw [Memory.setN, ih (a + 1) x (Memory.set_wf a b h) (by omega), Memory.get_set a x b h, if_neg (by omega)]

/-- A string of writes puts each byte in its place. -/
theorem Memory.get_setN (bs : Bytes) : ∀ (a j : Nat) {m : Memory}, m.wf = true → (hj : j < bs.length) → (m.setN a bs).get (a + j) = bs[j] := by
  induction bs with
  | nil => intro a j m _ hj; cases hj
  | cons b bs ih =>
    intro a j m h hj
    rw [Memory.setN]
    cases j with
    | zero => rw [Memory.get_setN_ne bs _ _ (Memory.set_wf a b h) (by omega), Nat.add_zero, Memory.get_set a a b h, if_pos rfl]; rfl
    | succ j =>
      rw [show a + (j + 1) = a + 1 + j by omega, ih (a + 1) j (Memory.set_wf a b h) (by simp at hj; omega)]
      rfl

/-- What was just written is read back. -/
theorem Memory.getN_setN (bs : Bytes) (a : Nat) {m : Memory} (h : m.wf = true) : (m.setN a bs).getN a bs.length = bs := by
  have key : ∀ (cs : Bytes) (k : Nat) (n : Memory), (∀ j (hj : j < cs.length), n.get (k + j) = cs[j]) → n.getN k cs.length = cs := by
    intro cs
    induction cs with
    | nil => intro k n _; rfl
    | cons c cs ih =>
      intro k n hn
      rw [List.length_cons, Memory.getN]
      rw [show n.get k = c from hn 0 (by simp)]
      rw [ih (k + 1) n (fun j hj => by
        have := hn (j + 1) (by simp; omega)
        rw [show k + 1 + j = k + (j + 1) by omega]; exact this)]
  exact key bs a _ (fun j hj => Memory.get_setN bs a j h hj)

/-- Clearing a range zeroes it and leaves every other byte alone. -/
theorem Memory.get_clear (lo hi x : Nat) {m : Memory} (h : m.wf = true) : (m.clear lo hi).get x = if lo ≤ x ∧ x < hi then 0 else m.get x := by
  have key : ∀ (m : Memory), m.wf = true → (m.clear lo hi).get x = if lo ≤ x ∧ x < hi then 0 else m.get x := by
    intro m
    induction m with
    | nil =>
      intro _
      show (0 : Byte) = if lo ≤ x ∧ x < hi then 0 else 0
      split <;> rfl
    | cons c m ih =>
      intro h
      have h' := (Memory.wf_cons _ _).mp h
      have hm : Memory.wf m = true := Memory.wf_of_above h'.2
      have hcl : Memory.above c.1 (Memory.clear m lo hi) = true := Memory.filter_above _ h'.2
      unfold Memory.clear at ih ⊢
      rw [List.filter_cons]
      by_cases hk : lo ≤ c.1 ∧ c.1 < hi
      · rw [if_neg (by simp [hk.1, hk.2]), ih hm]
        by_cases hx : lo ≤ x ∧ x < hi
        · rw [if_pos hx, if_pos hx]
        · rw [if_neg hx, if_neg hx]
          conv => rhs; unfold Memory.get
          rw [if_neg (by omega)]
          split
          · exact Memory.get_above h'.2 (by omega)
          · rfl
      · rw [if_pos (by simp; omega)]
        conv => lhs; unfold Memory.get
        by_cases hx : c.1 = x
        · rw [if_pos hx, if_neg (by omega)]
          conv => rhs; unfold Memory.get
          rw [if_pos hx]
        · rw [if_neg hx]
          by_cases hl : x < c.1
          · rw [if_pos hl]
            split
            · rfl
            · conv => rhs; unfold Memory.get
              rw [if_neg hx, if_pos hl]
          · rw [if_neg hl, ih hm]
            split
            · rfl
            · conv => rhs; unfold Memory.get
              rw [if_neg hx, if_neg hl]
  exact key m h

end Sys2Proof.Machine
end

