-- ==== Sys2Proof/Laws/Operators.lean ====
section
/-!
SUPPORT. What the built-in operators' shared operations can do: lowest scales, lanes, results of lists, the rows that an operator keeps.
-/

set_option Elab.async false

namespace Sys2Proof.Machine

/-- The lowest scale: not above the value's, the value unchanged, and no trailing zero left above scale 0. -/
theorem lowestScale_spec : ∀ (s : Nat) (v : Int), (lowestScale s v).2 ≤ s ∧ v = (lowestScale s v).1 * 10 ^ (s - (lowestScale s v).2) ∧
    ((lowestScale s v).2 = 0 ∨ ¬ (10 ∣ (lowestScale s v).1))
  | 0, v => by simp [lowestScale]
  | s + 1, v => by
    unfold lowestScale
    by_cases h : v % 10 = 0
    · obtain ⟨h1, h2, h3⟩ := lowestScale_spec s (v / 10)
      rw [if_pos h]
      refine ⟨by omega, ?_, h3⟩
      have e : s + 1 - (lowestScale s (v / 10)).2 = (s - (lowestScale s (v / 10)).2) + 1 := by omega
      rw [e, Int.pow_succ, ← Int.mul_assoc, ← h2]
      omega
    · rw [if_neg h]
      exact ⟨Nat.le_refl _, by simp, Or.inr (fun hd => h (Int.emod_eq_zero_of_dvd hd))⟩

/-- A lane after an addend was a lane before it, and holds the exact sum, within 256 bits. -/
theorem laneInto_some (l : Option Int) (x s : Int) (h : laneInto l x = some s) : ∃ a, l = some a ∧ s = a + x ∧ fits256 s = true := by
  cases l with
  | none => cases h
  | some a =>
    simp only [laneInto, Option.bind_some, laneAdd] at h
    split at h
    · rename_i hf
      cases h
      exact ⟨a, rfl, rfl, hf⟩
    · cases h

/-- All the results of a list are as many as its elements, each that of its element. -/
theorem allOk_length {α β : Type} (f : α → Except Nat β) : ∀ (xs : List α) (ys : List β), allOk f xs = .ok ys → ys.length = xs.length
  | [], ys, h => by cases h; rfl
  | x :: xs, ys, h => by
    unfold allOk at h
    cases hx : f x with
    | error e => rw [hx] at h; cases h
    | ok y =>
      rw [hx] at h
      dsimp only at h
      cases hr : allOk f xs with
      | error e => rw [hr] at h; cases h
      | ok zs =>
        rw [hr] at h
        cases h
        simp [allOk_length f xs zs hr]

/-- A compute step keeps the number of rows. -/
theorem CStep.run_rows (s : CStep) (round : Nat) (trap : Bool) (table : List Int) (b b' : Batch) (h : s.run round trap table b = .ok b') :
    b'.rows.length = b.rows.length := by
  unfold CStep.run at h
  cases ht : s.ty b.cols with
  | error e => rw [ht] at h; cases h
  | ok t =>
    rw [ht] at h
    dsimp only at h
    generalize hg : allOk _ b.rows = r at h
    cases r with
    | error e => cases h
    | ok rows =>
      cases h
      exact allOk_length _ _ _ hg

/-- COMPUTE keeps the number of rows. -/
theorem computeBatch_rows (blk : Bytes) (round : Nat) (trap : Bool) (b b' : Batch) (h : computeBatch blk round trap b = .ok b') :
    b'.rows.length = b.rows.length := by
  unfold computeBatch at h
  generalize computeSteps blk = ss at h
  induction ss generalizing b with
  | nil => cases h; rfl
  | cons s ss ih =>
    rw [List.foldl_cons] at h
    dsimp only at h
    cases hr : s.run round trap (computeTable blk) b with
    | ok b1 => rw [hr] at h; rw [ih b1 h, CStep.run_rows _ _ _ _ _ _ hr]
    | error e =>
      rw [hr] at h
      exfalso
      clear ih
      induction ss with
      | nil => cases h
      | cons _ _ ih => exact ih h

/-- PARTITION stages every row of a batch once. -/
theorem partitionBatch_rows (blk : Bytes) (logical j : Nat) (b : Batch) (rs : List (Nat × Nat × Row)) (h : partitionBatch blk logical j b = .ok rs) :
    rs.length = b.rows.length := by
  unfold partitionBatch at h
  dsimp only at h
  split at h
  · cases h
  · cases h
  · split at h
    · cases h
    · cases h; simp

/-- SEMI and ANTI give a probe row at most once, and unchanged (R222). -/
theorem probeRow_semi_anti (blk : Bytes) (t : HashTable) (np : Nat) (cols : Tbl SlotTy) (r : Row) (h : 2 ≤ le blk 0 1) :
    probeRow blk t np cols r = [r] ∨ probeRow blk t np cols r = [] := by
  unfold probeRow
  dsimp only
  split
  · omega
  · omega
  · split <;> simp
  · split <;> simp

/-- A row with a null key matches nothing (R222). -/
theorem probeMatches_null (blk : Bytes) (t : HashTable) (cols : Tbl SlotTy) (r : Row) (h : nullKey (slotList blk 8 (le blk 1 1)) r = true) :
    probeMatches blk t cols r = [] := by
  unfold probeMatches
  rw [if_pos h]

/-- TOP_N keeps no more than N rows. -/
theorem topRows_length (b : Bytes) (cols : Tbl SlotTy) (rows : List Row) : (topRows b cols rows).length ≤ SortBlk.count b := by
  unfold topRows
  rw [List.length_take]
  exact Nat.min_le_left _ _

end Sys2Proof.Machine
end

