-- ==== Sys2Proof/Laws/SafeStop.lean ====
section
/-!
SUPPORT. What a device reset leaves, and where the operations that change the mode lead from SAFE-STOP.
-/

set_option Elab.async false

namespace Sys2Proof.Machine

theorem kind_lt (k : ResetKind) : k.code < 8 := by cases k <;> decide

theorem setDegraded_reg (d : Dev) (t : Word) (w : Bool) (b u off : Nat) (h1 : off ≠ R.devStatus) (h2 : off ≠ R.evtCntRaise) (h3 : off ≠ R.evtCntMerge)
    (h4 : off ≠ R.evtCntSat) : (d.setDegraded t w b u).reg off = d.reg off := by
  unfold Dev.setDegraded
  show ((_ : Dev).raiseEvent 1).reg off = _
  rw [Dev.reg_raiseEvent_ne _ _ _ h2 h3 h4]
  unfold Dev.reg
  rw [Dev.logEvent_regs]
  exact Dev.reg_setFlag_ne _ _ _ _ _ h1

/-- The change of DEGRADED that a reset makes leaves every register that it does not write itself. -/
theorem ifDegraded_reg (p : Prop) [Decidable p] (d : Dev) (t : Word) (w : Bool) (b u off : Nat) (h1 : off ≠ R.devStatus) (h2 : off ≠ R.evtCntRaise)
    (h3 : off ≠ R.evtCntMerge) (h4 : off ≠ R.evtCntSat) : (if p then d.setDegraded t w b u else d).reg off = d.reg off := by
  split
  · exact setDegraded_reg d t w b u off h1 h2 h3 h4
  · rfl

theorem reset_reg (k : ResetKind) (n : Nat) (b : Bool) (x : CoreSt × Dev) (off : Nat) (h : off ∉ resetWrites) :
    (deviceReset k n b x).2.reg off = ((find (resetRegs x.2.regs) off).getD (regReset off)) := by
  simp only [resetWrites, List.mem_cons, List.not_mem_nil, or_false, not_or] at h
  obtain ⟨h1, h2, h3, h4, h5, h6, h7, h8, h9⟩ := h
  unfold deviceReset
  dsimp only
  show ((_ : Dev).raiseEvent 0).reg off = _
  rw [Dev.reg_raiseEvent_ne _ _ _ h6 h7 h8]
  have hl (d : Dev) (bs : Bytes) : (d.logEvent 0 1 0 0 bs).reg off = d.reg off := by
    unfold Dev.reg; rw [Dev.logEvent_regs]
  rw [hl, ifDegraded_reg _ _ _ _ _ _ _ h1 h6 h7 h8, Dev.reg_setFlag_ne _ _ _ _ _ h9, Dev.reg_setFlag_ne _ _ _ _ _ h1]
  have base : (x.2.cleared.resetCause k.code n x.1.mode.code).reg off = (find (resetRegs x.2.regs) off).getD (regReset off) := by
    unfold Dev.resetCause Dev.bumpField
    dsimp only
    have e : ∀ d : Dev, (((d.setF R.devResetCause 10 8 x.1.mode.code).setF R.devResetCause 7 4 n).setF R.devResetCause 2 0 k.code).reg off = d.reg off := by
      intro d
      rw [Dev.reg_setF_ne _ _ _ _ _ _ h2, Dev.reg_setF_ne _ _ _ _ _ _ h2, Dev.reg_setF_ne _ _ _ _ _ _ h2]
    rw [e]
    (repeat' split) <;> first
      | rfl
      | (rw [Dev.reg_setFlag_ne _ _ _ _ _ h2, Dev.reg_setF_ne _ _ _ _ _ _ h2]; rfl)
      | (rw [Dev.reg_setF_ne _ _ _ _ _ _ h2]; rfl)
  split
  · rw [Dev.reg_setReg_ne _ _ _ _ h5, Dev.reg_setReg_ne _ _ _ _ h4, Dev.reg_setFlag_ne _ _ _ _ _ h3,
      Dev.reg_setFlag_ne _ _ _ _ _ h1, Dev.reg_setFlag_ne _ _ _ _ _ h1, Dev.reg_setFlag_ne _ _ _ _ _ h1, base]
  · rw [Dev.reg_setFlag_ne _ _ _ _ _ h1, Dev.reg_setFlag_ne _ _ _ _ _ h1, Dev.reg_setFlag_ne _ _ _ _ _ h1, base]

theorem resetRegs_zero (t : Tbl Word) (off : Nat) (h : keptMask off = 0) : (find (resetRegs t) off).getD (regReset off) = regReset off := by
  have : find (resetRegs t) off = none := by
    induction t with
    | nil => rfl
    | cons e t ih =>
      unfold resetRegs at ih ⊢
      rw [List.filterMap_cons]
      dsimp only
      by_cases he : keptMask e.1 = 0
      · rw [if_pos he]; exact ih
      · rw [if_neg he]
        have hne : e.1 ≠ off := fun hh => he (hh ▸ h)
        unfold find at ih ⊢
        rw [List.find?_cons_of_neg (by simpa using hne)]
        exact ih
  rw [this]; rfl

theorem resetRegs_kept (t : Tbl Word) (off : Nat) (h : keptMask off ≠ 0) : find (resetRegs t) off =
    (find t off).map (fun v => BitVec.ofNat 64 ((v.toNat &&& keptMask off) ||| ((regReset off).toNat &&& (2 ^ 64 - 1 - keptMask off)))) := by
  induction t with
  | nil => rfl
  | cons e t ih =>
    unfold resetRegs at ih ⊢
    rw [List.filterMap_cons]
    dsimp only
    by_cases he : keptMask e.1 = 0
    · rw [if_pos he]
      have hne : e.1 ≠ off := fun hh => h (hh ▸ he)
      have : find (e :: t) off = find t off := by unfold find; rw [List.find?_cons_of_neg (by simpa using hne)]
      rw [this]; exact ih
    · rw [if_neg he]
      by_cases hh : e.1 = off
      · subst hh
        unfold find
        rw [List.find?_cons_of_pos (by simp), List.find?_cons_of_pos (by simp)]
        rfl
      · have : find (e :: t) off = find t off := by unfold find; rw [List.find?_cons_of_neg (by simpa using hh)]
        rw [this]
        unfold find at ih ⊢
        rw [List.find?_cons_of_neg (by simpa using hh)]
        exact ih

theorem resetRegs_bit (t : Tbl Word) (off i : Nat) (h : (keptMask off).testBit i = true) :
    ((find (resetRegs t) off).getD (regReset off)).toNat.testBit i = ((find t off).getD (regReset off)).toNat.testBit i := by
  have h0 : keptMask off ≠ 0 := by intro hh; rw [hh] at h; simp at h
  rw [resetRegs_kept t off h0]
  cases hf : find t off with
  | none => rfl
  | some v =>
    simp only [Option.map_some, Option.getD_some]
    have hb : (2 ^ 64 - 1 - keptMask off).testBit i = false := by
      by_cases hk : keptMask off < 2 ^ 64
      · have := Nat.testBit_two_pow_sub_succ hk i
        rw [show 2 ^ 64 - 1 - keptMask off = 2 ^ 64 - (keptMask off + 1) by omega, this, h]; simp
      · rw [show 2 ^ 64 - 1 - keptMask off = 0 by omega]; simp
    rw [BitVec.toNat_ofNat, Nat.testBit_mod_two_pow, Nat.testBit_or, Nat.testBit_and, Nat.testBit_and, h, hb]
    simp only [Bool.and_true, Bool.and_false, Bool.or_false]
    by_cases hi : i < 64
    · simp [hi]
    · have : v.toNat.testBit i = false := Nat.testBit_lt_two_pow (Nat.lt_of_lt_of_le v.isLt (Nat.pow_le_pow_right (by decide) (by omega)))
      simp [this]

theorem reset_kind (k : ResetKind) (n : Nat) (b : Bool) (x : CoreSt × Dev) : (deviceReset k n b x).2.getF R.devResetCause 2 0 = k.code := by
  unfold deviceReset
  dsimp only
  show fld (((_ : Dev).raiseEvent 0).reg R.devResetCause) 2 0 = _
  rw [Dev.reg_raiseEvent_ne _ _ _ (by decide) (by decide) (by decide)]
  have hl (d : Dev) (bs : Bytes) : (d.logEvent 0 1 0 0 bs).reg R.devResetCause = d.reg R.devResetCause := by
    unfold Dev.reg; rw [Dev.logEvent_regs]
  rw [hl, ifDegraded_reg _ _ _ _ _ _ _ (by decide) (by decide) (by decide) (by decide), Dev.reg_setFlag_ne _ _ _ _ _ (by decide),
    Dev.reg_setFlag_ne _ _ _ _ _ (by decide)]
  have step (d : Dev) (h : fld (d.reg R.devResetCause) 2 0 = k.code) (v w : Bool) (p : Bool) :
      fld ((((d.setFlag R.devStatus 8 v).setFlag R.devStatus 9 w).setFlag R.devStatus 7 p).reg R.devResetCause) 2 0 = k.code := by
    rw [Dev.reg_setFlag_ne _ _ _ _ _ (by decide), Dev.reg_setFlag_ne _ _ _ _ _ (by decide), Dev.reg_setFlag_ne _ _ _ _ _ (by decide)]; exact h
  have base : fld ((x.2.cleared.resetCause k.code n x.1.mode.code).reg R.devResetCause) 2 0 = k.code := by
    unfold Dev.resetCause
    dsimp only
    unfold Dev.setF
    rw [Dev.reg_setReg_self, fld_setFld_self _ _ _ _ (by decide) (by decide)]
    have := kind_lt k
    omega
  split
  · rw [Dev.reg_setReg_ne _ _ _ _ (by decide), Dev.reg_setReg_ne _ _ _ _ (by decide), Dev.reg_setFlag_ne _ _ _ _ _ (by decide)]
    exact step _ base _ _ _
  · exact step _ base _ _ _

/-- The blocks of a reset but the registers, the events, the log and the notices. -/
theorem reset_blocks (k : ResetKind) (n : Nat) (b : Bool) (x : CoreSt × Dev) : ∃ e : Dev, (deviceReset k n b x).2.gals = e.gals ∧
    { (deviceReset k n b x).2 with regs := [], evt := {}, evLog := {}, mgmt := {} } = { x.2.cleared with regs := [], evt := {}, evLog := {}, mgmt := {} } := by
  refine ⟨_, rfl, ?_⟩
  unfold deviceReset
  dsimp only
  have hn (d : Dev) (a b : Nat) : { d.notify a b with regs := [], evt := {}, evLog := {}, mgmt := {} } = ({ d with regs := [], evt := {}, evLog := {}, mgmt := {} } : Dev) := rfl
  have hr (d : Dev) (n : Nat) : { d.raiseEvent n with regs := [], evt := {}, evLog := {}, mgmt := {} } = ({ d with regs := [], evt := {}, evLog := {}, mgmt := {} } : Dev) := by
    have := congrArg (fun d : Dev => ({ d with regs := [], evt := {}, evLog := {}, mgmt := {} } : Dev)) (d.raiseEvent_rest n)
    exact this
  have hl (d : Dev) (t : Word) (k i st : Nat) (bs : Bytes) : { d.logEvent t k i st bs with regs := [], evt := {}, evLog := {}, mgmt := {} } = ({ d with regs := [], evt := {}, evLog := {}, mgmt := {} } : Dev) := by
    unfold Dev.logEvent; split <;> rfl
  have hb (d : Dev) (o h l x y : Nat) (z : Option Nat) : { d.bumpField o h l z x with regs := [], evt := {}, evLog := {}, mgmt := {} } = ({ d with regs := [], evt := {}, evLog := {}, mgmt := {} } : Dev) := by
    unfold Dev.bumpField; dsimp only; (repeat' split) <;> rfl
  have hg (p : Prop) [Decidable p] (d : Dev) (t : Word) (w : Bool) (b u : Nat) :
      { (if p then d.setDegraded t w b u else d) with regs := [], evt := {}, evLog := {}, mgmt := {} } =
        ({ d with regs := [], evt := {}, evLog := {}, mgmt := {} } : Dev) := by
    split
    · unfold Dev.setDegraded; rw [hn, hr, hl]; rfl
    · rfl
  rw [hn, hr, hl, hg]
  split
  · exact hb x.2.cleared _ _ _ _ 0 _
  · exact hb x.2.cleared _ _ _ _ 0 _

theorem reset_to (k : ResetKind) (n : Nat) (b : Bool) (s t : State) (c : CoreSt) (hs : s.memOk) (hc : c.mode = s.core.mode)
    (ht : t = s.withAll (deviceReset k n b (c, s.dev))) : s.resetTo t := by
  subst ht
  obtain ⟨_, _, hd⟩ := reset_blocks k n b (c, s.dev)
  have pick {α : Type} (f : Dev → α) (hf : ∀ d : Dev, f { d with regs := [], evt := {}, evLog := {}, mgmt := {} } = f d) :
      f (deviceReset k n b (c, s.dev)).2 = f s.dev.cleared := by rw [← hf, hd, hf]
  have hm : (deviceReset k n b (c, s.dev)).2.mem = s.dev.cleared.mem := pick Dev.mem (fun _ => rfl)
  refine ⟨⟨rfl, hc, rfl⟩, rfl, ?_, ?_, ?_, ?_, ?_⟩
  · intro a
    show (deviceReset k n b (c, s.dev)).2.mem.get a = _
    rw [hm]
    show (s.dev.mem.clear 0 Key.deviceEnd).get a = _
    rw [Memory.get_clear _ _ _ hs]
    simp
  · exact ⟨pick _ (fun _ => rfl), pick _ (fun _ => rfl), pick _ (fun _ => rfl), pick _ (fun _ => rfl), pick _ (fun _ => rfl), pick _ (fun _ => rfl),
      pick _ (fun _ => rfl), pick _ (fun _ => rfl), pick _ (fun _ => rfl), pick _ (fun _ => rfl), pick _ (fun _ => rfl)⟩
  · exact ⟨pick Dev.freezeLog (fun _ => rfl), pick (fun d => d.saf.repairLog) (fun _ => rfl), pick (fun d => d.saf.history) (fun _ => rfl),
      pick (fun d => d.saf.permanent) (fun _ => rfl), pick (fun d => d.saf.returnRecord) (fun _ => rfl),
      pick (fun d => d.ins.migKey) (fun _ => rfl)⟩
  · intro off h1 h2
    show (deviceReset k n b (c, s.dev)).2.reg off = _
    rw [reset_reg _ _ _ _ _ h1, resetRegs_zero _ _ h2]
  · intro off i h1 h2
    show ((deviceReset k n b (c, s.dev)).2.reg off).toNat.testBit i = _
    rw [reset_reg _ _ _ _ _ h1, resetRegs_bit _ _ _ h2]
    rfl

theorem Dev.raiseEvent_cause (d : Dev) (n : Nat) : (d.raiseEvent n).reg R.devResetCause = d.reg R.devResetCause :=
  Dev.reg_raiseEvent_ne d n _ (by decide) (by decide) (by decide)

theorem Dev.getF_eq (d : Dev) (off hi lo : Nat) : d.getF off hi lo = fld (d.reg off) hi lo := rfl

/-- Where an effect on SAFE-STOP leads. -/
def Stays (y : CoreSt × Dev) : Prop :=
  y.1.mode = .safeStop ∨ (y.1.mode = .rom ∧ (y.2.getF R.devResetCause 2 0 = 1 ∨ y.2.getF R.devResetCause 2 0 = 3))

theorem reset_stays (k n b) (x : CoreSt × Dev) (hk : k = .cold ∨ k = .warmAsCold) : Stays (deviceReset k n b x) := by
  refine Or.inr ⟨rfl, ?_⟩
  rw [reset_kind]
  rcases hk with rfl | rfl
  · exact Or.inl rfl
  · exact Or.inr rfl

theorem service_stays (x : CoreSt × Dev) (h : x.1.mode = .safeStop) : Stays (enterService x) := by
  refine Or.inl ?_
  unfold enterService firstService changeMode
  dsimp only
  simp only [h, Mode.permits]
  split <;> simp [h]

theorem uncontained_stays (m b u) (x : CoreSt × Dev) (h : x.1.mode = .safeStop) : Stays (uncontained m b u x) := by
  unfold uncontained
  rw [h]
  exact Or.inl h

theorem safeStopFault_stays (m b u) (x : CoreSt × Dev) (h : x.1.mode = .safeStop) : Stays (safeStopFault m b u x) := by
  unfold safeStopFault; exact uncontained_stays _ _ _ _ h

theorem blockFault_stays (m b u) (x : CoreSt × Dev) (h : x.1.mode = .safeStop) : Stays (blockFault m b u x) := by
  unfold blockFault
  dsimp only
  (repeat' split) <;> first | exact Or.inl h | exact safeStopFault_stays _ _ _ _ h

theorem devReset_stays (src k a b r) (x : CoreSt × Dev) (h : x.1.mode = .safeStop) : Stays (devReset src k a b r x) := by
  unfold devReset
  dsimp only
  rw [if_pos h]
  (repeat' split) <;> first | exact Or.inl h | exact reset_stays _ _ _ _ (Or.inl rfl) | exact reset_stays _ _ _ _ (Or.inr rfl)

theorem modeRequest_stays (src r) (x : CoreSt × Dev) (h : x.1.mode = .safeStop) : Stays (modeRequest src r x) := by
  unfold modeRequest
  dsimp only
  split
  · exact Or.inl h
  · split
    · rw [if_neg (by simp [h])]; exact Or.inl h
    · rw [if_neg (by simp [h])]; exact Or.inl h
    · exact reset_stays _ _ _ _ (Or.inl rfl)
    · exact Or.inl h

theorem recoverFinish_stays (slot) (x : CoreSt × Dev) (h : x.1.mode = .safeStop) : Stays (recoverFinish slot x).1 := by
  unfold recoverFinish
  cases x.2.slotStatus slot with
  | some st => exact Or.inl h
  | none =>
    show Stays (deviceReset .cold 5 false (x.1, (x.2.rcvDone 0).selectActive slot))
    exact reset_stays _ _ _ _ (Or.inl rfl)

theorem recoveryFinish_stays (p slot) (x : CoreSt × Dev) (h : x.1.mode = .safeStop) : Stays (recoveryFinish p slot x) := by
  unfold recoveryFinish
  (repeat' split) <;> first | exact Or.inl h | exact recoverFinish_stays _ _ h

theorem managerWrite_stays (src off v) (x : CoreSt × Dev) (h : x.1.mode = .safeStop) : Stays (managerWrite src off v x) := by
  unfold managerWrite
  dsimp only
  (repeat' split) <;> first | exact modeRequest_stays _ _ _ h | exact devReset_stays _ _ _ _ _ _ h | exact Or.inl h

theorem regWrite_stays (src off size v) (x : CoreSt × Dev) (h : x.1.mode = .safeStop) : Stays (regWrite src off size v x) := by
  unfold regWrite
  dsimp only
  (repeat' split) <;> first
    | exact managerWrite_stays _ _ _ _ h
    | exact absurd (show x.1.mode = .recovery by assumption) (by rw [h]; decide)
    | exact Or.inl h

theorem onAll_stays (s t : State) (f) (hs : s.core.mode = .safeStop) (hf : ∀ x : CoreSt × Dev, x.1.mode = .safeStop → Stays (f x))
    (h : s.onAll f = .next t) : Stays (t.core, t.dev) := by
  have hm : s.on := by show s.core.mode ≠ .off; rw [hs]; decide
  rw [s.onAll_of_on _ hm] at h; cases h; exact hf _ hs

theorem onBus_stays (s t : State) (bus f) (hs : s.core.mode = .safeStop) (hf : ∀ x : CoreSt × Dev, x.1.mode = .safeStop → Stays (f x))
    (h : s.onBus bus f = .next t) : Stays (t.core, t.dev) := by
  unfold State.onBus at h
  refine onAll_stays s t _ hs ?_ h
  intro x h1; (try dsimp only); split
  · exact hf x h1
  · exact Or.inl h1

theorem onPin_stays (s t : State) (f) (hs : s.core.mode = .safeStop) (hf : ∀ x : CoreSt × Dev, x.1.mode = .safeStop → Stays (f x))
    (h : s.onPin f = .next t) : Stays (t.core, t.dev) := by
  rw [s.onPin_eq] at h; cases h; exact hf _ hs

end Sys2Proof.Machine
end

