-- ==== Sys2Proof/Laws/Sorting.lean ====
section
/-!
SUPPORT. Sorted lists, and rounded division by a positive number.
-/

namespace Sys2Proof.Machine

theorem roundDiv_pow (mode : Nat) (c : Int) (p : Nat) (hp : 0 < p) : roundDiv mode c (p : Int) =
    (let m : Nat := if (match mode with | 0 => decide (p < 2 * (c.natAbs % p)) || (2 * (c.natAbs % p) == p && c.natAbs / p % 2 == 1) | 1 => decide (p ≤ 2 * (c.natAbs % p)) | _ => false) = true then c.natAbs / p + 1 else c.natAbs / p
     if c < 0 then -(m : Int) else m) := by
  unfold roundDiv
  have h1 : ¬ ((p : Int) < 0) := by omega
  simp only [Int.natAbs_natCast]
  have : ((decide (c < 0)) != decide ((p : Int) < 0)) = decide (c < 0) := by simp [h1]
  by_cases hc : c < 0
  · simp [hc, h1] <;> rfl
  · simp [hc, h1] <;> rfl

theorem mem_insertBy {α : Type} (f : α → α → Bool) (x y : α) (xs : List α) : y ∈ insertBy f x xs ↔ y = x ∨ y ∈ xs := by
  induction xs with
  | nil => simp [insertBy]
  | cons a xs ih =>
    unfold insertBy
    split
    · simp
    · simp only [List.mem_cons, ih]
      constructor
      · rintro (h | h | h) <;> simp [h]
      · rintro (h | h | h) <;> simp [h]

theorem mem_sortBy {α : Type} (f : α → α → Bool) (y : α) (xs : List α) : y ∈ sortBy f xs ↔ y ∈ xs := by
  unfold sortBy
  suffices h : ∀ acc, y ∈ xs.foldl (fun acc x => insertBy f x acc) acc ↔ y ∈ acc ∨ y ∈ xs by simpa using h []
  induction xs with
  | nil => simp
  | cons a xs ih =>
    intro acc
    simp only [List.foldl_cons, ih, mem_insertBy, List.mem_cons]
    constructor
    · rintro ((h | h) | h) <;> simp [h]
    · rintro (h | h | h) <;> simp [h]

theorem insertNat_sorted (x : Nat) (xs : List Nat) (h : xs.Pairwise (· ≤ ·)) : (insertBy (fun a b => decide (a < b)) x xs).Pairwise (· ≤ ·) := by
  induction xs with
  | nil => simp [insertBy]
  | cons a xs ih =>
    unfold insertBy
    rw [List.pairwise_cons] at h
    split
    · rename_i hlt
      simp only [decide_eq_true_eq] at hlt
      rw [List.pairwise_cons]
      refine ⟨?_, List.pairwise_cons.mpr h⟩
      intro b hb
      rcases List.mem_cons.mp hb with rfl | hb
      · omega
      · have := h.1 b hb; omega
    · rename_i hlt
      simp only [decide_eq_true_eq] at hlt
      rw [List.pairwise_cons]
      refine ⟨?_, ih h.2⟩
      intro b hb
      rcases (mem_insertBy _ _ _ _).mp hb with rfl | hb
      · omega
      · exact h.1 b hb

theorem sortNat_sorted (xs : List Nat) : (sortNat xs).Pairwise (· ≤ ·) := by
  unfold sortNat sortBy
  suffices h : ∀ acc : List Nat, acc.Pairwise (· ≤ ·) → (xs.foldl (fun acc x => insertBy (fun a b => decide (a < b)) x acc) acc).Pairwise (· ≤ ·) from
    h [] List.Pairwise.nil
  induction xs with
  | nil => intro acc h; exact h
  | cons a xs ih => intro acc h; exact ih _ (insertNat_sorted a acc h)

end Sys2Proof.Machine
end

