-- ==== Sys2Proof/Laws/Stores.lean ====
section
/-!
SUPPORT. The memory cells that a store changes: pokes, device writes, host writes and a core's store.
-/

set_option Elab.async false

namespace Sys2Proof.Machine

theorem clearTags_mem (d : Dev) (k n : Nat) : (d.clearTags k n).mem = d.mem := by
  unfold Dev.clearTags; dsimp only; (repeat' split) <;> rfl

theorem clearTags_locate (d : Dev) (k n pa : Nat) : (d.clearTags k n).locate pa = d.locate pa := by
  unfold Dev.clearTags; dsimp only; (repeat' split) <;> rfl

theorem mem_locate (d : Dev) (m : Memory) (pa : Nat) : ({ d with mem := m } : Dev).locate pa = d.locate pa := rfl

theorem pokeCopy_locate (d : Dev) (w : Who) (b : Byte) (o : Option Nat) (ch a q : Nat) : (d.pokeCopy w b o ch a).locate q = d.locate q := by
  unfold Dev.pokeCopy; dsimp only; split <;> rfl

theorem poke_locate (d : Dev) (w : Who) (pa q : Nat) (b : Byte) : (d.poke w pa b).1.locate q = d.locate q := by
  unfold Dev.poke
  split
  · exact clearTags_locate _ _ _ _
  · rfl
  · rfl
  · rfl
  · exact pokeCopy_locate _ _ _ _ _ _ _
  · dsimp only; rw [pokeCopy_locate, pokeCopy_locate]

/-- Cells of the memory other than those listed read as before, and it stays canonical. -/
def Away (ks : List Nat) (m n : Memory) : Prop := n.wf = true ∧ ∀ key, key ∉ ks → n.get key = m.get key

theorem Away.refl (ks : List Nat) (m : Memory) (h : m.wf = true) : Away ks m m := ⟨h, fun _ _ => rfl⟩

theorem Away.set (ks : List Nat) (m : Memory) (a : Nat) (b : Byte) (h : m.wf = true) (ha : a ∈ ks) : Away ks m (m.set a b) := by
  refine ⟨Memory.set_wf a b h, fun key hk => ?_⟩
  rw [Memory.get_set a key b h, if_neg (fun e => hk (by rw [e]; exact ha))]

theorem Away.trans {ks : List Nat} {m n o : Memory} (h1 : Away ks m n) (h2 : Away ks n o) : Away ks m o :=
  ⟨h2.1, fun key hk => (h2.2 key hk).trans (h1.2 key hk)⟩

theorem Away.mono {ks ls : List Nat} {m n : Memory} (hs : ∀ k ∈ ks, k ∈ ls) (h : Away ks m n) : Away ls m n :=
  ⟨h.1, fun key hk => h.2 key (fun e => hk (hs _ e))⟩

theorem pokeCopy_away (ks : List Nat) (d : Dev) (w : Who) (b : Byte) (o : Option Nat) (ch a : Nat) (h : d.mem.wf = true)
    (hk : Key.dram ch a ∈ ks) : Away ks d.mem (d.pokeCopy w b o ch a).mem := by
  unfold Dev.pokeCopy; dsimp only; split
  · exact Away.set _ _ _ _ h hk
  · exact Away.refl _ _ h
  · exact Away.refl _ _ h

theorem poke_away (d : Dev) (w : Who) (pa : Nat) (b : Byte) (h : d.mem.wf = true) : Away (d.cellsOf pa) d.mem (d.poke w pa b).1.mem := by
  unfold Dev.poke Dev.cellsOf
  cases hl : d.locate pa with
  | sram k => dsimp only; rw [clearTags_mem]; exact Away.set _ _ _ _ h (by simp)
  | bankLost => exact Away.refl _ _ h
  | closed => exact Away.refl _ _ h
  | unmapped => exact Away.refl _ _ h
  | dram ch a mir =>
    cases mir with
    | none => exact pokeCopy_away _ _ _ _ _ _ _ h (by simp)
    | some m =>
      have h1 : Away [Key.dram ch a, Key.dram m.1 m.2] d.mem (d.pokeCopy w b (some m.1) ch a).mem := pokeCopy_away _ _ _ _ _ _ _ h (by simp)
      exact Away.trans h1 (pokeCopy_away _ _ _ _ _ _ _ h1.1 (by simp))

theorem cellsOf_poke (d : Dev) (w : Who) (pa q : Nat) (b : Byte) : (d.poke w pa b).1.cellsOf q = d.cellsOf q := by
  unfold Dev.cellsOf; rw [poke_locate]

theorem pokes_away (w : Who) (bs : Bytes) : ∀ (d : Dev) (pa : Nat), d.mem.wf = true →
    Away ((List.range bs.length).flatMap (fun j => d.cellsOf (pa + j))) d.mem (d.pokes w pa bs).1.mem := by
  induction bs with
  | nil => intro d pa h; exact Away.refl _ _ h
  | cons b bs ih =>
    intro d pa h
    unfold Dev.pokes
    have h1 := poke_away d w pa b h
    have h2 := ih (d.poke w pa b).1 (pa + 1) h1.1
    simp only [cellsOf_poke] at h2
    refine Away.trans (h1.mono ?_) (h2.mono ?_)
    · intro k hk
      simp only [List.mem_flatMap, List.mem_range, List.length_cons]
      exact ⟨0, by omega, hk⟩
    · intro k hk
      simp only [List.mem_flatMap, List.mem_range, List.length_cons] at hk ⊢
      obtain ⟨j, hj, hk⟩ := hk
      exact ⟨j + 1, by omega, by rw [show pa + (j + 1) = pa + 1 + j by omega]; exact hk⟩

theorem setChan_mem (d : Dev) (ch : Nat) (x : Chan) : (d.setChan ch x).mem = d.mem := rfl

theorem setChan_locate (d : Dev) (ch : Nat) (x : Chan) (q : Nat) : (d.setChan ch x).locate q = d.locate q := rfl

theorem heal_same (d : Dev) (pa : Nat) : (d.healBlock pa).mem = d.mem ∧ ∀ q, (d.healBlock pa).locate q = d.locate q := by
  unfold Dev.healBlock
  split
  · dsimp only
    (repeat' split) <;> exact ⟨rfl, fun _ => rfl⟩
  · exact ⟨rfl, fun _ => rfl⟩

theorem heals_same (l : List Nat) : ∀ d : Dev, (l.foldl (fun (d : Dev) a => d.healBlock a) d).mem = d.mem ∧
    ∀ q, (l.foldl (fun (d : Dev) a => d.healBlock a) d).locate q = d.locate q := by
  induction l with
  | nil => intro d; exact ⟨rfl, fun _ => rfl⟩
  | cons a l ih =>
    intro d
    rw [List.foldl_cons]
    have h := heal_same d a
    have g := ih (d.healBlock a)
    exact ⟨g.1.trans h.1, fun q => (g.2 q).trans (h.2 q)⟩

theorem writePA_away (d : Dev) (w : Who) (pa : Nat) (bs : Bytes) (h : d.mem.wf = true) :
    Away ((List.range bs.length).flatMap (fun j => d.cellsOf (pa + j))) d.mem (d.writePA w pa bs).1.mem := by
  unfold Dev.writePA
  dsimp only
  generalize hl : List.filter _ _ = l
  have g := heals_same l d
  have := pokes_away w bs (l.foldl (fun (d : Dev) a => d.healBlock a) d) pa (by rw [g.1]; exact h)
  simp only [Dev.cellsOf, g.2] at this
  rw [g.1] at this
  exact this

theorem onePage (va n : Nat) (h0 : 0 < n) (h : va % 4096 + n ≤ 4096) : pagesOf va n = [(va, n)] := by
  unfold pagesOf
  have hp : ∀ f, pieces (va + n) f 0 = [] := by intro f; cases f <;> rfl
  rw [pieces, if_neg (by omega)]
  dsimp only
  have : min n (4096 - va % 4096) = n := by omega
  rw [this, Nat.sub_self, hp]

theorem writeInst_away (d : Dev) (c : CoreSt) (w : Who) (i va : Nat) (bs : Bytes) (h : d.mem.wf = true) (h0 : 0 < bs.length) (hpg : va % 4096 + bs.length ≤ 4096) :
    Away (match d.translate i va w.tlb true with
      | .dev pa => (List.range bs.length).flatMap (fun j => d.cellsOf (pa + j))
      | .host port sp hh => (List.range bs.length).map (fun j => Key.host port sp (hh + j))
      | _ => []) d.mem (d.writeInst c w i va bs).1.mem := by
  unfold Dev.writeInst
  cases hc : d.checkInst w i va bs.length true with
  | some f => exact Away.refl _ _ h
  | none =>
    rw [onePage _ _ h0 hpg]
    simp only [List.foldl_cons, List.foldl_nil, Nat.sub_self]
    have hs : slice bs 0 bs.length = bs := by simp [slice]
    cases ht : d.translate i va w.tlb true with
    | dev pa =>
      dsimp only
      rw [hs]
      have := writePA_away ((d.walkRequests c i va).acceptRange c true w.cls pa bs.length) { w with va := va } pa bs (by simpa using h)
      simp only [Dev.cellsOf, Dev.locate_acceptRange, Dev.locate_walkRequests, Dev.acceptRange_mem, Dev.walkRequests_mem] at this
      exact this
    | host port sp hh =>
      dsimp only
      rw [hs]
      refine ⟨Memory.setN_wf bs _ h, fun key hk => ?_⟩
      refine Memory.get_setN_ne bs _ _ h ?_
      simp only [List.mem_map, List.mem_range, not_exists, not_and] at hk
      by_cases c1 : key < Key.host port sp hh
      · exact Or.inl c1
      · by_cases c2 : Key.host port sp hh + bs.length ≤ key
        · exact Or.inr c2
        · exfalso
          refine hk (key - Key.host port sp hh) (by omega) ?_
          unfold Key.host at *
          omega
    | viol r hh => exact Away.refl _ _ h
    | hostDown => exact Away.refl _ _ h

theorem coreStoreInst_mem (d : Dev) (c : CoreSt) (p : Nat) (x : Cap) (reg a : Nat) (bs : Bytes) :
    (d.coreStoreInst c p x reg a bs).1.mem = d.mem ∨ (d.coreStoreInst c p x reg a bs).1.mem = (d.writeInst c (d.galleryWho p) x.inst a bs).1.mem := by
  unfold Dev.coreStoreInst
  dsimp only
  split
  · exact Or.inl (by simp)
  · split
    · rename_i d' hd; rw [hd]; exact Or.inr rfl
    · rename_i d' f hd
      rw [hd]
      exact Or.inr (by simp)

theorem advance_mem (d : Dev) (p : Nat) : (d.advance p).mem = d.mem := rfl

theorem localWrite_mem (d : Dev) (p a : Nat) (bs : Bytes) : (d.localWrite p a bs).mem = d.mem.setN (Key.localStore p a) bs := by
  unfold Dev.localWrite; rw [clearTags_mem]

theorem store_core (s t : State) (p : Fin 136) (k : Gallery) (c : BitVec 4) (x : Cap) (off : MemOff) (bs : Bytes) (tag : Option Bool) (a : Nat)
    (hi : Issues s p) (hk : s.dev.core p.val = k) (hx : k.getC c.toNat = x) (ha : a = x.base + k.offset off) (hm : s.memOk)
    (h0 : 0 < bs.length) (hal : a % bs.length = 0) (h16 : bs.length = 1 ∨ bs.length = 2 ∨ bs.length = 4 ∨ bs.length = 8 ∨ bs.length = 16)
    (hc : capCheck x c.toNat (2 ^ Perm.store + (if x.space = 0 ∧ tag = some true then 2 ^ Perm.storeCap else 0)) (k.offset off) bs.length bs.length = none)
    (hl : x.space = 0 → a + bs.length ≤ Config.localBytes) (h1 : x.space = 1 → (s.dev.coreStoreInst s.core p.val x c.toNat a bs).2 = none)
    (h2 : x.space ≠ 2) (h : s.onDev (fun c' dv => dv.instr c' p.val (fun k dv => storeInstr c' p.val c.toNat off bs tag k dv)) = .next t) :
    (∀ key, key ∉ s.storeCells p x a bs.length → t.dev.mem.get key = s.dev.mem.get key) ∧
    (x.space = 0 → t.dev.mem.getN (Key.localStore p.val a) bs.length = bs) := by
  subst hk hx ha
  rw [s.onDev_of_on _ hi.1] at h
  have hpg : ((s.dev.core p.val).getC c.toNat |>.base) + (s.dev.core p.val).offset off = (((s.dev.core p.val).getC c.toNat).base + (s.dev.core p.val).offset off) := rfl
  generalize hxx : (s.dev.core p.val).getC c.toNat = x at *
  generalize haa : x.base + (s.dev.core p.val).offset off = a at *
  have hb : ∃ d, storeInstr s.core p.val c.toNat off bs tag (s.dev.core p.val) s.dev = .done d ∧
      Away (s.storeCells p x a bs.length) s.dev.mem d.mem ∧ (x.space = 0 → d.mem.getN (Key.localStore p.val a) bs.length = bs) := by
    unfold storeInstr
    dsimp only
    rw [hxx, haa, hc]
    dsimp only
    unfold State.storeCells
    cases hs : x.space with
    | zero =>
      simp only []
      rw [if_pos (hl hs)]
      have hw : Away ((List.range bs.length).map (fun j => Key.localStore p.val (a + j))) s.dev.mem (s.dev.mem.setN (Key.localStore p.val a) bs) := by
        refine ⟨Memory.setN_wf bs _ hm, fun key hk => ?_⟩
        refine Memory.get_setN_ne bs _ _ hm ?_
        simp only [List.mem_map, List.mem_range, not_exists, not_and] at hk
        by_cases c1 : key < Key.localStore p.val a
        · exact Or.inl c1
        · by_cases c2 : Key.localStore p.val a + bs.length ≤ key
          · exact Or.inr c2
          · exfalso
            refine hk (key - Key.localStore p.val a) (by omega) ?_
            unfold Key.localStore at *
            omega
      have hr : (s.dev.mem.setN (Key.localStore p.val a) bs).getN (Key.localStore p.val a) bs.length = bs := Memory.getN_setN bs _ hm
      split
      · refine ⟨_, rfl, ?_, fun _ => ?_⟩
        · show Away _ _ (s.dev.localWrite p.val a bs).mem
          rw [localWrite_mem]; exact hw
        · show (s.dev.localWrite p.val a bs).mem.getN _ _ = _
          rw [localWrite_mem]; exact hr
      · refine ⟨_, rfl, ?_, fun _ => ?_⟩
        · rw [localWrite_mem]; exact hw
        · rw [localWrite_mem]; exact hr
    | succ n =>
      cases n with
      | zero =>
        simp only []
        have hn := h1 hs
        have hp4 : a % 4096 + bs.length ≤ 4096 := by
          rcases h16 with h | h | h | h | h <;> rw [h] at hal ⊢ <;> omega
        have hw := writeInst_away s.dev s.core (s.dev.galleryWho p.val) x.inst a bs hm h0 hp4
        have hst : Away (match s.dev.translate x.inst a (s.dev.galleryWho p.val).tlb true with
            | .dev pa => (List.range bs.length).flatMap (fun j => s.dev.cellsOf (pa + j))
            | .host port sp hh => (List.range bs.length).map (fun j => Key.host port sp (hh + j))
            | _ => []) s.dev.mem (s.dev.coreStoreInst s.core p.val x c.toNat a bs).1.mem := by
          rcases coreStoreInst_mem s.dev s.core p.val x c.toNat a bs with e | e
          · rw [e]; exact Away.refl _ _ hm
          · rw [e]; exact hw
        cases hcs : s.dev.coreStoreInst s.core p.val x c.toNat a bs with
        | mk d o =>
          rw [hcs] at hn hst
          subst hn
          exact ⟨d, rfl, hst, fun e => by cases e⟩
      | succ n =>
        cases n with
        | zero => exact absurd hs h2
        | succ n =>
          simp only []
          refine ⟨_, rfl, ⟨?_, fun key _ => ?_⟩, fun e => by cases e⟩
          · rw [Dev.postError_mem]; exact hm
          · rw [Dev.postError_mem]
  obtain ⟨d, hd, haw, hrd⟩ := hb
  rw [Dev.instr_done s p _ d hi hd] at h
  cases h
  exact ⟨haw.2, hrd⟩

end Sys2Proof.Machine
end

