-- ==== Sys2Proof/WellFormed.lean ====
section
/-!
DEFINITION. Well-formed commands: what the operand types of a command do not already say about its operands. Most operands are bit
vectors or bounded numbers of the field's width, so most commands are always well formed.
-/

namespace Sys2Proof

/-- A UART frame (R569): from 10 bytes, an empty payload's, to the 4,114 of a DATA frame. -/
def frameWf (frame : Bytes) : Bool := decide (10 ≤ frame.length) && decide (frame.length ≤ 4114)

/-- A percentage of spares left (SAF_RESERVE). -/
def pctWf (left : Option (BitVec 8)) : Bool :=
  match left with
  | some p => decide (p.toNat ≤ 100)
  | none => true

/-- Is a command well formed: key and identifier lengths (R498, R574), the access sizes of R578, one reading for each sensor (R547) and one
report for each annex channel (R51), an SSD's 20-byte serial number (R418), frame and message lengths (R569, R571), percentages? -/
def Instr.wf (i : Instr) : Bool :=
  match i with
  | .pwrgoodRise _ => true
  | .pwrgoodFall => true
  | .pfailNFall => true
  | .dumpComplete _ _ => true
  | .pfailNRise => true
  | .dumpInvalidate => true
  | .dumpReplay => true
  | .dumpActionReplay _ => true
  | .dumpActionDiscard _ => true
  | .romPassDone r => decide (r.sramPct.toNat ≤ 100) && decide (r.dramPct.toNat ≤ 100)
  | .configureRecordsDone r => decide (r.annex.length = 8)
  | .configureComplete _ => true
  | .devResetCold _ _ => true
  | .devResetWarm _ _ => true
  | .devResetRegistrar _ _ => true
  | .quiesce _ => true
  | .resume _ => true
  | .enterRecovery _ => true
  | .drainComplete => true
  | .drainTimeout => true
  | .holdTimeout => true
  | .maintenanceComplete => true
  | .hostPortReset _ _ => true
  | .hostLinkUp _ _ _ _ => true
  | .functionReset _ _ => true
  | .pcieConfigRequest _ _ _ => true
  | .atsInvalidation _ _ => true
  | .thermalTrip _ => true
  | .sysrefLost => true
  | .sqDoorbell _ _ _ => true
  | .cqDoorbell _ _ _ => true
  | .xqEnable _ => true
  | .xqReady _ => true
  | .controllerReset _ => true
  | .fetchTurn _ => true
  | .entryFetched _ => true
  | .adminBusyTimeout _ _ => true
  | .read _ => true
  | .write _ => true
  | .flush _ => true
  | .deallocate _ => true
  | .ouAdmit _ => true
  | .writeInsert _ => true
  | .readDataTaken _ _ => true
  | .drainStep _ => true
  | .createQueue _ => true
  | .deleteQueue _ => true
  | .identify _ => true
  | .logRead _ => true
  | .counterRead _ => true
  | .traceConfig _ => true
  | .pipelineLoad _ => true
  | .pipelineRun _ => true
  | .pipelineCancel _ => true
  | .resultRead _ => true
  | .docentDecision => true
  | .docTcancel _ _ => true
  | .taskdone _ _ _ => true
  | .cancelTimeout _ => true
  | .shareEpoch => true
  | .ledgerVerdict _ _ => true
  | .taskCancel _ => true
  | .takeEvent _ => true
  | .dispatchMessage _ => true
  | .galleryWakeDone _ => true
  | .galleryPark _ => true
  | .postedWriteError _ _ _ => true
  | .integerAlu _ _ _ _ _ _ => true
  | .multiplyDivide _ _ _ _ _ _ => true
  | .bitManipulation _ _ _ _ _ => true
  | .integerLoad _ _ _ _ _ _ => true
  | .integerStore _ _ _ _ _ => true
  | .ldc _ _ _ _ => true
  | .stc _ _ _ _ => true
  | .atomic _ _ _ _ _ => true
  | .cwindow _ _ _ _ => true
  | .ckeep _ _ _ _ => true
  | .ccopy _ _ _ => true
  | .cstrip _ _ _ => true
  | .cinst _ _ _ _ _ => true
  | .cbind _ _ _ _ _ => true
  | .cunbind _ _ _ _ _ => true
  | .capInspect _ _ _ _ => true
  | .branch _ _ _ _ _ => true
  | .jump _ _ _ => true
  | .jc _ _ _ => true
  | .jcl _ _ _ _ _ => true
  | .ccrr _ _ _ _ => true
  | .ccrw _ _ _ _ => true
  | .ccrrc _ _ _ _ => true
  | .ccrwc _ _ _ _ => true
  | .eret _ => true
  | .fence _ => true
  | .wfe _ => true
  | .sleep _ _ => true
  | .trap _ _ => true
  | .brk _ => true
  | .setvl _ _ _ _ => true
  | .vsetsc _ _ => true
  | .vrdstate _ _ _ => true
  | .vwake _ => true
  | .vectorAlu _ _ _ _ _ _ _ _ => true
  | .vectorWidenMultiply _ _ _ _ _ _ _ => true
  | .vdot4b _ _ _ _ _ _ _ => true
  | .vdot2h _ _ _ _ _ _ _ => true
  | .vdot2w _ _ _ _ _ _ _ => true
  | .vectorCompare _ _ _ _ _ _ => true
  | .vectorReduction _ _ _ _ _ _ _ => true
  | .vcpop _ _ _ => true
  | .vcompress _ _ _ _ => true
  | .vexpand _ _ _ _ => true
  | .vectorPermute _ _ _ _ _ _ => true
  | .vcx _ _ _ _ _ _ _ => true
  | .vhcrc _ _ _ _ _ => true
  | .vhmul _ _ _ _ => true
  | .vectorMove _ _ _ _ _ => true
  | .vdadd _ _ _ _ _ => true
  | .vdsub _ _ _ _ _ => true
  | .vdmul _ _ _ _ _ => true
  | .vddiv _ _ _ _ _ => true
  | .vdrescale _ _ _ _ => true
  | .vdmin _ _ _ _ _ => true
  | .vdmax _ _ _ _ _ => true
  | .vdcmp _ _ _ _ _ _ => true
  | .vdfromi _ _ _ _ => true
  | .vlacc _ _ _ _ => true
  | .vlacci _ _ _ _ => true
  | .vladd _ _ _ _ _ => true
  | .vlnarrow _ _ _ _ => true
  | .vlred _ _ _ _ => true
  | .vld _ _ _ _ _ _ => true
  | .vst _ _ _ _ _ _ => true
  | .vgath _ _ _ _ _ _ _ => true
  | .vscat _ _ _ _ _ _ _ => true
  | .svAlu _ _ _ _ _ _ _ _ => true
  | .svMultiply _ _ _ _ _ _ _ _ _ => true
  | .svCompare _ _ _ _ _ _ => true
  | .svHash _ _ _ _ _ => true
  | .svLoadStore _ _ _ _ _ => true
  | .lvuPowerOff _ => true
  | .lvuWakeDone _ => true
  | .sflSubmit _ _ _ => true
  | .sflGet _ _ _ => true
  | .sflAbort _ _ _ => true
  | .sflDescriptorStart _ => true
  | .sflRowgroupEval _ => true
  | .sflWriteError _ _ _ => true
  | .excSend _ _ => true
  | .excSendResume _ _ => true
  | .excAllocTimeout _ => true
  | .excNext _ _ => true
  | .excPublish => true
  | .excVoid => true
  | .excRelease => true
  | .excRunEnd => true
  | .catSearchPort _ _ => true
  | .catBatchClose _ _ => true
  | .catPassSlot => true
  | .catalogueBatch _ => true
  | .searchFirst _ => true
  | .searchAll _ => true
  | .append _ => true
  | .insert _ => true
  | .catWrite _ => true
  | .delete _ => true
  | .catRead _ => true
  | .clear _ => true
  | .catGroupEnable _ _ _ => true
  | .catGroupDisable _ _ _ => true
  | .catDisableEffect _ => true
  | .catRefillDone _ => true
  | .folSubmit _ _ => true
  | .folAppend _ _ => true
  | .folAbort _ _ => true
  | .folDescriptorStart _ => true
  | .folStrip _ => true
  | .folTaskNotice => true
  | .folWriteError _ _ _ => true
  | .folRoleWrite _ _ _ => true
  | .dmaSubmit _ _ => true
  | .dmaAppend _ _ => true
  | .dmaAbort _ _ => true
  | .cqCfg _ _ => true
  | .cqHead _ _ => true
  | .dmaDescriptorStart _ => true
  | .dmaTransfer _ => true
  | .dmaRecordPost _ => true
  | .dmaHostError _ _ _ => true
  | .dmaTaskNotice => true
  | .dmaWriteError _ => true
  | .evtRaisePort _ _ => true
  | .evtClaim _ _ => true
  | .evtRaise _ _ => true
  | .evtRouteWrite _ _ _ => true
  | .evtPendWithdraw _ _ _ => true
  | .evtCoalWrite _ _ _ => true
  | .evtHoldWrite _ _ => true
  | .msixTableWrite _ _ _ _ => true
  | .eventRaise _ _ => true
  | .evtArbiterCycle => true
  | .evtCoalTimeout _ => true
  | .evtTaskNotice _ => true
  | .evtFenceNotice _ => true
  | .digestOpen _ => true
  | .digestUpdate _ => true
  | .digestSave _ => true
  | .digestRestore _ => true
  | .digestClose _ => true
  | .prvLaneBlock _ => true
  | .prvCompareDone _ _ => true
  | .prvOpenResume => true
  | .prvTaskNotice => true
  | .memRequestIssue _ => true
  | .memReadReturn _ _ _ => true
  | .memChannelRelease _ => true
  | .memReleaseTimeout _ => true
  | .memAgePromote _ _ => true
  | .memRefreshDue _ => true
  | .memTempSample _ _ _ => true
  | .memRhWindow _ => true
  | .patrolScrub _ _ _ => true
  | .sppr _ _ left => pctWf left
  | .memSetMapWrite _ _ _ => true
  | .ssdLinkUp _ _ _ => true
  | .ssdIdentifyDone _ info => decide (info.serial.length = 20)
  | .ssdRemoval _ => true
  | .nvmeCompletion _ _ _ => true
  | .nvmeTimeout _ _ => true
  | .nvmeAbortTimeout _ _ => true
  | .ssdReadyTimeout _ => true
  | .assembleTimeout => true
  | .rebuildStripe _ _ => true
  | .roleReqSpare _ _ => true
  | .roleReqFree _ _ => true
  | .wipeLabel _ _ => true
  | .volumeCreate _ => true
  | .volumeDelete _ => true
  | .formatVolume _ => true
  | .sanitise _ => true
  | .maintenanceStep _ _ => true
  | .instanceCreate _ => true
  | .instanceShare _ => true
  | .instanceFreeze _ => true
  | .freezeDrainDone _ => true
  | .freezeTimeout _ => true
  | .instanceExport _ => true
  | .instanceImport _ => true
  | .instanceDestroy _ => true
  | .map _ _ => true
  | .unmap _ _ => true
  | .setPasid _ _ => true
  | .tlbInvalAck _ => true
  | .faultReport _ => true
  | .reserveSwap _ => true
  | .checkerInject _ => true
  | .injectTimeout _ => true
  | .testClaim _ => true
  | .testLate _ => true
  | .structuralTestDone _ _ left => pctWf left
  | .unitRetest _ _ => true
  | .registrarHeartbeat => true
  | .heartbeatTimeout => true
  | .watchdogKick => true
  | .watchdogTimeout => true
  | .laneFail _ _ => true
  | .flitParityError _ _ => true
  | .returnPrepare _ _ => true
  | .canaryLoop _ => true
  | .railSample _ _ _ => true
  | .powerEvaluation r => decide (r.groups.length = 19) && decide (r.galleries.length = 136)
  | .pwrCapWrite _ _ => true
  | .fwPiece _ => true
  | .fwCommit _ => true
  | .fwActivate _ => true
  | .fwConfirm _ => true
  | .settingsSave _ => true
  | .settingsClear _ => true
  | .recoveryGo _ _ _ => true
  | .recoveryFinish _ _ => true
  | .uartData frame => frameWf frame
  | .uartFinish frame => frameWf frame
  | .uartSpeed frame => frameWf frame
  | .i3cDynamicAddress _ => true
  | .setEndpointId _ _ _ => true
  | .getEndpointId _ => true
  | .getMctpVersionSupport _ => true
  | .getMessageTypeSupport _ => true
  | .getEndpointUuid _ => true
  | .gettid _ => true
  | .settid _ _ => true
  | .getpldmversion _ _ => true
  | .getpldmtypes _ => true
  | .getpldmcommands _ _ => true
  | .getpdr _ _ => true
  | .getsensorreading _ _ => true
  | .getstatesensorreadings _ _ => true
  | .setnumericeffectervalue _ _ _ => true
  | .setstateeffecterstates _ _ => true
  | .querydeviceidentifiers _ => true
  | .getfirmwareparameters _ => true
  | .requestupdate _ version _ => decide (version.length ≤ 255)
  | .passcomponenttable _ => true
  | .updatecomponent _ => true
  | .requestfirmwaredata _ data => decide (data.length ≤ 4224)
  | .transfercomplete _ => true
  | .verifycomplete _ => true
  | .applycomplete _ => true
  | .activatefirmware _ _ => true
  | .getstatus _ => true
  | .cancelupdatecomponent _ => true
  | .cancelupdate _ => true
  | .spdmRequest _ msg => decide (msg.length ≤ 4224)
  | .managerClaim _ keyHash => decide (keyHash.length = 48)
  | .migkeyInstall keyHash key keyId => decide (keyHash.length = 48) && decide (key.length = 32) && decide (keyId.length = 16)
  | .counterWrite _ _ _ => true
  | .registerWrite _ _ size _ => decide (size ∈ [1, 2, 4, 8])
  | .perstNDeassert _ => true
  | .registrarRestartDone => true
  | .linkRetrainDone _ => true
  | .uartSpeedChange => true
  | .safAgeUpdate _ => true
  | .unassignedInstruction _ => true

end Sys2Proof
end

