-- ==== Sys2Proof/Tests/Slice0.lean ====
section
/-!
SUPPORT. Tests of the model: small states, a concrete state and operands for the hypotheses of every statement (theorems wit_<statement>_<n>), a term that
WellFormed refuses for each of its checks, and single steps whose results stand in the spec.
-/

set_option Elab.async false

namespace Sys2Proof.Tests

open Sys2Proof Sys2Proof.Machine

/-- SERVICE, with the manager role at host port 0. -/
def up : State := { core := { mode := .service, prev := .configure, served := true }, dev := { ins := { holder := some 0 } }, pending := [] }

/-- The same with the blocks changed. -/
def upWith (f : Dev → Dev) : State := { up with dev := f up.dev }

/-- A state in one mode. -/
def inMode (m : Mode) : State := { up with core := { up.core with mode := m } }

/-- A dump with one block of volume 0. -/
def aDump : Dump := { flagged := false, valid := true, blocks := [], left := [0] }

/-- A queue pair of 64 entries. -/
def aPair : Pair := { size := 64, sq := 0x1000, cq := 0x2000, sqTail := 2, posted := 3, cqTail := 3 }

/-- Instance 0 with an admin pair, its queues ready, on a port whose link is up. -/
def queued : State := upWith (fun d => (((d.setPort 0 { linkUp := true, perstLow := false }).setPair 0 0 aPair).setFlag
  (R.xqWCsts 0) 0 true))

/-- An unstarted command of the admin pair, and its reference. -/
def adminCmd (op : Nat) (area : Bytes) : Cmd := { inst := 0, pair := 0, cid := 9, op := op, area := area }
def adminRef : CmdRef := { inst := 0, pair := 0, cid := 9 }

/-- `queued` with that command fetched. -/
def withAdmin (op : Nat) (area : Bytes) : State := queued.withDev { queued.dev with xq := { queued.dev.xq with cmds := [adminCmd op area] } }

/-- An unstarted command of pair 1 of instance 0, and its reference. -/
def ioCmd (op : Nat) (area : Bytes) : Cmd := { inst := 0, pair := 1, cid := 9, op := op, area := area }
def ioRef : CmdRef := { inst := 0, pair := 1, cid := 9 }

/-- Instance 0 with one 1 GiB page mapped at address 0: a page of port 0's host memory, or the Atrium store. -/
def mapping (host : Bool) (d : Dev) : Dev :=
  { d.setInst 0 { d.inst 0 with root := some 0x1000 } with
    mem := ((((d.mem.set 0x1000 0x01).set 0x1001 0x20).set 0x2000 (if host then 0x3D else 0x1D))) }

/-- `queued` with a page mapped and a volume 0 of instance 0 on three SSDs. -/
def aVol : Vol := { owner := 0, level := 0, elem := 0, blocks := 1024, start := 256, gen := 1, key1 := [], key2 := [],
                    members := [some 0, some 1, some 2], online := true }
def stored (ou : List OuCmd) (cmds : List Cmd) (f : Dev → Dev) : State :=
  queued.withDev (f ((mapping true { queued.dev with xq := { queued.dev.xq with ou := ou, cmds := cmds } }).setVol 0 aVol))

/-- Bytes from an address on, in canonical form. -/
def cells (a : Nat) : Bytes → Memory
  | [] => []
  | b :: bs => if b = 0 then cells (a + 1) bs else (a, b) :: cells (a + 1) bs

/-- Galleries released, the core of physical gallery 0 at `k`. -/
def coreAt (k : Gallery) (f : Dev → Dev) : State :=
  upWith (fun d => f ({ d with gals := { d.gals with released := true } }.setCore 0 k))

/-- A VBCC that takes every exception, a PCC over all of local store. -/
def handlers : Cap := { tag := true, space := 0, perms := 0x04, len := 0x200000 }
def aCore : Gallery := { vbcc := handlers, pcc := handlers, pc := 0x1000 }

/-- The core of physical gallery 0 about to issue an instruction, with registers 1 and 2 set. -/
def issuing (f : Gallery → Gallery) (g : Dev → Dev) : State := coreAt (f ((aCore.setG 1 7).setG 2 3)) g

/-- A run of one task that logical gallery 0 runs. -/
def run1 : Run := { inst := 0, runId := 5, slot := 2, prio := 0, contexts := 1, expanded := 1, tasks := [(0, { st := .running, gal := some 0, cancelReq := true })] }
def withRun (d : Dev) : Dev := { d with doc := { d.doc with runs := [(0, run1)], task := [(0, (0, 0))], programs := [(2, { addr := 0, bytes := 128 })] } }

/-! ### WellFormed refuses an ill-formed term for each of its checks -/

/-- `n` zero bytes. -/
def zeros (n : Nat) : Bytes := List.replicate n 0

def goodRom : RomReport := { fatal := none, galleries := [], catBanks := [], atriumBanks := [], lanes := [], repairs := [], sramPct := 100, dramPct := 100 }

theorem test_wf_rom : (Instr.romPassDone goodRom).wf = true ∧ (Instr.romPassDone { goodRom with sramPct := 101 }).wf = false ∧
    (Instr.romPassDone { goodRom with dramPct := 101 }).wf = false := by decide
theorem test_wf_configure : (Instr.configureRecordsDone { annex := [] }).wf = false := by decide
theorem test_wf_spares : (Instr.sppr 0 0 (some 101)).wf = false ∧ (Instr.sppr 0 0 (some 100)).wf = true ∧
    (Instr.structuralTestDone 0 true (some 101)).wf = false ∧ (Instr.structuralTestDone 0 true none).wf = true := by decide
theorem test_wf_serial : (Instr.ssdIdentifyDone 0 { capacity := 0, pct := 100, serial := zeros 19, fourK := true }).wf = false ∧
    (Instr.ssdIdentifyDone 0 { capacity := 0, pct := 100, serial := zeros 20, fourK := true }).wf = true := by decide
theorem test_wf_sensors : (Instr.powerEvaluation { groups := List.replicate 18 0, galleries := List.replicate 136 0 }).wf = false ∧
    (Instr.powerEvaluation { groups := List.replicate 19 0, galleries := List.replicate 135 0 }).wf = false := by decide
theorem test_wf_sizes : (Instr.registerWrite .management 0 3 0).wf = false ∧ (Instr.registerWrite .management 0 8 0).wf = true := by decide
theorem test_wf_keys : (Instr.managerClaim 0 (zeros 47)).wf = false ∧ (Instr.migkeyInstall (zeros 47) (zeros 32) (zeros 16)).wf = false ∧
    (Instr.migkeyInstall (zeros 48) (zeros 31) (zeros 16)).wf = false ∧ (Instr.migkeyInstall (zeros 48) (zeros 32) (zeros 15)).wf = false ∧
    (Instr.migkeyInstall (zeros 48) (zeros 32) (zeros 16)).wf = true := by decide
theorem test_wf_frames : (Instr.uartData (zeros 9)).wf = false ∧ (Instr.uartFinish (zeros 9)).wf = false ∧ (Instr.uartSpeed (zeros 9)).wf = false ∧
    (Instr.uartData (zeros 10)).wf = true := by decide
theorem zeros_length (n : Nat) : (zeros n).length = n := List.length_replicate
theorem test_wf_frame_longest : (Instr.uartData (zeros 4115)).wf = false := by
  show (decide (10 ≤ (zeros 4115).length) && decide ((zeros 4115).length ≤ 4114)) = false
  rw [zeros_length]; rfl
theorem test_wf_version : (Instr.requestupdate .smbus (zeros 256) 0).wf = false := by
  show decide ((zeros 256).length ≤ 255) = false
  rw [zeros_length]; rfl
theorem test_wf_data : (Instr.requestfirmwaredata .smbus (zeros 4225)).wf = false := by
  show decide ((zeros 4225).length ≤ 4224) = false
  rw [zeros_length]; rfl
theorem test_wf_message : (Instr.spdmRequest (.doe 0) (zeros 4225)).wf = false := by
  show decide ((zeros 4225).length ≤ 4224) = false
  rw [zeros_length]; rfl

/-! ### Values that stand in the spec -/

/-- DEV_ID (R65): PART 0x0384, STEPPING 0xA0, PKG_REV 1. -/
theorem test_dev_id : State.reset.dev.reg R.devId = 0x0384A001 := by decide
/-- The mode after a power-on reset is ROM (R33), and DEV_TIME is zero (R15). -/
theorem test_reset_mode : State.reset.core.mode = .rom ∧ State.reset.core.time = 0 ∧ State.reset.pending = [] := by decide
/-- zigzag (R283): -1 is stored as 1, -128 of 8 bits as 255. -/
theorem test_zigzag : zigzag 8 0xFF = 1 ∧ zigzag 8 0x80 = 0xFF ∧ unzigzag 8 1 = 0xFF := by decide
/-- HALF_EVEN (R91): 2.5 to 2, 3.5 to 4; HALF_AWAY: -2.5 to -3; TRUNCATE: -2.9 to -2. -/
theorem test_rounding : rescaleRaw 0 1 0 25 = some 2 ∧ rescaleRaw 0 1 0 35 = some 4 ∧ rescaleRaw 1 1 0 (-25) = some (-3) ∧
    rescaleRaw 2 1 0 (-29) = some (-2) := by decide
/-- The check value of CRC-32C over the nine digits 1 to 9, as published for the polynomial that R66 names. -/
theorem test_crc32c : crc32c [0x31, 0x32, 0x33, 0x34, 0x35, 0x36, 0x37, 0x38, 0x39] = 0xE3069283 := by decide +kernel
/-- SHA-384 of "abc" (FIPS 180-4's example). -/
theorem test_sha384 : (sha384 [0x61, 0x62, 0x63]).take 8 = [0xCB, 0x00, 0x75, 0x3F, 0x45, 0xA3, 0x5E, 0x8B] := by decide +kernel
/-- AES-256 on one block (FIPS 197, C.3). -/
theorem test_aes256 : aesEncryptBlock (roundKeys (List.range 32)) ((List.range 16).map (fun i => 17 * i)) =
    [0x8E, 0xA2, 0xB7, 0xCA, 0x51, 0x67, 0x45, 0xBF, 0xEA, 0xFC, 0x49, 0x90, 0x4B, 0x49, 0x60, 0x89] := by decide +kernel
/-- Values packed with the lowest bit first (R75): 1, 2, 3 in 3 bits each are the bytes 0xD1, 0x00. -/
theorem test_packed : unpackBits 3 3 [0xD1, 0x00] = [1, 2, 3] := by decide

/-! ### Single steps -/

/-- What a step answers, read through `f`; nothing where it stops. -/
def after {α : Type} (s : State) (c : Instr) (f : State → α) : Option α :=
  match step { s with pending := [c] } with
  | .next t => some (f t)
  | _ => none

/-- R33, R35: QUIESCE in SERVICE. -/
theorem test_quiesce : after up (.quiesce .management) (fun t => (t.core.mode, t.core.prev)) = some (.quiesced, .service) := by decide
/-- R33: PWRGOOD falls in any mode. -/
theorem test_pwrgood_fall : after up .pwrgoodFall (fun t => (t.core.mode, t.core.prev)) = some (.off, .service) := by decide
/-- R10, R58: PWRGOOD falls while the dump is written. -/
theorem test_pwrgood_fall_dumping : step { up with core := { up.core with dumping := true }, pending := [.pwrgoodFall] } = .fault .integratorBreach := rfl
/-- R317: ADD wraps without TRAP, and with it takes ARITH_OVERFLOW (R320). -/
theorem test_add : after (issuing (fun k => k.setG 1 0xFFFFFFFFFFFFFFFF) id) (.integerAlu 0 .addU false 4 1 (.reg 2)) (fun t => ((t.dev.core 0).getG 4, (t.dev.core 0).pc)) =
    some (2, 0x1004) := by decide
theorem test_add_traps : after (issuing (fun k => k.setG 1 0x7FFFFFFFFFFFFFFF) id) (.integerAlu 0 .add true 4 1 (.reg 2))
    (fun t => (fld (t.dev.core 0).ecause 5 0, (t.dev.core 0).epc, (t.dev.core 0).getG 4)) = some (0x09, 0x1000, 0) := by decide
/-- R319: a branch counts words from its own offset; JUMP with LINK writes g31. -/
theorem test_branch : after (issuing id id) (.branch 0 .ltU 2 1 3) (fun t => (t.dev.core 0).pc) = some 0x100C := by decide
theorem test_jump_link : after (issuing id id) (.jump 0 true 4) (fun t => ((t.dev.core 0).pc, (t.dev.core 0).getG 31)) = some (0x1010, 0x1004) := by decide
/-- R322: BRK enters the shadow bank at 16 times its cause. -/
theorem test_brk : after (issuing id id) (.brk 0) (fun t => ((t.dev.core 0).shadow, (t.dev.core 0).pc, (t.dev.core 0).epc)) = some (true, 16 * Cause.brk, 0x1000) := by decide
/-- R310: a store to local store reads back, lowest byte first. -/
theorem test_store : after (issuing (fun k => (k.setC 1 { handlers with perms := 0x1F }).setG 2 0x0102) id) (.integerStore 0 2 1 .b2 (.imm 8))
    (fun t => t.dev.localRead 0 8 2) = some [0x02, 0x01] := by decide
/-- R554: a cap above 750 stores 750. -/
theorem test_cap : after up (.pwrCapWrite .management 9999) (fun t => t.dev.getF R.pwrCap 15 0) = some 750 := by decide

/-! ### Words of the core -/

/-- R304: each field at its bit place, from the table; and a capability's bits read back. -/
theorem test_cap_bits : let x : Cap := { space := 1, otype := 2, perms := 3, inst := 4, len := 5, base := 6 }
    x.toBits = 2 ^ 125 + 2 * 2 ^ 113 + 3 * 2 ^ 105 + 4 * 2 ^ 97 + 5 * 2 ^ 48 + 6 ∧ Cap.ofBits x.tag x.toBits = x := by decide
/-- R316, R317: an integer load of c11 + 0xFFC into g5, the worked example of spec/11_gallery_core.md. -/
theorem test_word_load : coreWord 0 0x405B6FFC = some (.integerLoad 0 5 11 .b8 false (.imm 0xFFC)) := by decide
/-- R340, R341: a VGATH, its fields written out from the VM format. -/
theorem test_word_gather : coreWord 0 0xD4970D80 = some (.vgath 0 9 7 3 false 3 false) := by decide
/-- R317: a MAJOR that no class has is ILLEGAL. -/
theorem test_word_unassigned : wordIllegal 0xFFFFFFFF = true := by decide
/-- R326: GAL_DFAULT holds both causes and the PC of the second. -/
theorem test_dfault : let d := (State.reset.dev.doubleFault State.reset.core 3 0x0B 0x07 0x123)
    fld (d.reg (R.galDfault 3)) 5 0 = 0x0B ∧ fld (d.reg (R.galDfault 3)) 13 8 = 0x07 := by decide
/-- The same example's outcome (R306, R320): CAP_BOUNDS before MISALIGNED, with the register and the address. -/
theorem test_bounds_fault : after (issuing (fun k => k.setC 11 { handlers with perms := 3, base := 0x82000, len := 0x1000 }) id) (.integerLoad 0 5 11 .b8 false (.imm 0xFFC))
    (fun t => (fld (t.dev.core 0).ecause 5 0, (t.dev.core 0).eaddr, (t.dev.core 0).pc)) = some (0x03, 0x82FFC, 0x30) := by decide

/-- R441: an address of the destination list outside its space comes before a source list that is short. -/
theorem test_dma_check_order : bothEnds (α := Nat) (.error (0x0200, none)) (.error (0x0302, none)) = .error (0x0302, none) := rfl

/-- R437, R441: local store ends at 0x1F_FFFF. -/
theorem test_dma_space : inSpace 1 (0x1FFFC0, 64) = true ∧ inSpace 1 (0x1FFFC0, 65) = false := by decide

theorem wit_PowerPinsComplete_1 : (inMode .off).core.mode = .off ∧ (up.on ∧ up.core.dumping = false) ∧
    ({ up with core := { up.core with dumping := true } } : State).core.dumping = true ∧
    (up.core.mode = .service ∧ up.core.dumping = false ∧ up.core.dumpHold = false) := by decide

theorem wit_PowerPinsComplete_2 :
    let s : State := { upWith (fun d => { d with acc := { d.acc with dump := some aDump } }) with
      core := { up.core with dumping := true } }
    s.on ∧ s.core.dumping = true ∧ s.dev.acc.dump = some aDump := by decide

theorem wit_PowerPinsComplete_3 :
    let s : State := { up with core := { up.core with dumpHold := true, dumpTaken := true } }
    s.on ∧ s.core.dumpHold = true ∧ s.core.pfailLow = false ∧ s.core.pwrgood = true ∧ s.core.dumping = false ∧ s.core.mode ≠ .safeStop ∧
    s.core.passDone = false := by
  decide

theorem wit_PowerPinsComplete_9 :
    let s : State := { State.reset with core := { State.reset.core with dumpHold := true, lowAtRise := true, passDone := true } }
    s.core.mode = .rom ∧ s.core.dumpHold = true ∧ s.core.pfailLow = false ∧ s.core.pwrgood = true ∧ s.core.dumping = false ∧
    s.core.passDone = true := by decide

theorem wit_PowerPinsComplete_4 :
    let s := upWith (fun d => { d with acc := { d.acc with dump := some aDump } })
    s.on ∧ s.core.mode ≠ .rom ∧ s.core.dumping = false ∧ s.dev.acc.dump = some aDump ∧ aDump.valid = true ∧ aDump.flagged = false := by
  decide

theorem wit_PowerPinsComplete_5 :
    let u := { aDump with flagged := true }
    let s := upWith (fun d => { d with acc := { d.acc with dump := some u } })
    s.on ∧ s.core.mode ≠ .safeStop ∧ s.core.served = true ∧ s.dev.isManager s.core (.pf 0) = true ∧ s.dev.acc.dump = some u ∧
      u.valid = true ∧ u.flagged = true ∧ u.ordered = false := by decide

def aRom : RomReport :=
  { fatal := none, galleries := [], catBanks := [], atriumBanks := [], lanes := [], repairs := [], sramPct := 100, dramPct := 100 }

theorem wit_StartupComplete_1 : State.reset.core.mode = .rom ∧ State.reset.core.passDone = false ∧ aRom.fatal = none ∧ State.reset.core.toRecovery = false ∧
    State.reset.core.gpio0Low = false ∧ State.reset.core.served = false ∧
    ({ aRom with fatal := some { block := 0, unit := 0 } } : RomReport).fatal = some { block := 0, unit := 0 } := by decide

theorem wit_StartupComplete_2 : let s : State := { State.reset with core := { State.reset.core with gpio0Low := true } }
    s.core.mode = .rom ∧ (s.core.toRecovery = true ∨ s.core.gpio0Low = true) := by decide

theorem wit_StartupComplete_3 : let s : State := { State.reset with core := { mode := .configure, prev := .rom } }
    s.core.mode = .configure ∧ s.dev.cfg = [] := by decide

theorem wit_StartupComplete_4 : let s : State := { State.reset with core := { mode := .configure, prev := .rom }, dev := { cfg := [(3, 1, [])] } }
    s.core.mode = .configure ∧ s.core.served = false ∧ s.dev.cfg ≠ [] ∧ ∀ m ∈ s.dev.acc.maint, m.volume ≠ 0xFFFF := by decide

theorem wit_StartupComplete_5 : up.on ∧ up.dev.mayRequest (.pf 0) = true ∧ up.core.mode ≠ .rom ∧ up.core.mode ≠ .recovery := by decide

/-- QUIESCED for a reason, with the blocks changed. -/
def quietFor (q : QuiesceFor) (f : Dev → Dev) : State :=
  { upWith f with core := { mode := .quiesced, prev := .service, served := true, quiesceFor := some q } }

/-- A SANITISE command of the manager's admin pair. -/
def aSanitise : Cmd := { inst := 0, pair := 0, cid := 7, op := 0xA0, started := true, area := [0, 0, 0] }

theorem wit_ModeRequestsComplete_1 : up.core.mode = .service ∧ up.dev.mayRequest (.pf 0) = true ∧ up.on ∧
    (let s := quietFor .hold id
     s.core.mode = .quiesced ∧ s.core.quiesceFor = some .hold ∧ s.core.served = true ∧ s.dev.mayRequest (.pf 0) = true ∧
       s.core.drained = false ∧ drainDone .hold s.dev = true) ∧
    (let s : State := { up with core := { mode := .quiesced, prev := .service, served := true, quiesceFor := some .hold, drained := true } }
     s.core.mode = .quiesced ∧ s.core.quiesceFor = some .hold ∧ s.core.drained = true ∧ s.core.served = true) := by decide

theorem wit_ModeRequestsComplete_2 :
    let s := quietFor (.maintenance (0, 0, 7) true 0) (fun d => { d with xq := { d.xq with cmds := [aSanitise] } })
    s.core.mode = .quiesced ∧ s.core.drained = false ∧ s.core.quiesceFor = some (.maintenance (0, 0, 7) true 0) ∧
      drainDone (.maintenance (0, 0, 7) true 0) s.dev = true ∧ s.dev.cmd 0 0 7 = some aSanitise ∧ (maintOf aSanitise).isSome = true ∧
      s.core.served = true := by decide

theorem wit_ModeRequestsComplete_3 :
    let s := quietFor (.activate none true) (fun d => { d with mgmt := { d.mgmt with pldm := .activate } })
    s.core.mode = .quiesced ∧ s.core.drained = false ∧ s.core.served = true ∧ s.core.quiesceFor = some (.activate none true) ∧
      drainDone (.activate none true) s.dev = true ∧ stillWaits (.activate none true) s.dev = true := by decide

theorem wit_ModeRequestsComplete_4 :
    let m : Maint := { sanitise := true, volume := 0xFFFF, method := 0 }
    let s : State := { upWith (fun d => { d with acc := { d.acc with maint := [m] } }) with
      core := { mode := .maintenance, prev := .quiesced, served := true } }
    s.core.mode = .maintenance ∧ s.core.served = true ∧ s.dev.wholeMaintDone = some m := by decide

theorem wit_HostPortsComplete : up.on ∧ ((upWith (fun d => d.setPort 1 { perstLow := false })).dev.port 1).perstLow = false ∧
    ((upWith (fun d => d.setPort 1 { perstLow := false })).dev.port 1).linkUp = false ∧ up.dev.presented 0 0 = some 0 ∧
    up.core.mode.canStop = true ∧ up.core.pwrgood = true := by decide

theorem wit_QueueFetchComplete_1 : queued.on ∧ queued.dev.windowOpen queued.core 0 = true ∧ queued.dev.pair 0 0 = some aPair ∧
    aPair.stopped = false ∧ fld 5 15 0 < aPair.size ∧ (fld 2 15 0 + aPair.size - aPair.cqHead) % aPair.size ≤ aPair.posted := by decide

theorem wit_QueueFetchComplete_2 : let s := upWith (fun d => d.setReg (R.xqWAqa 0) 64)
    s.on ∧ s.dev.windowOpen s.core 0 = true ∧ s.dev.flag (R.xqWCc 0) 0 = false ∧ 0 ∉ s.dev.xq.resetting ∧ 2 ≤ s.dev.getF (R.xqWAqa 0) 12 0 ∧
      s.dev.getF (R.xqWAqa 0) 12 0 ≤ 4096 := by decide

theorem wit_QueueFetchComplete_7 : let s := upWith (fun d => { d with xq := { d.xq with resetting := [0] } })
    s.on ∧ s.dev.windowOpen s.core 0 = true ∧ s.dev.flag (R.xqWCc 0) 0 = false ∧ 0 ∈ s.dev.xq.resetting := by decide

theorem wit_QueueFetchComplete_3 : let s : State := queued.withDev (queued.dev.setFlag (R.xqWCc 0) 0 true)
    (s.core.mode = .service ∨ s.core.mode = .maintenance) ∧ s.dev.flag (R.xqWCc 0) 0 = true ∧ s.dev.flag (R.xqWCsts 0) 2 = false ∧
      0 ∉ s.dev.xq.resetting ∧ (s.dev.pair 0 0).isSome = true ∧ s.dev.windowOpen s.core 0 = true := by decide

theorem wit_QueueFetchComplete_4 : fetchOpen queued.core = true ∧ (queued.dev.port 0).turn = none ∧ (queued.dev.port 0).linkUp = true ∧
    queued.dev.nextInstance 0 = some 0 ∧ queued.dev.pairOrder 0 0 = [0] := by decide

theorem wit_QueueFetchComplete_5 : let s : State := queued.withDev (queued.dev.setPort 0 { linkUp := true, turn := some (0, 0, 2) })
    s.on ∧ (s.dev.port 0).turn = some (0, 0, 2) := by decide

theorem wit_QueueFetchComplete_6 : let s := upWith (fun d => { d with xq := { d.xq with cmds := [adminCmd 0xB0 []] } })
    s.on ∧ s.dev.cmd adminRef.inst.toNat adminRef.pair.val adminRef.cid.toNat = some (adminCmd 0xB0 []) ∧
      (adminCmd 0xB0 []).started = false ∧ 0x90 ≤ (adminCmd 0xB0 []).op := by decide

def anOu (op : Nat) : OuCmd := { inst := 0, pair := 1, cid := 9, op := op, volume := 0, lba := 16, blocks := 1 }

/-- The area of a READ or a WRITE of block 16 of volume 0, data at address 0x8000. -/
def rwArea : Bytes := toLE 8 0x8000 ++ toLE 8 16 ++ toLE 4 1 ++ toLE 2 0 ++ toLE 2 0 ++ List.replicate 24 0

theorem wit_StorageComplete_1 : let s := stored [] [ioCmd 1 rwArea] id
    s.on ∧ s.dev.xq.cmds.find? (fun x => x.inst == ioRef.inst.toNat && x.pair == ioRef.pair.val && !x.started && isStorageOp x.op) =
      some (ioCmd 1 rwArea) ∧ (ioCmd 1 rwArea).cid = ioRef.cid.toNat := by decide

theorem wit_StorageComplete_2 : let s := stored [anOu 1] [ioCmd 1 rwArea] id
    s.dev.cmd 0 1 9 = some (ioCmd 1 rwArea) ∧ s.dev.ouCmd 0 1 9 = some (anOu 1) ∧ (anOu 1).op = 1 ∧ (anOu 1).checked = false ∧
      (match s.dev.checkRw (ioCmd 1 rwArea) (anOu 1) true with | .ok r => r == ([(0x8000, 4096)], false) | _ => false) = true := by decide

theorem wit_StorageComplete_3 : let o : OuCmd := { anOu 2 with checked := true, segs := [] }
    let s := stored [o] [ioCmd 2 rwArea] id
    s.dev.cmd 0 1 9 = some (ioCmd 2 rwArea) ∧ s.dev.ouCmd 0 1 9 = some o ∧ o.op = 2 ∧ o.data = none ∧ o.checked = true ∧
      s.dev.waitsRead o = false ∧ s.dev.readSegs s.core o.who o.inst o.segs = (s.dev, .ok ([], false)) :=
  ⟨by decide, by decide, by decide, by decide, by decide, by decide, rfl⟩

theorem wit_StorageComplete_4 : let s := stored [anOu 2] [ioCmd 2 rwArea] id
    let y : OuCmd := { anOu 2 with checked := true, segs := [(0x8000, 4096)], truncated := false }
    s.dev.cmd 0 1 9 = some (ioCmd 2 rwArea) ∧ s.dev.ouCmd 0 1 9 = some (anOu 2) ∧ (anOu 2).op = 2 ∧ (anOu 2).data = none ∧
      (anOu 2).checked = false ∧ (match s.dev.checkRw (ioCmd 2 rwArea) (anOu 2) false with | .ok r => r == ([(0x8000, 4096)], false) | _ => false) = true ∧
      (s.dev.setOu y).waitsRead y = false ∧
      (match (s.dev.setOu y).readSegs s.core y.who y.inst y.segs with | (_, .ok (_, p)) => !p | (_, .error _) => false) = true := by decide

theorem wit_StorageComplete_5 : let s := stored [anOu 3] [ioCmd 3 []] id
    s.dev.ouCmd 0 1 9 = some (anOu 3) ∧ (anOu 3).op = 3 ∧ (anOu 3).checked = false ∧ s.dev.volumeCheck 0 0 0 0 = none := by decide

theorem wit_StorageComplete_6 : let s := stored [anOu 4] [ioCmd 4 []] id
    s.dev.ouCmd 0 1 9 = some (anOu 4) ∧ (anOu 4).op = 4 ∧ (anOu 4).checked = false ∧ (anOu 4).blocks ≠ 0 ∧
      s.dev.volumeCheck 0 0 16 1 = none ∧ s.dev.failedVolume 0 = false := by decide

theorem wit_StorageComplete_7 : let o : OuCmd := { anOu 4 with checked := true, data := some [] }
    let s := stored [o] [ioCmd 4 []] id
    s.dev.ouCmd 0 1 9 = some o ∧ o.data = some [] ∧ o.writes = true ∧ o.inserted = none ∧ s.dev.waitsWrite o = false ∧
      s.dev.waitsRead o = false ∧ s.core.dumpHold = false ∧ bufferUsed s.dev.xq.buffer + ([] : Bytes).length ≤ Config.writeBuffer ∧
      s.dev.failedVolume o.volume = false := by decide

/-- A buffer entry that deallocates chunk 1 of volume 0. -/
def aBlock : BufBlock := { volume := 0, first := 16, count := 16, data := none, order := 0 }

theorem wit_StorageComplete_8 : let o : OuCmd := { anOu 1 with checked := true, segs := [(0x8000, 8)] }
    let s := stored [o] [ioCmd 1 rwArea] (fun d => { d with xq := { d.xq with buffer := [aBlock] } })
    s.dev.ouCmd 0 1 9 = some o ∧ o.op = 1 ∧ o.checked = true ∧ s.dev.waitsWrite o = false ∧
      (match s.dev.takeBlocks o [] with
        | some (d, .ok bs) => (d.writeSegs s.core o.who o.inst bs o.segs).2.isNone
        | _ => false) = true := by decide +kernel

theorem wit_StorageComplete_9 : let s := stored [] [] (fun d => { d with xq := { d.xq with buffer := [aBlock] } })
    s.on ∧ s.dev.xq.buffer.head? = some aBlock ∧ s.dev.volume aBlock.volume = some aVol ∧
      s.dev.stripeFree 0 aVol (aVol.stripe (aBlock.first / 16)) = true ∧ aVol.state ∈ [1, 2, 3] := by decide

theorem wit_AdminComplete_1 : let a : Bytes := toLE 8 0x4000 ++ toLE 8 0x8000 ++ toLE 4 64 ++ toLE 1 1 ++ toLE 1 3 ++ toLE 1 1 ++ List.replicate 25 0
    let s := withAdmin 0x80 a
    let x := adminCmd 0x80 a
    s.adminTakes adminRef 0x80 x ∧ le x.area 0x14 1 ≠ 0 ∧ le x.area 0x14 1 ≤ 63 ∧ (s.started x).pair x.inst (le x.area 0x14 1) = none ∧
      2 ≤ le x.area 0x10 4 ∧ le x.area 0x10 4 ≤ 65536 ∧ le x.area 0 8 % 4096 = 0 ∧ le x.area 8 8 % 4096 = 0 ∧ le x.area 0x15 1 ≤ 63 := by
  unfold State.adminTakes; decide

theorem wit_AdminComplete_2 : let x := adminCmd 0x81 [1]
    let s : State := (withAdmin 0x81 [1]).withDev ((withAdmin 0x81 [1]).dev.setPair 0 1 aPair)
    s.adminTakes adminRef 0x81 x ∧ le x.area 0 1 ≠ 0 ∧ (s.started x).pair x.inst (le x.area 0 1) = some aPair ∧ aPair.deleter = none := by
  unfold State.adminTakes; decide

theorem wit_AdminComplete_3 : (withAdmin 0x88 []).adminTakes adminRef 0x88 (adminCmd 0x88 []) ∧ le (adminCmd 0x88 []).area 8 1 = 0 ∧
    (withAdmin 0x88 [0, 0, 0, 0, 0, 0, 0, 0, 1]).adminTakes adminRef 0x88 (adminCmd 0x88 [0, 0, 0, 0, 0, 0, 0, 0, 1]) ∧
    le (adminCmd 0x88 [0, 0, 0, 0, 0, 0, 0, 0, 1]).area 8 1 = 1 := by
  unfold State.adminTakes; decide

theorem wit_AdminComplete_4 : (withAdmin 0xC0 []).adminTakes adminRef 0xC0 (adminCmd 0xC0 []) ∧ le (adminCmd 0xC0 []).area 0x14 1 ≤ 4 ∧
    (adminCmd 0xC0 []).inst = 0 ∧ 0 = min (le (adminCmd 0xC0 []).area 0x10 4) (logLength 0 - le (adminCmd 0xC0 []).area 8 8) := by
  unfold State.adminTakes; decide

theorem wit_AdminComplete_5 : let a : Bytes := toLE 8 0x4000 ++ toLE 4 R.docCntDispatch ++ toLE 2 1
    let x := adminCmd 0xC1 a
    (withAdmin 0xC1 a).adminTakes adminRef 0xC1 x ∧ le x.area 0xC 2 ≠ 0 ∧ le x.area 0xC 2 ≤ 512 ∧ le x.area 8 4 % 8 = 0 ∧
      ∀ k < le x.area 0xC 2, isCounter (le x.area 8 4 + 8 * k) = true := by
  unfold State.adminTakes; decide +kernel

theorem wit_AdminComplete_6 : (withAdmin 0xC2 []).adminTakes adminRef 0xC2 (adminCmd 0xC2 []) ∧ le (adminCmd 0xC2 []).area 0x10 1 = 0 := by
  unfold State.adminTakes; decide

/-- A program image of one CUSTOM operator, one template, one SCRATCH buffer in local store and 16 bytes of code; its CRC is `n`. -/
def imageHead (n : Nat) : Bytes :=
  toLE 4 0x47525058 ++ toLE 2 1 ++ toLE 2 128 ++ toLE 4 336 ++ toLE 4 0 ++ toLE 2 1 ++ toLE 2 0 ++ toLE 2 1 ++ toLE 2 1 ++ toLE 4 0 ++ toLE 4 16 ++
  toLE 8 7 ++ toLE 4 128 ++ toLE 4 0 ++ toLE 4 256 ++ toLE 4 288 ++ toLE 4 0 ++ toLE 4 320 ++ List.replicate 60 0 ++ toLE 4 n
def imageOp : Bytes := toLE 4 0x3F ++ List.replicate 124 0
def imageTail : Bytes := List.replicate 32 0 ++ ([2, 3, 3, 0] : Bytes) ++ List.replicate 28 0 ++ List.replicate 16 0x11
def image1 : Bytes := imageHead 2681429242 ++ (imageOp ++ imageTail)

theorem crc_head : (imageHead 0).foldl crc32cByte 0xFFFFFFFF = 2899364752 := by decide +kernel
theorem crc_op : imageOp.foldl crc32cByte 2899364752 = 1786582205 := by decide +kernel
theorem crc_tail : imageTail.foldl crc32cByte 1786582205 = 1613538053 := by decide +kernel
theorem image1_crcOk : Image.crcOk image1 = true := by
  have h : patch (image1.take (Image.imageBytes image1)) 0x7C [0, 0, 0, 0] = imageHead 0 ++ (imageOp ++ imageTail) := by decide +kernel
  have h2 : Image.crc image1 = 2681429242 := by decide +kernel
  rw [Image.crcOk, h, h2, crc32c, List.foldl_append, List.foldl_append, crc_head, crc_op, crc_tail]
  decide
theorem image1_check : Image.check image1 400 = none := by
  have h1 : ¬ (400 < 128 ∨ 400 < Image.imageBytes image1) := by decide +kernel
  have h2 : Image.headerOk image1 = true := by decide +kernel
  have h3 : (Image.layoutOk image1 && Image.opsOk image1 && Image.edgesOk image1 && Image.tablesOk image1 && Image.paramsOk image1) = true := by
    decide +kernel
  simp only [Image.check, h1, h2, h3, image1_crcOk, if_false, Bool.not_true, Bool.false_eq_true]

/-- A command of the Docent, the Atrium store mapped at address 0 with the image there, and program slot 2. -/
def withDoc (op : Nat) (area : Bytes) (f : Dev → Dev) : State :=
  let d := mapping false { queued.dev with xq := { queued.dev.xq with cmds := [ioCmd op area] } }
  let x := { d.inst 0 with share := { (d.inst 0).share with atriumKib := 64, contexts := 8 } }
  queued.withDev (f { d.setInst 0 x with mem := cells (Key.atrium 0) image1 ++ d.mem, doc := { d.doc with programs := [(2, { addr := 0, bytes := 336 })] } })
def loadArea (n : Nat) : Bytes := toLE 8 0 ++ toLE 4 n ++ toLE 1 1
def runArea : Bytes := toLE 8 0 ++ toLE 4 0 ++ toLE 1 2 ++ toLE 1 0xFF ++ toLE 2 5
def run5 : Run := { inst := 0, runId := 5, slot := 2, prio := 0, contexts := 1 }

theorem wit_PipelineCommandsComplete_1 : let s := withDoc 0x10 (loadArea 0) id
    s.on ∧ s.dev.take ioRef 0x10 isDocentOp = some (ioCmd 0x10 (loadArea 0)) ∧ le (loadArea 0) 0xC 1 ≤ 63 ∧ s.dev.slotBusy 0 1 = false ∧
      le (loadArea 0) 8 4 = 0 := by decide +kernel

theorem wit_PipelineCommandsComplete_2 : let s := withDoc 0x10 (loadArea 400) id
    let x := ioCmd 0x10 (loadArea 400)
    s.dev.take ioRef 0x10 isDocentOp = some x ∧ s.dev.slotBusy 0 1 = false ∧
      (match s.dev.docRead s.core x 0 (le x.area 0 8) 128 with
        | (d, .ok h) => decide (Image.imageBytes h ≤ le x.area 8 4) && Image.headerOk h &&
          (match d.docRead s.core x 0 (le x.area 0 8) (Image.imageBytes h) with
            | (d', .ok i) => i == image1 && decide (d'.atriumUsed x.inst + Image.imageBytes i ≤ 1024 * (d'.inst x.inst).share.atriumKib) &&
              (d'.atriumPlace (Image.imageBytes i)).isSome
            | (_, .error _) => false)
        | (_, .error _) => false) = true ∧ Image.check image1 400 = none :=
  ⟨by decide +kernel, by decide +kernel, by decide +kernel, image1_check⟩

theorem wit_PipelineCommandsComplete_3 : let s := withDoc 0x11 runArea id
    let x := ioCmd 0x11 runArea
    s.dev.take ioRef 0x11 isDocentOp = some x ∧ le x.area 0xC 1 ≤ 63 ∧ s.dev.image 0 2 = some image1 ∧ s.dev.doc.runs = [] ∧
      le x.area 0xD 1 = 0xFF ∧ Image.paramBytes image1 ≤ le x.area 8 4 ∧ s.dev.freeHandle.isSome = true ∧
      (match s.dev.docRead s.core x 5 (le x.area 0 8) (Image.paramBytes image1) with
        | (d, .ok params) => (d.boundFault (docWho 5) 0 image1 params).isNone && Image.runOk image1 params && d.runShareOk 0 image1 &&
          d.freeHandle.isSome && (d.contextPlace (Image.contexts image1)).isSome &&
          (d.placeBuffers image1 (Image.scratches image1 ++ Image.results image1) []).isSome
        | (_, .error _) => false) = true := by decide +kernel

theorem wit_PipelineCommandsComplete_4 : let s := withDoc 0x12 [5, 0] (fun d => d.setRun 0 run5)
    let t := withDoc 0x12 [6, 0] (fun d => d.setRun 0 run5)
    s.dev.take ioRef 0x12 isDocentOp = some (ioCmd 0x12 [5, 0]) ∧ s.dev.liveRun 0 5 = some 0 ∧
      t.dev.take ioRef 0x12 isDocentOp = some (ioCmd 0x12 [6, 0]) ∧ t.dev.liveRun 0 6 = none := by decide +kernel

/-- Retained results of run 5: 8 bytes of buffer 1 in one extent of DRAM. -/
def kept5 : Run := { run5 with ended := true, results := [(1, 0x4000000, 65536)], extents := [{ buffer := 1, addr := 0x4000000, task := 0, bytes := 8 }] }
def readArea : Bytes := toLE 8 0x8000 ++ toLE 8 4 ++ toLE 4 0 ++ toLE 2 5 ++ toLE 1 1 ++ toLE 1 1

theorem wit_PipelineCommandsComplete_5 : let s := withDoc 0x13 readArea (fun d => d.setRun 1024 kept5)
    let x := ioCmd 0x13 readArea
    s.dev.take ioRef 0x13 isDocentOp = some x ∧ s.dev.retained 0 (le x.area 0x14 2) = some (1024, kept5) ∧
      (∃ b ∈ kept5.results, b.1 = le x.area 0x16 1) ∧
      (match (s.dev.deviceChannel 5).2.readSpans (spans 4 0 (kept5.ordered 1)) with
        | .ok bs => ((s.dev.deviceChannel 5).2.writeInst s.core { (s.dev.deviceChannel 5).1 with job := x.job } 0 (le x.area 0 8) bs).2.isNone
        | _ => false) = true :=
  ⟨by decide +kernel, by decide +kernel, by decide +kernel, rfl⟩

theorem wit_PipelineCommandsComplete_6 : up.on ∧ up.dev.isManager up.core (.pf 0) = true := by decide

theorem wit_DocentComplete_1 : let s := upWith (fun d => d.setFlag R.docStatus 0 true)
    s.on ∧ s.dev.flag R.docStatus 0 = true := by decide

theorem wit_DocentComplete_2 : let s := coreAt { aCore with st := .done, doneWrite := some 0 } withRun
    (s.dev.core 0).st = .done ∧ (s.dev.core 0).doneWrite = some 0 ∧ s.dev.logicalOf 0 = some 0 ∧ find s.dev.doc.task 0 = some (0, 0) ∧
      s.dev.completing 0 0 = false ∧ s.dev.run 0 = some run1 ∧ (s.dev.runImage 0).isSome = true ∧ (find run1.tasks 0).isSome = true := by decide

theorem wit_DocentComplete_3 : let s := coreAt aCore withRun
    find s.dev.doc.task 0 = some (0, 0) ∧ s.dev.run 0 = some run1 ∧ (find run1.tasks 0).any (fun t => t.cancelReq) = true ∧
      s.dev.completing 0 0 = false := by decide

theorem wit_DocentComplete_4 : up.on := by decide

/-- A run of two copies of a ledger task, both with equal records. -/
def ledgerTask (copy : Nat) : Task := { st := .comparing, ledger := true, copy := copy, check := [0, 0] }
def ledgerRun : Run := { run1 with contexts := 2, tasks := [(0, ledgerTask 0), (1, ledgerTask 1)] }

theorem wit_DocentComplete_5 : let s := coreAt aCore (fun d => { withRun d with doc := { (withRun d).doc with runs := [(0, ledgerRun)] } })
    s.dev.run 0 = some ledgerRun ∧ (∃ i, s.dev.runImage 0 = some i ∧ (ledgerRun.task i 0).copy = 0 ∧ (ledgerRun.task i 0).ledger = true ∧
      ledgerVerdictOf (ledgerRun.task i 0) (ledgerRun.task i 1) (find ledgerRun.tasks (thirdKey 0)) = some (.accept 0)) ∧
      s.dev.doc.verdicts = [] :=
  ⟨by decide, ⟨_, rfl, by decide, by decide, by decide⟩, by decide⟩

theorem wit_DocentComplete_6 : ({ aCore with st := .asleep } : Gallery).st = .asleep ∧ ({ aCore with st := .waking } : Gallery).st = .waking ∧
    ({ aCore with shadow := true } : Gallery).st = .run ∧ ({ aCore with shadow := true } : Gallery).shadow = true ∧ aCore.st = .run ∧
    aCore.shadow = false ∧ vbccFault aCore.vbcc Cause.taskCancel = none ∧ (coreAt aCore id).dev.core 0 = aCore := by decide

theorem wit_DocentComplete_7 : let s := coreAt { aCore with evtPending := true, eie := true } id
    s.on ∧ s.dev.executes 0 = true ∧ (s.dev.core 0).asyncDue = some Cause.event ∧ vbccFault (s.dev.core 0).vbcc Cause.event = none := by decide

theorem wit_DocentComplete_8 : let s := coreAt { aCore with st := .asleep } (fun d => { d with doc := { d.doc with msgs := [(0, [1, 2])] } })
    s.dev.logicalOf 0 = some 0 ∧ find s.dev.doc.msgs 0 = some [1, 2] ∧ 0 ∉ s.dev.doc.notes := by decide

theorem wit_DocentComplete_9 : let s := coreAt { aCore with st := .waking } id
    (s.dev.core 0).st = .waking ∧ s.dev.logicalOf 0 = some 0 := by decide

theorem wit_DocentComplete_10 : let s := coreAt { aCore with st := .wfe } id
    (s.dev.core 0).st = .wfe ∧ s.dev.logicalOf 0 = some 0 ∧ find s.dev.doc.task 0 = none := by decide

theorem wit_IntegerComplete_1 : let s := issuing id id
    let k := s.dev.core 0
    Issues s 0 ∧ (intOp .add (k.getG 1) (k.regImm (.imm 5))).2 = false := by decide

theorem wit_IntegerComplete_2 : let k := (issuing id id).dev.core 0
    k.getG 2 ≠ 0 ∧ -(2 ^ 63) ≤ (k.getG 1).toInt * (k.getG 2).toInt ∧ (k.getG 1).toInt * (k.getG 2).toInt < 2 ^ 63 ∧ (k.getG 1).toNat * (k.getG 2).toNat < 2 ^ 64 ∧
      ¬ ((k.getG 1).toInt = -(2 ^ 63) ∧ (k.getG 2).toInt = -1) := by decide

theorem wit_IntegerComplete_3 : let k := (issuing (fun k => (k.setG 3 0).setG 4 (BitVec.ofInt 64 (-(2 ^ 63))) |>.setG 5 (BitVec.ofInt 64 (-1))) id).dev.core 0
    Issues (issuing (fun k => (k.setG 3 0).setG 4 (BitVec.ofInt 64 (-(2 ^ 63))) |>.setG 5 (BitVec.ofInt 64 (-1))) id) 0 ∧
      k.getG 3 = 0 ∧ (k.getG 4).toInt = -(2 ^ 63) ∧ (k.getG 5).toInt = -1 := by decide

/-- Capability registers 1 to 4: local store, an instance's memory, the port window, the staging window. -/
def spaces (k : Gallery) : Gallery :=
  (((k.setC 1 { handlers with perms := 0x1F }).setC 2 { handlers with space := 1, perms := 0x1F, len := 2 ^ 40 }).setC 3
    { handlers with space := 2, perms := 0x1F }).setC 4 { handlers with space := 3, perms := 0x1F }
def reaching (f : Gallery → Gallery) : State := issuing (fun k => f (spaces k)) (fun d => mapping true (d.setPort 0 { linkUp := true, perstLow := false }))

theorem wit_MemoryAccessComplete_1 : let s := reaching id
    let k := s.dev.core 0
    Issues s 0 ∧ k.offset (.imm 8) = 8 ∧ capCheck (k.getC 1) 1 (2 ^ Perm.load) 8 8 8 = none ∧
      (match (s.dev.coreLoad s.core 0 (k.getC 1) 1 8 8).2 with | .ok _ => true | .error _ => false) = true ∧
      (match (s.dev.coreLoad s.core 0 (k.getC 2) 2 8 8).2 with | .ok _ => true | .error _ => false) = true := by decide

theorem wit_MemoryAccessComplete_2 : let s := reaching id
    let k := s.dev.core 0
    capCheck (k.getC 1) 1 (2 ^ Perm.load) 16 16 16 = none ∧
      (match (s.dev.coreLoad s.core 0 (k.getC 1) 1 16 16).2 with | .ok _ => true | .error _ => false) = true := by decide

theorem wit_MemoryAccessComplete_3 : let s := reaching id
    let k := s.dev.core 0
    capCheck (k.getC 1) 1 (2 ^ Perm.store + 2 ^ Perm.storeCap) 16 16 16 = none ∧ (k.getC 1).space = 0 ∧ 16 + 16 ≤ Config.localBytes ∧
      (k.getC 1).tag = true ∧ capCheck (k.getC 2) 2 (2 ^ Perm.store) 8 8 8 = none ∧ (k.getC 2).space = 1 ∧
      (s.dev.coreStoreInst s.core 0 (k.getC 2) 2 8 (toLE 8 7)).2 = none := by decide

theorem wit_MemoryAccessComplete_4 : let s := reaching id
    let k := s.dev.core 0
    capCheck (k.getC 3) 3 (2 ^ Perm.store) 0x50000 8 8 = none ∧ (k.getC 3).space = 2 ∧ k.postErr = none ∧
      (s.dev.portWrite s.core 0 0x50000 false (toLE 8 7)).2 = .ok ∧ (s.dev.portWrite s.core 0 0x20018 false (toLE 8 7)).2 = .err .none ∧
      capCheck (k.getC 4) 4 (2 ^ Perm.store) 8 8 8 = none ∧ (k.getC 4).space = 3 := by decide

theorem wit_MemoryAccessComplete_5 : let s := reaching id
    let k := s.dev.core 0
    capCheck (k.getC 1) 1 (2 ^ Perm.load + 2 ^ Perm.store) 0 8 8 = none ∧ (k.getC 1).base + 8 ≤ Config.localBytes ∧ s.dev.localBad 0 0 8 = false ∧
      BitVec.ofNat 64 (ofLE (s.dev.localRead 0 0 8)) = k.getG 0 ∧ BitVec.ofNat 64 (ofLE (s.dev.localRead 0 0 8)) ≠ k.getG 1 := by decide

/-- Capability register 1: all of local store; 2: an authority; 3: sealed with type 7. -/
def authorities (k : Gallery) : Gallery :=
  ((k.setC 1 { handlers with perms := 0x1F }).setC 2 { tag := true, perms := 0xFF, base := 0, len := 4096 }).setC 3
    { handlers with otype := 7 }

theorem wit_CapabilitiesComplete_1 : let s := issuing authorities id
    let k := s.dev.core 0
    Issues s 0 ∧ (k.getC 1).tag = true ∧ (k.getC 1).otype = 0 ∧ (k.getG 2).toNat % 2 ^ 48 + (k.getG 3).toNat ≤ (k.getC 1).len ∧
      authCheck (k.getC 2) 2 Perm.system = none ∧ authCheck (k.getC 2) 2 Perm.sealing = none ∧ (k.getC 2).base ≤ (k.getG 1).toNat ∧
      (k.getG 1).toNat < (k.getC 2).base + (k.getC 2).len ∧ 1 ≤ (k.getG 1).toNat ∧ (k.getG 1).toNat ≤ 4095 ∧
      authCheck (k.getC 2) 2 Perm.unsealing = none ∧ (k.getC 3).tag = true ∧ (k.getC 3).otype ≠ 0 ∧
      (k.getC 2).base ≤ (k.getC 3).otype ∧ (k.getC 3).otype < (k.getC 2).base + (k.getC 2).len := by decide

/-- Capability register 1: local store with EXEC; 2: an authority. -/
def jumping (k : Gallery) : Gallery := (k.setC 1 { handlers with perms := 0x1F }).setC 2 { tag := true, perms := 0xFF, base := 0, len := 4096 }

theorem wit_ControlComplete_1 : let s := issuing jumping id
    let k := s.dev.core 0
    Issues s 0 ∧ condHolds .ltU (k.getG 1) (k.getG 2) = false ∧ condHolds .ltU (k.getG 2) (k.getG 1) = true ∧
      0 ≤ (k.pc : Int) + 4 * (8 : BitVec 15).toInt ∧ (k.pc : Int) + 4 * (8 : BitVec 15).toInt + 4 ≤ k.pcc.len := by decide

theorem wit_ControlComplete_2 : let s := issuing (fun k => (jumping k).setG 3 0x40) id
    let k := s.dev.core 0
    capCheck (k.getC 1) 1 (2 ^ Perm.exec) (k.getG 3).toNat 4 4 = none ∧ (k.getC 1).space ≠ 1 ∧ authCheck (k.getC 2) 2 Perm.system = none ∧
      (s.dev.ccrRead s.core 0 0x003 k).isSome = true ∧ (k.ccrWrite 0x003 (k.getG 1)).isSome = true ∧ (k.ccrCap 8).isSome = true ∧
      (k.setCcrCap 8 (k.getC 1)).isSome = true ∧ k.shadow = false := by decide

theorem wit_ControlComplete_3 : let s := issuing (fun k => { jumping k with shadow := true, epcc := handlers }) id
    Issues s 0 ∧ (s.dev.core 0).shadow = true ∧ (s.dev.core 0).epcc.tag = true ∧ (s.dev.core 0).cancelPending = false := by decide

theorem wit_ControlComplete_4 : let s := issuing jumping id
    let k := s.dev.core 0
    s.dev.writesOut 0 = false ∧ k.postErr = none ∧ k.shadow = false ∧ k.evtPending = false ∧ k.cancelPending = false ∧
      (({ k with evtPending := true } : Gallery).shadow || ({ k with evtPending := true } : Gallery).evtPending) = true := by decide

theorem wit_TrapsComplete_1 : let s := issuing id id
    let k := s.dev.core 0
    Issues s 0 ∧ wordIllegal (s.dev.fetchWord s.core 0) = true ∧ k.shadow = false ∧ vbccFault k.vbcc (0x20 + 31) = none ∧ vbccFault k.vbcc Cause.brk = none ∧
      vbccFault k.vbcc Cause.illegal = none := by decide

/-- The core of physical gallery 0 with its datapath on, four elements of SEW code `sew`. -/
def vectoring (sew : Nat) (f : Gallery → Gallery) : State :=
  issuing (fun k => f { k with lvu := .on, vl := 4, vtype := sew, v := [(1, 0x01020304), (2, 0x05060708)] }) id

theorem wit_VectorIntegerComplete_1 : Issues (issuing id id) 0 ∧ (5 : BitVec 3).toNat < 6 := by decide

theorem wit_VectorIntegerComplete_2 : let k := (vectoring 2 id).dev.core 0
    k.lvu = .on ∧ k.vpwr ≠ 0 ∧ ({ k with lvu := .waking } : Gallery).lvu = .waking ∧ ({ k with lvu := .waking } : Gallery).stalled = false ∧
      ({ k with lvu := .waking, stalled := true } : Gallery).stalled = true := by decide

theorem wit_VectorIntegerComplete_3 : let k := (vectoring 2 id).dev.core 0
    VecIssues (vectoring 2 id) 0 ∧ k.vtype ≤ 4 ∧ (k.elemsInto false 32 3 (fun _ i =>
      vecOp .add true true 32 (elem 32 (k.vreg 1) i) (elem 32 (k.vreg 2) i) (bit (k.vreg 0) i))).isSome = true := by decide +kernel

theorem wit_VectorIntegerComplete_4 : let k := (vectoring 2 id).dev.core 0
    k.vtype = (1 : BitVec 2).toNat + 1 ∧ (k.elemsInto false 32 3 (fun _ i =>
      .ok (ofSigned 32 (elemVal true 16 (elem 16 (k.vreg 1) i) * elemVal true 16 (elem 16 (k.vreg 2) i))))).isSome = true := by decide +kernel

theorem wit_VectorIntegerComplete_5 : let k (sew : Nat) := (vectoring sew id).dev.core 0
    VecIssues (vectoring 3 id) 0 ∧ VecIssues (vectoring 4 id) 0 ∧
    ((k 2).elemsInto false 32 3 (fun old i => elemResult true true 32 (elemVal true 32 old + (List.range 4).foldl (fun acc j =>
      acc + elemVal true 8 (elem 8 ((k 2).vreg 1) (4 * i + j)) * elemVal true 8 (elem 8 ((k 2).vreg 2) (4 * i + j))) 0))).isSome = true := by decide +kernel

theorem wit_VectorIntegerComplete_6 : let k := (vectoring 3 id).dev.core 0
    (k.elemsInto false 1 3 (fun _ i => .ok (b2n (cmpHolds .lt (elemVal true 64 (elem 64 (k.vreg 1) i)) (elemVal true 64 (elem 64 (k.vreg 2) i)))))).isSome
      = true ∧ (k.elemsInto false 1 3 (fun _ i => .ok (b2n (logicBit .and (bit (k.vreg 1) i) (bit (k.vreg 2) i))))).isSome = true ∧
      (k.elemsInto false 64 3 (fun old i => .ok (crcStep 8 old (elem 64 (k.vreg 1) i)))).isSome = true ∧
      (k.elemsInto false 64 3 (fun _ i => .ok (hashMul (elem 64 (k.vreg 1) i)))).isSome = true := by decide +kernel

def wholeCore (sew : Nat) (f : Gallery → Gallery) : State :=
  issuing (fun k => f { k with lvu := .on, vl := 4, vtype := sew, v := [(1, 0x01020304), (2, 0x05060708)] }) id

theorem wit_VectorWholeComplete_1 : let k := (wholeCore 2 id).dev.core 0
    VecIssues (wholeCore 2 id) 0 ∧ k.vstart = 0 ∧
      (match reduce (redStep .add true true 32) ((k.active false).map (elem 32 (k.vreg 1))) with | .ok (some _) => true | _ => false) = true := by
  decide +kernel

theorem wit_VectorWholeComplete_2 : VecIssues (wholeCore 2 id) 0 ∧ ((wholeCore 2 id).dev.core 0).active true = [] := by decide +kernel

theorem wit_VectorWholeComplete_3 : let k := (wholeCore 5 id).dev.core 0
    VecIssues (wholeCore 5 id) 0 ∧ k.vtype = 5 ∧ k.vl ≤ 32 ∧
      ((k.active false).foldl (fun (acc : Option Int) i => acc.bind (fun x => laneAdd x (k.lane 1 i))) (some 0)).isSome = true := by decide +kernel

def decCore (sew : Nat) : State :=
  issuing (fun k => { k with lvu := .on, vl := 2, vtype := sew, v := [(1, 0x00000000000000000000000000000005), (2, 0x00000000000000000000000000000003)] }) id

theorem wit_VectorDecimalComplete_1 : let k := (decCore 4).dev.core 0
    VecIssues (decCore 4) 0 ∧ k.decLegal true true true = true ∧ (k.elemsInto false 128 3 (fun _ i => if decOperands (k.dec 1 i) (k.dec 2 i) then
      decElem (decAdd k.rm k.sa k.sb k.st_ false (k.dec 1 i) (k.dec 2 i)) else .error overflowExc)).isSome = true := by decide +kernel

theorem wit_VectorDecimalComplete_2 : let k := (decCore 4).dev.core 0
    k.decLegal true false true = true ∧ k.decLegal false false true = true ∧ k.decLegal true true false = true ∧
    (k.elemsInto false 128 3 (fun _ i => if decOk (k.dec 1 i) then
      decElem (decResult (rescaleRaw k.rm k.sa k.st_ (k.dec 1 i))) else .error overflowExc)).isSome = true ∧
    (k.elemsInto false 128 3 (fun _ i => decElem (decResult (rescaleRaw k.rm 0 k.st_ (k.dec 1 i))))).isSome = true ∧
    (k.elemsInto false 128 3 (fun _ i => decElem (laneNarrow (k.lane 1 i)))).isSome = true ∧ k.vl ≤ 32 := by decide +kernel

theorem wit_VectorDecimalComplete_3 : let k := (decCore 5).dev.core 0
    VecIssues (decCore 5) 0 ∧ k.vtype = 5 ∧ k.vl ≤ 32 ∧ k.sa ≤ k.st_ ∧ k.st_ ≤ 38 ∧
    (k.elemsInto false 256 3 (fun old i => laneElem ((alignUp (k.dec 1 i) (k.st_ - k.sa)).bind (laneAdd (toSigned 256 old))))).isSome = true ∧
    (k.elemsInto false 256 3 (fun _ i => laneElem (laneAdd (k.lane 1 i) (k.lane 2 i)))).isSome = true := by decide +kernel

def memCore (f : Gallery → Gallery) : State :=
  issuing (fun k => f { k.setC 1 { handlers with perms := 0x1F } |>.setC 3 { handlers with space := 2, perms := 0x1F } with
    lvu := .on, vl := 4, vtype := 2, v := [(1, 0x01020304)] }) id

theorem wit_VectorMemoryComplete_1 : let s := memCore id
    let k := s.dev.core 0
    VecIssues s 0 ∧ (s.elemsFrom 0 k 1 2 false false (unitOffset k 0 0 32)).isSome = true ∧ indexOk false k = true ∧
      (s.elemsFrom 0 k 1 2 false true (indexOffset k 4 2 false)).isSome = true := by decide +kernel

theorem wit_VectorMemoryComplete_2 : let s := memCore id
    let k := s.dev.core 0
    (k.getC 1).space ≠ 2 ∧ (s.elemsTo 0 k 1 1 false false (unitOffset k 0 0 32)).isSome = true ∧
      (s.elemsTo 0 k 1 1 false true (indexOffset k 4 2 false)).isSome = true ∧ (k.getC 3).space = 2 ∧
      ∀ i ∈ k.active false, elemCheck (k.getC 3) 3 (2 ^ Perm.store) (unitOffset k 0 0 32 i) 4 = none ∧
        elemCheck (k.getC 3) 3 (2 ^ Perm.store) (indexOffset k 4 2 false i) 4 = none := by decide +kernel

def shortCore : State :=
  issuing (fun k => { k.setC 1 { handlers with perms := 0x1F } with sv := [(1, 0x01020304), (2, 0x05060708)] }) id

theorem wit_ShortVectorComplete_1 : let k := (shortCore).dev.core 0
    Issues shortCore 0 ∧ (match shortLanes 16 (fun i => vecOp (svVec .add) true true 16 (elem 16 (k.sreg 1) i) (elem 16 (k.sreg 2) i) false) with
      | .ok _ => true | .error _ => false) = true ∧
    (match shortLanes 32 (fun i => .ok (ofSigned 32 (elemVal true 16 (elem 16 (k.sreg 1) i) * elemVal true 16 (elem 16 (k.sreg 2) i)))) with
      | .ok _ => true | .error _ => false) = true ∧
    (match shortLanes 16 (fun i => vecOp .mul false true 16 (elem 16 (k.sreg 1) i) (elem 16 (k.sreg 2) i) false) with
      | .ok _ => true | .error _ => false) = true := by decide +kernel

theorem wit_ShortVectorComplete_2 : let k := (shortCore).dev.core 0
    (match shortLanes 16 (fun i => .ok (if elem 16 (k.sreg 3) i ≠ 0 then elem 16 (k.sreg 1) i else elem 16 (k.sreg 2) i)) with
      | .ok _ => true | .error _ => false) = true ∧
    (match shortLanes 8 (fun i => .ok (elem 8 (k.sreg 1) (elem 8 (k.sreg 2) i % 32))) with | .ok _ => true | .error _ => false) = true ∧
    (match shortLanes 64 (fun i => .ok (hashMul (elem 64 (k.sreg 1) i))) with | .ok _ => true | .error _ => false) = true ∧
    capCheck (k.getC 1) 1 (2 ^ Perm.load) 0 32 32 = none ∧ capCheck (k.getC 1) 1 (2 ^ Perm.store) 0 32 32 = none ∧
    (match (shortCore.dev.coreLoad shortCore.core 0 (k.getC 1) 1 0 32).2 with | .ok _ => true | .error _ => false) = true ∧
    (match storeElem shortCore.core 0 1 (k.getC 1) 0 (toLE 32 (k.sreg 1)) shortCore.dev with | .ok _ => true | .error _ => false) = true := by
  decide +kernel

/-- A descriptor of gallery 0 with TAG 0: one row group, OUTPUT 2, a ring of 4 KiB at address 0x10000. -/
def filterDesc : SflDesc := { gal := 0, inst := 0, bytes := [1, 2, 0, 0, 0, 0, 1, 0] ++ toLE 4 0 ++ toLE 2 1 ++ toLE 2 1 ++ toLE 8 0x20000 ++ toLE 8 0 ++ toLE 4 0 ++ toLE 4 0 ++ toLE 8 0 ++ toLE 8 0x10000 ++ [12, 0, 0, 0, 0, 0, 0, 0] ++ toLE 8 0x30000 ++ toLE 8 0x30100 ++ List.replicate 48 0 }
def filtering (fl wa : List SflDesc) : State :=
  upWith (fun d => (mapping true (d.setPort 0 { linkUp := true, perstLow := false })).setFilter 0 { flight := fl, waiting := wa })

theorem wit_FiltersComplete_1 : let s := filtering [] []
    s.on ∧ localOk 0x100 128 128 = true ∧ (s.dev.filter 0).flight.length + (s.dev.filter 0).waiting.length < 64 := by decide
theorem wit_FiltersComplete_2 : let s := filtering [filterDesc] []
    (s.dev.filter 0).flight.find? (SflDesc.is 0 (bits 0 63 48)) = some filterDesc ∧
      (s.dev.filter 0).flight.find? (SflDesc.is 0 (bits 0 15 0)) = some filterDesc ∧ filterDesc.recorded = false := by decide
theorem wit_FiltersComplete_3 : let s := filtering [] [filterDesc]
    (s.dev.filter 0).flight.find? (SflDesc.is 0 (bits 0 15 0)) = none ∧
      (s.dev.filter 0).waiting.find? (SflDesc.is 0 (bits 0 15 0)) = some filterDesc := by decide
theorem wit_FiltersComplete_4 : let s := filtering [] [filterDesc]
    s.dev.filter 0 = { flight := [], waiting := [filterDesc] } ∧ ([] : List SflDesc).length < max 1 (s.dev.getF (R.sflCtrl 0) 12 8) ∧
      s.dev.sflCheck 0 filterDesc [] = none := ⟨by decide, by decide, by decide +kernel⟩
theorem wit_FiltersComplete_5 : (filtering [filterDesc] []).dev.filter 0 = { flight := [filterDesc], waiting := [] } ∧ filterDesc.ended = none ∧
    filterDesc.cur = none ∧ (filtering [] []).dev.lostBytes (filterDesc.who 0) = 0 ∧ (filtering [] []).dev.awaits (filterDesc.who 0) = false ∧
    ({ filterDesc with ended := some 0 } : SflDesc).ended = some 0 := by decide

def aSend : ExcSend := { gal := 0, part := 1, start := 0, bytes := List.replicate 64 0, task := 0 }
def exchanging (xs : List ExcSend) (ns : List ExcNotice) : State :=
  upWith (fun d => { d with exc := { d.exc with ingress := xs, notices := ns } })

theorem wit_ExchangeComplete_1 : let s := exchanging [aSend] []
    s.on ∧ s.dev.sendEnded 0 = false ∧ s.dev.sendSince 0 = none := by decide
theorem wit_ExchangeComplete_2 : (exchanging [aSend] [.runEnd 0]).dev.sendEnded 0 = true := by decide
theorem wit_ExchangeComplete_3 : let s : State := { exchanging [{ aSend with since := some 0 }] [] with core := { up.core with time := 0x10000000 } }
    s.dev.sendSince 0 = some 0 ∧ s.dev.exc.ingress.find? (fun (x : ExcSend) => x.gal == 0) = some { aSend with since := some 0 } ∧
      0 + 1000 * s.dev.getF R.excCtrl 31 16 ≤ s.core.time.toNat := by decide
theorem wit_ExchangeComplete_8 : let s : State := { upWith (fun d => { d with exc := { d.exc with stall := [(0, (0, 1))] } }) with
      core := { up.core with time := 0x10000000 } }
    s.on ∧ s.dev.exc.ingress.find? (fun (x : ExcSend) => x.gal == (0 : Fin 136)) = none ∧ find s.dev.exc.stall 0 = some (0, 1) ∧
      1 / 4 + 1000 * s.dev.getF R.excCtrl 31 16 ≤ s.core.time.toNat := by decide
theorem wit_ExchangeComplete_4 : let s := exchanging [] []
    ∃ d e, s.dev.nextWrite 0 (0 : BitVec 64).toNat = (d, e) := ⟨_, _, rfl⟩
theorem wit_ExchangeComplete_5 : let s := exchanging [] [.void 5 0 0, .publish 0 0 0]
    s.dev.exc.notices = [.void 5 0 0] ++ .publish 0 0 0 :: [] ∧ (∀ n ∈ [ExcNotice.void 5 0 0], ∀ r t a, n ≠ .publish r t a) ∧
      s.dev.excEnding 0 = false := ⟨rfl, by simp, by decide⟩
theorem wit_ExchangeComplete_6 : (exchanging [aSend] [.void 0 0 0]).dev.exc.notices = [.void 0 0 0] ∧
    (exchanging [] [.runEnd 0]).dev.exc.notices = [.runEnd 0] := by decide
theorem wit_ExchangeComplete_7 : let s := (exchanging [] [.release 0 0 0]).withDev (withRun (exchanging [] [.release 0 0 0]).dev)
    let d : Dev := { s.dev with exc := { s.dev.exc with notices := [] } }
    s.on ∧ s.dev.exc.notices = [.release 0 0 0] ∧ s.dev.excEnding 0 = false ∧ (d.runImage 0).isSome = true ∧ d.run 0 = some run1 := by
  decide

def catSet0 : CatSet := { width := 1, banks := 1, count := 1, entries := [(0, { valid := true, key := 0, care := 0, data := 0 })] }
def catGrp0 : CatGrp := { owner := 0, set := 0, first := 0, banks := 1, st := .ready }
def catJob0 : CatJob := { inst := 0, pair := 1, cid := 9, ops := 0, results := 0x100, count := 1, stride := 3, stop := false, excess := false }
def catKey0 : CatKey := { src := .gal 0 0, key := 0, all := false, time := 0 }

/-- A set of one entry with one READY group, an intake of one key that has waited, and a job whose record names `op`. -/
def catalogued (op : Nat) (f : CatGrp → CatGrp) (h : Dev → Dev) : State :=
  stored [] [ioCmd 0x20 (toLE 8 0 ++ toLE 8 0x100 ++ toLE 4 1 ++ toLE 4 128 ++ toLE 2 3)] (fun d => h { d with
    cat := { grp := [(3, f catGrp0)], sets := [(0, catSet0)], intake := [(0, [catKey0])], jobs := [catJob0] }
    mem := d.mem.set (Key.host 0 0 0) (BitVec.ofNat 8 op) })
def late (s : State) : State := { s with core := { s.core with time := 0x10000000 } }

theorem wit_CatalogueComplete_1 : let s := catalogued 1 id id
    let b := toLE 16 (BitVec.ofNat 128 (0x100 * 2 ^ 32 + 0x200 * 2 ^ 64 + 2 ^ 96)).toNat
    s.on ∧ (s.dev.cat.reqs.filter (fun (r : CatReq) => r.gal == 0)).length < 16 ∧ s.dev.cat.held = [] ∧ le b 0xD 1 < 64 ∧
      find s.dev.cat.sets (ctInst (s.dev.core 0).task * 64 + le b 0xD 1) = some catSet0 ∧ 0 < le b 0xC 1 ∧ le b 0xC 1 ≤ 64 ∧ le b 0xE 1 < 2 ∧
      le b 0 4 % 16 = 0 ∧ le b 4 4 % 16 = 0 ∧ le b 8 4 % 8 = 0 ∧ le b 0 4 + 8 * 1 * le b 0xC 1 ≤ Config.localBytes ∧
      le b 4 4 + recordBytes 1 (le b 0xE 1 == 1) * le b 0xC 1 ≤ Config.localBytes ∧ le b 8 4 + 8 ≤ Config.localBytes := by decide +kernel
theorem wit_CatalogueComplete_2 : let s := late (catalogued 1 id id)
    s.on ∧ look s.dev.cat.intake 0 [] = [catKey0] ∧ s.dev.catPick 0 = some 3 ∧ find s.dev.cat.grp 3 = some catGrp0 ∧
      catKey0.time + s.dev.getF R.catCtrl 31 16 ≤ s.core.time.toNat := by decide +kernel
theorem wit_CatalogueComplete_3 : let s := catalogued 1 id id
    ∃ x, s.dev.take ioRef 0x20 isCatOp = some x ∧ le x.area 0x10 4 = 1 ∧ le x.area 0x18 1 ≤ 3 ∧ 128 * 1 ≤ le x.area 0x14 4 :=
  ⟨ioCmd 0x20 (toLE 8 0 ++ toLE 8 0x100 ++ toLE 4 1 ++ toLE 4 128 ++ toLE 2 3), by decide +kernel⟩
theorem catRecordOk {o : Option (Except (AccFail × Bool) Bytes)} {bs : Bytes} (h : (match o with | some (.ok x) => decide (x = bs) | _ => false) = true) :
    o = some (.ok bs) := by
  split at h
  · rw [of_decide_eq_true h]
  · cases h
theorem wit_CatalogueComplete_4 : let s := catalogued 1 id id
    s.dev.catJob 0 1 9 = some catJob0 ∧ s.dev.catRecord catJob0 = some (.ok (1 :: List.replicate 127 0)) ∧
      catJob0.out.any (fun (o : Nat × Nat × Bool) => o.2.1 == 0 && !o.2.2) = false ∧
      (s.dev.setJob { catJob0 with next := 1, out := [(0, 0, true)] }).catSet 0 = some catSet0 :=
  ⟨by decide, catRecordOk (by decide +kernel), by decide, by decide⟩
theorem wit_CatalogueComplete_5 : let s := catalogued 0x10 id id
    s.dev.catRecord catJob0 = some (.ok (0x10 :: List.replicate 127 0)) ∧
      catJob0.out.any (fun (o : Nat × Nat × Bool) => o.2.1 == 0 && o.2.2) = false ∧
      (s.dev.setJob { catJob0 with next := 1, out := [(0, 0, false)] }).catSet 0 = some catSet0 ∧
      (s.dev.setJob { catJob0 with next := 1, out := [(0, 0, false)] }).catReady 0 ≠ [] :=
  ⟨catRecordOk (by decide +kernel), by decide, by decide, by decide +kernel⟩
theorem wit_CatalogueComplete_6 : up.dev.isManager up.core (.pf 0) = true := by decide
theorem wit_CatalogueComplete_7 : let s := catalogued 1 (fun g => { g with disabling := true }) id
    find s.dev.cat.grp 3 = some { catGrp0 with disabling := true } ∧ s.dev.catSet (catKey 0 0) = some catSet0 ∧ catSet0.prog = .idle := by decide
theorem wit_CatalogueComplete_8 : let s := catalogued 1 (fun g => { g with st := .refill 9 }) (fun d => d.setGrp 4 { catGrp0 with first := 1 })
    find s.dev.cat.grp 3 = some { catGrp0 with st := .refill 9 } ∧ s.dev.catSet (catKey 0 0) = some catSet0 ∧
      ceilDiv (min catSet0.count (bankEntries catSet0.width) * catSet0.width) 64 ≤ 9 ∧ s.dev.catReady (catKey 0 0) ≠ [] := by decide +kernel

/-- COMPRESS of 64 bytes at 0 into 4 KiB at 0x1000, the record at 0x3000. -/
def foldDesc : Bytes := toLE 8 1 ++ toLE 8 0 ++ toLE 4 64 ++ toLE 4 4096 ++ toLE 8 0x1000 ++ toLE 8 0 ++ toLE 8 0x3000 ++ toLE 8 0 ++ toLE 8 0
def foldChain (st : ChainSt FolRun) : FolChain := { gal := 0, task := 0, tag := 0, addr := 0x100, bytes := foldDesc, st := st }
def folding (xs : List FolChain) : State :=
  stored [] [] (fun d => { d with fol := { eng := [(0, xs)], submitted := 1 }, mem := d.mem ++ cells (Key.localStore 0 0x100) foldDesc })
/-- The engine refuses a descriptor with OPCODE 0. -/
def folded0 : State :=
  stored [] [] (fun d => { d with fol := { eng := [(0, [foldChain .ready])], submitted := 1 } })

theorem wit_FolioComplete_1 : let s := folding []
    s.on ∧ localOk (0x100 : BitVec 64).toNat 64 64 = true ∧ s.dev.folPlace = some 8 ∧ localOk (0x101 : BitVec 64).toNat 64 64 = false := by decide +kernel
theorem wit_FolioComplete_2 : (folding [foldChain .ready]).dev.folFind 0 (bits 0 15 0) = some (0, foldChain .ready) ∧
    (folding [foldChain (.running {})]).dev.folFind 0 (bits 0 15 0) = some (0, foldChain (.running {})) ∧
    (folding [foldChain (.running { ended := some 0 })]).dev.folFind 0 (bits 0 15 0) = some (0, foldChain (.running { ended := some 0 })) := by decide
theorem folOk {o : Except FolFail FolRun} (h : (match o with | .ok _ => true | _ => false) = true) : ∃ r, o = .ok r := by
  cases o with
  | ok r => exact ⟨r, rfl⟩
  | error e => cases h
theorem folErr {o : Except FolFail FolRun} {n : Nat} (h : (match o with | .error (m, none) => m == n | _ => false) = true) :
    o = .error (n, none) := by
  split at h
  · rw [eq_of_beq h]
  · cases h
theorem wit_FolioComplete_3 : let s := folding [foldChain .ready]
    ∃ x d r, s.dev.folTake 0 FolChain.isReady = some (x, d) ∧ d.folCheck 0 { x with bytes := d.localRead x.gal x.addr 64 } = .ok r :=
  have ⟨r, h⟩ := folOk (o := ((folding [foldChain .ready]).dev.setFol 0 []).folCheck 0
    { foldChain .ready with bytes := ((folding [foldChain .ready]).dev.setFol 0 []).localRead 0 0x100 64 }) (by decide +kernel)
  ⟨foldChain .ready, _, r, rfl, h⟩
theorem wit_FolioComplete_4 : let s := folded0
    ∃ x d, s.dev.folTake 0 FolChain.isReady = some (x, d) ∧ d.folCheck 0 { x with bytes := d.localRead x.gal x.addr 64 } = .error (0x0201, none) :=
  ⟨foldChain .ready, folded0.dev.setFol 0 [], rfl, folErr (by decide +kernel)⟩
theorem wit_FolioComplete_5 : let s := folding [foldChain (.running {})]
    s.dev.folTake 0 (s.dev.folDue 0) = some (foldChain (.running {}), s.dev.setFol 0 []) ∧
      (foldChain (.running {})).st = .running {} := ⟨rfl, rfl⟩
theorem wit_FolioComplete_6 : let s := folding [foldChain (.running { ended := some 0 })]
    s.dev.folTake 0 (s.dev.folDue 0) = some (foldChain (.running { ended := some 0 }), s.dev.setFol 0 []) := rfl
theorem wit_FolioComplete_7 : let s := upWith (fun d => { d with fol := { d.fol with notices := [{ gal := 0, task := 0 }] } })
    s.on ∧ s.dev.fol.notices = [{ gal := 0, task := 0 }] := by decide
theorem wit_FolioComplete_8 : up.dev.isManager up.core (.pf 0) = true ∧ up.dev.folChains 0 = [] := by decide

/-- A copy of 64 bytes from 0x1000 to 0x2000 of local store. -/
def moveDesc : Bytes := toLE 2 1 ++ toLE 6 5 ++ toLE 8 0x1000 ++ toLE 8 0x2000 ++ toLE 8 64 ++ toLE 8 0 ++ toLE 8 0 ++ toLE 8 0 ++ toLE 8 0
def moveChain (st : ChainSt DmaRun) : DmaChain := { gal := 0, task := 0, tag := 0, addr := 0x100, bytes := moveDesc, st := st }
def moveRun : DmaRun := { src := [(0x1000, 64)], dst := [(0x2000, 64)] }
def moving (xs : List DmaChain) (n : Nat) : State :=
  stored [] [] (fun d => { d with
    dma := { d.dma with chan := [(8, xs)], owner := [(8, 0)], cq := [(0, { base := 0, size := 16, posted := n })], notices := [{ gal := 0, task := 0 }] }
    mem := d.mem ++ cells (Key.localStore 0 0x100) moveDesc })

theorem wit_DmaComplete_1 : let s := moving [] 0
    s.on ∧ localOk (0x100 : BitVec 64).toNat 64 64 = true ∧ find s.dev.dma.cq 0 = some { base := 0, size := 16 } ∧
      best (fun a b => decide ((s.dev.dmaChains a).length < (s.dev.dmaChains b).length))
        (((s.dev.dmaOwned (ctInst (s.dev.core 0).task)).filter (fun ch => !s.dev.isFenced Blk.dma ch)).filter
          (fun ch => decide ((s.dev.dmaChains ch).length < 16))) = some 8 := by decide
theorem wit_DmaComplete_2 : find up.dev.dma.cq 0 = none := by decide
theorem wit_DmaComplete_3 : (moving [moveChain .ready] 0).dev.dmaFind 0 (bits 0 15 0) = some (8, moveChain .ready) ∧
    (moving [moveChain (.running moveRun)] 0).dev.dmaFind 0 (bits 0 15 0) = some (8, moveChain (.running moveRun)) := by decide
theorem wit_DmaComplete_4 : let s := moving [] 0
    let v : BitVec 64 := 0x4000000
    s.dev.dma.chan.any (fun (e : Nat × List DmaChain) => e.2.any (fun (x : DmaChain) => x.gal == 0)) = false ∧ 4 ≤ bits v.toNat 27 24 ∧
      bits v.toNat 27 24 ≤ 10 ∧ bits v.toNat 20 0 % (32 * 2 ^ bits v.toNat 27 24) = 0 := by decide
theorem wit_DmaComplete_5 : let s := moving [] 1
    find s.dev.dma.cq 0 = some { base := 0, size := 16, posted := 1 } ∧ (1 + 16 - 0) % 16 = 1 ∧ bits (1 : BitVec 64).toNat 15 0 = 1 := by decide
theorem dmaOk {x : Dev × Except (Nat × Option AccFail) DmaRun} (h : (match x with | (_, .ok _) => true | _ => false) = true) :
    ∃ d r, x = (d, .ok r) := by
  obtain ⟨d, e⟩ := x
  cases e with
  | ok r => exact ⟨d, r, rfl⟩
  | error e => cases h
theorem dmaErr {x : Dev × Except (Nat × Option AccFail) DmaRun} {n : Nat} (h : (match x with | (_, .error (m, none)) => m == n | _ => false) = true) :
    ∃ d, x = (d, .error (n, none)) := by
  obtain ⟨d, e⟩ := x
  split at h
  · rename_i e; cases e; exact ⟨d, by rw [eq_of_beq h]⟩
  · cases h
theorem wit_DmaComplete_6 : ∃ x d d' r, (moving [moveChain .ready] 0).dev.dmaTake 8 DmaChain.isReady = some (x, d) ∧
    d.dmaCheck up.core 8 { x with bytes := d.localRead x.gal x.addr 64 } = (d', .ok r) :=
  have ⟨d', r, h⟩ := dmaOk (x := ((moving [] 0).dev).dmaCheck up.core 8 { moveChain .ready with bytes := (moving [] 0).dev.localRead 0 0x100 64 })
    (by decide +kernel)
  ⟨moveChain .ready, (moving [] 0).dev, d', r, rfl, h⟩
theorem wit_DmaComplete_7 : let s := (moving [moveChain .ready] 0).withDev { (moving [moveChain .ready] 0).dev with mem := [] }
    ∃ x d d', s.dev.dmaTake 8 DmaChain.isReady = some (x, d) ∧
      d.dmaCheck up.core 8 { x with bytes := d.localRead x.gal x.addr 64 } = (d', .error (0x0201, none)) :=
  have ⟨d', h⟩ := dmaErr (n := 0x0201) (x := ({ (moving [] 0).dev with mem := [] } : Dev).dmaCheck up.core 8 { moveChain .ready with
    bytes := ({ (moving [] 0).dev with mem := [] } : Dev).localRead 0 0x100 64 }) (by decide +kernel)
  ⟨moveChain .ready, { (moving [] 0).dev with mem := [] }, d', rfl, h⟩
theorem wit_DmaComplete_8 : let s := moving [moveChain (.running moveRun)] 0
    s.dev.dmaTake 8 DmaChain.isMoving = some (moveChain (.running moveRun), (moving [] 0).dev) ∧
      (moving [] 0).dev.dmaLost 8 (moveChain (.running moveRun)) moveRun = ((moving [] 0).dev, moveRun) ∧
      (s.dev.dmaChains 8).find? (fun (x : DmaChain) => x.gal == 0 && x.tag == 0) = some (moveChain (.running moveRun)) ∧ moveRun.ended = none :=
  ⟨rfl, rfl, rfl, rfl⟩
theorem wit_DmaComplete_9 : let s := moving [moveChain (.running { moveRun with ended := some 0 })] 0
    s.dev.dmaTake 8 (fun x => x.isEnded && s.dev.cqFree x.gal && !s.dev.awaits (x.who 8 s.dev)) =
        some (moveChain (.running { moveRun with ended := some 0 }), (moving [] 0).dev) ∧ (moving [] 0).dev.isFenced Blk.gal 0 = false ∧
      s.dev.dma.notices = [{ gal := 0, task := 0 }] := ⟨rfl, by decide, rfl⟩

theorem wit_EventsComplete_1 : let s := coreAt aCore id
    s.on ∧ bits (8 : BitVec 64).toNat 20 0 % 8 = 0 ∧ bits (8 : BitVec 64).toNat 47 21 = 0 ∧ s.dev.logicalOf 0 = some 0 ∧
      bits (1 : BitVec 64).toNat 20 0 % 8 ≠ 0 := by decide
theorem wit_EventsComplete_2 : up.dev.isManager up.core (.pf 0) = true ∧ up.core.served = true ∧ (up.dev.presenter 0).isSome = true ∧
    (16 : BitVec 10).toNat % 8 = 0 ∧ up.dev.flag R.evtCtrl 0 = false := by decide
theorem wit_EventsComplete_3 : let s := upWith (fun d => { d with doc := { d.doc with notes := [5] }, saf := { d.saf with fences := [(Blk.gal, 0)] } })
    s.on ∧ 5 ∈ s.dev.doc.notes ∧ s.dev.isFenced Blk.gal (s.dev.phys 0) = true := by decide

def digestArea (op : Nat) : Bytes := toLE 1 op ++ List.replicate 63 0
def digestReq (op : Nat) : PrvReq := { host := some (0, 1, 9), inst := 0, bytes := padTo 128 ((digestArea op).take 0x30) }
def digestPort (op : Nat) : State := stored [] [] (fun d => { d with mem := d.mem ++ cells (Key.localStore 0 0x100) (toLE 1 op ++ List.replicate 127 0) })
def aCtx (step : PrvStep) : PrvCtx := { owner := 0, alg := 1, chain := [0, 0, 0, 0, 0, 0, 0, 0], buf := List.replicate 64 0, queue := [digestReq 2], step := step }
def digesting (x : PrvCtx) : State := upWith (fun d => { d with prv := { d.prv with ctx := [(3, x)], notices := [{ gal := 0, task := 0 }] } })

theorem wit_ProvenanceComplete_1 : (stored [] [ioCmd 0x28 (digestArea 1)] id).on ∧
    (stored [] [ioCmd 0x28 (digestArea 1)] id).dev.take ioRef 0x28 isDigestOp = some (ioCmd 0x28 (digestArea 1)) ∧
    (∀ op ∈ [1, 2, 3, 4, 5, 0, 6], (digestReq op).op = op) := by decide +kernel
theorem wit_ProvenanceComplete_2 : ∀ op ∈ [1, 2, 3, 4, 5], (digestPort op).dev.prvPortReq 0 0x100 =
    some { inst := 0, bytes := toLE 1 op ++ List.replicate 127 0 } ∧ (PrvReq.op { inst := 0, bytes := toLE 1 op ++ List.replicate 127 0 } = op) := by
  decide +kernel
theorem wit_ProvenanceComplete_3 : (digestPort 1).dev.prvPortReq 0 0x101 = none := by decide
theorem wit_ProvenanceComplete_4 : let s := digesting (aCtx (.absorb 0 false))
    s.dev.isFenced Blk.prv 0 = false ∧ ((List.range 256).map (fun j => (s.dev.prv.last + 1 + j) % 256)).find? (fun k => match s.dev.prvCtx k with
      | some x => x.ready
      | none => false) = some 3 ∧ s.dev.prvCtx 3 = some (aCtx (.absorb 0 false)) := by decide +kernel
theorem wit_ProvenanceComplete_5 : let s := digesting (aCtx (.compare 0 []))
    s.dev.prvCtx 3 = some (aCtx (.compare 0 [])) ∧ s.dev.prv.notices = [{ gal := 0, task := 0 }] := by decide
theorem wit_ProvenanceComplete_6 : let r : PrvReq := { inst := 0, bytes := [1, 0, 1] }
    let s := upWith (fun d => { d.setInst 0 { d.inst 0 with share := { (d.inst 0).share with digests := 4 } } with prv := { d.prv with waiting := [r] } })
    s.dev.prvFree = some 0 ∧ s.dev.prv.waiting.find? (fun (r : PrvReq) => s.dev.prvRoom r.inst) = some r ∧ (digestAlg r.alg).isSome = true := by
  decide +kernel

/-- Channel 5 in service with one queued read, a row to repair and a scrub enabled. -/
def aRead : MemReq := { write := false, cls := 2, block := 4, order := 0 }
def aChan : Chan := { (State.reset.dev.chan 5) with st := .active, bytes := 2 ^ 30, queue := [aRead], accepted := 1, due := [7] }
def channelled (f : Dev → Dev) : State := upWith (fun d => f ((d.setChan 5 aChan).setFlag R.memCtrl 0 true))

theorem wit_MemorySystemComplete_1 : let s := channelled id
    s.on ∧ (s.dev.chan 5).st = .active ∧ best ((s.dev.chan 5).before 5) ((s.dev.chan 5).queue.filter ((s.dev.chan 5).issuable 5)) = some aRead := by
  decide
theorem wit_MemorySystemComplete_4 : let s := channelled id
    s.dev.codeOf 5 [] = .clean ∧ s.dev.codeOf 5 [3] = .corrected ∧ s.dev.codeOf 5 [3, 19] = .detected ∧ s.dev.codeOf 5 [3, 19, 35] = .beyond := by
  decide
theorem wit_MemorySystemComplete_2 : let s : State := { channelled id with core := { up.core with time := 0x10000000000 } }
    s.dev.registrarUp = true ∧ (s.dev.chan 5).queue.any (fun r => r.order == 0 && !r.promoted && r.cls != 0 && decide (r.since + s.dev.ageLimit r.cls < s.core.time.toNat)) = true ∧
      s.dev.flag R.memCtrl 0 = true ∧ 64 * 4 < (s.dev.chan 5).bytes ∧ (s.dev.chan 5).due.contains 7 = true ∧
      s.dev.isManager s.core (.pf 0) = true := by decide
theorem wit_MemorySystemComplete_3 : (channelled (fun d => { d with saf := { d.saf with regHalted := true } })).dev.registrarUp = false := by decide

def nvme : NvmeCmd := { id := 7, lba := 0, data := none, fua := false }
def drive (x : Ssd) (f : Dev → Dev) : State := upWith (fun d => f { d with vol := { d.vol with ssd := [(3, x)] } })
def mending : Vol := { aVol with members := [some 0, some 1, some 2, none], rebuild := some (3, 5) }

theorem wit_VolumesComplete_1 : let s := drive {} id
    s.on ∧ (s.dev.ssd 3).st = .absent ∧ s.core.mode ≠ .rom := by decide
theorem wit_VolumesComplete_2 : ((drive { st := .init } id).dev.ssd 3).resetting = false ∧ ((drive { st := .init } id).dev.ssd 3).st = .init ∧
    ((drive { st := .free, resetting := true, cmds := [nvme] } id).dev.ssd 3).resetting = true ∧
    ((drive { st := .free, resetting := true, cmds := [nvme] } id).dev.ssd 3).cmds.any (·.again) = false ∧
    ((drive { st := .free } id).dev.ssd 3).st ≠ .absent := by decide
theorem wit_VolumesComplete_0 : let s : State := { up with core := { up.core with time := 0x1000000000000 } }
    s.on ∧ s.core.served = true ∧ 1000000 * s.dev.getF R.volCtrl 47 32 ≤ s.core.time.toNat := by decide
theorem wit_VolumesComplete_3 : let x := (drive { st := .free, cmds := [nvme] } id).dev.ssd 3
    let y := (drive { st := .free, cmds := [{ nvme with abort := true }] } id).dev.ssd 3
    x.resetting = false ∧ x.cmds.find? (·.id == 7) = some nvme ∧ x.cmds.any (fun k => k.id == 7 && !k.abort) = true ∧
      y.resetting = false ∧ y.cmds.any (fun k => k.id == 7 && k.abort) = true := by decide
theorem wit_VolumesComplete_4 : let s := upWith (fun d => d.setVol 0 mending)
    s.dev.volume 0 = some mending ∧ mending.rebuild = some (3, 5) ∧ mending.state = 3 ∧
      s.dev.vol.drains.any (fun r => r.volume == 0 && mending.stripe r.chunk == mending.watermark) = false ∧
      ∃ ds pu qu us, s.dev.stripeUnits mending mending.watermark [] = (ds, pu, qu) ∧ recoverData ds pu qu = some us :=
  ⟨by decide, by decide, by decide, by decide, _, _, _, _, rfl, rfl⟩
theorem wit_VolumesComplete_5 : up.dev.isManager up.core (.pf 0) = true ∧ ((drive { st := .free } id).dev.ssd 3).st = .free ∧
    ((drive { st := .spare } id).dev.ssd 3).st = .spare ∧ ((drive { st := .failed } id).dev.ssd 3).st = .failed := by decide
theorem wit_VolumesComplete_6 : (withAdmin 0xA2 (List.replicate 32 0)).adminTakes adminRef 0xA2 (adminCmd 0xA2 (List.replicate 32 0)) :=
  ⟨by decide, by decide, by decide⟩
def volAdmin (op : Nat) (area : Bytes) : State :=
  (withAdmin op area).withDev ((withAdmin op area).dev.setVol 0 aVol)
theorem wit_VolumesComplete_7 : let a : Bytes := List.replicate 32 0
    let s := volAdmin 0xA3 a
    s.adminTakes adminRef 0xA3 (adminCmd 0xA3 a) ∧ (s.started (adminCmd 0xA3 a)).volume (le a 0 2) = some aVol ∧
      (s.started (adminCmd 0xA3 a)).volumeBusy (le a 0 2) aVol = false := ⟨⟨by decide, by decide, by decide⟩, by decide, by decide⟩
theorem wit_VolumesComplete_8 : let a : Bytes := toLE 2 0xFFFF ++ List.replicate 30 0
    ∀ op ∈ [0xA1, 0xA0], let s := volAdmin op a
      let x := adminCmd op a
      s.adminTakes adminRef op x ∧ maintOf x = some { sanitise := op == 0xA0, volume := 0xFFFF, method := 0 } ∧
        (s.started x).acc.maint.any (·.volume == 0xFFFF) = false ∧ s.core.mode = .service := by
  intro a op h
  simp only [List.mem_cons, List.not_mem_nil, or_false] at h
  rcases h with h | h <;> subst h <;> exact ⟨⟨by decide, by decide, by decide⟩, by decide, by decide, by decide⟩
theorem wit_VolumesComplete_9 : let a : Bytes := toLE 2 0 ++ List.replicate 30 0
    ∀ op ∈ [0xA1, 0xA0], let s := volAdmin op a
      let x := adminCmd op a
      s.adminTakes adminRef op x ∧ maintOf x = some { sanitise := op == 0xA0, volume := 0, method := 0 } ∧
        ((s.started x).volume 0).isSome = true ∧ (s.started x).acc.maint.any (·.volume == 0) = false := by
  intro a op h
  simp only [List.mem_cons, List.not_mem_nil, or_false] at h
  rcases h with h | h <;> subst h <;> exact ⟨⟨by decide, by decide, by decide⟩, by decide, by decide, by decide⟩
def maintaining (m : Mode) (v : Nat) : State :=
  { drive { st := .free } (fun d => { d with acc := { d.acc with maint := [{ sanitise := true, volume := v, method := 0 }] } }) with
    core := { up.core with mode := m } }
theorem wit_VolumesComplete_10 : let s := maintaining .maintenance 0xFFFF
    s.on ∧ s.dev.acc.maint.find? (·.volume == 0xFFFF) = some { sanitise := true, volume := 0xFFFF, method := 0 } ∧ s.core.mode = .maintenance ∧
      s.dev.presentSsds.contains 3 = true ∧ look ([] : Tbl Nat) 3 0 ≠ 2 := by decide
theorem wit_VolumesComplete_11 : let s := maintaining .service 0
    s.dev.acc.maint.find? (·.volume == 0) = some { sanitise := true, volume := 0, method := 0 } ∧ s.core.mode = .service := by decide

/-- An admin command that names a share record at address 0 of instance 0. -/
def aShare : Bytes := toLE 1 1 ++ toLE 2 0 ++ toLE 1 4 ++ toLE 8 0 ++ toLE 8 0 ++ toLE 8 0x100000000 ++ toLE 5 0x100000000 ++ toLE 1 1
def withRecord (op : Nat) (area : Bytes) (rec_ : Bytes) (f : Dev → Dev) : State :=
  let d := mapping true (withAdmin op area).dev
  queued.withDev (f { d with mem := d.mem ++ cells (Key.host 0 0 0) rec_ })
theorem exOk {α : Type} [DecidableEq α] {o : Except Dev α} {a : α} (h : (match o with | .ok x => decide (x = a) | _ => false) = true) : o = .ok a := by
  split at h
  · rw [of_decide_eq_true h]
  · cases h
def createArea : Bytes := toLE 8 0 ++ toLE 1 5 ++ toLE 1 1 ++ toLE 1 7 ++ List.replicate 21 0
theorem wit_InstancesComplete_1 : let s := withRecord 0x90 createArea aShare id
    let x := adminCmd 0x90 createArea
    s.adminTakes adminRef 0x90 x ∧ le x.area 8 1 = 5 ∧ ((s.started x).inst 5).st = .free ∧ le x.area 9 1 = 1 ∧ le x.area 10 1 = 7 ∧
      (s.started x).boundTo 1 7 = none ∧ (s.started x).adminRead s.core x (le x.area 0 8) 1024 = .ok (padTo 1024 aShare) ∧
      shareOk (padTo 1024 aShare) = true :=
  ⟨⟨by decide, by decide, by decide⟩, by decide, by decide, by decide, by decide, by decide +kernel, exOk (by decide +kernel), by decide +kernel⟩
theorem wit_InstancesComplete_2 : let s := withRecord 0x91 (List.replicate 32 0) aShare id
    let x := adminCmd 0x91 (List.replicate 32 0)
    s.adminTakes adminRef 0x91 x ∧ ((s.started x).inst 0).gone = false ∧
      (s.started x).adminRead s.core x (le x.area 0 8) 1024 = .ok (padTo 1024 aShare) :=
  ⟨⟨by decide, by decide, by decide⟩, by decide, exOk (by decide +kernel)⟩
def withInst (op : Nat) (area : Bytes) (i : Inst) (f : Dev → Dev) : State := withRecord op area [] (fun d => f (d.setInst 5 i))
def anInst : Inst := { st := .active, bound := some (1, 7) }
theorem wit_InstancesComplete_3 : let a0 := toLE 2 5
    let a1 := toLE 2 0x105
    let s0 := withInst 0x92 a0 anInst id
    let s1 := withInst 0x92 a1 { anInst with st := .frozen } id
    s0.adminTakes adminRef 0x92 (adminCmd 0x92 a0) ∧ le a0 0 1 = 5 ∧ le a0 1 1 = 0 ∧ ((s0.started (adminCmd 0x92 a0)).inst 5).gone = false ∧
      ((s0.started (adminCmd 0x92 a0)).inst 5).st = .active ∧ s1.adminTakes adminRef 0x92 (adminCmd 0x92 a1) ∧ le a1 0 1 = 5 ∧ le a1 1 1 = 1 ∧
      ((s1.started (adminCmd 0x92 a1)).inst 5).st = .frozen :=
  ⟨⟨by decide, by decide, by decide⟩, by decide, by decide, by decide, by decide, ⟨by decide, by decide, by decide⟩, by decide, by decide, by decide⟩
theorem wit_InstancesComplete_4 : let s := upWith (fun d => d.setInst 5 { anInst with st := .freezing, freezeCmd := some (0, 0, 9) })
    s.on ∧ (s.dev.inst 5).freezeAt = 0 ∧ (s.dev.inst (5 : BitVec 8).toNat).st = .freezing ∧ (s.dev.inst 5).freezeCmd = some (0, 0, 9) ∧ s.dev.nothingRuns 5 = true := by decide
theorem wit_InstancesComplete_0 : let s : State := { upWith (fun d => d.setInst 5 { anInst with st := .freezing, freezeCmd := some (0, 0, 9) }) with
      core := { up.core with time := 0x1000000000000 } }
    s.on ∧ (s.dev.inst (5 : BitVec 8).toNat).st = .freezing ∧ (s.dev.inst 5).freezeCmd = some (0, 0, 9) ∧
      (s.dev.inst 5).freezeAt + 1000000 * s.dev.getF R.insCtrl 31 16 ≤ s.core.time.toNat := by decide
theorem wit_InstancesComplete_5 : let a := List.replicate 16 0 ++ toLE 1 5
    let s := withInst 0x93 a { anInst with st := .frozen } (fun d => { d with ins := { d.ins with migKey := some ([], []) } })
    let d := s.started (adminCmd 0x93 a)
    s.adminTakes adminRef 0x93 (adminCmd 0x93 a) ∧ le a 0x10 1 = 5 ∧ (d.inst 5).st = .frozen ∧ (d.inst 5).gone = false ∧
      d.vol.vols.any (fun (e : Nat × Vol) => e.2.owner == 5) = false ∧ d.ins.migKey = some ([], []) :=
  ⟨⟨by decide, by decide, by decide⟩, by decide, by decide, by decide, by decide, rfl⟩
def blobHead : Bytes := toLE 4 0x47494D58 ++ toLE 2 1 ++ toLE 2 0 ++ toLE 8 128
def importArea : Bytes := toLE 8 0 ++ toLE 8 200
theorem wit_InstancesComplete_6 : let s := withRecord 0x94 importArea blobHead id
    let x := adminCmd 0x94 importArea
    s.adminTakes adminRef 0x94 x ∧ 128 ≤ le x.area 8 8 ∧ (s.started x).adminRead s.core x (le x.area 0 8) 128 = .ok (padTo 128 blobHead) ∧
      le (padTo 128 blobHead) 8 8 = 128 ∧ le (padTo 128 blobHead) 0 4 = 0x47494D58 ∧ le (padTo 128 blobHead) 4 2 = 1 :=
  ⟨⟨by decide, by decide, by decide⟩, by decide, exOk (by decide +kernel), by decide, by decide, by decide⟩
theorem wit_InstancesComplete_7 : let a := toLE 1 5
    let s := withInst 0x95 a anInst id
    let d := s.started (adminCmd 0x95 a)
    s.adminTakes adminRef 0x95 (adminCmd 0x95 a) ∧ le a 0 1 = 5 ∧ (d.inst 5).gone = false ∧
      d.vol.vols.any (fun (e : Nat × Vol) => e.2.owner == 5) = false ∧ (d.inst 5).freezeCmd = none :=
  ⟨⟨by decide, by decide, by decide⟩, by decide, by decide, by decide, by decide⟩
theorem wit_InstancesComplete_8 : up.dev.isManager up.core (.pf 0) = true ∧ up.dev.flag R.insMapStatus 63 = false ∧
    (up.dev.setFlag R.insMapStatus 63 true).isManager up.core (.pf 0) = true ∧ (up.dev.setFlag R.insMapStatus 63 true).flag R.insMapStatus 63 = true := by
  decide
def anInval (w : List Nat) : Inval := { inst := 5, leaves := [], waiting := w, request := true }
theorem wit_InstancesComplete_9 : let s (w : List Nat) := coreAt aCore (fun d => { d with ins := { d.ins with inval := [anInval w] } })
    (s [0, 1]).dev.ins.inval.find? (fun (v : Inval) => v.waiting.contains ((s [0, 1]).dev.tlbOf (.gallery 0))) = some (anInval [0, 1]) ∧
      [0, 1].filter (· != (s [0, 1]).dev.tlbOf (.gallery 0)) ≠ [] ∧
      (s [0]).dev.ins.inval.find? (fun (v : Inval) => v.waiting.contains ((s [0]).dev.tlbOf (.gallery 0))) = some (anInval [0]) ∧
      [0].filter (· != (s [0]).dev.tlbOf (.gallery 0)) = [] := by decide
theorem wit_InstancesComplete_10 : let s := upWith (fun d => { d.setPort 0 { linkUp := true, perstLow := false } with
      ins := { d.ins with holder := none, managers := [List.replicate 48 1] } })
    s.on ∧ s.dev.mgmtUp s.core = true ∧ s.dev.ins.holder = none ∧ s.dev.ins.managers.contains (List.replicate 48 1) = true ∧
      s.dev.ins.managers.contains [] = false ∧ (s.dev.port 0).linkUp = true ∧ (List.replicate 32 (1 : BitVec 8)).length = 32 ∧
      (List.replicate 16 (1 : BitVec 8)).length = 16 ∧ allZero (List.replicate 16 1) = false ∧ ([] : List (BitVec 8)).length ≠ 32 := by decide
theorem wit_InstancesComplete_11 : let s := upWith (fun d => { d.setPort 0 { linkUp := true, perstLow := false } with
      ins := { d.ins with holder := some 2, managers := [List.replicate 48 1] } })
    s.on ∧ s.dev.mgmtUp s.core = true ∧ s.dev.ins.holder ≠ none ∧ s.dev.ins.managers.contains (List.replicate 48 1) = true ∧
      (s.dev.port 0).linkUp = true := by decide

/-- Physical gallery 0 retired and fenced, its reserves (32 and 33) as `f` leaves them. -/
def retiring (f : SafSt → SafSt) : State :=
  coreAt aCore (fun d => { d with
    gals := { d.gals with retired := [0] }
    doc := { d.doc with gal := put d.doc.gal 0 .fenced }
    saf := f d.saf })
theorem wit_SafetyComplete_1 : let s := retiring (fun x => { x with passed := [32] })
    s.on ∧ s.dev.logicalOf 0 = some 0 ∧ s.dev.gals.retired.contains 0 = true ∧ find s.dev.doc.task 0 = none ∧
      look s.dev.doc.gal 0 .idle = .fenced ∧ s.dev.reserveOf (0 / 34) = some 32 := by decide
theorem wit_SafetyComplete_2 : let s := retiring (fun x => { x with passed := [] })
    s.dev.logicalOf 0 = some 0 ∧ s.dev.gals.retired.contains 0 = true ∧ find s.dev.doc.task 0 = none ∧
      look s.dev.doc.gal 0 .idle = .fenced ∧ s.dev.reserveOf (0 / 34) = none := by decide
theorem wit_SafetyComplete_3 : (upWith (fun d => { d with saf := { d.saf with injected := [(5, 2)], retest := [(5, 2)] } })).dev.saf.injected.contains (5, 2) = true ∧
    (upWith (fun d => { d with saf := { d.saf with injected := [(5, 2)], retest := [(5, 2)] } })).dev.saf.retest.contains (5, 2) = true ∧ up.core.served = true := by
  decide
def testing (f : GalSt) : State := coreAt aCore (fun d => { d with
    doc := { d.doc with gal := put d.doc.gal 0 f }
    saf := { d.saf with claims := [{ gallery := 0, since := 0, outvote := false }] } })
theorem wit_SafetyComplete_4 : let s : State := { testing .testPending with core := { up.core with time := 0x10000000000 } }
    s.on ∧ s.dev.logicalOf 0 = some 0 ∧ look s.dev.doc.gal 0 .idle = .testPending ∧
      s.dev.saf.claims.any (fun (x : TestClaim) => x.gallery == 0 && !x.late && decide (x.since + 500000000 ≤ s.core.time.toNat)) = true ∧
      s.dev.saf.heartbeat + 50000000 ≤ s.core.time.toNat ∧ s.dev.saf.kick + 5000000 ≤ s.core.time.toNat ∧ (testing .test).dev.inTest 0 = true := by
  decide
theorem wit_SafetyComplete_5 : up.dev.registrarUp = true ∧
    (upWith (fun d => { d with saf := { d.saf with regRestart := true } })).dev.saf.regRestart = true ∧
    up.dev.isManagerOrMgmt up.core (.pf 0) = true ∧ fld (0xA55A000000000001 : BitVec 64) 63 48 = 0xA55A ∧ fld (0xA55A000000000001 : BitVec 64) 0 0 = 1 := by
  decide

theorem wit_PowerComplete_1 : let r : CanaryReport := { unit := { block := BitVec.ofNat 8 Blk.gal, unit := 0 }, mv := 700, permits := some 2000 }
    let q : CanaryReport := { unit := { block := 6, unit := 0 }, mv := 700, permits := some 2000 }
    let s := coreAt aCore id
    s.on ∧ r.unit.block.toNat = Blk.gal ∧ (s.dev.core 0).st ≠ .asleep ∧ q.unit.block.toNat ≠ Blk.gal ∧
      ({ q with permits := none } : CanaryReport).permits = none ∧ s.dev.isManagerOrMgmt s.core (.pf 0) = true := by decide

def pieceArea : Bytes := toLE 8 0 ++ toLE 8 77 ++ toLE 4 0 ++ toLE 4 4096 ++ toLE 4 8388608 ++ toLE 4 0
theorem wit_FirmwareComplete_1 : let s := withAdmin 0xB0 pieceArea
    let x := adminCmd 0xB0 pieceArea
    let d := s.started x
    s.adminTakes adminRef 0xB0 x ∧ s.dev.pieceNow = none ∧ d.unconfirmed = false ∧ le x.area 8 8 = 77 ∧ le x.area 0x10 4 = 0 ∧
      le x.area 0x14 4 = 4096 ∧ le x.area 0x18 4 = 8388608 ∧ imageBytesOk 8388608 = true ∧ d.updateOpen = false ∧ d.heldByOther s.core 1 = false :=
  ⟨⟨by decide, by decide, by decide⟩, by decide, by decide, by decide, by decide, by decide, by decide, by decide, by decide, by decide⟩
def aTurn : PieceTurn := { cmd := (0, 0, 9), next := 0, stop := 4096, cut := false }
theorem wit_FirmwareComplete_2 : let s := (withAdmin 0xB0 pieceArea).withDev { (withAdmin 0xB0 pieceArea).dev with
      mgmt := { (withAdmin 0xB0 pieceArea).dev.mgmt with piece := some aTurn } }
    s.on ∧ s.dev.pieceNow = some aTurn ∧ s.dev.cmd 0 0 9 = some (adminCmd 0xB0 pieceArea) ∧ aTurn.cmd = (0, 0, 9) := by decide
theorem wit_FirmwareComplete_3 : (withAdmin 0xB1 (toLE 8 77)).adminTakes adminRef 0xB1 (adminCmd 0xB1 (toLE 8 77)) ∧
    ((withAdmin 0xB1 (toLE 8 77)).started (adminCmd 0xB1 (toLE 8 77))).commitUpdate 77 =
      ((withAdmin 0xB1 (toLE 8 77)).started (adminCmd 0xB1 (toLE 8 77)), 0, 0x0201) := ⟨⟨by decide, by decide, by decide⟩, rfl⟩
def activating (op : Nat) (area : Bytes) : State :=
  (withAdmin op area).withDev (((((withAdmin op area).dev.setFlag R.fwuStatus 1 true).setFlag R.fwuStatus 4 true).setReg R.fwuUpdateId 77).setFlag
    R.devStatus 5 true)
theorem wit_FirmwareComplete_4 : ∀ w ∈ [0, 1], let a : Bytes := toLE 8 77 ++ toLE 1 w
    let s := activating 0xB2 a
    let d := s.started (adminCmd 0xB2 a)
    s.adminTakes adminRef 0xB2 (adminCmd 0xB2 a) ∧ d.updateOpen = true ∧ d.committed = true ∧ d.updateId = le a 0 8 ∧ le a 8 1 = w ∧
      s.core.mode = .service := by
  intro w h
  simp only [List.mem_cons, List.not_mem_nil, or_false] at h
  rcases h with h | h <;> subst h <;> exact ⟨⟨by decide, by decide, by decide⟩, by decide, by decide, by decide, by decide, by decide⟩
theorem wit_FirmwareComplete_5 : (activating 0xB3 []).adminTakes adminRef 0xB3 (adminCmd 0xB3 []) ∧
    ((activating 0xB3 []).started (adminCmd 0xB3 [])).unconfirmed = true := ⟨⟨by decide, by decide, by decide⟩, by decide⟩
theorem wit_FirmwareComplete_6 : up.dev.isManager up.core (.pf 0) = true ∧ up.dev.registrarUp = true := by decide

/-- A frame. -/
def uartMake (ty seq : Byte) (p : Bytes) : Bytes :=
  [0x58, 0x52, ty, seq] ++ toLE 2 p.length ++ p ++ toLE 4 (crc32c ([ty, seq] ++ toLE 2 p.length ++ p))

theorem uartFrame_make (ty seq : Byte) (p : Bytes) (h : p.length < 65536) :
    uartFrame (uartMake ty seq p) = some (ty.toNat, seq.toNat, p, true) := by
  have hc : ofLE (toLE 4 (crc32c ([ty, seq] ++ toLE 2 p.length ++ p))) = crc32c ([ty, seq] ++ toLE 2 p.length ++ p) := by
    rw [ofLE_toLE]; exact Nat.mod_eq_of_lt (crc32c_lt _)
  obtain ⟨a, b, hab⟩ : ∃ a b, toLE 2 p.length = [a, b] := ⟨_, _, rfl⟩
  have hl : ofLE [a, b] = p.length := by rw [← hab, ofLE_toLE]; exact Nat.mod_eq_of_lt h
  have hlen : (toLE 4 (crc32c ([ty, seq] ++ [a, b] ++ p))).length = 4 := toLE_length _ _
  rw [hab] at hc
  unfold uartMake uartFrame
  rw [hab]
  generalize hw : toLE 4 (crc32c ([ty, seq] ++ [a, b] ++ p)) = w at hc hlen ⊢
  have e4 : le ([0x58, 0x52, ty, seq] ++ [a, b] ++ p ++ w) 4 2 = p.length := by simp [le, hl]
  have hd (l : Bytes) : List.drop (6 + p.length) (0x58 :: 0x52 :: ty :: seq :: a :: b :: (p ++ l)) = l := by
    rw [Nat.add_comm]; simp
  have hd2 : le ([0x58, 0x52, ty, seq] ++ [a, b] ++ p ++ w) (6 + p.length) 4 = crc32c ([ty, seq] ++ [a, b] ++ p) := by
    simp only [le, List.cons_append, List.nil_append] at hc ⊢
    rw [hd, List.take_of_length_le (by omega)]; exact hc
  have ht : List.take (4 + p.length) (ty :: seq :: a :: b :: (p ++ w)) = ty :: seq :: a :: b :: p := by
    rw [Nat.add_comm]; simp
  simp only [e4, hd2]
  simp [hlen, le, slice, ofLE, ht]
  omega

def recovering (f : Dev → Dev) : State :=
  { inMode .recovery with dev := f (up.dev.setPort 0 { linkUp := true, perstLow := false }) }
theorem wit_RecoveryComplete_1 : let s := recovering id
    s.core.mode = .recovery ∧ (s.dev.port 0).linkUp = true ∧ s.dev.rcvOwns 1 0 = true ∧ (1791 : BitVec 12).toNat ≤ 1791 := by decide
theorem wit_RecoveryComplete_2 : (recovering (fun d => d.rcvTake 1 3)).dev.rcvOwns 1 0 = false := by decide
theorem wit_RecoveryComplete_3 : uartFrame (uartMake 1 5 (List.replicate 4104 0)) = some (1, 5, List.replicate 4104 0, true) ∧
    (List.replicate 4104 (0 : Byte)).length = 4104 ∧ uartFrame (uartMake 2 5 [0]) = some (2, 5, [0], true) ∧
    uartFrame (uartMake 3 5 [2]) = some (3, 5, [2], true) :=
  ⟨uartFrame_make _ _ _ (by rw [List.length_replicate]; decide), List.length_replicate, uartFrame_make _ _ _ (by decide), uartFrame_make _ _ _ (by decide)⟩
theorem wit_RecoveryComplete_4 : let s := recovering id
    s.dev.mgmt.uartSeq = none ∧ s.dev.rcvOwns 2 0 = true ∧ le [2] 0 1 = 2 := by
  decide
theorem wit_RecoveryComplete_5 : let s := recovering (fun d => { d with mgmt := { d.mgmt with uartNext := some 2 } })
    s.on ∧ s.dev.mgmt.uartNext = some 2 := by decide

theorem wit_ManagementComplete_1 : up.hears .smbus ∧ up.dev.newEid 1 9 = some 9 ∧ up.dev.newEid 0 254 = some 254 ∧
    pldmCommands 5 = some [0x01, 0x02, 0x10, 0x13, 0x14, 0x15, 0x16, 0x17, 0x18, 0x1A, 0x1B, 0x1C, 0x1D] := by
  refine ⟨⟨by decide, by decide, by decide⟩, by decide, by decide, by decide⟩
theorem wit_ManagementComplete_2 : (upWith (fun d => d.setFlag R.devStatus 5 true)).hears .smbus ∧
    (upWith (fun d => d.setFlag R.devStatus 5 true)).dev.unconfirmed = true := ⟨⟨by decide, by decide, by decide⟩, by decide⟩
theorem wit_ManagementComplete_3 : up.dev.mgmt.pldm = .idle ∧ up.dev.unconfirmed = false ∧
    imageBytesOk (131072 : BitVec 32).toNat = true ∧ up.dev.heldByOther up.core 2 = false := by decide
/-- A BMC's update of one block, in a state. -/
def updating (st : PldmSt) (f : Dev → Dev) : State :=
  upWith (fun d => f ((((d.setFlag R.fwuStatus 1 true).setF R.fwuStatus 3 2 2).setFw
    (fun _ => { imageBytes := 131072 })).setPldm st))
def wholeImage (d : Dev) : Dev := d.setFw (fun _ => { imageBytes := 131072, units := List.range 32 })
theorem wit_ManagementComplete_4 : ∀ st ∈ [PldmSt.learn, .readyXfer, .download, .verify, .apply], (updating st id).hears .smbus ∧
    (updating st id).dev.updateOwner = 2 ∧ (updating st id).dev.updateOpen = true ∧ (updating st id).dev.mgmt.pldm = st := by
  intro st h
  simp only [List.mem_cons, List.not_mem_nil, or_false] at h
  rcases h with h | h | h | h | h <;> subst h <;> exact ⟨⟨by decide, by decide, by decide⟩, by decide, by decide, by decide⟩
theorem wit_ManagementComplete_5 : (updating .download id).dev.nextUnit = some 0 ∧
    (List.replicate 4096 (0 : Byte)).length = 4096 ∧ (updating .download wholeImage).dev.unitsMissing = 0 :=
  ⟨by decide, List.length_replicate, by decide⟩
theorem wit_ManagementComplete_6 : (updating .verify id).dev.commitUpdate (updating .verify id).dev.updateId =
    ((updating .verify id).dev, 32, 0x0200) := rfl
theorem wit_ManagementComplete_7 : let s := updating .readyXfer (fun d => (d.setFlag R.fwuStatus 4 true).setFw (fun _ => {}))
    s.dev.mgmt.pldm = .readyXfer ∧ s.dev.committed = true ∧ s.core.mode = .service := by decide
theorem wit_ManagementComplete_8 : let s := upWith (fun d => d.setPort 3 { linkUp := true, perstLow := false })
    s.on ∧ s.dev.mgmtUp s.core = true ∧ (s.dev.port 3).linkUp = true ∧ s.dev.busTaken .smbus = true := by decide
theorem wit_ManagementComplete_9 : let s := upWith (fun d => { d with mgmt := { d.mgmt with i3c := some 9 } })
    s.on ∧ s.dev.mgmtUp s.core = true ∧ s.dev.busTaken .i3c = true := by decide

theorem wit_RegisterWritesComplete_1 : let s := up
    s.on ∧ s.core.mode ≠ .recovery ∧ s.dev.isManager s.core (.pf 0) = true ∧ R.insDviol % 8 = 0 ∧ 0x100000 ≤ R.insDviol ∧
      R.insDviol < 0x2000000 ∧ isCounter R.insDviol = true := by decide
theorem wit_RegisterWritesComplete_2 : up.dev.holdsRole (.pf 0) = true ∧ isCounter R.devResetCause = true ∧
    R.devResetCause < 0x100000 := by decide
/-- `up` with instance 1 presented by port 0. -/
def presented : State :=
  upWith (fun d => (d.setInst 1 { d.inst 1 with bound := some (0, 1) }).setPort 0 { linkUp := true, perstLow := false, vfs := 1 })
theorem wit_RegisterWritesComplete_3 : ∀ n ∈ ([4, 8] : List Nat), presented.on ∧ (1 : BitVec 8).toNat ≠ 0 ∧
    presented.dev.windowOpen presented.core 1 = true ∧ (0x1000 + 16 * 63) % n = 0 ∧ (0x1008 + 16 * 63) % n = 0 ∧
    0x103F8 % n = 0 := by decide

theorem wit_StepRunsFront_1 : ({ up with pending := [.quiesce .management, .sysrefLost] } : State).pending = .quiesce .management :: [.sysrefLost] ∧
    (inMode .off).pending = [] ∧ (inMode .off).core.mode = .off ∧ up.pending = [] ∧ up.on := by decide
theorem wit_QueueIsFifo_1 : ∃ t, step { up with pending := [.brk 0, .sysrefLost] } = .next t := ⟨_, rfl⟩
theorem wit_QueueIsFifo_2 : ∃ t, exec (.brk 0) up = .next t := ⟨_, rfl⟩
theorem wit_CommandsAnswer_1 : (Instr.brk 0 ≠ .pwrgoodFall) ∧ up.core.dumping = false ∧
    ({ up with core := { up.core with dumping := true } } : State).core.dumping = true := by decide
theorem wit_OffInert_1 : (inMode .off).core.mode = .off ∧ actsOff (.quiesce .management) = false := by decide
theorem wit_ModeFrame_1 : movesMode (.brk 0) = false ∧ ∃ t, exec (.brk 0) up = .next t := ⟨by decide, _, rfl⟩

theorem wit_StepKeepsLegal_1 : up.core.legal ∧ ∃ t, step { up with pending := [.brk 0] } = .next t :=
  ⟨⟨by decide, by decide, by decide, by decide, by decide, by decide⟩, _, rfl⟩

theorem wit_SafeStopExits_1 : (inMode .safeStop).core.mode = .safeStop ∧ (∃ t, exec (.brk 0) (inMode .safeStop) = .next t) ∧
    (inMode .safeStop).dev.mayRequest .management = true := ⟨by decide, ⟨_, rfl⟩, by decide⟩
theorem wit_FaultNTellsSafeStop_1 : (inMode .safeStop).hears .smbus ∧ up.hears .smbus ∧ State.reset.core.mode = .rom ∧ State.reset.core.passDone = false ∧
    ({ aRom with fatal := some { block := 0, unit := 0 } } : RomReport).fatal.isSome = true :=
  ⟨⟨by decide, by decide, by decide⟩, ⟨by decide, by decide, by decide⟩, by decide, by decide, by decide⟩

theorem wit_GalleryFrame_1 : registerOnly (.brk 0) = some 0 ∧ ((issuing id id).dev.core 0).pcc.space ≠ 1 ∧ ∃ t, exec (.brk 0) (issuing id id) = .next t :=
  ⟨by decide, by decide, _, rfl⟩

theorem wit_StoreFrame_1 : let s := reaching id
    let k := s.dev.core 0
    Issues s 0 ∧ s.memOk ∧ (k.getC 1).space = 0 ∧ k.offset (.imm 8) = 8 ∧
      capCheck (k.getC 1) 1 (2 ^ Perm.store + 0) 8 8 8 = none ∧ (toLE (sizeBytes .b8) (k.getG 1).toNat).length = 8 ∧ 8 + 8 ≤ Config.localBytes ∧
      ∃ t, exec (.integerStore 0 1 1 .b8 (.imm 8)) s = .next t :=
  ⟨by decide, by show Memory.wf _ = true; decide, by decide, by decide, by decide, by decide, by decide, _, rfl⟩
theorem wit_StoreFrame_2 : let s := reaching id
    let k := s.dev.core 0
    capCheck (k.getC 1) 1 (2 ^ Perm.store + 2 ^ Perm.storeCap) 16 16 16 = none ∧ (k.getC 2).tag = true ∧ (k.getC 1).space = 0 ∧
      ∃ t, exec (.stc 0 2 1 (.imm 16)) s = .next t := ⟨by decide, by decide, by decide, _, rfl⟩
theorem wit_StoreFrame_3 : let s := reaching id
    let k := s.dev.core 0
    capCheck (k.getC 2) 2 (2 ^ Perm.store + 0) 8 8 8 = none ∧ (k.getC 2).space = 1 ∧
      (s.dev.coreStoreInst s.core 0 (k.getC 2) 2 8 (toLE 8 7)).2 = none ∧ s.storeCells 0 (k.getC 2) 8 8 ≠ [] ∧
      ∃ t, exec (.integerStore 0 1 2 .b8 (.imm 8)) s = .next t := ⟨by decide, by decide, by decide, by decide, _, rfl⟩

theorem wit_BranchBounds_1 : let s := issuing id id
    let k := s.dev.core 0
    Issues s 0 ∧ k.shadow = false ∧ vbccFault k.vbcc Cause.capBounds = none ∧ condHolds .ltU (k.getG 2) (k.getG 1) = true ∧
      (k.pc : Int) + 4 * (-0x2000 : BitVec 15).toInt < 0 ∧ (k.pcc.len : Int) < (k.pc : Int) + 4 * (0x80000 - 0x400 : BitVec 25).toInt + 4 := by decide
theorem wit_BranchBounds_2 : let k : Gallery := { aCore with pcc := { handlers with len := 0x1010 } }
    let s := issuing (fun _ => k.setG 2 1) id
    Issues s 0 ∧ condHolds .eq ((s.dev.core 0).getG 3) ((s.dev.core 0).getG 4) = true ∧
      ((s.dev.core 0).pcc.len : Int) < (k.pc : Int) + 4 * (4 : BitVec 15).toInt + 4 ∧
      ¬ ((s.dev.core 0).pcc.len : Int) < (k.pc : Int) + 4 * (3 : BitVec 15).toInt + 4 := by decide
theorem wit_BranchBounds_3 : let s := issuing (fun k => (k.setC 1 { handlers with len := 0x44 }).setG 3 0x40) id
    let k := s.dev.core 0
    Issues s 0 ∧ (k.getC 1).space ≠ 1 ∧ capCheck (k.getC 1) 1 (2 ^ Perm.exec) (k.getG 3).toNat 4 4 = none ∧
      (∃ e, capCheck (k.getC 1) 1 (2 ^ Perm.exec) 0x44 4 4 = some e ∧ vbccFault k.vbcc e.cause = none) ∧
      (∃ e, capCheck (k.getC 2) 2 (2 ^ Perm.exec) (k.getG 3).toNat 4 4 = some e ∧ vbccFault k.vbcc e.cause = none) := by
  refine ⟨by decide, by decide, by decide, ⟨_, rfl, by decide⟩, ⟨_, rfl, by decide⟩⟩
theorem wit_EretReturns_1 : let s := issuing id id
    Issues s 0 ∧ (s.dev.core 0).shadow = false ∧ vbccFault (s.dev.core 0).vbcc Cause.illegal = none := by decide
theorem wit_EretReturns_2 : let s := issuing (fun k => { k with shadow := true, epcc := handlers, epc := 0x40 }) id
    Issues s 0 ∧ (s.dev.core 0).shadow = true ∧ (s.dev.core 0).epcc.tag = true ∧ (s.dev.core 0).cancelPending = false := by decide
theorem wit_EretReturns_3 : let s := issuing (fun k => { k with shadow := true, epcc := handlers, epc := 0x40, cancelPending := true }) id
    Issues s 0 ∧ (s.dev.core 0).shadow = true ∧ (s.dev.core 0).epcc.tag = true ∧ (s.dev.core 0).cancelPending = true ∧
      vbccFault (s.dev.core 0).vbcc Cause.taskCancel = none := by decide
theorem wit_EretReturns_4 : let s := issuing (fun k => ({ k with shadow := true } : Gallery).setC 2 { tag := true, perms := 0xFF, base := 0, len := 4096 }) id
    Issues s 0 ∧ (s.dev.core 0).shadow = true ∧ (s.dev.core 0).epcc.tag = false ∧ vbccFault (s.dev.core 0).vbcc Cause.returnUntagged = none ∧ authCheck ((s.dev.core 0).getC 2) 2 Perm.system = none := by decide
theorem wit_EretReturns_5 : let s := issuing (fun k => { k with shadow := true, vbcc := { handlers with tag := false } }) id
    Issues s 0 ∧ (s.dev.core 0).shadow = true ∧ (s.dev.core 0).epcc.tag = false ∧ (vbccFault (s.dev.core 0).vbcc Cause.returnUntagged).isSome = true := by
  decide
theorem wit_ShadowBank_7 : let s := issuing (fun k => { k with shadow := true }) (fun d => { d with doc := { d.doc with tcancels := [0] } })
    Issues s 0 ∧ (s.dev.core 0).shadow = true ∧ s.dev.doc.tcancels.contains ((s.dev.logicalOf 0).getD 0xFF) = true := by decide
theorem wit_ShadowBank_1 : let s := issuing (fun k => ({ k with shadow := true, evtPending := true, eie := true } : Gallery).setC 2 { tag := true, perms := 0xFF, base := 0, len := 4096 }) id
    Issues s 0 ∧ (s.dev.core 0).shadow = true ∧ authCheck ((s.dev.core 0).getC 2) 2 Perm.system = none := by decide
theorem wit_ShadowBank_2 : let s := issuing (fun k => { k with vbcc := { handlers with len := 16 * 0x3F + 15 } }) id
    Issues s 0 ∧ (s.dev.core 0).shadow = false ∧ vbccFault (s.dev.core 0).vbcc (0x20 + (31 : BitVec 5).toNat) = some Cause.capBounds ∧
      vbccFault (s.dev.core 0).vbcc (0x20 + (30 : BitVec 5).toNat) = none := by decide
theorem wit_ShadowBank_3 : let s := issuing (fun k => { k with vbcc := { handlers with tag := false } }) id
    Issues s 0 ∧ (s.dev.core 0).shadow = false ∧ (s.dev.core 0).vbcc.tag = false := by decide
theorem wit_ShadowBank_4 : let s := issuing (fun k => { k with vbcc := { handlers with otype := 5 } }) id
    Issues s 0 ∧ (s.dev.core 0).shadow = false ∧ (s.dev.core 0).vbcc.otype ≠ 0 := by decide
theorem wit_ShadowBank_5 : let s := issuing (fun k => { k with vbcc := { handlers with perms := 0 } }) id
    Issues s 0 ∧ (s.dev.core 0).shadow = false ∧ bit (s.dev.core 0).vbcc.perms Perm.exec = false := by decide
theorem wit_ShadowBank_6 : let s := issuing (fun k => { k with vbcc := { handlers with len := 16 * Cause.brk + 15 } }) id
    Issues s 0 ∧ (s.dev.core 0).shadow = false ∧ (s.dev.core 0).vbcc.len < 16 * Cause.brk + 16 := by decide

theorem wit_BranchBounds_4 : let s := issuing (fun k => (k.setC 1 { handlers with space := 1 }).setG 3 0x40) id
    let k := s.dev.core 0
    Issues s 0 ∧ capCheck (k.getC 1) 1 (2 ^ Perm.exec) (k.getG 3).toNat 4 4 = none ∧ (k.getC 1).space = 1 ∧
      ∃ r h, s.dev.translate (k.getC 1).inst ((k.getC 1).base + (k.getG 3).toNat) (s.dev.galleryWho 0).tlb false = .viol r h :=
  ⟨by decide, by decide, by decide, _, _, rfl⟩

theorem wit_RescaleRounds_1 : rescaleRaw 0 2 1 25 = some 2 ∧ rescaleRaw 0 2 1 (-35) = some (-4) ∧ rescaleRaw 1 2 1 (-25) = some (-3) ∧ rescaleRaw 2 2 1 (-29) = some (-2) ∧
    rescaleRaw 0 0 38 (10 ^ 38) = some (10 ^ 76) ∧ rescaleRaw 0 0 39 (10 ^ 38) = none := by decide +kernel
theorem wit_EntryMatches_1 : ({ valid := true, key := 5, care := 7, data := 0 } : CatEntry).valid = true ∧ ({ valid := true, key := 5, care := 0, data := 0 } : CatEntry).care = 0 := by decide
theorem wit_LowestRankWins_1 : (({ width := 1, banks := 1, entries := [(3, { valid := true, key := 5, care := 7, data := 0 }), (1, { valid := true, key := 13, care := 7, data := 0 })] } : CatSet).matches 5).head? = some 1 := by decide
theorem wit_RingBytes_1 : 1024 ≤ 2 ^ 10 := by decide
theorem wit_ZigzagInverts_1 : 0 < 64 ∧ zigzag 8 255 = 1 ∧ zigzag 8 128 = 255 := by decide
theorem wit_InterleaveInjective_1 : let x : MemSet := memSetOf 0 (BitVec.ofNat 64 1) (BitVec.ofNat 64 (1 <<< 63 + 8 <<< 53 + 4 <<< 38))
    x.member 0x300 = x.member 0x300 ∧ x.member 0x300 ≠ x.member 0x400 := by decide

theorem wit_ResetReach_1 : up.on ∧ up.dev.mayRequest .management = true ∧ Memory.wf up.dev.mem = true ∧ (inMode .off).core.mode = .off ∧
    (inMode .safeStop).core.mode = .safeStop := by decide
theorem wit_ResetReach_2 : R.galDfault 0 ∉ resetWrites ∧ keptMask 0x38 ≠ 0 ∧ 0x38 ∉ resetWrites := by decide
theorem wit_CountersStick_1 : cntSat R.evtCntRaise = some (R.evtCntSat, 0, R.evtCtrl, 2) ∧ (up.dev.reg R.evtCntRaise).toNat + 1 < 2 ^ 64 ∧
    2 ^ 64 ≤ ((up.dev.setReg R.evtCntRaise (BitVec.ofNat 64 (2 ^ 64 - 1))).reg R.evtCntRaise).toNat + 1 := by decide
theorem wit_AlertFollows_1 : up.on := by decide

theorem wit_KeysByValue_1 : (2 : Nat) ≤ 38 ∧ (1 : Nat) ≤ 38 ∧ (150 : Int).natAbs < 2 ^ 128 ∧ (15 : Int).natAbs < 2 ^ 128 ∧
    ([97] : Bytes).length < 2 ^ 32 ∧ (150 : Int) * 10 ^ 1 = 15 * 10 ^ 2 := by decide
/-- 1.50 and 1.5 have one canonical form (R90, R195). -/
theorem test_canon_scales : canon 2 (some (.num 150)) = canon 1 (some (.num 15)) := by decide
/-- KEYHASH of no key with the standard seed is 0 (R196: CRC-32C of the empty string). -/
theorem test_keyhash_empty : hash64 0xFFFFFFFF [] = 0 := by decide

theorem wit_LedgerSumAnyOrder_1 : ([[1, 2], [3]] : List (List Int)).flatten.Perm ([[3, 1], [2]] : List (List Int)).flatten ∧
    (laneMerge [[1, 2], [3]]).isSome = true ∧ (laneMerge [[3, 1], [2]]).isSome = true ∧ laneSum [1, 2] = some 3 := by decide

/-- R93, R105: an INT8 result of 128 wraps without OVF_TRAP and traps with it; R593: INT64 with UINT64 gives INT64, UINT64 with INT32 UINT64. -/
theorem test_overflow_setting : intResult 1 false 128 = some (-128) ∧ intResult 1 true 128 = none ∧ widerTy 4 0x14 = 4 ∧ widerTy 0x14 3 = 0x14 := by decide
/-- R218: T is 22 at the limit of 16,777,215 rows and 4 for the empty table; R199: a row of 20 bytes has STRIDE 32. -/
theorem test_table_size : tableT 16777215 = 22 ∧ tableT 0 = 4 ∧ strideFor 20 = some 32 := by decide
/-- R233: DESC reverses values and leaves the place of nulls. -/
theorem test_desc_nulls : keyOrder 1 0 (some (.num 1)) (some (.num 2)) = .gt ∧ keyOrder 1 0 none (some (.num 2)) = .gt ∧
    keyOrder 3 0 none (some (.num 2)) = .lt := by decide

end Sys2Proof.Tests
end

section
/-!
SUPPORT. The commands that are not of `movesMode` leave the mode arbiter as it is (R31): all but a few act on the blocks alone.
-/

namespace Sys2Proof.Machine

theorem onPin_core (s t : State) (f) (h : s.onPin f = .next t) (hf : ∀ x : CoreSt × Dev, (f x).1 = x.1) : t.core = s.core := by
  rw [s.onPin_eq] at h; cases h; exact hf _

theorem catOp_core (ref op) (s t : State) (h : catOp ref op s = .next t) : t.core = s.core := (s.onDev_next t _ h).1

theorem digestFrom_core (src op) (s t : State) (h : digestFrom src op s = .next t) : t.core = s.core := (s.onDev_next t _ h).1

/-- The few that do not act on the blocks alone are the ports' pins, the recovery loader, a counter's clearing and the management messages. -/
theorem exec_core_of_not_movesMode (c : Instr) (s t : State) (hc : movesMode c = false) (h : exec c s = .next t) : t.core = s.core := by
  unfold exec at h
  cases c with
  | pwrgoodRise | pwrgoodFall | pfailNFall | pfailNRise | dumpComplete | dumpInvalidate | romPassDone | configureRecordsDone
  | configureComplete | devResetCold | devResetWarm | devResetRegistrar | quiesce | resume | enterRecovery | drainComplete
  | drainTimeout | holdTimeout | maintenanceComplete | thermalTrip | sysrefLost | formatVolume | sanitise | faultReport
  | injectTimeout | watchdogTimeout | canaryLoop | fwActivate | recoveryFinish | uartFinish | setstateeffecterstates
  | activatefirmware | registerWrite => cases hc
  | hostPortReset | perstNDeassert => exact onPin_core s t _ h fun _ => rfl
  | recoveryGo => exact onAll_core s t _ (recoveryGo_core _ _ _) h
  | counterWrite => exact onAll_core s t _ (counterWrite_core _ _ _) h
  | uartData =>
    refine onAll_core s t _ (uartTake_core _ _ _ _ fun _ _ _ => ?_) h
    dsimp only
    split
    · rfl
    · split <;> rfl
  | uartSpeed =>
    refine onAll_core s t _ (uartTake_core _ _ _ _ fun _ _ _ => ?_) h
    dsimp only; split <;> rfl
  | getEndpointId | getMctpVersionSupport | getMessageTypeSupport | getEndpointUuid | gettid | getpldmversion | getpldmtypes
  | getpldmcommands | getpdr | getsensorreading | getstatesensorreadings | querydeviceidentifiers | getfirmwareparameters
  | getstatus => exact onBusRead_core s t _ _ h
  | setEndpointId | settid =>
    refine onBus_core s t _ _ (fun _ => ?_) h
    dsimp only; split <;> rfl
  | requestfirmwaredata =>
    refine onBus_core s t _ _ (fun _ => ?_) h
    dsimp only
    split
    · split <;> rfl
    · rfl
  | setnumericeffectervalue | requestupdate | passcomponenttable | updatecomponent | transfercomplete | verifycomplete | applycomplete
  | cancelupdatecomponent | cancelupdate =>
    refine onBus_core s t _ _ (fun _ => ?_) h
    rfl
  | searchFirst | searchAll | append | insert | catWrite | delete | catRead | clear => exact catOp_core _ _ s t h
  | digestOpen | digestUpdate | digestSave | digestRestore | digestClose => exact digestFrom_core _ _ s t h
  | _ => exact (s.onDev_next t _ h).1

end Sys2Proof.Machine
end

section
/-!
SUPPORT. Where the commands that move the mode lead from SAFE-STOP (R42).
-/

namespace Sys2Proof.Machine

/-! ### The operations that move the mode, met in SAFE-STOP -/

theorem stays_ite {p : Prop} [Decidable p] {x y : CoreSt × Dev} (hx : Stays x) (hy : Stays y) : Stays (if p then x else y) :=
  iteInduction (fun _ => hx) (fun _ => hy)

theorem pfailFall_stays (x : CoreSt × Dev) (h : x.1.mode = .safeStop) : Stays (pfailFall x) := by
  unfold pfailFall
  dsimp only
  rw [h]
  split <;> exact Or.inl rfl

theorem dumpComplete_stays (us m) (x : CoreSt × Dev) (h : x.1.mode = .safeStop) : Stays (dumpComplete us m x) := by
  unfold dumpComplete
  split <;> exact Or.inl h

theorem romPass_stays (r) (x : CoreSt × Dev) (h : x.1.mode = .safeStop) : Stays (romPass r x) := by
  rw [show romPass r x = x from if_pos (by simp [h])]
  exact Or.inl h

theorem configureRecords_stays (r) (x : CoreSt × Dev) (h : x.1.mode = .safeStop) : Stays (configureRecords r x) := by
  rw [show configureRecords r x = x from if_pos (by simp [h])]
  exact Or.inl h

theorem configureComplete_stays (r) (x : CoreSt × Dev) (h : x.1.mode = .safeStop) : Stays (configureComplete r x) := by
  rw [show configureComplete r x = x from if_pos (by simp [h])]
  exact Or.inl h

theorem drainComplete_stays (x : CoreSt × Dev) (h : x.1.mode = .safeStop) : Stays (drainComplete x) := by
  unfold drainComplete
  dsimp only
  split
  · exact Or.inl h
  · rw [if_pos (by simp [h])]
    exact Or.inl h

theorem drainTimeout_stays (x : CoreSt × Dev) (h : x.1.mode = .safeStop) : Stays (drainTimeout x) := by
  unfold drainTimeout
  dsimp only
  split
  · exact Or.inl h
  · rw [if_pos (by simp [h])]
    exact Or.inl h

/-- The UART loader listens in RECOVERY only. -/
theorem uartTake_stays (ty len frame f) (x : CoreSt × Dev) (h : x.1.mode = .safeStop) : Stays (uartTake ty len frame f x) := by
  rw [show uartTake ty len frame f x = x from if_pos (by simp [h])]
  exact Or.inl h

theorem thermalTrip_stays (n) (x : CoreSt × Dev) (h : x.1.mode = .safeStop) : Stays (thermalTrip n x) := by
  unfold thermalTrip
  exact uncontained_stays _ _ _ _ h

theorem faultAnswer_stays (f) (x : CoreSt × Dev) (h : x.1.mode = .safeStop) : Stays (faultAnswer f x) := by
  unfold faultAnswer
  cases f with
  | switchParity | control | volumeMismatch | accLogBoth | conservatorLockstep => exact safeStopFault_stays _ _ _ _ h
  | portParity => exact blockFault_stays _ _ _ _ h
  | atriumBank => exact stays_ite (safeStopFault_stays _ _ _ _ h) (Or.inl h)
  | voltage => exact stays_ite (blockFault_stays _ _ _ _ h) (safeStopFault_stays _ _ _ _ h)
  | _ => exact Or.inl h

theorem injectFail_stays (b u) (x : CoreSt × Dev) (h : x.1.mode = .safeStop) : Stays (injectFail b u x) := by
  unfold injectFail
  exact stays_ite (blockFault_stays _ _ _ _ h) (Or.inl h)

theorem canaryLoop_stays (r) (x : CoreSt × Dev) (h : x.1.mode = .safeStop) : Stays (canaryLoop r x) := by
  unfold canaryLoop
  dsimp only
  split
  · exact blockFault_stays _ _ _ _ h
  · exact stays_ite (stays_ite (Or.inl h) (Or.inl h)) (Or.inl h)

/-- An activation quiesces from SERVICE only. -/
theorem activate_stays (ref) (x : CoreSt × Dev) (h : x.1.mode = .safeStop) : Stays (activate ref x) := by
  unfold activate
  simp only [if_pos (show x.1.mode ≠ .service by simp [h])]
  (repeat' split) <;> exact Or.inl h

theorem pldmActivate_stays (b) (x : CoreSt × Dev) (h : x.1.mode = .safeStop) : Stays (pldmActivate b x) := by
  unfold pldmActivate
  simp only [if_pos (show x.1.mode ≠ .service by simp [h])]
  (repeat' split) <;> exact Or.inl h

/-- Whole-device maintenance quiesces from SERVICE only. -/
theorem maintCommand_stays (ref op) (x : CoreSt × Dev) (h : x.1.mode = .safeStop) : Stays (maintCommand ref op x) := by
  unfold maintCommand
  simp only [if_pos (show x.1.mode ≠ .service by simp [h])]
  (repeat' split) <;> exact Or.inl h

/-! ### The commands in SAFE-STOP -/

/-- A command of `movesMode` other than the loss of power leads from SAFE-STOP to itself or through a reset performed as cold (R42). -/
theorem exec_stays_of_movesMode (c : Instr) (s t : State) (hc : movesMode c = true) (hp : c ≠ .pwrgoodFall) (hs : s.core.mode = .safeStop)
    (h : exec c s = .next t) : Stays (t.core, t.dev) := by
  unfold exec at h
  cases c with
  | pwrgoodFall => exact absurd rfl hp
  | pwrgoodRise =>
    refine onPin_stays s t _ hs (fun x hx => ?_) h
    exact Or.inl (by simp [hx])
  | pfailNFall => exact onPin_stays s t _ hs pfailFall_stays h
  | pfailNRise =>
    refine onPin_stays s t _ hs (fun x hx => ?_) h
    exact Or.inl hx
  | dumpComplete => exact onAll_stays s t _ hs (fun x hx => stays_ite (dumpComplete_stays _ _ x hx) (Or.inl hx)) h
  | dumpInvalidate =>
    refine onAll_stays s t _ hs (fun x hx => ?_) h
    dsimp only
    rw [if_pos (by simp [hx])]
    exact Or.inl hx
  | romPassDone => exact onAll_stays s t _ hs (romPass_stays _) h
  | configureRecordsDone => exact onAll_stays s t _ hs (configureRecords_stays _) h
  | configureComplete => exact onAll_stays s t _ hs (configureComplete_stays _) h
  | devResetCold | devResetWarm | devResetRegistrar => exact onAll_stays s t _ hs (devReset_stays _ _ _ _ _) h
  | quiesce | resume | enterRecovery => exact onAll_stays s t _ hs (modeRequest_stays _ _) h
  | drainComplete => exact onAll_stays s t _ hs drainComplete_stays h
  | drainTimeout => exact onAll_stays s t _ hs drainTimeout_stays h
  | holdTimeout => exact onAll_stays s t _ hs (fun x hx => stays_ite (service_stays x hx) (Or.inl hx)) h
  | maintenanceComplete =>
    refine onAll_stays s t _ hs (fun x hx => ?_) h
    rw [if_pos (by simp [hx])]
    exact Or.inl hx
  | thermalTrip => exact onAll_stays s t _ hs (fun x hx => stays_ite (Or.inl hx) (thermalTrip_stays _ x hx)) h
  | faultReport => exact onAll_stays s t _ hs (fun x hx => stays_ite (Or.inl hx) (faultAnswer_stays _ x hx)) h
  | canaryLoop => exact onAll_stays s t _ hs (fun x hx => stays_ite (Or.inl hx) (canaryLoop_stays _ x hx)) h
  | sysrefLost =>
    refine onAll_stays s t _ hs (fun x hx => ?_) h
    exact stays_ite (uncontained_stays _ _ _ _ hx) (Or.inl hx)
  | watchdogTimeout =>
    refine onAll_stays s t _ hs (fun x hx => ?_) h
    exact stays_ite (safeStopFault_stays _ _ _ x hx) (Or.inl hx)
  | injectTimeout => exact onAll_stays s t _ hs (injectFail_stays _ _) h
  | formatVolume | sanitise => exact onAll_stays s t _ hs (maintCommand_stays _ _) h
  | fwActivate => exact onAll_stays s t _ hs (activate_stays _) h
  | activatefirmware => exact onBus_stays s t _ _ hs (pldmActivate_stays _) h
  | recoveryFinish => exact onAll_stays s t _ hs (recoveryFinish_stays _ _) h
  | uartFinish => exact onAll_stays s t _ hs (uartTake_stays _ _ _ _) h
  | setstateeffecterstates bus e =>
    refine onBus_stays s t _ _ hs (fun x hx => ?_) h
    cases e with
    | coldReset | enterRecovery => exact reset_stays _ _ _ _ (Or.inl rfl)
    | fwConfirm | returnPrepare => exact Or.inl hx
  | registerWrite => exact onAll_stays s t _ hs (regWrite_stays _ _ _ _) h
  | _ => cases hc

theorem pwrgoodFall_off (s t : State) (hs : s.core.mode = .safeStop) (h : exec .pwrgoodFall s = .next t) : t.core.mode = .off := by
  rw [exec_pwrgoodFall, execPwrgoodFall] at h
  split at h
  · cases h
  · rw [s.onPin_eq] at h
    cases h
    simp [hs, changeMode_core, Mode.permits]

theorem exec_from_safeStop (c : Instr) (s t : State) (hs : s.core.mode = .safeStop) (h : exec c s = .next t) :
    (c = .pwrgoodFall ∧ t.core.mode = .off) ∨ Stays (t.core, t.dev) := by
  by_cases hp : c = .pwrgoodFall
  · subst hp
    exact Or.inl ⟨rfl, pwrgoodFall_off s t hs h⟩
  · refine Or.inr ?_
    cases hc : movesMode c with
    | true => exact exec_stays_of_movesMode c s t hc hp hs h
    | false => exact Or.inl (by rw [exec_core_of_not_movesMode c s t hc h]; exact hs)

theorem warmReset_of_safeStop (s : State) (src : Source) (hs : s.core.mode = .safeStop) (hr : s.dev.mayRequest src = true) :
    exec (.devResetWarm src 0x5A3C) s = .next (s.withAll (deviceReset .warmAsCold (resetSource src) false (s.core, s.dev))) := by
  rw [exec_devResetWarm, execDevResetWarm, s.onAll_of_on _ (by simp [hs])]
  simp [devReset, hr, hs]

/-- Settles O43: a command that moves the mode keeps SAFE-STOP, takes the power or resets as cold, and every other leaves the mode arbiter as it is;
a permitted warm reset is the device reset of KIND 3. -/
theorem safeStopExits : Obligations.SafeStopExits := by
  unfold Obligations.SafeStopExits
  constructor
  · intro c s t hs h
    rcases exec_from_safeStop c s t hs h with hoff | hstay | hreset
    · exact Or.inr (Or.inl hoff)
    · exact Or.inl hstay
    · exact Or.inr (Or.inr hreset)
  · intro s src hs hr
    have hkind := reset_kind .warmAsCold (resetSource src) false (s.core, s.dev)
    exact ⟨_, warmReset_of_safeStop s src hs hr, rfl, hkind⟩

end Sys2Proof.Machine
end

section
/-!
SUPPORT. What the state sensor FAULT_N tells (R41).
-/

namespace Sys2Proof.Machine

theorem faultN_low_iff (d : Dev) (c : CoreSt) : d.stateSensor c .faultN = 0 ↔ c.mode = .safeStop := by
  cases hm : c.mode <;> simp [Dev.stateSensor, hm, b2n]

theorem romPass_of_fatal (r : RomReport) (x : CoreSt × Dev) (hm : x.1.mode = .rom) (hp : x.1.passDone = false) (hf : r.fatal.isSome = true) :
    (romPass r x).1.mode = .safeStop := by
  obtain ⟨u, hu⟩ := Option.isSome_iff_exists.mp hf
  simp [romPass, hm, hp, hu, enterSafeStop_mode]

/-- Settles O44: the sensor compares the mode with SAFE-STOP, and a ROM pass that reports a fatal fault enters SAFE-STOP. -/
theorem faultNTellsSafeStop : Obligations.FaultNTellsSafeStop := by
  unfold Obligations.FaultNTellsSafeStop
  constructor
  · intro s bus h
    refine ⟨s.dev.stateSensor s.core .faultN, ?_, faultN_low_iff _ _⟩
    rw [exec_getstatesensorreadings, execGetstatesensorreadings, onBusRead_of_hears s bus _ h]
  · intro s r hm hp hf
    have hstop := romPass_of_fatal r (s.core, s.dev) hm hp hf
    refine ⟨s.withAll (romPass r (s.core, s.dev)), ?_, hstop, (faultN_low_iff _ _).mpr hstop⟩
    rw [exec_romPassDone, execRomPassDone, s.onAll_of_on _ (by simp [hm])]

end Sys2Proof.Machine
end

section
/-!
SUPPORT. Rounding to a lower scale (R91): each mode takes the quotient of the magnitudes or the one after it, and gives it the sign of the coefficient.
-/

namespace Sys2Proof.Machine

/-- A magnitude with the sign of a coefficient. -/
def withSign (c : Int) (m : Nat) : Int := if c < 0 then -(m : Int) else m

@[simp] theorem withSign_natAbs (c : Int) (m : Nat) : (withSign c m).natAbs = m := by
  unfold withSign; split <;> omega

theorem withSign_even (c : Int) (m : Nat) (h : m % 2 = 0) : withSign c m % 2 = 0 := by
  unfold withSign; split <;> omega

theorem withSign_nonneg (c : Int) (m : Nat) (h : 0 ≤ c) : 0 ≤ withSign c m := by
  unfold withSign; split <;> omega

theorem withSign_nonpos (c : Int) (m : Nat) (h : c ≤ 0) (hm : c = 0 → m = 0) : withSign c m ≤ 0 := by
  unfold withSign; split <;> omega

/-- With the sign of `c`, a magnitude is as far from `c` as it is from the magnitude of `c`. -/
theorem natAbs_sub_withSign_mul (c : Int) (m p : Nat) : (c - withSign c m * p).natAbs = ((c.natAbs : Int) - (m * p : Nat)).natAbs := by
  unfold withSign
  split
  · rw [Int.neg_mul, ← Int.natCast_mul]; omega
  · rw [← Int.natCast_mul]; omega

theorem floor_distance (c : Int) (p : Nat) : (c - withSign c (c.natAbs / p) * p).natAbs = c.natAbs % p := by
  have hdiv := Nat.div_add_mod' c.natAbs p
  rw [natAbs_sub_withSign_mul]
  omega

theorem ceil_distance (c : Int) (p : Nat) (hp : 0 < p) : (c - withSign c (c.natAbs / p + 1) * p).natAbs = p - c.natAbs % p := by
  have hdiv := Nat.div_add_mod' c.natAbs p
  have hmod := Nat.mod_lt c.natAbs hp
  rw [natAbs_sub_withSign_mul, Nat.succ_mul]
  omega

/-! ### The three modes -/

theorem roundDiv_halfEven (c : Int) (p : Nat) (hp : 0 < p) : roundDiv 0 c p = withSign c
    (if p < 2 * (c.natAbs % p) ∨ 2 * (c.natAbs % p) = p ∧ c.natAbs / p % 2 = 1 then c.natAbs / p + 1 else c.natAbs / p) := by
  rw [roundDiv_pow 0 c p hp]
  simp [withSign]

theorem roundDiv_halfAway (c : Int) (p : Nat) (hp : 0 < p) : roundDiv 1 c p = withSign c
    (if p ≤ 2 * (c.natAbs % p) then c.natAbs / p + 1 else c.natAbs / p) := by
  rw [roundDiv_pow 1 c p hp]
  simp [withSign]

theorem roundDiv_truncate (c : Int) (p : Nat) (hp : 0 < p) : roundDiv 2 c p = withSign c (c.natAbs / p) := by
  rw [roundDiv_pow 2 c p hp]
  simp [withSign]

theorem halfEven_nearest (c : Int) (p : Nat) (hp : 0 < p) :
    2 * (c - roundDiv 0 c p * p).natAbs ≤ p ∧ (2 * (c - roundDiv 0 c p * p).natAbs = p → roundDiv 0 c p % 2 = 0) := by
  have hmod := Nat.mod_lt c.natAbs hp
  rw [roundDiv_halfEven c p hp]
  split
  · rw [ceil_distance c p hp]
    exact ⟨by omega, fun _ => withSign_even c _ (by omega)⟩
  · rw [floor_distance]
    exact ⟨by omega, fun _ => withSign_even c _ (by omega)⟩

theorem halfAway_nearest (c : Int) (p : Nat) (hp : 0 < p) :
    2 * (c - roundDiv 1 c p * p).natAbs ≤ p ∧
      (2 * (c - roundDiv 1 c p * p).natAbs = p → c.natAbs < (roundDiv 1 c p * p).natAbs) := by
  rw [roundDiv_halfAway c p hp]
  split
  · rw [ceil_distance c p hp, Int.natAbs_mul, withSign_natAbs, Int.natAbs_natCast]
    exact ⟨by omega, fun _ => (Nat.div_lt_iff_lt_mul hp).mp (Nat.lt_succ_self _)⟩
  · rw [floor_distance]
    exact ⟨by omega, fun _ => by omega⟩

theorem truncate_towardZero (c : Int) (p : Nat) (hp : 0 < p) :
    (c - roundDiv 2 c p * p).natAbs < p ∧ (roundDiv 2 c p * p).natAbs ≤ c.natAbs ∧
      (0 ≤ c → 0 ≤ roundDiv 2 c p) ∧ (c ≤ 0 → roundDiv 2 c p ≤ 0) := by
  rw [roundDiv_truncate c p hp, floor_distance, Int.natAbs_mul, withSign_natAbs, Int.natAbs_natCast]
  exact ⟨Nat.mod_lt _ hp, Nat.div_mul_le_self _ _, withSign_nonneg c _, fun h => withSign_nonpos c _ h (by rintro rfl; simp)⟩

/-! ### Rescaling down and up -/

theorem rescaleRaw_down (mode s t : Nat) (c : Int) (h : t < s) : rescaleRaw mode s t c = some (roundDiv mode c (10 ^ (s - t) : Nat)) := by
  rw [rescaleRaw, if_neg (by omega)]
  push_cast
  rfl

theorem rescaleRaw_up (mode s t : Nat) (c : Int) (h : s ≤ t) : rescaleRaw mode s t c = alignUp c (t - s) := if_pos h

theorem fits256_iff (c : Int) : fits256 c = true ↔ -(2 ^ 255) ≤ c ∧ c < 2 ^ 255 := by
  simp [fits256]

/-- Settles O50: below, the distance of each mode's quotient from the coefficient is the remainder or what it lacks to the power of ten; above,
the power of ten is multiplied in and checked against 256 bits. -/
theorem rescaleRounds : Obligations.RescaleRounds := by
  unfold Obligations.RescaleRounds
  intro s t c
  constructor
  · intro hlt p
    have hp : 0 < 10 ^ (s - t) := Nat.pow_pos (by decide)
    have hpow : p = ((10 ^ (s - t) : Nat) : Int) := by simp [p]
    rw [hpow, Int.natAbs_natCast]
    exact ⟨⟨_, rescaleRaw_down 0 s t c hlt, halfEven_nearest c _ hp⟩, ⟨_, rescaleRaw_down 1 s t c hlt, halfAway_nearest c _ hp⟩,
      ⟨_, rescaleRaw_down 2 s t c hlt, truncate_towardZero c _ hp⟩⟩
  · intro hle mode
    rw [rescaleRaw_up mode s t c hle, ← fits256_iff]
    exact ⟨fun h => if_pos h, fun h => if_neg h⟩

end Sys2Proof.Machine
end

section
/-!
SUPPORT. What a ledger sum delivers where no addition traps (R97, R98): the exact sum of all the addends.
-/

namespace Sys2Proof.Machine

theorem laneInto_eq (a x : Int) : laneInto (some a) x = if -(2 ^ 255) ≤ a + x ∧ a + x < 2 ^ 255 then some (a + x) else none := by
  simp only [laneInto, Option.bind_some, laneAdd, fits256_iff]

/-- Addends brought into a lane: no addition trapped, and their exact sum is added. -/
theorem foldl_laneInto_exact (xs : List Int) : ∀ (lane : Option Int) (s : Int), xs.foldl laneInto lane = some s →
    ∃ a, lane = some a ∧ s = a + xs.sum := by
  induction xs with
  | nil => exact fun lane s h => ⟨s, h, (Int.add_zero s).symm⟩
  | cons x xs ih =>
    intro lane s h
    obtain ⟨b, hb, rfl⟩ := ih _ s h
    obtain ⟨a, ha, rfl, -⟩ := laneInto_some lane x b hb
    exact ⟨a, ha, by rw [List.sum_cons, Int.add_assoc]⟩

theorem laneSum_exact (xs : List Int) (s : Int) (h : laneSum xs = some s) : s = xs.sum := by
  obtain ⟨a, ha, rfl⟩ := foldl_laneInto_exact xs (some 0) s h
  cases ha
  exact Int.zero_add _

/-- A task's partial lane merged into a lane. -/
def mergeInto (lane : Option Int) (p : List Int) : Option Int := (laneSum p).bind (laneInto lane)

theorem laneMerge_eq_foldl (parts : List (List Int)) : laneMerge parts = parts.foldl mergeInto (some 0) := by
  unfold laneMerge
  congr 1
  funext lane p
  unfold mergeInto
  cases laneSum p <;> rfl

theorem mergeInto_some (lane : Option Int) (p : List Int) (s : Int) (h : mergeInto lane p = some s) : ∃ a, lane = some a ∧ s = a + p.sum := by
  obtain ⟨x, hx, hinto⟩ := Option.bind_eq_some_iff.mp h
  obtain ⟨a, ha, rfl, -⟩ := laneInto_some lane x s hinto
  exact ⟨a, ha, by rw [laneSum_exact p x hx]⟩

/-- Partial lanes merged into a lane: the exact sum of all their addends is added. -/
theorem foldl_mergeInto_exact (parts : List (List Int)) : ∀ (lane : Option Int) (s : Int), parts.foldl mergeInto lane = some s →
    ∃ a, lane = some a ∧ s = a + parts.flatten.sum := by
  induction parts with
  | nil => exact fun lane s h => ⟨s, h, (Int.add_zero s).symm⟩
  | cons p parts ih =>
    intro lane s h
    obtain ⟨b, hb, rfl⟩ := ih _ s h
    obtain ⟨a, ha, rfl⟩ := mergeInto_some lane p b hb
    exact ⟨a, ha, by rw [List.flatten_cons, List.sum_append_int, Int.add_assoc]⟩

theorem laneMerge_eq_sum (parts : List (List Int)) (h : (laneMerge parts).isSome = true) : laneMerge parts = some parts.flatten.sum := by
  obtain ⟨s, hs⟩ := Option.isSome_iff_exists.mp h
  obtain ⟨a, ha, rfl⟩ := foldl_mergeInto_exact parts (some 0) s (by rw [← laneMerge_eq_foldl, hs])
  cases ha
  rw [hs, Int.zero_add]

theorem sum_eq_of_perm (xs ys : List Int) (h : xs.Perm ys) : xs.sum = ys.sum :=
  h.foldr_eq' (fun x _ y _ z => Int.add_left_comm y x z) 0

/-- Settles O60: a merge that does not trap is the exact sum of its addends, and that sum is one for every permutation of them. -/
theorem ledgerSumAnyOrder : Obligations.LedgerSumAnyOrder := by
  unfold Obligations.LedgerSumAnyOrder
  refine ⟨laneInto_eq, laneSum_exact, ?_⟩
  intro parts parts' hperm h h'
  have hmerge : laneMerge parts = laneMerge parts' := by
    rw [laneMerge_eq_sum parts h, laneMerge_eq_sum parts' h', sum_eq_of_perm _ _ hperm]
  exact ⟨hmerge, by rw [ledgerSum, ledgerSum, hmerge]⟩

end Sys2Proof.Machine
end

section
/-!
SUPPORT. Canonical forms of key values (R195): a value determines the lowest scale that holds it and the coefficient there, and the bytes of a form
spell both back.
-/

namespace Sys2Proof.Machine

theorem toLE_inj (n x y : Nat) (hx : x < 256 ^ n) (hy : y < 256 ^ n) : toLE n x = toLE n y ↔ x = y := by
  refine ⟨fun h => ?_, congrArg (toLE n)⟩
  have hval : ofLE (toLE n x) = ofLE (toLE n y) := congrArg ofLE h
  rwa [ofLE_toLE, ofLE_toLE, Nat.mod_eq_of_lt hx, Nat.mod_eq_of_lt hy] at hval

theorem toLE_append_inj (n x y : Nat) (p q : Bytes) (hx : x < 256 ^ n) (hy : y < 256 ^ n) :
    toLE n x ++ p = toLE n y ++ q ↔ x = y ∧ p = q := by
  rw [← toLE_inj n x y hx hy]
  exact ⟨fun h => List.append_inj h (by rw [toLE_length, toLE_length]), fun ⟨hxy, hpq⟩ => by rw [hxy, hpq]⟩

/-! ### The lowest scale of a value -/

theorem ten_pow_ne_zero (k : Nat) : (10 : Int) ^ k ≠ 0 := Int.pow_ne_zero (by decide)

/-- A coefficient that ends in no zero stands at a scale no higher than any other at which its value is held. -/
theorem scale_le_of_value_eq (c c' : Int) (t t' : Nat) (hlow : t' = 0 ∨ ¬ 10 ∣ c') (hval : c * 10 ^ t' = c' * 10 ^ t) : t' ≤ t := by
  refine Nat.le_of_not_lt fun hlt => ?_
  obtain ⟨k, rfl⟩ : ∃ k, t' = k + 1 + t := ⟨t' - t - 1, by omega⟩
  have hzero : c * 10 ^ k * 10 = c' := by
    rw [Int.pow_add, ← Int.mul_assoc, Int.mul_eq_mul_right_iff (ten_pow_ne_zero t), Int.pow_succ, ← Int.mul_assoc] at hval
    exact hval
  exact hlow.elim (by omega) (fun h => h ⟨c * 10 ^ k, by rw [← hzero, Int.mul_comm]⟩)

/-- A value is held at one lowest scale, by one coefficient. -/
theorem lowest_unique (c c' : Int) (t t' : Nat) (hlow : t = 0 ∨ ¬ 10 ∣ c) (hlow' : t' = 0 ∨ ¬ 10 ∣ c') (hval : c * 10 ^ t' = c' * 10 ^ t) :
    c = c' ∧ t = t' := by
  obtain rfl : t = t' := Nat.le_antisymm (scale_le_of_value_eq c' c t' t hlow hval.symm) (scale_le_of_value_eq c c' t t' hlow' hval)
  exact ⟨(Int.mul_eq_mul_right_iff (ten_pow_ne_zero t)).mp hval, rfl⟩

/-- A value at scale `s`, cross-multiplied with another scale, is its lowest form cross-multiplied with it. -/
theorem lowestScale_cross (s r u : Nat) (v : Int) (hu : u ≤ r) :
    v * 10 ^ r = (lowestScale s v).1 * 10 ^ u * 10 ^ ((s - (lowestScale s v).2) + (r - u)) := by
  obtain ⟨-, hv, -⟩ := lowestScale_spec s v
  have hr : r = u + (r - u) := by omega
  calc v * 10 ^ r = (lowestScale s v).1 * 10 ^ (s - (lowestScale s v).2) * 10 ^ (u + (r - u)) := by rw [← hv, ← hr]
    _ = _ := by simp only [Int.pow_add, Int.mul_assoc, Int.mul_left_comm]

/-- Two numbers have one lowest form exactly where they are equal by value (R90). -/
theorem lowestScale_eq_iff (sa sb : Nat) (a b : Int) : lowestScale sa a = lowestScale sb b ↔ a * 10 ^ sb = b * 10 ^ sa := by
  obtain ⟨hta, -, hlowa⟩ := lowestScale_spec sa a
  obtain ⟨htb, -, hlowb⟩ := lowestScale_spec sb b
  have ha := lowestScale_cross sa sb (lowestScale sb b).2 a htb
  have hb := lowestScale_cross sb sa (lowestScale sa a).2 b hta
  rw [Nat.add_comm] at hb
  rw [ha, hb, Int.mul_eq_mul_right_iff (ten_pow_ne_zero _)]
  constructor
  · intro h; rw [h]
  · intro hval
    obtain ⟨hc, ht⟩ := lowest_unique _ _ _ _ hlowa hlowb hval
    exact Prod.ext hc ht

theorem lowestScale_natAbs_le (s : Nat) (v : Int) : (lowestScale s v).1.natAbs ≤ v.natAbs := by
  obtain ⟨-, hv, -⟩ := lowestScale_spec s v
  conv => rhs; rw [hv, Int.natAbs_mul]
  exact Nat.le_mul_of_pos_right _ (Int.natAbs_pos.mpr (ten_pow_ne_zero _))

/-! ### The bytes of a form -/

theorem canonNum_eq (s : Nat) (v : Int) : canonNum s v = toLE 1 1 ++ toLE 1 (if (lowestScale s v).1 < 0 then 1 else 0) ++
    toLE 1 (lowestScale s v).2 ++ toLE 1 0 ++ toLE 16 (lowestScale s v).1.natAbs := by
  simp only [canonNum, b2n, decide_eq_true_eq]

theorem int_eq_of_sign_natAbs (c c' : Int) (hsign : (if c < 0 then 1 else 0) = if c' < 0 then 1 else 0) (habs : c.natAbs = c'.natAbs) :
    c = c' := by
  split at hsign <;> split at hsign <;> omega

/-- A form whose scale fits a byte and whose magnitude fits 16 bytes spells its lowest form back. -/
theorem canonNum_inj (sa sb : Nat) (a b : Int) (hsa : sa < 256) (hsb : sb < 256) (ha : a.natAbs < 2 ^ 128) (hb : b.natAbs < 2 ^ 128)
    (h : canonNum sa a = canonNum sb b) : lowestScale sa a = lowestScale sb b := by
  obtain ⟨hta, -, -⟩ := lowestScale_spec sa a
  obtain ⟨htb, -, -⟩ := lowestScale_spec sb b
  have hma := lowestScale_natAbs_le sa a
  have hmb := lowestScale_natAbs_le sb b
  simp only [canonNum_eq, List.append_assoc, List.append_cancel_left_eq] at h
  rw [toLE_append_inj 1 _ _ _ _ (by split <;> decide) (by split <;> decide)] at h
  obtain ⟨hsign, h⟩ := h
  rw [toLE_append_inj 1 _ _ _ _ (by omega) (by omega), List.append_cancel_left_eq, toLE_inj 16 _ _ (by omega) (by omega)] at h
  obtain ⟨hscale, hmag⟩ := h
  exact Prod.ext (int_eq_of_sign_natAbs _ _ hsign hmag) hscale

theorem canon_num_eq_iff (sa sb : Nat) (a b : Int) (hsa : sa < 256) (hsb : sb < 256) (ha : a.natAbs < 2 ^ 128) (hb : b.natAbs < 2 ^ 128) :
    canon sa (some (.num a)) = canon sb (some (.num b)) ↔ a * 10 ^ sb = b * 10 ^ sa := by
  rw [← lowestScale_eq_iff]
  exact ⟨canonNum_inj sa sb a b hsa hsb ha hb, fun h => by rw [canon, canon, canonNum_eq, canonNum_eq, h]⟩

theorem canon_str_eq_iff (sa sb : Nat) (x y : Bytes) (hx : x.length < 2 ^ 32) (hy : y.length < 2 ^ 32) :
    canon sa (some (.str x)) = canon sb (some (.str y)) ↔ x = y := by
  rw [canon, canon, List.append_assoc, List.append_assoc, List.append_cancel_left_eq, toLE_append_inj 4 _ _ _ _ hx hy]
  exact ⟨And.right, fun h => ⟨congrArg _ h, h⟩⟩

theorem canon_num_head (s : Nat) (v : Int) : (canon s (some (.num v))).head? = some 1 := by
  rw [canon, canonNum_eq]; rfl

theorem canon_str_head (s : Nat) (b : Bytes) : (canon s (some (.str b))).head? = some 2 := rfl

theorem canon_null_head (s : Nat) : (canon s none).head? = some 3 := rfl

/-- Settles O59: the bytes of a form spell its lowest scale, sign and magnitude back, which a value determines; the first byte tells the kinds apart. -/
theorem keysByValue : Obligations.KeysByValue := by
  unfold Obligations.KeysByValue
  refine ⟨fun s v => ?_, fun s b => ⟨rfl, rfl⟩, fun sa sb a b hsa hsb => canon_num_eq_iff sa sb a b (by omega) (by omega), canon_str_eq_iff,
    fun sa sb a x => ⟨ne_of_apply_ne List.head? ?_, ne_of_apply_ne List.head? ?_, ne_of_apply_ne List.head? ?_⟩⟩
  · obtain ⟨hle, hv, hlow⟩ := lowestScale_spec s v
    exact ⟨_, _, hle, hv, hlow, canonNum_eq s v⟩
  · rw [canon_num_head, canon_str_head]; decide
  · rw [canon_num_head, canon_null_head]; decide
  · rw [canon_str_head, canon_null_head]; decide

end Sys2Proof.Machine
end

section
/-!
PROOFS. When a Catalogue entry matches a key (R251), bit by bit.
-/

namespace Sys2Proof.Machine

/-- Two numbers differ nowhere inside a mask exactly when they agree in every bit that the mask sets. -/
theorem xor_and_eq_zero_iff (a b m : Nat) : (a ^^^ b) &&& m = 0 ↔ ∀ i, m.testBit i = true → a.testBit i = b.testBit i := by
  have hbit : ∀ i, ((a ^^^ b) &&& m).testBit i = false ↔ (m.testBit i = true → a.testBit i = b.testBit i) := fun i => by
    rw [Nat.testBit_and, Nat.testBit_xor]
    cases m.testBit i with
    | false => simp only [Bool.and_false, Bool.false_eq_true, false_implies]
    | true => simp only [Bool.and_true, bne_eq_false_iff_eq, forall_const]
  constructor
  · intro h i
    rw [← hbit, h, Nat.zero_testBit]
  · exact fun h => Nat.eq_of_testBit_eq fun i => by rw [(hbit i).mpr (h i), Nat.zero_testBit]

theorem hits_iff (e : CatEntry) (key : Nat) : e.hits key = true ↔ e.valid = true ∧ (key ^^^ e.key) &&& e.care = 0 := by
  rw [CatEntry.hits, Bool.and_eq_true, beq_iff_eq]

/-- Settles O51: the masked difference of key and entry is zero exactly when no bit under the mask differs; a mask of zeros has no such bit. -/
theorem entryMatches : Obligations.EntryMatches := by
  unfold Obligations.EntryMatches
  refine fun e key => ⟨?_, fun hvalid hcare => ?_⟩
  · rw [hits_iff, xor_and_eq_zero_iff]
  · rw [hits_iff, hcare, Nat.and_zero]
    exact ⟨hvalid, rfl⟩

end Sys2Proof.Machine
end

section
/-!
PROOFS. The invariant of the mode arbiter (R33, R41): every command keeps it, and so does an idle cycle.
-/

namespace Sys2Proof.Machine

/-! ### The operations of the commands that move the mode -/

theorem legal_ite {p : Prop} [Decidable p] {x y : CoreSt × Dev} (hx : x.1.legal) (hy : y.1.legal) : (if p then x else y).1.legal :=
  iteInduction (motive := fun z : CoreSt × Dev => z.1.legal) (fun _ => hx) (fun _ => hy)

theorem legal_not_dumping {c : CoreSt} (h : c.legal) : ({ c with dumping := false } : CoreSt).legal :=
  { h with dump := fun hd => absurd hd Bool.false_ne_true }

theorem dumpComplete_legal (us m) (x : CoreSt × Dev) (h : x.1.legal) : (dumpComplete us m x).1.legal := by
  unfold dumpComplete
  split
  · exact legal_not_dumping h
  · exact h

/-- The dump point ends; a ROM pass that waited for it goes on to CONFIGURE. -/
theorem dumpPointEnd_legal (c : CoreSt) (d : Dev) (h : c.legal) (hd : c.dumping = false) :
    (if c.passDone && c.mode == .rom then
        changeMode .configure ({ c with dumpHold := false, dumpTaken := false, lowAtRise := false, passDone := false }, d)
      else ({ c with dumpHold := false, dumpTaken := false, lowAtRise := false, passDone := false }, d)).1.legal := by
  have hy : ({ c with dumpHold := false, dumpTaken := false, lowAtRise := false, passDone := false } : CoreSt).legal :=
    legal_pass (legal_set h hd false false) false false
  split
  · rename_i hrom
    have hm : c.mode = .rom := by simp_all
    exact changeMode_legal .configure _ hy (none_of hy (by simp [hm]) (by simp [hm])) (by decide) (by decide) (by decide) (by simp [hm])
  · exact hy

/-- Power may go in every powered mode, with the reasons for a quiesce standing; no dump is being written then. -/
theorem powerLoss_legal (x : CoreSt × Dev) (hd : x.1.dumping = false) :
    ({ (changeMode .off x).1 with pwrgood := false } : CoreSt).legal := by
  have hp : x.1.mode.permits .off = true := by cases x.1.mode <;> rfl
  rw [changeMode_core, if_pos hp, legal_iff]
  simp [hp, hd]

theorem pwrgoodFall_legal (s t : State) (hl : s.core.legal) (h : exec .pwrgoodFall s = .next t) : t.core.legal := by
  rw [exec_pwrgoodFall, execPwrgoodFall] at h
  split at h
  · cases h
  · rename_i hd
    rw [s.onPin_eq] at h
    cases h
    by_cases hm : s.core.mode = .off
    · simpa [hm] using hl
    · simpa [hm] using powerLoss_legal (s.core, s.dev) (by simpa using hd)

theorem thermalTrip_legal (n) (x : CoreSt × Dev) (h : x.1.legal) : (thermalTrip n x).1.legal := by
  unfold thermalTrip
  exact uncontained_legal _ _ _ _ h

/-- A recovery finished over the UART ends in a cold reset. -/
theorem uartFinish_legal (s t : State) (frame : Bytes) (hl : s.core.legal) (h : exec (.uartFinish frame) s = .next t) : t.core.legal := by
  rw [exec_uartFinish, execUartFinish] at h
  refine onAll_legal s t _ hl (fun x hx hm => uartTake_legal _ _ _ _ x hx fun n p d => ?_) h
  refine legal_ite hx ?_
  split
  · exact hx
  · exact recoverFinish_legal _ _ hx hm

/-! ### The step -/

/-- A command of `movesMode` keeps the invariant. -/
theorem exec_legal_of_movesMode (c : Instr) (s t : State) (hc : movesMode c = true) (hl : s.core.legal) (h : exec c s = .next t) :
    t.core.legal := by
  have hexec := h
  unfold exec at h
  cases c with
  | pwrgoodFall => exact pwrgoodFall_legal s t hl hexec
  | pwrgoodRise =>
    refine onPin_legal s t _ hl (fun x hx => ?_) h
    exact legal_ite hx (deviceReset_legal _ _ _ _ rfl)
  | pfailNFall => exact onPin_legal s t _ hl pfailFall_legal h
  | pfailNRise => exact onPin_legal s t _ hl (fun x hx => pfail_legal hx false) h
  | dumpComplete => exact onAll_legal s t _ hl (fun x hx _ => legal_ite (dumpComplete_legal _ _ x hx) hx) h
  | dumpInvalidate =>
    refine onAll_legal s t _ hl (fun x hx _ => ?_) h
    dsimp only
    split
    · exact hx
    · rename_i hn
      exact dumpPointEnd_legal x.1 _ hx (by simp_all)
  | romPassDone => exact onAll_legal s t _ hl (fun x hx _ => romPass_legal _ x hx) h
  | configureRecordsDone => exact onAll_legal s t _ hl (fun x hx _ => configureRecords_legal _ x hx) h
  | configureComplete => exact onAll_legal s t _ hl (fun x hx _ => configureComplete_legal _ x hx) h
  | devResetCold | devResetWarm | devResetRegistrar => exact onAll_legal s t _ hl (devReset_legal _ _ _ _ _) h
  | quiesce | resume | enterRecovery => exact onAll_legal s t _ hl (modeRequest_legal _ _) h
  | drainComplete => exact onAll_legal s t _ hl (fun x hx _ => drainComplete_legal x hx) h
  | drainTimeout => exact onAll_legal s t _ hl (fun x hx _ => drainTimeout_legal x hx) h
  | holdTimeout => exact onAll_legal s t _ hl (fun x hx _ => legal_ite (enterService_legal x hx) hx) h
  | maintenanceComplete =>
    refine onAll_legal s t _ hl (fun x hx _ => legal_ite hx ?_) h
    split
    · exact enterService_legal _ hx
    · exact hx
  | thermalTrip => exact onAll_legal s t _ hl (fun x hx _ => legal_ite hx (thermalTrip_legal _ x hx)) h
  | faultReport => exact onAll_legal s t _ hl (fun x hx _ => legal_ite hx (faultAnswer_legal _ x hx)) h
  | canaryLoop => exact onAll_legal s t _ hl (fun x hx _ => legal_ite hx (canaryLoop_legal _ x hx)) h
  | sysrefLost =>
    refine onAll_legal s t _ hl (fun x hx _ => ?_) h
    exact legal_ite (uncontained_legal _ _ _ _ hx) hx
  | watchdogTimeout => exact onAll_legal_if s t _ _ hl (safeStopFault_legal _ _ _) h
  | injectTimeout => exact onAll_legal s t _ hl (fun x hx _ => injectFail_legal _ _ x hx) h
  | formatVolume | sanitise => exact onAll_legal s t _ hl (fun x hx _ => maintCommand_legal _ _ x hx) h
  | fwActivate => exact onAll_legal s t _ hl (fun x hx _ => activate_legal _ x hx) h
  | activatefirmware => exact onBus_legal s t _ _ hl (fun x hx _ => pldmActivate_legal _ x hx) h
  | recoveryFinish => exact onAll_legal s t _ hl (recoveryFinish_legal _ _) h
  | uartFinish => exact uartFinish_legal s t _ hl hexec
  | setstateeffecterstates bus e =>
    refine onBus_legal s t _ _ hl (fun x hx hm => ?_) h
    cases e with
    | coldReset | enterRecovery => exact reset_legal _ _ _ _ hx hm
    | fwConfirm | returnPrepare => exact hx
  | registerWrite => exact onAll_legal s t _ hl (regWrite_legal _ _ _ _) h
  | _ => cases hc

theorem exec_legal (c : Instr) (s t : State) (hl : s.core.legal) (h : exec c s = .next t) : t.core.legal := by
  cases hc : movesMode c with
  | true => exact exec_legal_of_movesMode c s t hc hl h
  | false => rw [exec_core_of_not_movesMode c s t hc h]; exact hl

theorem legal_tick {c : CoreSt} (h : c.legal) (v : Word) : ({ c with time := v } : CoreSt).legal :=
  ⟨h.permitted, h.power, h.asked, h.unasked, h.served, h.dump⟩

theorem idle_legal (s : State) (h : s.core.legal) : (idle s).core.legal := by
  unfold idle
  split
  · exact h
  · exact legal_tick h _

/-- Settles O41: an idle cycle counts the time only, a command that does not move the mode leaves the arbiter as it is, and each that does keeps the
invariant. -/
theorem stepKeepsLegal : Obligations.StepKeepsLegal := by
  unfold Obligations.StepKeepsLegal
  intro s t hl h
  unfold step at h
  split at h
  · cases h; exact idle_legal s hl
  · rename_i c rest _
    exact exec_legal c { s with pending := rest } t hl h

end Sys2Proof.Machine
end

section
/-!
PROOFS. The queue, the commands' answers and the mode arbiter's frame.
-/

namespace Sys2Proof.Machine

/-! ### The queue (O36, O37) -/

theorem step_cons (s : State) (c : Instr) (rest : List Instr) (h : s.pending = c :: rest) : step s = exec c { s with pending := rest } := by
  unfold step; rw [h]

theorem step_nil (s : State) (h : s.pending = []) : step s = .next (idle s) := by
  unfold step; rw [h]

theorem idle_off (s : State) (h : s.core.mode = .off) : idle s = s := if_pos h

theorem idle_on (s : State) (h : s.on) : idle s = { s with core := { s.core with time := s.core.time + 1 } } := if_neg h

theorem idle_pending (s : State) : (idle s).pending = s.pending := by
  unfold idle; split <;> rfl

/-- Settles O36: both halves are what `step` and `idle` say of the two forms of the queue. -/
theorem stepRunsFront : Obligations.StepRunsFront := by
  unfold Obligations.StepRunsFront
  exact ⟨step_cons, fun s h => ⟨fun hm => by rw [step_nil s h, idle_off s hm], fun hm => by rw [step_nil s h, idle_on s hm]⟩⟩

/-- Settles O37: no command's effect looks at the queue (`exec_queue`), so a step leaves the queue's rest. -/
theorem queueIsFifo : Obligations.QueueIsFifo := by
  unfold Obligations.QueueIsFifo
  refine ⟨fun s t h => ?_, fun c s t q h => (exec_queue c s t q h).2⟩
  cases hp : s.pending with
  | nil =>
    rw [step_nil s hp] at h
    cases h
    rw [idle_pending, hp]; rfl
  | cons c rest =>
    rw [step_cons s c rest hp] at h
    exact (exec_queue c _ t [] h).1

/-! ### Every command answers, and OFF (O38, O39, O40) -/

theorem pwrgoodFall_dumping (s : State) (h : s.core.dumping = true) : exec .pwrgoodFall s = .fault .integratorBreach := by
  rw [exec_pwrgoodFall, execPwrgoodFall, if_pos h]

theorem pwrgoodFall_not_dumping (s : State) (h : s.core.dumping = false) : ∃ t, exec .pwrgoodFall s = .next t := by
  rw [exec_pwrgoodFall, execPwrgoodFall, if_neg (by simp [h])]
  exact ⟨_, rfl⟩

theorem exec_answers (c : Instr) (s : State) (h : c ≠ .pwrgoodFall ∨ s.core.dumping = false) : ∃ t, exec c s = .next t := by
  rcases acts c with ⟨f, hf⟩ | ⟨f, hf⟩ | ⟨f, -, hf⟩ | rfl
  · rw [hf]; exact ⟨_, rfl⟩
  · rw [hf]; exact ⟨_, rfl⟩
  · rw [hf]; exact ⟨_, rfl⟩
  · exact pwrgoodFall_not_dumping s (h.resolve_left (fun hne => hne rfl))

/-- Settles O38: each way in which a command acts answers a next state; only the loss of power has another outcome, and it is a fault. -/
theorem commandsAnswer : Obligations.CommandsAnswer := by
  unfold Obligations.CommandsAnswer
  refine ⟨exec_answers, pwrgoodFall_dumping, fun c s r h => ?_⟩
  by_cases hc : c ≠ .pwrgoodFall ∨ s.core.dumping = false
  · obtain ⟨t, ht⟩ := exec_answers c s hc
    rw [ht] at h; cases h
  · obtain ⟨rfl, hd⟩ : c = .pwrgoodFall ∧ s.core.dumping = true := by simpa using hc
    rw [pwrgoodFall_dumping s hd] at h; cases h

/-- Settles O39: a command on the blocks or on the mode arbiter waits for power, and the pins are those of `actsOff`. -/
theorem offInert : Obligations.OffInert := by
  unfold Obligations.OffInert
  intro c s hm hc
  rcases acts c with ⟨f, hf⟩ | ⟨f, hf⟩ | ⟨f, hpin, -⟩ | rfl
  · rw [hf, s.onDev_off f hm]
  · rw [hf, s.onAll_off f hm]
  · rw [hpin] at hc; cases hc
  · cases hc

/-- Settles O40 by the case split over the commands that do not move the mode (`exec_core_of_not_movesMode`). -/
theorem modeFrame : Obligations.ModeFrame := by
  unfold Obligations.ModeFrame
  exact exec_core_of_not_movesMode

/-! ### Reset (O42) -/

theorem reset_core_legal : State.reset.core.legal := by
  rw [legal_iff]
  refine ⟨?_, ?_, ?_, ?_, ?_, ?_⟩ <;> decide

/-- Settles O42: the arbiter after reset is ROM with power and nothing asked for, and the memory is empty. -/
theorem resetIsLegal : Obligations.ResetIsLegal := by
  unfold Obligations.ResetIsLegal
  exact ⟨reset_core_legal, rfl⟩

end Sys2Proof.Machine
end

section
/-!
PROOFS. Rules of the spec about places and numbers: what a search finds (R252), the ring of a DMA end (R439), zigzag (R283), interleaving (R362).
-/

namespace Sys2Proof.Machine

/-! ### A search of a set (R252) -/

theorem mem_matches_iff (x : CatSet) (key r : Nat) : r ∈ x.matches key ↔ ∃ e, (r, e) ∈ x.entries ∧ e.hits key = true := by
  simp only [CatSet.matches, sortNat, mem_sortBy, keys, List.mem_map, List.mem_filter]
  constructor
  · rintro ⟨⟨r, e⟩, he, rfl⟩; exact ⟨e, he⟩
  · rintro ⟨e, he⟩; exact ⟨(r, e), he, rfl⟩

theorem head_le_of_sorted {xs : List Nat} {r : Nat} (hs : xs.Pairwise (· ≤ ·)) (hr : xs.head? = some r) : ∀ q ∈ xs, r ≤ q := by
  cases xs with
  | nil => cases hr
  | cons a xs =>
    cases hr
    intro q hq
    rcases List.mem_cons.mp hq with rfl | hq
    · exact Nat.le_refl _
    · exact (List.pairwise_cons.mp hs).1 q hq

theorem record_head (x : CatSet) (key : Nat) (all : Bool) : ∃ rest, x.record key all =
    toLE 2 0 ++ toLE 1 (b2n (1 ≤ (x.matches key).length) + 2 * b2n (2 ≤ (x.matches key).length)) ++ toLE 1 0 ++
      toLE 4 ((x.matches key).headD 0xFFFFFFFF) ++ toLE 4 (x.matches key).length ++ rest := by
  unfold CatSet.record catHead
  exact ⟨_, List.append_assoc _ _ _⟩

/-- Settles O52: the matches are the sorted ranks of the entries that hit, and the record begins with their first. -/
theorem lowestRankWins : Obligations.LowestRankWins := by
  unfold Obligations.LowestRankWins
  exact fun x key => ⟨mem_matches_iff x key, sortNat_sorted _, record_head x key, fun r hr => head_le_of_sorted (sortNat_sorted _) hr⟩

/-! ### The ring of a circular end (R439) -/

theorem ringSegs_short (addr log n : Nat) (h : n ≤ 2 ^ log - addr % 2 ^ log) (hn : 0 < n) : ringSegs addr log n = [(addr, n)] := by
  simp [ringSegs, takeSegs, Nat.min_eq_left h, show n ≠ 0 by omega, show 2 ^ log - addr % 2 ^ log ≠ 0 by omega]

theorem ringSegs_wrapped (addr log n : Nat) (h : 2 ^ log - addr % 2 ^ log < n) (hn : n ≤ 2 ^ log) :
    ringSegs addr log n = [(addr, 2 ^ log - addr % 2 ^ log), (addr - addr % 2 ^ log, n - (2 ^ log - addr % 2 ^ log))] := by
  have hs : addr % 2 ^ log < 2 ^ log := Nat.mod_lt _ (Nat.two_pow_pos _)
  have h1 : min n (2 ^ log - addr % 2 ^ log) = 2 ^ log - addr % 2 ^ log := by omega
  have h2 : min (n - (2 ^ log - addr % 2 ^ log)) (2 ^ log) = n - (2 ^ log - addr % 2 ^ log) := by omega
  simp only [ringSegs, takeSegs, h1, h2]
  rw [if_neg (by omega), if_neg (by omega), if_neg (by omega), if_neg (by omega)]

/-- A byte before the ring's end lies at the address itself. -/
theorem ring_before (addr p b : Nat) (hb : addr % p + b < p) : addr - addr % p + (addr % p + b) % p = addr + b := by
  rw [Nat.mod_eq_of_lt hb]
  have := Nat.mod_le addr p
  omega

/-- A byte past the ring's end goes on at its base. -/
theorem ring_after (s p b : Nat) (hs : s < p) (hb : b < p) : (s + (p - s + b)) % p = b := by
  rw [show s + (p - s + b) = b + p by omega, Nat.add_mod_right, Nat.mod_eq_of_lt hb]

/-- Settles O53: the end is one segment, or two where it passes the ring's end. -/
theorem ringBytes : Obligations.RingBytes := by
  unfold Obligations.RingBytes
  intro addr log n hn
  have hs : addr % 2 ^ log < 2 ^ log := Nat.mod_lt _ (Nat.two_pow_pos _)
  rcases Nat.eq_zero_or_pos n with rfl | hpos
  · simp [ringSegs, takeSegs]
  rcases Nat.lt_or_ge (2 ^ log - addr % 2 ^ log) n with hlt | hle
  · rw [ringSegs_wrapped addr log n hlt hn, List.flatMap_cons, List.flatMap_cons, List.flatMap_nil, List.append_nil]
    conv => rhs; rw [show n = (2 ^ log - addr % 2 ^ log) + (n - (2 ^ log - addr % 2 ^ log)) by omega, List.range_add, List.map_append, List.map_map]
    congr 1
    · refine List.map_congr_left fun b hb => ?_
      rw [List.mem_range] at hb
      rw [ring_before addr _ b (by omega)]
    · refine List.map_congr_left fun b hb => ?_
      rw [List.mem_range] at hb
      rw [Function.comp, ring_after _ _ b hs (by omega)]
  · rw [ringSegs_short addr log n hle hpos, List.flatMap_cons, List.flatMap_nil, List.append_nil]
    refine List.map_congr_left fun b hb => ?_
    rw [List.mem_range] at hb
    rw [ring_before addr _ b (by omega)]

/-! ### zigzag (R283, R284) -/

theorem zigzag_lt (b r : Nat) (hb : 0 < b) (hr : r < 2 ^ b) : zigzag b r < 2 ^ b := by
  obtain ⟨k, rfl⟩ : ∃ k, b = k + 1 := ⟨b - 1, by omega⟩
  rw [Nat.pow_succ] at hr ⊢
  simp only [zigzag, Nat.add_sub_cancel, Nat.pow_succ]
  split <;> omega

theorem unzigzag_zigzag (b r : Nat) (hb : 0 < b) (hr : r < 2 ^ b) : unzigzag b (zigzag b r) = r := by
  obtain ⟨k, rfl⟩ : ∃ k, b = k + 1 := ⟨b - 1, by omega⟩
  rw [Nat.pow_succ] at hr
  simp only [zigzag, unzigzag, Nat.add_sub_cancel, Nat.pow_succ]
  split <;> split <;> omega

/-- The arithmetic shift by all but one bit spreads the sign. -/
theorem sshiftRight_sign (b : Nat) (r : BitVec b) : r.sshiftRight (b - 1) = if r.msb then BitVec.allOnes b else 0#b := by
  have hsign : ∀ (i : Nat) (hi : i < b), (r.sshiftRight (b - 1))[i] = r.msb := by
    intro i hi
    rw [BitVec.getElem_sshiftRight]
    split
    · obtain rfl : i = 0 := by omega
      exact (BitVec.getLsbD_eq_getElem (by omega)).symm.trans (BitVec.msb_eq_getLsbD_last r).symm
    · rfl
  ext i hi
  rw [hsign i hi]
  cases r.msb <;> simp

theorem toNat_double (b : Nat) (r : BitVec b) : (r <<< 1).toNat = 2 * r.toNat % 2 ^ b := by
  rw [BitVec.toNat_shiftLeft, Nat.shiftLeft_eq, Nat.pow_one, Nat.mul_comm]

/-- Settles O54: the sign decides whether the doubled value is complemented. -/
theorem zigzagInverts : Obligations.ZigzagInverts := by
  unfold Obligations.ZigzagInverts
  intro b r hb
  refine ⟨?_, zigzag_lt b _ hb r.isLt, unzigzag_zigzag b _ hb r.isLt⟩
  have hr := r.isLt
  have hpow : 2 ^ b = 2 * 2 ^ (b - 1) := by rw [← Nat.pow_succ']; congr 1; omega
  apply BitVec.eq_of_toNat_eq
  rw [BitVec.toNat_ofNat, Nat.mod_eq_of_lt (zigzag_lt b _ hb hr), sshiftRight_sign, zigzag, BitVec.msb_eq_decide]
  by_cases hneg : 2 ^ (b - 1) ≤ r.toNat
  · rw [if_pos hneg, if_pos (decide_eq_true hneg), BitVec.xor_allOnes, BitVec.toNat_not, toNat_double,
      Nat.mod_eq_sub_mod (by omega), Nat.mod_eq_of_lt (by omega)]
    omega
  · rw [if_neg hneg, if_neg (by simpa using hneg), BitVec.xor_zero, toNat_double, Nat.mod_eq_of_lt (by omega)]

/-! ### Interleaving (R362) -/

/-- A number is its quotient and its remainder. -/
theorem eq_of_div_mod_eq {m i j : Nat} (hq : i / m = j / m) (hr : i % m = j % m) : i = j := by
  rw [← Nat.div_add_mod i m, ← Nat.div_add_mod j m, hq, hr]

/-- A number made of a quotient and a remainder spells both back. -/
theorem quot_rem_inj {m q q' r r' : Nat} (hr : r < m) (hr' : r' < m) (h : q * m + r = q' * m + r') : q = q' ∧ r = r' := by
  have hm : 0 < m := by omega
  have hdiv {a b : Nat} (hb : b < m) : (a * m + b) / m = a := by
    rw [Nat.add_comm, Nat.add_mul_div_right _ _ hm, Nat.div_eq_of_lt hb, Nat.zero_add]
  have hq : q = q' := by rw [← hdiv (a := q) hr, h, hdiv hr']
  exact ⟨hq, by subst hq; omega⟩

/-- Settles O55: the member gives the chunk's number modulo the members, the address its quotient and the byte in the chunk. -/
theorem interleaveInjective : Obligations.InterleaveInjective := by
  unfold Obligations.InterleaveInjective
  intro x i j h
  simp only [MemSet.member, Nat.shiftRight_eq_div_pow, Nat.shiftLeft_eq, Prod.mk.injEq] at h
  obtain ⟨hmember, haddr⟩ := h
  have hrem : i / 2 ^ x.grain % max 1 x.count = j / 2 ^ x.grain % max 1 x.count := by split at hmember <;> omega
  have hpos : 0 < 2 ^ x.grain := Nat.two_pow_pos _
  obtain ⟨hquot, hbyte⟩ := quot_rem_inj (Nat.mod_lt i hpos) (Nat.mod_lt j hpos) (by omega :
    i / 2 ^ x.grain / max 1 x.count * 2 ^ x.grain + i % 2 ^ x.grain = j / 2 ^ x.grain / max 1 x.count * 2 ^ x.grain + j % 2 ^ x.grain)
  exact eq_of_div_mod_eq (eq_of_div_mod_eq hquot hrem) hbyte

end Sys2Proof.Machine
end

section
/-!
PROOFS. What a device reset reaches (R43), how a counter sticks (R582), and what drives ALERT_N (R551).
-/

namespace Sys2Proof.Machine

/-! ### Device resets (R43) -/

theorem devResetCold_of_right (s : State) (src : Source) (hm : s.on) (hr : s.dev.mayRequest src = true) :
    exec (.devResetCold src 0x5A3C) s = .next (s.withAll (deviceReset .cold (resetSource src) false (s.core, s.dev))) := by
  rw [exec_devResetCold, execDevResetCold, s.onAll_of_on _ hm]
  simp [devReset, hr]

theorem devResetWarm_of_right (s : State) (src : Source) (hm : s.on) (hr : s.dev.mayRequest src = true) :
    exec (.devResetWarm src 0x5A3C) s = .next (s.withAll (deviceReset (if s.core.mode = .safeStop then .warmAsCold else .warm)
      (resetSource src) false (s.core, s.dev))) := by
  rw [exec_devResetWarm, execDevResetWarm, s.onAll_of_on _ hm]
  simp [devReset, hr]

theorem pwrgoodRise_of_off (s : State) (g : Bool) (hm : s.core.mode = .off) :
    exec (.pwrgoodRise g) s = .next (s.withAll (deviceReset .powerOn 0 false ({ s.core with pwrgood := true, gpio0Low := g }, s.dev))) := by
  rw [exec_pwrgoodRise, execPwrgoodRise, s.onPin_eq]
  simp [hm]

theorem reset_resetTo (k : ResetKind) (n : Nat) (b : Bool) (s : State) (hs : s.memOk) : s.resetTo (s.withAll (deviceReset k n b (s.core, s.dev))) :=
  reset_to k n b s _ s.core hs rfl rfl

/-- Settles O56: each of the three is a device reset, which `reset_to` and `reset_kind` say once. -/
theorem resetReach : Obligations.ResetReach := by
  unfold Obligations.ResetReach
  refine fun s hs => ⟨fun src hm hr => ⟨?_, ?_⟩, fun g hm => ?_⟩
  · have hkind := reset_kind .cold (resetSource src) false (s.core, s.dev)
    exact ⟨_, devResetCold_of_right s src hm hr, reset_resetTo _ _ _ s hs, hkind⟩
  · refine ⟨_, devResetWarm_of_right s src hm hr, reset_resetTo _ _ _ s hs, ?_⟩
    rw [State.withAll_dev, reset_kind]
    split <;> rfl
  · have hkind := reset_kind .powerOn 0 false ({ s.core with pwrgood := true, gpio0Low := g }, s.dev)
    exact ⟨_, pwrgoodRise_of_off s g hm, reset_to _ _ _ s _ { s.core with pwrgood := true, gpio0Low := g } hs rfl rfl, rfl, hkind⟩

/-! ### Counters (R582) -/

theorem count_of_fits (d : Dev) (off k : Nat) (h : (d.reg off).toNat + k < 2 ^ 64) :
    d.count off k = d.setReg off (BitVec.ofNat 64 ((d.reg off).toNat + k)) := by
  have hs : d.sticks off k = false := by simp only [Dev.sticks, decide_eq_false (Nat.not_le.mpr h), Bool.false_and]
  simp only [Dev.count, hs, Dev.bump0, if_pos h, Bool.false_eq_true, if_false]

theorem count_of_sticks (d : Dev) (off k sat b ev eb : Nat) (hc : cntSat off = some (sat, b, ev, eb)) (h : 2 ^ 64 ≤ (d.reg off).toNat + k) :
    d.count off k = if !d.flag sat b && d.flag ev eb then ((d.setReg off (BitVec.ofNat 64 (2 ^ 64 - 1))).setFlag sat b true).raiseEvent 2
      else (d.setReg off (BitVec.ofNat 64 (2 ^ 64 - 1))).setFlag sat b true := by
  simp only [Dev.count, Dev.sticks, Dev.bump0, hc, decide_eq_true h, if_neg (Nat.not_lt.mpr h), Bool.true_and]

theorem clearCounter_eq (d : Dev) (off sat b ev eb : Nat) (hc : cntSat off = some (sat, b, ev, eb)) :
    d.clearCounter off = (d.setReg off 0).setFlag sat b false := by
  simp only [Dev.clearCounter, hc]

/-- Settles O57: the SAT bit stands in another register than its counter (`cntSat_facts`), so both writes are read back. -/
theorem countersStick : Obligations.CountersStick := by
  unfold Obligations.CountersStick
  intro d off k sat b ev eb hc
  obtain ⟨hb, hne⟩ := cntSat_facts off sat b ev eb hc
  refine ⟨count_of_fits d off k, fun h => ⟨_, rfl, ?_, Dev.flag_setFlag_self _ _ _ _ hb, count_of_sticks d off k sat b ev eb hc h⟩, ?_, ?_⟩
  · rw [Dev.reg_setFlag_ne _ _ _ _ _ hne.symm, Dev.reg_setReg_self]
  · rw [clearCounter_eq d off sat b ev eb hc, Dev.reg_setFlag_ne _ _ _ _ _ hne.symm, Dev.reg_setReg_self]
  · rw [clearCounter_eq d off sat b ev eb hc, Dev.flag_setFlag_self _ _ _ _ hb]

/-! ### ALERT_N and RAIL_WARN (R551) -/

theorem railSample_of_on (s : State) (n : Fin 4) (mv da : BitVec 16) (h : s.on) :
    exec (.railSample n mv da) s = .next (s.withDev (s.dev.railSample n.val mv.toNat da.toNat)) := by
  rw [exec_railSample, execRailSample, s.onDev_of_on _ h, if_neg h]

theorem powerEvaluation_of_on (s : State) (r : ThermalReport) (h : s.on) :
    exec (.powerEvaluation r) s = .next (s.withDev (s.dev.powerEvaluate s.core r)) := by
  rw [exec_powerEvaluation, execPowerEvaluation, s.onDev_of_on _ h, if_neg h]

theorem flag_railWarn_pwrStatus (d : Dev) (n k : Nat) (b : Bool) : (d.setFlag R.pwrStatus n b).flag (R.pwrRail k) 0 = d.flag (R.pwrRail k) 0 :=
  Dev.flag_setFlag_ne _ _ _ _ _ _ (by unfold R.pwrRail R.pwrStatus; omega)

theorem flag_railWarn_pwrPower (d : Dev) (hi lo x k : Nat) : (d.setF R.pwrPower hi lo x).flag (R.pwrRail k) 0 = d.flag (R.pwrRail k) 0 :=
  Dev.flag_setF_ne _ _ _ _ _ _ _ (by unfold R.pwrRail R.pwrPower; omega)

/-- A sample ends with RAIL_WARN computed from the four rails' WARN bits, which nothing after it writes. -/
theorem railSample_railWarn (d : Dev) (n mv da : Nat) :
    (d.railSample n mv da).flag R.pwrStatus 7 = (List.range 4).any (fun k => (d.railSample n mv da).flag (R.pwrRail k) 0) := by
  simp only [Dev.railSample, Dev.pwrAlert, flag_railWarn_pwrStatus, flag_railWarn_pwrPower]
  rw [Dev.flag_setFlag_other _ _ _ _ _ (by decide) (by decide), Dev.flag_setF_ne _ _ _ _ _ _ _ (by decide),
    Dev.flag_setF_ne _ _ _ _ _ _ _ (by decide), Dev.flag_setFlag_self _ _ _ _ (by decide)]

/-- Settles O58: both commands end with the computation of the alert pin (`pwrAlert_ok`). -/
theorem alertFollows : Obligations.AlertFollows := by
  unfold Obligations.AlertFollows
  refine fun s h => ⟨fun n mv da => ⟨_, railSample_of_on s n mv da h, pwrAlert_ok _, ?_⟩, fun r => ⟨_, powerEvaluation_of_on s r h, pwrAlert_ok _⟩⟩
  rw [State.withDev_dev, railSample_railWarn]
  simp only [List.any_eq_true, List.mem_range]

end Sys2Proof.Machine
end

section
/-!
PROOFS. The pins of the power sequence, the write-buffer dump, startup and the mode requests complete (O1 to O3).
-/

namespace Sys2Proof.Machine

/-! ### What a powered step answers

A command that a gate of the model lets through answers the state that its body makes. -/

theorem onDev_ex {s : State} {f : CoreSt → Dev → Dev} {P : State → Prop} (hon : s.on) (h : P (s.withDev (f s.core s.dev))) :
    ∃ t, s.onDev f = .next t ∧ P t := ⟨_, s.onDev_of_on f hon, h⟩

theorem onAll_ex {s : State} {f : CoreSt × Dev → CoreSt × Dev} {P : State → Prop} (hon : s.on) (h : P (s.withAll (f (s.core, s.dev)))) :
    ∃ t, s.onAll f = .next t ∧ P t := ⟨_, s.onAll_of_on f hon, h⟩

theorem onPin_ex {s : State} {f : CoreSt × Dev → CoreSt × Dev} {P : State → Prop} (h : P (s.withAll (f (s.core, s.dev)))) :
    ∃ t, s.onPin f = .next t ∧ P t := ⟨_, s.onPin_eq f, h⟩

/-! ### The operations that move the mode, where they apply -/

theorem changeMode_of_permits (m : Mode) (x : CoreSt × Dev) (h : x.1.mode.permits m = true) (hq : m ≠ .quiesced) :
    (changeMode m x).1 = { x.1 with mode := m, prev := x.1.mode } := by
  rw [changeMode_core, if_pos h, if_neg hq]

/-- A change of mode leaves the blocks but registers, events, log and notices. -/
theorem changeMode_blocks (m : Mode) (x : CoreSt × Dev) : (changeMode m x).2.mem = x.2.mem ∧ (changeMode m x).2.acc = x.2.acc ∧
    (changeMode m x).2.pwr = x.2.pwr := by
  unfold changeMode
  dsimp only
  split
  · refine ⟨?_, ?_, ?_⟩ <;> simp
  · exact ⟨rfl, rfl, rfl⟩

theorem logEvent_evLog_congr {d e : Dev} (h : d.evLog = e.evLog) (t : Word) (k i st : Nat) (bs : Bytes) :
    (d.logEvent t k i st bs).evLog = (e.logEvent t k i st bs).evLog := by
  unfold Dev.logEvent
  rw [h]
  split
  · exact h
  · rfl

theorem changeMode_evLog (m : Mode) (x : CoreSt × Dev) (h : x.1.mode.permits m = true) :
    (changeMode m x).2.evLog = (x.2.logEvent x.1.time 1 0 0 (toLE 1 x.1.mode.code ++ toLE 1 m.code)).evLog := by
  unfold changeMode
  dsimp only
  rw [if_pos h]
  simp only [Dev.notify_evLog, Dev.raiseEvent_evLog]
  exact logEvent_evLog_congr (Dev.setFlag_evLog _ _ _ _) _ _ _ _ _

/-- Entering SERVICE again, after its first entry since the reset. -/
theorem enterService_again (x : CoreSt × Dev) (hs : x.1.served = true) (h : x.1.mode.permits .service = true) :
    (enterService x).1 = { x.1 with mode := .service, prev := x.1.mode, quiesceFor := none, drained := false } := by
  unfold enterService
  dsimp only
  rw [if_pos hs, changeMode_of_permits _ _ h (by decide)]

theorem permits_off (m : Mode) : m.permits .off = true := by cases m <;> rfl

/-! ### The pins and the dump -/

theorem dumpComplete_of_dump (us m : Nat) (x : CoreSt × Dev) (u : Dump) (hd : x.1.dumping = true) (hu : x.2.acc.dump = some u) :
    dumpComplete us m x = ({ x.1 with dumping := false },
      ((({ x.2 with acc := { x.2.acc with dump := some { u with valid := true } } } : Dev).setReg R.devPfail
        (BitVec.ofNat 64 (us <<< 48 + b2n u.flagged <<< 45 + (bufferUsed u.blocks + m) % 2 ^ 32))).setFlag R.devStatus 8 true).setFlag
          R.devStatus 9 u.flagged) := by
  unfold dumpComplete
  rw [hd, hu]

/-- Settles O1: each clause runs its command in the mode and with the pins that it names; what power loss does to the log is the change of mode's
entry. -/
theorem powerPinsComplete : Obligations.PowerPinsComplete := by
  unfold Obligations.PowerPinsComplete
  refine ⟨?rise, ?fall, pwrgoodFall_dumping, ?pfailFall, fun s => ?pfailRise, ?complete, ?invalidate, ?invalidateRom, ?replay, ?action⟩
  case rise => exact fun s g h => ⟨_, pwrgoodRise_of_off s g h, rfl, h, rfl, rfl, rfl, by cases g <;> rfl, rfl⟩
  case fall =>
    intro s hon hd
    have hp := permits_off s.core.mode
    refine ⟨s.withAll ({ (changeMode .off (s.core, s.dev)).1 with pwrgood := false },
      { (changeMode .off (s.core, s.dev)).2 with pwr := { (changeMode .off (s.core, s.dev)).2.pwr with trip := false } }), ?_, ?_, rfl, ?_, ?_, ?_, ?_⟩
    · rw [exec_pwrgoodFall, execPwrgoodFall, if_neg (by simp [hd]), s.onPin_eq]
      simp [hon]
    · rw [State.withAll_core, changeMode_of_permits .off _ hp (by decide)]
    · exact changeMode_evLog .off (s.core, s.dev) hp
    · exact congrArg (fun u : PwrSt => { u with trip := false }) (changeMode_blocks .off (s.core, s.dev)).2.2
    · exact (changeMode_blocks .off (s.core, s.dev)).1
    · exact (changeMode_blocks .off (s.core, s.dev)).2.1
  case pfailFall =>
    intro s hm hd hh
    refine ⟨s.withAll (startDump false ({ s.core with pfailLow := true }, s.dev)), _, ?_, rfl, rfl, rfl, rfl, rfl⟩
    rw [exec_pfailNFall, execPfailNFall, s.onPin_eq]
    simp [pfailFall, hm, hd, hh]
  case pfailRise => rw [exec_pfailNRise, execPfailNRise, s.onPin_eq]
  case complete =>
    intro s us m u hon hd hu hm
    refine ⟨s.withAll (dumpComplete us.toNat m.toNat (s.core, s.dev)), ?_, ?_, ?_, ?_⟩
    · rw [exec_dumpComplete, execDumpComplete, s.onAll_of_on _ hon, if_pos (show m.toNat ≤ Config.dumpMetadata from hm)]
    · rw [State.withAll_core, dumpComplete_of_dump us.toNat m.toNat (s.core, s.dev) u hd hu]
    · rw [State.withAll_dev, dumpComplete_of_dump us.toNat m.toNat (s.core, s.dev) u hd hu]
      rfl
    · rw [State.withAll_dev, dumpComplete_of_dump us.toNat m.toNat (s.core, s.dev) u hd hu]
      dsimp only
      rw [Dev.reg_setFlag_ne _ _ _ _ _ (by decide), Dev.reg_setFlag_ne _ _ _ _ _ (by decide), Dev.reg_setReg_self]
  case invalidate =>
    intro s hon hh hp hg hd hs hpass
    rw [exec_dumpInvalidate, execDumpInvalidate, s.onAll_of_on _ hon]
    simp [hh, hp, hg, hd, hs, hpass]
  case invalidateRom =>
    intro s hm hh hp hg hd hpass
    let y : CoreSt × Dev := ({ s.core with dumpHold := false, dumpTaken := false, lowAtRise := false, passDone := false },
      if s.core.dumpTaken then s.dev.dropDump s.core else s.dev)
    refine ⟨s.withAll (changeMode .configure y), ?_, ?_⟩
    · rw [exec_dumpInvalidate, execDumpInvalidate, s.onAll_of_on _ (by simp [hm])]
      simp [y, hh, hp, hg, hd, hm, hpass]
    · rw [State.withAll_core, changeMode_of_permits .configure y (by simp [y, hm, Mode.permits]) (by decide)]
      simp [y, hm]
  case replay =>
    intro s u hon hrom hd hu hv hf
    rw [exec_dumpReplay, execDumpReplay, s.onDev_of_on _ hon]
    simp [hon, hrom, hd]
  case action =>
    intro s src u hon hs hserved hmgr hu hv hf ho
    constructor
    · rw [exec_dumpActionReplay, execDumpActionReplay, s.onDev_of_on _ hon]
      simp [hs, hserved, hmgr, Dev.orderReplay, hu, hv, hf, ho]
    · rw [exec_dumpActionDiscard, execDumpActionDiscard, s.onDev_of_on _ hon]
      simp [hs, hserved, hmgr, Dev.discardDump, hu, hv, hf, ho]

/-! ### Startup -/

theorem romPass_of_ok (r : RomReport) (x : CoreSt × Dev) (hm : x.1.mode = .rom) (hp : x.1.passDone = false) (hf : r.fatal = none) :
    romPass r x = if x.1.toRecovery || x.1.gpio0Low then changeMode .recovery (x.1, x.2.romFindings x.1 r)
      else boot (x.1, x.2.romFindings x.1 r) := by
  unfold romPass
  dsimp only
  rw [if_neg (by simp [hm, hp]), hf]

theorem enterSafeStop_frozen (m b u : Nat) (x : CoreSt × Dev) : (enterSafeStop m b u x).2.evLog.frozen = true ∧
    (enterSafeStop m b u x).2.saf.log.frozen = true := by
  unfold enterSafeStop
  dsimp only
  split <;> exact ⟨rfl, rfl⟩

theorem romPass_of_fatal_eq (r : RomReport) (u : UnitRef) (x : CoreSt × Dev) (hm : x.1.mode = .rom) (hp : x.1.passDone = false)
    (hf : r.fatal = some u) : romPass r x = enterSafeStop 10 u.block.toNat u.unit.toNat (x.1, x.2.romFindings x.1 r) := by
  unfold romPass
  dsimp only
  rw [if_neg (by simp [hm, hp]), hf]

theorem configureRecords_eq (r : ConfigReport) (x : CoreSt × Dev) (hm : x.1.mode = .configure) (hc : x.2.cfg = []) :
    configureRecords r x = match configOf (x.2.streamOf x.2.runningSlot) with
      | some rs => (x.1, (x.2.loadFirmware (x.2.streamOf x.2.runningSlot)).configureWith x.1 r (x.2.streamOf x.2.runningSlot) rs)
      | none => slotRetry x := by
  unfold configureRecords
  dsimp only
  rw [if_neg (by simp [hm, hc])]
  split <;> simp_all

theorem foldl_acc {α : Type} (f : Dev → α → Dev) (h : ∀ d a, (f d a).acc = d.acc) (l : List α) (d : Dev) : (l.foldl f d).acc = d.acc :=
  foldl_keeps Dev.acc f h l d

/-- The fences of CONFIGURE leave the accession log's maintenance entries. -/
theorem configureFences_acc (r : PartnerReport) (c : CoreSt) (d : Dev) (ns : List (Fin 8)) :
    (ns.foldl (fun (d : Dev) n => d.fenceChannel c (512 + n.val)) (r.stackSet.foldl (fun (d : Dev) s => d.fenceStack c s.val) d.repairRows)).acc =
      d.acc := by
  rw [foldl_acc _ (fun d n => Dev.fenceChannel_acc d c _), foldl_acc _ (fun d n => fenceStack_acc d c _)]
  rfl

/-- With no maintenance of the whole device on record, CONFIGURE ends in the first entry to SERVICE. -/
theorem configureComplete_eq (r : PartnerReport) (x : CoreSt × Dev) (hm : x.1.mode = .configure) (hc : x.2.cfg ≠ [])
    (ha : ∀ m ∈ x.2.acc.maint, m.volume ≠ 0xFFFF) : ∃ d, configureComplete r x = enterService (x.1, d) := by
  unfold configureComplete
  dsimp only
  rw [if_neg (by simp [hm, hc]), if_neg]
  · exact ⟨_, rfl⟩
  · rw [configureFences_acc]
    simpa using ha

theorem enterService_first (x : CoreSt × Dev) (hs : x.1.served = false) (h : x.1.mode.permits .service = true) :
    (enterService x).1 = { x.1 with mode := .service, prev := x.1.mode, quiesceFor := none, drained := false, served := true, failedA := false, failedB := false } := by
  unfold enterService
  dsimp only
  rw [if_neg (by simp [hs])]
  unfold firstService
  dsimp only
  rw [changeMode_of_permits _ _ h (by decide)]

/-- Settles O2: the ROM's pass, CONFIGURE and the device resets do what `boot`, `configureWith`, `enterService` and `deviceReset` say. -/
theorem startupComplete : Obligations.StartupComplete := by
  unfold Obligations.StartupComplete
  refine ⟨?pass, ?recovery, ?fatal, ?records, ?complete, ?resets, ?registrar⟩
  case pass =>
    intro s r hm hp hf hr hg
    rw [exec_romPassDone, execRomPassDone, s.onAll_of_on _ (by simp [hm]), romPass_of_ok r _ hm hp hf, if_neg (by simp [hr, hg])]
  case recovery =>
    intro s r hm hp hf hr
    refine ⟨s.withAll (changeMode .recovery (s.core, s.dev.romFindings s.core r)), ?_, ?_, rfl⟩
    · rw [exec_romPassDone, execRomPassDone, s.onAll_of_on _ (by simp [hm]), romPass_of_ok r _ hm hp hf, if_pos (by simpa using hr)]
    · rw [State.withAll_core, changeMode_of_permits _ _ (by simp [hm, Mode.permits]) (by decide)]
      simp [hm]
  case fatal =>
    intro s r u hm hp hf hs
    refine ⟨s.withAll (enterSafeStop 10 u.block.toNat u.unit.toNat (s.core, s.dev.romFindings s.core r)), ?_, ?_, ?_, ?_⟩
    · rw [exec_romPassDone, execRomPassDone, s.onAll_of_on _ (by simp [hm]), romPass_of_fatal_eq r u _ hm hp hf]
    · exact (enterSafeStop_mode _ _ _ _).1
    · rw [State.withAll_core, (enterSafeStop_mode _ _ _ _).2.1, hm]
    · exact enterSafeStop_frozen _ _ _ _
  case records =>
    intro s r hm hc
    rw [exec_configureRecordsDone, execConfigureRecordsDone, s.onAll_of_on _ (by simp [hm]), configureRecords_eq r _ hm hc] <;> rfl
  case complete =>
    intro s r hm hs hc ha
    obtain ⟨d, hd⟩ := configureComplete_eq r (s.core, s.dev) hm hc ha
    refine ⟨s.withAll (enterService (s.core, d)), ?_, ?_⟩
    · rw [exec_configureComplete, execConfigureComplete, s.onAll_of_on _ (by simp [hm]), hd]
    · rw [State.withAll_core, enterService_first _ hs (by simp [hm, Mode.permits])]
      simp [hm]
  case resets =>
    intro s src hon hr
    exact ⟨devResetCold_of_right s src hon hr, devResetWarm_of_right s src hon hr⟩
  case registrar =>
    intro s src hon hr h1 h2
    rw [exec_devResetRegistrar, execDevResetRegistrar, s.onAll_of_on _ hon]
    simp [devReset, hr, h1, h2]
    rfl

/-! ### Requests for a mode, the drain and the end of maintenance -/

/-- A wait that the drain or a time-out ends goes back to SERVICE. -/
theorem enterService_of_quiesced (x : CoreSt × Dev) (hm : x.1.mode = .quiesced) (hs : x.1.served = true) :
    (enterService x).1 = { x.1 with mode := .service, prev := .quiesced, quiesceFor := none, drained := false } := by
  rw [enterService_again x hs (by simp [hm, Mode.permits]), hm]

theorem deviceReset_core (k : ResetKind) (n : Nat) (b : Bool) (x : CoreSt × Dev) : (deviceReset k n b x).1.mode = .rom ∧
    (deviceReset k n b x).1.toRecovery = b ∧ (deviceReset k n b x).1.prev = x.1.mode ∧ (deviceReset k n b x).1.time = 0 :=
  ⟨rfl, rfl, rfl, rfl⟩

theorem drainComplete_hold (x : CoreSt × Dev) (hm : x.1.mode = .quiesced) (hq : x.1.quiesceFor = some .hold) (hd : x.1.drained = false)
    (hdone : drainDone .hold x.2 = true) : drainComplete x = ({ x.1 with drained := true }, x.2) := by
  simp [drainComplete, hq, hm, hd, hdone, stillWaits]

/-- The end of a drain for maintenance of the whole device: the runs end, the work is recorded, the command that waits goes on. -/
theorem drainComplete_maintenance (y : CoreSt × Dev) (i q cid : Nat) (x : Cmd) (m : Maint) (a : Bool) (b : Nat) (hm : y.1.mode = .quiesced)
    (hd : y.1.drained = false) (hq : y.1.quiesceFor = some (.maintenance (i, q, cid) a b))
    (hdone : drainDone (.maintenance (i, q, cid) a b) y.2 = true) (hx : y.2.cmd i q cid = some x) (hmt : maintOf x = some m) :
    (drainComplete y).1 = { y.1 with mode := .maintenance, prev := .quiesced, quiesceFor := none, drained := false } := by
  simp only [drainComplete, hq, hm, hd, hdone, stillWaits, hx, hmt, Option.bind_some]
  simp [changeMode_core, hm, Mode.permits]

theorem drainComplete_activate (x : CoreSt × Dev) (cmd : Option (Nat × Nat × Nat)) (p : Bool) (hm : x.1.mode = .quiesced)
    (hd : x.1.drained = false) (hs : x.1.served = true) (hq : x.1.quiesceFor = some (.activate cmd p))
    (hdone : drainDone (.activate cmd p) x.2 = true) (hw : stillWaits (.activate cmd p) x.2 = true) :
    (drainComplete x).1 = { x.1 with mode := .service, prev := .quiesced, quiesceFor := none, drained := false } := by
  simp only [drainComplete, hq, hm, hd, hdone, hw]
  exact enterService_of_quiesced _ hm hs

theorem drainTimeout_core (x : CoreSt × Dev) (q : QuiesceFor) (hm : x.1.mode = .quiesced) (hd : x.1.drained = false) (hs : x.1.served = true)
    (hq : x.1.quiesceFor = some q) :
    (drainTimeout x).1 = { x.1 with mode := .service, prev := .quiesced, quiesceFor := none, drained := false } := by
  simp only [drainTimeout, hq, hm, hd]
  rw [if_neg (by simp), giveUp_core]
  exact enterService_of_quiesced _ hm hs

/-- Settles O3: each request runs `changeMode`, `enterService` or `deviceReset` from a mode that lets it. -/
theorem modeRequestsComplete : Obligations.ModeRequestsComplete := by
  unfold Obligations.ModeRequestsComplete
  refine ⟨?quiesce, ?resume, ?recovery, ?hold, ?maintenance, ?activate, ?drainTimeout, ?holdTimeout, ?maintained⟩
  case quiesce =>
    intro s src hm hr
    refine ⟨s.withAll ({ (changeMode .quiesced (s.core, s.dev)).1 with quiesceFor := some .hold, drained := false },
      (changeMode .quiesced (s.core, s.dev)).2), ?_, rfl, ?_⟩
    · rw [exec_quiesce, execQuiesce, s.onAll_of_on _ (by simp [hm])]
      simp [modeRequest, hr, hm]
    · rw [State.withAll_core, changeMode_core, if_pos (by simp [hm, Mode.permits])]
      simp [hm]
  case resume =>
    intro s src hm hq hs hr
    refine ⟨s.withAll (enterService (s.core, s.dev)), ?_, enterService_of_quiesced _ hm hs⟩
    rw [exec_resume, execResume, s.onAll_of_on _ (by simp [hm])]
    simp [modeRequest, hr, hm, hq]
  case recovery =>
    intro s src hon hr
    refine ⟨s.withAll (deviceReset .cold 6 true (s.core, s.dev)), ?_, deviceReset_core .cold 6 true (s.core, s.dev)⟩
    rw [exec_enterRecovery, execEnterRecovery, s.onAll_of_on _ hon]
    simp [modeRequest, hr]
  case hold =>
    intro s hm hq hd hdone
    rw [exec_drainComplete, execDrainComplete, s.onAll_of_on _ (by simp [hm]), drainComplete_hold _ hm hq hd hdone]
  case maintenance =>
    intro s i q cid x m a b hm hd hq hdone hx hmt
    exact ⟨_, by rw [exec_drainComplete, execDrainComplete, s.onAll_of_on _ (by simp [hm])],
      drainComplete_maintenance (s.core, s.dev) i q cid x m a b hm hd hq hdone hx hmt⟩
  case activate =>
    intro s cmd p hm hd hs hq hdone hw
    exact ⟨_, by rw [exec_drainComplete, execDrainComplete, s.onAll_of_on _ (by simp [hm])],
      drainComplete_activate (s.core, s.dev) cmd p hm hd hs hq hdone hw⟩
  case drainTimeout =>
    intro s q hm hd hq hs
    exact ⟨_, by rw [exec_drainTimeout, execDrainTimeout, s.onAll_of_on _ (by simp [hm])], drainTimeout_core (s.core, s.dev) q hm hd hs hq⟩
  case holdTimeout =>
    intro s hm hq hd hs
    refine ⟨s.withAll (enterService (s.core, s.dev)), ?_, enterService_of_quiesced _ hm hs⟩
    rw [exec_holdTimeout, execHoldTimeout, s.onAll_of_on _ (by simp [hm]), if_pos ⟨hm, hq, hd⟩]
  case maintained =>
    intro s m hm hs hw
    refine ⟨s.withAll (enterService (s.core, (s.dev.finishWholeMaint s.core m).setFlag R.devStatus 3 false)), ?_, ?_⟩
    · rw [exec_maintenanceComplete, execMaintenanceComplete, s.onAll_of_on _ (by simp [hm]), if_neg (by simp [hm])]
      simp [hw]
    · rw [State.withAll_core, enterService_again _ hs (by simp [hm, Mode.permits]), hm]

/-! ### The host ports, and the faults that stop the device -/

theorem portReg_xq (d : Dev) (p : Nat) : (d.portReg p).xq = d.xq := rfl

theorem ite_xq {c : Prop} [Decidable c] (d e : Dev) (h : d.xq = e.xq) : (if c then d else e).xq = e.xq := by
  split
  · exact h
  · rfl

/-- A port's reset leaves of the port its straps only. -/
theorem hostPortReset_port (d : Dev) (c : CoreSt) (p : Nat) : ∃ x : Port, (d.hostPortReset c p).port p = { perstLow := x.perstLow, lanes := x.lanes } := by
  unfold Dev.hostPortReset
  dsimp only
  rw [port_of_xq _ _ (ite_xq _ _ (Dev.partner_xq _ _ _ _ _)), port_of_xq _ _ (ite_xq _ _ (setHolder_xq _ _ _)), port_of_xq _ _ (portReg_xq _ _),
    port_setPort_self]
  exact ⟨_, rfl⟩

theorem namedClaim_xq (d : Dev) (c : CoreSt) : (d.namedClaim c).xq = d.xq := by
  unfold Dev.namedClaim
  split
  · split
    · exact setHolder_xq _ _ _
    · rfl
  · rfl

/-- Settles O4: a port's reset, its link and its functions' configuration, and the two faults that stop the device. -/
theorem hostPortsComplete : Obligations.HostPortsComplete := by
  unfold Obligations.HostPortsComplete
  refine ⟨?portReset, ?perst, ?linkUp, ?functionReset, ?config, ?ats, ?trip, ?sysref⟩
  case portReset =>
    intro s p perst
    obtain ⟨x, hx⟩ := hostPortReset_port s.dev s.core p.val
    rw [exec_hostPortReset, execHostPortReset]
    refine onPin_ex ⟨rfl, rfl, ?_⟩
    simp only [State.withAll_dev, port_setPort_self, hx]
    exact ⟨trivial, trivial, trivial, fun h => by simp [h]⟩
  case perst =>
    intro s p
    rw [exec_perstNDeassert, execPerstNDeassert]
    refine onPin_ex ⟨rfl, ?_⟩
    rw [State.withAll_dev, port_setPort_self]
  case linkUp =>
    intro s p speed width flit hon hp hl
    rw [exec_hostLinkUp, execHostLinkUp]
    refine onDev_ex hon ⟨rfl, ?_⟩
    simp only [hp, hl, State.withDev_dev]
    rw [if_neg (by simp [hon]), port_of_xq _ _ (ite_xq _ _ (namedClaim_xq _ _)), port_of_xq _ _ (Dev.partner_xq _ _ _ _ _),
      port_of_xq _ _ (portReg_xq _ _), port_setPort_self]
  case functionReset =>
    intro s p fn i hon hi
    rw [exec_functionReset, execFunctionReset, s.onDev_of_on _ hon]
    dsimp only
    rw [show Dev.presented { s.dev with xq := { s.dev.xq with funcs := del s.dev.xq.funcs (p.val * 65 + fn.val) } } p.val fn.val = some i from hi]
  case config =>
    intro s p fn hon
    refine ⟨fun r hl => ?_, fun r v => ?_, fun e m => ?_, fun e => ?_, fun n hf => ?_⟩
    all_goals
      rw [exec_pcieConfigRequest, execPcieConfigRequest]
      refine onDev_ex hon ?_
    · simp [hl]
    · simp [Dev.func]
    · simp [Dev.func]
    · simp [Dev.func]
    · simp only [hf, State.withDev_dev]
      rw [if_neg (by simp), port_of_xq _ _ (portReg_xq _ _), port_setPort_self]
  case ats =>
    intro s p fn
    rw [exec_atsInvalidation, execAtsInvalidation]
    by_cases hon : s.on
    · rw [s.onDev_of_on _ hon]; rfl
    · rw [s.onDev_off _ (by simpa [State.on] using hon)]
  case trip =>
    intro s k hc
    rw [exec_thermalTrip, execThermalTrip]
    refine onAll_ex (canStop_on _ hc) ?_
    rw [if_neg (canStop_on _ hc)]
    simp [thermalTrip, uncontained, hc, enterSafeStop_mode]
  case sysref =>
    intro s hc hp
    rw [exec_sysrefLost, execSysrefLost]
    refine onAll_ex (canStop_on _ hc) ?_
    simp [hp, uncontained, hc, enterSafeStop_mode]

end Sys2Proof.Machine
end

section
/-!
PROOFS. The integer, memory, capability and control instructions and the traps complete (O10 to O14).
-/

namespace Sys2Proof.Machine

/-! ### What an instruction that issues answers

`regInstr_past` and `instr_past` are for one that computes a core state and goes to the next instruction, `instr_next` for one that completes
in a device state, `instr_sets` for one that sets PC. -/

theorem regInstr_past {s : State} {p : Fin 136} {k k' : Gallery} {f : Gallery → Except Exc Gallery} (h : Issues s p) (hk : s.dev.core p.val = k)
    (hf : f k = .ok k') (hp : k'.pc = k.pc) : s.onDev (fun c d => d.instr c p.val (regInstr p.val f)) = .next (s.past p k') :=
  Dev.instr_reg s p f k' h (by rw [hk, hf]) (by rw [hk, hp])

theorem instr_next {s : State} {p : Fin 136} {k : Gallery} {body : CoreSt → Gallery → Dev → IRes} {d : Dev} (h : Issues s p)
    (hk : s.dev.core p.val = k) (hb : body s.core k s.dev = .done d) :
    s.onDev (fun c d => d.instr c p.val (body c)) = .next (s.withDev (d.advance p.val)) := by
  rw [s.onDev_of_on _ h.1, Dev.instr_done s p _ d h (by rw [hk, hb])]

theorem instr_past {s : State} {p : Fin 136} {k k' : Gallery} {body : CoreSt → Gallery → Dev → IRes} (h : Issues s p)
    (hk : s.dev.core p.val = k) (hb : body s.core k s.dev = .done (s.dev.setCore p.val k')) (hp : k'.pc = k.pc) :
    s.onDev (fun c d => d.instr c p.val (body c)) = .next (s.past p k') := by
  rw [instr_next h hk hb, State.past_eq s p k' (by rw [hk, hp])]

theorem instr_sets {s : State} {p : Fin 136} {k : Gallery} {body : CoreSt → Gallery → Dev → IRes} {d : Dev} (h : Issues s p)
    (hk : s.dev.core p.val = k) (hb : body s.core k s.dev = .jump d) :
    s.onDev (fun c d => d.instr c p.val (body c)) = .next (s.withDev d) := by
  rw [s.onDev_of_on _ h.1, Dev.instr_jump s p _ d h (by rw [hk, hb])]

/-- An instruction that changes nothing but PC. -/
theorem instr_skip {s : State} {p : Fin 136} {k : Gallery} {body : CoreSt → Gallery → Dev → IRes} (h : Issues s p)
    (hk : s.dev.core p.val = k) (hb : body s.core k s.dev = .done s.dev) :
    s.onDev (fun c d => d.instr c p.val (body c)) = .next (s.past p k) := by
  rw [instr_next h hk hb, State.past, Dev.advance, hk]

/-- An instruction is applied to the core as the state has it. -/
theorem instr_congr {s : State} {p : Fin 136} {k : Gallery} {f g : CoreSt → Gallery → Dev → IRes} (hk : s.dev.core p.val = k)
    (h : f s.core k s.dev = g s.core k s.dev) :
    s.onDev (fun c d => d.instr c p.val (f c)) = s.onDev (fun c d => d.instr c p.val (g c)) := by
  unfold State.onDev Dev.instr
  dsimp only
  rw [hk, h]

/-! ### Integer instructions -/

theorem narrow_signed_fits (i : Int) (h1 : -(2 ^ 63) ≤ i) (h2 : i < 2 ^ 63) : narrow true i = (BitVec.ofInt 64 i, false) := by
  simp [narrow]; omega

theorem narrow_unsigned_fits (n : Nat) (h : n < 2 ^ 64) : narrow false n = (BitVec.ofInt 64 n, false) := by
  simp [narrow]; omega

theorem divide_signed (x y : Word) (h0 : y ≠ 0) (h1 : ¬ (x.toInt = -(2 ^ 63) ∧ y.toInt = -1)) :
    divide true x y = some (BitVec.ofInt 64 (x.toInt.tdiv y.toInt), BitVec.ofInt 64 (x.toInt.tmod y.toInt)) := by
  rw [divide, if_neg h0, if_pos rfl, if_neg h1]

theorem divide_unsigned (x y : Word) (h0 : y ≠ 0) :
    divide false x y = some (BitVec.ofNat 64 (x.toNat / y.toNat), BitVec.ofNat 64 (x.toNat % y.toNat)) := by
  rw [divide, if_neg h0, if_neg (by decide)]

theorem divide_by_zero (x y : Word) (b : Bool) (h : y = 0) : divide b x y = none := by rw [divide, if_pos h]

theorem divide_signed_corner (x y : Word) (h : y = 0 ∨ x.toInt = -(2 ^ 63) ∧ y.toInt = -1) : divide true x y = none := by
  by_cases h0 : y = 0
  · exact divide_by_zero x y true h0
  · rw [divide, if_neg h0, if_pos rfl, if_pos (h.resolve_left h0)]

/-- Settles O10: each instruction is `regInstr` of a core state with PC as it was. -/
theorem integerComplete : Obligations.IntegerComplete := by
  unfold Obligations.IntegerComplete
  intro s p k h hk
  refine ⟨?alu, ?muldiv, ?bits, ?inspect⟩
  case alu =>
    intro op trap d a b ht
    rw [exec_integerAlu, execIntegerAlu]
    refine regInstr_past h hk (if_neg ?_) (Gallery.setG_pc ..)
    rcases ht with ht | ht <;> simp [ht]
  case muldiv =>
    intro op trap d a b x y hx hy
    subst hx hy
    have past (k' : Gallery) (hp : k'.pc = k.pc) := fun hf => (exec_multiplyDivide s p op trap d a b).trans (regInstr_past (k' := k') h hk hf hp)
    refine ⟨?_, ?_, ?_, ?_, ?_, ?_, ?_, ?_, ?_⟩
    · rintro rfl ht
      refine past _ (Gallery.setG_pc ..) ?_
      rcases ht with rfl | ⟨h1, h2⟩
      · rfl
      · simp [narrow_signed_fits _ h1 h2]
    · rintro rfl ht
      refine past _ (Gallery.setG_pc ..) ?_
      rcases ht with rfl | h1
      · rfl
      · dsimp only
        rw [← Int.natCast_mul, narrow_unsigned_fits _ h1]
        simp
    · rintro rfl
      exact past _ (by simp) rfl
    · rintro rfl
      exact past _ (by simp) rfl
    · rintro rfl h0 h1
      exact past _ (Gallery.setG_pc ..) (by simp only [divide_signed _ _ h0 h1]; rfl)
    · rintro rfl h0 h1
      exact past _ (Gallery.setG_pc ..) (by simp only [divide_signed _ _ h0 h1]; rfl)
    · rintro rfl h0
      exact past _ (Gallery.setG_pc ..) (by simp only [divide_unsigned _ _ h0]; rfl)
    · rintro rfl h0
      exact past _ (Gallery.setG_pc ..) (by simp only [divide_unsigned _ _ h0]; rfl)
    · intro hop hc
      simp only [List.mem_cons, List.not_mem_nil, or_false] at hop hc
      rcases hop with rfl | rfl | rfl | rfl <;> simp only [reduceCtorEq, or_true, or_false, false_and, true_and] at hc
      · exact ⟨_, past _ (Gallery.setG_pc ..) (by simp only [divide_signed_corner _ _ hc]; rfl)⟩
      · exact ⟨_, past _ (Gallery.setG_pc ..) (by simp only [divide_by_zero _ _ _ hc]; rfl)⟩
      · exact ⟨_, past _ (Gallery.setG_pc ..) (by simp only [divide_signed_corner _ _ hc]; rfl)⟩
      · exact ⟨_, past _ (Gallery.setG_pc ..) (by simp only [divide_by_zero _ _ _ hc]; rfl)⟩
  case bits =>
    intro op d a b
    rw [exec_bitManipulation, execBitManipulation]
    exact regInstr_past h hk rfl (Gallery.setG_pc ..)
  case inspect =>
    intro f d c x hx
    rw [exec_capInspect, execCapInspect, hx]
    exact regInstr_past h hk rfl (Gallery.setG_pc ..)

/-! ### Loads, stores and atomics -/

/-- A load that issues, passes its check and reads its bytes: the core takes them as `put` says. -/
theorem loadInstr_next {s : State} {p : Fin 136} {k : Gallery} {x : Cap} {o n reg : Nat} {off : MemOff} {e : Dev} {bs : Bytes}
    (put : Gallery → Bytes → Gallery) (h : Issues s p) (hk : s.dev.core p.val = k) (hx : k.getC reg = x) (ho : k.offset off = o)
    (hc : capCheck x reg (2 ^ Perm.load) o n n = none) (hl : s.dev.coreLoad s.core p.val x reg (x.base + o) n = (e, .ok bs)) :
    s.onDev (fun c d => d.instr c p.val (loadInstr c p.val reg off n put)) = .next (s.withDev ((e.setCore p.val (put k bs)).advance p.val)) := by
  refine instr_next (body := fun c => loadInstr c p.val reg off n put) h hk ?_
  have he : e.core p.val = k := by rw [Dev.coreLoad_core _ _ _ _ _ _ _ _ _ hl, hk]
  simp only [loadInstr, hx, ho, hc, hl, he]

theorem exec_store (s : State) (p : Fin 136) (k : Gallery) (d : BitVec 5) (c : BitVec 4) (size : MemSize) (off : MemOff) (hk : s.dev.core p.val = k) :
    exec (.integerStore p d c size off) s = s.onDev (fun c' dv => dv.instr c' p.val (fun k' dv =>
      storeInstr c' p.val c.toNat off (toLE (sizeBytes size) (k.getG d.toNat).toNat) none k' dv)) := by
  rw [exec_integerStore, execIntegerStore]
  exact instr_congr hk rfl

theorem exec_storeCap (s : State) (p : Fin 136) (k : Gallery) (d c : BitVec 4) (off : MemOff) (hk : s.dev.core p.val = k) :
    exec (.stc p d c off) s = s.onDev (fun c' dv => dv.instr c' p.val (fun k' dv =>
      storeInstr c' p.val c.toNat off (toLE 16 (k.getC d.toNat).toBits) (some (k.getC d.toNat).tag) k' dv)) := by
  rw [exec_stc, execStc]
  exact instr_congr hk rfl

/-- What an atomic puts in memory: the new word, or nothing for a compare-and-swap that does not match. -/
def atomicNew (op : AtomicOp) (k : Gallery) (d b : BitVec 5) (old : Word) : Option Word :=
  match op with
  | .swap => some (k.getG b.toNat)
  | .add => some (old + k.getG b.toNat)
  | .cas => if old = k.getG d.toNat then some (k.getG b.toNat) else none

/-- What an atomic does with the word of local store that its capability names. -/
theorem atomic_next {s : State} {p : Fin 136} {k : Gallery} {c : BitVec 4} {x : Cap} (op : AtomicOp) (d b : BitVec 5) (old : Word) (h : Issues s p)
    (hk : s.dev.core p.val = k) (hx : k.getC c.toNat = x) (hc : capCheck x c.toNat (2 ^ Perm.load + 2 ^ Perm.store) 0 8 8 = none)
    (hs : x.space = 0) (hl : x.base + 8 ≤ Config.localBytes) (hb : s.dev.localBad p.val x.base 8 = false)
    (ho : old = BitVec.ofNat 64 (ofLE (s.dev.localRead p.val x.base 8))) (e : Dev)
    (he : e = match atomicNew op k d b old with | some v => s.dev.localWrite p.val x.base (toLE 8 v.toNat) | none => s.dev) :
    exec (.atomic p op d c b) s = .next (s.withDev ((e.setCore p.val ((e.core p.val).setG d.toNat old)).advance p.val)) := by
  rw [exec_atomic, execAtomic, s.onDev_of_on _ h.1, Dev.instr_done s p _ (e.setCore p.val ((e.core p.val).setG d.toNat old)) h]
  subst he ho
  simp only [hk, hx, hc, hs, hb]
  rw [if_neg (by simp), if_neg (by simp), if_neg (by omega)]
  rfl

/-- Settles O11: loads through `loadInstr_next`, stores through `storeInstr_exec`, atomics through `atomic_next`. -/
theorem memoryAccessComplete : Obligations.MemoryAccessComplete := by
  unfold Obligations.MemoryAccessComplete
  intro s p k c x h hk hx
  refine ⟨fun off o ho => ⟨?load, ?ldc, ?store⟩, fun op d b old hc hs hl hb hold => ⟨?atomic, ?cas⟩⟩
  case load =>
    intro d size sx n e bs hn hc hl
    subst hn
    rw [exec_integerLoad, execIntegerLoad]
    exact loadInstr_next _ h hk hx ho hc hl
  case ldc =>
    intro d e bs hc hl
    subst ho
    rw [exec_ldc, execLdc, loadInstr_next _ h hk hx rfl hc hl, hx]
  case store =>
    rintro i bs tag a ha hi hc
    rcases hi with ⟨d, size, rfl, rfl, rfl⟩ | ⟨d, rfl, rfl, rfl⟩
    · exact storeInstr_exec s p k c x off _ _ none false h hk hx o a ho ha (by simp) (exec_store s p k d c size off hk) hc
    · exact storeInstr_exec s p k c x off _ _ (some (k.getC d.toNat).tag) _ h hk hx o a ho ha (by simp) (exec_storeCap s p k d c off hk) hc
  case atomic =>
    intro v e hv he
    refine atomic_next op d b old h hk hx hc hs hl hb hold e ?_
    rcases hv with ⟨rfl, rfl⟩ | ⟨rfl, rfl⟩ | ⟨rfl, hm, rfl⟩
    · exact he
    · exact he
    · simp [atomicNew, hm, he]
  case cas =>
    intro hop hne
    subst hop
    rw [atomic_next .cas d b old h hk hx hc hs hl hb hold s.dev (by simp [atomicNew, hne]), hk]
    exact congrArg _ (State.past_eq s p _ (by rw [Gallery.setG_pc, hk]))

theorem aligned_of_capCheck {x : Cap} {reg need o n align : Nat} (h : capCheck x reg need o n align = none) : (x.base + o) % align = 0 := by
  by_cases hal : (x.base + o) % align = 0
  · exact hal
  · unfold capCheck at h
    dsimp only at h
    rw [if_pos hal] at h
    repeat' split at h
    all_goals cases h

/-- Settles O46: the store law `store_core`, for the integer store and the capability store. -/
theorem storeFrame : Obligations.StoreFrame := by
  unfold Obligations.StoreFrame
  intro s t p k c x off i bs tag a h hk hx ha hm hi hc hl h1 h2 ht
  have ha' : a % bs.length = 0 := by rw [ha]; exact aligned_of_capCheck hc
  rcases hi with ⟨d, size, rfl, rfl, rfl⟩ | ⟨d, rfl, rfl, rfl⟩
  · rw [exec_store s p k d c size off hk] at ht
    refine store_core s t p k c x off _ none a h hk hx ha hm ?_ ha' ?_ (by simpa using hc) hl h1 h2 ht
    · rw [toLE_length]; cases size <;> decide
    · rw [toLE_length]; cases size <;> decide
  · rw [exec_storeCap s p k d c off hk] at ht
    exact store_core s t p k c x off _ (some _) a h hk hx ha hm (by simp [toLE_length]) ha' (by simp [toLE_length]) (by simpa using hc) hl h1 h2 ht

/-! ### Capability instructions -/

/-- A capability that is tagged and not sealed gives the capability that `f` derives from it. -/
theorem derive_done {p reg d o : Nat} {k : Gallery} {x y : Cap} {f : Cap → Except Exc Cap} {dv : Dev} (hx : k.getC reg = x)
    (ht : x.tag = true) (ho : x.otype = 0) (hf : f x = .ok y) : derive p d reg o f k dv = .done (dv.setCore p (k.setC d y)) := by
  simp [derive, regInstr, hx, sourceCheck, ht, ho, hf, Except.map]

/-- Settles O12: copies by `regInstr`, derivations by `derive`. -/
theorem capabilitiesComplete : Obligations.CapabilitiesComplete := by
  unfold Obligations.CapabilitiesComplete
  intro s p k d c x h hk hx
  refine ⟨?copy, ?strip, fun b o n ht ho => ⟨?window, ?keep⟩, ?inst, ?bind, ?unbind⟩
  case copy =>
    rw [exec_ccopy, execCcopy]
    exact regInstr_past h hk (by rw [hx]) (Gallery.setC_pc ..)
  case strip =>
    rw [exec_cstrip, execCstrip]
    exact regInstr_past h hk (by rw [hx]) (Gallery.setC_pc ..)
  case window =>
    intro hb ho' hn hlen
    subst ho' hn
    rw [exec_cwindow, execCwindow]
    refine instr_past h hk ?_ (Gallery.setC_pc ..)
    rw [if_neg (by omega)]
    exact derive_done hx ht ho (if_neg (by omega))
  case keep =>
    rw [exec_ckeep, execCkeep]
    exact instr_past h hk (derive_done hx ht ho rfl) (Gallery.setC_pc ..)
  case inst =>
    intro b auth ht ho ha
    rw [exec_cinst, execCinst]
    refine instr_past h hk ?_ (Gallery.setC_pc ..)
    rw [ha]
    exact derive_done hx ht ho rfl
  case bind =>
    intro b auth t y ht ho hy htt ha h1 h2 h3 h4
    subst hy htt
    rw [exec_cbind, execCbind]
    refine instr_past h hk ?_ (Gallery.setC_pc ..)
    dsimp only
    rw [ha]
    dsimp only
    rw [if_neg (by omega)]
    exact derive_done hx ht ho rfl
  case unbind =>
    intro auth y ht ho hy ha h1 h2
    subst hy
    rw [exec_cunbind, execCunbind]
    refine instr_past h hk ?_ (Gallery.setC_pc ..)
    dsimp only
    rw [if_neg (by simp), ha, hx]
    dsimp only
    rw [if_neg (by simp [ht]), if_neg ho, if_neg (by omega)]

/-! ### Branches, jumps, control registers, the return and waiting -/

theorem jumpRel_of_bounds {p : Nat} {k : Gallery} {w t : Int} {d : Dev} (ht : t = (k.pc : Int) + 4 * w) (h0 : 0 ≤ t) (h1 : t + 4 ≤ k.pcc.len) :
    jumpRel p w k d = .jump (d.setCore p { k with pc := t.toNat }) := by
  subst ht
  exact if_neg (by omega)

theorem jumpRel_of_leaves {p : Nat} {k : Gallery} {w t : Int} {d : Dev} (ht : t = (k.pc : Int) + 4 * w) (h : t < 0 ∨ (k.pcc.len : Int) < t + 4) :
    jumpRel p w k d = .exc { cause := Cause.capBounds, eaddr := ((k.pcc.base : Int) + t).toNat } d := by
  subst ht
  exact if_pos h

theorem jumpCap_of_check {c : CoreSt} {p reg ga o : Nat} {x : Cap} {link : Gallery → Gallery} {k : Gallery} {d : Dev} (hx : k.getC reg = x)
    (ho : o = (k.getG ga).toNat) (hc : capCheck x reg (2 ^ Perm.exec) o 4 4 = none)
    (ht : x.space = 1 → ∀ r h, d.translate x.inst (x.base + o) (d.galleryWho p).tlb false ≠ .viol r h) :
    jumpCap c p reg ga link k d = .jump (d.setCore p { link k with pcc := x, pc := o }) := by
  subst hx ho
  unfold jumpCap
  dsimp only
  rw [hc]
  dsimp only
  split
  case h_1 r h heq =>
    by_cases hs : (k.getC reg).space = 1
    · rw [if_pos hs] at heq
      exact absurd heq (ht hs r h)
    · rw [if_neg hs] at heq
      cases heq
  case h_2 => rfl

theorem ccrInstr_done {c : CoreSt} {p : Nat} {auth : BitVec 4} {f : Gallery → Dev → Option Dev} {k : Gallery} {d d' : Dev} (hf : f k d = some d')
    (ha : authCheck (k.getC auth.toNat) auth.toNat Perm.system = none) : ccrInstr c p auth f k d = .done d' := by
  simp [ccrInstr, hf, ha]

/-- Settles O13: a branch and a jump through `jumpRel`, JC and JCL through `jumpCap`, the control registers through `ccrInstr`. -/
theorem controlComplete : Obligations.ControlComplete := by
  unfold Obligations.ControlComplete
  intro s p k h hk
  refine ⟨fun cond a b off t ht => ⟨?notTaken, ?taken⟩, fun off t ht h0 h1 => ⟨?jump, ?link⟩, fun c d a gd x o hx ho hc ht => ⟨?jc, ?jcl⟩,
    fun auth num ha => ⟨?ccrr, ?ccrw, ?ccrrc, ?ccrwc, ?stays, ?sleeps⟩, ?eret, ?fence, ?wakes, ?waits⟩
  case notTaken =>
    intro hcond
    rw [exec_branch, execBranch]
    exact instr_skip h hk (if_neg (by simp [hcond]))
  case taken =>
    intro hcond h0 h1
    rw [exec_branch, execBranch]
    exact instr_sets h hk ((if_pos hcond).trans (jumpRel_of_bounds ht h0 h1))
  case jump =>
    rw [exec_jump, execJump]
    refine instr_sets h hk ?_
    rw [jumpRel_of_bounds ht h0 h1]
    rfl
  case link =>
    rw [exec_jump, execJump]
    refine instr_sets h hk ?_
    rw [jumpRel_of_bounds ht h0 h1]
    simp
  case jc =>
    rw [exec_jc, execJc]
    exact instr_sets (body := fun c' => jumpCap c' p.val c.toNat a.toNat id) h hk (jumpCap_of_check hx ho hc ht)
  case jcl =>
    rw [exec_jcl, execJcl]
    exact instr_sets (body := fun c' => jumpCap c' p.val c.toNat a.toNat _) h hk (jumpCap_of_check hx ho hc ht)
  case ccrr =>
    intro d v e hr
    rw [exec_ccrr, execCcrr]
    exact instr_next (body := fun c' => ccrInstr c' p.val auth _) h hk (ccrInstr_done (by simp [hr]) ha)
  case ccrw =>
    intro d k' hr
    rw [exec_ccrw, execCcrw]
    exact instr_next (body := fun c' => ccrInstr c' p.val auth _) h hk (ccrInstr_done (by simp [hr]) ha)
  case ccrrc =>
    intro d x hr
    rw [exec_ccrrc, execCcrrc]
    exact instr_past (body := fun c' => ccrInstr c' p.val auth _) h hk (ccrInstr_done (by simp [hr]) ha) (Gallery.setC_pc ..)
  case ccrwc =>
    intro d k' hr
    rw [exec_ccrwc, execCcrwc]
    exact instr_next (body := fun c' => ccrInstr c' p.val auth _) h hk (ccrInstr_done (by simp [hr]) ha)
  case stays =>
    intro hs
    rw [exec_sleep, execSleep]
    exact instr_skip h hk (by simp [ha, hs])
  case sleeps =>
    intro hs
    rw [exec_sleep, execSleep]
    exact instr_next h hk (by simp [ha, hs])
  case eret =>
    intro hs ht hc
    rw [exec_eret, execEret]
    exact instr_sets (body := fun c => Dev.eret c p.val) h hk (by simp [Dev.eret, hs, ht, hc])
  case fence =>
    intro hw hp
    rw [exec_fence, execFence]
    exact instr_skip h hk (by simp [hw, hp])
  case wakes =>
    intro hs
    rw [exec_wfe, execWfe]
    exact instr_skip h hk (if_pos hs)
  case waits =>
    intro h1 h2 h3
    rw [exec_wfe, execWfe]
    exact instr_past h hk (if_neg (by simp [h1, h2, h3])) rfl

/-! ### Exceptions and the banks -/

/-- An exception outside the shadow bank that VBCC can take. -/
theorem instr_taken {s : State} {p : Fin 136} {k : Gallery} {body : CoreSt → Gallery → Dev → IRes} {x : Exc} (h : Issues s p)
    (hk : s.dev.core p.val = k) (hs : k.shadow = false) (hv : vbccFault k.vbcc x.cause = none) (hb : body s.core k s.dev = .exc x s.dev) :
    s.onDev (fun c d => d.instr c p.val (body c)) = .next (s.taken p x) := fin_exc s p k h hk hs body x hv hb

/-- An exception in the shadow bank is a double fault (R325). -/
theorem instr_shadow_fault {s : State} {p : Fin 136} {k : Gallery} {body : CoreSt → Gallery → Dev → IRes} {x : Exc} (h : Issues s p)
    (hk : s.dev.core p.val = k) (hs : k.shadow = true) (hb : body s.core k s.dev = .exc x s.dev) :
    s.onDev (fun c d => d.instr c p.val (body c)) = .next (s.withDev (s.dev.doubleFault s.core p.val (fld k.ecause 5 0) x.cause k.pc)) := by
  rw [s.onDev_of_on _ h.1, Dev.instr_exc s p _ s.dev x h (by rw [hk, hb]), Dev.takeExc, hk]
  simp only [hs, if_true]

/-- An exception that VBCC cannot take is a double fault (R325). -/
theorem instr_vbcc_fault {s : State} {p : Fin 136} {k : Gallery} {body : CoreSt → Gallery → Dev → IRes} {x : Exc} {f : Nat} (h : Issues s p)
    (hk : s.dev.core p.val = k) (hs : k.shadow = false) (hv : vbccFault k.vbcc x.cause = some f) (hb : body s.core k s.dev = .exc x s.dev) :
    s.onDev (fun c d => d.instr c p.val (body c)) = .next (s.withDev (s.dev.doubleFault s.core p.val x.cause f k.pc)) := by
  rw [s.onDev_of_on _ h.1, Dev.instr_exc s p _ s.dev x h (by rw [hk, hb]), Dev.takeExc, hk]
  simp [hs, hv]

/-- What `Gallery.enter` makes of the core, with the cause in ECAUSE. -/
theorem taken_eq {s : State} {p : Fin 136} {k : Gallery} (x : Exc) (hk : s.dev.core p.val = k) (hc : x.cause < 64) : ∃ k' : Gallery,
    k' = { k with ecause := k'.ecause, epc := (if x.next then k.pc + 4 else k.pc), eaddr := BitVec.ofNat 64 x.eaddr, epcc := k.pcc, shadow := true, pcc := k.vbcc, pc := 16 * x.cause } ∧
    fld k'.ecause 5 0 = x.cause ∧ s.taken p x = s.withDev ((s.dev.setCore p.val k').count (R.galCntExc p.val)) :=
  ⟨k.enter x, rfl, Exc.word_cause x hc, by rw [State.taken, hk]⟩

/-- Settles O14. -/
theorem trapsComplete : Obligations.TrapsComplete := by
  unfold Obligations.TrapsComplete
  intro s p k h hk hs
  refine ⟨?trap, ?brk, ?illegal⟩
  case trap =>
    intro n hv
    rw [exec_trap, execTrap, instr_taken h hk hs hv rfl]
    obtain ⟨k', h1, h2, h3⟩ := taken_eq (s := s) { cause := Cause.trap n.toNat, next := true, eaddr := n.toNat } hk (by simp [Cause.trap]; omega)
    exact ⟨k', h1, h2, by rw [h3]⟩
  case brk =>
    intro hv
    rw [exec_brk, execBrk, instr_taken h hk hs hv rfl]
    obtain ⟨k', h1, h2, h3⟩ := taken_eq (s := s) { cause := Cause.brk } hk (by decide)
    exact ⟨k', h1, h2, by rw [h3]⟩
  case illegal =>
    intro hw hv
    have he : exec (.unassignedInstruction p) s = s.onDev (fun c dv => dv.instr c p.val (fun _ dv => .exc (dv.illegal c p.val) dv)) := by
      rw [exec_unassignedInstruction, execUnassignedInstruction, s.onDev_of_on _ h.1, s.onDev_of_on _ h.1, if_pos hw]
    rw [he, instr_taken (x := s.dev.illegal s.core p.val) h hk hs hv rfl]
    obtain ⟨k', h1, h2, h3⟩ := taken_eq (s := s) (s.dev.illegal s.core p.val) hk (show Cause.illegal < 64 by decide)
    exact ⟨k', h1, h2, by rw [h3]⟩

theorem jumpCap_of_fails {c : CoreSt} {p reg ga : Nat} {link : Gallery → Gallery} {k : Gallery} {d : Dev} {e : Exc}
    (hc : capCheck (k.getC reg) reg (2 ^ Perm.exec) (k.getG ga).toNat 4 4 = some e) : jumpCap c p reg ga link k d = .exc e d := by
  simp [jumpCap, hc]

theorem jumpCap_of_viol {c : CoreSt} {p reg ga : Nat} {link : Gallery → Gallery} {k : Gallery} {d : Dev} {r : Nat} {b : Bool}
    (hc : capCheck (k.getC reg) reg (2 ^ Perm.exec) (k.getG ga).toNat 4 4 = none) (hs : (k.getC reg).space = 1)
    (ht : d.translate (k.getC reg).inst ((k.getC reg).base + (k.getG ga).toNat) (d.galleryWho p).tlb false = .viol r b) :
    jumpCap c p reg ga link k d = .exc { cause := Cause.translation, eaddr := (k.getC reg).base + (k.getG ga).toNat, capreg := reg }
      (d.violation c (d.galleryWho p) (k.getC reg).inst ((k.getC reg).base + (k.getG ga).toNat) (2 * b2n b) r) := by
  simp [jumpCap, hc, hs, ht]

/-- Settles O47: `jumpRel` and `jumpCap`, in and out of the bounds. -/
theorem branchBounds : Obligations.BranchBounds := by
  unfold Obligations.BranchBounds
  intro s p k h hk hs
  refine ⟨fun hv => ⟨?branch, ?jump⟩, fun c d a gd => ⟨?check, ?translation, ?good⟩⟩
  case branch =>
    intro cond a b off t ht hcond hout
    rw [exec_branch, execBranch]
    exact instr_taken h hk hs hv ((if_pos hcond).trans (jumpRel_of_leaves ht hout))
  case jump =>
    intro link off t ht hout
    rw [exec_jump, execJump]
    refine instr_taken h hk hs hv ?_
    rw [jumpRel_of_leaves ht hout]
  case check =>
    intro e hc hv
    rw [exec_jc, execJc, exec_jcl, execJcl]
    exact ⟨instr_taken (body := fun c' => jumpCap c' p.val c.toNat a.toNat _) h hk hs hv (jumpCap_of_fails hc),
      instr_taken (body := fun c' => jumpCap c' p.val c.toNat a.toNat _) h hk hs hv (jumpCap_of_fails hc)⟩
  case translation =>
    intro r b hc hsp ht
    rw [exec_jc, execJc, exec_jcl, execJcl, s.onDev_of_on _ h.1, s.onDev_of_on _ h.1]
    exact ⟨_, by rw [Dev.instr_exc s p _ _ _ h (by rw [hk]; exact jumpCap_of_viol hc hsp ht)],
      by rw [Dev.instr_exc s p _ _ _ h (by rw [hk]; exact jumpCap_of_viol hc hsp ht)]⟩
  case good =>
    intro hc ht
    have hcontrol := controlComplete s p k h hk
    exact hcontrol.2.2.1 c d a gd _ _ rfl rfl hc ht

/-- Settles O48. -/
theorem eretReturns : Obligations.EretReturns := by
  unfold Obligations.EretReturns
  intro s p k h hk
  rw [exec_eret, execEret]
  have sets {d : Dev} := instr_sets (body := fun c => Dev.eret c p.val) (d := d) h hk
  refine ⟨?primary, ?returns, ?cancelled, ?fault, ?untagged, ?ccrwc⟩
  case primary =>
    intro hs hv
    exact instr_taken (body := fun c => Dev.eret c p.val) h hk hs hv (by simp [Dev.eret, hs])
  case returns =>
    intro hs ht hc
    exact sets (by simp [Dev.eret, hs, ht, hc])
  case cancelled =>
    intro hs ht hc hv
    refine sets ?_
    simp only [Dev.eret, hs, ht, hc, Dev.takeAsync, Bool.not_true, if_true]
    rw [if_neg (by simp), Dev.takeExc_enter _ _ _ _ (by simp) (by simpa using show vbccFault k.vbcc (asyncExc Cause.taskCancel).cause = none from hv)]
    simp
  case fault =>
    intro f hs ht hv
    exact sets (by simp [Dev.eret, hs, ht, hv])
  case untagged =>
    intro hs ht hv
    refine ⟨{ k with ecause := setFld k.ecause 7 0 Cause.returnUntagged, eaddr := BitVec.ofNat 64 k.pc, pcc := k.vbcc, pc := 0xE0 }, rfl,
      fld_setFld_self _ _ _ _ (by decide) (by decide), sets (by simp [Dev.eret, hs, ht, hv])⟩
  case ccrwc =>
    intro auth d ha
    rw [exec_ccrwc, execCcrwc]
    exact instr_past (body := fun c' => ccrInstr c' p.val auth _) h hk (ccrInstr_done (by simp [Gallery.setCcrCap]) ha) rfl

theorem vbccFault_ne_none (v : Cap) (cause : Nat) (h : v.tag = false ∨ v.otype ≠ 0 ∨ bit v.perms Perm.exec = false ∨ v.len < 16 * cause + 16) :
    ∃ f, vbccFault v cause = some f := by
  unfold vbccFault
  by_cases htag : v.tag = false
  · exact ⟨_, if_pos (by rw [htag]; rfl)⟩
  by_cases hseal : v.otype = 0
  · rw [if_neg (by simpa using htag), if_neg (not_not_intro hseal)]
    by_cases hexec : bit v.perms Perm.exec = false
    · exact ⟨_, if_pos (by rw [hexec]; rfl)⟩
    · rcases h with h | h | h | h
      · exact absurd h htag
      · exact absurd hseal h
      · exact absurd h hexec
      · exact ⟨_, (if_neg (by simpa using hexec)).trans (if_pos h)⟩
  · exact ⟨_, (if_neg (by simpa using htag)).trans (if_pos hseal)⟩

/-- Settles O49. -/
theorem shadowBank : Obligations.ShadowBank := by
  unfold Obligations.ShadowBank
  intro s p k h hk
  obtain ⟨hon, hex, hasync, hfetch⟩ := id h
  refine ⟨fun hs => ⟨?event, ?cancel, ?wfe, ?sleep, ?trap, ?brk⟩, fun hs => ⟨?trapFault, ?brkFault⟩⟩
  case event =>
    rw [exec_takeEvent, execTakeEvent, s.onDev_of_on _ hon, hasync]
    simp [State.withDev]
  case cancel =>
    intro g hg hc
    have hst : k.st = .run := by
      rw [Dev.executes, hk] at hex
      simp only [Bool.and_eq_true, beq_iff_eq] at hex
      exact hex.1.2
    rw [exec_taskCancel, execTaskCancel, s.onDev_of_on _ hon]
    subst hg
    dsimp only
    have hcore : ({ s.dev with doc := { s.dev.doc with tcancels := s.dev.doc.tcancels.erase ((s.dev.logicalOf p.val).getD 0xFF) } } : Dev).core p.val = k := hk
    rw [if_neg (by simpa using hc), hcore]
    simp only [hs, if_true, hst]
  case wfe =>
    rw [exec_wfe, execWfe]
    exact instr_skip h hk (if_pos (by simp [hs]))
  case sleep =>
    intro auth ha
    rw [exec_sleep, execSleep]
    exact instr_skip h hk (by simp [ha, hs])
  case trap =>
    intro n
    rw [exec_trap, execTrap]
    exact instr_shadow_fault (x := { cause := Cause.trap n.toNat, next := true, eaddr := n.toNat }) h hk hs rfl
  case brk =>
    rw [exec_brk, execBrk]
    exact instr_shadow_fault (x := { cause := Cause.brk }) h hk hs rfl
  case trapFault =>
    intro n f hv
    rw [exec_trap, execTrap]
    exact instr_vbcc_fault (x := { cause := Cause.trap n.toNat, next := true, eaddr := n.toNat }) h hk hs hv rfl
  case brkFault =>
    intro hv
    obtain ⟨f, hf⟩ := vbccFault_ne_none k.vbcc Cause.brk hv
    rw [exec_brk, execBrk]
    exact ⟨f, instr_vbcc_fault (x := { cause := Cause.brk }) h hk hs hf rfl⟩

end Sys2Proof.Machine
end

section
/-!
PROOFS. The vector instructions complete (O15 to O18), and the frame of the instructions that touch no memory (O45).
-/

namespace Sys2Proof.Machine

/-! ### Element-wise instructions -/

@[simp] theorem Gallery.setV_pc (k : Gallery) (n v : Nat) : (k.setV n v).pc = k.pc := rfl

@[simp] theorem Gallery.setS_pc (k : Gallery) (n v : Nat) : (k.setS n v).pc = k.pc := rfl

/-- An element-wise instruction whose active elements meet no cause. -/
theorem elemInstr_past {s : State} {p : Fin 136} {k : Gallery} {vd : Nat} {vm : Bool} {legal : Gallery → Bool}
    {f : Gallery → Nat → Nat → Except Exc Nat} {v n : Nat} (h : VecIssues s p) (hk : s.dev.core p.val = k) (hl : legal k = true)
    (hn : n = k.vl * sewBits k.vtype / 8) (hf : k.elemsInto vm (sewBits k.vtype) vd (f k) = some v) :
    s.onDev (fun c dv => dv.instr c p.val (elemInstr c p.val vd vm legal f)) = .next (s.pastVec p (k.setV vd v) n) := by
  rw [hn]
  exact Dev.longVec_done s p legal true (fun k => sewBits k.vtype) _ k _ h hk hl (Or.inl rfl) (Dev.elemBody_done _ _ _ _ f _ _ _ hf) rfl

/-- An instruction that writes one mask bit per element. -/
theorem maskInstr_past {s : State} {p : Fin 136} {k : Gallery} {vd : Nat} {vm : Bool} {legal : Gallery → Bool} {width : Gallery → Nat}
    {f : Gallery → Nat → Except Exc Bool} {v : Nat} (h : VecIssues s p) (hk : s.dev.core p.val = k) (hl : legal k = true)
    (hf : k.elemsInto vm 1 vd (fun _ i => (f k i).map b2n) = some v) :
    s.onDev (fun c dv => dv.instr c p.val (longVec c p.val legal true width (maskBody p.val vd vm f))) =
      .next (s.pastVec p (k.setV vd v) (k.vl * width k / 8)) :=
  Dev.longVec_done s p legal true width _ k _ h hk hl (Or.inl rfl) (Dev.elemBody_done _ _ _ _ (fun k _ i => (f k i).map b2n) _ _ _ hf) rfl

/-- Settles O15: the vector state through `retained`, the element-wise instructions through `elemInstr`. -/
theorem vectorIntegerComplete : Obligations.VectorIntegerComplete := by
  unfold Obligations.VectorIntegerComplete
  refine ⟨fun s p k h hk => ⟨?setvl, ?vsetsc, ?vrdstate, ?vwake⟩, fun s p k hon hk => ⟨?off, ?woke, ?stalled⟩,
    fun s p k vd va vb vm u trap w n v h hk hw hn => ⟨?alu, ?widen, ?dot, ?cmp, ?logic, ?crc, ?hash⟩⟩
  case setvl =>
    intro gd ga sew n hs hn
    have he : exec (.setvl p gd ga sew) s = s.onDev (fun c dv => dv.instr c p.val (retained p.val (fun k =>
        .ok { k.setG gd.toNat (BitVec.ofNat 64 n) with vtype := sew.toNat, vl := n, vstart := 0 }))) := by
      rw [exec_setvl, execSetvl]
      refine instr_congr (k := k) hk ?_
      rw [if_neg (by omega), hn]
    rw [he]
    exact ret_exec s p k { k.setG gd.toNat (BitVec.ofNat 64 n) with vtype := sew.toNat, vl := n, vstart := 0 } _ h hk rfl (Gallery.setG_pc ..)
  case vsetsc =>
    intro gs v hv
    subst hv
    rw [exec_vsetsc, execVsetsc]
    exact ret_exec s p k { k with vscale := setFld (setFld (setFld (setFld (BitVec.ofNat 64 (fld (k.getG gs.toNat) 25 0)) 63 26 0) 23 22 0) 15 14 0) 7 6 0 }
      _ h hk rfl rfl
  case vrdstate =>
    intro gd n
    rw [exec_vrdstate, execVrdstate]
    exact ret_exec s p k (k.setG gd.toNat _) _ h hk rfl (Gallery.setG_pc ..)
  case vwake =>
    rw [exec_vwake, execVwake]
    exact instr_next h hk rfl
  case off =>
    intro e h1 h2 he
    rw [exec_lvuPowerOff, execLvuPowerOff, s.onDev_of_on _ hon]
    simp only [hk]
    rw [if_pos ⟨h1, h2⟩, ← he]
  case woke =>
    intro h1 h2
    rw [exec_lvuWakeDone, execLvuWakeDone, s.onDev_of_on _ hon]
    simp only [hk]
    rw [if_pos h1, if_neg (by simp [h2])]
  case stalled =>
    intro h1 h2
    refine ⟨(Config.freeWord s.dev.fresh).toNat % 4801, by omega, ?_⟩
    rw [exec_lvuWakeDone, execLvuWakeDone, s.onDev_of_on _ hon]
    simp only [hk]
    rw [if_pos h1, if_pos h2]
    rfl
  case alu =>
    intro op hv hf
    subst hw
    rw [exec_vectorAlu, execVectorAlu]
    exact elemInstr_past h hk (by simpa using hv) hn hf
  case widen =>
    intro src x hv hx hf
    subst hw hx
    rw [exec_vectorWidenMultiply, execVectorWidenMultiply]
    exact elemInstr_past h hk (by simpa using hv) hn hf
  case dot =>
    intro i m x hi hf
    subst hw
    rcases hi with ⟨rfl, rfl, rfl, hv⟩ | ⟨rfl, rfl, rfl, hv⟩ | ⟨rfl, rfl, rfl, hv⟩
    · rw [exec_vdot4b, execVdot4b]
      exact elemInstr_past h hk (by simp [hv]) hn (by rw [hv] at hf ⊢; exact hf)
    · rw [exec_vdot2h, execVdot2h]
      exact elemInstr_past h hk (by simp [hv]) hn (by rw [hv] at hf ⊢; exact hf)
    · rw [exec_vdot2w, execVdot2w]
      exact elemInstr_past h hk (by simp [hv]) hn (by rw [hv] at hf ⊢; exact hf)
  case cmp =>
    intro o hf
    subst hw hn
    rw [exec_vectorCompare, execVectorCompare]
    exact maskInstr_past h hk rfl hf
  case logic =>
    intro o hf
    subst hw hn
    rw [exec_vectorCompare, execVectorCompare]
    exact maskInstr_past h hk rfl hf
  case crc =>
    intro b hv hf
    subst hw
    rw [exec_vhcrc, execVhcrc]
    exact elemInstr_past h hk (by simp [hv]) hn hf
  case hash =>
    intro hv hf
    subst hw
    rw [exec_vhmul, execVhmul]
    exact elemInstr_past h hk (by simp [hv]) hn hf

theorem vtype_of_decLegal {k : Gallery} {a b t : Bool} (h : k.decLegal a b t = true) : k.vtype = 4 := by
  unfold Gallery.decLegal at h
  simp only [Bool.and_eq_true, beq_iff_eq] at h
  exact h.1.1.1.1

/-- Settles O17: a DEC128 instruction through `elemInstr`, VDCMP through `maskBody`, VLNARROW with 128-bit results of 256-bit lanes. -/
theorem vectorDecimalComplete : Obligations.VectorDecimalComplete := by
  unfold Obligations.VectorDecimalComplete
  intro s p k vd va vb vm v h hk
  have hw {a b c : Bool} (hd : k.decLegal a b c = true) : sewBits k.vtype = 128 := by rw [vtype_of_decLegal hd]; rfl
  refine ⟨?binary, ?rescale, ?fromInt, ?compare, fun hv hl => ⟨?accumulate, ?accumulateInt, ?add⟩, ?narrow⟩
  case binary =>
    intro i f hd hi hf
    have hn : k.vl * 128 / 8 = k.vl * sewBits k.vtype / 8 := by rw [hw hd]
    have past (g : Gallery → Int → Int → Option Int) (hg : f = g k) := elemInstr_past (vd := vd.toNat) (vm := vm) (v := v)
      (legal := fun k => k.decLegal true true true) (f := fun k _ i => if decOperands (k.dec va.toNat i) (k.dec vb.toNat i) then decElem (g k (k.dec va.toNat i) (k.dec vb.toNat i))
        else .error overflowExc) h hk hd hn (by rw [hw hd, ← hg]; exact hf)
    rcases hi with ⟨rfl, hg⟩ | ⟨rfl, hg⟩ | ⟨rfl, hg⟩ | ⟨rfl, hg⟩ | ⟨rfl, hg⟩ | ⟨rfl, hg⟩
    · rw [exec_vdadd, execVdadd]; exact past (fun k => decAdd k.rm k.sa k.sb k.st_ false) hg
    · rw [exec_vdsub, execVdsub]; exact past (fun k => decAdd k.rm k.sa k.sb k.st_ true) hg
    · rw [exec_vdmul, execVdmul]; exact past (fun k => decMul k.rm k.sa k.sb k.st_) hg
    · rw [exec_vddiv, execVddiv]; exact past (fun k => decDiv k.rm k.sa k.sb k.st_) hg
    · rw [exec_vdmin, execVdmin]; exact past (fun k => decPick k.rm k.sa k.sb k.st_ false) hg
    · rw [exec_vdmax, execVdmax]; exact past (fun k => decPick k.rm k.sa k.sb k.st_ true) hg
  case rescale =>
    intro hd hf
    rw [exec_vdrescale, execVdrescale]
    exact elemInstr_past h hk hd (by rw [hw hd]) (by rw [hw hd]; exact hf)
  case fromInt =>
    intro hd hf
    rw [exec_vdfromi, execVdfromi]
    exact elemInstr_past h hk hd (by rw [hw hd]) (by rw [hw hd]; exact hf)
  case compare =>
    intro op hd hf
    rw [exec_vdcmp, execVdcmp]
    exact maskInstr_past h hk hd hf
  case accumulate =>
    intro h1 h2 hf
    rw [exec_vlacc, execVlacc]
    exact elemInstr_past h hk (by simp [hv, hl, h1, h2]) (by rw [hv]; rfl) (by rw [hv]; exact hf)
  case accumulateInt =>
    intro h1 hf
    rw [exec_vlacci, execVlacci]
    exact elemInstr_past h hk (by simp [hv, hl, h1]) (by rw [hv]; rfl) (by rw [hv]; exact hf)
  case add =>
    intro hf
    rw [exec_vladd, execVladd]
    exact elemInstr_past h hk (by simp [hv, hl]) (by rw [hv]; rfl) (by rw [hv]; exact hf)
  case narrow =>
    intro hv hl hf
    rw [exec_vlnarrow, execVlnarrow]
    exact Dev.longVec_done s p _ true (fun _ => 256) _ k _ h hk (by simp [hv, hl]) (Or.inl rfl)
      (Dev.elemBody_done _ _ _ _ (fun k _ i => decElem (laneNarrow (k.lane va.toNat i))) _ _ _ hf) rfl

/-! ### Instructions that are not restartable -/

/-- An instruction that is not restartable, at VSTART zero, with the core state that it makes. -/
theorem wholeInstr_past {s : State} {p : Fin 136} {k k' : Gallery} {n : Nat} {legal : Gallery → Bool} {f : Gallery → Dev → Except Exc Dev}
    (h : VecIssues s p) (hk : s.dev.core p.val = k) (hs : k.vstart = 0) (hn : n = k.vl * sewBits k.vtype / 8) (hl : legal k = true)
    (hf : f k s.dev = .ok (s.dev.setCore p.val k')) (hp : k'.pc = k.pc) :
    s.onDev (fun c dv => dv.instr c p.val (wholeInstr c p.val legal f)) = .next (s.pastVec p k' n) := by
  rw [hn]
  exact whole_done0 s p legal f k k' h hk hl hs hf hp

/-- One element of a permute: the source element where there is one, a free value where the source is outside the register. -/
def permuteOne (src : Nat → Option Nat) (lim w reg : Nat) (acc : List (Nat × Nat) × Dev) (i : Nat) : List (Nat × Nat) × Dev :=
  match src i with
  | none => acc
  | some j =>
    if j < lim then (acc.1 ++ [(i, elem w reg j)], acc.2)
    else
      let (v, d) := acc.2.draw
      (acc.1 ++ [(i, v.toNat)], d)

/-- What `permuteOne` gives over a list of elements: their results in order, and free values drawn. -/
theorem permuteOne_foldl (src : Nat → Option Nat) (lim w reg : Nat) (is : List Nat) (acc : List (Nat × Nat)) (d : Dev) :
    ∃ (ps : List (Nat × Nat)) (m : Nat), is.foldl (permuteOne src lim w reg) (acc, d) = (acc ++ ps, { d with fresh := d.fresh + m }) ∧
      ps.map (fun e => e.1) = is.filter (fun i => (src i).isSome) ∧
      ∀ i x j, (i, x) ∈ ps → src i = some j → j < lim → x = elem w reg j := by
  induction is generalizing acc d with
  | nil => exact ⟨[], 0, by simp, rfl, by simp⟩
  | cons i is ih =>
    cases hsrc : src i with
    | none =>
      obtain ⟨ps, m, h1, h2, h3⟩ := ih acc d
      exact ⟨ps, m, by simp only [List.foldl_cons, permuteOne, hsrc, h1], by simp [hsrc, h2], h3⟩
    | some j =>
      by_cases hj : j < lim
      · obtain ⟨ps, m, h1, h2, h3⟩ := ih (acc ++ [(i, elem w reg j)]) d
        refine ⟨(i, elem w reg j) :: ps, m, by simp [permuteOne, hsrc, hj, h1], by simp [hsrc, h2], ?_⟩
        intro i' x j' hmem hs hlt
        rcases List.mem_cons.mp hmem with heq | hmem
        · obtain ⟨rfl, rfl⟩ := Prod.mk.inj heq
          rw [hsrc] at hs
          rw [Option.some.inj hs]
        · exact h3 i' x j' hmem hs hlt
      · obtain ⟨ps, m, h1, h2, h3⟩ := ih (acc ++ [(i, d.draw.1.toNat)]) d.draw.2
        refine ⟨(i, d.draw.1.toNat) :: ps, 1 + m, ?_, by simp [hsrc, h2], ?_⟩
        · simp only [List.foldl_cons, permuteOne, hsrc, if_neg hj, h1]
          simp [Dev.draw, Nat.add_assoc]
        · intro i' x j' hmem hs hlt
          rcases List.mem_cons.mp hmem with heq | hmem
          · obtain ⟨rfl, rfl⟩ := Prod.mk.inj heq
            rw [hsrc] at hs
            exact absurd (Option.some.inj hs ▸ hlt) hj
          · exact h3 i' x j' hmem hs hlt

/-- Settles O16: each instruction through `wholeInstr`. -/
theorem vectorWholeComplete : Obligations.VectorWholeComplete := by
  unfold Obligations.VectorWholeComplete
  intro s p k w n h hk hs hw hn
  subst hw
  refine ⟨fun op trap u vd va vm => ⟨?reduce, ?reduceNone⟩, ?count, ?compress, ?expand, ?permute, ?exchange,
    fun d a vm e he => ⟨?copy, ?bcastG, ?bcastV, ?toG, ?toS, ?fromS⟩, ?lanes⟩
  case reduce =>
    intro r hr
    rw [exec_vectorReduction, execVectorReduction]
    exact wholeInstr_past h hk hs hn rfl (by simp only [hr]) rfl
  case reduceNone =>
    intro ha
    refine ⟨(Config.freeWord s.dev.fresh).toNat, ?_⟩
    rw [exec_vectorReduction, execVectorReduction, hn]
    exact whole_done s p _ _ k _ 1 h hk rfl hs (by simp only [ha]; rfl) rfl
  case count =>
    intro gd vm
    rw [exec_vcpop, execVcpop]
    exact wholeInstr_past h hk hs hn rfl rfl (Gallery.setG_pc ..)
  case compress =>
    intro vd va vm xs hx
    subst hx
    rw [exec_vcompress, execVcompress]
    exact wholeInstr_past h hk hs hn rfl rfl rfl
  case expand =>
    intro vd va vm
    rw [exec_vexpand, execVexpand]
    exact wholeInstr_past h hk hs hn rfl rfl rfl
  case permute =>
    intro op vd va vb vm src hsrc
    obtain ⟨ps, m, h1, h2, h3⟩ := permuteOne_foldl src (vlMax k.vtype) (sewBits k.vtype) (k.vreg va.toNat) (k.active vm) [] s.dev
    refine ⟨ps, m, ?_, h2, h3⟩
    obtain rfl := funext hsrc
    rw [exec_vectorPermute, execVectorPermute, hn]
    refine whole_done s p _ _ k (k.setV vd.toNat (putElems (sewBits k.vtype) (k.vreg vd.toNat) ps)) m h hk rfl hs ?_ rfl
    exact congrArg (fun r : List (Nat × Nat) × Dev => (Except.ok (r.2.setCore p.val (k.setV vd.toNat
      (putElems (sewBits k.vtype) (k.vreg vd.toNat) r.1))) : Except Exc Dev)) h1
  case exchange =>
    intro vd vb j i u hj h1 h2 r hr
    subst hr
    rw [exec_vcx, execVcx]
    refine wholeInstr_past h hk hs hn (by simp [hj, h1, h2]) rfl ?_
    split <;> rfl
  case copy =>
    rw [exec_vectorMove, execVectorMove]
    exact wholeInstr_past h hk hs hn rfl rfl rfl
  case bcastG =>
    intro zx
    rw [exec_vectorMove, execVectorMove]
    exact wholeInstr_past h hk hs hn rfl rfl rfl
  case bcastV =>
    subst he
    rw [exec_vectorMove, execVectorMove]
    exact wholeInstr_past h hk hs hn rfl rfl rfl
  case toG =>
    intro zx
    subst he
    rw [exec_vectorMove, execVectorMove]
    refine wholeInstr_past h hk hs hn rfl (by simp) ?_
    split <;> simp
  case toS =>
    rw [exec_vectorMove, execVectorMove]
    exact wholeInstr_past h hk hs hn rfl rfl rfl
  case fromS =>
    rw [exec_vectorMove, execVectorMove]
    exact wholeInstr_past h hk hs hn rfl rfl rfl
  case lanes =>
    intro vd va vm x hv hl hx
    rw [exec_vlred, execVlred]
    exact wholeInstr_past h hk hs hn (by simp [hv, hl]) (by simp only [hx]) rfl

/-! ### Vector loads and stores -/

/-- A vector load whose active elements all pass. -/
theorem vecLoad_past {s : State} {p : Fin 136} {k : Gallery} {reg vd v n : Nat} {vm gather : Bool} {legal : Gallery → Bool}
    {off : Gallery → Nat → Nat} {d : Dev} (h : VecIssues s p) (hk : s.dev.core p.val = k) (hn : n = k.vl * sewBits k.vtype / 8)
    (hl : legal k = true) (hf : s.elemsFrom p k reg vd vm gather (off k) = some (d, v)) :
    s.onDev (fun c dv => dv.instr c p.val (vecLoad c p.val reg vd vm gather legal off)) =
      .next (s.withDev ((d.setCore p.val (k.setV vd v)).pastVec p n)) := by
  obtain ⟨h1, h2⟩ := over_load s.core p.val reg (k.getC reg) (sewBits k.vtype) gather (off k) (k.active vm) s.dev d (k.vreg vd) v hf
  rw [hn, ← longVec_any s p legal (fun k => sewBits k.vtype) (fun _ _ => (d.setCore p.val (k.setV vd v), none)) k _ h hk hl rfl]
  refine instr_congr (f := fun c => vecLoad c p.val reg vd vm gather legal off) hk (longVec_congr _ _ _ _ _ _ _ _ _ ?_)
  have hcore : d.core p.val = k := by rw [h2, hk]
  exact (congrArg (fun r : (Dev × Nat) × Option (Nat × Exc) => (r.1.1.setCore p.val ((r.1.1.core p.val).setV vd r.1.2), r.2)) h1).trans
    (by simp only [hcore])

/-- A vector store, not to the port window, whose active elements all pass. -/
theorem vecStore_past {s : State} {p : Fin 136} {k : Gallery} {reg vd n : Nat} {vm scatter : Bool} {legal : Gallery → Bool}
    {off : Gallery → Nat → Nat} {d : Dev} (h : VecIssues s p) (hk : s.dev.core p.val = k) (hn : n = k.vl * sewBits k.vtype / 8)
    (hl : legal k = true) (hs : (k.getC reg).space ≠ 2) (hf : s.elemsTo p k reg vd vm scatter (off k) = some d) :
    s.onDev (fun c dv => dv.instr c p.val (vecStore c p.val reg vd vm scatter legal off)) = .next (s.withDev (d.pastVec p n)) := by
  have h1 := over_store s.core p.val reg vd k (k.getC reg) (sewBits k.vtype) scatter (off k) (k.active vm) s.dev d [] hf
  rw [hn, ← longVec_any s p legal (fun k => sewBits k.vtype) (fun _ _ => (d, none)) k _ h hk hl rfl]
  refine instr_congr (f := fun c => vecStore c p.val reg vd vm scatter legal off) hk (longVec_congr _ _ _ _ _ _ _ _ _ ?_)
  have hj : ((k.getC reg).space == 2) = false := by simp [hs]
  simp only [hj]
  exact congrArg (fun r : (Dev × List (Nat × Bytes)) × Option (Nat × Exc) => (r.1.1, r.2)) h1

/-- A store to the port window collects its elements, and a scatter counts each. -/
theorem overElems_port (p reg : Nat) (x : Cap) (w : Nat) (scatter : Bool) (off : Nat → Nat) (bs : Nat → Bytes) (is : List Nat) (d : Dev)
    (cs : List (Nat × Bytes)) (h : ∀ i ∈ is, elemCheck x reg (2 ^ Perm.store) (off i) (w / 8) = none) :
    overElems (fun (i : Nat) (s : Dev × List (Nat × Bytes)) => match elemCheck x reg (2 ^ Perm.store) (off i) (w / 8) with
      | some e => (.error (s, e) : Except ((Dev × List (Nat × Bytes)) × Exc) (Dev × List (Nat × Bytes)))
      | none => .ok (if scatter then s.1.count (R.galVcntGselem p) else s.1, s.2 ++ [(x.base + off i, bs i)])) is (d, cs) =
      ((if scatter then each is (fun _ d => d.count (R.galVcntGselem p)) d else d, cs ++ is.map (fun i => (x.base + off i, bs i))), none) := by
  induction is generalizing d cs with
  | nil => cases scatter <;> simp [overElems, each]
  | cons i is ih =>
    unfold overElems
    simp only [h i List.mem_cons_self]
    rw [ih _ _ fun j hj => h j (List.mem_cons_of_mem _ hj)]
    cases scatter <;> simp [each]

/-- A vector store to the port window whose active elements all pass: their bytes are written in 64-byte writes. -/
theorem vecStore_port {s : State} {p : Fin 136} {k : Gallery} {reg vd n : Nat} {vm scatter : Bool} {legal : Gallery → Bool}
    {off : Gallery → Nat → Nat} (h : VecIssues s p) (hk : s.dev.core p.val = k) (hn : n = k.vl * sewBits k.vtype / 8) (hl : legal k = true)
    (hs : (k.getC reg).space = 2)
    (hc : ∀ i ∈ k.active vm, elemCheck (k.getC reg) reg (2 ^ Perm.store) (off k i) (sewBits k.vtype / 8) = none) :
    s.onDev (fun c dv => dv.instr c p.val (vecStore c p.val reg vd vm scatter legal off)) =
      .next (s.withDev ((portWrites s.core p.val ((k.active vm).map (fun i => ((k.getC reg).base + off k i,
        toLE (sewBits k.vtype / 8) (elem (sewBits k.vtype) (k.vreg vd) i))))
          (if scatter then each (k.active vm) (fun _ d => d.count (R.galVcntGselem p.val)) s.dev else s.dev)).pastVec p n)) := by
  have hj : ((k.getC reg).space == 2) = true := by simp [hs]
  rw [hn, ← longVec_any s p legal (fun k => sewBits k.vtype) (fun _ _ => (portWrites s.core p.val ((k.active vm).map (fun i =>
    ((k.getC reg).base + off k i, toLE (sewBits k.vtype / 8) (elem (sewBits k.vtype) (k.vreg vd) i))))
      (if scatter then each (k.active vm) (fun _ d => d.count (R.galVcntGselem p.val)) s.dev else s.dev), none)) k _ h hk hl rfl]
  refine instr_congr (f := fun c => vecStore c p.val reg vd vm scatter legal off) hk (longVec_congr _ _ _ _ _ _ _ _ _ ?_)
  simp only [hj, if_true]
  exact congrArg (fun r : (Dev × List (Nat × Bytes)) × Option (Nat × Exc) => (portWrites s.core p.val r.1.2 r.1.1, r.2))
    (overElems_port p.val reg (k.getC reg) (sewBits k.vtype) scatter (off k) _ (k.active vm) s.dev [] hc)

/-- Settles O18. -/
theorem vectorMemoryComplete : Obligations.VectorMemoryComplete := by
  unfold Obligations.VectorMemoryComplete
  intro s p k vd vb c vm shift n h hk hn
  refine ⟨?load, ?gather, ?store, ?storePort, ?scatter, ?scatterPort⟩
  case load =>
    intro d v hf
    rw [exec_vld, execVld]
    exact vecLoad_past h hk hn rfl hf
  case gather =>
    intro wide d v hi hf
    rw [exec_vgath, execVgath]
    exact vecLoad_past h hk hn hi hf
  case store =>
    intro d hs hf
    rw [exec_vst, execVst]
    exact vecStore_past h hk hn rfl hs hf
  case storePort =>
    intro hs hc
    rw [exec_vst, execVst]
    exact vecStore_port h hk hn rfl hs hc
  case scatter =>
    intro wide d hs hi hf
    rw [exec_vscat, execVscat]
    exact vecStore_past h hk hn hi hs hf
  case scatterPort =>
    intro wide hs hi hc
    rw [exec_vscat, execVscat]
    exact vecStore_port h hk hn hi hs hc

/-! ### The frame of the instructions that touch no memory -/

/-- What a step keeps that touches gallery `p` only: the conclusion of O45. -/
def FramedStep (s t : State) (p : Nat) : Prop :=
  t.core = s.core ∧ t.pending = s.pending ∧ Framed s.core p s.dev t.dev

/-- An instruction whose body is `Fine` keeps the frame. -/
theorem framedStep_of_fine {s t : State} {p : Nat} {body : CoreSt → Gallery → Dev → IRes} (hs : (s.dev.core p).pcc.space ≠ 1)
    (ht : s.onDev (fun c d => d.instr c p (body c)) = .next t) (hf : ∀ k, Fine s.core p s.dev (body s.core k s.dev)) : FramedStep s t p := by
  obtain ⟨hc, hp, hd⟩ := s.onDev_next t _ ht
  refine ⟨hc, hp, ?_⟩
  rcases hd with hd | ⟨_, hd⟩
  · rw [hd]; exact Or.inl (Dev.only_refl _ _)
  · rw [hd]; exact instr_framed _ _ _ _ hs hf

theorem dotInstr_fine (c p n w sew trap u vd va vb vm k d) : Fine c p d (dotInstr c p n w sew trap u vd va vb vm k d) :=
  elemInstr_fine _ _ _ _ _ _ _ _

theorem decInstr_fine (c p vd va vb vm f k d) : Fine c p d (decInstr c p vd va vb vm f k d) := elemInstr_fine _ _ _ _ _ _ _ _

theorem maskBody_fine (c p legal width vd vm f k d) : Fine c p d (longVec c p legal true width (maskBody p vd vm f) k d) :=
  longVec_fine _ _ _ _ _ _ _ _ (elemBody_only _ _ _ _ _ _ _)

theorem jumpRel_fine (c : CoreSt) (p off k d) : Fine c p d (jumpRel p off k d) := by
  rcases jumpRel_cases p off k d with ⟨e, he, ho⟩ | ⟨x, hx⟩
  · rw [he]; exact Or.inl ho
  · rw [hx]; exact Dev.only_refl _ _

theorem jump_fine (c : CoreSt) (p off k d) (link : Bool) : Fine c p d (match jumpRel p off k d with
    | .jump dv => .jump (if link then dv.setCore p ((dv.core p).setG 31 (BitVec.ofNat 64 (k.pc + 4))) else dv)
    | r => r) := by
  rcases jumpRel_cases p off k d with ⟨e, he, ho⟩ | ⟨x, hx⟩
  · rw [he]
    refine Or.inl ?_
    split
    · exact Dev.only_trans ho (Dev.only_setCore _ _ _)
    · exact ho
  · rw [hx]; exact Dev.only_refl _ _

theorem eret_fine (c : CoreSt) (p k d) : Fine c p d (Dev.eret c p k d) := by
  unfold Dev.eret
  split
  · exact Dev.only_refl _ _
  · split
    · dsimp only
      split
      · exact Framed.of_only (Dev.only_setCore _ _ _) (takeAsync_framed _ _ _ _)
      · exact Or.inl (Dev.only_setCore _ _ _)
    · split
      · exact Or.inr ⟨d, _, _, _, Dev.only_refl _ _, rfl, rfl⟩
      · exact Or.inl (Dev.only_trans (Dev.only_setCore _ _ _) (Dev.only_count _ _ _ _))

/-- A body that takes an exception where `b` holds and is fine elsewhere. -/
theorem ite_exc_fine {c : CoreSt} {p : Nat} {d : Dev} {b : Prop} [Decidable b] {x : Exc} {r : IRes} (h : Fine c p d r) :
    Fine c p d (if b then .exc x d else r) := by
  split
  · exact Dev.only_refl _ _
  · exact h

/-- A body that takes the exception of a failed check and is fine elsewhere. -/
theorem check_fine {c : CoreSt} {p : Nat} {d : Dev} {o : Option Exc} {r : IRes} (h : Fine c p d r) :
    Fine c p d (match o with | some e => .exc e d | none => r) := by
  cases o with
  | none => exact h
  | some e => exact Dev.only_refl _ _

theorem exc_fine (c : CoreSt) (p : Nat) (d : Dev) (x : Exc) : Fine c p d (.exc x d) := Dev.only_refl _ _

theorem registerOnly_framed {i : Instr} {s t : State} {p : Fin 136} (hi : registerOnly i = some p) (hs : (s.dev.core p.val).pcc.space ≠ 1)
    (ht : exec i s = .next t) : FramedStep s t p.val := by
  cases i <;> simp only [registerOnly, Option.some.injEq, reduceCtorEq] at hi <;> subst hi
  case integerAlu =>
    rw [exec_integerAlu, execIntegerAlu] at ht
    exact framedStep_of_fine hs ht (fun _ => regInstr_fine ..)
  case multiplyDivide =>
    rw [exec_multiplyDivide, execMultiplyDivide] at ht
    exact framedStep_of_fine hs ht (fun _ => regInstr_fine ..)
  case bitManipulation =>
    rw [exec_bitManipulation, execBitManipulation] at ht
    exact framedStep_of_fine hs ht (fun _ => regInstr_fine ..)
  case ccopy =>
    rw [exec_ccopy, execCcopy] at ht
    exact framedStep_of_fine hs ht (fun _ => regInstr_fine ..)
  case cstrip =>
    rw [exec_cstrip, execCstrip] at ht
    exact framedStep_of_fine hs ht (fun _ => regInstr_fine ..)
  case capInspect =>
    rw [exec_capInspect, execCapInspect] at ht
    exact framedStep_of_fine hs ht (fun _ => regInstr_fine ..)
  case cwindow =>
    rw [exec_cwindow, execCwindow] at ht
    exact framedStep_of_fine hs ht (fun _ => ite_exc_fine (derive_fine ..))
  case ckeep =>
    rw [exec_ckeep, execCkeep] at ht
    exact framedStep_of_fine hs ht (fun _ => derive_fine ..)
  case cinst =>
    rw [exec_cinst, execCinst] at ht
    exact framedStep_of_fine hs ht (fun _ => check_fine (derive_fine ..))
  case cbind =>
    rw [exec_cbind, execCbind] at ht
    exact framedStep_of_fine hs ht (fun _ => check_fine (ite_exc_fine (derive_fine ..)))
  case cunbind =>
    rw [exec_cunbind, execCunbind] at ht
    exact framedStep_of_fine hs ht (fun _ => ite_exc_fine (check_fine (ite_exc_fine (ite_exc_fine (ite_exc_fine (Dev.only_setCore ..))))))
  case branch =>
    rw [exec_branch, execBranch] at ht
    refine framedStep_of_fine hs ht (fun _ => ?_)
    split
    · exact jumpRel_fine ..
    · exact Dev.only_refl ..
  case jump =>
    rw [exec_jump, execJump] at ht
    exact framedStep_of_fine hs ht (fun _ => jump_fine ..)
  case wfe =>
    rw [exec_wfe, execWfe] at ht
    refine framedStep_of_fine hs ht (fun _ => ?_)
    split
    · exact Dev.only_refl ..
    · exact Dev.only_setCore ..
  case trap =>
    rw [exec_trap, execTrap] at ht
    exact framedStep_of_fine hs ht (fun _ => exc_fine ..)
  case brk =>
    rw [exec_brk, execBrk] at ht
    exact framedStep_of_fine hs ht (fun _ => exc_fine ..)
  case unassignedInstruction p =>
    have he : exec (.unassignedInstruction p) s = s.onDev (fun c dv => if wordIllegal (dv.fetchWord c p.val) then
        dv.instr c p.val (fun _ dv => .exc (dv.illegal c p.val) dv) else dv) := by rw [exec_unassignedInstruction, execUnassignedInstruction]
    rw [he] at ht
    obtain ⟨hc, hp, hd⟩ := s.onDev_next t _ ht
    refine ⟨hc, hp, ?_⟩
    rcases hd with hd | ⟨_, hd⟩
    · rw [hd]; exact Or.inl (Dev.only_refl _ _)
    · rw [hd]
      split
      · exact instr_framed _ _ _ _ hs (fun _ => exc_fine ..)
      · exact Or.inl (Dev.only_refl _ _)
  case setvl =>
    rw [exec_setvl, execSetvl] at ht
    exact framedStep_of_fine hs ht (fun _ => ite_exc_fine (retained_fine ..))
  case vsetsc =>
    rw [exec_vsetsc, execVsetsc] at ht
    exact framedStep_of_fine hs ht (fun _ => retained_fine ..)
  case vrdstate =>
    rw [exec_vrdstate, execVrdstate] at ht
    exact framedStep_of_fine hs ht (fun _ => retained_fine ..)
  case vwake =>
    rw [exec_vwake, execVwake] at ht
    exact framedStep_of_fine hs ht (fun _ => Dev.only_trans (startWake_only ..) (Dev.only_count ..))
  case svHash =>
    rw [exec_svHash, execSvHash] at ht
    exact framedStep_of_fine hs ht (fun _ => ite_exc_fine (shortVec_fine ..))
  case svAlu =>
    rw [exec_svAlu, execSvAlu] at ht
    exact framedStep_of_fine hs ht (fun _ => shortVec_fine ..)
  case svMultiply =>
    rw [exec_svMultiply, execSvMultiply] at ht
    exact framedStep_of_fine hs ht (fun _ => shortVec_fine ..)
  case svCompare =>
    rw [exec_svCompare, execSvCompare] at ht
    exact framedStep_of_fine hs ht (fun _ => shortVec_fine ..)
  case ccrr =>
    rw [exec_ccrr, execCcrr] at ht
    refine framedStep_of_fine hs ht (fun _ => ccrInstr_fine _ _ _ _ _ _ fun e he => ?_)
    obtain ⟨⟨v, e'⟩, hr, rfl⟩ := Option.map_eq_some_iff.mp he
    exact Dev.only_trans (ccrRead_only _ _ _ _ _ _ _ hr) (Dev.only_setCore ..)
  case ccrw =>
    rw [exec_ccrw, execCcrw] at ht
    refine framedStep_of_fine hs ht (fun _ => ccrInstr_fine _ _ _ _ _ _ fun e he => ?_)
    obtain ⟨k', _, rfl⟩ := Option.map_eq_some_iff.mp he
    exact Dev.only_setCore ..
  case ccrrc =>
    rw [exec_ccrrc, execCcrrc] at ht
    refine framedStep_of_fine hs ht (fun _ => ccrInstr_fine _ _ _ _ _ _ fun e he => ?_)
    obtain ⟨k', _, rfl⟩ := Option.map_eq_some_iff.mp he
    exact Dev.only_setCore ..
  case ccrwc =>
    rw [exec_ccrwc, execCcrwc] at ht
    refine framedStep_of_fine hs ht (fun _ => ccrInstr_fine _ _ _ _ _ _ fun e he => ?_)
    obtain ⟨k', _, rfl⟩ := Option.map_eq_some_iff.mp he
    exact Dev.only_setCore ..
  case eret =>
    rw [exec_eret, execEret] at ht
    exact framedStep_of_fine hs ht (fun _ => eret_fine ..)
  case vectorAlu =>
    rw [exec_vectorAlu, execVectorAlu] at ht
    exact framedStep_of_fine hs ht (fun _ => elemInstr_fine ..)
  case vectorWidenMultiply =>
    rw [exec_vectorWidenMultiply, execVectorWidenMultiply] at ht
    exact framedStep_of_fine hs ht (fun _ => elemInstr_fine ..)
  case vhcrc =>
    rw [exec_vhcrc, execVhcrc] at ht
    exact framedStep_of_fine hs ht (fun _ => elemInstr_fine ..)
  case vhmul =>
    rw [exec_vhmul, execVhmul] at ht
    exact framedStep_of_fine hs ht (fun _ => elemInstr_fine ..)
  case vdrescale =>
    rw [exec_vdrescale, execVdrescale] at ht
    exact framedStep_of_fine hs ht (fun _ => elemInstr_fine ..)
  case vdfromi =>
    rw [exec_vdfromi, execVdfromi] at ht
    exact framedStep_of_fine hs ht (fun _ => elemInstr_fine ..)
  case vlacc =>
    rw [exec_vlacc, execVlacc] at ht
    exact framedStep_of_fine hs ht (fun _ => elemInstr_fine ..)
  case vlacci =>
    rw [exec_vlacci, execVlacci] at ht
    exact framedStep_of_fine hs ht (fun _ => elemInstr_fine ..)
  case vladd =>
    rw [exec_vladd, execVladd] at ht
    exact framedStep_of_fine hs ht (fun _ => elemInstr_fine ..)
  case vdot4b =>
    rw [exec_vdot4b, execVdot4b] at ht
    exact framedStep_of_fine hs ht (fun _ => dotInstr_fine ..)
  case vdot2h =>
    rw [exec_vdot2h, execVdot2h] at ht
    exact framedStep_of_fine hs ht (fun _ => dotInstr_fine ..)
  case vdot2w =>
    rw [exec_vdot2w, execVdot2w] at ht
    exact framedStep_of_fine hs ht (fun _ => dotInstr_fine ..)
  case vdadd =>
    rw [exec_vdadd, execVdadd] at ht
    exact framedStep_of_fine hs ht (fun _ => decInstr_fine ..)
  case vdsub =>
    rw [exec_vdsub, execVdsub] at ht
    exact framedStep_of_fine hs ht (fun _ => decInstr_fine ..)
  case vdmul =>
    rw [exec_vdmul, execVdmul] at ht
    exact framedStep_of_fine hs ht (fun _ => decInstr_fine ..)
  case vddiv =>
    rw [exec_vddiv, execVddiv] at ht
    exact framedStep_of_fine hs ht (fun _ => decInstr_fine ..)
  case vdmin =>
    rw [exec_vdmin, execVdmin] at ht
    exact framedStep_of_fine hs ht (fun _ => decInstr_fine ..)
  case vdmax =>
    rw [exec_vdmax, execVdmax] at ht
    exact framedStep_of_fine hs ht (fun _ => decInstr_fine ..)
  case vectorCompare =>
    rw [exec_vectorCompare, execVectorCompare] at ht
    exact framedStep_of_fine hs ht (fun _ => maskBody_fine ..)
  case vdcmp =>
    rw [exec_vdcmp, execVdcmp] at ht
    exact framedStep_of_fine hs ht (fun _ => maskBody_fine ..)
  case vlnarrow =>
    rw [exec_vlnarrow, execVlnarrow] at ht
    exact framedStep_of_fine hs ht (fun _ => longVec_fine _ _ _ _ _ _ _ _ (elemBody_only ..))
  case vectorReduction =>
    rw [exec_vectorReduction, execVectorReduction] at ht
    refine framedStep_of_fine hs ht (fun _ => wholeInstr_fine _ _ _ _ _ _ fun e he => ?_)
    dsimp only at he
    split at he
    · cases he
    · cases he; exact Dev.only_setCore ..
    · cases he; exact Dev.only_trans (Dev.only_draw ..) (Dev.only_setCore ..)
  case vectorPermute =>
    rw [exec_vectorPermute, execVectorPermute] at ht
    refine framedStep_of_fine hs ht (fun _ => wholeInstr_fine _ _ _ _ _ _ fun e he => ?_)
    cases he
    refine Dev.only_trans (foldl_draw _ _ (fun a i => ?_) _ ([], s.dev)) (Dev.only_setCore ..)
    split
    · exact Dev.only_refl ..
    · split
      · exact Dev.only_refl ..
      · exact Dev.only_draw ..
  case vlred =>
    rw [exec_vlred, execVlred] at ht
    refine framedStep_of_fine hs ht (fun _ => wholeInstr_fine _ _ _ _ _ _ fun e he => ?_)
    dsimp only at he
    split at he
    · cases he; exact Dev.only_setCore ..
    · cases he
  case vcpop =>
    rw [exec_vcpop, execVcpop] at ht
    exact framedStep_of_fine hs ht (fun _ => wholeInstr_fine _ _ _ _ _ _ fun _ he => by cases he; exact Dev.only_setCore ..)
  case vcompress =>
    rw [exec_vcompress, execVcompress] at ht
    exact framedStep_of_fine hs ht (fun _ => wholeInstr_fine _ _ _ _ _ _ fun _ he => by cases he; exact Dev.only_setCore ..)
  case vexpand =>
    rw [exec_vexpand, execVexpand] at ht
    exact framedStep_of_fine hs ht (fun _ => wholeInstr_fine _ _ _ _ _ _ fun _ he => by cases he; exact Dev.only_setCore ..)
  case vcx =>
    rw [exec_vcx, execVcx] at ht
    exact framedStep_of_fine hs ht (fun _ => wholeInstr_fine _ _ _ _ _ _ fun _ he => by cases he; exact Dev.only_setCore ..)
  case vectorMove =>
    rw [exec_vectorMove, execVectorMove] at ht
    exact framedStep_of_fine hs ht (fun _ => wholeInstr_fine _ _ _ _ _ _ fun _ he => by cases he; exact Dev.only_setCore ..)

/-- Settles O45: each body is `Fine` (`registerOnly_framed`), and an instruction adds only its exception. -/
theorem galleryFrame : Obligations.GalleryFrame := by
  unfold Obligations.GalleryFrame
  intro i p s t hi hs ht
  exact registerOnly_framed hi hs ht

end Sys2Proof.Machine
end

section
/-!
PROOFS. The host queues, the storage commands and the admin commands that no engine serves complete (O5 to O7).
-/

namespace Sys2Proof.Machine

/-- An admin command that is taken up does what its engine's function says. -/
theorem onDev_admin {s : State} {ref : CmdRef} {op : Nat} {x : Cmd} {f : CoreSt → Cmd → Dev → Dev} (h : s.adminTakes ref op x) :
    s.onDev (fun c d => d.admin c ref op (f c)) = .next (s.withDev (f s.core x (s.started x))) := by
  rw [s.onDev_of_on _ h.1, State.admin_of_takes s ref op x (f s.core) h]

/-! ### Doorbells, enabling and the fetch of submission entries -/

theorem sqDoorbell_eq {d : Dev} {i q v : Nat} {p : Pair} (hp : d.pair i q = some p) (hs : p.stopped = false) (hv : v < p.size) :
    d.sqDoorbell i q v = d.setPair i q { p with sqTail := v } := by
  simp only [Dev.sqDoorbell, hp, hs, Bool.false_eq_true, if_false]
  rw [if_neg (by omega)]

theorem cqDoorbell_eq {d : Dev} {i q v : Nat} {p : Pair} (hp : d.pair i q = some p) (hs : p.stopped = false) (hv : v < p.size)
    (hr : (v + p.size - p.cqHead) % p.size ≤ p.posted) :
    d.cqDoorbell i q v = d.setPair i q { p with cqHead := v, posted := p.posted - (v + p.size - p.cqHead) % p.size } := by
  simp only [Dev.cqDoorbell, hp, hs, Bool.false_eq_true, if_false]
  rw [if_neg (by omega)]

theorem startQueues_eq {d : Dev} {i : Nat} (h1 : 2 ≤ d.getF (R.xqWAqa i) 12 0) (h2 : d.getF (R.xqWAqa i) 12 0 ≤ 4096) :
    d.startQueues i = d.setPair i 0 { size := d.getF (R.xqWAqa i) 12 0, sq := (d.reg (R.xqWAsq i)).toNat, cq := (d.reg (R.xqWAcq i)).toNat, ien := true } :=
  if_neg (by omega)

/-- Enabling a window's queues makes its admin pair, as its registers say. -/
theorem enableQueues_eq {d : Dev} {i : Nat} (hf : d.flag (R.xqWCc i) 0 = false) (hr : i ∉ d.xq.resetting)
    (h1 : 2 ≤ d.getF (R.xqWAqa i) 12 0) (h2 : d.getF (R.xqWAqa i) 12 0 ≤ 4096) :
    d.enableQueues i = (d.setFlag (R.xqWCc i) 0 true).setPair i 0
      { size := d.getF (R.xqWAqa i) 12 0, sq := (d.reg (R.xqWAsq i)).toNat, cq := (d.reg (R.xqWAcq i)).toNat, ien := true } := by
  have ha : (d.setFlag (R.xqWCc i) 0 true).getF (R.xqWAqa i) 12 0 = d.getF (R.xqWAqa i) 12 0 :=
    Dev.getF_setReg_ne _ _ _ _ _ _ (by simp [R.xqWAqa, R.xqWCc])
  have hq : (d.setFlag (R.xqWCc i) 0 true).reg (R.xqWAsq i) = d.reg (R.xqWAsq i) := Dev.reg_setFlag_ne _ _ _ _ _ (by simp [R.xqWAsq, R.xqWCc])
  have hc : (d.setFlag (R.xqWCc i) 0 true).reg (R.xqWAcq i) = d.reg (R.xqWAcq i) := Dev.reg_setFlag_ne _ _ _ _ _ (by simp [R.xqWAcq, R.xqWCc])
  unfold Dev.enableQueues
  dsimp only
  rw [if_neg (by simp [hf]), if_neg (by simpa using hr), startQueues_eq (by rw [ha]; exact h1) (by rw [ha]; exact h2), ha, hq, hc]

/-- Settles O5. -/
theorem queueFetchComplete : Obligations.QueueFetchComplete := by
  unfold Obligations.QueueFetchComplete
  refine ⟨?sq, ?cq, ?enableHeld, ?enable, ?ready, ?reset, ?turn, ?fetched, ?busy⟩
  case sq =>
    intro s i q v p hon hw hp hs hv
    rw [exec_sqDoorbell, execSqDoorbell, s.onDev_of_on _ hon, if_pos hw, sqDoorbell_eq hp hs hv]
  case cq =>
    intro s i q v p hon hw hp hs hv hr
    rw [exec_cqDoorbell, execCqDoorbell, s.onDev_of_on _ hon, if_pos hw, cqDoorbell_eq hp hs hv hr]
  case enableHeld =>
    intro s i hon hw hf hr
    rw [exec_xqEnable, execXqEnable, s.onDev_of_on _ hon, if_pos hw]
    simp [Dev.enableQueues, hf, hr]
  case enable =>
    intro s i hon hw hf hr h1 h2
    exact ⟨_, _, by rw [exec_xqEnable, execXqEnable, s.onDev_of_on _ hon, if_pos hw, enableQueues_eq hf hr h1 h2],
      Dev.pair_setPair_self .., rfl, rfl, rfl, rfl, rfl, rfl, rfl, rfl, rfl⟩
  case ready =>
    intro s i hm hf h2 hr hp
    rw [exec_xqReady, execXqReady, s.onDev_of_on _ (by rcases hm with hm | hm <;> simp [hm])]
    simp only [hf, h2, hp]
    rw [if_pos (by simpa [hr] using hm)]
  case reset =>
    intro s i hon hw hf
    rw [exec_controllerReset, execControllerReset, s.onDev_of_on _ hon, if_pos hw]
  case turn =>
    intro s p i q qs hon ho ht hl hi hq
    rw [exec_fetchTurn, execFetchTurn]
    refine onDev_ex hon ⟨rfl, ?_⟩
    simp [ho, ht, hl, hi, hq, port_setPort_self]
  case fetched =>
    intro s p i q n hon ht
    rw [exec_entryFetched, execEntryFetched, s.onDev_of_on _ hon]
    simp only [ht]
  case busy =>
    intro s ref w x hon hc hs ho
    rw [exec_adminBusyTimeout, execAdminBusyTimeout, s.onDev_of_on _ hon]
    simp [hc, hs, ho]

/-! ### Storage commands -/

/-- Settles O6. -/
theorem storageComplete : Obligations.StorageComplete := by
  unfold Obligations.StorageComplete
  refine ⟨?admission, ?read, ?write, ?writeChecks, ?flush, ?deallocate, ?insert, ?readData, ?drain⟩
  case admission =>
    intro s ref x hon hx hcid
    rw [exec_ouAdmit, execOuAdmit]
    refine onDev_ex hon ?_
    simp only [hx, hcid, if_true, State.withDev_dev, ouFlags_xq]
    rw [ite_xq _ _ (Dev.count_xq ..)]
    rfl
  case read =>
    intro s ref x o g b hon hx ho h1 h2 hck
    rw [exec_read, execRead, s.onDev_of_on _ hon]
    simp [hx, ho, h1, h2, Dev.afterCheck, hck]
  case write =>
    intro s ref x o e bs hon hx ho h1 h2 h3 h4 hr
    rw [exec_write, execWrite, s.onDev_of_on _ hon]
    simp [hx, ho, h1, h2, h3, h4, hr]
  case writeChecks =>
    intro s ref x o y e g b bs hon hx ho h1 h2 h3 hck hy hw hr
    subst hy
    rw [exec_write, execWrite, s.onDev_of_on _ hon]
    simp only [hx, ho]
    rw [if_neg (by simp [h1, h2])]
    simp only [h3, Bool.false_eq_true, if_false, Dev.afterCheck, hck, hw, hr]
  case flush =>
    intro s ref o hon ho h1 h2 hv
    rw [exec_flush, execFlush, s.onDev_of_on _ hon]
    have hck : (if o.volume = 0xFFFF then none else s.dev.volumeCheck o.inst o.volume 0 0) = none := by
      split
      · rfl
      · exact hv.resolve_left (by assumption)
    simp only [ho, h1, h2, hck]
    rfl
  case deallocate =>
    intro s ref o hon ho h1 h2 h3 hv hf
    rw [exec_deallocate, execDeallocate, s.onDev_of_on _ hon]
    simp [ho, h1, h2, h3, hv, hf]
  case insert =>
    intro s ref o bs hon ho hd hw hi hw1 hw2 hh hb hf
    rw [exec_writeInsert, execWriteInsert, s.onDev_of_on _ hon]
    simp only [ho, hd, hw, hi, hw1, hw2, hh, hf]
    rw [if_neg (by simpa using hb)]
    rfl
  case readData =>
    intro s ref bad o d e bs hon ho h1 h2 hw ht hs
    rw [exec_readDataTaken, execReadDataTaken, s.onDev_of_on _ hon]
    simp [ho, h1, h2, hw, ht, hs]
  case drain =>
    intro s bad e x hon hh hv hf hs
    rw [exec_drainStep, execDrainStep, s.onDev_of_on _ hon]
    obtain ⟨es, hes⟩ := List.head?_eq_some_iff.mp hh
    rw [hes, List.find?_cons_of_pos]
    simp only [hv, hf]
    simp only [List.mem_cons, List.not_mem_nil, or_false] at hs
    rcases hs with hs | hs | hs <;> simp [hs]

/-! ### Admin commands -/

/-- Settles O7. -/
theorem adminComplete : Obligations.AdminComplete := by
  unfold Obligations.AdminComplete
  refine ⟨?create, ?delete, fun s ref x h => ⟨?device, ?inst⟩, ?log, ?counters, ?trace⟩
  case create =>
    intro s ref x h h1 h2 hp h3 h4 h5 h6 h7
    refine ⟨_, ?_, ?_, ?_, ?_, ?_, ?_, ?_, ?_, ?_, ?_, (by
      rw [exec_createQueue, execCreateQueue, onDev_admin h, Dev.createQueue]
      dsimp only
      rw [if_neg (by simp [hp]; omega)])⟩ <;> rfl
  case delete =>
    intro s ref x p h h1 hp hd
    rw [exec_deleteQueue, execDeleteQueue, onDev_admin h, Dev.deleteQueue]
    simp only [hp]
    rw [if_neg (by simp [h1, hd])] <;> rfl
  case device =>
    intro h0
    rw [exec_identify, execIdentify, onDev_admin h]
    simp [Dev.identify, h0]
  case inst =>
    intro h1
    rw [exec_identify, execIdentify, onDev_admin h]
    simp [Dev.identify, h1]
  case log =>
    intro s ref x n h h1 h2 hn
    subst hn
    rw [exec_logRead, execLogRead, onDev_admin h, Dev.logRead]
    dsimp only
    rw [if_neg (by omega)]
  case counters =>
    intro s ref x h h1 h2 h3 h4
    rw [exec_counterRead, execCounterRead, onDev_admin h, Dev.counterRead]
    rw [if_neg]
    have hall : (List.range (le x.area 0xC 2)).all (fun k => isCounter (le x.area 8 4 + 8 * k)) = true := by
      simpa using h4
    simp [hall, h1, h3]
    omega
  case trace =>
    intro s ref x h h0
    rw [exec_traceConfig, execTraceConfig, onDev_admin (f := fun c x d => _) h]
    rw [if_neg (by simp [h0])]

end Sys2Proof.Machine
end

section
/-!
PROOFS. The pipeline commands, and the Docent's and the galleries' commands that no instruction makes, complete (O8, O9).
-/

namespace Sys2Proof.Machine

/-! ### Pipeline commands -/

theorem commitLoad_eq {d : Dev} {c : CoreSt} {x : Cmd} {slot length a : Nat} {i : Image}
    (hs : d.atriumUsed x.inst + i.imageBytes ≤ 1024 * (d.inst x.inst).share.atriumKib) (ha : d.atriumPlace i.imageBytes = some a) :
    d.commitLoad c x slot length i = ({ d with
      mem := d.mem.setN (Key.atrium a) (i.take i.imageBytes)
      doc := { d.doc with programs := put d.doc.programs (64 * x.inst + slot) { addr := a, bytes := i.imageBytes } } }).finish c x i.imageBytes
        (if i.imageBytes < length then 0x0001 else 0) := by
  unfold Dev.commitLoad
  dsimp only
  rw [if_neg (by omega), ha]

/-- A load whose header and image pass their checks is committed. -/
theorem pipelineLoad_commits {d d1 d2 : Dev} {c : CoreSt} {x : Cmd} {h i : Bytes} (h1 : le x.area 0xC 1 ≤ 63)
    (h2 : d.slotBusy x.inst (le x.area 0xC 1) = false) (h3 : 128 ≤ le x.area 8 4) (h4 : d.docRead c x 0 (le x.area 0 8) 128 = (d1, .ok h))
    (h5 : Image.imageBytes h ≤ le x.area 8 4) (h6 : Image.headerOk h = true)
    (h7 : d1.docRead c x 0 (le x.area 0 8) (Image.imageBytes h) = (d2, .ok i)) (h8 : Image.check i (le x.area 8 4) = none) :
    d.pipelineLoad c x = d2.commitLoad c x (le x.area 0xC 1) (le x.area 8 4) i := by
  unfold Dev.pipelineLoad
  dsimp only
  rw [if_neg (by omega), if_neg (by simp [h2]), if_neg (by omega), if_neg (by omega), h4]
  dsimp only
  rw [if_neg (by simp [h6]; omega), h7]
  dsimp only
  rw [h8]

/-- A run whose operands pass their checks is accepted. -/
theorem pipelineRun_accepts {d e : Dev} {c : CoreSt} {x : Cmd} {i : Image} {params : Bytes} (h1 : le x.area 0xC 1 ≤ 63)
    (h2 : d.image x.inst (le x.area 0xC 1) = some i) (h3 : ∀ r ∈ d.doc.runs, r.2.inst = x.inst → r.2.runId ≠ le x.area 0xE 2)
    (h4 : le x.area 0xD 1 < 8 ∨ le x.area 0xD 1 = 0xFF) (h5 : i.paramBytes ≤ le x.area 8 4)
    (h6 : (d.live.filter (fun (e : Nat × Run) => e.2.inst == x.inst)).length < Config.instRuns) (h7 : d.freeHandle.isSome = true)
    (h8 : d.docRead c x (le x.area 0xE 2) (le x.area 0 8) i.paramBytes = (e, .ok params))
    (h9 : e.boundFault (docWho (le x.area 0xE 2)) x.inst i params = none) (h10 : i.runOk params = true) (h11 : e.runShareOk x.inst i = true) :
    d.pipelineRun c x = e.acceptRun c x i params := by
  have hany : d.doc.runs.any (fun (r : Nat × Run) => r.2.inst == x.inst && r.2.runId == le x.area 0xE 2) = false := by
    rw [List.any_eq_false]
    intro r hr
    simpa using h3 r hr
  unfold Dev.pipelineRun
  dsimp only
  rw [if_pos h1, h2]
  dsimp only
  rw [if_neg (by simp [hany]), if_neg (by omega), if_neg (by omega), if_neg, h8]
  · simp only [h9, h10, h11, Bool.not_true, Bool.false_eq_true, if_false]
  · obtain ⟨n, hn⟩ := Option.isSome_iff_exists.mp h7
    simp [hn, h6]

/-- The run that an accepted command makes. -/
theorem acceptRun_eq {d : Dev} (c : CoreSt) (x : Cmd) {i : Image} (params : Bytes) {h first : Nat} {places : List (Nat × Nat × Nat)}
    (hh : d.freeHandle = some h) (hf : d.contextPlace i.contexts = some first)
    (hp : d.placeBuffers i (i.scratches ++ i.results) [] = some places) :
    ∃ r : Run, r.inst = x.inst ∧ r.runId = le x.area 0xE 2 ∧ r.slot = le x.area 0xC 1 ∧
      r.prio = (if le x.area 0xD 1 = 0xFF then i.defaultPriority else le x.area 0xD 1) ∧ r.cmd = some (x.pair, x.cid) ∧ r.params = params ∧
      r.first = first ∧ r.contexts = i.contexts ∧ r.order = d.doc.accepted + 1 ∧
      r.scratch = places.filter (fun (p : Nat × Nat × Nat) => i.scratches.contains p.1) ∧
      r.results = places.filter (fun (p : Nat × Nat × Nat) => i.results.contains p.1) ∧
      d.acceptRun c x i params = (({ d.startCmd x.inst x.pair x.cid with
        doc := { d.doc with accepted := d.doc.accepted + 1 } }).setRun h r).settleRun c h := by
  unfold Dev.acceptRun
  rw [hh, hf, hp]
  exact ⟨_, rfl, rfl, rfl, rfl, rfl, rfl, rfl, rfl, rfl, rfl, rfl, rfl⟩

/-- Settles O8. -/
theorem pipelineCommandsComplete : Obligations.PipelineCommandsComplete := by
  unfold Obligations.PipelineCommandsComplete
  refine ⟨?unload, ?load, ?run, fun s ref x hon ht => ⟨?cancel, ?cancelEnded⟩, ?result, ?tcancel⟩
  case unload =>
    intro s ref x hon ht h1 h2 h3
    rw [exec_pipelineLoad, execPipelineLoad, s.onDev_of_on _ hon, ht]
    dsimp only
    unfold Dev.pipelineLoad
    dsimp only
    rw [if_neg (by omega), if_neg (by simp [h2]), if_pos h3]
  case load =>
    intro s ref x d d' h i a hon ht h1 h2 h3 h4 h5 h6 h7 h8 h9 h10
    rw [exec_pipelineLoad, execPipelineLoad, s.onDev_of_on _ hon, ht]
    dsimp only
    rw [pipelineLoad_commits h1 h2 h3 h4 h5 h6 h7 h8, commitLoad_eq h9 h10]
  case run =>
    intro s ref x i d params h first places hon ht h1 h2 h3 h4 h5 h6 h7 h8 h9 h10 h11 h12 h13 h14
    obtain ⟨r, e1, e2, e3, e4, e5, e6, e7, e8, e9, e10, e11, hacc⟩ := acceptRun_eq s.core x params h12 h13 h14
    refine ⟨r, e1, e2, e3, e4, e5, e6, e7, e8, e9, e10, e11, ?_⟩
    rw [exec_pipelineRun, execPipelineRun, s.onDev_of_on _ hon, ht]
    dsimp only
    rw [pipelineRun_accepts h1 h2 h3 h4 h5 h6 h7 h8 h9 h10 h11, hacc]
  case cancel =>
    intro h hl
    rw [exec_pipelineCancel, execPipelineCancel, s.onDev_of_on _ hon, ht]
    simp only [Dev.pipelineCancel, hl]
    rfl
  case cancelEnded =>
    intro hl
    rw [exec_pipelineCancel, execPipelineCancel, s.onDev_of_on _ hon, ht]
    simp only [Dev.pipelineCancel, hl]
  case result =>
    intro s ref x key n r d bs e f hon ht hr hb hn hd he hbs hw
    subst hn hd he
    rw [exec_resultRead, execResultRead, s.onDev_of_on _ hon, ht]
    dsimp only
    unfold Dev.resultRead
    dsimp only
    rw [hr]
    dsimp only
    rw [if_neg (by simpa using hb), hbs]
    dsimp only
    rw [hw]
  case tcancel =>
    intro s src v hon hm
    rw [exec_docTcancel, execDocTcancel, s.onDev_of_on _ hon, if_pos hm]
    rfl

/-! ### The Docent and the galleries -/

/-- The end of a task whose results are written: its completion is offered to the Docent. -/
theorem endTask_eq {d f : Dev} {c : CoreSt} {e : TaskEnv} {t : Task} {x : TaskEnd} {bad : Option Nat} (g key : Nat)
    (hp : d.putResults c e.who e.run key e.r x.written = (f, bad)) (ha : f.awaits e.who = false) :
    ∃ y : Completion, y.gal = g ∧ y.run = e.run ∧ y.task = key ∧ y.status = (if 0x100 ≤ x.status then x.status else bad.getD x.status) ∧
      y.rows = x.rows ∧ y.op = x.op ∧ y.check = (if t.ledger then e.i.checkRecord t.template y.status x.written else []) ∧
      d.endTask c e g key t x = some (f.offer y) := by
  unfold Dev.endTask
  rw [hp]
  simp only [ha, Bool.false_eq_true, if_false]
  exact ⟨_, rfl, rfl, rfl, rfl, rfl, rfl, rfl, rfl⟩

/-- What TASKDONE ends a task with, and the state it ends it in: one line per way that O9 states. -/
theorem taskDone_ends {d d' : Dev} {c : CoreSt} {p g key : Nat} {v : Word} {w : TaskResult} {t : Task} {e : TaskEnv} {x : TaskEnd}
    (he : d.taskEnv p = some (g, key, t, e)) (hc : d.completing e.run key = false)
    (hx : ((0x100 ≤ fld v 15 0 ∨ e.i.customGroup t.template = true) ∧ d' = d ∧
        x = { status := if 0x100 ≤ fld v 15 0 then fld v 15 0 else e.mustFail.getD (fld v 15 0), op := w.op.toNat, rows := w.rows, written := w.written }) ∨
      (fld v 15 0 < 0x100 ∧ e.i.customGroup t.template = false ∧ ∃ u st, e.work = .error u ∧ e.mustFail = some st ∧ d' = d ∧
        x = { status := st, op := if u.status = 0 then e.partitionOp else u.op }) ∨
      (fld v 15 0 < 0x100 ∧ e.i.customGroup t.template = false ∧ ∃ u, e.work = .error u ∧ e.mustFail = none ∧ u.status ≠ 0 ∧ d' = d ∧
        x = { status := u.status, op := u.op }) ∨
      (fld v 15 0 < 0x100 ∧ e.i.customGroup t.template = false ∧ ∃ u st, e.work = .ok u ∧ e.mustFail = some st ∧ d' = d ∧
        x = { status := st, op := e.wants u }) ∨
      (fld v 15 0 < 0x100 ∧ e.i.customGroup t.template = false ∧ ∃ u q, e.work = .ok u ∧ e.mustFail = none ∧ e.stagedAll u = true ∧
        d.takeSpill p e.r.inst u.need = some q ∧ d' = (q.updRun e.run (fun r => { r with typing := r.typing.add u.ty })).draw.2 ∧
        x = e.finished (fld v 15 0) u)) :
    d.taskDone c p v w = (d'.endTask c e g key t x).getD d := by
  unfold Dev.taskDone
  rw [he]
  dsimp only
  rw [if_neg (by simp [hc])]
  have later (h1 : fld v 15 0 < 0x100) (h2 : e.i.customGroup t.template = false) : ¬ (0x100 ≤ fld v 15 0 ∨ e.i.customGroup t.template = true) := by
    simp [h2]; omega
  rcases hx with ⟨h1, rfl, rfl⟩ | ⟨h1, h2, u, st, hw, hm, rfl, rfl⟩ | ⟨h1, h2, u, hw, hm, hs, rfl, rfl⟩ |
    ⟨h1, h2, u, st, hw, hm, rfl, rfl⟩ | ⟨h1, h2, u, q, hw, hm, hs, hq, rfl, rfl⟩
  · rw [if_pos h1]
  · rw [if_neg (later h1 h2), hw, hm]
  · rw [if_neg (later h1 h2), hw, hm]
    dsimp only
    rw [if_neg hs]
  · rw [if_neg (later h1 h2), hw, hm]
  · rw [if_neg (later h1 h2), hw, hm]
    dsimp only
    rw [if_neg (by simp [hs]), hq]

theorem core_of_evt (d : Dev) (e : EvtSt) (p : Nat) : ({ d with evt := e } : Dev).core p = d.core p := rfl

theorem core_of_doc (d : Dev) (x : DocSt) (p : Nat) : ({ d with doc := x } : Dev).core p = d.core p := rfl

/-- A gallery that is put to sleep. -/
theorem sleepCore_eq {d : Dev} {c : CoreSt} {p g : Nat} (hg : d.logicalOf p = some g) :
    ((d.sleepCore c p).core p).st = .asleep ∧ ((d.sleepCore c p).core p).lvu = .off ∧ find (d.sleepCore c p).evt.gal g = some .asleep := by
  have hon : (d.countOn c p).logicalOf p = some g := by
    unfold Dev.countOn
    dsimp only
    split <;> simp [hg]
  unfold Dev.sleepCore
  simp only [Dev.logicalOf_count, Dev.logicalOf_setCore, hon, core_of_evt, Dev.core_count, Dev.core_setCore_self, find_put_self, and_self]

/-- What the notice of a task's cancellation does to the gallery that runs it, by the gallery's state. -/
theorem taskCancel_eq {s : State} {p : Fin 136} {g : Nat} {d : Dev} {k : Gallery} (hon : s.on) (hg : (s.dev.logicalOf p.val).getD 0xFF = g)
    (hm : g ∈ s.dev.doc.tcancels) (hd : d = { s.dev with doc := { s.dev.doc with tcancels := s.dev.doc.tcancels.erase g } })
    (hk : s.dev.core p.val = k) : exec (.taskCancel p) s = .next (s.withDev (match k.st with
      | .done => d
      | .stopped => d
      | .asleep => d.setCore p.val { k with st := .waking, cancelPending := true }
      | .waking => d.setCore p.val { k with cancelPending := true }
      | _ => if k.shadow then d.setCore p.val { k with st := .run, cancelPending := true }
        else (d.setCore p.val { k with st := .run, cancelPending := true }).takeAsync s.core p.val Cause.taskCancel)) := by
  subst hg hd hk
  rw [exec_taskCancel, execTaskCancel, s.onDev_of_on _ hon]
  dsimp only
  rw [if_neg (by simpa using hm)]
  rfl

/-- Settles O9. -/
theorem docentComplete : Obligations.DocentComplete := by
  unfold Obligations.DocentComplete
  refine ⟨?decision, ?taskdone, ?cancelTimeout, ?epoch, ?verdict, fun s p g d k hon hg hm hd hk => ?cancel,
    ?event, ?message, ?wakeDone, ?park, ?posted⟩
  case decision =>
    intro s hon hf
    rw [exec_docentDecision, execDocentDecision, s.onDev_of_on _ hon, if_pos hf]
    rfl
  case taskdone =>
    intro s p v w g key t e x d f bad hon h1 h2 h3 h4 h5 h6 h7 h8
    obtain ⟨y, e1, e2, e3, e4, e5, e6, e7, hy⟩ := endTask_eq (t := t) g key h7 h8
    refine ⟨y, e1, e2, e3, e4, e5, e6, e7, ?_⟩
    rw [exec_taskdone, execTaskdone, s.onDev_of_on _ hon]
    dsimp only
    rw [if_pos (by simp [h1, h2, h3]), taskDone_ends h4 h5 h6, hy]
    rfl
  case cancelTimeout =>
    intro s g h key r t hon hg hr ht hc hn
    refine ⟨_, rfl, ?_⟩
    rw [exec_cancelTimeout, execCancelTimeout, s.onDev_of_on _ hon]
    simp [Dev.cancelTimeout, hg, hr, ht, hc, hn]
  case epoch =>
    intro s hon
    rw [exec_shareEpoch, execShareEpoch, s.onDev_of_on _ hon]
    rfl
  case verdict =>
    intro s run task r i v d hon hr hi hn hc hl hv hlv hd
    have hany : s.dev.doc.verdicts.any (fun (v : Nat × Nat × Verdict) => v.1 == run.val && v.2.1 == task.toNat) = false := by
      rw [List.any_eq_false]
      intro x hx
      simpa using hv x hx
    subst hd
    rw [exec_ledgerVerdict, execLedgerVerdict, s.onDev_of_on _ hon]
    unfold Dev.ledgerVerdict
    rw [hr, hi]
    dsimp only
    rw [if_neg (by simp [hc, hl, hany]; omega), hlv] <;> rfl
  case cancel =>
    have cancel := taskCancel_eq hon hg hm hd hk
    refine ⟨?asleep, ?waking, ?shadow, ?taken⟩
    case asleep =>
      intro hs
      rw [cancel, hs]
    case waking =>
      intro hs
      rw [cancel, hs]
    case shadow =>
      intro hs hsh
      rw [cancel]
      rcases hs with hs | hs <;> simp only [hs, hsh, if_true]
    case taken =>
      intro hs hsh hv
      have htake : ((d.setCore p.val { k with st := .run, cancelPending := true }).takeAsync s.core p.val Cause.taskCancel) =
          (d.setCore p.val (({ k with st := .run, cancelPending := false } : Gallery).enter (asyncExc Cause.taskCancel))).count (R.galCntExc p.val) := by
        unfold Dev.takeAsync
        simp only [if_true, Dev.core_setCore_self, Dev.setCore_setCore]
        rw [Dev.takeExc_enter _ _ _ _ (by simpa using hsh) (by simpa using show vbccFault k.vbcc (asyncExc Cause.taskCancel).cause = none from hv)]
        simp
      rw [cancel]
      rcases hs with hs | hs <;>
      · rw [hs]
        dsimp only
        rw [if_neg (by simp [hsh]), htake]
  case event =>
    intro s p hon he ha hv
    have hsh : (s.dev.core p.val).shadow = false := by
      cases h : (s.dev.core p.val).shadow
      · rfl
      · simp [Gallery.asyncDue, h] at ha
    rw [exec_takeEvent, execTakeEvent, s.onDev_of_on _ hon]
    rw [if_pos (by simp [he, ha]), Dev.takeAsync]
    simp only [show ¬ Cause.event = Cause.taskCancel by decide, if_false]
    rw [Dev.takeExc_enter _ _ _ _ hsh hv]
  case message =>
    intro s p g bs e d hon hg hm hn he hd
    rw [exec_dispatchMessage, execDispatchMessage, s.onDev_of_on _ hon]
    simp only [hg, hm]
    rw [if_neg (by simpa using hn), ← he, ← hd] <;> rfl
  case wakeDone =>
    intro s p g d hon hs hg hd
    subst hd
    rw [exec_galleryWakeDone, execGalleryWakeDone, s.onDev_of_on _ hon]
    simp only [hs, hg, if_true]
  case park =>
    intro s p g hon hg hs ht hp hw
    obtain ⟨h1, h2, h3⟩ := sleepCore_eq (d := s.dev) (c := s.core) hg
    refine ⟨s.withDev (s.dev.sleepCore s.core p.val), ?_, h1, h2, ?_, h3⟩
    · rw [exec_galleryPark, execGalleryPark, s.onDev_of_on _ hon]
      simp only [hg]
      rw [if_pos ⟨hs, by simp [ht], hp, hw⟩]
    · rw [State.withDev_dev, Dev.viewGallery]
      rw [if_neg (by simp [R.galFreq, R.galMap]), if_pos rfl, h1, if_pos (Or.inl rfl), if_pos rfl]
      decide
  case posted =>
    intro s p addr reason hon
    rw [exec_postedWriteError, execPostedWriteError, s.onDev_of_on _ hon]
    rfl

end Sys2Proof.Machine
end

section
/-!
PROOFS. The stack filters and the Exchange complete (O20, O21).
-/

namespace Sys2Proof.Machine

/-! ### Stack filters -/

/-- A filter's turn serves the descriptor at the front of its flight. -/
theorem sflTurn_eq {s d : Dev} {c : CoreSt} {f : Nat} {x : SflDesc} {xs rest : List SflDesc} (hf : s.filter f = { flight := x :: rest, waiting := xs })
    (hd : d = s.setFilter f { flight := rest, waiting := xs }) : s.sflTurn c f = (d.sflServe c f x).1.sflBack f (d.sflServe c f x).2 := by
  subst hd
  simp only [Dev.sflTurn, hf]

/-- The turn of a descriptor that runs, with no bytes lost or held back: its next row group is evaluated. -/
theorem sflServe_running {d e : Dev} {c : CoreSt} {f : Nat} {x y : SflDesc} {r : RgRes} {maps bl : List Nat} (hl : d.lostBytes (x.who f) = 0)
    (ha : d.awaits (x.who f) = false) (h1 : x.ended = none) (h2 : x.cur = none) (hr : d.sflEval f x (x.rowGroup x.next) = (r, maps, bl))
    (he : e = (d.sflRequests c f x (maps.map (fun a => (a, 8)) ++ bl.map (fun a => (a, 4096)))).count (R.sflCntRead f) (4096 * bl.length))
    (hy : y = { x with read := x.read + 4096 * bl.length }) :
    d.sflServe c f x = (match r with
      | .fail st h => (match h with
          | some h => e.recordFail c (x.who f) y.inst false h
          | none => e).sflEnd c f y st
      | .skipped h => (e.rowGroupRecord y 1 (x.rowGroup x.next) (some h) []).1.sflShip c f
          { y with cur := some 1, head := h, out := [(e.rowGroupRecord y 1 (x.rowGroup x.next) (some h) []).2] }
      | .redirected b h gs => (e.rowGroupRecord y (2 + 4 * b2n b) (x.rowGroup x.next) h gs).1.sflShip c f
          { y with cur := some 2, head := h.getD [], out := [(e.rowGroupRecord y (2 + 4 * b2n b) (x.rowGroup x.next) h gs).2] }
      | .done h rs => e.sflShip c f { y with cur := some 0, head := h, out := rs }) := by
  unfold Dev.sflServe
  subst hy
  dsimp only
  rw [if_neg (by omega), if_neg (by simp [ha]), h1]
  dsimp only
  rw [if_neg (by simp [h2]), hr]
  simp only [← he] <;> cases r <;> rfl

/-- Settles O20. -/
theorem filtersComplete : Obligations.FiltersComplete := by
  unfold Obligations.FiltersComplete
  refine ⟨?submit, ?get, fun s f p v x e y u hon hu => ⟨?abort, ?abortWaiting⟩, ?start, ?eval, ?ended, ?error⟩
  case submit =>
    intro s f p v w x hon hv hn hw hx
    subst hw hx
    rw [exec_sflSubmit, execSflSubmit, s.onDev_of_on _ hon]
    simp only [Dev.sflSubmit, hv]
    rw [if_neg (by simp), if_neg (by omega)]
  case get =>
    intro s f p v x e y hon hx hs
    rw [exec_sflGet, execSflGet, s.onDev_of_on _ hon]
    simp only [Dev.sflGet, hx, hs, Dev.sflPut]
  case abort =>
    intro hx hr hs
    subst hu
    rw [exec_sflAbort, execSflAbort, s.onDev_of_on _ hon]
    simp only [Dev.sflAbort, hx, hr, Dev.sflPut, Bool.false_eq_true, if_false]
    exact congrArg (fun r : Dev × Option SflDesc => Host.Outcome.next (s.withDev (r.1.setFilter f.val { r.1.filter f.val with
      flight := updFirst (SflDesc.is p.val (bits v.toNat 15 0)) (fun _ => r.2) (r.1.filter f.val).flight }))) hs
  case abortWaiting =>
    intro hx hw hs
    subst hu
    rw [exec_sflAbort, execSflAbort, s.onDev_of_on _ hon]
    simp only [Dev.sflAbort, hx, hw, hs]
  case start =>
    intro s f x xs rest hon hf hn hc
    rw [exec_sflDescriptorStart, execSflDescriptorStart, s.onDev_of_on _ hon]
    have hck : (if x.off then none else s.dev.sflCheck f.val x xs) = none := by
      split
      · rfl
      · exact hc.resolve_left (by assumption)
    simp only [Dev.sflStart, hf]
    rw [if_neg (by omega), hck]
  case eval =>
    intro s f x y xs rest d e r maps bl z hon hf h1 h2 hd h3 h4 hr he hy hz
    have hserve : d.sflServe s.core f.val x = z := by
      rw [hz, sflServe_running h3 h4 h1 h2 hr he hy] <;> cases r <;> rfl
    rw [exec_sflRowgroupEval, execSflRowgroupEval, s.onDev_of_on _ hon, sflTurn_eq hf hd, hserve]
  case ended =>
    intro s f x xs rest d st z hon hf h1 hd h3 h4 hz
    have hserve : d.sflServe s.core f.val x = z := by
      rw [hz]
      unfold Dev.sflServe
      dsimp only
      rw [if_neg (by omega), if_neg (by simp [h4]), h1]
    rw [exec_sflRowgroupEval, execSflRowgroupEval, s.onDev_of_on _ hon, sflTurn_eq hf hd, hserve]
  case error =>
    intro s f p tag hon
    rw [exec_sflWriteError, execSflWriteError, s.onDev_of_on _ hon]
    rfl

/-! ### The Exchange -/

/-- The notice at the front is taken where it is of the kind asked for. -/
theorem takeNotice_head (pick : ExcNotice → Bool) (n : ExcNotice) (rest : List ExcNotice) (h : pick n = true) :
    takeNotice pick (n :: rest) = some (n, rest) := takeNotice_app pick [] rest n h (by simp)

/-- Settles O21. -/
theorem exchangeComplete : Obligations.ExchangeComplete := by
  unfold Obligations.ExchangeComplete
  refine ⟨?send, ?sendEnded, ?resume, ?timeout, ?stall, ?next, ?publish, ?void, ?release, ?runEnd⟩
  case send =>
    intro s p k hon h1 h2
    rw [exec_excSend, execExcSend, s.onDev_of_on _ hon]
    rw [if_neg (by simp [h1]), if_neg (by simp [h2]), strideOf]
    generalize s.dev.sendLook p.val (8 * 2 ^ k.val) = l
    obtain ⟨d, r⟩ := l
    cases r with
    | blocked n inst run pool now => cases now <;> rfl
    | _ => rfl
  case sendEnded =>
    intro s p k hon h1
    rw [exec_excSend, execExcSend, s.onDev_of_on _ hon, if_pos h1]
  case resume =>
    intro s p k t hon ht
    rw [exec_excSendResume, execExcSendResume, s.onDev_of_on _ hon, if_neg (by simp [ht]), strideOf]
    generalize s.dev.sendLook p.val (8 * 2 ^ k.val) = l
    obtain ⟨d, r⟩ := l
    cases r <;> rfl
  case timeout =>
    intro s p t x hon ht hx hw
    rw [exec_excAllocTimeout, execExcAllocTimeout, s.onDev_of_on _ hon]
    simp only [ht, hx]
    rw [if_neg (by omega)] <;> rfl
  case stall =>
    intro s p w t d hon hx hs ht hd
    rw [exec_excAllocTimeout, execExcAllocTimeout, s.onDev_of_on _ hon]
    simp only [hx]
    rw [show (s.dev.sendSince p.val) = none by simp [Dev.sendSince, hx], Dev.spillTimeout, hs]
    dsimp only
    rw [if_neg (by omega), ← hd]
  case next =>
    intro s p v d e hon h
    rw [exec_excNext, execExcNext, s.onDev_of_on _ hon, h]
    cases e <;> rfl
  case publish =>
    intro s run task attempt xs rest hon hn hx he
    rw [exec_excPublish, execExcPublish, s.onDev_of_on _ hon, hn, takeNotice_app]
    · simp only [he]
      rfl
    · rfl
    · intro m hm
      split
      · exact absurd rfl (hx _ hm _ _ _)
      · rfl
  case void =>
    intro s run task attempt rest d late hon hn hl hd
    subst hl hd
    rw [exec_excVoid, execExcVoid, s.onDev_of_on _ hon, hn, takeNotice_head _ _ _ rfl]
  case release =>
    intro s run t l rest d i r hon hn he hd hi hr
    rw [exec_excRelease, execExcRelease, s.onDev_of_on _ hon, hn, takeNotice_head _ _ _ rfl]
    simp only [he, ← hd, hi, hr]
    rfl
  case runEnd =>
    intro s run rest hon hn
    rw [exec_excRunEnd, execExcRunEnd, s.onDev_of_on _ hon, hn, takeNotice_head _ _ _ rfl] <;> rfl

end Sys2Proof.Machine
end

section
/-!
PROOFS. The Catalogue and the Folio engines complete (O22, O23).
-/

namespace Sys2Proof.Machine

/-! ### The Catalogue -/

/-- A search request with operands that pass their checks is taken in. -/
theorem catSearch_eq {d : Dev} {c : CoreSt} {p req k : Nat} {b : Bytes} {x : CatSet} (hb : b = toLE 16 req) (h1 : le b 0xD 1 < 64)
    (hk : k = ctInst (d.core p).task * 64 + le b 0xD 1) (hx : find d.cat.sets k = some x) (h2 : 0 < le b 0xC 1) (h3 : le b 0xC 1 ≤ 64)
    (h4 : le b 0xE 1 < 2) (h5 : le b 0 4 % 16 = 0) (h6 : le b 4 4 % 16 = 0) (h7 : le b 8 4 % 8 = 0)
    (h8 : le b 0 4 + 8 * x.width * le b 0xC 1 ≤ Config.localBytes)
    (h9 : le b 4 4 + recordBytes x.width (le b 0xE 1 == 1) * le b 0xC 1 ≤ Config.localBytes) (h10 : le b 8 4 + 8 ≤ Config.localBytes) :
    d.catSearch c p req = ({ d with cat := { d.cat with
        reqs := d.cat.reqs ++ [{ id := d.cat.nextReq, gal := p, result := le b 4 4, done := le b 8 4, tag := le b 0xF 1, left := le b 0xC 1 }]
        nextReq := d.cat.nextReq + 1 } } : Dev).catIntake c k ((List.range (le b 0xC 1)).map (fun j =>
      { src := .gal d.cat.nextReq j, key := ofLE (d.localRead p (le b 0 4 + 8 * x.width * j) (8 * x.width)), all := le b 0xE 1 == 1,
        time := c.time.toNat })) := by
  subst hb hk
  have hset : (if decide (le (toLE 16 req) 0xD 1 < 64) then d.catSet (catKey (ctInst (d.core p).task) (le (toLE 16 req) 0xD 1)) else none) = some x := by
    rw [if_pos (by simpa using h1)]
    exact hx
  unfold Dev.catSearch
  dsimp only
  rw [hset]
  dsimp only
  rw [if_neg (by omega), if_neg (by omega)]
  rfl

/-- An operation of a batch that reads its set: a search, or a read of one entry. -/
theorem catOp_search {s : State} {r : CmdRef} {j j' : CatJob} {bs : Bytes} {set k op : Nat} {x : CatSet} {d : Dev} {y : CatKey} (hon : s.on)
    (hj : s.dev.catJob r.inst.toNat r.pair.val r.cid.toNat = some j) (hbs : s.dev.catRecord j = some (.ok bs)) (hset : set = le bs 1 1)
    (h64 : set < 64) (hk : k = j.inst * 64 + set) (hsearch : op = 1 ∨ op = 2 ∨ op = 0x14) (hop : le bs 0 1 = op)
    (hout : j.out.any (fun (o : Nat × Nat × Bool) => o.2.1 == set && !o.2.2) = false)
    (hj' : j' = { j with next := j.next + 1, out := j.out ++ [(j.next, set, true)] }) (hd : d = s.dev.setJob j') (hx : d.catSet k = some x)
    (hy : y = { src := .job j.inst j.pair j.cid j.next, key := le bs 0x10 (8 * x.width), all := op == 2, time := s.core.time.toNat }) :
    catOp r op s = .next (s.withDev ((if op = 0x14 then d.catRead s.core j' k x j.next (le bs 4 4) else d.catIntake s.core k [y]).catSkip
      s.core j.inst j.pair j.cid (j.count + 1))) := by
  have hflag : (op == 1 || op == 2 || op == 0x14) = true := by rcases hsearch with rfl | rfl | rfl <;> rfl
  subst hset hk hy hd hj'
  rw [catOp, s.onDev_of_on _ hon]
  simp only [hj, hbs, hflag]
  rw [if_neg (by simp only [hop, Bool.bne_true, hout]; simp), if_pos h64, catKey, hx]
  rcases hsearch with rfl | rfl | rfl <;> rfl

/-- An operation of a batch that changes its set waits in the set's queue of updates. -/
theorem catOp_update {s : State} {r : CmdRef} {j j' : CatJob} {bs : Bytes} {set k op : Nat} {x : CatSet} {d : Dev} {e : CatEntry} {u : CatUpd}
    (hon : s.on) (hj : s.dev.catJob r.inst.toNat r.pair.val r.cid.toNat = some j) (hbs : s.dev.catRecord j = some (.ok bs))
    (hset : set = le bs 1 1) (h64 : set < 64) (hk : k = j.inst * 64 + set) (hupdate : op ≠ 1 ∧ op ≠ 2 ∧ op ≠ 0x14) (hop : le bs 0 1 = op)
    (hout : j.out.any (fun (o : Nat × Nat × Bool) => o.2.1 == set && o.2.2) = false)
    (hj' : j' = { j with next := j.next + 1, out := j.out ++ [(j.next, set, false)] }) (hd : d = s.dev.setJob j') (hx : d.catSet k = some x)
    (hready : d.catReady k ≠ [])
    (he : e = { valid := true, key := le bs 0x10 (8 * x.width), care := le bs 0x30 (8 * x.width), data := le bs 0x50 (8 * x.width - 1) })
    (hu : u = { src := .job j.inst j.pair j.cid j.next, op := op, rank := le bs 4 4, entry := e }) :
    catOp r op s = .next (s.withDev ((d.setCatSet k { x with upd := x.upd ++ [u] }).catSkip s.core j.inst j.pair j.cid (j.count + 1))) := by
  obtain ⟨h1, h2, h3⟩ := hupdate
  have hflag : (op == 1 || op == 2 || op == 0x14) = false := by simp [h1, h2, h3]
  subst hset hk hu he hd hj'
  rw [catOp, s.onDev_of_on _ hon]
  simp only [hj, hbs, hflag]
  rw [if_neg (by simp only [hop, Bool.bne_false, hout]; simp), if_pos h64, catKey, hx]
  dsimp only
  rw [if_neg (by simp [h1, h2]), if_neg h3, if_neg (by simpa using hready)]

/-- Settles O22. -/
theorem catalogueComplete : Obligations.CatalogueComplete := by
  unfold Obligations.CatalogueComplete
  refine ⟨?search, ?close, ?slot, ?batch, ?operation, fun s src n v hon hm => ⟨?enable, ?disable⟩, ?disabled, ?refilled⟩
  case search =>
    intro s p req b x k hon hb h0 hh h1 hk hx h2 h3 h4 h5 h6 h7 h8 h9 h10
    rw [exec_catSearchPort, execCatSearchPort, s.onDev_of_on _ hon, Dev.catPort, if_neg (by simp [hh]; omega),
      catSearch_eq hb h1 hk hx h2 h3 h4 h5 h6 h7 h8 h9 h10]
  case close =>
    intro s owner set x xs k n g hon hk hi hp hg ht
    subst hk
    rw [exec_catBatchClose, execCatBatchClose, s.onDev_of_on _ hon]
    simp only [catKey, hi, hp]
    rw [if_pos ht]
    simp only [Dev.catEnqueue, hg]
    rfl
  case slot =>
    intro s d1 d2 d2' d3 refilling hon h1 hr h2 h2' h3
    subst h3 h2' h2 hr h1
    rw [exec_catPassSlot, execCatPassSlot, s.onDev_of_on _ hon] <;> rfl
  case batch =>
    intro s r x n j hon ht hn h1 h2 h3 h4 hj
    subst hj hn
    rw [exec_catalogueBatch, execCatalogueBatch, s.onDev_of_on _ hon, ht]
    dsimp only
    rw [if_neg (by omega), if_neg (by omega)]
    rfl
  case operation =>
    intro s r j j' bs set k x d hon hj hbs hset h64 hk
    refine ⟨?searches, ?updates⟩
    case searches =>
      intro op i y hi hop hout hj' hd hx hy
      have hexec : exec i s = catOp r op s ∧ (op = 1 ∨ op = 2 ∨ op = 0x14) := by
        simp only [List.mem_cons, List.not_mem_nil, or_false, Prod.mk.injEq] at hi
        rcases hi with ⟨rfl, rfl⟩ | ⟨rfl, rfl⟩ | ⟨rfl, rfl⟩
        · exact ⟨exec_searchFirst s r, by decide⟩
        · exact ⟨exec_searchAll s r, by decide⟩
        · exact ⟨exec_catRead s r, by decide⟩
      rw [hexec.1, catOp_search hon hj hbs hset h64 hk hexec.2 hop hout hj' hd hx hy]
    case updates =>
      intro op i e u hi hop hout hj' hd hx hready he hu
      have hexec : exec i s = catOp r op s ∧ op ≠ 1 ∧ op ≠ 2 ∧ op ≠ 0x14 := by
        simp only [List.mem_cons, List.not_mem_nil, or_false, Prod.mk.injEq] at hi
        rcases hi with ⟨rfl, rfl⟩ | ⟨rfl, rfl⟩ | ⟨rfl, rfl⟩ | ⟨rfl, rfl⟩ | ⟨rfl, rfl⟩
        · exact ⟨exec_append s r, by decide⟩
        · exact ⟨exec_insert s r, by decide⟩
        · exact ⟨exec_catWrite s r, by decide⟩
        · exact ⟨exec_delete s r, by decide⟩
        · exact ⟨exec_clear s r, by decide⟩
      rw [hexec.1, catOp_update hon hj hbs hset h64 hk hexec.2 hop hout hj' hd hx hready he hu]
  case enable =>
    rw [exec_catGroupEnable, execCatGroupEnable, s.onDev_of_on _ hon, if_pos hm]
  case disable =>
    rw [exec_catGroupDisable, execCatGroupDisable, s.onDev_of_on _ hon, if_pos hm, Dev.catDisable] <;> rfl
  case disabled =>
    intro s n g x hon hg hd hq hx hp
    rw [exec_catDisableEffect, execCatDisableEffect, s.onDev_of_on _ hon]
    simp [hg, hx, hd, hq, hp]
  case refilled =>
    intro s n g x gaps hon hg hst hx hgaps hr
    rw [exec_catRefillDone, execCatRefillDone, s.onDev_of_on _ hon]
    simp [hg, hst, hx, hgaps, hr]

/-! ### The Folio engines -/

/-- Settles O23. -/
theorem folioComplete : Obligations.FolioComplete := by
  unfold Obligations.FolioComplete
  refine ⟨?submit, ?submitBad, ?append, fun s p v e x hon hx => ⟨?abort, ?abortWaiting⟩, fun s e x y d hon ht hy => ⟨?start, ?startFails⟩,
    fun s e x d d' r hon ht hx => ⟨?stripEnded, ?strip⟩, ?notice, ?error, ?role⟩
  case submit =>
    intro s p v bs e x hon hl hbs he hx
    subst hbs hx
    have hplace : ({ s.dev with fol := { s.dev.fol with submitted := s.dev.fol.submitted + 1 } } : Dev).folPlace = some e := he
    rw [exec_folSubmit, execFolSubmit, s.onDev_of_on _ hon, Dev.folSubmit]
    dsimp only
    rw [if_neg (by simp [hl]), hplace]
    rfl
  case submitBad =>
    intro s p v hon hl
    rw [exec_folSubmit, execFolSubmit, s.onDev_of_on _ hon]
    simp [Dev.folSubmit, hl]
  case append =>
    intro s p v e x hon hf
    rw [exec_folAppend, execFolAppend, s.onDev_of_on _ hon]
    simp only [Dev.folAppend, hf]
    congr 3
    by_cases hst : x.st = .parked
    · simp [hst]
    · simp [hst]
  case abort =>
    intro r st hst hs
    rw [exec_folAbort, execFolAbort, s.onDev_of_on _ hon]
    have hab : r.aborted (s.dev.awaits (x.who e s.dev)) = st := by
      rw [hs]
      unfold FolRun.aborted
      cases r.ended <;> rfl
    simp only [Dev.folAbort, hx, hst, hab]
  case abortWaiting =>
    intro hst
    rw [exec_folAbort, execFolAbort, s.onDev_of_on _ hon]
    simp only [Dev.folAbort, hx]
    rcases hst with hst | hst <;> simp only [hst]
  case start =>
    intro r e1 hc he
    subst hy
    rw [exec_folDescriptorStart, execFolDescriptorStart, s.onDev_of_on _ hon, ht]
    simp only [hc, he]
  case startFails =>
    intro st f hc
    subst hy
    rw [exec_folDescriptorStart, execFolDescriptorStart, s.onDev_of_on _ hon, ht]
    simp only [hc]
  case stripEnded =>
    intro st hr
    rw [exec_folStrip, execFolStrip, s.onDev_of_on _ hon, ht]
    simp only [hx, hr]
  case strip =>
    intro z hr hz
    rw [exec_folStrip, execFolStrip, s.onDev_of_on _ hon, ht]
    simp only [hx, hr, hz]
    cases z with
    | go r => rfl
    | ended r st => rfl
    | failed r f wr =>
      simp only [Dev.folAfter]
      split <;> simp [folRecordPost_chains _ _ e.val]
  case notice =>
    intro s n ns hon hn
    rw [exec_folTaskNotice, execFolTaskNotice, s.onDev_of_on _ hon]
    simp only [hn]
  case error =>
    intro s e p tag hon
    rw [exec_folWriteError, execFolWriteError, s.onDev_of_on _ hon]
  case role =>
    intro s src e role hon hm
    rw [exec_folRoleWrite, execFolRoleWrite, s.onDev_of_on _ hon, if_pos hm, Dev.folRole]
    simp only [List.isEmpty_iff]

end Sys2Proof.Machine
end

section
/-!
PROOFS. The DMA engines, the event controller and Provenance complete (O24, O25, O26).
-/

namespace Sys2Proof.Machine

/-! ### The DMA engines -/

/-- Settles O24. -/
theorem dmaComplete : Obligations.DmaComplete := by
  unfold Obligations.DmaComplete
  refine ⟨?submit, ?submitBad, ?append, fun s p v ch x hon hx => ⟨?abort, ?abortWaiting⟩, ?cqCfg, ?cqHead,
    fun s ch x y d d' hon ht hy => ⟨?start, ?startFails⟩, ?transfer, ?hostError, ?record, ?notice, ?error⟩
  case submit =>
    intro s p v q bs ch x hon hl hq hbs hch hx
    subst hbs hx
    rw [exec_dmaSubmit, execDmaSubmit, s.onDev_of_on _ hon, Dev.dmaSubmit]
    simp only [hl, hq, hch]
    rfl
  case submitBad =>
    intro s p v hon hq
    rw [exec_dmaSubmit, execDmaSubmit, s.onDev_of_on _ hon, Dev.dmaSubmit]
    simp [hq]
  case append =>
    intro s p v ch x tail hon hf ht
    subst ht
    rw [exec_dmaAppend, execDmaAppend, s.onDev_of_on _ hon]
    simp only [Dev.dmaAppend, hf]
    congr 3
    by_cases hst : x.st = .parked
    · cases hb : bit (le (s.dev.localRead p.val x.addr 64) 1 1) 1 <;> simp [hst, DmaChain.goTo]
    · simp [hst]
  case abort =>
    intro r hst
    rw [exec_dmaAbort, execDmaAbort, s.onDev_of_on _ hon]
    simp only [Dev.dmaAbort, hx, hst] <;> cases r.ended <;> rfl
  case abortWaiting =>
    intro hst
    rw [exec_dmaAbort, execDmaAbort, s.onDev_of_on _ hon]
    simp only [Dev.dmaAbort, hx]
    rcases hst with hst | hst <;> simp only [hst]
  case cqCfg =>
    intro s p v n base hon hn hb hbusy h4 h10 hal
    subst hn hb
    rw [exec_cqCfg, execCqCfg, s.onDev_of_on _ hon, Dev.cqCfg]
    simp [hbusy, h4, h10, hal]
  case cqHead =>
    intro s p v q h n hon hq hh hn hlt hle
    subst hn hh
    rw [exec_cqHead, execCqHead, s.onDev_of_on _ hon, Dev.cqHead, hq]
    dsimp only
    rw [if_neg (by omega)]
  case start =>
    intro r e hc he
    subst hy he
    rw [exec_dmaDescriptorStart, execDmaDescriptorStart, s.onDev_of_on _ hon, ht]
    simp only [hc]
  case startFails =>
    intro st f d1 e hc hf he
    subst hy he
    rw [exec_dmaDescriptorStart, execDmaDescriptorStart, s.onDev_of_on _ hon, ht]
    rcases hf with ⟨rfl, rfl⟩ | ⟨g, rfl, rfl⟩ <;> simp only [hc]
  case transfer =>
    intro s ch x r r1 r' d d1 d' hon ht hx hlost hturn
    rw [exec_dmaTransfer, execDmaTransfer, s.onDev_of_on _ hon, ht]
    simp only [hx, hlost]
    rcases hturn with ⟨he, rfl, rfl⟩ | ⟨he, hturn⟩
    · simp [he]
    · simp only [he, Option.isSome_none, Bool.false_eq_true, if_false, hturn]
      cases r' <;> rfl
  case hostError =>
    intro s ch p tag x r hon hf hx hr
    rw [exec_dmaHostError, execDmaHostError, s.onDev_of_on _ hon]
    simp [hf, hx, hr]
  case record =>
    intro s ch x r st d d0 d1 d2 d3 hon ht hfence ⟨r0, hx, hlost⟩ hst h1 h2 h3
    subst h3 h2 h1
    refine ⟨_, rfl, ?_⟩
    rw [exec_dmaRecordPost, execDmaRecordPost, s.onDev_of_on _ hon, ht]
    simp only [hfence, hx, hlost, hst]
    rfl
  case notice =>
    intro s n ns hon hn
    rw [exec_dmaTaskNotice, execDmaTaskNotice, s.onDev_of_on _ hon]
    simp only [hn]
  case error =>
    intro s p hon
    rw [exec_dmaWriteError, execDmaWriteError, s.onDev_of_on _ hon]

/-! ### The event controller -/

/-- The events after a claim by gallery `g` of `n`: the delivery of `n` is cleared, and a claim of nothing is counted as spurious. -/
def Dev.undeliver (d : Dev) (g : Nat) : Option Nat → Dev
  | some n =>
    if isDirected n then
      { d with evt := { d.evt with directed := upd d.evt.directed (n * 128 + g) {} (fun x => { x with deliv := none }) } }
    else { d with evt := { d.evt with routed := upd d.evt.routed n {} (fun x => { x with deliv := none }) } }
  | none => d.count R.evtCntSpurious

/-- A claim at an address that passes its check clears the delivery of the event it finds and writes the claim word. -/
theorem evtClaim_eq {s : State} {p v g key : Nat} {n : Option Nat} {d e : Dev} (hal : bits v 20 0 % 8 = 0) (hz : bits v 47 21 = 0)
    (hg : s.dev.logicalOf p = some g) (hn : n = s.dev.claimed g (bits v 63 48))
    (hd : d = s.dev.undeliver g n)
    (hk : key = Key.localStore p (bits v 20 0))
    (he : e = ({ d with
      mem := d.mem.setN key (toLE 8 (d.claimWord n (d.deliveredTo g).length))
      evt := { d.evt with lastClaim := put d.evt.lastClaim g (n.getD 0xFFFF) } } : Dev).clearTags key 8) :
    s.dev.evtClaim p v = (e.setCore p { e.core p with evtPending := decide (0 < (d.deliveredTo g).length) }, false) := by
  subst he hk hd hn
  refine (if_neg (by simp [hal, hz])).trans ?_
  rw [hg]
  dsimp -zeta only
  cases s.dev.claimed g (bits v 63 48) <;> rfl

/-- Settles O25. -/
theorem eventsComplete : Obligations.EventsComplete := by
  unfold Obligations.EventsComplete
  refine ⟨?raisePort, ?claim, ?claimBad, fun s src v n k j hon hm => ⟨?raise, ?route, ?withdraw, ?coal, ?hold⟩, ?msix, ?event, ?arbiter,
    fun s n g i v f hon hf => ⟨?routed, ?directed, ?vector⟩, fun s g hon => ⟨?task, ?fence⟩⟩
  case raisePort =>
    intro s p v n hon hn
    subst hn
    rw [exec_evtRaisePort, execEvtRaisePort, s.onDev_of_on _ hon, Dev.evtRaisePort]
  case claim =>
    intro s p v g key n d e hon hal hz hg hn hd hk he
    rw [exec_evtClaim, execEvtClaim, s.onDev_of_on _ hon, evtClaim_eq hal hz hg hn (hd.trans (by cases n <;> rfl)) hk he]
    rfl
  case claimBad =>
    intro s p v hon hbad
    rw [exec_evtClaim, execEvtClaim, s.onDev_of_on _ hon, Dev.evtClaim]
    dsimp only
    rw [if_pos hbad]
    rfl
  case raise =>
    rw [exec_evtRaise, execEvtRaise, s.onDev_of_on _ hon, if_pos hm, Dev.writeRaise]
  case route =>
    rw [exec_evtRouteWrite, execEvtRouteWrite, s.onDev_of_on _ hon, if_pos hm]
  case withdraw =>
    rw [exec_evtPendWithdraw, execEvtPendWithdraw, s.onDev_of_on _ hon, if_pos hm]
    rfl
  case coal =>
    rw [exec_evtCoalWrite, execEvtCoalWrite, s.onDev_of_on _ hon, if_pos hm, Dev.writeCoal]
  case hold =>
    rw [exec_evtHoldWrite, execEvtHoldWrite, s.onDev_of_on _ hon, if_pos hm]
  case msix =>
    intro s i off wide v hon hs hp hal
    rw [exec_msixTableWrite, execMsixTableWrite, s.onDev_of_on _ hon, if_pos (by simp [hs, hp]), Dev.writeMsix, if_neg (by simpa using hal)]
  case event =>
    intro s n g hon
    rw [exec_eventRaise, execEventRaise, s.onDev_of_on _ hon]
  case arbiter =>
    intro s ts d hon hf hts hd
    subst hd hts
    rw [exec_evtArbiterCycle, execEvtArbiterCycle, s.onDev_of_on _ hon, Dev.arbiterCycle, hf]
    rfl
  case routed =>
    subst hf
    rw [exec_evtCoalTimeout, execEvtCoalTimeout, s.onDev_of_on _ hon]
    rfl
  case directed =>
    subst hf
    rw [exec_evtCoalTimeout, execEvtCoalTimeout, s.onDev_of_on _ hon]
    rfl
  case vector =>
    subst hf
    rw [exec_evtCoalTimeout, execEvtCoalTimeout, s.onDev_of_on _ hon]
    rfl
  case task =>
    intro hg
    rw [exec_evtTaskNotice, execEvtTaskNotice, s.onDev_of_on _ hon, if_neg (by simpa using hg)]
  case fence =>
    intro hg
    rw [exec_evtFenceNotice, execEvtFenceNotice, s.onDev_of_on _ hon, if_pos hg, Dev.fenceNotice]

/-! ### Provenance -/

/-- A request with an operation of its own goes to the part of the engine that serves it. -/
theorem prvAccept_of_op (d : Dev) (c : CoreSt) (r : PrvReq) (h : 1 ≤ r.op ∧ r.op ≤ 5) :
    d.prvAccept c r = (match r.op with
      | 1 => d.prvOpen c r
      | 4 => d.prvRestore c r
      | 5 => d.prvClose c r
      | _ => d.prvQueue c r) := by
  unfold Dev.prvAccept
  generalize r.op = op at h
  obtain ⟨h1, h5⟩ := h
  obtain rfl | rfl | rfl | rfl | rfl : op = 1 ∨ op = 2 ∨ op = 3 ∨ op = 4 ∨ op = 5 := by omega
  all_goals rfl

/-- A request with an operation that no instruction has is answered with INVALID_FIELD. -/
theorem prvAccept_of_bad (d : Dev) (c : CoreSt) (r : PrvReq) (h : r.op = 0 ∨ 5 < r.op) :
    d.prvAccept c r = d.prvComplete c r none false 0 0x0201 := by
  unfold Dev.prvAccept
  split
  case h_6 => rfl
  all_goals omega

/-- A digest instruction serves its request by the operation that the request names. -/
theorem execDigest_eq {src : DigestFrom} {op : Nat} {i : Instr} (s : State)
    (hi : (op, i) ∈ [(1, Instr.digestOpen src), (2, .digestUpdate src), (3, .digestSave src), (4, .digestRestore src), (5, .digestClose src)]) :
    exec i s = digestFrom src op s ∧ 1 ≤ op ∧ op ≤ 5 := by
  simp only [List.mem_cons, List.not_mem_nil, or_false, Prod.mk.injEq] at hi
  rcases hi with ⟨rfl, rfl⟩ | ⟨rfl, rfl⟩ | ⟨rfl, rfl⟩ | ⟨rfl, rfl⟩ | ⟨rfl, rfl⟩
  · exact ⟨exec_digestOpen s src, by decide⟩
  · exact ⟨exec_digestUpdate s src, by decide⟩
  · exact ⟨exec_digestSave s src, by decide⟩
  · exact ⟨exec_digestRestore s src, by decide⟩
  · exact ⟨exec_digestClose s src, by decide⟩

/-- Each of the five instructions has an operation code. -/
theorem exists_digest_op {src : DigestFrom} {i : Instr}
    (hi : i ∈ [Instr.digestOpen src, .digestUpdate src, .digestSave src, .digestRestore src, .digestClose src]) :
    ∃ op, (op, i) ∈ [(1, Instr.digestOpen src), (2, .digestUpdate src), (3, .digestSave src), (4, .digestRestore src), (5, .digestClose src)] := by
  simp only [List.mem_cons, List.not_mem_nil, or_false] at hi
  rcases hi with rfl | rfl | rfl | rfl | rfl
  · exact ⟨1, by simp⟩
  · exact ⟨2, by simp⟩
  · exact ⟨3, by simp⟩
  · exact ⟨4, by simp⟩
  · exact ⟨5, by simp⟩

/-- A search by two predicates that agree finds the same. -/
theorem find?_of_eq {α : Type} {f g : α → Bool} {l : List α} (h : ∀ a, f a = g a) : l.find? f = l.find? g := by
  rw [funext h]

/-- Settles O26. -/
theorem provenanceComplete : Obligations.ProvenanceComplete := by
  unfold Obligations.ProvenanceComplete
  refine ⟨?host, ?port, ?portBad, ?hostBad, ?block, ?compare, ?resume, ?notice⟩
  case host =>
    intro s ref x r op i hon ht hr hi hop
    obtain ⟨hexec, hrange⟩ := execDigest_eq s hi
    subst hr hop
    rw [hexec, digestFrom, s.onDev_of_on _ hon]
    simp only [ht, beq_self_eq_true, Bool.true_or, if_true]
    exact congrArg (fun d => Host.Outcome.next (s.withDev d)) (prvAccept_of_op _ _ _ hrange)
  case port =>
    intro s p v r op i hon hreq hi hop
    obtain ⟨hexec, hrange⟩ := execDigest_eq s hi
    subst hop
    rw [hexec, digestFrom, s.onDev_of_on _ hon]
    simp only [hreq, beq_self_eq_true, Bool.true_or, if_true]
    exact congrArg (fun d => Host.Outcome.next (s.withDev d)) (prvAccept_of_op _ _ _ hrange)
  case portBad =>
    intro s p v i hon hreq hi
    obtain ⟨op, hop⟩ := exists_digest_op hi
    rw [(execDigest_eq s hop).1, digestFrom, s.onDev_of_on _ hon]
    simp only [hreq]
  case hostBad =>
    intro s ref x r hon ht hr hop
    subst hr
    rw [exec_digestOpen, execDigestOpen, digestFrom, s.onDev_of_on _ hon]
    simp only [ht]
    rw [if_pos (by simpa using Or.inr hop), prvAccept_of_bad _ _ _ hop]
  case block =>
    intro s l k x n hon hf hk hx hn
    subst hn
    rw [exec_prvLaneBlock, execPrvLaneBlock, s.onDev_of_on _ hon]
    rw [if_neg (by simp [hf])]
    split
    next hnone => exact absurd (hnone.symm.trans ((find?_of_eq (fun k => by cases s.dev.prvCtx k <;> rfl)).trans hk)) (by simp)
    next k' hsome =>
      obtain rfl : k' = k := Option.some.inj (hsome.symm.trans ((find?_of_eq (fun k => by cases s.dev.prvCtx k <;> rfl)).trans hk))
      rw [hx] <;> rfl
  case compare =>
    intro s k agree x r rs st result hon hx hq hst
    rw [exec_prvCompareDone, execPrvCompareDone, s.onDev_of_on _ hon]
    simp only [hx, hq, hst]
  case resume =>
    intro s k r a hon hk hr ha
    rw [exec_prvOpenResume, execPrvOpenResume, s.onDev_of_on _ hon]
    simp only [hk, hr, ha]
  case notice =>
    intro s n ns hon hn
    rw [exec_prvTaskNotice, execPrvTaskNotice, s.onDev_of_on _ hon]
    simp only [hn]

end Sys2Proof.Machine
end

section
/-!
PROOFS. The memory system and the volumes complete (O27, O28).
-/

namespace Sys2Proof.Machine

/-! ### The memory system -/

/-- Settles O27. -/
theorem memorySystemComplete : Obligations.MemorySystemComplete := by
  unfold Obligations.MemorySystemComplete
  refine ⟨?issue, fun s ch block hon => ⟨fun wrong d hd => ⟨?clean, ?corrected, ?detected, ?beyond⟩, ?parity⟩, fun s ch hon => ⟨?release, ?timeout⟩,
    ?promote, ?refresh, ?sample, ?window, ?scrub, fun s ch row pct x d e copy hon hx hdue hst hd he hc => ⟨?repaired, ?unrepaired⟩, ?setMap⟩
  case issue =>
    intro s ch x r d hon hx hst hr hd
    subst hx hd
    rw [exec_memRequestIssue, execMemRequestIssue, s.onDev_of_on _ hon, Dev.issueNext]
    dsimp only
    rw [if_neg (by simp [hst]), hr]
  case clean =>
    intro h
    rw [exec_memReadReturn, execMemReadReturn, s.onDev_of_on _ hon, Dev.readReturn]
    simp only [h, State.withDev_self]
  case corrected =>
    intro h
    subst hd
    rw [exec_memReadReturn, execMemReadReturn, s.onDev_of_on _ hon, Dev.readReturn]
    simp only [h, beq_iff_eq]
  case detected =>
    intro h
    rw [exec_memReadReturn, execMemReadReturn, s.onDev_of_on _ hon, Dev.readReturn]
    simp only [h]
  case beyond =>
    intro h
    refine ⟨_, rfl, ?_⟩
    rw [exec_memReadReturn, execMemReadReturn, s.onDev_of_on _ hon, Dev.readReturn]
    simp only [h, Dev.draw, beq_iff_eq]
    by_cases h0 : (Config.freeWord s.dev.fresh).toNat % 3 = 0
    · exact Or.inl (by rw [if_pos h0])
    · by_cases h1 : (Config.freeWord s.dev.fresh).toNat % 3 = 1
      · exact Or.inr (Or.inl (by rw [if_neg h0, if_pos h1]))
      · exact Or.inr (Or.inr (by rw [if_neg h0, if_neg h1]))
  case parity =>
    rw [exec_memReadReturn, execMemReadReturn, s.onDev_of_on _ hon, Dev.readReturn]
  case release =>
    intro h
    rw [exec_memChannelRelease, execMemChannelRelease, s.onDev_of_on _ hon, if_pos h]
  case timeout =>
    intro h
    rw [exec_memReleaseTimeout, execMemReleaseTimeout, s.onDev_of_on _ hon, if_neg (by simp [h])]
  case promote =>
    intro s ch order hon h
    rw [exec_memAgePromote, execMemAgePromote, s.onDev_of_on _ hon]
    exact congrArg _ (congrArg _ (if_pos h))
  case refresh =>
    intro s ch x hon hx hst
    subst hx
    rw [exec_memRefreshDue, execMemRefreshDue, s.onDev_of_on _ hon]
    dsimp only
    rw [if_neg (by simp [hst])]
    split
    · split <;> rfl
    · rfl
  case sample =>
    intro s ch celsius mr4 hon
    rw [exec_memTempSample, execMemTempSample, s.onDev_of_on _ hon]
  case window =>
    intro s ch x y high kset kmin hon hx hy hh hs hm
    subst hm hs hh hy hx
    rw [exec_memRhWindow, execMemRhWindow, s.onDev_of_on _ hon]
    dsimp only
    congr 2
    cases hf : s.dev.flag R.memRh 0
    · rfl
    cases hany : (s.dev.chan ch.val).acts.any (fun e => decide (s.dev.getF R.memRh 47 32 < e.2))
    · cases hall : (s.dev.chan ch.val).acts.all (fun e => decide (2 * e.2 < s.dev.getF R.memRh 47 32))
      · simp
      · by_cases hq : (s.dev.chan ch.val).quiet + 1 = 32
        · simp [hq]
        · simp [hq]
    · simp
  case scrub =>
    intro s ch block err x hon hx hf hst hb
    subst hx
    rw [exec_patrolScrub, execPatrolScrub, s.onDev_of_on _ hon]
    dsimp only
    rw [if_pos (by simp [hf, hst, hb])]
  case repaired =>
    subst hx hd he hc
    rw [exec_sppr, execSppr, s.onDev_of_on _ hon]
    dsimp only
    rw [if_neg (by simp only [hdue, hst]; simp)]
  case unrepaired =>
    subst hx hd he
    rw [exec_sppr, execSppr, s.onDev_of_on _ hon]
    dsimp only
    rw [if_neg (by simp only [hdue, hst]; simp)]
  case setMap =>
    intro s src n v hon hm
    rw [exec_memSetMapWrite, execMemSetMapWrite, s.onDev_of_on _ hon, if_pos hm]

/-! ### SSDs and volumes -/

/-- FORMAT_VOLUME and SANITISE are the two maintenance commands, with opcodes that the Registrar serves. -/
theorem execMaint_eq {ref : CmdRef} {op : Nat} {i : Instr} (s : State) (hi : (op, i) ∈ [(0xA1, Instr.formatVolume ref), (0xA0, .sanitise ref)]) :
    exec i s = s.onAll (maintCommand ref op) ∧ 0x90 ≤ op := by
  simp only [List.mem_cons, List.not_mem_nil, or_false, Prod.mk.injEq] at hi
  rcases hi with ⟨rfl, rfl⟩ | ⟨rfl, rfl⟩
  · exact ⟨exec_formatVolume s ref, by decide⟩
  · exact ⟨exec_sanitise s ref, by decide⟩

/-- A maintenance command of the Registrar that is taken with fields that pass their checks. -/
theorem maintCommand_eq {s : State} {ref : CmdRef} {op : Nat} {x : Cmd} {m : Maint} (ht : s.adminTakes ref op x) (hop : 0x90 ≤ op)
    (hm : maintOf x = some m) : maintCommand ref op (s.core, s.dev) =
      (if m.volume = 0xFFFF then
        if (s.started x).acc.maint.any (·.volume == 0xFFFF) then (s.core, (s.started x).finish s.core x 0 0x0500)
        else if s.core.mode ≠ .service then (s.core, (s.started x).finish s.core x 0 0x0600)
        else ({ (changeMode .quiesced (s.core, s.started x)).1 with
            quiesceFor := some (.maintenance (x.inst, x.pair, x.cid) m.sanitise m.method), drained := false },
          (changeMode .quiesced (s.core, s.started x)).2)
      else if ((s.started x).volume m.volume).isNone ∨ (m.sanitise ∧ m.method = 1) then (s.core, (s.started x).finish s.core x 0 0x0201)
      else if (s.started x).acc.maint.any (·.volume == m.volume) then (s.core, (s.started x).finish s.core x 0 0x0500)
      else (s.core, ((s.started x).startVolMaint s.core m).finish s.core x 0 0)) := by
  obtain ⟨_, htake, hlow | ⟨hrestart, hhalted⟩⟩ := ht
  · omega
  · rw [maintCommand]
    dsimp only
    simp only [htake, hrestart, hhalted, hm]
    rfl

/-- A maintenance command for the whole device quiesces it. -/
theorem maintCommand_device {s : State} {ref : CmdRef} {op : Nat} {x : Cmd} {m : Maint} (ht : s.adminTakes ref op x) (hop : 0x90 ≤ op)
    (hm : maintOf x = some m) (hv : m.volume = 0xFFFF) (hno : (s.started x).acc.maint.any (·.volume == 0xFFFF) = false)
    (hmode : s.core.mode = .service) : (maintCommand ref op (s.core, s.dev)).1.mode = .quiesced ∧
      (maintCommand ref op (s.core, s.dev)).1.quiesceFor = some (.maintenance (x.inst, x.pair, x.cid) m.sanitise m.method) := by
  rw [maintCommand_eq ht hop hm, if_pos hv, if_neg (by simp [hno]), if_neg (by simp [hmode])]
  refine ⟨?_, rfl⟩
  rw [changeMode_core, if_pos (by rw [hmode]; rfl)]

/-- A maintenance command for one volume starts its maintenance. -/
theorem maintCommand_volume {s : State} {ref : CmdRef} {op : Nat} {x : Cmd} {m : Maint} (ht : s.adminTakes ref op x) (hop : 0x90 ≤ op)
    (hm : maintOf x = some m) (hv : m.volume ≠ 0xFFFF) (hsome : ((s.started x).volume m.volume).isSome = true)
    (hcrypto : ¬(m.sanitise ∧ m.method = 1)) (hno : (s.started x).acc.maint.any (·.volume == m.volume) = false) :
    maintCommand ref op (s.core, s.dev) = (s.core, ((s.started x).startVolMaint s.core m).finish s.core x 0 0) := by
  rw [maintCommand_eq ht hop hm, if_neg hv, if_neg (by rintro (h | h) <;> simp_all), if_neg (by simp [hno])]

/-- Settles O28. -/
theorem volumesComplete : Obligations.VolumesComplete := by
  unfold Obligations.VolumesComplete
  refine ⟨?linkUp, fun s n info x d hon hx => ⟨?identified, ?reset⟩, ?removal, fun s n id x k d hon hx hr hk hd => ⟨?completed, ?failed⟩,
    fun s n id x hon hx => ⟨?timeout, ?abortTimeout, ?readyTimeout⟩, ?assemble, ?rebuild, fun s src n hon hm => ⟨?spare, ?free, ?wipe⟩,
    ?create, ?delete, fun s ref x m op i hi ht hm => ⟨?device, ?volume⟩, fun s v n m hon hm => ⟨?deviceStep, ?volumeStep⟩⟩
  case linkUp =>
    intro s n w sp hon hst hrom
    have hoff : s.core.mode ≠ .off := hon
    rw [exec_ssdLinkUp, execSsdLinkUp, s.onDev_of_on _ hon]
    dsimp only
    rw [if_pos (by simp [hst, hoff, hrom])]
  case identified =>
    intro hr hst hd
    subst hx hd
    rw [exec_ssdIdentifyDone, execSsdIdentifyDone, s.onDev_of_on _ hon]
    dsimp only
    rw [if_neg (by simp [hr]), if_neg (by simp [hst])]
  case reset =>
    intro hr hc
    subst hx
    rw [exec_ssdIdentifyDone, execSsdIdentifyDone, s.onDev_of_on _ hon]
    dsimp only
    rw [if_pos hr, if_neg (by simp [hc])]
  case removal =>
    intro s n hon hst
    rw [exec_ssdRemoval, execSsdRemoval, s.onDev_of_on _ hon]
    dsimp only
    rw [if_neg (by simpa using hst)]
  case completed =>
    subst hx hd
    rw [exec_nvmeCompletion, execNvmeCompletion, s.onDev_of_on _ hon]
    simp only [hk, hr, Bool.false_eq_true, if_false, if_true] <;> cases k.data <;> rfl
  case failed =>
    subst hx hd
    rw [exec_nvmeCompletion, execNvmeCompletion, s.onDev_of_on _ hon]
    simp only [hk, hr, Bool.false_eq_true, if_false]
  case timeout =>
    intro hr hc
    subst hx
    rw [exec_nvmeTimeout, execNvmeTimeout, s.onDev_of_on _ hon]
    dsimp only
    rw [if_pos (by simp only [hc, hr]; rfl)]
  case abortTimeout =>
    intro hr hc
    subst hx
    rw [exec_nvmeAbortTimeout, execNvmeAbortTimeout, s.onDev_of_on _ hon]
    dsimp only
    rw [if_pos (by simp only [hc, hr]; rfl)]
  case readyTimeout =>
    intro hr
    subst hx
    rw [exec_ssdReadyTimeout, execSsdReadyTimeout, s.onDev_of_on _ hon, if_pos hr]
  case assemble =>
    intro s hon hs ht
    rw [exec_assembleTimeout, execAssembleTimeout, s.onDev_of_on _ hon, if_neg (by simp [hs]; omega)]
  case rebuild =>
    intro s v bad x y p n ds pu qu us d hon hx hr hst hd hu hus he hy
    subst hy he
    rw [exec_rebuildStripe, execRebuildStripe, s.onDev_of_on _ hon]
    simp only [hx, hr, hst, hd, hu, hus]
    rfl
  case spare =>
    rw [exec_roleReqSpare, execRoleReqSpare, s.onDev_of_on _ hon, if_pos hm, Dev.roleReq]
  case free =>
    rw [exec_roleReqFree, execRoleReqFree, s.onDev_of_on _ hon, if_pos hm, Dev.roleReq]
  case wipe =>
    rw [exec_wipeLabel, execWipeLabel, s.onDev_of_on _ hon, if_neg (by simp [hm])]
    by_cases hf : (s.dev.ssd n.val).st = .failed
    · simp [hf, Dev.roleReq]
    · simp [hf, Dev.roleReq]
  case create =>
    intro s ref x ht
    rw [exec_volumeCreate, execVolumeCreate, onDev_admin ht]
  case delete =>
    intro s ref x y ht hy hb
    rw [exec_volumeDelete, execVolumeDelete, onDev_admin (f := fun c x d => _) ht]
    simp only [hy, hb]
    rfl
  case device =>
    intro hv hno hmode
    rw [(execMaint_eq s hi).1]
    exact onAll_ex ht.1 (maintCommand_device ht (execMaint_eq s hi).2 hm hv hno hmode)
  case volume =>
    intro hv hsome hany hno
    rw [(execMaint_eq s hi).1, s.onAll_of_on _ ht.1, maintCommand_volume ht (execMaint_eq s hi).2 hm hv hsome hany hno]
    rfl
  case deviceStep =>
    intro hv hmode hp hl d m' hd hm'
    subst hm' hd
    rw [exec_maintenanceStep, execMaintenanceStep, s.onDev_of_on _ hon, hm]
    dsimp only
    rw [if_pos hv, if_pos ⟨hmode, hp, hl⟩]
  case volumeStep =>
    intro hv hmode
    rw [exec_maintenanceStep, execMaintenanceStep, s.onDev_of_on _ hon, hm]
    dsimp only
    rw [if_neg hv, if_pos hmode]

end Sys2Proof.Machine
end

section
/-!
PROOFS. Instances and the safety system complete (O29, O30).
-/

namespace Sys2Proof.Machine

/-! ### Instances -/

/-- INSTANCE_CREATE with a number of its own and fields that pass their checks. -/
theorem instanceCreate_eq {d : Dev} {c : CoreSt} {x : Cmd} {i : Nat} {b : Bytes} (hi : i = le x.area 8 1) (h0 : i ≠ 0)
    (hst : (d.inst i).st = .free) (hport : le x.area 9 1 ≤ 3) (hfn : le x.area 10 1 ≠ 0) (hfn64 : le x.area 10 1 ≤ 64)
    (hbound : d.boundTo (le x.area 9 1) (le x.area 10 1) = none) (hread : d.adminRead c x (le x.area 0 8) 1024 = .ok b) (hshare : shareOk b = true) :
    d.instanceCreate c x = (if d.totalsOk i (shareOf b) then
      (((d.setInst i { st := .active, bound := some (le x.area 9 1, le x.area 10 1), share := shareOf b }).instanceRoutes i).dmaBalance).finish c x i 0
      else d.finish c x 0 0x0501) := by
  subst hi
  rw [Dev.instanceCreate, if_neg h0]
  dsimp only
  rw [if_neg (by simp only [hst, hbound]; simp; omega), hread]
  dsimp only
  rw [if_neg (by simp [hshare])]
  cases d.totalsOk (le x.area 8 1) (shareOf b) <;> rfl

/-- INSTANCE_EXPORT of frozen state that owns no volume, with a migration key. -/
theorem instanceExport_eq {d : Dev} {c : CoreSt} {x : Cmd} {i : Nat} {domain keyId : Bytes} (hi : i = le x.area 0x10 1)
    (hst : (d.inst i).st = .frozen) (hgone : (d.inst i).gone = false) (hvol : d.vol.vols.any (fun (e : Nat × Vol) => e.2.owner == i) = false)
    (hkey : d.ins.migKey = some (domain, keyId)) :
    d.instanceExport c x = (match d.sections i domain with
      | .error _ => d.finish c x 0 0x0401
      | .ok (secs, e) =>
        let size := 128 + (secs.map (fun b => b.length)).foldl (· + ·) 0 + 48
        if le x.area 8 8 < size then d.finish c x (ceilDiv size 1048576) (if le x.area 8 8 = 0 then 0 else 0x0200)
        else
          let (nonce, e) := e.drawBytes 16
          match e.writeInst c { registrarWho with job := x.job } x.inst (le x.area 0 8) (e.blob i domain keyId nonce secs) with
          | (e, none) => e.finish c x (ceilDiv size 1048576) 0
          | (e, some f) => (e.recordFail c registrarWho x.inst true f).finish c x 0 f.status) := by
  subst hi
  rw [Dev.instanceExport]
  dsimp only
  rw [if_neg (by simp only [hst, hgone, hvol]; simp), hkey]
  dsimp only
  rcases hsec : d.sections (le x.area 0x10 1) domain with e | ⟨secs, e⟩
  · rfl
  · dsimp only
    generalize hsize : 128 + (secs.map (fun b => b.length)).foldl (· + ·) 0 + 48 = size
    by_cases h0 : le x.area 8 8 = 0
    · rw [if_pos h0, if_pos (by omega), if_pos h0]
    · refine (if_neg h0).trans ?_
      by_cases hlt : le x.area 8 8 < size
      · exact (if_pos hlt).trans (by rw [if_pos hlt, if_neg h0])
      · refine (if_neg hlt).trans (Eq.trans ?_ (if_neg hlt).symm)
        generalize (e.drawBytes 16).2.writeInst c { registrarWho with job := x.job } x.inst (le x.area 0 8)
          ((e.drawBytes 16).2.blob (le x.area 0x10 1) domain keyId (e.drawBytes 16).1 secs) = r
        obtain ⟨e', _ | f⟩ := r <;> rfl

/-- A write of INS_MAP_CTRL that starts a request, while none runs. -/
theorem mapCtrl_eq {d : Dev} {op : Nat} {w : Word} (hbusy : d.flag R.insMapStatus 63 = false) (hop : op < 3) :
    d.mapCtrl (mapWord op w) =
      (if op = 0 then (d.writeReg R.insMapCtrl (mapWord op w)).doMap (mapReq (mapWord op w))
      else if op = 1 then (d.writeReg R.insMapCtrl (mapWord op w)).doUnmap (mapReq (mapWord op w))
      else (d.writeReg R.insMapCtrl (mapWord op w)).doSetPasid (mapReq (mapWord op w))) := by
  have hgo : (fld (mapWord op w) 63 63 == 1) = true := by rw [mapWord_go]; rfl
  have hmod : fld (mapWord op w) 62 61 = op := by rw [mapWord_op]; omega
  unfold Dev.mapCtrl
  simp only [hgo, hmod, hbusy]
  obtain rfl | rfl | rfl : op = 0 ∨ op = 1 ∨ op = 2 := by omega
  · simp
  · simp
  · simp

/-- A write of INS_MAP_CTRL that would start a request while one runs is refused. -/
theorem mapCtrl_busy {d : Dev} {op : Nat} {w : Word} (hbusy : d.flag R.insMapStatus 63 = true) :
    d.mapCtrl (mapWord op w) = d.setFlag R.insStatus 1 true := by
  unfold Dev.mapCtrl
  simp only [mapWord_go, hbusy]
  rfl

/-- Settles O29. -/
theorem instancesComplete : Obligations.InstancesComplete := by
  unfold Obligations.InstancesComplete
  refine ⟨?create, ?share, fun s ref x i d ht hd hi h0 hg => ⟨?freeze, ?unfreeze⟩, fun s i y a q cid hon hy hst hc => ⟨?drained, ?timeout⟩,
    ?export_, ?import_, ?destroy, fun s src w v d hon hm hb hv hd => ⟨?map, ?unmap, ?pasid⟩, ?mapBusy, fun s u v left hon hf hl => ⟨?ack, ?lastAck⟩,
    fun s p key hon hup hlink => ⟨?claim, ?claimHeld, ?claimUnknown⟩, fun s h key id hon hup => ⟨?install, ?installBad, ?installUnknown⟩⟩
  case create =>
    intro s ref x i b d ht hd hi h0 hst hport hfn hfn64 hbound hread hshare
    subst hd
    rw [exec_instanceCreate, execInstanceCreate, onDev_admin ht, instanceCreate_eq hi h0 hst hport hfn hfn64 hbound hread hshare]
  case share =>
    intro s ref x i b d ht hd hi hg hread hshare
    subst hi hd
    rw [exec_instanceShare, execInstanceShare, onDev_admin (f := fun c x d => _) ht]
    simp only [hg, hread, hshare]
    cases (s.started x).totalsOk (le x.area 8 1) (shareOf b) <;> rfl
  case freeze =>
    intro hact hst
    subst hi hd
    rw [exec_instanceFreeze, execInstanceFreeze, onDev_admin ht, Dev.instanceFreeze]
    simp [h0, hact, hg, hst]
  case unfreeze =>
    intro hact hst
    subst hi hd
    rw [exec_instanceFreeze, execInstanceFreeze, onDev_admin ht, Dev.instanceFreeze]
    simp [h0, hact, hg, hst]
  case drained =>
    intro hn
    subst hy
    rw [exec_freezeDrainDone, execFreezeDrainDone, s.onDev_of_on _ hon]
    simp only [hst, hn, hc]
    rfl
  case timeout =>
    intro ht
    subst hy
    rw [exec_freezeTimeout, execFreezeTimeout, s.onDev_of_on _ hon]
    simp only [hst, ht, hc]
    rfl
  case export_ =>
    intro s ref x i d domain keyId ht hd hi hst hg hvol hkey
    subst hd
    rw [exec_instanceExport, execInstanceExport, onDev_admin ht, instanceExport_eq hi hst hg hvol hkey] <;>
      cases (s.started x).sections i domain <;> rfl
  case import_ =>
    intro s ref x d h b n ht hd hlen hh hn hle hmagic hver hb
    subst hn hd
    rw [exec_instanceImport, execInstanceImport, onDev_admin ht, Dev.instanceImport]
    dsimp only
    rw [if_neg (by omega), hh]
    dsimp only
    rw [if_neg (by omega), if_neg (by simp [hmagic, hver]), hb] <;> dsimp only <;> cases (s.started x).importBlob s.core x b <;> rfl
  case destroy =>
    intro s ref x i d ht hd hi h0 hg hvol hc
    subst hi hd
    rw [exec_instanceDestroy, execInstanceDestroy, onDev_admin ht, Dev.instanceDestroy]
    dsimp only
    rw [if_neg (by simp only [h0, hg, hvol]; simp), hc]
  case map =>
    subst hd hv
    rw [exec_map, execMap, s.onDev_of_on _ hon, if_pos hm, mapCtrl_eq hb (by decide), if_pos rfl, mapWord]
  case unmap =>
    subst hd hv
    rw [exec_unmap, execUnmap, s.onDev_of_on _ hon, if_pos hm, mapCtrl_eq hb (by decide), if_neg (by decide), if_pos rfl, mapWord]
  case pasid =>
    subst hd hv
    rw [exec_setPasid, execSetPasid, s.onDev_of_on _ hon, if_pos hm, mapCtrl_eq hb (by decide), if_neg (by decide), if_neg (by decide), mapWord]
  case mapBusy =>
    intro s src w i hon hm hb hi
    simp only [List.mem_cons, List.not_mem_nil, or_false] at hi
    rcases hi with rfl | rfl | rfl
    · rw [exec_map, execMap, s.onDev_of_on _ hon, if_pos hm, mapCtrl_busy hb]
    · rw [exec_unmap, execUnmap, s.onDev_of_on _ hon, if_pos hm, mapCtrl_busy hb]
    · rw [exec_setPasid, execSetPasid, s.onDev_of_on _ hon, if_pos hm, mapCtrl_busy hb]
  case ack =>
    intro hne
    subst hl
    rw [exec_tlbInvalAck, execTlbInvalAck, s.onDev_of_on _ hon, Dev.tlbAck, hf]
    dsimp only
    rw [if_neg (by simpa only [List.isEmpty_iff] using hne)]
  case lastAck =>
    intro hnil d hd
    subst hd hl
    rw [exec_tlbInvalAck, execTlbInvalAck, s.onDev_of_on _ hon, Dev.tlbAck, hf]
    dsimp only
    rw [if_pos (by simpa only [List.isEmpty_iff] using hnil)]
  case claim =>
    intro hkey hfree
    rw [exec_managerClaim, execManagerClaim, s.onDev_of_on _ hon]
    dsimp only
    rw [if_neg (by simp [hup, hlink]), if_neg (by simpa using hkey), if_neg (by simp [hfree])]
  case claimHeld =>
    intro hkey hheld
    rw [exec_managerClaim, execManagerClaim, s.onDev_of_on _ hon]
    dsimp only
    rw [if_neg (by simp [hup, hlink]), if_neg (by simpa using hkey), if_pos (by simpa [Option.isSome_iff_ne_none] using hheld)]
  case claimUnknown =>
    intro hkey
    rw [exec_managerClaim, execManagerClaim, s.onDev_of_on _ hon]
    dsimp only
    rw [if_neg (by simp [hup, hlink]), if_pos (by rw [hkey]; rfl)]
  case install =>
    intro hkey hlen hid hzero
    rw [exec_migkeyInstall, execMigkeyInstall, s.onDev_of_on _ hon]
    dsimp only
    rw [if_neg (by simp [hup]), if_neg (by simpa using hkey), if_neg (by simp [hlen, hid, hzero])]
  case installBad =>
    intro hkey hbad
    rw [exec_migkeyInstall, execMigkeyInstall, s.onDev_of_on _ hon]
    dsimp only
    rw [if_neg (by simp [hup]), if_neg (by simpa using hkey), if_pos hbad]
  case installUnknown =>
    intro hkey
    rw [exec_migkeyInstall, execMigkeyInstall, s.onDev_of_on _ hon]
    dsimp only
    rw [if_neg (by simp [hup]), if_pos (by rw [hkey]; rfl)]

/-! ### The safety system -/

/-- Settles O30. -/
theorem safetyComplete : Obligations.SafetyComplete := by
  unfold Obligations.SafetyComplete
  refine ⟨?report, fun s p g hon hg hr ht hf => ⟨?swap, ?noReserve⟩, ?inject, ?injectTimeout, ?testClaim, ?testLate, ?testDone,
    fun s u d b n hon hb hn hr hd => ⟨?retestPass, ?retestFail⟩, fun s hon => ⟨?heartbeat, ?heartbeatTimeout, ?kick, ?watchdog, ?restarted⟩,
    fun s l g hon => ⟨?lane, ?flit, ?retrain⟩, ?age, ?prepare⟩
  case report =>
    intro s f hon
    rw [exec_faultReport, execFaultReport, s.onAll_of_on _ hon]
    dsimp only
    rw [if_neg hon]
  case swap =>
    intro q hq
    rw [exec_reserveSwap, execReserveSwap, s.onDev_of_on _ hon, Dev.reserveSwap, hg]
    dsimp only
    rw [if_neg (by simp only [hr, ht, hf]; simp), hq]
  case noReserve =>
    intro hq
    rw [exec_reserveSwap, execReserveSwap, s.onDev_of_on _ hon, Dev.reserveSwap, hg]
    dsimp only
    rw [if_neg (by simp only [hr, ht, hf]; simp), hq]
  case inject =>
    intro s u d hon hd
    subst hd
    rw [exec_checkerInject, execCheckerInject, s.onDev_of_on _ hon]
  case injectTimeout =>
    intro s u d hon hc hd
    subst hd
    rw [exec_injectTimeout, execInjectTimeout, s.onAll_of_on _ hon, injectFail]
    dsimp only
    rw [if_pos hc]
  case testClaim =>
    intro s p hon hs
    rw [exec_testClaim, execTestClaim, s.onDev_of_on _ hon, if_pos hs]
  case testLate =>
    intro s p g hon hg hst hany
    rw [exec_testLate, execTestLate, s.onDev_of_on _ hon, hg]
    exact congrArg (fun d => Host.Outcome.next (s.withDev d)) (if_pos (by simpa [hst, CoreSt.past] using hany))
  case testDone =>
    intro s p pass left hon ht
    rw [exec_structuralTestDone, execStructuralTestDone, s.onDev_of_on _ hon, if_pos ht]
  case retestPass =>
    subst hd hb hn
    rw [exec_unitRetest, execUnitRetest, s.onDev_of_on _ hon]
    dsimp only
    rw [if_pos hr, if_pos rfl]
  case retestFail =>
    subst hd hb hn
    rw [exec_unitRetest, execUnitRetest, s.onDev_of_on _ hon]
    dsimp only
    rw [if_pos hr, if_neg (by decide)]
  case heartbeat =>
    intro h
    rw [exec_registrarHeartbeat, execRegistrarHeartbeat, s.onDev_of_on _ hon, if_pos h]
  case heartbeatTimeout =>
    intro h
    rw [exec_heartbeatTimeout, execHeartbeatTimeout, s.onDev_of_on _ hon, if_pos (by simpa [CoreSt.past] using h)]
  case kick =>
    rw [exec_watchdogKick, execWatchdogKick, s.onDev_of_on _ hon]
  case watchdog =>
    intro h
    rw [exec_watchdogTimeout, execWatchdogTimeout, s.onAll_of_on _ hon, if_pos (by simpa [CoreSt.past] using h)]
  case restarted =>
    intro h
    rw [exec_registrarRestartDone, execRegistrarRestartDone, s.onDev_of_on _ hon, if_pos h]
  case lane =>
    rw [exec_laneFail, execLaneFail, s.onDev_of_on _ hon]
  case flit =>
    rw [exec_flitParityError, execFlitParityError, s.onDev_of_on _ hon]
  case retrain =>
    rw [exec_linkRetrainDone, execLinkRetrainDone, s.onDev_of_on _ hon]
  case age =>
    intro s r hon
    rw [exec_safAgeUpdate, execSafAgeUpdate, s.onDev_of_on _ hon]
  case prepare =>
    intro s src v hon hm hkey hgo
    rw [exec_returnPrepare, execReturnPrepare, s.onDev_of_on _ hon, if_pos hm, Dev.returnPrepare, if_neg (by simp [hkey, hgo])]

end Sys2Proof.Machine
end

section
/-!
PROOFS. Power, firmware updates and recovery complete (O31, O32, O33).
-/

namespace Sys2Proof.Machine

/-! ### Power and clocks -/

/-- Settles O31. -/
theorem powerComplete : Obligations.PowerComplete := by
  unfold Obligations.PowerComplete
  refine ⟨fun s r f mv hon hf hmv => ⟨?gallery, ?block⟩, ?failed, ?sample, ?evaluation, ?cap⟩
  case gallery =>
    intro hb hst d hd
    subst hd hmv
    rw [exec_canaryLoop, execCanaryLoop, s.onAll_of_on _ hon]
    dsimp only
    rw [if_neg hon, canaryLoop]
    dsimp only
    rw [hf]
    dsimp only
    rw [if_pos hb, if_neg hst]
    rfl
  case block =>
    intro hb
    subst hmv
    rw [exec_canaryLoop, execCanaryLoop, s.onAll_of_on _ hon]
    dsimp only
    rw [if_neg hon, canaryLoop]
    dsimp only
    rw [hf]
    dsimp only
    rw [if_neg hb]
    rfl
  case failed =>
    intro s r hon hf
    rw [exec_canaryLoop, execCanaryLoop, s.onAll_of_on _ hon]
    dsimp only
    rw [if_neg hon, canaryLoop]
    dsimp only
    rw [hf]
  case sample =>
    intro s n mv da hon
    exact railSample_of_on s n mv da hon
  case evaluation =>
    intro s r d hon hd
    subst hd
    exact ⟨_, rfl, (powerEvaluation_of_on s r hon).trans rfl⟩
  case cap =>
    intro s src v hon hm
    rw [exec_pwrCapWrite, execPwrCapWrite, s.onDev_of_on _ hon, if_pos hm, Dev.writeCap]

/-! ### Firmware updates and settings -/

/-- FW_ACTIVATE of a committed update. -/
theorem activate_eq {s : State} {ref : CmdRef} {x : Cmd} (ht : s.adminTakes ref 0xB2 x) (hopen : (s.started x).updateOpen = true)
    (hcommit : (s.started x).committed = true) (hid : (s.started x).updateId = le x.area 0 8) (hwhen : le x.area 8 1 ≤ 1) :
    activate ref (s.core, s.dev) =
      (if le x.area 8 1 = 1 then (s.core, ((s.started x).selectPending (s.started x).targetSlot).finish s.core x 0 0)
      else if s.core.mode ≠ .service then (s.core, (s.started x).finish s.core x 0 0x0600)
      else if !(s.started x).stagingOk then (s.core, (s.started x).finish s.core x 0 0x0402)
      else startActivation (some (x.inst, x.pair, x.cid)) (s.core, s.started x)) := by
  obtain ⟨_, htake, hlow | ⟨hrestart, hhalted⟩⟩ := ht
  · omega
  · rw [activate]
    dsimp only
    rw [htake]
    dsimp only
    rw [if_neg (by simp [Dev.registrarUp, hrestart, hhalted])]
    refine (if_neg ?_).trans rfl
    change ¬(1 < le x.area 8 1 ∨ (!(s.started x).updateOpen) = true ∨ (!(s.started x).committed) = true ∨ (s.started x).updateId ≠ le x.area 0 8)
    simp only [hopen, hcommit, hid]
    simp
    omega

/-- The first turn of FW_PIECE accepts the piece. -/
theorem startPiece_eq {d : Dev} {c : CoreSt} {x : Cmd} {id off len img : Nat} {e : Dev} (hid : id = le x.area 8 8) (hoff : off = le x.area 0x10 4)
    (hlen : len = le x.area 0x14 4) (himg : img = le x.area 0x18 4) (hun : d.unconfirmed = false) (h0 : id ≠ 0) (hoffset : off % 4096 = 0)
    (hunits : len % 4096 = 0) (hmin : 4096 ≤ len) (hmax : len ≤ 1048576) (hbytes : imageBytesOk img = true) (hlt : off < img)
    (hsame : d.updateOpen = true → d.updateId = id → d.acc.fw.imageBytes = img) (hheld : d.heldByOther c 1 = false)
    (he : e = (if d.updateOpen && d.updateOwner == 1 && d.updateId == id then d else d.openUpdate 1 id img).setFw
      (fun (f : FwUpdate) => { f with last := c.time.toNat })) :
    d.startPiece c x = { e with mgmt := { e.mgmt with piece := some {
      cmd := (x.inst, x.pair, x.cid), next := off, stop := min (off + len) img, cut := decide (img < off + len) } } } := by
  have hchecks : ¬(id = 0 ∨ off % 4096 ≠ 0 ∨ len % 4096 ≠ 0 ∨ len < 4096 ∨ 1048576 < len ∨ (!imageBytesOk img) = true ∨ img ≤ off ∨
      (d.updateOpen = true ∧ d.updateId = id ∧ d.acc.fw.imageBytes ≠ img)) := by
    rintro (h | h | h | h | h | h | h | ⟨h1, h2, h3⟩)
    · exact h0 h
    · exact h hoffset
    · exact h hunits
    · omega
    · omega
    · simp [hbytes] at h
    · omega
    · exact h3 (hsame h1 h2)
  subst he hid hoff hlen himg
  rw [Dev.startPiece]
  dsimp only
  rw [if_neg (by simp [hun]), if_neg hchecks, if_neg (by simp [hheld])]

/-- Settles O32. -/
theorem firmwareComplete : Obligations.FirmwareComplete := by
  unfold Obligations.FirmwareComplete
  refine ⟨?piece, ?turn, ?commit, fun s ref x d ht hd hopen hcommit hid => ⟨?later, ?now⟩, ?confirm, fun s src hon hm hup => ⟨?save, ?clear⟩⟩
  case piece =>
    intro s ref x id off len img d e ht hp hd hid hoff hlen himg hun h0 hoffset hunits hmin hmax hbytes hlt hsame hheld he
    subst hd
    rw [exec_fwPiece, execFwPiece, s.onDev_of_on _ ht.1, hp]
    dsimp only
    rw [State.admin_of_takes s ref _ x _ ht,
      startPiece_eq hid hoff hlen himg hun h0 hoffset hunits hmin hmax hbytes hlt hsame hheld he]
  case turn =>
    intro s ref x t hon hp hx hcmd hop
    rw [exec_fwPiece, execFwPiece, s.onDev_of_on _ hon, hp]
    dsimp only
    rw [hx]
    dsimp only
    rw [if_pos ⟨hcmd, hop⟩]
  case commit =>
    intro s ref x d result status ht hc
    rw [exec_fwCommit, execFwCommit, onDev_admin (f := fun c x d => _) ht]
    dsimp only
    rw [hc]
  case later =>
    intro hwhen
    subst hd
    rw [exec_fwActivate, execFwActivate, s.onAll_of_on _ ht.1, activate_eq ht hopen hcommit hid (by omega), if_pos hwhen]
    rfl
  case now =>
    intro hwhen hmode
    subst hd
    rw [exec_fwActivate, execFwActivate]
    refine onAll_ex ht.1 ?_
    have hact := activate_eq ht hopen hcommit hid (by omega)
    rw [if_neg (by omega : ¬le x.area 8 1 = 1), if_neg (by simp [hmode])] at hact
    by_cases hok : (s.started x).stagingOk = true
    · rw [if_pos hok, hact, if_neg (by simp [hok])]
      refine ⟨?_, rfl⟩
      change (changeMode .quiesced (s.core, s.started x)).1.mode = _
      rw [changeMode_core, if_pos (by rw [hmode]; rfl)]
    · rw [if_neg hok, hact, if_pos (by simp [hok])]
      rfl
  case confirm =>
    intro s ref x ht hun
    rw [exec_fwConfirm, execFwConfirm, onDev_admin (f := fun c x d => _) ht, if_pos hun]
  case save =>
    rw [exec_settingsSave, execSettingsSave, s.onDev_of_on _ hon, if_pos (by simp [hm, hup])]
  case clear =>
    rw [exec_settingsClear, execSettingsClear, s.onDev_of_on _ hon, if_pos (by simp [hm, hup]), Dev.clearSettings]

/-! ### Recovery -/

/-- In RECOVERY the device is powered. -/
theorem on_of_recovery {s : State} (h : s.core.mode = .recovery) : s.on := by
  unfold State.on
  rw [h]
  decide

/-- A UART frame that is in order and finds the recovery free or its own is taken. -/
theorem uartTake_eq {c : CoreSt} {d : Dev} {frame p : Bytes} {ty len seq : Nat} {f : Nat → Bytes → CoreSt × Dev → CoreSt × Dev}
    (hmode : c.mode = .recovery) (hframe : uartFrame frame = some (ty, seq, p, true))
    (hseq : d.mgmt.uartSeq = none ∨ d.mgmt.uartSeq = some seq) (hlen : p.length = len) (howns : d.rcvOwns 2 0 = true) :
    uartTake ty len frame f (c, d) = f seq p (c, d.rcvTake 2 0) := by
  rw [uartTake, if_neg (by simp [hmode]), hframe]
  dsimp only
  rw [if_neg (by simp), if_neg (by simp), if_neg (by rcases hseq with h | h <;> simp [h]), if_neg (by simp [hlen]), if_neg (by simp [howns])]

/-- Settles O33. -/
theorem recoveryComplete : Obligations.RecoveryComplete := by
  unfold Obligations.RecoveryComplete
  refine ⟨fun s p slot block d hmode hlink howns hd => ⟨?go, ?finish⟩, fun s p slot block hmode hlink howns => ⟨?goRefused, ?finishRefused⟩,
    fun s frame p seq ty d hmode hframe hseq howns hd => ⟨?data, ?uartFinish, ?speed⟩, ?speedChange, ?address⟩
  case go =>
    intro hblock e he
    subst he hd
    rw [exec_recoveryGo, execRecoveryGo, s.onAll_of_on _ (on_of_recovery hmode), recoveryGo,
      if_neg (by simp [rcvOpen, hmode, hlink]), if_neg (by simp [howns]), Dev.recoverBlock, if_neg (by omega)]
    rfl
  case finish =>
    subst hd
    rw [exec_recoveryFinish, execRecoveryFinish, s.onAll_of_on _ (on_of_recovery hmode), recoveryFinish,
      if_neg (by simp [rcvOpen, hmode, hlink]), if_neg (by simp [howns]), recoverFinish]
    dsimp only
    cases (s.dev.rcvTake 1 p.val).slotStatus slot <;> rfl
  case goRefused =>
    rw [exec_recoveryGo, execRecoveryGo, s.onAll_of_on _ (on_of_recovery hmode), recoveryGo,
      if_neg (by simp [rcvOpen, hmode, hlink]), if_pos (by simp [howns])]
    rfl
  case finishRefused =>
    rw [exec_recoveryFinish, execRecoveryFinish, s.onAll_of_on _ (on_of_recovery hmode), recoveryFinish,
      if_neg (by simp [rcvOpen, hmode, hlink]), if_pos (by simp [howns])]
    rfl
  case data =>
    intro hty hlen hslot hoff hlt e st hu
    subst hd hty
    rw [exec_uartData, execUartData, s.onAll_of_on _ (on_of_recovery hmode), uartTake_eq hmode hframe hseq hlen howns]
    dsimp only
    rw [if_neg (by omega), hu]
    cases st <;> rfl
  case uartFinish =>
    intro hty hlen hslot
    subst hty
    rw [exec_uartFinish, execUartFinish, s.onAll_of_on _ (on_of_recovery hmode), uartTake_eq hmode hframe hseq hlen howns, ← hd]
    clear hd
    dsimp only
    rw [if_neg (by omega), recoverFinish, show (d.uartAck seq 0).slotStatus (le p 0 1 == 1) = d.slotStatus (le p 0 1 == 1) from
      slotStatus_congr _ _ _ rfl]
    cases d.slotStatus (le p 0 1 == 1) <;> rfl
  case speed =>
    intro hty hlen hv e he
    subst he hd hty
    rw [exec_uartSpeed, execUartSpeed, s.onAll_of_on _ (on_of_recovery hmode), uartTake_eq hmode hframe hseq hlen howns]
    dsimp only
    rw [if_neg (by omega)]
    rfl
  case speedChange =>
    intro s v hon hv
    rw [exec_uartSpeedChange, execUartSpeedChange, s.onDev_of_on _ hon, hv]
  case address =>
    intro s a hon
    rw [exec_i3cDynamicAddress, execI3cDynamicAddress, s.onDev_of_on _ hon]

end Sys2Proof.Machine
end

section
/-!
PROOFS. The management endpoint and register writes complete (O34, O35).
-/

namespace Sys2Proof.Machine

/-! ### The management endpoint -/

/-- A command of the PLDM update that finds it in the state it needs. -/
theorem onBus_inPldm {s : State} {bus : MgmtBus} (h : s.hears bus) (hown : s.dev.updateOwner = 2) (hopen : s.dev.updateOpen = true)
    {st : Dev → PldmSt} {f : Dev → Dev} (hst : s.dev.mgmt.pldm = st s.dev) (hidle : st s.dev ≠ .idle) :
    s.onBus bus (fun x => (x.1, x.2.inPldm (st x.2) f)) = .next (s.withDev (f s.dev)) := by
  rw [onBus_of_hears s bus _ h]
  dsimp only
  rw [inPldm_of s.dev (st s.dev) f hst hidle hown hopen]
  rfl

/-- ACTIVATE_FIRMWARE of a committed update in READY_XFER. -/
theorem pldmActivate_eq {c : CoreSt} {d : Dev} {b : Bool} (hst : d.mgmt.pldm = .readyXfer) (hown : d.updateOwner = 2) (hopen : d.updateOpen = true)
    (hcommit : d.committed = true) : pldmActivate b (c, d) =
      (if b = false then (c, ((d.selectPending d.targetSlot).setPldm .idle).reply .done)
      else if c.mode ≠ .service then (c, d.reply .invalidState)
      else if !d.stagingOk then (c, d.reply (.failed 0x0402))
      else startActivation none (c, (d.setPldm .activate).reply .done)) := by
  rw [pldmActivate]
  rw [if_neg (by simp [hst, hown, hopen]), if_neg (by simp [hcommit])]
  cases b <;> rfl

/-- REQUEST_UPDATE opens an update of its own or goes on with it. -/
theorem requestUpdate_eq {d : Dev} {c : CoreSt} {version : Bytes} {n id : Nat} {e : Dev} (hst : d.mgmt.pldm = .idle)
    (hun : d.unconfirmed = false) (hbytes : imageBytesOk n = true) (hheld : d.heldByOther c 2 = false) (hid : id = pldmUpdateId version n)
    (he : e = (if d.updateOpen && d.updateOwner == 2 && d.updateId == id then d else d.openUpdate 2 id n)) :
    d.requestUpdate c version n = ((e.setFw (fun (f : FwUpdate) => { f with last := c.time.toNat })).setPldm .learn).reply .done := by
  subst he hid
  rw [Dev.requestUpdate]
  dsimp only
  rw [if_neg (by simp [hst]), if_neg (by simp [hun]), if_neg (by simp [hbytes]), if_neg (by simp [hheld])]

/-- An SPDM request over an open path is answered. -/
theorem spdmRequest_eq {s : State} {path : SpdmPath} {msg : Bytes} (hon : s.on) (hup : s.dev.mgmtUp s.core = true)
    (hopen : (match path with
      | .doe p => (s.dev.port p.val).linkUp
      | .mctp b => s.dev.busTaken b && decide (msg.length ≤ 4224)) = true) :
    exec (.spdmRequest path msg) s = .next (s.withDev
      (({ s.dev with fresh := s.dev.fresh + 1 } : Dev).reply (.text (Config.spdmResponse s.dev.fresh s.dev.measurements msg)))) := by
  rw [exec_spdmRequest, execSpdmRequest, s.onDev_of_on _ hon]
  dsimp only
  rw [if_pos]
  rw [hup, Bool.true_and]
  cases path <;> exact hopen

/-- Settles O34. -/
theorem managementComplete : Obligations.ManagementComplete := by
  unfold Obligations.ManagementComplete
  refine ⟨fun s bus h => ⟨?setEid, ?getEid, ?mctpVersion, ?messageType, ?uuid, ?getTid, ?setTid, ?types, fun type cs hcs => ⟨?version, ?commands⟩, ?pdr,
      ?sensor, ?stateSensor, ?effecter, ?coldReset, ?enterRecovery, ?fwConfirm, ?returnPrepare, ?identifiers, ?parameters, ?status⟩,
    ?requestUpdate, fun s bus h hown hopen => ⟨?passTable, ?update, ?data, ?transfer, ?verify, ?apply, fun hst hcommit => ⟨?activateLater, ?activateNow⟩,
      ?cancelComponent, ?cancel⟩,
    fun s msg d hon hup hd => ⟨?doe, ?mctp⟩⟩
  case setEid =>
    intro op eid v hv
    rw [exec_setEndpointId, execSetEndpointId, onBus_of_hears s bus _ h]
    simp only [hv]
    rfl
  case getEid => exact (exec_getEndpointId s bus).trans (onBusRead_of_hears s bus _ h)
  case mctpVersion => exact (exec_getMctpVersionSupport s bus).trans (onBusRead_of_hears s bus _ h)
  case messageType => exact (exec_getMessageTypeSupport s bus).trans (onBusRead_of_hears s bus _ h)
  case uuid => exact (exec_getEndpointUuid s bus).trans (onBusRead_of_hears s bus _ h)
  case getTid => exact (exec_gettid s bus).trans (onBusRead_of_hears s bus _ h)
  case setTid =>
    intro tid h0 h255
    rw [exec_settid, execSettid, onBus_of_hears s bus _ h]
    dsimp only
    rw [if_neg (by rintro (h | h) <;> contradiction)]
    rfl
  case types => exact (exec_getpldmtypes s bus).trans (onBusRead_of_hears s bus _ h)
  case version =>
    rw [exec_getpldmversion, execGetpldmversion, onBusRead_of_hears s bus _ h, if_pos (by rw [hcs]; rfl)]
  case commands =>
    rw [exec_getpldmcommands, execGetpldmcommands, onBusRead_of_hears s bus _ h, hcs]
  case pdr =>
    intro handle
    exact (exec_getpdr s bus handle).trans (onBusRead_of_hears s bus _ h)
  case sensor =>
    intro sensor
    exact (exec_getsensorreading s bus sensor).trans (onBusRead_of_hears s bus _ h)
  case stateSensor =>
    intro sensor
    exact (exec_getstatesensorreadings s bus sensor).trans (onBusRead_of_hears s bus _ h)
  case effecter =>
    intro e v
    rw [exec_setnumericeffectervalue, execSetnumericeffectervalue, onBus_of_hears s bus _ h]
    rfl
  case coldReset =>
    rw [exec_setstateeffecterstates, execSetstateeffecterstates, onBus_of_hears s bus _ h]
  case enterRecovery =>
    rw [exec_setstateeffecterstates, execSetstateeffecterstates, onBus_of_hears s bus _ h]
  case fwConfirm =>
    intro hun
    rw [exec_setstateeffecterstates, execSetstateeffecterstates, onBus_of_hears s bus _ h]
    dsimp only
    rw [if_pos hun]
    rfl
  case returnPrepare =>
    rw [exec_setstateeffecterstates, execSetstateeffecterstates, onBus_of_hears s bus _ h]
    rfl
  case identifiers => exact (exec_querydeviceidentifiers s bus).trans (onBusRead_of_hears s bus _ h)
  case parameters => exact (exec_getfirmwareparameters s bus).trans (onBusRead_of_hears s bus _ h)
  case status => exact (exec_getstatus s bus).trans (onBusRead_of_hears s bus _ h)
  case requestUpdate =>
    intro s bus version n id d h hst hun hbytes hheld hid hd
    rw [exec_requestupdate, execRequestupdate, onBus_of_hears s bus _ h]
    dsimp only
    rw [requestUpdate_eq hst hun hbytes hheld hid hd]
    rfl
  case passTable =>
    intro hst
    exact (exec_passcomponenttable s bus).trans (onBus_inPldm h hown hopen (st := fun _ => .learn) hst (by decide))
  case update =>
    intro hst
    exact (exec_updatecomponent s bus).trans (onBus_inPldm h hown hopen (st := fun _ => .readyXfer) hst (by decide))
  case data =>
    intro hst u data hu hlen
    rw [exec_requestfirmwaredata, execRequestfirmwaredata, onBus_of_hears s bus _ h]
    simp only [hst, hopen, hown, hu, hlen]
    rfl
  case transfer =>
    intro hst hmissing
    refine (exec_transfercomplete s bus).trans ((onBus_inPldm h hown hopen (st := fun _ => .download) hst (by decide)).trans ?_)
    rw [if_pos hmissing]
  case verify =>
    intro hst d r st hc
    refine (exec_verifycomplete s bus).trans ((onBus_inPldm h hown hopen (st := fun _ => .verify) hst (by decide)).trans ?_)
    rw [hc]
    cases st <;> rfl
  case apply =>
    intro hst
    exact (exec_applycomplete s bus).trans (onBus_inPldm h hown hopen (st := fun _ => .apply) hst (by decide))
  case activateLater =>
    rw [exec_activatefirmware, execActivatefirmware, onBus_of_hears s bus _ h, pldmActivate_eq hst hown hopen hcommit, if_pos rfl]
    rfl
  case activateNow =>
    intro hmode
    rw [exec_activatefirmware, execActivatefirmware, onBus_of_hears s bus _ h, pldmActivate_eq hst hown hopen hcommit, if_neg (by decide),
      if_neg (by simp [hmode])]
    cases s.dev.stagingOk <;> rfl
  case cancelComponent =>
    intro hst
    refine (exec_cancelupdatecomponent s bus).trans (onBus_inPldm h hown hopen (st := fun d => match d.mgmt.pldm with
      | .verify => .verify
      | .apply => .apply
      | _ => .download) ?_ ?_)
    · rcases hst with hst | hst | hst <;> rw [hst]
    · rcases hst with hst | hst | hst <;> rw [hst] <;> decide
  case cancel =>
    intro hidle hact
    refine (exec_cancelupdate s bus).trans (onBus_inPldm h hown hopen (st := fun d => if d.mgmt.pldm = .activate then .idle else d.mgmt.pldm) ?_ ?_)
    · rw [if_neg hact]
    · rw [if_neg hact]
      exact hidle
  case doe =>
    intro p hlink
    rw [spdmRequest_eq hon hup (by exact hlink), hd]
  case mctp =>
    intro bus hbus hlen
    rw [spdmRequest_eq hon hup (by simpa using ⟨hbus, hlen⟩), hd]

/-! ### Register writes -/

/-- A write in a virtual function's window reaches the window that its function presents. -/
theorem registerWrite_vf {s : State} {i : BitVec 8} {off : BitVec 26} {size : Nat} {v : Word} (hon : s.on) (hi : i.toNat ≠ 0)
    (hopen : s.dev.windowOpen s.core i.toNat = true) :
    exec (.registerWrite (.vf i) off size v) s = .next (s.withDev (s.dev.windowWrite s.core i.toNat off.toNat size v)) := by
  rw [exec_registerWrite, execRegisterWrite, s.onAll_of_on _ hon, regWrite]
  rw [if_pos ⟨hi, hopen⟩]
  rfl

/-- An aligned write of 8 bytes below the windows by a physical function reaches the manager view. -/
theorem regWrite_pf {c : CoreSt} {d : Dev} {p : Fin 4} {off : Nat} {v : Word} (hmode : c.mode ≠ .recovery) (hal : off % 8 = 0)
    (hlt : off < 0x2000000) : regWrite (.pf p) off 8 v (c, d) = managerWrite (.pf p) off v (c, d) := by
  rw [regWrite]
  rw [if_neg (by omega), if_neg (by omega), if_neg hmode]

/-- The manager's write of a register that no other operation stands behind. -/
theorem managerWrite_of_manager {c : CoreSt} {d : Dev} {src : Source} {off : Nat} {v : Word} (hmr : off ≠ R.devModeReq) (hrs : off ≠ R.devReset)
    (hm : d.isManager c src = true) (hlow : 0x100000 ≤ off) (hcap : off ≠ R.pwrCap) (htherm : off ≠ R.pwrTherm) (hret : off ≠ R.safReturn)
    (hfwu : off ≠ R.fwuCtrl) : managerWrite src off v (c, d) = (c, d.storeReg c src off v) := by
  rw [managerWrite]
  rw [if_neg hmr, if_neg hrs, if_neg (by omega), if_neg (by simp only [hcap, htherm, hret]; simp), if_neg (by simp [hm]), if_neg hfwu]

/-- A write of a register of the device block by a holder of the manager role. -/
theorem managerWrite_of_role {c : CoreSt} {d : Dev} {src : Source} {off : Nat} {v : Word} (hmr : off ≠ R.devModeReq) (hrs : off ≠ R.devReset)
    (hrole : d.holdsRole src = true) (hlow : off < 0x100000) : managerWrite src off v (c, d) = (c, d.storeReg c src off v) := by
  rw [managerWrite]
  rw [if_neg hmr, if_neg hrs, if_pos hlow, if_pos hrole]

/-- A register write and a counter write of a physical function are the manager view's write. -/
theorem registerWrite_pf {s : State} {p : Fin 4} {off : BitVec 26} {v : Word} {d : Dev} (hon : s.on) (hmode : s.core.mode ≠ .recovery)
    (hal : off.toNat % 8 = 0) (hlt : off.toNat < 0x2000000) (hw : managerWrite (.pf p) off.toNat v (s.core, s.dev) = (s.core, d)) :
    exec (.registerWrite (.pf p) off 8 v) s = .next (s.withDev d) ∧
      (isCounter off.toNat = true → exec (.counterWrite (.pf p) off v) s = .next (s.withDev d)) := by
  refine ⟨?register, fun hc => ?counter⟩
  case register =>
    rw [exec_registerWrite, execRegisterWrite, s.onAll_of_on _ hon, regWrite_pf hmode hal hlt, hw]
    rfl
  case counter =>
    rw [exec_counterWrite, execCounterWrite, s.onAll_of_on _ hon]
    rw [if_pos hc, regWrite_pf hmode hal hlt, hw]
    rfl

/-- Settles O35. -/
theorem registerWritesComplete : Obligations.RegisterWritesComplete := by
  unfold Obligations.RegisterWritesComplete
  refine ⟨fun s p off v hon hmode hal hlt hmr hrs => ⟨?manager, ?role⟩, fun s i off size v hon hi hopen hsize hal => ⟨?register, ?sq, ?cq, ?msix⟩⟩
  case manager =>
    intro hm hlow hcap htherm hret hfwu
    exact registerWrite_pf hon hmode hal hlt (managerWrite_of_manager hmr hrs hm hlow hcap htherm hret hfwu)
  case role =>
    intro hrole hlow
    exact registerWrite_pf hon hmode hal hlt (managerWrite_of_role hmr hrs hrole hlow)
  case register =>
    intro hlow h8
    rw [registerWrite_vf hon hi hopen, Dev.windowWrite, if_neg (by omega), if_pos hlow, if_pos h8, BitVec.ofNat_toNat, BitVec.setWidth_eq]
  case sq =>
    intro pair hp hoff
    rw [registerWrite_vf hon hi hopen, Dev.windowWrite, if_neg (by omega), if_neg (by omega), if_pos (by omega), if_pos (by omega),
      show (off.toNat - 0x1000) / 16 = pair by omega]
  case cq =>
    intro pair hp hoff
    rw [registerWrite_vf hon hi hopen, Dev.windowWrite, if_neg (by omega), if_neg (by omega), if_pos (by omega), if_neg (by omega), if_pos (by omega),
      show (off.toNat - 0x1000) / 16 = pair by omega]
  case msix =>
    intro hlo hhi
    rw [registerWrite_vf hon hi hopen, Dev.windowWrite, if_neg (by omega), if_neg (by omega), if_neg (by omega), if_pos ⟨hlo, hhi⟩]

end Sys2Proof.Machine
end
